-- ==== Sys2Proof/Word.lean ====
section
/-! DEFINITION. The word types of the module and the plainest arithmetic on them (R10: bit 0 is the least significant
bit, a range is written high:low). -/

namespace Sys2Proof

/-- One byte. -/
abbrev Byte := BitVec 8

/-- One 32-bit register word or parameter word. -/
abbrev Word := BitVec 32

/-- One 64-bit word: a global address, a cookie, a tally value. -/
abbrev W64 := BitVec 64

/-- A local address, bits 39:0 of a global address (R22). -/
abbrev Addr := BitVec 40

/-- A device id: rack in bits 17:6, slot in bits 5:0 (R219). -/
abbrev DevId := BitVec 18

/-- A dyadic rational m · 2^e, the exact values of every format of the module (R126). -/
structure Dy where
  m : Int
  e : Int
  deriving DecidableEq, Repr

end Sys2Proof
end

