-- ==== Sys2Proof/Syntax.lean ====
section
/-! DEFINITION. The commands of the module: one constructor of `Instr` per row of spec/opcode_table.json, with the
row's operands, and the types those operands have. -/

namespace Sys2Proof

/-- The header fields of a command packet that the host chooses (Table 11-5), OPCODE and LENGTH apart. -/
structure Hdr where
  tag     : BitVec 16
  ctx     : BitVec 4
  ordered : Bool
  irq     : Bool
  cookie  : W64
  deriving DecidableEq, Repr

/-- What made the host link reset (R304, R344). -/
inductive LinkEvent where
  | flr | hot | down | perst
  deriving DecidableEq, Repr

/-- One of the two regions of a cluster (R337). -/
inductive Region where
  | digital | array
  deriving DecidableEq, Repr

/-- A register of the watch that the management cores write (R30, R350). -/
inductive WatchReg where
  | ctl | stat
  deriving DecidableEq, Repr

/-- ARR_CFG or ARR_CHKCFG, the two array registers whose fields wait for a product boundary (R70). -/
inductive ArrCfgReg where
  | cfg | chkcfg
  deriving DecidableEq, Repr

/-- The tensor entry registers whose writes are held while the entry is owned (R160). -/
inductive FmtReg where
  | tcfg | tfix | thist (k : Nat)
  deriving DecidableEq, Repr

/-- The registers of one ring that the job writes (R252). -/
inductive RingReg where
  | cfg | listLo | listHi
  deriving DecidableEq, Repr

/-- The two REL_ registers whose writes wait for the commit ticks (R299). -/
inductive RelReg where
  | cfg | histCfg
  deriving DecidableEq, Repr

/-- What a consumer's check of its operand groups finds on the way from memory (R114, R270, R274, R287), beside what the check
planes in memory show: `mismatch` is a fault on the read path, `atRest` one that the re-read repeats, `hdrBad` names a group of
side B (true) or A, counted in stored order, whose entry holds a reserved bit (Table 5-3), and `ecc` the granule of the
operand that memory ECC cannot correct. -/
inductive CheckSeen where
  | good | mismatch | atRest
  | hdrBad (sideB : Bool) (group : Nat)
  | ecc (granule : Nat)
  deriving DecidableEq, Repr

/-- A value format of the vector engine (R117): BF16, FP32 or ZQn with n = `nm1` + 1. -/
inductive VFmt where
  | bf16
  | fp32
  | zq (nm1 : BitVec 3)
  deriving DecidableEq, Repr

/-- The queue a vector operation issues from (R120). -/
inductive VQueue where
  | drain | waystation | update
  deriving DecidableEq, Repr

/-- A vector operand as stored: its format and its bytes in address order (R117, R129). -/
structure VSrc where
  fmt   : VFmt
  bytes : List Byte
  deriving DecidableEq, Repr

/-- Where a vector operation runs and how its result is written (R117, R118, R137, R156). -/
structure VOp where
  core   : Nat
  queue  : VQueue
  dst    : VFmt
  /-- The tensor entry that the result is written through. -/
  entry  : BitVec 8
  /-- The launch (its number in the model's launch list) that issued the operation. -/
  launch : Nat
  deriving DecidableEq, Repr

/-- What the analogue parts of an array show in a calibration (R65 to R67). A deviation is that of a column's sum from the
one its cell image gives, in level units of the group's reference column (R66); a read and column not listed has none. -/
structure CalFit where
  /-- Pattern reads: read, physical column, deviation. -/
  pattern : List (Nat × Nat × Dy)
  /-- Verify reads 0 to 63. -/
  verify  : List (Nat × Nat × Dy)
  /-- Converters trimmed against the converter test input: converter, and each test code with the code it converted to. -/
  test    : List (Nat × List (Nat × Nat))
  deriving DecidableEq, Repr

/-- What the spec does not fix for a FORWARD, BACKWARD_IN or WEIGHT_GRAD entry (log entry 14): the input width less
one, the width of the stashed input less one, the output format, the table slot, the tensor entry of z (R153), and the
tokens of a micro-batch. -/
structure FwdForm where
  inN       : BitVec 3
  stashN    : BitVec 3
  out       : VFmt
  slot      : Option (BitVec 2)
  zEntry    : Byte
  tokens    : Nat
  /-- What the readers of the operands meet on the way from memory; a group is one of the input rows, or of the image or stash
  (side B). -/
  check     : CheckSeen := .good
  deriving DecidableEq, Repr

/-- A fabric request as its issuer or the arrival port presents it (Table 8-7). `inbound` is the port it arrived on,
none for a request of this module's own requesters on the die `die`. -/
structure Req where
  inbound : Option Nat
  die     : Bool
  gaddr   : W64
  src     : DevId
  ctx     : BitVec 4
  job     : Word
  epoch   : Word
  tag     : BitVec 16
  poison  : Bool
  /-- Bytes asked for by a LOAD; the payload's length otherwise. -/
  length  : Nat
  payload : List Byte
  deriving DecidableEq, Repr

/-- A fabric packet: the header of Table 8-7 and its payload. `resv` says that some reserved bit is set. -/
structure Pkt where
  gaddr   : W64
  ctx     : BitVec 4
  src     : DevId
  job     : Word
  epoch   : Word
  resp    : BitVec 4
  tag     : BitVec 16
  poison  : Bool
  kind    : BitVec 2
  length  : BitVec 13
  resv    : Bool
  payload : List Byte
  deriving DecidableEq, Repr

/-- A flit as it arrives or leaves (Table 8-3): the header word, the payload slot of 224 B, the CRC-64 of bytes 0 to 231 and the 16
parity bytes. -/
structure Flit where
  header  : W64
  slot    : List Byte
  crc     : W64
  parity  : List Byte
  deriving DecidableEq, Repr

/-- What a seal offer says (R179, R245, R265, R285). -/
structure OfferMsg where
  ctx       : BitVec 4
  epoch     : Word
  ok        : Bool
  invalid   : Bool
  uncurable : Bool
  milestone : W64
  deriving DecidableEq, Repr

/-- What a GO says (R180, R245, R265). -/
structure GoMsg where
  ctx       : BitVec 4
  epoch     : Word
  commitAt  : W64
  invalid   : Bool
  milestone : W64
  deriving DecidableEq, Repr

/-- RECALL, RECALL_ACK and REPLAYED (Table 10-2). -/
structure RecallMsg where
  ctx       : BitVec 4
  launch    : BitVec 16
  epoch     : Word
  milestone : W64
  tallies   : List (BitVec 14)
  deriving DecidableEq, Repr

/-- A caravan packet (R260, Table 9-5): one half of a tile. A block is its header byte and 32 code bytes. -/
structure CvPkt where
  src     : DevId
  ctx     : BitVec 4
  job     : Word
  epoch   : Word
  hop     : Nat
  poison  : Bool
  caravan : BitVec 8
  gather  : Bool
  half    : Bool
  resv    : Bool
  gen     : BitVec 4
  tile    : BitVec 24
  rowmap  : Word
  s       : BitVec 8
  blocks  : List Byte
  deriving DecidableEq, Repr

/-- The start-up facts that the environment settles while a phase runs (Table 14-1, Table 14-2): what the store
holds, what trained, what reproduced. -/
structure PhaseFacts where
  journalOk   : Bool := true
  torn        : Nat := 0
  unknownKind : Bool := false
  firmwareOk  : Bool := true
  otherFwOk   : Bool := true
  configOk    : Bool := true
  otherCfgOk  : Bool := true
  /-- Release (major · 256 + minor) and RB_INDEX that the headers of the images fitted at manufacture carry, firmware and
  configuration (Table 14-3); read for an image that the state does not hold. -/
  madeRelease : BitVec 16 := 0x0402#16
  madeFwRb    : Word := 0#32
  madeCfgRb   : Word := 0#32
  stacksOk    : BitVec 8 := 0xFF#8
  dieMode     : BitVec 2 := 1#2
  fpWeak      : Bool := false
  idLost      : Bool := false
  deriving DecidableEq, Repr

/-- The commands of the module. -/
inductive Instr where
  -- the opcodes of Table 11-9
  | nop (h : Hdr)
  | devInfo (h : Hdr)
  | devStatus (h : Hdr)
  | devReset (h : Hdr) (kind : Word)
  | devShutdown (h : Hdr)
  | devSleep (h : Hdr) (wake : Word)
  | memWrite (h : Hdr) (dst len : W64)
  | memRead (h : Hdr) (src : W64) (len : Word)
  | memCopy (h : Hdr) (src dst len : W64)
  | memFill (h : Hdr) (dst len pattern : W64)
  | regRead (h : Hdr) (addr : W64) (count : Word)
  | regWrite (h : Hdr) (addr : W64) (value : Word)
  | checkSeal (h : Hdr) (data plane : W64) (rows rowBytes kind : Word)
  | arrayWrite (h : Hdr) (what : Word)
  | arrayCalibrate (h : Hdr) (first count : Word)
  | arrayRefresh (h : Hdr) (first count : Word)
  | arrayFence (h : Hdr) (first count : Word)
  | layerRemove (h : Hdr) (layer : Word)
  | ctxCreate (h : Hdr) (job zero : Word) (milestone : W64)
  | ctxDestroy (h : Hdr)
  | launch (h : Hdr) (manifest : W64) (bytes : Word)
  | ctxStatus (h : Hdr)
  | coefWrite (h : Hdr) (clusters row : Word) (data : List Word)
  | ringSet (h : Hdr) (ring n pos zero : Word) (list : W64)
  | linkStatus (h : Hdr)
  | portRetrain (h : Hdr) (ports : Word)
  | epochAbandon (h : Hdr)
  | unitClear (h : Hdr) (kind unit column : Word)
  | twinPair (h : Hdr)
  | twinTakeover (h : Hdr) (count : Word) (entries : List (Word × Word))
  | twinPull (h : Hdr) (twin : Word)
  | twinUnpair (h : Hdr)
  | unitFence (h : Hdr) (kind unit : Word)
  | pwrLimit (h : Hdr) (watts : Word)
  | calSystem (h : Hdr)
  | calSave (h : Hdr) (dst : W64) (max : Word)
  | calRestore (h : Hdr) (src : W64) (bytes : Word)
  | monSample (h : Hdr) (channel count : Word) (dst : W64)
  | attest (h : Hdr) (nonce : List Word)
  | imageLoad (h : Hdr) (kind len : Word)
  | logRead (h : Hdr) (firstSeq : W64) (max : Word)
  | logInfo (h : Hdr)
  -- the host interface
  | commandWindowWrite (off : BitVec 12) (bytes : List Byte)
  | commandStart
  | replyPost
  | replyHeadWrite (value : Word)
  | replyWindowWrite (off : BitVec 12) (bytes : List Byte)
  | dataPortWrite (bytes : List (Option Byte))
  | dataPortRead (n : Nat)
  | dataPortIdleTimeout
  | resync
  | windowARead (off : BitVec 14) (n : Nat)
  | unsupportedRequest (addr : W64) (write : Bool)
  | configurationRequest (reg : BitVec 12) (write : Option Word)
  | hostLinkReset (ev : LinkEvent)
  | perstDeassert
  | hostLinkTrained (gen : BitVec 3) (width : BitVec 2)
  -- register accesses
  | registerWrite (addr : Addr) (value : Word)
  | rcRead (addr : Addr)
  | fabTimeLoRead
  | pwrWatchTimeLoRead
  | kick
  | watchdogExpiry
  | retrain (port : Nat)
  | portDisable (port : Nat)
  | arrCfgWrite (array : Nat) (reg : ArrCfgReg) (value : Word)
  | arrTrimWrite (array p : Nat) (value : BitVec 16)
  | fmtConfigWrite (core entry : Nat) (reg : FmtReg) (value : Word)
  | tableSlotWrite (core slot off : Nat) (value : Word)
  | tableSumReady (core slot : Nat)
  | coefRowWrite (cluster row off : Nat) (value : Word)
  | coefSumReady (cluster row : Nat)
  | passqHostWrite (core off : Nat) (value : Word)
  | invalidPolicyWrite (ctx : BitVec 4) (value : Word)
  | ringCfgWrite (ring : Nat) (reg : RingReg) (value : Word)
  | relCfgWrite (reg : RelReg) (value : Word)
  | regionWrite (cluster : Nat) (value : Word)
  | regionSwitchOff (cluster : Nat) (r : Region)
  | regionPowerOn (cluster : Nat) (r : Region) (phaseAmps16 : List Nat)
  | regionPowerOnDone (cluster : Nat) (r : Region)
  | dvfsRequest (value : Word)
  | dvfsChange
  | dvfsSettled
  | watchWrite (reg : WatchReg) (value : Word)
  | watchWriteAck (reg : WatchReg)
  | monChselWrite (value : Word)
  | ctiScaleWrite (cluster : Nat) (value : Word)
  | sidebandRead (off : BitVec 8)
  | sidebandWrite (off : BitVec 8) (value : Word)
  | sidebandDynamicAddress (addr : BitVec 7)
  | inBandInterrupt (bit : BitVec 3) (acked : Bool)
  | ibiRetry (acked : Bool)
  -- forward arrays
  | productIssue (array : Nat)
  | arrayRead (array : Nat) (analog : List (Nat × Dy))
  | readCompare (array : Nat)
  | reRead (array : Nat) (analog : List (Nat × Dy))
  | productBoundary (array : Nat)
  | calReadCountExpiry (array : Nat)
  | calTimerExpiry (array : Nat)
  | tjSample (cluster : Nat) (celsius : Dy)
  | calSlotFree (cluster : Nat)
  | calibrationEnd (array : Nat) (fit : CalFit)
  | writeGrant
  | writeFirstRow (array : Nat) (shadow : CheckSeen)
  | writeIterationEnd (array : Nat) (analog : List (Nat × Dy))
  | writeRowEnd (array : Nat) (shadow : CheckSeen)
  | writeEnd (array : Nat) (us : Nat)
  | wearCopy (cluster : Nat)
  -- matrix engine
  | productPass (core feedBubbles : Nat)
  | imageBuild (core : Nat)
  | descriptorEnqueue (launch core : Nat) (words : List Word)
  | passIssue (core : Nat) (check : CheckSeen)
  | drainRowTake (core : Nat) (accept : Bool)
  | engineIdle (core : Nat)
  | engineWake (core : Nat)
  | groupReread (core : Nat) (seen : CheckSeen)
  -- vector engine
  | add (o : VOp) (a b : VSrc)
  | sub (o : VOp) (a b : VSrc)
  | mul (o : VOp) (a b : VSrc)
  | fma (o : VOp) (a b c : VSrc)
  | max (o : VOp) (a b : VSrc)
  | min (o : VOp) (a b : VSrc)
  | abs (o : VOp) (a : VSrc)
  | cvt (o : VOp) (a : VSrc)
  | recip (o : VOp) (a : VSrc)
  | rsqrt (o : VOp) (a : VSrc)
  | sum (o : VOp) (a : VSrc)
  | amax (o : VOp) (a : VSrc)
  | table (o : VOp) (slot : BitVec 2) (a : VSrc)
  | tableD (o : VOp) (slot : BitVec 2) (xs g : VSrc)
  | wadd (core : Nat) (s : BitVec 8) (header : Byte) (codes : List Byte) (own : List Dy) (ownHeader : Byte)
  | vectorOpReserved (core launch : Nat) (code : BitVec 6)
  -- program phases
  | forward (launch : Nat) (form : FwdForm)
  | backwardIn (launch : Nat) (form : FwdForm)
  | weightGrad (launch : Nat) (form : FwdForm)
  | update (launch : Nat)
  | buildFwd (launch : Nat) (check : CheckSeen)
  | buildT (launch : Nat) (check : CheckSeen)
  | passes (launch : Nat)
  | tallyWait (launch : Nat)
  | tallyWaitComplete (launch : Nat)
  | tallySignal (launch : Nat)
  | put (launch : Nat)
  | stashReserve (launch : Nat)
  | launchEnd (launch : Nat)
  | updatePassEnd (launch : Nat) (check : CheckSeen)
  | stagingVerifyEnd (launch : Nat) (layer : BitVec 12) (ok : Bool)
  -- the seal
  | sealOffer (ctx : BitVec 4)
  | ledgerSummary (ctx : BitVec 4) (ring : BitVec 4) (epoch : Word) (fromPrev : Bool) (sum : Word) (milestone : W64)
  | offer (m : OfferMsg) (src : DevId)
  | go (m : GoMsg)
  | commitTick (ctx : BitVec 4)
  | layerApplyEnd (ctx : BitVec 4) (check : CheckSeen)
  | sealTimeout (ctx : BitVec 4)
  | goQueryTimeout (ctx : BitVec 4)
  | goQuery (ctx : BitVec 4) (epoch : Word) (milestone : W64) (src : DevId)
  | withdraw (ctx : BitVec 4) (epoch : Word) (src origin : DevId)
  | withdrawAck (ctx : BitVec 4) (epoch : Word)
  | hold (ctx : BitVec 4) (epoch : Word)
  | digestExchange (ctx : BitVec 4) (caravan : BitVec 8) (epoch : Word) (fromPrev : Bool) (digest : BitVec 128)
  | stuck (ctx : BitVec 4) (epoch : Word)
  -- caravans
  | caravanStart (ctx : BitVec 4) (caravan : BitVec 8) (epoch : Word)
  | caravanEntryWrite (caravan : BitVec 8) (epoch : Word)
  | tileReady (caravan : BitVec 8) (epoch : Word) (tile : BitVec 24)
  | caravanPacket (port : Nat) (p : CvPkt)
  | waystationSlotFree (cluster : Nat)
  | restart (ctx : BitVec 4) (caravan : BitVec 8) (epoch : Word) (gen : BitVec 4) (milestone : W64)
  -- recall and replay
  | launchRecall (launch : Nat)
  | recall (m : RecallMsg) (src : DevId)
  | recallAck (m : RecallMsg) (src : DevId)
  | replayed (m : RecallMsg) (src : DevId)
  | launchReplay (launch : Nat)
  | replayTimeout (launch : Nat)
  -- detections and unit tests
  | droopAlarm (cluster : Nat)
  | droopClear (cluster : Nat)
  | stackFail (stack : Nat)
  | coreSelfTest (core : Nat)
  | coreSelfTestEnd (core : Nat) (pass : Bool)
  -- twins
  | twinSyncEnd (ok : Bool)
  | mirrorCommit (ctx : BitVec 4) (epoch : Word)
  | landingFree
  | twinHeartbeat (port : Nat)
  | peerLost
  -- fabric requests
  | load (r : Req)
  | store (r : Req)
  | storeRelease (r : Req)
  | atomAdd (r : Req)
  | atomMax (r : Req)
  | atomMin (r : Req)
  | atomAnd (r : Req)
  | atomOr (r : Req)
  | atomXor (r : Req)
  | atomSwap (r : Req)
  | atomCas (r : Req)
  | courierStore (r : Req)
  | courierAdd (r : Req)
  | reservedAccessType (r : Req)
  | response (p : Pkt)
  | responseTimeout (tag : BitVec 16)
  -- fabric links and time
  | timeBeacon (high : BitVec 44)
  | stallNotice (tag : BitVec 16) (port : Nat)
  | flitReceive (port : Nat) (f : Flit)
  | replayRequest (port : Nat) (lseq : BitVec 12)
  | packetReceive (port vc : Nat) (p : Pkt) (flits : Nat)
  | flitTransmit (port : Nat)
  | stallTimerExpiry (port : Nat) (vc : BitVec 4)
  | courierWindowStart
  | courierAdmit (port : Nat)
  | laneFail (port lane : Nat)
  | portTrainEnd (port : Nat) (locked : Byte) (eyes : List Byte)
  | eyeWidthMeasure (port : Nat) (widths : List Byte)
  | frameMark
  | frameMiss
  | refLost
  | refReturn
  | clockLock (rref : Bool)
  -- power
  | phaseFault (cluster phase : Nat)
  | uncorePhaseFault (phase : Nat)
  | telemetry (watts : BitVec 12)
  | noticeSlot
  | noticeBad
  | ladderCompare
  | thermalCheck
  | uv48
  | uv48Lift
  | vaonLow (lost : Bool)
  | overtemp
  | wake
  | twinHb
  | flow
  | flowTrip
  | heartbeatStrobe
  | mrst
  | mrstRelease
  | inputRise
  | vaonGood
  | inputLost (vaonLost : Bool)
  -- reset and start-up
  | moduleReset
  | startupBegin
  | startupPhaseEnd (facts : PhaseFacts)
  | readyReport
  -- monitor and calibration
  | runningSet
  | channelHandover (samples : List (BitVec 12))
  | periodicFit
  | fitEnd (zeroSum fullSum : Nat) (bandgap : List (BitVec 12)) (stopped : Bool)
  | traceResult (array : Nat)
  | traceDeadline (array : Nat)
  | compaction
  | twinHeartbeatSend
  | flowPresent
  deriving DecidableEq, Repr

end Sys2Proof
end

