-- ==== Sys2Proof/Decode.lean ====
section
/-! DEFINITION. The command that a word of opcode-table bits spells. The opcode table gives no row any bits: a command of
this block is no encoded word, so there is none to decode. -/

namespace Sys2Proof

/-- The command spelled by an instruction word of `nbits` bits: none, since the table gives no row bits. -/
def decodeTableWord (_nbits _w : Nat) : Option Instr := none

end Sys2Proof
end

