-- ==== Sys2Proof/Config.lean ====
section
/-! DEFINITION. What the spec leaves to the implementation or to data it does not give: opaque constants without a body,
so that a claim holds whatever their value. -/

namespace Sys2Proof.Config

/-- A value that the spec leaves open, drawn with the counter `State.free` (log entry 5). -/
opaque freeNat : Nat → Nat

/-- The value that a signed configuration image gives a field marked cfg (R13): the image, none for the one fitted at
manufacture, and the field's number (log entry 6). -/
opaque cfgValue : Option (List Byte) → Nat → Nat

/-- SHA-256 of header bytes 0 to 511 of an image that the state does not hold: 0 firmware slot A, 1 slot B, 2 the
configuration (Table 14-5; log entry 6). -/
opaque heldDigest : Nat → List Byte

/-- Device Serial Number (Table 11-1). -/
opaque serialNumber : BitVec 64

/-- SHA-256 digest of the mask ROM (Table 14-5). -/
opaque romDigest : List Byte

/-- The ROM's digest of vendor public key k, 0 to 3 (R375). -/
opaque keyDigest : Nat → List Byte

/-- The identity certificate and the identity key's signature over a report (R380, R381). -/
opaque certificate : List Byte

opaque identitySign : List Byte → List Byte

/-- Payload of the IDENTITY and HELPER records as LOG_READ returns it, by kind (R389). -/
opaque shownIdentity : Nat → List Byte

/-- A word of a register block whose registers the spec does not list, by address (log entry 13). -/
opaque unlistedWord : Nat → BitVec 32

/-- Configuration space bytes of the host function, by offset (R302; log entry 16). -/
opaque configByte : Nat → Byte

/-- Bits of a configuration byte that a request may write, as the PCI Express base specification has them (log entry 16). -/
opaque configMask : Nat → Byte

/-- Offset in the caravanserai of the check list of the copy, by the device id of the module that holds it (log entry 18). -/
opaque twinChecks : DevId → Nat

/-- Ranges of this module's memory that the partner's mirror list names (R293; log entry 18). -/
opaque partnerRanges : DevId → List (Nat × Nat)

/-- Where a partner keeps its caravanserai, its landing area (offset and bytes) and its copy of the mirror list: the spec
does not say how the module learns them (log entry 18). -/
opaque twinBase : DevId → Nat

opaque twinLanding : DevId → Nat × Nat

opaque twinListOff : DevId → Nat

/-- The local address of a byte of a mirrored layer (context, LAYER, byte of the copy) on a spare that holds no record of
the layer (R298; log entry 20). -/
opaque layerHome : Nat → Nat → Nat → Nat

end Sys2Proof.Config
end

