-- ==== Sys2Proof/Machine/Operands.lean ====
section
/-! DEFINITION. The number formats (spec/05) and the FP32 arithmetic of the vector engine (spec/04): exact dyadic values,
one rounding to nearest with ties to even, the ZQn, BF16, FP32, master and ZB8 encodings. -/

namespace Sys2Proof.Machine

/-! ## Exact dyadic arithmetic -/

/-- 2^k as an integer. -/
def pow2 (k : Nat) : Int := ((2 ^ k : Nat) : Int)

/-- RNE(m / 2^k) of a magnitude: round to nearest, ties to even (R135). -/
def rneShift (m k : Nat) : Nat :=
  if k = 0 then m
  else
    let q := m >>> k
    let r := m - q <<< k
    let h := 1 <<< (k - 1)
    if h < r || (r == h && q % 2 == 1) then q + 1 else q

/-- RNE(m · 2^k) of an integer, symmetric about zero. -/
def rneScale (m k : Int) : Int :=
  match k with
  | .ofNat j => m * pow2 j
  | .negSucc j =>
    let a := Int.ofNat (rneShift m.natAbs (j + 1))
    if m < 0 then -a else a

/-- m · 2^k is an integer. -/
def scaleExact (m k : Int) : Bool :=
  match k with
  | .ofNat _ => true
  | .negSucc j => m.natAbs % 2 ^ (j + 1) == 0

/-- floor(log2 |m · 2^e|) for m ≠ 0 (R135). -/
def dyLog2 (d : Dy) : Int := Int.ofNat (Nat.log2 d.m.natAbs) + d.e

def dyAdd (a b : Dy) : Dy :=
  let e := min a.e b.e
  ⟨a.m * pow2 (a.e - e).toNat + b.m * pow2 (b.e - e).toNat, e⟩

def dyMul (a b : Dy) : Dy := ⟨a.m * b.m, a.e + b.e⟩

def dyNeg (a : Dy) : Dy := ⟨-a.m, a.e⟩

def dySub (a b : Dy) : Dy := dyAdd a (dyNeg b)

def dyOfInt (i : Int) : Dy := ⟨i, 0⟩

/-- a < b. -/
def dyLt (a b : Dy) : Bool := (dySub a b).m < 0

/-- a ≤ b. -/
def dyLe (a b : Dy) : Bool := (dySub a b).m ≤ 0

/-- Same value. -/
def dyEq (a b : Dy) : Bool := (dySub a b).m == 0

/-- floor of the value. -/
def dyFloor (d : Dy) : Int := if 0 ≤ d.e then d.m * pow2 d.e.toNat else d.m / pow2 (-d.e).toNat

/-- RNE of the value to an integer. -/
def dyRne (d : Dy) : Int := rneScale d.m d.e

/-! ## FP32 and BF16 (R132) -/

/-- A value of the vector engine: NaN, an infinity, or a finite dyadic with the sign that a zero keeps. -/
inductive Fv where
  | nan
  | inf (neg : Bool)
  | fin (neg : Bool) (d : Dy)
  deriving DecidableEq, Repr

/-- The least magnitude code of a format of `p` significand bits and least step 2^emin, rounded to nearest even, of the
magnitude m · 2^e; codes at or above 255 · 2^(p-1) are infinite. -/
def magCode (p : Nat) (emin : Int) (m : Nat) (e : Int) : Nat :=
  if m = 0 then 0
  else
    let top := Int.ofNat (Nat.log2 m) + e
    let q := max (top - Int.ofNat (p - 1)) emin
    let n := (rneScale (Int.ofNat m) (e - q)).toNat
    let c := (q - emin).toNat * 2 ^ (p - 1) + n
    if 255 * 2 ^ (p - 1) ≤ c then 255 * 2 ^ (p - 1) else c

/-- As `magCode`, rounded upward (AMAX of Table 5-8). -/
def magCodeUp (m : Nat) (e : Int) : Nat :=
  if m = 0 then 0
  else
    let top := Int.ofNat (Nat.log2 m) + e
    let q := max (top - 23) (-149)
    let k := e - q
    let n := match k with
      | .ofNat j => m * 2 ^ j
      | .negSucc j => (m + 2 ^ (j + 1) - 1) >>> (j + 1)
    let c := (q + 149).toNat * 2 ^ 23 + n
    if 0x7F800000 ≤ c then 0x7F800000 else c

/-- FP32 word of a value, one rounding (R118, R132). -/
def fvToF32 : Fv → Word
  | .nan => 0x7FC00000#32
  | .inf s => if s then 0xFF800000#32 else 0x7F800000#32
  | .fin s d => BitVec.ofNat 32 (magCode 24 (-149) d.m.natAbs d.e + if s then 2 ^ 31 else 0)

/-- BF16 word of a value, one rounding (R132). -/
def fvToBf16 : Fv → BitVec 16
  | .nan => 0x7FC0#16
  | .inf s => if s then 0xFF80#16 else 0x7F80#16
  | .fin s d => BitVec.ofNat 16 (magCode 8 (-133) d.m.natAbs d.e + if s then 2 ^ 15 else 0)

/-- The value of an FP32 word (R132). -/
def f32ToFv (w : Word) : Fv :=
  let n := w.toNat
  let s := n / 2 ^ 31 == 1
  let ex := n / 2 ^ 23 % 256
  let fr := n % 2 ^ 23
  let sg : Nat → Int := fun a => if s then -(Int.ofNat a) else Int.ofNat a
  if ex = 255 then (if fr = 0 then .inf s else .nan)
  else if ex = 0 then .fin s ⟨sg fr, -149⟩
  else .fin s ⟨sg (2 ^ 23 + fr), Int.ofNat ex - 150⟩

/-- A BF16 word as the FP32 word of the same value: bits 31:16 (R132). -/
def bf16ToF32 (b : BitVec 16) : Word := BitVec.ofNat 32 (b.toNat * 65536)

def isNanF32 (w : Word) : Bool := w.toNat % 2 ^ 31 > 0x7F800000

def isFiniteF32 (w : Word) : Bool := w.toNat % 2 ^ 31 < 0x7F800000

/-- The dyadic of a finite FP32 word; zero for any other. -/
def f32ToDy (w : Word) : Dy :=
  match f32ToFv w with
  | .fin _ d => d
  | _ => ⟨0, 0⟩

/-- FP32 word of a dyadic, zero as +0. -/
def dyToF32 (d : Dy) : Word := fvToF32 (.fin (d.m < 0) d)

/-! ## FP32 operations, one rounding each (R118) -/

def fvNeg : Fv → Fv
  | .nan => .nan
  | .inf s => .inf (!s)
  | .fin s d => .fin (!s) (dyNeg d)

/-- Exact sum; a zero sum of values that are not both negative zero is +0, as IEEE 754 rounds to nearest. -/
def fvAdd : Fv → Fv → Fv
  | .nan, _ => .nan
  | _, .nan => .nan
  | .inf a, .inf b => if a == b then .inf a else .nan
  | .inf a, .fin _ _ => .inf a
  | .fin _ _, .inf b => .inf b
  | .fin s d, .fin t f =>
    let r := dyAdd d f
    if r.m == 0 then .fin (s && t) ⟨0, 0⟩ else .fin (r.m < 0) r

/-- Exact product. -/
def fvMul : Fv → Fv → Fv
  | .nan, _ => .nan
  | _, .nan => .nan
  | .inf a, .inf b => .inf (a != b)
  | .inf a, .fin t f => if f.m == 0 then .nan else .inf (a != t)
  | .fin s d, .inf b => if d.m == 0 then .nan else .inf (s != b)
  | .fin s d, .fin t f => .fin (s != t) (dyMul d f)

def f32Add (a b : Word) : Word := fvToF32 (fvAdd (f32ToFv a) (f32ToFv b))

def f32Sub (a b : Word) : Word := fvToF32 (fvAdd (f32ToFv a) (fvNeg (f32ToFv b)))

def f32Mul (a b : Word) : Word := fvToF32 (fvMul (f32ToFv a) (f32ToFv b))

def f32Fma (a b c : Word) : Word := fvToF32 (fvAdd (fvMul (f32ToFv a) (f32ToFv b)) (f32ToFv c))

/-- a < b of values that are no NaN, +0 above −0 as R118 orders them for MAX and MIN. -/
def fvLt : Fv → Fv → Bool
  | .inf true, .inf true => false
  | .inf true, _ => true
  | _, .inf true => false
  | .inf false, _ => false
  | _, .inf false => true
  | .fin s d, .fin t f => dyLt d f || (d.m == 0 && f.m == 0 && s && !t)
  | _, _ => false

def f32Max (a b : Word) : Word :=
  if isNanF32 a || isNanF32 b then 0x7FC00000#32 else if fvLt (f32ToFv a) (f32ToFv b) then b else a

def f32Min (a b : Word) : Word :=
  if isNanF32 a || isNanF32 b then 0x7FC00000#32 else if fvLt (f32ToFv b) (f32ToFv a) then b else a

def f32Abs (a : Word) : Word := if isNanF32 a then 0x7FC00000#32 else a &&& 0x7FFFFFFF#32

/-- Integer square root by bits, `k` bits of result. -/
def isqrtBits (n : Nat) : Nat → Nat → Nat
  | 0, r => r
  | k + 1, r =>
    let c := r + 2 ^ k
    isqrtBits n k (if c * c ≤ n then c else r)

/-- 1 / a, correctly rounded: a quotient of 64 bits with its sticky bit is rounded once (R118). -/
def f32Recip (a : Word) : Word :=
  match f32ToFv a with
  | .nan => 0x7FC00000#32
  | .inf s => fvToF32 (.fin s ⟨0, 0⟩)
  | .fin s d =>
    if d.m == 0 then fvToF32 (.inf s)
    else
      let m := d.m.natAbs
      let q := 2 ^ 96 / m
      let st := if 2 ^ 96 % m = 0 then 0 else 1
      fvToF32 (.fin s ⟨(if s then -1 else 1) * Int.ofNat (2 * q + st), -97 - d.e⟩)

/-- 1 / sqrt(a), correctly rounded; a negative operand gives NaN, a zero the infinity of its sign. -/
def f32Rsqrt (a : Word) : Word :=
  match f32ToFv a with
  | .nan => 0x7FC00000#32
  | .inf s => if s then 0x7FC00000#32 else 0#32
  | .fin s d =>
    if d.m == 0 then fvToF32 (.inf s)
    else if s then 0x7FC00000#32
    else
      -- d = m · 4^h with m a natural number; 1/sqrt(d) = sqrt(4^48 / m) · 2^(-48-h)
      let odd := d.e % 2
      let m := d.m.natAbs * 2 ^ odd.toNat
      let h := (d.e - odd) / 2
      let n := 4 ^ 48 / m
      let y := isqrtBits n 49 0
      let st := if y * y * m = 4 ^ 48 then 0 else 1
      fvToF32 (.fin false ⟨Int.ofNat (2 * y + st), -49 - h⟩)

/-- SUM over the 64 lanes: the pairwise tree of R119. -/
def treeSum : Nat → List Word → Word
  | 0, l => l.headD 0#32
  | k + 1, l =>
    let rec pairs : List Word → List Word
      | a :: b :: r => f32Add a b :: pairs r
      | [a] => [a]
      | [] => []
    treeSum k (pairs l)

/-- Lane sums of R119: element e to lane e mod 64, ascending. -/
def laneSum (xs : List Word) (lane : Nat) : Word :=
  ((List.range ((xs.length + 63 - lane) / 64)).map fun j => xs.getD (64 * j + lane) 0#32).foldl f32Add 0#32

def f32Sum (xs : List Word) : Word := treeSum 6 ((List.range 64).map (laneSum xs))

/-- max abs(a), NaN if any NaN (Table 4-10). -/
def f32Amax (xs : List Word) : Word := xs.foldl (fun m x => f32Max m (f32Abs x)) 0#32

/-! ## Bytes -/

/-- A little-endian number of bytes (R10). -/
def leNat : List Byte → Nat
  | [] => 0
  | b :: r => b.toNat + 256 * leNat r

/-- `k` little-endian bytes of a number (R10). -/
def leBytes : Nat → Nat → List Byte
  | 0, _ => []
  | k + 1, n => BitVec.ofNat 8 n :: leBytes k (n / 256)

def wordOfBytes (l : List Byte) : Word := BitVec.ofNat 32 (leNat (l.take 4))

def bytesOfWord (w : Word) : List Byte := leBytes 4 w.toNat

/-- Successive pieces of `k` items; the last may be short. -/
def chunksFuel {α : Type} (k : Nat) : Nat → List α → List (List α)
  | 0, _ => []
  | f + 1, l => if l.isEmpty then [] else l.take k :: chunksFuel k f (l.drop k)

def chunks {α : Type} (k : Nat) (l : List α) : List (List α) := chunksFuel k l.length l

/-! ## ZQn (R127 to R129) -/

/-- A decoded block: its exponent byte and its element codes, none for an invalid element. -/
structure ZqBlock where
  e     : Nat
  codes : List (Option Int)
  deriving DecidableEq, Repr

/-- The meaning of an n-bit element code (Table 5-2). -/
def zqCode (n c : Nat) : Option Int :=
  if n = 1 then some (if c % 2 = 1 then 1 else -1)
  else
    let c := c % 2 ^ n
    if c < 2 ^ (n - 1) then some (Int.ofNat c)
    else if c = 2 ^ (n - 1) then none
    else some (Int.ofNat c - pow2 n)

/-- Bytes of a stored block (Table 5-1). -/
def zqBlockBytes (n : Nat) : Nat := 4 * n + 1

/-- A stored block: exponent byte, then 32 codes in one little-endian integer (R129); E = 0xFF makes all invalid. -/
def zqDecode (n : Nat) (bytes : List Byte) : ZqBlock :=
  let e := (bytes.headD 0#8).toNat
  let v := leNat (bytes.drop 1)
  ⟨e, (List.range 32).map fun i => if e = 255 then none else zqCode n (v / 2 ^ (n * i))⟩

/-- The value of a code: c · 2^(E − 126 − n) (R127). -/
def zqValue (n e : Nat) (c : Int) : Dy := ⟨c, Int.ofNat e - 126 - Int.ofNat n⟩

/-- An element decoded to FP32, exact; an invalid element is 0x7FC0_0000 (R139). -/
def zqToF32 (n e : Nat) : Option Int → Word
  | none => 0x7FC00000#32
  | some c => dyToF32 (zqValue n e c)

/-- The blocks of a row of bytes. -/
def zqRow (n : Nat) (bytes : List Byte) : List ZqBlock := (chunks (zqBlockBytes n) bytes).map (zqDecode n)

/-- The code bits that store an element: none is the invalid code (R128, R136); ZQ1 stores the sign bit. -/
def zqBits (n : Nat) : Option Int → Nat
  | none => if n = 1 then 1 else 2 ^ (n - 1)
  | some c => if n = 1 then (if 0 ≤ c then 1 else 0) else (c % pow2 n).toNat

/-- A block as stored (R129). -/
def zqBytes (n : Nat) (b : ZqBlock) : List Byte :=
  BitVec.ofNat 8 b.e :: leBytes (4 * n) (b.codes.foldr (fun c acc => zqBits n c + 2 ^ n * acc) 0)

/-! ## Encoding (R135 to R137, R408) -/

/-- A value presented for writing: its exact value, and the marks that R50, R148 and R154 give an output. -/
structure Pv where
  v       : Fv
  invalid : Bool := false
  /-- Marked saturated by an array clip (R50) or by a clamped accumulator (R148); a clamp presents its bound. -/
  satMark : Bool := false
  /-- The sticky bit of its accumulator (R146). -/
  sticky  : Bool := false
  clamp   : Bool := false
  deriving DecidableEq, Repr

/-- The finite dyadic of a presented value that is valid. -/
def Pv.finite (p : Pv) : Option Dy :=
  if p.invalid then none
  else match p.v with
    | .fin _ d => some d
    | _ => none

/-- The larger of two magnitudes. -/
def dyMaxAbs (a b : Dy) : Dy :=
  let b' : Dy := ⟨Int.ofNat b.m.natAbs, b.e⟩
  if dyLt a b' then b' else a

/-- The largest magnitude among the finite values (R135). -/
def maxMagnitude (vs : List Pv) : Dy :=
  vs.foldl (fun m p => match p.finite with
    | some d => dyMaxAbs m d
    | none => m) ⟨0, 0⟩

def clampE (e : Int) : Nat := if e < 0 then 0 else if 254 < e then 254 else e.toNat

/-- The block rule (R135). -/
def blockRule (n : Nat) (vs : List Pv) : Nat :=
  let m := maxMagnitude vs
  if m.m == 0 then 0
  else
    let em := dyLog2 m
    if n = 1 then clampE (em + 127)
    else
      let e := em + 128
      if rneScale m.m (m.e - (e - 126 - Int.ofNat n)) == pow2 (n - 1) then clampE (em + 129) else clampE e

/-- One encoded element: its code (none invalid), whether it saturated, whether its value changed (R136). -/
def encodeElt (n e : Nat) (p : Pv) : Option Int × Bool × Bool :=
  match p.finite with
  | none => (none, false, false)
  | some d =>
    let step := Int.ofNat e - 126 - Int.ofNat n
    if n = 1 then
      let neg := match p.v with
        | .fin _ x => decide (x.m < 0)
        | _ => false
      let c : Int := if neg then -1 else 1
      (some c, false, !dyEq d ⟨c, step⟩)
    else
      let q := rneScale d.m (d.e - step)
      let top := pow2 (n - 1) - 1
      if q.natAbs ≤ top.natAbs then (some q, false, !dyEq d ⟨q, step⟩)
      else (some (if d.m < 0 then -top else top), true, true)

/-- Pending statistics of one write (Table 5-8). -/
structure TStat where
  blocks  : Nat := 0
  zero    : Nat := 0
  sat     : Nat := 0
  dig     : Nat := 0
  inexact : Nat := 0
  winlow  : Nat := 0
  invalid : Nat := 0
  nonfin  : Nat := 0
  amax    : Nat := 0
  ovf     : Bool := false
  hmiss   : Bool := false
  /-- An element of the group was written saturated (Table 5-3). -/
  satGroup : Bool := false
  deriving DecidableEq, Repr

def TStat.add (a b : TStat) : TStat :=
  ⟨a.blocks + b.blocks, a.zero + b.zero, a.sat + b.sat, a.dig + b.dig, a.inexact + b.inexact, a.winlow + b.winlow,
    a.invalid + b.invalid, a.nonfin + b.nonfin, max a.amax b.amax, a.ovf || b.ovf, a.hmiss || b.hmiss,
    a.satGroup || b.satGroup⟩

/-- AMAX, WIN_LOW and the overflow bit of presented values (Table 5-8). -/
def presentStat (vs : List Pv) : TStat :=
  let m := maxMagnitude vs
  { amax := magCodeUp m.m.natAbs m.e, winlow := vs.countP (·.sticky), ovf := vs.any (·.clamp) }

/-- A block encoded from presented values: its exponent by the block rule or the tensor exponent given, and its counts
(R135, R136, R408, Table 5-8); `dig` says that the pass carried TAG. The spec does not say whether the finite elements of a ZQ1 block that one non-finite element makes
invalid count as inexact: the model counts none of them (DESIGN CHOICE, log entry 52). -/
def encodeBlock (n : Nat) (eT : Option Nat) (dig : Bool) (vs : List Pv) : ZqBlock × TStat :=
  let e := match eT with
    | some e => e
    | none => blockRule n vs
  let r := vs.map (encodeElt n e)
  let pad : List (Option Int) := List.replicate (32 - vs.length) (some (if n = 1 then 1 else 0))
  let bad := n == 1 && r.any (fun x => x.1 == none)
  let e' := if bad then 255 else e
  let codes := if bad then List.replicate 32 none else r.map (·.1) ++ pad
  let inv := if bad then vs.length else r.countP (fun x => x.1 == none)
  let allBad := inv == vs.length
  let satE := (r.zip vs).any (fun x => x.1.1 != none && (x.1.2.1 || x.2.satMark || x.2.clamp))
  let zero := n != 1 && r.all (fun x => x.1 == some 0)
    && vs.any (fun p => match p.finite with
      | some d => d.m != 0
      | none => false)
  (⟨e', codes⟩,
    ({ blocks := 1, zero := if zero then 1 else 0, sat := if satE && !allBad then 1 else 0,
       dig := if dig then 1 else 0, inexact := if bad then 0 else r.countP (·.2.2), invalid := inv,
       satGroup := satE && !allBad } : TStat).add (presentStat vs))

/-- The FP32 words written for presented values, and what they count (R148, Table 5-8). -/
def encodeF32 (dig : Bool) (vs : List Pv) : List Word × TStat :=
  let ws := vs.map fun p => if p.invalid then 0x7FC00000#32 else fvToF32 p.v
  (ws, ({ dig := if dig then (vs.length + 31) / 32 else 0, invalid := ws.countP isNanF32,
          nonfin := ws.countP fun w => !isNanF32 w && !isFiniteF32 w,
          satGroup := vs.any fun p => !p.invalid && (p.satMark || p.clamp) } : TStat).add (presentStat vs))

/-- The BF16 words written for presented values. -/
def encodeBf16 (dig : Bool) (vs : List Pv) : List (BitVec 16) × TStat :=
  let ws := vs.map fun p => if p.invalid then 0x7FC0#16 else fvToBf16 p.v
  (ws, ({ dig := if dig then (vs.length + 31) / 32 else 0, invalid := ws.countP fun w => isNanF32 (bf16ToF32 w),
          nonfin := ws.countP fun w => !isNanF32 (bf16ToF32 w) && !isFiniteF32 (bf16ToF32 w),
          satGroup := vs.any fun p => !p.invalid && (p.satMark || p.clamp) } : TStat).add (presentStat vs))

/-- Presented values written in a destination format: bytes in address order and counts. A row's ZQ blocks follow one
another (R129), the last padded (R408). -/
def encodeRow (dst : VFmt) (eT : Option Nat) (dig : Bool) (vs : List Pv) : List Byte × TStat :=
  match dst with
  | .fp32 => let r := encodeF32 dig vs; (r.1.flatMap bytesOfWord, r.2)
  | .bf16 => let r := encodeBf16 dig vs; (r.1.flatMap (fun w => leBytes 2 w.toNat), r.2)
  | .zq nm1 =>
    let n := nm1.toNat + 1
    let bs := (chunks 32 vs).map (encodeBlock n eT dig)
    (bs.flatMap (fun b => zqBytes n b.1), bs.foldl (fun t b => t.add b.2) {})

/-- Elements of a stored vector operand as FP32 words (R117, R139). -/
def vsrcWords (v : VSrc) : List Word :=
  match v.fmt with
  | .fp32 => (chunks 4 v.bytes).map wordOfBytes
  | .bf16 => (chunks 2 v.bytes).map fun b => bf16ToF32 (BitVec.ofNat 16 (leNat b))
  | .zq nm1 =>
    let n := nm1.toNat + 1
    (zqRow n v.bytes).flatMap fun b => b.codes.map (zqToF32 n b.e)

/-! ## The master (R133) -/

/-- ulp(b) = 2^k of a BF16 value: the exponent k. -/
def bf16UlpExp (b : BitVec 16) : Int :=
  let ex := b.toNat / 128 % 256
  if ex = 0 then -133 else Int.ofNat ex - 134

/-- m = b + r · ulp(b) / 256; none for a non-finite master. -/
def masterValue (b : BitVec 16) (r : Byte) : Option Dy :=
  match f32ToFv (bf16ToF32 b) with
  | .fin _ d => some (dyAdd d ⟨r.toInt, bf16UlpExp b - 8⟩)
  | _ => none

/-! ## ZB8 (R134) -/

def zb8Bump (h : Byte) : Nat := h.toNat / 32

def zb8Bit (h : Byte) (i : Nat) : Bool := h.toNat / 2 ^ i % 2 == 1

/-- A header byte of BUMP, POISON, DIGITAL, INVALID, SAT (Table 5-4). -/
def zb8Header (bump : Nat) (poison digital invalid sat : Bool) : Byte :=
  BitVec.ofNat 8 (32 * bump + 8 * poison.toNat + 4 * digital.toNat + 2 * invalid.toNat + sat.toNat)

end Sys2Proof.Machine
end

