-- ==== Sys2Proof/Machine/Codes.lean ====
section
/-! DEFINITION. The check codes and digests of the module: CRC-32C (R272), CRC-32 (R124), CRC-64 of ECMA-182 (Table 8-3,
the ledger), CRC-5 of a drover notice (Table 12-4), SHA-256 and the verification of an RSASSA-PSS signature (R375). -/

namespace Sys2Proof.Machine

/-! ## Cyclic codes -/

/-- One step of a code whose register shifts towards its least significant bit, `poly` in its reflected form. -/
def crcStepR (poly r : Nat) : Nat := if r % 2 = 1 then (r / 2) ^^^ poly else r / 2

def crcByteR (poly r : Nat) (b : Byte) : Nat :=
  let r := r ^^^ b.toNat
  crcStepR poly (crcStepR poly (crcStepR poly (crcStepR poly (crcStepR poly (crcStepR poly (crcStepR poly
    (crcStepR poly r)))))))

/-- Reflected code over bytes in address order, from a given register. -/
def crcR (poly init : Nat) (l : List Byte) : Nat := l.foldl (crcByteR poly) init

/-- The check value of R272: CRC-32C, initial value 0, no final inversion. -/
def crc32c (l : List Byte) : Word := BitVec.ofNat 32 (crcR 0x82F63B78 0 l)

/-- CRC-32 with the IEEE 802.3 polynomial (R124, R210); reflected, with initial value and final inversion of all ones
as IEEE 802.3 takes it (PRESUMED, log entry 15). -/
def crc32 (l : List Byte) : Word := BitVec.ofNat 32 (crcR 0xEDB88320 0xFFFFFFFF l ^^^ 0xFFFFFFFF)

/-- One byte of the CRC-64 of ECMA-182, most significant bit first. -/
def crc64Bit (r : Nat) : Nat :=
  if r / 2 ^ 63 = 1 then ((r * 2) % 2 ^ 64) ^^^ 0x42F0E1EBA9EA3693 else r * 2

def crc64Byte (r : Nat) (b : Byte) : Nat :=
  let r := r ^^^ (b.toNat * 2 ^ 56)
  crc64Bit (crc64Bit (crc64Bit (crc64Bit (crc64Bit (crc64Bit (crc64Bit (crc64Bit r)))))))

/-- The CRC-64 of ECMA-182 over bytes, from an initial register. -/
def crc64 (init : Nat) (l : List Byte) : W64 := BitVec.ofNat 64 (l.foldl crc64Byte init)

/-- The CRC-5 of a notice: polynomial 0x05, initial value 0x1F, bits 31 down to 5 (Table 12-4). -/
def crc5 (frame : Nat) : Nat :=
  (List.range 27).foldl (fun r i =>
    let top := (r / 16 + frame / 2 ^ (31 - i)) % 2
    let r := r * 2 % 32
    if top = 1 then r ^^^ 5 else r) 31

/-! ## SHA-256 (R375, R380) -/

def beNat (l : List Byte) : Nat := l.foldl (fun a b => a * 256 + b.toNat) 0

def beBytes (k n : Nat) : List Byte := (leBytes k n).reverse

/-- Integer cube root by bits, `k` bits of result. -/
def icbrtBits (n : Nat) : Nat → Nat → Nat
  | 0, r => r
  | k + 1, r => icbrtBits n k (if (r + 2 ^ k) ^ 3 ≤ n then r + 2 ^ k else r)

/-- The primes below 312: there are 64. -/
def shaPrimes : List Nat := (List.range 312).filter fun p => 2 ≤ p && (List.range 18).all fun d => d < 2 || d == p || p % d != 0

/-- The start value of the digest: 32 fraction bits of the square roots of the first eight primes. -/
def shaStart : List Word := (shaPrimes.take 8).map fun p => BitVec.ofNat 32 (isqrtBits (p * 2 ^ 64) 37 0)

/-- One addend a round: 32 fraction bits of the cube roots of the 64 primes. -/
def shaAddends : List Word := shaPrimes.map fun p => BitVec.ofNat 32 (icbrtBits (p * 2 ^ 96) 35 0)

/-- XOR of a word rotated right by each amount. -/
def spin (x : Word) (by' : List Nat) : Word := by'.foldl (fun y k => y ^^^ x.rotateRight k) 0#32

/-- The words that a round keeps: the eight of the digest in progress, and the next sixteen of the message. -/
structure ShaRun where
  lanes : Vector Word 8
  next  : Vector Word 16

/-- The message word that follows the sixteen held, and the window moved on by one. -/
def ShaRun.slide (r : ShaRun) : Vector Word 16 :=
  let n := r.next
  let fresh := n[0] + (spin n[1] [7, 18] ^^^ n[1] >>> 3) + n[9] + (spin n[14] [17, 19] ^^^ n[14] >>> 10)
  Vector.ofFn fun i => if h : i.val < 15 then n[i.val + 1] else fresh

/-- One round: the first message word and the round's addend enter lanes 0 and 4, and every other lane takes the one
before it. -/
def ShaRun.round (r : ShaRun) (addend : Word) : ShaRun :=
  let v := r.lanes
  let choose := v[6] ^^^ (v[4] &&& (v[5] ^^^ v[6]))
  let most := (v[0] &&& (v[1] ||| v[2])) ||| (v[1] &&& v[2])
  let enter := r.next[0] + addend + v[7] + choose + spin v[4] [6, 11, 25]
  { lanes := Vector.ofFn fun i =>
      if i.val = 0 then enter + most + spin v[0] [2, 13, 22]
      else if i.val = 4 then enter + v[3]
      else v[i.val - 1]'(by have := i.isLt; omega)
    next := r.slide }

/-- A block of 64 bytes enters the digest. -/
def shaBlock (digest : Vector Word 8) (block : List Byte) : Vector Word 8 :=
  let words := (chunks 4 block).map fun b => BitVec.ofNat 32 (beNat b)
  let start : ShaRun := ⟨digest, Vector.ofFn fun i => words.getD i.val 0#32⟩
  let done := (shaAddends.foldl ShaRun.round start).lanes
  Vector.ofFn fun i => digest[i] + done[i]

/-- SHA-256 of a byte string: padded by a one bit, zeros and its length in bits to whole blocks. -/
def sha256 (l : List Byte) : List Byte :=
  let zeros := List.replicate ((119 - l.length % 64) % 64) 0#8
  let padded := l ++ 0x80#8 :: (zeros ++ beBytes 8 (8 * l.length))
  let digest := (chunks 64 padded).foldl shaBlock (Vector.ofFn fun i => shaStart.getD i.val 0#32)
  digest.toList.flatMap fun w => beBytes 4 w.toNat

/-! ## RSASSA-PSS with SHA-256, MGF1 with SHA-256, salt of 32 B, modulus of 3,072 bits (R375) -/

/-- b^e mod n by the bits of e, at most `k` of them. -/
def powMod (n : Nat) : Nat → Nat → Nat → Nat
  | 0, _, _ => 1 % n
  | k + 1, b, e => (if e % 2 = 1 then b else 1) * powMod n k (b * b % n) (e / 2) % n

def mgf1 (seed : List Byte) (len : Nat) : List Byte :=
  ((List.range ((len + 31) / 32)).flatMap fun i => sha256 (seed ++ beBytes 4 i)).take len

/-- Verification of a PSS signature over a message: public modulus, exponent and signature as numbers. -/
def pssVerify (n e sig : Nat) (msg : List Byte) : Bool :=
  let em := beBytes 384 (powMod n 64 sig e)
  let db := em.take 351
  let h := (em.drop 351).take 32
  let mask := mgf1 h 351
  let dbu := (db.zip mask).map fun p => p.1 ^^^ p.2
  let dbz := match dbu with
    | b :: r => (b &&& 0x7F#8) :: r
    | [] => []
  let salt := dbz.drop 319
  decide (sig < n) && em.drop 383 == [0xBC#8] && decide ((em.headD 0#8).toNat < 128)
    && dbz.take 319 == List.replicate 318 0#8 ++ [1#8]
    && sha256 (List.replicate 8 0#8 ++ sha256 msg ++ salt) == h

end Sys2Proof.Machine
end

