-- ==== Sys2Proof/Machine/State.lean ====
section
/-! DEFINITION. The state of the module: every register, memory, queue, mode and pin that the spec names, as plain data.
Registers are held as the words the spec numbers, so that reserved bits and whole-word reads keep their meaning; their
fields are read and set by the named operations of Machine/Ops.lean. Units of one kind are held in a `Tab`, a table in
canonical form that lists only the units that differ from their reset record. -/

namespace Sys2Proof.Machine

/-- A sparse table keyed by unit number: keys strictly rising, no entry equal to the record an unlisted unit has. -/
abbrev Tab (α : Type) := List (Nat × α)

/-- Why a command stops the machine. No command of this module does: its spec gives every command an effect, a
discard, a response or a status. The one reason stands for a unit number that the module does not have. -/
inductive Fault where
  /-- Raised by a command whose operand names a unit beyond Table 1-1, Table 8-1 or Table 12-2 (array 4,096, port 18):
  no such unit exists, so no event comes from it. Safe. -/
  | noSuchUnit (unit : Nat)
  deriving DecidableEq, Repr

/-- Why a command has no meaning in the model. -/
inductive Refusal where
  /-- Raised by exec for a row that has no meaning yet. Safe. -/
  | notModelled (mnemonic : String)
  deriving DecidableEq, Repr

/-- A command packet as taken (Table 11-5): opcode, header, LENGTH, reserved header bits, parameter words. -/
structure Packet where
  opcode : BitVec 16
  hdr    : Hdr
  length : BitVec 16
  resvOk : Bool
  words  : List Word
  /-- Its reply is dropped: a host link reset came after it was taken (R304). -/
  muted  : Bool := false
  /-- Its place in the order in which commands were taken (R312). -/
  seq    : Nat := 0
  deriving DecidableEq, Repr

/-- A reply before it is posted (Table 11-8). -/
structure Reply where
  status : BitVec 16
  hdr    : Hdr
  opcode : BitVec 16
  res    : List Word
  /-- The place of its command in the order taken (R312). -/
  seq    : Nat
  deriving DecidableEq, Repr

/-- A section of an epoch's mirror that waits for the partner's landing (R296): context, offset in the caravanserai, bytes, poison, and
its check groups (offset, bytes, entry). -/
structure HeldSection where
  ctx    : BitVec 4
  dst    : Nat
  bytes  : List Byte
  poison : Bool
  checks : List (Nat × Nat × List Byte)
  deriving DecidableEq, Repr

/-- A load that TWIN_PULL makes from the twin's caravanserai (R298, Table 10-6), by its offset there. -/
inductive Pull where
  /-- The caravanserai header. -/
  | header
  /-- An entry of the copy of the mirror list. -/
  | entry (off : Nat)
  /-- Bytes that go to a local address. -/
  | region (off dst len : Nat)
  /-- Bytes of a LAYER entry, from byte `pos` of its copy: the spare holds no record that gives their addresses (log entry
  20). -/
  | layer (off : Nat) (ctx : BitVec 4) (number : Nat) (pos len : Nat)
  /-- The number of records of the check list, and part of the list (log entry 18). -/
  | checkCount (off : Nat)
  | checks (off len : Nat)
  deriving DecidableEq, Repr

/-- What a started command still waits for (the completion column of Table 11-9). -/
inductive Task where
  /-- MEM_WRITE: address of the first byte not yet stored, bytes still to take, bytes answered OK, bytes taken that wait
  for the rest of their 64-byte granule, and the stores not yet answered with their bytes (R316, R320). -/
  | memWrite (dst : W64) (left written : Nat) (held : List Byte) (tags : List (BitVec 16 × Nat))
  /-- IMAGE_LOAD: kind, bytes still to take, bytes taken so far in order (R376). -/
  | imageLoad (kind : BitVec 4) (left : Nat) (got : List Byte)
  /-- MEM_COPY: next source and destination, bytes left and done, the tag of the request awaited. -/
  | memCopy (src dst : W64) (left done : Nat) (wait : Option (BitVec 16))
  /-- MEM_FILL: next address, bytes left and done, the pattern, the tag awaited. -/
  | memFill (dst : W64) (left done : Nat) (pattern : W64) (wait : Option (BitVec 16))
  /-- MEM_READ: next source, bytes left, bytes read, poison met, the tag awaited; it runs once bound to the outbound
  stream (R315). -/
  | memRead (src : W64) (left : Nat) (got : List Byte) (poison : Bool) (wait : Option (BitVec 16))
  /-- A command whose bytes wait for the outbound stream (R315, R318). -/
  | outbound (bytes : List Byte) (res : List Word) (status : BitVec 16)
  /-- ARRAY_WRITE: arrays still writing; rows, stuck cells and fenced arrays counted, and the worst status met. -/
  | arrayWrite (arrays : List Nat) (rows stuck fenced status : Nat)
  /-- ARRAY_CALIBRATE or ARRAY_REFRESH: arrays awaited; passed, fenced, replaced counted. -/
  | arrayCal (arrays : List Nat) (passed fenced replaced : Nat)
  /-- CTX_DESTROY: layers whose record waits for a write to end; launches ended. -/
  | ctxDestroy (layers : List (BitVec 12)) (ended : Nat)
  /-- LAUNCH: the launch in the launch list. -/
  | launch (uid : Nat)
  /-- PORT_RETRAIN: ports still training. -/
  | retrain (ports : List Nat)
  /-- UNIT_CLEAR of a core or an array: the retest in progress. -/
  | retest (kind : BitVec 4) (unit : Nat)
  /-- TWIN_PAIR: the initial copy runs. -/
  | twinPair
  /-- TWIN_UNPAIR: the landing in progress is not yet acknowledged. -/
  | twinUnpair
  /-- TWIN_PULL: the twin, loads still to make, loads of entries made, bytes of entries pulled, and the tag awaited. -/
  | twinPull (twin : DevId) (todo got : List Pull) (done : Nat) (wait : Option (BitVec 16))
  /-- CAL_SYSTEM: stage (0 waits, 1 fits A, 2 fits B, 3 verifies channel 0, 4 verifies channel 1), fits passed, squares summed. -/
  | calSystem (stage : Nat) (okA okB : Bool) (sumSq : Nat)
  /-- CAL_SAVE: arrays that calibrate, whose records are still to be taken (R368). -/
  | calSave (dst : Nat) (arrays : List Nat)
  /-- CAL_RESTORE: waits for the fit in progress, then for the arrays that calibrate (R369). -/
  | calRestore (begun : Bool) (src bytes : Nat) (arrays : List Nat) (restored skipped : Nat)
  /-- MON_SAMPLE: channel, codes left, next address, codes written. -/
  | monSample (channel : Nat) (left next done : Nat)
  /-- REG_WRITE of a watch register, unacknowledged (R30). -/
  | watch (reg : WatchReg)
  deriving DecidableEq, Repr

/-- A started command. -/
structure Run where
  pkt  : Packet
  task : Task
  deriving DecidableEq, Repr

/-- What the module sends or shows outside its boundary, newest first in `State.out`: the model's own record. -/
inductive Out where
  /-- An MSI-X message of a vector (R305). -/
  | msix (vector : Nat)
  /-- Data that completes a host read (R303, R318) or a configuration read (R302). -/
  | readData (bytes : List Byte)
  /-- Unsupported Request (R302). -/
  | unsupported
  /-- A flit on a port: header and payload slot (R216). -/
  | flit (port : Nat) (f : Flit)
  /-- A drover notice frame (Table 12-4). -/
  | notice (frame : Word)
  /-- An in-band interrupt with its mandatory byte (R405). -/
  | ibi (byte : Byte)
  /-- A sideband read's word (R404). -/
  | sideband (w : Word)
  /-- A reset of the module begins with this cause (R345). -/
  | resetBegins (cause : BitVec 4)
  deriving DecidableEq, Repr

/-- The host interface of Host link and command packets. -/
structure HostIf where
  /-- Command window, 4 KiB, bytes not listed are zero (R306). -/
  window   : List (Nat × Byte)
  /-- Reply window, 64 slots of 64 B, bytes not listed are zero (R306, R314). -/
  replies  : List (Nat × Byte)
  /-- MSI-X table, 8 entries of 16 B, and pending bit array (Table 11-4). -/
  msixTab  : List (Nat × Byte)
  msixPba  : Byte
  /-- HST_CMD_STAT.READY (R309). -/
  ready    : Bool
  /-- READY waits for INFLIGHT to fall below 256 (R312). -/
  full     : Bool
  /-- Commands taken and not started, oldest first (R312). -/
  taken    : List Packet
  /-- Commands started and not complete. -/
  running  : List Run
  /-- Completed commands whose replies are not posted, oldest first (R314). -/
  replied  : List Reply
  head     : Word
  tail     : Word
  dpCtl    : Word
  orphan   : Word
  irqCause : Word
  err      : Word
  linkStat : Word
  /-- HST_DP_STAT.IN_STATE is DRAINING (R317). -/
  draining : Bool
  /-- Staged outbound bytes not yet read (R318). -/
  outBuf   : List Byte
  /-- The outbound stream holds staged bytes of a command until all are read (R318). -/
  outBound : Bool
  /-- The host link is up (R301, R304). -/
  linkUp   : Bool
  /-- PERST# is asserted (R396). -/
  perst    : Bool
  /-- Configuration bytes that a request has written (R302); the others read as Config.configByte gives. -/
  config   : List (Nat × Byte)
  /-- DEV_SHUTDOWN has completed (R311). -/
  shutdown : Bool
  /-- Commands taken since the reset (R312). -/
  nextSeq  : Nat
  deriving DecidableEq, Repr

/-- A rewrite's request for a write grant (R79 to R82): the seal stamp (none for ARRAY_WRITE) and WR_ORDER. -/
structure GrantReq where
  stamp   : Option Nat
  order   : BitVec 12
  deriving DecidableEq, Repr

/-- A write or refresh in its frame (R71 to R76, R80, R88). -/
structure WriteOp where
  refresh  : Bool
  startup  : Bool
  /-- Set by ARRAY_WRITE: the end of the write sets IMAGE_VALID (R90). -/
  command  : Bool
  rows     : List Nat
  row      : Option Nat
  /-- Target levels of the row's 528 cells, sparse: columns not listed hold level 0. -/
  target   : List (Nat × Nat)
  /-- Iterations ended in this row. -/
  iter     : Nat
  /-- Columns below and above the band at the last verify. -/
  low      : List Nat
  high     : List Nat
  /-- The row's last verify has ended (R74). -/
  rowEnded : Bool
  /-- Amplitude in mV of the last SET and RESET pulse that each cell of the row took in this row write (R73). -/
  setMv    : Tab Nat
  resetMv  : Tab Nat
  /-- VBAND as it stood at the row's start (Table 3-5). -/
  vband    : Nat
  /-- Groups of 16 rows that took a pulse (R91). -/
  groups   : List Nat
  stuck    : Nat
  rowsDone : Nat
  mismatch : Nat
  /-- Every row has ended; VPROG is being disconnected (Table 3-3). -/
  closing  : Bool
  deriving DecidableEq, Repr

/-- One span of a product's inputs, aligned under R46: e_max and the aligned element codes of its rows. -/
structure Span where
  emax  : Nat
  codes : List Int
  deriving DecidableEq, Repr

/-- A forward product on one array (R45, R84): the launch, token and input entry it serves, its input blocks as stored,
the spans as aligned (R46), and the weighted sums gathered so far for each span (R51). -/
structure Product where
  launch  : Nat
  token   : Nat
  inN     : Nat
  tIn     : Nat
  blocks  : List ZqBlock
  spans   : List Span
  invalid : Bool
  /-- ΣD-sums per span and weight, in level units times the plane weights (R51). -/
  acc     : List (List Int)
  /-- Next read: plane and span index. -/
  plane   : Nat
  span    : Nat
  /-- Weights marked saturated by a clip (R50). -/
  sat     : List Nat
  deriving DecidableEq, Repr

/-- A read in the pipeline (R57): its plane and span, and the codes of the 528 columns. -/
structure ReadRes where
  plane : Nat
  span  : Nat
  codes : List Nat
  deriving DecidableEq, Repr

/-- A calibration in progress (R65 to R67, R364). -/
structure CalOp where
  /-- It holds one of the cluster's 16 slots for periodic calibrations (Table 2-9). -/
  periodic : Bool
  /-- CAL_CTI_SCALE as it stood at the start (R366). -/
  cti      : BitVec 16
  /-- The cluster's temperature reading at the start of the fit, as TJ_CAL takes it (R63; log entry 49). -/
  tj       : BitVec 10
  deriving DecidableEq, Repr

/-- One forward array and its registers (R69, R94, Table 13-12). -/
structure ArrU where
  state    : Word
  cfg      : Word
  chkcfg   : Word
  calp     : Word
  qual     : Word
  err      : Word
  evcnt    : Word
  clipCnt  : Word
  reads    : Word
  wrcfg    : Word
  wrstat   : Word
  wrtime   : Word
  wrerr    : Word
  spareMap : Word
  /-- Cell image: level of cell 528 · row + column; cells not listed hold level 0 (Table 2-15). -/
  image    : List (Nat × Nat)
  /-- ARR_TRIM[p]; trims not listed are 0. -/
  trims    : Tab (BitVec 16)
  /-- Trim writes that wait for the next drive tick (R70). -/
  trimHeld : Tab (BitVec 16)
  /-- SPAN and RANGE, K and ZMAX writes that wait for a product boundary (R70). -/
  cfgHeld  : Option Word
  chkHeld  : Option Word
  dirty    : BitVec 512
  /-- Wear record (Table 3-12). -/
  writes    : Word
  refreshes : Word
  pulses    : W64
  stuck     : Word
  hours     : Word
  groups    : Tab Word
  /-- Trace area (Table 13-12). -/
  traceRef  : Tab (BitVec 16)
  traceLast : Tab (BitVec 16)
  traceTj   : Tab (BitVec 16)
  /-- Traces taken; the group of the last is one less, modulo 8 (R364). -/
  traces    : Nat
  /-- Rewrite request waiting for a grant, and the rewrite grant held (R81). -/
  request  : Option GrantReq
  /-- WR_ORDER as it stood when the waiting refresh was asked for (Table 3-11). -/
  refreshOrder : BitVec 12
  granted  : Bool
  /-- The oldest seal whose dirty bits the map holds (R79). -/
  stamp    : Option Nat
  /-- ARRAY_WRITE asked for the waiting write: full mode, or difference mode (R90). -/
  byCommand : Option Bool
  write    : Option WriteOp
  cal      : Option CalOp
  /-- The cause with which a pending calibration or refresh runs, and whether it is periodic (Table 2-9, R63). -/
  pendCause : BitVec 3
  pendPeriodic : Bool
  refreshCause : BitVec 3
  /-- Order in which the pending periodic trigger fell due (R62), and whether it yielded to a rewrite. -/
  dueOrder : Option Nat
  yielded  : Bool
  /-- A slot for periodic calibration is kept for the array until its next product boundary (R62). -/
  slotKept : Bool
  /-- A calibration or refresh by command waits for the product boundary (Table 2-9). -/
  wantCal  : Bool
  wantRefresh : Bool
  /-- A recovery refresh ran since the array was last ACTIVE (Table 2-9). -/
  recovered : Bool
  /-- Products waiting, the product in progress, reads in flight, the read that failed its compare. -/
  queue    : List Product
  cur      : Option Product
  /-- A FALLBACK or fenced product of the array's tile that runs on the digital engine (R86, R292). -/
  dig      : Option Product
  flight   : List ReadRes
  failed   : Option ReadRes
  /-- Reads compared behind the failed one, oldest first, and whether each passed; they are held (R55, Table 2-7). -/
  behind   : List (ReadRes × Bool)
  /-- UNIT_CLEAR's retest is in progress (R291). -/
  retest   : Bool
  deriving DecidableEq, Repr

/-- A 96-bit window accumulator (R145) and the marks of its output. -/
structure Acc where
  a       : Int
  sticky  : Bool
  clamp   : Bool
  invalid : Bool
  poison  : Bool
  deriving DecidableEq, Repr

/-- A descriptor in ENG_PASSQ (Table 4-9): its 12 words and the launch that issued it. -/
structure Queued where
  launch  : Nat
  words   : List Word
  /-- A pass retry after a matching re-read (R274). -/
  retried : Bool
  deriving DecidableEq, Repr

/-- A pass that streams or drains (R95, R100). -/
structure Pass where
  job     : Queued
  /-- The accumulators of the tile, row by row, once its last slot has entered. -/
  acc     : List (List Acc)
  /-- Groups of the operands whose check plane entries held a reserved bit, as ranges of memory (Table 5-3). -/
  bad     : List (Nat × Nat)
  /-- Window base of the accumulators, and whether the entry's history was missed (R145, R147). -/
  base    : Int
  missed  : Bool
  /-- Next row the drain offers (R100). -/
  row     : Nat
  /-- A row is offered and held by its destination (R105). -/
  held    : Bool
  deriving DecidableEq, Repr

/-- One tensor entry of a core (Tables 5-9, 5-10). -/
structure Entry where
  tcfg   : Word
  tfix   : Word
  town   : Word
  tflag  : Word
  blocks : Word
  zero   : Word
  sat    : Word
  dig    : Word
  inexact : Word
  winlow : Word
  invalid : Word
  nonfin : Word
  amax   : Word
  thist  : Tab (BitVec 16)
  /-- Writes held for the seal (R160). -/
  heldCfg : Option Word
  heldFix : Option Word
  heldHist : Tab (BitVec 16)
  /-- Context of the owning launch, for R158 and R159 (FMT_TOWN holds its number). -/
  ownCtx : BitVec 4
  deriving DecidableEq, Repr

/-- One core: ENG_, VEC_ and FMT_ registers, queues and tables (Tables 4-12 to 4-14, 5-11). -/
structure CoreU where
  engCfg   : Word
  engErr   : Word
  validCnt : Word
  feedCnt  : Word
  drainCnt : Word
  gatedCnt : Word
  /-- Events counted below the unit of each counter (Table 4-13). -/
  validSub : Nat
  feedSub  : Nat
  drainSub : Nat
  gatedSub : Nat
  /-- ENG_STAT.POWER (R108). -/
  power    : BitVec 2
  passq    : List Queued
  stream   : Option Pass
  drain    : List Pass
  /-- The pass discarded for a check mismatch, which a matching re-read issues once more (R274). -/
  retry    : Option Queued
  vecErr   : Word
  tailCnt  : Word
  /-- Rack count at which the notice of an engine that waits for one was sent (R108). -/
  wakeAt   : Option Nat
  tblSum   : Tab Word
  /-- Table slots, 4 KiB each at 0x1000 · s; bytes not listed are zero (Table 4-11). -/
  tables   : List (Nat × Byte)
  fmtErr   : Word
  entries  : Tab Entry
  /-- Bytes of the last vector operation's result, and its context marks: the model's own field (log entry 12). -/
  vecOut   : List Byte
  /-- A self-test waits for an idle gap, or runs (R290). -/
  testDue  : Bool
  testing  : Bool
  deriving DecidableEq, Repr

/-- One cluster: UPD_ registers, coefficient rows, power regions, temperature (Tables 7-12, 12-14, 13-11). -/
structure ClusterU where
  updStat  : Word
  updErr   : Word
  gnorm    : Word
  ratio    : Word
  layers   : Word
  /-- UPD_COEF words: row j field f at 16 · j + f; words not listed are 0 (Table 7-7). -/
  coef     : Tab Word
  coefSum  : Tab Word
  region   : Word
  /-- The power-on that the region's state reads has begun, its notice due: digital and array (R339, R340). -/
  upDig    : Bool
  upArr    : Bool
  ctiScale : Word
  /-- Cluster Tj as last read, (Tj + 64) · 4 (R63). -/
  tj       : BitVec 10
  droop    : Bool
  /-- Matrix and vector work that issued lately, for R276: launch, and the rack count of its last issue plus one (log entry
  21). -/
  recent   : Tab Nat
  deriving DecidableEq, Repr

/-- A seal, recall, reduction, time or twin message (R220: MESSAGE is issued by the module only). -/
inductive Msg where
  | offer (m : OfferMsg)
  | go (m : GoMsg)
  | hold (ctx : BitVec 4) (epoch : Word)
  | stuck (ctx : BitVec 4) (epoch : Word)
  | goQuery (ctx : BitVec 4) (epoch : Word) (milestone : W64)
  | withdraw (ctx : BitVec 4) (epoch : Word) (origin : DevId)
  | withdrawAck (ctx : BitVec 4) (epoch : Word)
  | summary (ctx : BitVec 4) (ring : BitVec 4) (epoch : Word) (ofSent : Bool) (sum : Word) (milestone : W64)
  | digest (ctx : BitVec 4) (caravan : BitVec 8) (epoch : Word) (ofSent : Bool) (digest : BitVec 128)
  | recall (m : RecallMsg)
  | recallAck (m : RecallMsg)
  | replayed (m : RecallMsg)
  | restart (ctx : BitVec 4) (caravan : BitVec 8) (epoch : Word) (gen : BitVec 4) (milestone : W64)
  | caravan (p : CvPkt)
  | beacon (high : BitVec 44)
  | stallNotice (tag : BitVec 16) (port : Nat)
  | pulse (ctx : BitVec 4) (milestone time : W64)
  | heartbeat
  | mirrorCommit (ctx : BitVec 4) (epoch : Word)
  | landingFree
  deriving DecidableEq, Repr

/-- What a queue item carries: a packet of Table 8-7 or a message. -/
inductive Body where
  | pkt (p : Pkt)
  | msg (m : Msg)
  deriving DecidableEq, Repr

/-- An item of a port's transmit queue: channel, destination, flits, body, courier stamp (R230), flits already sent. -/
structure QItem where
  vc     : Nat
  dst    : DevId
  flits  : Nat
  body   : Body
  stamp  : Option W64
  /-- A courier message that the toll has admitted (R232). -/
  admitted : Bool
  sent   : Nat
  /-- The requester is on die 1 (R222); the tag of a message (R226). -/
  die    : Bool
  tag    : BitVec 16
  deriving DecidableEq, Repr

/-- One Numir port (Tables 8-14, 8-15, 9-7). -/
structure PortU where
  ctl     : Word
  stat    : Word
  err     : Word
  toll    : Word
  tollStat : Word
  replays : Word
  stalls  : Word
  stales  : Word
  lanes   : Tab Word
  redTx   : Word
  redRx   : Word
  /-- The effective rate in force since the window start (R229). -/
  rate    : Nat
  queue   : List QItem
  /-- Flits sent and not acknowledged, oldest first, at most 256, and flits to replay (R217). -/
  retry   : List (BitVec 12 × Flit)
  replay  : List (BitVec 12 × Flit)
  lseq    : BitVec 12
  /-- PSN next sent and next expected, per channel (R247). -/
  psnOut  : Tab (BitVec 16)
  psnIn   : Tab (BitVec 16)
  /-- Part of a packet held, per channel (R248): bytes and the packet's PSN. -/
  part    : Tab (List Byte)
  /-- Credits held and flits received whose credits are to be returned, per channel (R218). -/
  credits : Tab Nat
  owed    : Tab Nat
  /-- Slots since VC 15 sent, and slots in which VC 13 waited (R228, Table 12-12). -/
  mgmtGap : Nat
  bulkGap : Nat
  robin   : Nat
  /-- Lanes not used at any training, and trainings in a row with a narrow eye (Table 10-4). -/
  badLanes : Byte
  narrow  : Tab Nat
  /-- Lanes that have been good since the last training at x8 began, and the lanes of the width last in use (R214). -/
  good    : Byte
  wasUsed : Byte
  deriving DecidableEq, Repr

/-- A program entry (Table 6-4). -/
structure Prog where
  phase   : BitVec 4
  layer   : BitVec 12
  mbFirst : BitVec 16
  mbCount : BitVec 16
  tIn     : Byte
  tOut    : Byte
  inAddr  : W64
  outAddr : W64
  tally   : BitVec 14
  length  : Word
  deriving DecidableEq, Repr

/-- The SEAL fields of a manifest header (Table 6-2). -/
structure SealHdr where
  timeout  : Word
  recBase  : W64
  slots    : BitVec 16
  stride   : BitVec 16
  margin   : BitVec 4
  children : BitVec 10
  parent   : DevId
  root     : DevId
  deriving DecidableEq, Repr

/-- A layer's update in progress (R195): the pass, the latched descriptor and coefficient row, and the directions d
as they stand in WORK. -/
structure UpdOp where
  layer  : BitVec 12
  lead   : Nat
  pass   : BitVec 3
  desc   : List Word
  coef   : List Word
  step   : Word
  gnorm  : Word
  k      : Word
  /-- d of each touched row (FP32 words), and w, both kept between passes 2 and 4. -/
  dirs   : List (Nat × List Word)
  /-- Staged moments of the touched rows, encoded, first and root. -/
  m1     : List (Nat × List Byte)
  m2     : List (Nat × List Byte)
  deriving DecidableEq, Repr

/-- Where a launch stands (R163, R277, R281). -/
inductive LState where
  | held
  | running
  /-- Recalled, its replay not yet begun (R277, R281). -/
  | recalled
  /-- It does not run again: stopped part way (R413), or not replayed (R282). -/
  | stopped
  /-- Ended; kept until its epoch commits, since a recall may run it again (R277, R279). -/
  | ended
  deriving DecidableEq, Repr

/-- The outputs one array gave for a token (R51, R170): per span the exponent e_max and the integer of each weight; for a
digital product none, since the drain folds the digital pass. `live` says that the array was not fenced. -/
structure ProdRes where
  array   : Nat
  token   : Nat
  spans   : List (Nat × List Int)
  sat     : List Nat
  invalid : Bool
  digital : Bool
  live    : Bool
  deriving DecidableEq, Repr

/-- What a layer did in the open epoch (R184, R206, Tables 6-12, 7-6). -/
structure LayerSt where
  named    : Bool
  started  : Bool
  refused  : Bool
  mismatch : Bool
  skipped  : Bool
  staged   : Bool
  ratio    : Bool
  digital  : Bool
  /-- Outcome fixed at the last commit tick, rows applied, and the apply not yet ended (R183). -/
  outcome  : BitVec 2
  applying : Bool
  /-- Epoch whose master FWD_IMAGE and T_IMAGE were built from (R171); none before any build. -/
  fwdEpoch : Option Word
  tEpoch   : Option Word
  deriving DecidableEq, Repr

/-- A layer record resident in a context: its 32 words (Table 6-3). -/
structure Layer where
  words : List Word
  st    : LayerSt
  deriving DecidableEq, Repr

/-- A launch admitted or held (Tables 6-1 to 6-4). -/
structure LaunchS where
  uid     : Nat
  ctx     : BitVec 4
  number  : BitVec 16
  epoch   : Word
  kind    : BitVec 4
  slot    : BitVec 3
  fbCap   : Nat
  clusters : Word
  layers  : List (BitVec 12)
  /-- Its layer records, which its admission makes resident (R166). -/
  recs    : List Layer
  prog    : List Prog
  /-- The program entry being worked, and the micro-batch within it. -/
  pc      : Nat
  mb      : Nat
  state   : LState
  recalls : Nat
  /-- Devices, with the launch recalled there, whose REPLAYED it awaits (R279). -/
  awaits  : List (DevId × BitVec 16)
  /-- Program entries of TALLY_SIGNAL completed in an earlier or the present run (R240), with the device and tally
  that each forwarded a COURIER_ADD to (R239). -/
  signals : List (Nat × List (DevId × BitVec 14))
  /-- Tallies whose TALLY_WAIT completed in the present run (R279). -/
  waits   : List (BitVec 14)
  /-- Devices told of a recall, and REPLAYED still to be sent to them (R281). -/
  told    : List DevId
  sealHdr : Option SealHdr
  /-- Products asked for and gathered in the present FORWARD micro-batch. -/
  asked   : Bool
  /-- Table slot of the vector operations queued for the micro-batch (R124). -/
  tableSlot : Option (BitVec 2)
  gather  : List ProdRes
  /-- Results that the products asked for will give. -/
  due     : Nat
  update  : Option UpdOp
  /-- Layers whose update its present run started, with verifies still running (R275). -/
  updated : List (BitVec 12)
  verify  : List (BitVec 12)
  /-- Staged groups to verify: layer, first byte, bytes, and the check value as computed when they were written (R275). -/
  groups  : List (BitVec 12 × Nat × Nat × Word)
  /-- Caravans whose result it has read (R268). -/
  readCv  : List (BitVec 8)
  /-- Status it ends with if nothing worse happens (R413), and whether it stopped part way. -/
  status  : BitVec 16
  /-- Stores and atomics sent and not yet answered (R239). -/
  pending : List (BitVec 16)
  /-- PASSES descriptors already placed (R410). -/
  placed  : Nat
  deriving DecidableEq, Repr

/-- The seal of a context's open epoch (R179 to R182, R279, R412). -/
structure SealS where
  hdr       : Option SealHdr
  /-- The module has sent its summaries and waits to offer; it has offered. -/
  ready     : Bool
  offered   : Bool
  /-- Children that have offered in the epoch, whether or not the offer still stands. -/
  kids      : List DevId
  /-- Offers held from children; GO received and not yet committed; the last GO that a root sent. -/
  offers    : List (DevId × OfferMsg)
  pendingGo : Option GoMsg
  lastGo    : Option GoMsg
  retries   : Nat
  /-- A detection is outstanding; its cause cannot be cured (R285). -/
  detect    : Bool
  uncurable : Bool
  /-- A detection came after the offer (R412): the next offer is not OK. -/
  lateDet   : Bool
  /-- Summaries received: ring, whether from the previous member, the summary, and whether its milestone count was the
  module's own (R267, R245). -/
  sums      : List (BitVec 4 × Bool × Word × Bool)
  /-- Part of the epoch's mirror failed (R295). -/
  mirrorBad : Bool
  /-- WITHDRAW sent and not acknowledged; recall senders owed RECALL_ACK after it (R279). -/
  withdrawn : Bool
  owedAcks  : List (DevId × RecallMsg)
  /-- RECALLs sent and not acknowledged (R280). -/
  recallsOut : List (DevId × BitVec 16)
  /-- WITHDRAWs held before the SEAL launch is admitted (R279). -/
  heldWithdraws : List DevId
  /-- GO_QUERY sent: 0 none, 1 one, 2 one went unanswered (R182). -/
  queried   : Nat
  /-- Commit sequence number of the seal whose applies run: the stamp of its dirty bits (R79). -/
  stampNo   : Nat
  /-- Flags for the step record (Table 6-11). -/
  replayed  : Bool
  ringSat   : Bool
  fbCount   : Nat
  deriving DecidableEq, Repr

/-- A reservation of stash: its slot, the micro-batch, and the launch that made it (R175). -/
structure Resv where
  slot : Nat
  mb   : Nat
  uid  : Nat
  deriving DecidableEq, Repr

/-- One job context (R162, R188, R234, R244, R265). -/
structure CtxU where
  live      : Bool
  /-- COMMITTED has been set by a first manifest (R162). -/
  begun     : Bool
  epoch     : Word
  sealW     : Word
  fb        : Word
  job       : Word
  milestone : W64
  layers    : Tab Layer
  /-- Base, quota and size per micro-batch that the TRAIN launches of a slot carry (R175). -/
  slots     : Tab (W64 × Word × Word)
  /-- Stash reservations (R175). -/
  resv      : List Resv
  policy    : Word
  policyHeld : Option Word
  /-- REL_CFG as it stood before a write that the context's next commit tick takes over (R299). -/
  relIn     : Option Word
  /-- The context was terminated: no launch of it is admitted (R289). -/
  dead      : Bool
  /-- Faults of its launches: launch number and status (R409). -/
  faults    : List (BitVec 16 × BitVec 16)
  sealSt    : SealS
  deriving DecidableEq, Repr

/-- A half of a tile in a waystation slot (R259). -/
structure Half where
  tile   : Nat
  half   : Bool
  gather : Bool
  hop    : Nat
  gen    : Nat
  rowmap : Word
  blocks : List Byte
  cluster : Nat
  slot   : Nat
  deriving DecidableEq, Repr

/-- A caravan started on the module (R250 to R268). Its status bytes lie in memory; what runs lies here. -/
structure Caravan where
  ctx      : BitVec 4
  n        : BitVec 8
  epoch    : Word
  ring     : Nat
  s        : BitVec 8
  slices   : List (BitVec 16 × BitVec 16)
  layer    : BitVec 12
  result   : Nat
  contrib  : Option Nat
  bitmap   : Nat
  rows     : Nat
  cols     : Nat
  state    : BitVec 3
  gen      : Nat
  restarted : Bool
  interval : Bool
  sent     : BitVec 128
  recv     : BitVec 128
  halves   : List Half
  /-- Final halves written: tile and half (R262). -/
  final    : List (Nat × Bool)
  satBlocks : Nat
  maxBump  : Nat
  bump4    : Nat
  invalid  : Nat
  poison   : Bool
  digital  : Bool
  sat      : Bool
  /-- Contributions of tiles whose one pass is summed exactly: tile, and per present row its exact values (R255). -/
  exact    : Tab (List (Nat × List (Option Dy)))
  /-- Micro-batches contributed per slice and tile: key 2^24 · slice + tile. -/
  counts   : Tab Nat
  /-- POISON (bit 3) and DIGITAL (bit 2) of the contributions to a block: key 2^32 · slice + 2 · (64 · tile + row) + block
  (R256). -/
  marks    : Tab Byte
  /-- Rows of a tile that some contribution held. -/
  rowsOf   : Tab (BitVec 64)
  /-- Tiles sent by this member as chain start. -/
  started  : List Nat
  /-- Waystation work that issued lately: cluster, and the rack count of its last issue plus one (R276). -/
  ops      : Tab Nat
  deriving DecidableEq, Repr

/-- A request this module sent and that holds no answer (R226). -/
structure Outst where
  tag     : BitVec 16
  pkt     : Pkt
  port    : Nat
  resends : Nat
  /-- The requester is on die 1. -/
  die     : Bool
  deriving DecidableEq, Repr

/-- An own request that waits to be sent. -/
structure Held where
  pkt : Pkt
  die : Bool
  deriving DecidableEq, Repr

/-- An answer to one of this module's own requests (R226, R235). -/
structure Answer where
  tag    : BitVec 16
  resp   : BitVec 4
  poison : Bool
  data   : List Byte
  deriving DecidableEq, Repr

/-- A caravan packet that waits for its caravan, in a slot of a cluster's waystation buffer (R251). -/
structure HeldPkt where
  port    : Nat
  pkt     : CvPkt
  cluster : Nat
  slot    : Nat
  deriving DecidableEq, Repr

/-- Module-wide fabric, ring and time registers (Tables 8-16, 9-8). -/
structure FabU where
  devid    : Word
  stallCfg : Word
  timeCfg  : Word
  timeStat : Word
  timeHi   : Word
  pulse    : Word
  err      : Word
  cvtabLo  : Word
  cvtabHi  : Word
  redErr   : Word
  satCnt   : Word
  staleGen : Word
  ringCfg  : Tab Word
  ringLo   : Tab Word
  ringHi   : Tab Word
  sentSum  : Tab Word
  recvSum  : Tab Word
  caravans : List Caravan
  /-- Caravan packets held for a caravan not yet started (R251), oldest first. -/
  waiting  : List HeldPkt
  /-- Halves kept in a port receive buffer for want of a waystation slot (R259). -/
  blocked  : List (Nat × CvPkt)
  outst    : List Outst
  answers  : List Answer
  nextTag  : BitVec 16
  /-- Own requests that wait for earlier ones to be answered (R220, R223), oldest first. -/
  held     : List Held
  /-- Beacon value to load at the next frame mark (R242). -/
  beacon   : Option (BitVec 44)
  /-- RREF is lost; it returned after a loss, and the count is reloaded once every context is closed (Table 8-13). -/
  refGone  : Bool
  reload   : Bool
  deriving DecidableEq, Repr

/-- REL_ registers, twin state and the histories' working counts (Tables 10-6, 10-8). -/
structure RelU where
  cfg       : Word
  stat      : Word
  err       : Word
  detectCnt : Word
  replayCnt : Word
  term      : Word
  histCfg   : Word
  /-- REL_HIST_CFG as it stood before a write that the next commit tick takes over (R299). -/
  histIn    : Option Word
  twinCfg   : Word
  twinBase  : Word
  twinListLo : Word
  twinListHi : Word
  twinStat  : Word
  coreFence : BitVec 512
  /-- Mirror stores not yet answered, with their contexts, and the context's next offset in its part of the partner's
  landing (R295; log entry 18). -/
  mirror    : List (BitVec 16 × BitVec 4)
  landPos   : Tab Nat
  /-- Contexts whose landing the partner has not reported free, and sections that wait for that (R296). -/
  busy      : List (BitVec 4)
  mirrorHeld : List HeldSection
  /-- Substitute core of each fenced core (R292). -/
  subst     : Tab Nat
  /-- Stacks that failed in service (R25). -/
  badStacks : BitVec 8
  deriving DecidableEq, Repr

/-- What powers the module (R341 to R346, R395 to R397). -/
inductive PowerState where
  /-- No input power, or held off until 48 V is removed (cause 0x9). -/
  | off
  /-- The reset sequence runs, or start-up is held by MRST# or by a trip condition. -/
  | resetting
  | awake
  | asleep
  deriving DecidableEq, Repr

/-- A drover notice frame that is due (R331): its rank (0 a repeat, 1 protective voltage lowering, 2 release, 3 other
voltage target, 4 load), the rack count at which it fell due, the frame, and whether a slot has passed without it and it has
been counted as held by a slew. -/
structure Notice where
  rank   : Nat
  due    : Nat
  frame  : Word
  waited : Bool
  held   : Bool
  deriving DecidableEq, Repr

/-- PWR_, CLK_ and sideband registers, the watch and the pins (Tables 12-14, 15-2, 15-8). -/
structure PwrU where
  state     : PowerState
  stat      : Word
  cfg       : Word
  dvfs      : Word
  therm     : Word
  err       : Word
  resetW    : Word
  noticeCnt : Word
  wdog      : Word
  wdogArmed : Bool
  /-- Rack count at which the firmware watchdog was armed or last kicked (R373). -/
  wdogKick  : W64
  watchCtl  : Word
  watchStat : Word
  watchTime : W64
  watchHi   : Word
  /-- Watch writes issued and not acknowledged, oldest first, and whether a REG_WRITE waits for it (R30). -/
  watchQ    : List (WatchReg × Word × Bool)
  clkStat   : Word
  syncCfg   : Word
  sbCtl     : Word
  sbEvent   : Word
  sbAddr    : Option (BitVec 7)
  ibiQueue  : List (BitVec 3)
  ibiUnacked : List (BitVec 3)
  /-- Protective actions in force (Table 12-8). -/
  protUv    : Bool
  protFlow  : Bool
  /-- Failed uncore phases (R327). -/
  uncore    : List Nat
  /-- Drover notice frames due, in the order of R331, and the last frame sent (R330). -/
  notices   : List Notice
  lastNotice : Option Word
  /-- Rack count at which the last frame was sent (Table 12-12). -/
  noticeAt  : Option Nat
  /-- Rack count at which the last DVFS move began (R334). -/
  dvfsAt    : Option Nat
  /-- Telemetry of the last 1 ms, one reading each 10 µs, oldest first (R324). -/
  samples   : List Nat
  /-- Successive 100 µs checks below the ladder's and the throttle's band (R335, R336). -/
  calmPower : Nat
  calmHeat  : Nat
  powerLimit : Nat
  /-- Reset or wake asked for: cause, and the kind it has (R345, R399). -/
  resetReq  : Option (BitVec 4 × BitVec 2)
  /-- Kind of the reset whose start-up runs: 0 power-on, 1 WARM, 2 COLD (Table 12-9). -/
  resetKind : BitVec 2
  /-- DEV_SLEEP has completed; sleep begins once its reply is posted and every watch write acknowledged (R342). -/
  sleepDue  : Bool
  /-- A thermal trip waits for every sensor below 95 °C (R343). -/
  tripHot   : Bool
  /-- 48 V input present; the stage off until 48 V is removed (R327); VAON good. -/
  input     : Bool
  lockedOff : Bool
  vaon      : Bool
  mrstPin   : Bool
  flowLow   : Bool
  thermTrip : Bool
  syncOut   : Nat
  hbOut     : Bool
  deriving DecidableEq, Repr

/-- A logbook record (Table 14-7). -/
structure LogRec where
  kind    : Byte
  copy    : Bool
  seq     : W64
  time    : W64
  orig    : W64
  /-- The cluster of a WEAR record: its 32 KiB payload has no place for it, so the model keeps it here (log entry 19). -/
  unit    : Nat
  payload : List Byte
  deriving DecidableEq, Repr

/-- The wear record of an array (Table 3-12) as the logbook holds it. -/
structure WearRec where
  writes    : Word
  refreshes : Word
  pulses    : W64
  stuck     : Word
  hours     : Word
  groups    : Tab Word
  deriving DecidableEq, Repr

/-- The logbook, the boot state and the security registers (Tables 14-1 to 14-11). -/
structure SecU where
  boot     : Word
  err      : Word
  fwRb     : Word
  cfgRb    : Word
  keyFloor : Word
  meas     : Tab (BitVec 256)
  logStat  : Word
  logErr   : Word
  seq      : W64
  /-- Journal blocks in use, oldest first, each with its records in SEQ order (R382, R383), and the black-box ring. -/
  journal  : List (List LogRec)
  ring     : List LogRec
  timeBase : W64
  /-- Firmware slots A and B: the image each holds (R377). -/
  slotA    : Option (List Byte)
  slotB    : Option (List Byte)
  /-- The current firmware slot (false A, true B), and the pending images. -/
  fwCur    : Bool
  fwPend   : Bool
  cfgCur   : Option (List Byte)
  cfgOld   : Option (List Byte)
  cfgPend  : Option (List Byte)
  /-- Images chosen by this start-up: pending firmware, pending configuration. -/
  triedFw  : Bool
  triedCfg : Bool
  attempt  : Bool
  /-- The last compaction freed no block (R387). -/
  full     : Bool
  /-- The newest record found at this start-up's mount was a SHUTDOWN record, or no power was lost (R386). -/
  orderly  : Bool
  /-- A BLACKBOX record newer than the last BOOT record was found at this start-up's mount (R388). -/
  bbFound  : Bool
  /-- Unit history: kind, unit, logbook time of each event; permanent units (R290, R291). -/
  events   : List (BitVec 4 × Nat × W64)
  permanent : List (BitVec 4 × Nat)
  /-- Wear records saved in the logbook, by array (R92). -/
  wear     : Tab WearRec
  /-- The last 64 command headers taken, oldest first (R388). -/
  headers  : List (List Byte)
  deriving DecidableEq, Repr

/-- MON_ and CAL_ registers and the monitor's users (Tables 13-4, 13-11). -/
structure MonU where
  cfg      : Word
  chsel    : Word
  last     : Word
  halfCnt  : Word
  owner    : BitVec 3
  /-- Users that wait for the channel: 1 running set, 2 CAL_SYSTEM verify, 3 trace of die 0, 5 trace of die 1, 4 MON_SAMPLE. -/
  waiting  : List Nat
  /-- Converter being fitted: 0 none, 1 A, 2 B; a periodic fit due; the converter fitted next. -/
  fit      : BitVec 2
  fitDue   : Bool
  nextFit  : Bool
  coef     : Tab Word
  vref     : Word
  monQual  : Word
  err      : Word
  traceCfg : Word
  traceCnt : Word
  /-- The array whose samples each die's test point holds, plus 1 (R364). -/
  atp      : Tab Nat
  /-- The array whose samples are on the channel, plus 1. -/
  traced   : Nat
  /-- Means Z, Vr and Vc in 1/4 code of the samples that each die's test point holds, once converted (R365). -/
  traceMeans : Tab (List Nat)
  /-- The Tj of the fit, plus 1, once the traced calibration of the die has passed. -/
  traceFit : Tab Nat
  deriving DecidableEq, Repr

/-- The check plane of one tensor (R130): where its rows and its entries lie, and the bytes of a whole check group. -/
structure Plane where
  data     : Nat
  plane    : Nat
  rows     : Nat
  rowBytes : Nat
  group    : Nat
  deriving DecidableEq, Repr

/-- The state of the module. -/
structure State where
  /-- Commands that wait, first in, first out. -/
  pending  : List Instr
  host     : HostIf
  /-- HST_DEVICE_ID, HST_TOPOLOGY and HST_ARRAY_AVAIL (Tables 1-3, 11-14). -/
  deviceId : Word
  topology : Word
  avail    : Word
  /-- ARR_WB_CFG and ARR_WB_STAT.CFG_DISCARD (Table 3-10); the counts are computed. -/
  wbCfg    : Word
  wbStat   : Word
  arrays   : Tab ArrU
  cores    : Tab CoreU
  clusters : Tab ClusterU
  ports    : Tab PortU
  ctxs     : Tab CtxU
  launches : List LaunchS
  /-- Stack memory, cluster stores, core scratch and tallies by local address (Table 1-4); bytes not listed read 0. -/
  mem      : List Host.Cell
  /-- Poisoned 64-byte granules, by granule number, rising (R287). -/
  poison   : List Nat
  /-- Check planes that CHECK_SEAL declared, oldest first (log entry 48); those of layer states come from the records. -/
  planes   : List Plane
  /-- Stacks in the interleave, chosen in start-up phase 0x4 (R24, R25). -/
  stacksIn : BitVec 8
  fab      : FabU
  rel      : RelU
  pwr      : PwrU
  sec      : SecU
  mon      : MonU
  /-- Rack reference count (R241), and the phase of the watch tick against it (log entry 3). -/
  rack     : W64
  watchPhase : Nat
  /-- Next launch number of the model, commit sequence number (the age of a seal stamp), periodic-trigger order. -/
  nextUid  : Nat
  commits  : Nat
  dueSeq   : Nat
  /-- The model's own counter of free values drawn (log entry 5). -/
  free     : Nat
  out      : List Out
  deriving DecidableEq, Repr

/-! ## Reset records -/

/-- An array after a power-on reset (Tables 2-16 to 2-19, 3-11, 12-15). -/
def ArrU.reset : ArrU where
  state := 0x00003003#32
  cfg := 0x0FFF0028#32
  chkcfg := 0x0000A200#32
  calp := 0x00A3E908#32
  qual := 0#32
  err := 0#32
  evcnt := 0#32
  clipCnt := 0#32
  reads := 0#32
  wrcfg := 1#32
  wrstat := 0#32
  wrtime := 0#32
  wrerr := 0#32
  spareMap := 0xFFFFFFFF#32
  image := []
  trims := []
  trimHeld := []
  cfgHeld := none
  chkHeld := none
  dirty := 0#512
  writes := 0#32
  refreshes := 0#32
  pulses := 0#64
  stuck := 0#32
  hours := 0#32
  groups := []
  traceRef := []
  traceLast := []
  traceTj := []
  traces := 0
  request := none
  refreshOrder := 0#12
  granted := false
  stamp := none
  byCommand := none
  write := none
  cal := none
  pendCause := 0#3
  pendPeriodic := false
  refreshCause := 6#3
  dueOrder := none
  yielded := false
  slotKept := false
  wantCal := false
  wantRefresh := false
  recovered := false
  queue := []
  cur := none
  dig := none
  flight := []
  failed := none
  behind := []
  retest := false

/-- A tensor entry after a module reset (Table 5-10). -/
def Entry.reset : Entry where
  tcfg := 0x00A70220#32
  tfix := 0x03C2007F#32
  town := 0#32
  tflag := 0#32
  blocks := 0#32
  zero := 0#32
  sat := 0#32
  dig := 0#32
  inexact := 0#32
  winlow := 0#32
  invalid := 0#32
  nonfin := 0#32
  amax := 0#32
  thist := []
  heldCfg := none
  heldFix := none
  heldHist := []
  ownCtx := 0#4

/-- A core after a module reset (Tables 4-13, 4-14, 5-11). -/
def CoreU.reset : CoreU where
  engCfg := 0x000C0001#32
  engErr := 0#32
  validCnt := 0#32
  feedCnt := 0#32
  drainCnt := 0#32
  gatedCnt := 0#32
  validSub := 0
  feedSub := 0
  drainSub := 0
  gatedSub := 0
  power := 0#2
  passq := []
  stream := none
  drain := []
  retry := none
  vecErr := 0#32
  tailCnt := 0#32
  wakeAt := none
  tblSum := []
  tables := []
  fmtErr := 0#32
  entries := []
  vecOut := []
  testDue := false
  testing := false

/-- A cluster after a power-on reset (Tables 7-12, 12-14, 13-11). -/
def ClusterU.reset : ClusterU where
  updStat := 0x0FFF0000#32
  updErr := 0#32
  gnorm := 0#32
  ratio := 0#32
  layers := 0#32
  coef := []
  coefSum := []
  region := 0x00FC0283#32
  upDig := false
  upArr := false
  ctiScale := 0x00008000#32
  tj := 0#10
  droop := false
  recent := []

/-- A port after a module reset (Tables 8-15, 9-8). -/
def PortU.reset : PortU where
  ctl := 0#32
  stat := 0x3FFFF000#32
  err := 0#32
  toll := 0#32
  tollStat := 0#32
  replays := 0#32
  stalls := 0#32
  stales := 0#32
  lanes := []
  redTx := 0#32
  redRx := 0#32
  rate := 0
  queue := []
  retry := []
  replay := []
  lseq := 0#12
  psnOut := []
  psnIn := []
  part := []
  credits := []
  owed := []
  mgmtGap := 63
  bulkGap := 0
  robin := 0
  badLanes := 0#8
  narrow := []
  good := 0xFF#8
  wasUsed := 0#8

/-- The seal of a context with no epoch started. -/
def SealS.reset : SealS where
  hdr := none
  ready := false
  offered := false
  kids := []
  offers := []
  pendingGo := none
  lastGo := none
  retries := 0
  detect := false
  uncurable := false
  lateDet := false
  sums := []
  mirrorBad := false
  withdrawn := false
  owedAcks := []
  recallsOut := []
  heldWithdraws := []
  queried := 0
  stampNo := 0
  replayed := false
  ringSat := false
  fbCount := 0

/-- A context after a module reset: it does not exist (Tables 6-15, 8-16, 9-8). -/
def CtxU.reset : CtxU where
  live := false
  begun := false
  epoch := 0#32
  sealW := 0#32
  fb := 0#32
  job := 0#32
  milestone := 0#64
  layers := []
  slots := []
  resv := []
  policy := 0#32
  policyHeld := none
  relIn := none
  dead := false
  faults := []
  sealSt := SealS.reset

/-- What a layer has done before any phase of the epoch. -/
def LayerSt.fresh : LayerSt where
  named := false
  started := false
  refused := false
  mismatch := false
  skipped := false
  staged := false
  ratio := false
  digital := false
  outcome := 3#2
  applying := false
  fwdEpoch := none
  tEpoch := none

/-- The host interface after a module reset (Table 11-14). -/
def HostIf.reset : HostIf where
  window := []
  replies := []
  msixTab := []
  msixPba := 0#8
  ready := false
  full := false
  taken := []
  running := []
  replied := []
  head := 0#32
  tail := 0#32
  dpCtl := 100#32
  orphan := 0#32
  irqCause := 0#32
  err := 0#32
  linkStat := 0#32
  draining := false
  outBuf := []
  outBound := false
  linkUp := false
  perst := false
  config := []
  shutdown := false
  nextSeq := 0

/-- Module-wide fabric registers after a module reset (Tables 8-16, 9-8). -/
def FabU.reset : FabU where
  devid := 0#32
  stallCfg := 0x0040100A#32
  timeCfg := 0#32
  timeStat := 0#32
  timeHi := 0#32
  pulse := 0#32
  err := 0#32
  cvtabLo := 0#32
  cvtabHi := 0#32
  redErr := 0#32
  satCnt := 0#32
  staleGen := 0#32
  ringCfg := []
  ringLo := []
  ringHi := []
  sentSum := []
  recvSum := []
  caravans := []
  waiting := []
  blocked := []
  outst := []
  answers := []
  nextTag := 0#16
  held := []
  beacon := none
  refGone := false
  reload := false

/-- REL_ registers after a power-on reset (Table 10-8). -/
def RelU.reset : RelU where
  cfg := 0x208803E8#32
  stat := 0#32
  err := 0#32
  detectCnt := 0#32
  replayCnt := 0#32
  term := 0#32
  histCfg := 0x00040803#32
  histIn := none
  twinCfg := 0#32
  twinBase := 0#32
  twinListLo := 0#32
  twinListHi := 0#32
  twinStat := 0#32
  coreFence := 0#512
  mirror := []
  landPos := []
  busy := []
  mirrorHeld := []
  subst := []
  badStacks := 0#8

/-- Power, clocks, watch and pins right after power-on, in start-up phase 0x0 (Tables 12-14, 12-15, 15-8). -/
def PwrU.reset : PwrU where
  state := .awake
  stat := 0#32
  cfg := 0x00000960#32
  dvfs := 0#32
  therm := 0x00000069#32
  err := 0#32
  resetW := 0#32
  noticeCnt := 0#32
  wdog := 100#32
  wdogArmed := false
  wdogKick := 0#64
  watchCtl := 0#32
  watchStat := 0#32
  watchTime := 0#64
  watchHi := 0#32
  watchQ := []
  clkStat := 0#32
  syncCfg := 0#32
  sbCtl := 0x000000FF#32
  sbEvent := 0#32
  sbAddr := none
  ibiQueue := []
  ibiUnacked := []
  protUv := false
  protFlow := false
  uncore := []
  notices := []
  lastNotice := none
  noticeAt := none
  dvfsAt := none
  samples := []
  calmPower := 0
  calmHeat := 0
  powerLimit := 512
  resetReq := none
  resetKind := 0#2
  sleepDue := false
  tripHot := false
  input := true
  lockedOff := false
  vaon := true
  mrstPin := false
  flowLow := false
  thermTrip := false
  syncOut := 0
  hbOut := false

/-- The logbook and the boot state as manufactured: no record yet, start-up in phase 0x0 (Table 14-11). -/
def SecU.reset : SecU where
  boot := 0#32
  err := 0#32
  fwRb := 0#32
  cfgRb := 0#32
  keyFloor := 0#32
  meas := []
  logStat := 0#32
  logErr := 0#32
  seq := 0#64
  journal := []
  ring := []
  timeBase := 0#64
  slotA := none
  slotB := none
  fwCur := false
  fwPend := false
  cfgCur := none
  cfgOld := none
  cfgPend := none
  triedFw := false
  triedCfg := false
  attempt := false
  full := false
  orderly := true
  bbFound := false
  events := []
  permanent := []
  wear := []
  headers := []

/-- MON_ and CAL_ registers after a power-on reset (Tables 12-15, 13-11). -/
def MonU.reset : MonU where
  cfg := 0#32
  chsel := 0#32
  last := 0#32
  halfCnt := 0#32
  owner := 0#3
  waiting := []
  fit := 0#2
  fitDue := false
  nextFit := false
  coef := []
  vref := 120000#32
  monQual := 0#32
  err := 0#32
  traceCfg := 0x80000014#32
  traceCnt := 0#32
  atp := []
  traced := 0
  traceMeans := []
  traceFit := []

/-- The module right after a power-on reset: start-up phase 0x0 has begun and nothing is loaded (R13, R351, R371). -/
def State.reset : State where
  pending := []
  host := HostIf.reset
  deviceId := 0xD9600002#32
  topology := 0#32
  avail := 0#32
  wbCfg := 0x00100200#32
  wbStat := 0#32
  arrays := []
  cores := []
  clusters := []
  ports := []
  ctxs := []
  launches := []
  mem := []
  poison := []
  planes := []
  stacksIn := 0#8
  fab := FabU.reset
  rel := RelU.reset
  pwr := PwrU.reset
  sec := SecU.reset
  mon := MonU.reset
  rack := 0#64
  watchPhase := 0
  nextUid := 1
  commits := 0
  dueSeq := 0
  free := 0
  out := []

end Sys2Proof.Machine
end

