-- ==== Sys2Proof/Machine/Ops.lean ====
section
/-! DEFINITION. The named operations over the state: tables in canonical form, bit fields, memory and poison, interrupt
vectors, the logbook, and the accessors of the units. -/

namespace Sys2Proof.Machine

/-- What a command answers. -/
abbrev Res := Host.Outcome State Fault Refusal

/-! ## Tables -/

/-- The record of unit k; `d` when the table does not list it. -/
def tget {α : Type} (d : α) : Tab α → Nat → α
  | [], _ => d
  | (j, v) :: t, k => if j = k then v else tget d t k

/-- A record in its place by rising key. -/
def tput {α : Type} : Tab α → Nat → α → Tab α
  | [], k, v => [(k, v)]
  | (j, w) :: t, k, v => if k < j then (k, v) :: (j, w) :: t else (j, w) :: tput t k v

/-- Put a record into a table that keeps its canonical form. -/
def tset {α : Type} [DecidableEq α] (d : α) (t : Tab α) (k : Nat) (v : α) : Tab α :=
  let r := t.filter fun e => e.1 != k
  if v = d then r else tput r k v

def tmod {α : Type} [DecidableEq α] (d : α) (t : Tab α) (k : Nat) (f : α → α) : Tab α := tset d t k (f (tget d t k))

/-- The table lists only keys that rise strictly, and no entry equal to the default. -/
def tabWf {α : Type} [DecidableEq α] (d : α) : Tab α → Bool
  | [] => true
  | (_, v) :: [] => v != d
  | (j, v) :: (k, w) :: t => v != d && decide (j < k) && tabWf d ((k, w) :: t)

/-! ## Bit fields (R10) -/

/-- Bits hi:lo of a word. -/
def fld {n : Nat} (w : BitVec n) (hi lo : Nat) : Nat := w.toNat / 2 ^ lo % 2 ^ (hi + 1 - lo)

def bit {n : Nat} (w : BitVec n) (i : Nat) : Bool := w.toNat / 2 ^ i % 2 == 1

/-- The word with bits hi:lo set to v. -/
def setFld {n : Nat} (w : BitVec n) (hi lo v : Nat) : BitVec n :=
  BitVec.ofNat n (w.toNat / 2 ^ (hi + 1) * 2 ^ (hi + 1) + v % 2 ^ (hi + 1 - lo) * 2 ^ lo + w.toNat % 2 ^ lo)

def setBit {n : Nat} (w : BitVec n) (i : Nat) : BitVec n := setFld w i i 1

def clrBit {n : Nat} (w : BitVec n) (i : Nat) : BitVec n := setFld w i i 0

def putBit {n : Nat} (w : BitVec n) (i : Nat) (b : Bool) : BitVec n := setFld w i i b.toNat

/-- A counting field that stops at its largest value. -/
def satFld {n : Nat} (w : BitVec n) (hi lo k : Nat) : BitVec n :=
  setFld w hi lo (min (fld w hi lo + k) (2 ^ (hi + 1 - lo) - 1))

/-- A 32-bit counter that saturates at 0xFFFF_FFFF. -/
def satWord (w : Word) (k : Nat) : Word := satFld w 31 0 k

def w32 (n : Nat) : Word := BitVec.ofNat 32 n

def w64 (n : Nat) : W64 := BitVec.ofNat 64 n

/-! ## Units (Table 1-1) -/

def arr (s : State) (a : Nat) : ArrU := tget ArrU.reset s.arrays a

def modArr (s : State) (a : Nat) (f : ArrU → ArrU) : State := { s with arrays := tmod ArrU.reset s.arrays a f }

def core (s : State) (c : Nat) : CoreU := tget CoreU.reset s.cores c

def modCore (s : State) (c : Nat) (f : CoreU → CoreU) : State := { s with cores := tmod CoreU.reset s.cores c f }

def clus (s : State) (c : Nat) : ClusterU := tget ClusterU.reset s.clusters c

def modClus (s : State) (c : Nat) (f : ClusterU → ClusterU) : State :=
  { s with clusters := tmod ClusterU.reset s.clusters c f }

def port (s : State) (p : Nat) : PortU := tget PortU.reset s.ports p

def modPort (s : State) (p : Nat) (f : PortU → PortU) : State := { s with ports := tmod PortU.reset s.ports p f }

def ctxU (s : State) (c : BitVec 4) : CtxU := tget CtxU.reset s.ctxs c.toNat

def modCtx (s : State) (c : BitVec 4) (f : CtxU → CtxU) : State :=
  { s with ctxs := tmod CtxU.reset s.ctxs c.toNat f }

def modSeal (s : State) (c : BitVec 4) (f : SealS → SealS) : State :=
  modCtx s c fun x => { x with sealSt := f x.sealSt }

def modHost (s : State) (f : HostIf → HostIf) : State := { s with host := f s.host }

def modFab (s : State) (f : FabU → FabU) : State := { s with fab := f s.fab }

def modRel (s : State) (f : RelU → RelU) : State := { s with rel := f s.rel }

def modPwr (s : State) (f : PwrU → PwrU) : State := { s with pwr := f s.pwr }

def modSec (s : State) (f : SecU → SecU) : State := { s with sec := f s.sec }

def modMon (s : State) (f : MonU → MonU) : State := { s with mon := f s.mon }

/-- A command that names a unit: the fault of a unit that does not exist, or the effect (Table 1-1). -/
def onUnit (limit n : Nat) (s : State) (f : State → State) : Res :=
  if n < limit then .next (f s) else .fault (.noSuchUnit n)

/-- Work of a launch that issued lately on a core's cluster (R276), kept for the longest suspect window: 160 ticks, and while the
droop alarm is raised. -/
def noteIssue (k uid : Nat) (s : State) : State :=
  modClus s (k / 16) fun x => { x with
    recent := tset 0 (x.recent.filter fun e => x.droop || decide (s.rack.toNat < e.2 + 160)) uid (s.rack.toNat + 1) }

def coreOfArray (a : Nat) : Nat := a / 8

def clusterOfCore (k : Nat) : Nat := k / 16

def clusterOfArray (a : Nat) : Nat := a / 128

/-- A free value the spec leaves open (log entry 5). -/
def drawFree (s : State) : Nat × State := (Config.freeNat s.free, { s with free := s.free + 1 })

/-- n bytes that the spec leaves open. -/
def drawBytes (n : Nat) (s : State) : List Byte × State :=
  ((List.range n).map fun i => BitVec.ofNat 8 (Config.freeNat (s.free + i)), { s with free := s.free + n })

/-! ## Units in service (R19, R292, Table 12-2) -/

/-- Die 0 or die 1 out of service (HST_TOPOLOGY.DIE_MODE, Table 1-3). -/
def dieOut (s : State) (die : Nat) : Bool :=
  let m := fld s.topology 1 0
  (m == 2 && die == 1) || (m == 3 && die == 0)

/-- The cluster is fenced or dark. -/
def clusterOut (s : State) (c : Nat) : Bool :=
  bit (clus s c).region 16 || dieOut s (c / 16)

/-- The core is fenced. -/
def coreFenced (s : State) (k : Nat) : Bool := bit s.rel.coreFence k || clusterOut s (clusterOfCore k)

/-- ARR_STATE.FENCED, or fenced with its core or cluster (R292). -/
def arrFenced (s : State) (a : Nat) : Bool := bit (arr s a).state 17 || coreFenced s (coreOfArray a)

/-- State of the digital region and of the array region (PWR_REGION, Table 12-14): 0b10 on. -/
def digState (s : State) (c : Nat) : Nat := fld (clus s c).region 7 6

def arrRegState (s : State) (c : Nat) : Nat := fld (clus s c).region 9 8

/-- A region that is on, or whose switch-off is held (R338), still works. -/
def regionOn (st : Nat) : Bool := st == 2 || st == 3

/-! ## Interrupt vectors (R305, Table 11-3) -/

/-- A byte of the MSI-X table; an entry's mask bit is 1 after reset, as the base specification lays down. -/
def msixByte (h : HostIf) (off : Nat) : Byte := tget (if off % 16 = 12 then 1#8 else 0#8) h.msixTab off

/-- An event of vector v: its cause bit, then its message, or its pending bit when masked. -/
def raise (v : Nat) (s : State) : State :=
  let s := modHost s fun h => { h with irqCause := setBit h.irqCause v }
  if bit (msixByte s.host (16 * v + 12)) 0 then modHost s fun h => { h with msixPba := setBit h.msixPba v }
  else { s with out := .msix v :: s.out }

/-- HST_ERR bit i. -/
def hstErr (i : Nat) (s : State) : State := modHost s fun h => { h with err := setBit h.err i }

/-- REL_ERR bit i; PEER_LOST, UNIT_FENCED, EPOCH_STUCK and CTX_TERMINATED raise vector 3. -/
def relErr (i : Nat) (s : State) : State :=
  let s := modRel s fun r => { r with err := setBit r.err i }
  if i = 9 || i = 11 || i = 12 || i = 13 then raise 3 s else s

/-- PWR_ERR bit i, with vector 5 where `irq` says so. -/
def pwrErr (i : Nat) (irq : Bool) (s : State) : State :=
  let s := modPwr s fun p => { p with err := setBit p.err i }
  if irq then raise 5 s else s

/-! ## Start-up state (R371, R311) -/

def bootPhase (s : State) : Nat := fld s.sec.boot 3 0

def isReady (s : State) : Bool := bootPhase s == 8

/-- HST_TOPOLOGY as it reads: DIE_MODE is 0b00 until start-up is complete (Table 1-3). -/
def shownTopology (s : State) : Word := if isReady s then s.topology else setFld s.topology 1 0 0

/-- Groups other than 0x0 and 0x8 are taken (R311). -/
def acceptsAll (s : State) : Bool := isReady s && !s.host.shutdown

/-! ## The logbook (R383, R386, R387) -/

/-- Logbook time: watch time plus TIME_BASE (R386). -/
def logTime (s : State) : W64 := s.pwr.watchTime + s.sec.timeBase

/-- Bytes that a record takes, padded to 64 B (R383). -/
def recBytes (len : Nat) : Nat := (32 + len + 16 + 63) / 64 * 64

/-- Bytes used in a block, its header included. -/
def blockUsed (b : List LogRec) : Nat := b.foldl (fun n r => n + recBytes r.payload.length) 64

/-- Put a record into the journal, newest block last; no record crosses a block (R383). -/
def journalAdd (j : List (List LogRec)) (r : LogRec) : List (List LogRec) :=
  match j.getLast? with
  | some b => if blockUsed b + recBytes r.payload.length ≤ 262144 then j.dropLast ++ [b ++ [r]] else j ++ [[r]]
  | none => [[r]]

/-- The journal can take a record without a block more than the 510 it has (R382, R387). -/
def journalFits (j : List (List LogRec)) (len : Nat) : Bool :=
  match j.getLast? with
  | some b => blockUsed b + recBytes len ≤ 262144 || decide (j.length < 510)
  | none => true

/-- LOG_STAT.FILL: blocks in use in 1/256 of 510. -/
def logFill (j : List (List LogRec)) : Nat := min 255 (j.length * 256 / 510)

/-- Refresh LOG_STAT.FILL, BB_FREE and LOG_SEQ-related fields after a change of the store. -/
def logRefresh (s : State) : State :=
  modSec s fun x =>
    let free := min 127 (128 - x.ring.length)
    { x with logStat := setFld (setFld x.logStat 31 24 (logFill x.journal)) 14 8 free }

/-- Write a journal record of a kind (R383, R384). UNIT_EVENT, COMPARATOR and BOOT records are dropped while no block can be
freed; with no block left any record is dropped, and LOG_ERR.FULL and vector 6 report it (R387). -/
def logAddFor (unit : Nat) (kind : Byte) (payload : List Byte) (s : State) : State :=
  if s.sec.full && (kind == 0x06#8 || kind == 0x0A#8 || kind == 0x0B#8) then s
  else if journalFits s.sec.journal payload.length then
    let q := s.sec.seq + 1
    logRefresh <| modSec s fun x => { x with
      seq := q
      journal := journalAdd x.journal ⟨kind, false, q, logTime s, q, unit, payload⟩ }
  else raise 6 (modSec s fun x => { x with logErr := setBit x.logErr 3 })

def logAdd (kind : Byte) (payload : List Byte) (s : State) : State := logAddFor 0 kind payload s

def logRecords (s : State) : List LogRec := s.sec.journal.flatten

/-- A watch comparator acts: its bit of PWR_WATCH_STAT.EVENT, and a COMPARATOR record with the time counter (R341). -/
def watchEvent (b : Nat) (s : State) : State :=
  let s := modPwr s fun p => { p with watchStat := setBit p.watchStat b }
  logAdd 0x0A#8 (BitVec.ofNat 8 b :: leBytes 8 s.pwr.watchTime.toNat) s

/-- BLACKBOX payload (Table 14-9). -/
def blackboxBytes (s : State) (cause : Nat) : List Byte :=
  let w (x : Word) := bytesOfWord x
  let ctx (c : Nat) : List Byte :=
    let x := tget CtxU.reset s.ctxs c
    w x.job ++ w x.epoch ++ w x.sealW ++ leBytes 8 x.milestone.toNat ++ leBytes 4 0
  let body := BitVec.ofNat 8 cause :: leBytes 3 0 ++ w s.pwr.stat ++ w s.pwr.err ++ w s.pwr.dvfs ++ w s.pwr.therm
    ++ w s.pwr.resetW ++ w s.rel.err ++ w s.fab.timeStat ++ leBytes 8 s.rack.toNat
    ++ (List.range 16).flatMap ctx ++ s.sec.headers.flatten
  body ++ List.replicate (4048 - body.length) 0#8

/-- Put an event number in its place by rising bit number. -/
def insertBit (b : BitVec 3) : List (BitVec 3) → List (BitVec 3)
  | [] => [b]
  | x :: r => if b = x then x :: r else if b.toNat < x.toNat then b :: x :: r else x :: insertBit b r

/-- Event b of PWR_SB_EVENT: its bit, and an in-band interrupt due when its enable bit is 1 (R405). -/
def sidebandEvent (b : BitVec 3) (s : State) : State :=
  modPwr s fun p => { p with
    sbEvent := setBit p.sbEvent b.toNat
    ibiQueue := if bit p.sbCtl b.toNat then insertBit b p.ibiQueue else p.ibiQueue }

/-- Program the black-box buffer into the next erased page of the ring of 128, or set LOG_ERR.BB_SKIP; the sideband
event BLACKBOX is set (R388, R405). -/
def blackbox (cause : Nat) (s : State) : State :=
  if s.sec.ring.length < 128 then
    let q := s.sec.seq + 1
    let s := logRefresh <| modSec s fun x => { x with
      seq := q
      ring := x.ring ++ [⟨0x09#8, false, q, logTime s, q, 0, blackboxBytes s cause⟩] }
    sidebandEvent 6#3 s
  else modSec s fun x => { x with logErr := setBit x.logErr 2 }

/-! ## Local address map (R22 to R25, Table 1-4) -/

inductive Area where
  | stack
  | store (cluster : Nat)
  | scratch (core : Nat)
  | window (array : Nat)
  | regs
  | tally (n : Nat)
  | hole
  deriving DecidableEq, Repr

def gib : Nat := 2 ^ 30

/-- The region of a local address (Table 1-4). -/
def areaOf (a : Nat) : Area :=
  if a < 0xC000000000 then .stack
  else if a < 0xC040000000 then .store ((a - 0xC000000000) / 0x2000000)
  else if a < 0xC080000000 then .scratch ((a - 0xC040000000) / 0x200000)
  else if a < 0xC0A0000000 then .window ((a - 0xC080000000) / 0x20000)
  else if a < 0xC0B0000000 then .regs
  else if a < 0xC0B0100000 then .tally ((a - 0xC0B0000000) / 64)
  else .hole

/-- Number of stacks in the interleave. -/
def stackCount (s : State) : Nat := (List.range 8).countP fun i => bit s.stacksIn i

/-- Bytes of stack memory: n × 96 GiB (R25). -/
def stackBytes (s : State) : Nat := stackCount s * (96 * gib)

/-- The stack that holds a stack-memory address: full mode of R24, degraded mode of R25. -/
def stackOf (s : State) (a : Nat) : Nat :=
  if stackCount s = 8 then (a / 4096 % 8) ^^^ (a / 2 ^ 24 % 8)
  else
    let present := (List.range 8).filter fun i => bit s.stacksIn i
    present.getD (a / 4096 % (max 1 (stackCount s))) 0

/-- An access to a local address is performed (R23): the address is not reserved, its unit is not fenced, its region is on
and, over the fabric, its region is reachable. -/
def accessible (s : State) (fabric : Bool) (a : Nat) : Bool :=
  match areaOf a with
  | .stack => decide (a < stackBytes s)
  | .store c => !clusterOut s c && regionOn (digState s c)
  | .scratch k => !coreFenced s k && regionOn (digState s (clusterOfCore k))
  | .window x => !fabric && !arrFenced s x
  | .tally _ => true
  | .regs => false
  | .hole => false

/-- The address lies on a stack that failed in service (R25). -/
def onDeadStack (s : State) (a : Nat) : Bool := decide (areaOf a = .stack) && bit s.rel.badStacks (stackOf s a)

/-- Every byte of a range is accessible; granules decide, since regions are multiples of 64 B. -/
def rangeOk (s : State) (fabric : Bool) (a n : Nat) : Bool :=
  n == 0 || (List.range ((a + n - 1) / 64 - a / 64 + 1)).all fun i => accessible s fabric (64 * (a / 64 + i))

/-! ## Memory (canonical form; an unlisted byte reads 0, log entry 1) -/

/-- The list is in canonical form: addresses strictly rising, no byte equal to what an unlisted address reads as. -/
def Memory.wf (m : List Host.Cell) : Bool := tabWf (0#8) m

/-- One byte of the listed memory. -/
def memByte (s : State) (a : Nat) : Byte := tget 0#8 s.mem a

/-- The cells that list the bytes from an address on. -/
def memCells : Nat → List Byte → List Host.Cell
  | _, [] => []
  | a, b :: r => if b = 0#8 then memCells (a + 1) r else (a, b) :: memCells (a + 1) r

/-- Bytes written in ascending address order. -/
def memPut (m : List Host.Cell) (a : Nat) (bytes : List Byte) : List Host.Cell :=
  m.filter (fun c => decide (c.1 < a)) ++ memCells a bytes ++ m.filter (fun c => decide (a + bytes.length ≤ c.1))

/-- Bytes of memory as a unit of the module reads them: zeros on a stack that failed in service (R25). -/
def memGet (s : State) (a n : Nat) : List Byte :=
  (List.range n).map fun i => if onDeadStack s (a + i) then 0#8 else memByte s (a + i)

/-! ## Poison (R287) -/

def isPoisoned (s : State) (g : Nat) : Bool := s.poison.contains g

def insertNat (g : Nat) : List Nat → List Nat
  | [] => [g]
  | h :: t => if g = h then h :: t else if g < h then g :: h :: t else h :: insertNat g t

def setPoison (s : State) (g : Nat) : State := { s with poison := insertNat g s.poison }

def clearPoison (s : State) (g : Nat) : State := { s with poison := s.poison.filter (· != g) }

/-- Granules of a range. -/
def granules (a n : Nat) : List Nat := if n = 0 then [] else (List.range ((a + n - 1) / 64 - a / 64 + 1)).map (a / 64 + ·)

/-- Some granule of the range is poisoned, or lies on a failed stack. -/
def rangePoisoned (s : State) (a n : Nat) : Bool := (granules a n).any fun g => isPoisoned s g || onDeadStack s (64 * g)

/-! ## Layer records (Table 6-3) -/

def lw (l : Layer) (i : Nat) : Word := l.words.getD i 0#32

def lAddr (l : Layer) (i : Nat) : Nat := (lw l i).toNat + 2 ^ 32 * ((lw l (i + 1)).toNat % 256)

def noAddr : Nat := 0xFFFFFFFFFF

def lNum (l : Layer) : Nat := fld (lw l 0) 31 20
def lWidth (l : Layer) : Nat := fld (lw l 0) 19 16
def lDWidth (l : Layer) : Nat := fld (lw l 0) 15 12
def lRank (l : Layer) : Nat := 8 * fld (lw l 0) 11 8
def lPolicy (l : Layer) : Bool := bit (lw l 0) 7
def lSlice (l : Layer) : Bool := bit (lw l 0) 6
def lSpan (l : Layer) : Nat := fld (lw l 0) 5 4
def lRange (l : Layer) : Nat := fld (lw l 0) 3 1
def lTrained (l : Layer) : Bool := bit (lw l 0) 0
def lWexp (l : Layer) : Nat := fld (lw l 1) 31 24
def lThresh (l : Layer) : Nat := fld (lw l 1) 23 18
def lOrder (l : Layer) : Nat := fld (lw l 1) 11 0
def lFirst (l : Layer) : Nat := fld (lw l 2) 12 0
def lCount (l : Layer) : Nat := fld (lw l 3) 12 0
def lIn (l : Layer) : Nat := (lw l 4).toNat
def lOut (l : Layer) : Nat := (lw l 5).toNat
def lState (l : Layer) : Nat := lAddr l 6
def lStateLen (l : Layer) : Nat := lAddr l 8
def lStaging (l : Layer) : Nat := lAddr l 10
def lShadow (l : Layer) : Nat := lAddr l 12
def lFwd (l : Layer) : Nat := lAddr l 14
def lT (l : Layer) : Nat := lAddr l 16
def lU (l : Layer) : Nat := lAddr l 18
def lV (l : Layer) : Nat := lAddr l 20
def lRowMask (l : Layer) : Nat := lAddr l 22
def lBlockMask (l : Layer) : Nat := lAddr l 24
def lCheck (l : Layer) : Nat := lAddr l 26

/-- Columns per weight (Table 2-2). -/
def colsPerWeight (w : Nat) : Nat := (w + 1) / 2

/-- Weights per array row (Table 2-2). -/
def weightsPerRow (w : Nat) : Nat := 512 / max 1 (colsPerWeight w)

/-- T_in and T_out of a layer (R165). -/
def lTin (l : Layer) : Nat := (lIn l + 511) / 512
def lTout (l : Layer) : Nat := (lOut l + weightsPerRow (lWidth l) - 1) / max 1 (weightsPerRow (lWidth l))

/-- The arrays of a layer. -/
def lArrays (l : Layer) : List Nat := (List.range (lCount l)).map (lFirst l + ·)

/-- Output tile and input tile of an array of the layer (R165). -/
def tileOf (l : Layer) (a : Nat) : Nat × Nat := ((a - lFirst l) / max 1 (lTin l), (a - lFirst l) % max 1 (lTin l))

def align64 (x : Nat) : Nat := (x + 63) / 64 * 64

/-- Cp, NB, and the grid of tiles (Table 7-1, R253). -/
def padCols (cols : Nat) : Nat := 32 * ((cols + 31) / 32)

/-- Cp of Table 7-1. -/
def colsPad (r : Layer) : Nat := padCols (lIn r)

def secMaster (l : Layer) : Nat := align64 (2 * lOut l * colsPad l)

def momentRow (l : Layer) : Nat := 33 * (colsPad l / 32)

def secMoment (l : Layer) : Nat := align64 (lOut l * momentRow l)

def offRem (l : Layer) : Nat := 64 + secMaster l

def offM1 (l : Layer) : Nat := offRem l + align64 (lOut l * colsPad l)

def offM2 (l : Layer) : Nat := offM1 l + secMoment l

/-- Every resident layer with its context. -/
def residents (s : State) : List (BitVec 4 × Layer) :=
  s.ctxs.flatMap fun e => e.2.layers.map fun l => (BitVec.ofNat 4 e.1, l.2)

/-! ## Check planes (R130, R131, R272, R273) -/

/-- A check group: its first byte, its bytes and the place of its entry (Table 5-3). -/
structure Group where
  base  : Nat
  len   : Nat
  entry : Nat
  deriving DecidableEq, Repr

/-- Check groups of one stored row (R130). -/
def Plane.perRow (p : Plane) : Nat := (p.rowBytes + max 1 p.group - 1) / max 1 p.group

def Plane.bytes (p : Plane) : Nat := p.rows * p.rowBytes

/-- Number of the group that holds byte x of the tensor: groups count along a row, row after row. -/
def Plane.indexOf (p : Plane) (x : Nat) : Nat :=
  x / max 1 p.rowBytes * p.perRow + x % max 1 p.rowBytes / max 1 p.group

/-- Group i; the last of a row may be short (R130). -/
def Plane.groupAt (p : Plane) (i : Nat) : Group :=
  let off := i % max 1 p.perRow * p.group
  ⟨p.data + i / max 1 p.perRow * p.rowBytes + off, min p.group (p.rowBytes - off), p.plane + 8 * i⟩

/-- The groups that a range meets. -/
def Plane.meets (p : Plane) (a n : Nat) : List Group :=
  let lo := max a p.data - p.data
  let hi := min (a + n) (p.data + p.bytes) - p.data
  if hi ≤ lo then []
  else (List.range (p.indexOf (hi - 1) + 1 - p.indexOf lo)).map fun j => p.groupAt (p.indexOf lo + j)

/-- The check plane of a layer's state: the groups of master, remainder, first and root moment of Table 7-1, in that order
(log entry 48). -/
def layerPlanes (l : Layer) : List Plane :=
  if lCheck l = noAddr || !lTrained l then []
  else
    let cp := colsPad l
    let step (e : Nat × List Plane) (x : Nat × Nat × Nat) : Nat × List Plane :=
      let p : Plane := ⟨lState l + x.1, e.1, lOut l, x.2.1, x.2.2⟩
      (e.1 + 8 * (p.rows * p.perRow), e.2 ++ [p])
    ([(64, 2 * cp, 2048), (offRem l, cp, 1024), (offM1 l, momentRow l, 1056), (offM2 l, momentRow l, 1056)].foldl step
      (lCheck l, [])).2

/-- Every check plane that a manifest or CHECK_SEAL names; a tensor without one is unchecked (R274). -/
def planesOf (s : State) : List Plane := s.planes ++ (residents s).flatMap fun e => layerPlanes e.2

/-- The entry of a group can be read and written. -/
def entryLive (s : State) (g : Group) : Bool := rangeOk s false g.entry 8 && !onDeadStack s g.entry

/-- The check groups with a live entry that a range meets. -/
def groupsMet (s : State) (a n : Nat) : List Group :=
  ((planesOf s).flatMap fun p => p.meets a n).filter (entryLive s)

/-- The DIGITAL and SAT bits of a check plane entry (Table 5-3). -/
structure Marks where
  digital : Bool := false
  sat     : Bool := false
  deriving DecidableEq, Repr

def Marks.join (a b : Marks) : Marks := ⟨a.digital || b.digital, a.sat || b.sat⟩

/-- Byte 4 of an entry. -/
def Marks.byte (m : Marks) (poison : Bool) : Byte := BitVec.ofNat 8 (4 * poison.toNat + 2 * m.digital.toNat + m.sat.toNat)

/-- The bytes of a group that a store of `bytes` at a covers, every other byte zero: T of R273 is their check value. -/
def partOf (g : Group) (a : Nat) (bytes : List Byte) : List Byte :=
  let cut := (bytes.drop (g.base - a)).take (g.base + g.len - max a g.base)
  let body := List.replicate (a - g.base) 0#8 ++ cut
  body ++ List.replicate (g.len - body.length) 0#8

/-- The entry of a group after a store (R273): a whole-group writer sets CHECK and the flags; a partial writer's terms are
folded in by the memory-side check unit, and its flags ORed. -/
def entryAfter (s : State) (g : Group) (a : Nat) (bytes : List Byte) (flags : Byte) : List Byte :=
  let fresh := crc32c (partOf g a bytes)
  if a ≤ g.base && g.base + g.len ≤ a + bytes.length then bytesOfWord fresh ++ flags :: List.replicate 3 0#8
  else
    let old := crc32c (partOf g a (memGet s a bytes.length))
    bytesOfWord (wordOfBytes (memGet s g.entry 4) ^^^ old ^^^ fresh)
      ++ (memByte s (g.entry + 4) ||| flags) :: memGet s (g.entry + 5) 3

/-- The memory with the entries of every group that a store meets brought up to date, before its bytes are written. -/
def sealStore (s : State) (a : Nat) (bytes : List Byte) (flags : Byte) : List Host.Cell :=
  (groupsMet s a bytes.length).foldl (fun m g => memPut m g.entry (entryAfter s g a bytes flags)) s.mem

/-- A byte of some check plane's entries. -/
def entryByte (s : State) (b : Nat) : Prop :=
  ∃ p ∈ planesOf s, p.plane ≤ b ∧ b < p.plane + 8 * (p.rows * p.perRow)

/-- What a consumer finds in the entries of the groups that its operand takes bytes of (R131, R274, Table 5-3). -/
structure Seen where
  mismatch : Bool := false
  reserved : Bool := false
  marks    : Marks := {}
  deriving DecidableEq, Repr

def Seen.join (a b : Seen) : Seen := ⟨a.mismatch || b.mismatch, a.reserved || b.reserved, a.marks.join b.marks⟩

/-- The check of one group. Bytes of a poisoned group are not relied on (R287), so its check value is not compared. -/
def seeGroup (s : State) (g : Group) : Seen :=
  let e := memGet s g.entry 8
  let f := leNat (e.drop 4)
  ⟨!rangePoisoned s g.base g.len && wordOfBytes e != crc32c (memGet s g.base g.len), f / 8 != 0,
    ⟨f / 2 % 2 == 1, f % 2 == 1⟩⟩

/-- The check of every group that a range meets; an unchecked range shows nothing (R274). -/
def seen (s : State) (a n : Nat) : Seen := (groupsMet s a n).foldl (fun x g => x.join (seeGroup s g)) {}

/-- Bytes of memory, as the first byte and their number. -/
abbrev Range := Nat × Nat

def rangesMeet (a n b m : Nat) : Bool := n != 0 && m != 0 && decide (a < b + m) && decide (b < a + n)

/-- Some range of a list meets the bytes from a. -/
def anyMeets (rs : List Range) (a n : Nat) : Bool := rs.any fun r => rangesMeet r.1 r.2 a n

/-- The groups that an operand's ranges meet and whose entries show something. -/
def groupRanges (s : State) (p : Seen → Bool) (rs : List Range) : List Range :=
  ((rs.flatMap fun r => groupsMet s r.1 r.2).filter fun g => p (seeGroup s g)).map fun g => (g.base, g.len)

/-- Groups whose entries hold a reserved bit: their elements are invalid (Table 5-3). -/
def reservedIn (s : State) (rs : List Range) : List Range := groupRanges s (·.reserved) rs

/-- The marked groups that ranges meet (R131). -/
structure Marked where
  digital : List Range := []
  sat     : List Range := []
  deriving DecidableEq, Repr

def markedIn (s : State) (rs : List Range) : Marked :=
  ⟨groupRanges s (·.marks.digital) rs, groupRanges s (·.marks.sat) rs⟩

/-- The marks of the groups that bytes are taken from. -/
def Marked.at (m : Marked) (a n : Nat) : Marks := ⟨anyMeets m.digital a n, anyMeets m.sat a n⟩

/-- Blocks stored from an address on; every element of a block in a bad group is invalid. -/
def readBlocks (s : State) (bad : List Range) (n a count : Nat) : List ZqBlock :=
  let w := zqBlockBytes n
  (List.range count).map fun i =>
    let b := zqDecode n (memGet s (a + i * w) w)
    if anyMeets bad (a + i * w) w then { b with codes := b.codes.map fun _ => none } else b

def rangesOk (s : State) (rs : List Range) : Bool := rs.all fun r => rangeOk s false r.1 r.2

def rangesPoisoned (s : State) (rs : List Range) : Bool := rs.any fun r => rangePoisoned s r.1 r.2

/-! ## The array window (Table 2-15, Table 3-12, Table 13-12) -/

/-- Level in the cell image of an array. -/
def cellLevel (u : ArrU) (r p : Nat) : Nat := tget 0 u.image (528 * r + p)

def maxGroup (u : ArrU) : Nat := u.groups.foldl (fun m g => max m g.2.toNat) 0

/-- A byte of an array's window; reserved bytes read zero (R12). -/
def windowByte (u : ArrU) (off : Nat) : Byte :=
  let ofWord (w : Nat) (k : Nat) : Byte := BitVec.ofNat 8 (w / 256 ^ k)
  if off < 0x10800 then
    let r := off / 132
    let c := 4 * (off % 132)
    BitVec.ofNat 8 ((List.range 4).foldl (fun n i => n + cellLevel u r (c + i) % 4 * 4 ^ i) 0)
  else if off < 0x10C24 then ofWord (tget 0#16 u.trims ((off - 0x10800) / 2)).toNat (off % 2)
  else if off < 0x10C28 then ofWord u.spareMap.toNat (off % 4)
  else if off < 0x11000 then 0#8
  else if off < 0x11004 then ofWord u.writes.toNat (off % 4)
  else if off < 0x11008 then ofWord u.refreshes.toNat (off % 4)
  else if off < 0x11010 then ofWord u.pulses.toNat (off % 8)
  else if off < 0x11014 then ofWord u.stuck.toNat (off % 4)
  else if off < 0x11018 then ofWord u.hours.toNat (off % 4)
  else if off < 0x1101C then ofWord (maxGroup u) (off % 4)
  else if off < 0x11020 then 0#8
  else if off < 0x110A0 then ofWord (tget 0#32 u.groups ((off - 0x11020) / 4)).toNat (off % 4)
  else if off < 0x11100 then 0#8
  else if off < 0x11140 then ofWord u.dirty.toNat (off % 64)
  else 0#8

/-- A byte of the window with the trace area of Table 13-12. -/
def windowByteT (u : ArrU) (off : Nat) : Byte :=
  let ofWord (w : Nat) (k : Nat) : Byte := BitVec.ofNat 8 (w / 256 ^ k)
  if 0x10C40 ≤ off && off < 0x10C50 then ofWord (tget 0#16 u.traceRef ((off - 0x10C40) / 2)).toNat (off % 2)
  else if 0x10C50 ≤ off && off < 0x10C60 then ofWord (tget 0#16 u.traceLast ((off - 0x10C50) / 2)).toNat (off % 2)
  else if 0x10C60 ≤ off && off < 0x10C70 then ofWord (tget 0#16 u.traceTj ((off - 0x10C60) / 2)).toNat (off % 2)
  else windowByte u off

/-- A byte of a local address as a read sees it. -/
def localByte (s : State) (a : Nat) : Byte :=
  match areaOf a with
  | .window x => windowByteT (arr s x) (a % 0x20000)
  | _ => if onDeadStack s a then 0#8 else memByte s a

/-- What a read of local memory gives: RESP (Table 8-7: 0 OK, 1 UNMAPPED), the bytes and the poison mark. -/
structure Rd where
  resp   : Nat
  data   : List Byte
  poison : Bool
  deriving DecidableEq, Repr

/-- A read of a local range (R23, R25, R287); poison sets REL_ERR.POISON_READ in `noteRead`. -/
def localRead (s : State) (fabric : Bool) (a n : Nat) : Rd :=
  if rangeOk s fabric a n then ⟨0, (List.range n).map fun i => localByte s (a + i), rangePoisoned s a n⟩
  else ⟨1, [], false⟩

/-- REL_ERR.POISON_READ when poisoned data was delivered (R287). -/
def noteRead (r : Rd) (s : State) : State := if r.poison then relErr 8 s else s

/-- Poison marks after a store of n bytes at a: a poisoned store marks every granule it touches, and a store without
poison clears the granules it covers whole (R287). -/
def poisonStore (s : State) (a n : Nat) (poison : Bool) : State :=
  (granules a n).foldl (fun s g =>
    if poison then setPoison s g
    else if a ≤ 64 * g && 64 * g + 64 ≤ a + n then clearPoison s g else s) s

/-- A trim byte written through the window: discarded with ARR_ERR.CFG_DISCARD while the array is CALIBRATING, otherwise
held for the drive tick of the next read (R70). -/
def trimByte (s : State) (x p : Nat) (high : Bool) (b : Byte) : State :=
  if fld (arr s x).state 1 0 = 2 then modArr s x fun u => { u with err := setBit u.err 6 }
  else modArr s x fun u =>
    let old := if (u.trimHeld.any fun h => h.1 == p) then tget 0#16 u.trimHeld p else tget 0#16 u.trims p
    let v := if high then setFld old 15 8 b.toNat else setFld old 7 0 b.toNat
    { u with trimHeld := (u.trimHeld.filter fun h => h.1 < p) ++ (p, v) :: (u.trimHeld.filter fun h => p < h.1) }

/-- Bytes stored into an array window: only the trims are writable (Table 2-15, R11). -/
def windowStore (s : State) (x : Nat) : Nat → List Byte → State
  | _, [] => s
  | off, b :: r =>
    let s := if 0x10800 ≤ off && off < 0x10C24 then trimByte s x ((off - 0x10800) / 2) (off % 2 == 1) b else s
    windowStore s x (off + 1) r

/-- The bytes that a store leaves: the reserved bytes of a tally read as zero (R12, Table 8-12). -/
def keptBytes (a : Nat) (bytes : List Byte) : List Byte :=
  match areaOf a with
  | .tally _ => (List.range bytes.length).map fun i =>
      let o := (a + i) % 64
      if (0x2C ≤ o && o < 0x30) || 0x38 ≤ o then 0#8 else bytes.getD i 0#8
  | _ => bytes

/-- A store to a local range, with the DIGITAL and SAT marks of its data: RESP and the state. A refused store changes nothing
(R23), a store to a failed stack is discarded (R25); the check plane entries of its groups follow it (R273). -/
def markedWrite (s : State) (fabric : Bool) (a : Nat) (bytes : List Byte) (poison : Bool) (marks : Marks) : Nat × State :=
  if !rangeOk s fabric a bytes.length then (1, s)
  else if (granules a bytes.length).any fun g => onDeadStack s (64 * g) then (1, s)
  else match areaOf a with
    | .window x => (0, windowStore s x (a % 0x20000) bytes)
    | _ =>
      let b := keptBytes a bytes
      (0, poisonStore { s with mem := memPut (sealStore s a b (marks.byte poison)) a b } a b.length poison)

/-- A store whose data carry neither mark. -/
def localWrite (s : State) (fabric : Bool) (a : Nat) (bytes : List Byte) (poison : Bool) : Nat × State :=
  markedWrite s fabric a bytes poison {}

def readWord (s : State) (a : Nat) : Word := wordOfBytes (memGet s a 4)

def readNat (s : State) (a n : Nat) : Nat := leNat (memGet s a n)

/-- A store of this module whose answer nobody reads, with the marks of its data. -/
def storeMarked (s : State) (a : Nat) (bytes : List Byte) (poison : Bool) (marks : Marks) : State :=
  (markedWrite s false a bytes poison marks).2

/-- A store of this module whose answer nobody reads. -/
def storeBytes (s : State) (a : Nat) (bytes : List Byte) (poison : Bool) : State := (localWrite s false a bytes poison).2

def writeWord (s : State) (a : Nat) (w : Word) : State := storeBytes s a (bytesOfWord w) false

/-- A copy within this module carries the DIGITAL and SAT bits of its source's groups to every group that takes their elements
(R131). A packet has no place for them, so a copy to or from another module carries none. -/
def carryMarks (src dst n : Nat) (s : State) : State :=
  let m := markedIn s [(src, n)]
  { s with mem := (groupsMet s dst n).foldl (fun c g =>
      let lo := max dst g.base
      let k := m.at (src + (lo - dst)) (min (dst + n) (g.base + g.len) - lo)
      if k = {} then c else memPut c (g.entry + 4) [tget 0#8 c (g.entry + 4) ||| k.byte false]) s.mem }

/-! ## Replies (R313) -/

/-- INFLIGHT: commands taken and not yet replied (R312). -/
def inflight (s : State) : Nat := s.host.taken.length + s.host.running.length + s.host.replied.length

/-- READY rises once INFLIGHT falls below 256, with vector 1 (R312, R305). -/
def readyRises (s : State) : State :=
  if s.host.full && decide (inflight s < 256) then raise 1 (modHost s fun h => { h with ready := true, full := false })
  else s

/-- A command completes: its reply waits to be posted (R314), or is dropped after a host link reset (R304). -/
def finish (p : Packet) (status : Nat) (res : List Word) (s : State) : State :=
  if p.muted then readyRises (hstErr 6 s)
  else modHost s fun h => { h with replied := h.replied ++ [⟨BitVec.ofNat 16 status, p.hdr, p.opcode, res, p.seq⟩] }

/-- The first of a list that equals x becomes y. -/
def replaceFirst {α : Type} [DecidableEq α] (x y : α) : List α → List α
  | [] => []
  | h :: t => if h = x then y :: t else h :: replaceFirst x y t

/-- A running command goes on with another task. -/
def setTask (r : Run) (t : Task) (s : State) : State :=
  modHost s fun h => { h with running := replaceFirst r { r with task := t } h.running }

/-- A running command completes. -/
def completeRun (r : Run) (status : Nat) (res : List Word) (s : State) : State :=
  finish r.pkt status res (modHost s fun h => { h with running := h.running.erase r })

/-- Two result words of a 64-bit number. -/
def words64 (n : Nat) : List Word := [w32 n, w32 (n / 2 ^ 32)]

/-- Rank of a status (Table 11-10). -/
def statusRank (n : Nat) : Nat :=
  if n = 0 then 0 else if n = 1 then 1 else if n = 0x10 then 2 else if n = 0x11 then 3
  else if 0x20 ≤ n && n ≤ 0x27 then 4 else if 0x30 ≤ n && n ≤ 0x34 then 5
  else if n = 0x40 || n = 0x41 || (0x51 ≤ n && n ≤ 0x57) then 6
  else if n = 0x60 then 7 else if n = 0x70 || n = 0x71 then 8 else if n = 0x72 then 9 else 10

/-- The group status of two: the higher rank, and the lower code between equals (R321). -/
def worst (a b : Nat) : Nat :=
  if statusRank a < statusRank b then b
  else if statusRank b < statusRank a then a else min a b

/-! ## Drover notices (R330, Table 12-4) -/

/-- A frame with its CRC. -/
def noticeFrame (kind domain group value : Nat) : Word :=
  let f := kind % 4 * 2 ^ 30 + domain % 8 * 2 ^ 27 + group % 64 * 2 ^ 21 + value % 8192 * 2 ^ 8
  w32 (f + crc5 f)

/-- The order of R331: rank, then due tick, then cluster. -/
def noticeBefore (x y : Notice) : Bool :=
  decide (x.rank < y.rank) || (x.rank == y.rank && (decide (x.due < y.due)
    || (x.due == y.due && decide (fld x.frame 26 21 ≤ fld y.frame 26 21))))

def insertNotice (n : Notice) : List Notice → List Notice
  | [] => [n]
  | h :: t => if noticeBefore h n then h :: insertNotice n t else n :: h :: t

/-- A frame of a rank falls due now. -/
def notice (rank : Nat) (frame : Word) (s : State) : State :=
  modPwr s fun p => { p with notices := insertNotice ⟨rank, s.rack.toNat, frame, false, false⟩ p.notices }

/-- A load notice of a domain and group has still to be sent; its load waits for it (R331). -/
def noticeUnsent (s : State) (domain group : Nat) : Bool :=
  s.pwr.notices.any fun n => fld n.frame 31 30 == 0 && fld n.frame 29 27 == domain && fld n.frame 26 21 == group

/-! ## Resident layers (R166) -/

def layerRec (s : State) (c : BitVec 4) (n : Nat) : Option Layer :=
  ((ctxU s c).layers.find? fun e => e.1 == n).map (·.2)

def modLayer (s : State) (c : BitVec 4) (n : Nat) (f : LayerSt → LayerSt) : State :=
  modCtx s c fun x => { x with layers := x.layers.map fun e => if e.1 = n then (e.1, { e.2 with st := f e.2.st }) else e }

/-- The resident layer placed on an array. -/
def layerOfArray (s : State) (a : Nat) : Option (BitVec 4 × Layer) :=
  (residents s).find? fun e => decide (lFirst e.2 ≤ a) && decide (a < lFirst e.2 + lCount e.2)
    && fld (arr s a).cfg 27 16 == lNum e.2

/-! ## Launches -/

def findLaunch (s : State) (uid : Nat) : Option LaunchS := s.launches.find? fun l => l.uid == uid

def modLaunch (s : State) (uid : Nat) (f : LaunchS → LaunchS) : State :=
  { s with launches := s.launches.map fun l => if l.uid = uid then f l else l }

/-- Launches of a context in flight. -/
def ctxLaunches (s : State) (c : BitVec 4) : List LaunchS := s.launches.filter fun l => l.ctx == c

/-- HST_CTX_SEAL.STATE. -/
def sealState (x : CtxU) : Nat := fld x.sealW 14 12

def setSealState (c : BitVec 4) (v : Nat) (s : State) : State :=
  modCtx s c fun x => { x with sealW := setFld x.sealW 14 12 v }

/-- The open epoch (R162). -/
def openEpoch (x : CtxU) : Word := x.epoch + 1

/-- Own device id (FAB_DEVID). -/
def ownId (s : State) : DevId := BitVec.ofNat 18 s.fab.devid.toNat

end Sys2Proof.Machine
end

