-- ==== Sys2Proof/Machine/Channel.lean ====
section
/-! DEFINITION. The channel of the monitor ADC and its users (R357, Table 13-4, Table 12-12). -/

namespace Sys2Proof.Machine

def setChannel (c : Nat) (s : State) : State := modMon s fun m => { m with chsel := setFld m.chsel 4 0 c }

/-- The running MON_SAMPLE and CAL_SYSTEM of the channel. -/
def sampleRun (s : State) : Option (Run × Nat × Nat × Nat × Nat) :=
  s.host.running.findSome? fun r => match r.task with
    | .monSample ch left next done => some (r, ch, left, next, done)
    | _ => none

def systemRun (s : State) : Option (Run × Nat × Bool × Bool × Nat) :=
  s.host.running.findSome? fun r => match r.task with
    | .calSystem st a b q => if 0 < st then some (r, st, a, b, q) else none
    | _ => none

/-- The die whose trace a waiting user is. -/
def traceUser (die : Nat) : Nat := 3 + 2 * die

/-- First channel of a user's unit. -/
def userChannel (s : State) (u : Nat) : Nat :=
  if u = 1 then 2
  else if u = 2 then (match systemRun s with
    | some (_, st, _) => if st = 4 then 1 else 0
    | none => 0)
  else if u = 3 then 24
  else if u = 5 then 25
  else match sampleRun s with
    | some (_, ch, _) => ch
    | none => fld s.mon.chsel 4 0

/-- A free channel passes to the waiting user that stands highest: the running set, CAL_SYSTEM, the trace, MON_SAMPLE. Of two
traces the one of die 0 goes first (DESIGN CHOICE, log entry 55). -/
def passChannel (s : State) : State :=
  if s.mon.owner != 0#3 then s
  else match [1, 2, 3, 5, 4].find? fun u => s.mon.waiting.contains u with
    | none => s
    | some u =>
      setChannel (userChannel s u) (modMon s fun m => { m with
        owner := if u = 5 then 3#3 else BitVec.ofNat 3 u, waiting := m.waiting.erase u
        traced := if u = 3 then tget 0 m.atp 0 else if u = 5 then tget 0 m.atp 1 else m.traced })

/-- A user asks for the channel. -/
def askChannel (u : Nat) (s : State) : State := passChannel (modMon s fun m => { m with waiting := m.waiting ++ [u] })

end Sys2Proof.Machine
end

