-- ==== Sys2Proof/Machine/CalImage.lean ====
section
/-! DEFINITION. The calibration image (spec/13, R368, R369): its layout, and what CAL_SAVE and CAL_RESTORE do with each
array. -/

namespace Sys2Proof.Machine

def calBytes : Nat := 4554944

def monitorBytes : Nat := 192

def coefOf (s : State) (k : Nat) : Word := tget 0x80000000#32 s.mon.coef k

def calErr (i : Nat) (s : State) : State := modMon s fun m => { m with err := setBit m.err i }

/-! ## Fields that reserved codes do not reach (R14, Table 13-11) -/

def putVref (v : Nat) (s : State) : State :=
  if 115000 ≤ v && v ≤ 125000 then modMon s fun m => { m with vref := w32 v } else calErr 0 s

def putTraceCfg (v : Word) (s : State) : State :=
  let s := modMon s fun m => { m with
    traceCfg := setFld (setFld m.traceCfg 31 31 (fld v 31 31)) 23 16 (fld v 23 16) }
  if fld v 5 0 = 0 then calErr 0 s else modMon s fun m => { m with traceCfg := setFld m.traceCfg 5 0 (fld v 5 0) }

def putCtiScale (c v : Nat) (s : State) : State :=
  if 29491 ≤ v && v ≤ 36045 then modClus s c fun x => { x with ctiScale := w32 v } else calErr 0 s

/-! ## The image (Tables 13-8, 13-9) -/

/-- The array calibrates, so that its record or its restore waits. -/
def calibrating (s : State) (a : Nat) : Bool := fld (arr s a).state 1 0 == 2 && !bit (arr s a).state 17

/-- The record of an array; one that is fenced holds no trims to restore, so its record is not valid. -/
def calRecord (s : State) (a : Nat) : List Byte :=
  let u := arr s a
  let f := arrFenced s a
  leBytes 2 a ++ leBytes 2 (if f then 2 else 1) ++ bytesOfWord u.qual ++ bytesOfWord u.spareMap ++ leBytes 4 0
    ++ (List.range 8).flatMap (fun g => leBytes 2 (tget 0#16 u.traceRef g).toNat)
    ++ (List.range 8).flatMap (fun g => leBytes 2 (tget 0#16 u.traceTj g).toNat)
    ++ (List.range 530).flatMap (fun p => leBytes 2 (tget 0#16 u.trims p).toNat) ++ leBytes 4 0

/-- Bytes 0 to 191 of the image, with a CHECK. -/
def monitorSection (s : State) (check : Word) : List Byte :=
  leBytes 4 1 ++ leBytes 4 4096 ++ leBytes 8 Config.serialNumber.toNat ++ leBytes 8 s.pwr.watchTime.toNat
    ++ bytesOfWord check ++ leBytes 36 0 ++ bytesOfWord (coefOf s 0) ++ bytesOfWord (coefOf s 1)
    ++ bytesOfWord s.mon.vref ++ bytesOfWord s.mon.monQual ++ bytesOfWord s.mon.traceCfg ++ leBytes 44 0
    ++ (List.range 32).flatMap fun c => leBytes 2 (clus s c).ctiScale.toNat

def recordAt (base a : Nat) : Nat := base + 192 + 1112 * a

/-- Write the record of an array. -/
def saveRecord (base a : Nat) (s : State) : State := storeBytes s (recordAt base a) (calRecord s a) false

/-- The image is whole: its CHECK is written and the command completes. -/
def saveDone (r : Run) (base : Nat) (s : State) : State :=
  let check := crc32c (memGet s (base + 64) (calBytes - 64))
  completeRun r 0 [w32 calBytes] (storeBytes s (base + 24) (bytesOfWord check) false)

/-! ## Restoring an array (R369) -/

/-- The trims of a record are loaded under R70, and its trace baselines. -/
def loadRecord (base a : Nat) (s : State) : State :=
  let at_ (o : Nat) : BitVec 16 := BitVec.ofNat 16 (readNat s (recordAt base a + o) 2)
  modArr s a fun u => { u with
    trimHeld := (List.range 530).map fun p => (p, at_ (48 + 2 * p))
    traceRef := (List.range 8).foldl (fun t g => tset 0#16 t g (at_ (16 + 2 * g))) u.traceRef
    traceTj := (List.range 8).foldl (fun t g => tset 0#16 t g (at_ (32 + 2 * g))) u.traceTj }

/-- The record is skipped: the array is fenced, the record is not valid, or its converters are assigned otherwise. -/
def recordSkipped (s : State) (base a : Nat) : Bool :=
  arrFenced s a || readNat s (recordAt base a + 2) 2 % 2 == 0
    || readNat s (recordAt base a + 8) 4 != (arr s a).spareMap.toNat

/-- One array of a restore: loaded, skipped, or left waiting while it calibrates. -/
def restoreArray (base a : Nat) (r : List Nat × Nat × Nat × State) : List Nat × Nat × Nat × State :=
  let (left, n, k, s) := r
  if calibrating s a then (left ++ [a], n, k, s)
  else if recordSkipped s base a then (left, n, k + 1, s)
  else (left, n + 1, k, loadRecord base a s)

/-- Arrays of a restore are served; it completes with the last (R369). -/
def restoreArrays (r : Run) (base bytes n k : Nat) (as : List Nat) (s : State) : State :=
  let (left, n, k, s) := as.foldl (fun t a => restoreArray base a t) ([], n, k, s)
  if left.isEmpty then completeRun r (if k = 0 then 0 else 1) [w32 n, w32 k] s
  else setTask r (.calRestore true base bytes left n k) s

/-- An array has left CALIBRATING: the saves and restores that wait for it go on (R368, R369). -/
def calWaiters (a : Nat) (s : State) : State :=
  if calibrating s a then s
  else s.host.running.foldl (fun s r => match r.task with
    | .calSave base as =>
      if as.contains a then
        let s := saveRecord base a s
        let left := as.filter (· != a)
        if left.isEmpty then saveDone r base s else setTask r (.calSave base left) s
      else s
    | .calRestore true base bytes as n k =>
      if as.contains a then restoreArrays r base bytes n k as s else s
    | _ => s) s

end Sys2Proof.Machine
end

