-- ==== Sys2Proof/Machine/Net.lean ====
section
/-! DEFINITION. What the module sends over the fabric: the choice of a port (R222, R223), the queues, the messages of the
seal, the rings, the recall and the twin, and the bytes of a packet (Table 8-7). -/

namespace Sys2Proof.Config

/-- Payload bytes of a message whose layout the spec does not give (log entry 17). -/
opaque messagePayload : Sys2Proof.Machine.Msg → List Byte

/-- A MESSAGE payload is one of the recall messages of Table 10-2: the spec does not say what tells them from the others (log
entry 17). -/
opaque isRecallMessage : List Sys2Proof.Byte → Bool

end Sys2Proof.Config

namespace Sys2Proof.Machine

/-- The port is up (FAB_PORT_STAT.STATE). -/
def portUp (s : State) (p : Nat) : Bool := fld (port s p).stat 1 0 == 2

/-- Rack port P(i). -/
def rackPort (i : Nat) : Nat := if i < 8 then i else i + 1

/-- The first rack port in service from i on, in ascending cyclic order (R223). -/
def rackFrom (s : State) (i : Nat) : Option Nat :=
  ((List.range 16).map fun k => rackPort ((i + k) % 16)).find? (portUp s)

/-- The device is the twin partner on the twin ports: a twin port names it as its peer (Table 8-15), and the path is not the rack
ports (R293). -/
def isPartner (s : State) (d : DevId) : Bool :=
  !bit s.rel.twinCfg 30 && (fld (port s 8).stat 29 12 == d.toNat || fld (port s 17).stat 29 12 == d.toNat)

/-- The port for a destination: the twin rule, then the rack rule from index i (R222, R223). -/
def route (s : State) (die1 : Bool) (d : DevId) (i : Nat) : Option Nat :=
  let first := if die1 then 17 else 8
  let other := if die1 then 8 else 17
  if isPartner s d && portUp s first then some first
  else if isPartner s d && portUp s other then some other
  else rackFrom s (i % 16)

def slotOf (d : DevId) : Nat := d.toNat % 64

/-- Index of a courier message: destination slot plus own slot (R222). -/
def courierIndex (s : State) (d : DevId) : Nat := (slotOf d + slotOf (ownId s)) % 16

/-- Index of a bulk request: SLOT plus LOCAL bits 15:12 of the destination address. -/
def bulkIndex (g : W64) : Nat := (fld g 45 40 + fld g 15 12) % 16

def devOf (g : W64) : DevId := BitVec.ofNat 18 (fld g 57 40)

def localOf (g : W64) : Nat := fld g 39 0

/-- Blocks of a caravan half, 33 B each. -/
def cvBlocks (p : CvPkt) : Nat := p.blocks.length / 33

def cvPayload (p : CvPkt) : List Byte := leBytes 4 p.rowmap.toNat ++ p.s :: leBytes 3 0 ++ p.blocks

/-- GADDR.LOCAL of a caravan packet (Table 9-5). -/
def cvLocal (p : CvPkt) : Nat :=
  p.caravan.toNat * 2 ^ 32 + p.gather.toNat * 2 ^ 31 + p.half.toNat * 2 ^ 30 + p.gen.toNat * 2 ^ 24 + p.tile.toNat

/-- Payload of a recall message (Table 10-2). -/
def recallPayload (kind : Nat) (m : RecallMsg) : List Byte :=
  leBytes 4 (kind * 2 ^ 28 + m.ctx.toNat * 2 ^ 24 + m.tallies.length * 2 ^ 16 + m.launch.toNat)
    ++ leBytes 4 m.epoch.toNat ++ leBytes 8 m.milestone.toNat ++ m.tallies.flatMap fun t => leBytes 2 t.toNat

def msgPayload (m : Msg) : List Byte :=
  match m with
  | .recall r => recallPayload 1 r
  | .recallAck r => recallPayload 2 r
  | .replayed r => recallPayload 3 r
  | .caravan p => cvPayload p
  | m => ((Config.messagePayload m) ++ List.replicate 32 0#8).take 32

/-- The job context that a message belongs to; none for the messages of device scope (R234). -/
def msgCtx (m : Msg) : Option (BitVec 4) :=
  match m with
  | .offer m => some m.ctx
  | .go m => some m.ctx
  | .recall m => some m.ctx
  | .recallAck m => some m.ctx
  | .replayed m => some m.ctx
  | .caravan p => some p.ctx
  | .hold c _ => some c
  | .stuck c _ => some c
  | .goQuery c _ _ => some c
  | .withdraw c _ _ => some c
  | .withdrawAck c _ => some c
  | .summary c _ _ _ _ _ => some c
  | .digest c _ _ _ _ => some c
  | .restart c _ _ _ _ => some c
  | .pulse c _ _ => some c
  | .mirrorCommit c _ => some c
  | .beacon _ => none
  | .stallNotice _ _ => none
  | .heartbeat => none
  | .landingFree => none

/-- The epoch that a message names for a launch or a caravan; zero for the others (Table 8-7). -/
def msgEpoch (m : Msg) : Word :=
  match m with
  | .recall m => m.epoch
  | .recallAck m => m.epoch
  | .replayed m => m.epoch
  | .caravan p => p.epoch
  | _ => 0#32

/-- The packet of a message (Tables 8-7, 9-5): type MESSAGE, KIND 0b10 but for a management message, and the job of its context;
a message of device scope carries job 0 (R234). -/
def msgPkt (s : State) (vc : Nat) (dst : DevId) (tag : BitVec 16) (m : Msg) : Pkt :=
  let body := msgPayload m
  let loc : Nat := match m with
    | .caravan p => cvLocal p
    | _ => 0
  { gaddr := w64 (0x20 * 2 ^ 58 + dst.toNat * 2 ^ 40 + loc), ctx := (msgCtx m).getD 0#4, src := ownId s
    job := match m with
      | .caravan p => p.job
      | m => ((msgCtx m).map fun c => (ctxU s c).job).getD 0#32
    epoch := msgEpoch m, resp := 0#4
    tag := match m with
      | .caravan p => BitVec.ofNat 16 p.hop
      | _ => tag
    poison := match m with
      | .caravan p => p.poison
      | _ => false
    kind := if vc = 15 then 0#2 else 2#2, length := BitVec.ofNat 13 body.length, resv := false, payload := body }

/-- Payload bytes of a message: Table 10-2 for the recall messages, Table 9-5 for a caravan, 0 to 224 for the others,
one flit each (log entry 17). -/
def msgLen : Msg → Nat
  | .recall m => 16 + 2 * m.tallies.length
  | .recallAck m => 16 + 2 * m.tallies.length
  | .replayed m => 16 + 2 * m.tallies.length
  | .caravan p => 8 + p.blocks.length
  | _ => 32

def flitsOf (len : Nat) : Nat := (32 + len + 223) / 224

def bodyLen : Body → Nat
  | .pkt p => p.payload.length
  | .msg m => msgLen m

/-- FAB_TIME_STAT.TIME_VALID. -/
def timeValid (s : State) : Bool := bit s.fab.timeStat 0

/-- Put an item into a port's transmit queue; a courier item is stamped while the time is valid (R230). -/
def enqueue (p vc : Nat) (dst : DevId) (die : Bool) (tag : BitVec 16) (b : Body) (s : State) : State :=
  let st := if vc = 0 && timeValid s then some s.rack else none
  modPort s p fun x => { x with queue := x.queue ++ [⟨vc, dst, flitsOf (bodyLen b), b, st, false, 0, die, tag⟩] }

/-- A fresh tag. -/
def freshTag (s : State) : BitVec 16 × State :=
  (s.fab.nextTag, modFab s fun f => { f with nextTag := f.nextTag + 1 })

/-- A message is queued on a port. It is a request, so it stays outstanding until it is answered (R226). -/
def postMsg (p vc : Nat) (dst : DevId) (m : Msg) (s : State) : State :=
  let (tag, s) := freshTag s
  let s := enqueue p vc dst false tag (.msg m) s
  modFab s fun f => { f with outst := f.outst ++ [⟨tag, msgPkt s vc dst tag m, p, 0, false⟩] }

/-- Send a message to a device on a channel; with no port in service FAB_ERR.NO_ROUTE is set (R223). The machinery that sends the
module's messages lies, in the model, on die 0 (log entry 54). -/
def sendMsg (vc : Nat) (dst : DevId) (m : Msg) (s : State) : State :=
  match route s false dst (courierIndex s dst) with
  | some p => postMsg p vc dst m s
  | none => modFab s fun f => { f with err := setBit f.err 1 }

/-- A courier message to every device of a list. -/
def sendAll (ds : List DevId) (m : Msg) (s : State) : State := ds.foldl (fun s d => sendMsg 0 d m s) s

/-- The context that holds a non-zero job id (R234). -/
def ctxOfJob (s : State) (job : Word) : Option (BitVec 4) :=
  if job = 0#32 then none
  else (s.ctxs.find? fun e => e.2.live && e.2.job == job).map fun e => BitVec.ofNat 4 e.1

/-! ## Caravans: the table, the ring and the ledger (R250 to R266) -/

def cvBase (s : State) : Nat := fld s.fab.cvtabHi 7 0 * 2 ^ 32 + fld s.fab.cvtabLo 31 16 * 2 ^ 16

/-- Address of the entry of caravan n for an epoch: index 2n + (k mod 2) (R250). -/
def cvEntry (s : State) (n : BitVec 8) (epoch : Word) : Nat := cvBase s + 128 * (2 * n.toNat + epoch.toNat % 2)

def ringCfg (s : State) (g : Nat) : Word := tget 0#32 s.fab.ringCfg g

def ringN (s : State) (g : Nat) : Nat := fld (ringCfg s g) 25 13

def ringPos (s : State) (g : Nat) : Nat := fld (ringCfg s g) 12 0

/-- Device id at a position of the member list (R252). -/
def ringMember (s : State) (g pos : Nat) : DevId :=
  let base := fld (tget 0#32 s.fab.ringHi g) 7 0 * 2 ^ 32 + fld (tget 0#32 s.fab.ringLo g) 31 2 * 4
  BitVec.ofNat 18 (fld (readWord s (base + 4 * (pos % max 1 (ringN s g)))) 17 0)

def ringNext (s : State) (g : Nat) : DevId := ringMember s g (ringPos s g + 1)

def ringPrev (s : State) (g : Nat) : DevId := ringMember s g (ringPos s g + ringN s g - 1)

def tileCols (cv : Caravan) : Nat := (padCols cv.cols + 63) / 64
def tileRows (cv : Caravan) : Nat := (cv.rows + 63) / 64
def tileCount (cv : Caravan) : Nat := tileRows cv * tileCols cv

/-- Blocks per row of a tile: one in a last tile column when Cp is no multiple of 64 (R253). -/
def tileBlocks (cv : Caravan) (t : Nat) : Nat :=
  min 2 ((padCols cv.cols - 64 * (t % max 1 (tileCols cv))) / 32)

/-- Rows of the layer in a half of a tile. -/
def halfRows (cv : Caravan) (t : Nat) (half : Bool) : Nat :=
  min 32 (cv.rows - (64 * (t / max 1 (tileCols cv)) + if half then 32 else 0))

/-- Home core of a tile: the core of the array of its first weight (R253). -/
def homeCore (l : Layer) (cv : Caravan) (t : Nat) : Nat :=
  let r := 64 * (t / max 1 (tileCols cv))
  let i := 64 * (t % max 1 (tileCols cv))
  (lFirst l + r / max 1 (weightsPerRow (lWidth l)) * lTin l + i / 512) / 8

def sameCv (c : BitVec 4) (n : BitVec 8) (e : Word) (v : Caravan) : Bool := v.ctx == c && v.n == n && v.epoch == e

def findCv (s : State) (c : BitVec 4) (n : BitVec 8) (e : Word) : Option Caravan :=
  s.fab.caravans.find? (sameCv c n e)

def modCv (s : State) (c : BitVec 4) (n : BitVec 8) (e : Word) (f : Caravan → Caravan) : State :=
  modFab s fun x => { x with caravans := x.caravans.map fun v => if sameCv c n e v then f v else v }

/-- The status bytes of a caravan (Table 9-2). -/
def cvStatusBytes (v : Caravan) : List Byte :=
  let w := v.state.toNat + 16 * v.gen + 256 * (if 0 < v.invalid then 1 else 0) + 512 * v.poison.toNat
    + 1024 * v.digital.toNat + 2048 * v.sat.toNat + 4096 * v.restarted.toNat
  let done := v.state == 2#3
  leBytes 4 w ++ leBytes 4 v.final.length ++ leBytes 4 v.satBlocks ++ leBytes 4 v.maxBump ++ leBytes 4 v.bump4
    ++ leBytes 4 (min v.invalid 0xFFFFFFFF) ++ leBytes 8 0
    ++ leBytes 16 (if done then v.sent.toNat else 0) ++ leBytes 16 (if done then v.recv.toNat else 0)

/-- The module writes a caravan's status into the table (Table 9-2). -/
def cvWriteStatus (v : Caravan) (s : State) : State :=
  storeBytes s (cvEntry s v.n v.epoch + 64) (cvStatusBytes v) false

/-- Change a caravan and write its status. -/
def setCv (v : Caravan) (s : State) : State := cvWriteStatus v (modCv s v.ctx v.n v.epoch fun _ => v)

def redErr (i : Nat) (s : State) : State := modFab s fun f => { f with redErr := setBit f.redErr i }

/-- A member that has offered and holds no GO withdraws its offer (R279, R412); the root's own offer is void at once. -/
def withdrawOffer (c : BitVec 4) (s : State) : State :=
  let u := ctxU s c
  match u.sealSt.hdr with
  | none => s
  | some h =>
    if !u.sealSt.offered || u.sealSt.pendingGo.isSome then s
    else
      let s := if sealState u = 2 then setSealState c 1 s else s
      let s := modSeal s c fun x => { x with offered := false }
      if h.parent = ownId s then s
      else sendMsg 0 h.parent (.withdraw c (openEpoch u) (ownId s)) (modSeal s c fun x => { x with withdrawn := true })

/-- A detection is outstanding for the context's open epoch; `unc`: no retry cures it (R179, R285, R412). -/
def outstanding (c : BitVec 4) (unc : Bool) (s : State) : State :=
  withdrawOffer c (modSeal s c fun x => { x with detect := true, uncurable := x.uncurable || unc })

/-- A detection that a replay cures: after the offer it makes the next offer not OK (R412). -/
def lateDetection (c : BitVec 4) (s : State) : State :=
  if (ctxU s c).sealSt.offered then withdrawOffer c (modSeal s c fun x => { x with lateDet := true }) else s

/-- The caravan enters FAULT, which counts as an outstanding detection that a retry does not cure (R261, R285). -/
def cvFault (v : Caravan) (s : State) : State :=
  outstanding v.ctx true (redErr 2 (setCv { v with state := 3#3, halves := [] } s))

/-- H(p) of R266. -/
def cvDigest (p : CvPkt) : BitVec 128 :=
  let b := leBytes 5 (cvLocal p) ++ leBytes 4 p.epoch.toNat ++ cvPayload p
  BitVec.ofNat 128 ((crc64 0 b).toNat + 2 ^ 64 * (crc64 0xFFFFFFFFFFFFFFFF b.reverse).toNat)

/-- The tile's home core lies on die 1 (R222, R253). -/
def homeDie (s : State) (v : Caravan) (t : Nat) : Bool :=
  match layerRec s v.ctx v.layer.toNat with
  | some l => decide (256 ≤ homeCore l v t)
  | none => false

/-- Send a half to the next member on channel g, port P((τ + n) mod 16) or the twin rule of its home core's die, and count it in SENT (R260,
R266). -/
def cvSend (v : Caravan) (gather half : Bool) (hop tile rowmap : Nat) (blocks : List Byte) (s : State) : State :=
  let poison := (chunks 33 blocks).any fun b => zb8Bit (b.headD 0#8) 3
  let p : CvPkt := ⟨ownId s, v.ctx, (ctxU s v.ctx).job, v.epoch, hop, poison, v.n, gather, half, false,
    BitVec.ofNat 4 v.gen, BitVec.ofNat 24 tile, w32 rowmap, v.s, blocks⟩
  let dst := ringNext s v.ring
  match route s (homeDie s v tile) dst ((tile + v.n.toNat) % 16) with
  | none => modFab s fun f => { f with err := setBit f.err 1 }
  | some q =>
    let s := enqueue q v.ring dst (homeDie s v tile) 0#16 (.msg (.caravan p)) s
    let s := modPort s q fun x => { x with redTx := satWord x.redTx 1 }
    modCv s v.ctx v.n v.epoch fun c => if c.interval then c else { c with sent := c.sent + cvDigest p }

/-! ## Contributions (R255, R256) -/

/-- FP32 sum over slices, ascending, of one element of the contribution area. -/
def contribElt (s : State) (v : Caravan) (base row col : Nat) : Word :=
  let at_ (j : Nat) : Word := readWord s (base + 4 * ((j * v.rows + row) * padCols v.cols + col))
  ((List.range (v.slices.length - 1)).map fun j => at_ (j + 1)).foldl f32Add (at_ 0)

/-- Bit i of a bit mask in memory; a mask address of none keeps everything (R112). The spec gives no order of the bits of a mask
nor of the tiles of a block mask: bit i lies in byte i / 8 at bit i mod 8, and tiles are numbered row by row as R253 numbers
them (DESIGN CHOICE, log entry 52). -/
def maskBit (s : State) (base i : Nat) : Bool := base == noAddr || (memByte s (base + i / 8)).toNat / 2 ^ (i % 8) % 2 == 1

/-- The masks of the layer keep no row of the tile (R112): its block bit is 0, or none of its row bits is 1. -/
def tileMasked (s : State) (v : Caravan) (t : Nat) : Bool :=
  match layerRec s v.ctx v.layer.toNat with
  | none => false
  | some l =>
    let r0 := 64 * (t / max 1 (tileCols v))
    !maskBit s (lBlockMask l) t || !(List.range (min 64 (v.rows - r0))).any fun r => maskBit s (lRowMask l) (r0 + r)

/-- A tile is ready when every slice has contributed all its micro-batches, or when the masks leave it empty (R255). -/
def tileIsReady (s : State) (v : Caravan) (t : Nat) : Bool :=
  tileMasked s v t || (List.range v.slices.length).all fun j =>
    decide ((v.slices.getD j (0#16, 0#16)).2.toNat ≤ tget 0 v.counts (2 ^ 24 * j + t))

/-- No FP32 rounding: one slice with one micro-batch (R255). -/
def isExact (v : Caravan) : Bool := v.slices.length == 1 && v.slices.all fun x => x.2 == 1#16

/-- The present rows of a half with their exact values, 32 per block (R255, R256). -/
def contribRows (s : State) (v : Caravan) (t : Nat) (half : Bool) : List (Nat × List Fv) :=
  let off := if half then 32 else 0
  let present := tget 0#64 v.rowsOf t
  let width := 32 * tileBlocks v t
  let r0 := 64 * (t / max 1 (tileCols v))
  let c0 := 64 * (t % max 1 (tileCols v))
  ((List.range (halfRows v t half)).filter fun r => bit present (off + r)).map fun r =>
    (r, match (if isExact v then none else v.contrib) with
      | none => (((tget [] v.exact t).find? fun e => e.1 == off + r).map (·.2)).getD [] |>.map fun d =>
          match d with
          | some d => Fv.fin (d.m < 0) d
          | none => Fv.nan
      | some base => (List.range width).map fun c => f32ToFv (contribElt s v base (r0 + off + r) (c0 + c)))

/-- RNE(v / 2^k) of a finite value. -/
def fvRound (k : Int) : Fv → Option Int
  | .fin _ d => some (rneScale d.m (d.e - k))
  | _ => none

/-- Smallest bump from `b` to 7 that fits every code into ±127; 7 and saturation when none does (R256, R258). -/
def pickBump (vals : List (Option Dy)) : Nat → Nat → Nat × Bool
  | 0, b => (b, vals.any fun d => match d with
      | some d => 127 < (rneScale d.m (d.e - Int.ofNat b)).natAbs
      | none => false)
  | k + 1, b =>
    if vals.all fun d => match d with
      | some d => (rneScale d.m (d.e - Int.ofNat b)).natAbs ≤ 127
      | none => true
    then (b, false) else pickBump vals k (b + 1)

def clampCode (i : Int) : Int := if 127 < i then 127 else if i < -127 then -127 else i

/-- A ZB8 block of values in units of 2^S, from the least bump `b0` allowed (R256, R258). -/
def zb8Pack (vals : List (Option Dy)) (b0 : Nat) (poison digital invalid sat : Bool) : List Byte :=
  let (b, clip) := pickBump vals (7 - b0) b0
  let code (d : Option Dy) : Byte := match d with
    | none => 0x80#8
    | some d => BitVec.ofInt 8 (clampCode (rneScale d.m (d.e - Int.ofNat b)))
  zb8Header b poison digital (invalid || vals.any (· == none)) (sat || clip) :: vals.map code

/-- The member's own values in units of 2^S; none for a NaN or an infinity. -/
def ownUnits (s : BitVec 8) (vs : List Fv) : List (Option Dy) :=
  vs.map fun v => match v with
    | .fin _ d => some ⟨d.m, d.e - s.toInt⟩
    | _ => none

/-- Key of the marks of a slice's contribution to a block (R256). -/
def markKey (slice t row block : Nat) : Nat := 2 ^ 32 * slice + 2 * (64 * t + row) + block

/-- POISON and DIGITAL of the contributions to a block, over every slice. -/
def blockMarks (v : Caravan) (t row block : Nat) : Byte :=
  (List.range v.slices.length).foldl (fun b j => b ||| tget 0#8 v.marks (markKey j t row block)) 0#8

/-- A member's own encoding of one block (R256). -/
def zb8Encode (s : BitVec 8) (marks : Byte) (vs : List Fv) : List Byte :=
  zb8Pack (ownUnits s vs) 0 (zb8Bit marks 3) (zb8Bit marks 2) false false

/-- A present row as this member encodes it. -/
def ownRow (v : Caravan) (t row : Nat) (vs : List Fv) : List (List Byte) :=
  let cs := chunks 32 vs
  (List.range cs.length).map fun k => zb8Encode v.s (blockMarks v t row k) (cs.getD k [])

/-- WADD of one block (R258): the incoming header and codes, and the member's own values and marks. A block received
with the reserved header bit is invalid in every element (Table 5-4). -/
def waddBlock (s : BitVec 8) (header : Byte) (codes : List Byte) (own : List Fv) (ownHeader : Byte) : List Byte :=
  let beta := zb8Bump header
  let bad := zb8Bit header 4
  let mine := ownUnits s own
  let vals := (List.range codes.length).map fun i =>
    let c := codes.getD i 0#8
    if bad || c == 0x80#8 then none
    else match mine.getD i (some ⟨0, 0⟩) with
      | none => none
      | some d => some (dyAdd ⟨c.toInt * pow2 beta, 0⟩ d)
  zb8Pack vals beta (zb8Bit header 3 || zb8Bit ownHeader 3) (zb8Bit header 2 || zb8Bit ownHeader 2)
    (zb8Bit header 1 || zb8Bit ownHeader 1) (zb8Bit header 0 || zb8Bit ownHeader 0)

/-- Bit r of a row map. -/
def rowIn (rowmap r : Nat) : Bool := rowmap / 2 ^ r % 2 == 1

/-- The half as this member starts its chain: row map and blocks (R256). -/
def ownHalf (s : State) (v : Caravan) (t : Nat) (half : Bool) : Nat × List Byte :=
  let rows := contribRows s v t half
  (rows.foldl (fun m r => m + 2 ^ r.1) 0, rows.flatMap fun r => (ownRow v t (r.1 + if half then 32 else 0) r.2).flatten)

/-- The addition of an arriving half and the member's contribution, row by row (R258). -/
def addHalf (s : State) (v : Caravan) (t : Nat) (half : Bool) (rowmap : Nat) (blocks : List Byte) : Nat × List Byte :=
  let mine := contribRows s v t half
  let nb := tileBlocks v t
  let rec go (rows : List Nat) (bs : List (List Byte)) : Nat × List Byte :=
    match rows with
    | [] => (0, [])
    | r :: rest =>
      let inc := rowIn rowmap r
      let row := r + if half then 32 else 0
      let own := (mine.find? fun e => e.1 == r).map (·.2)
      let here := if inc then bs.take nb else []
      let tail := go rest (if inc then bs.drop nb else bs)
      if inc then
        let add := (List.range nb).flatMap fun k =>
          let b := here.getD k []
          let vs := (own.getD []).drop (32 * k) |>.take 32
          let oh : Byte :=
            if own.isSome then (zb8Encode v.s (blockMarks v t row k) vs).headD 0#8 &&& 0x0F#8 else 0#8
          waddBlock v.s (b.headD 0#8) (b.drop 1) vs oh
        (tail.1 + 2 ^ r, add ++ tail.2)
      else match own with
        | some vs => (tail.1 + 2 ^ r, (ownRow v t row vs).flatten ++ tail.2)
        | none => tail
  go (List.range 32) (chunks 33 blocks)

/-- Bits ORed into the bitmap at BITMAP_ADDR (R262). -/
def orBitmap (s : State) (base row : Nat) : State :=
  let a := base + row / 8
  storeBytes s a [memByte s a ||| BitVec.ofNat 8 (2 ^ (row % 8))] false

/-- Write a final half: its rows, the bitmap, the status counts and completion (R262, R264). -/
def cvFinal (v : Caravan) (t : Nat) (half : Bool) (rowmap : Nat) (blocks : List Byte) (s : State) : State :=
  let nb := tileBlocks v t
  let row0 := 64 * (t / max 1 (tileCols v)) + if half then 32 else 0
  let rows := (List.range 32).filter (rowIn rowmap)
  let bs := chunks 33 blocks
  let s := (List.range rows.length).foldl (fun s k =>
    let r := row0 + rows.getD k 0
    let data := (bs.drop (nb * k)).take nb
    let addr := v.result + r * 33 * (padCols v.cols / 32) + 66 * (t % max 1 (tileCols v))
    orBitmap (storeBytes s addr data.flatten (data.any fun b => zb8Bit (b.headD 0#8) 3)) v.bitmap r) s
  if v.final.any (· == (t, half)) then s
  else
    let heads := bs.map (·.headD 0#8)
    let inv := bs.foldl (fun n b => n + (b.drop 1).countP (· == 0x80#8)) 0
    let nsat := heads.countP (zb8Bit · 0)
    match findCv s v.ctx v.n v.epoch with
    | none => s
    | some w =>
      let w := { w with
        final := w.final ++ [(t, half)]
        satBlocks := w.satBlocks + nsat
        maxBump := heads.foldl (fun m h => max m (zb8Bump h)) w.maxBump
        bump4 := w.bump4 + heads.countP (fun h => 4 ≤ zb8Bump h)
        invalid := w.invalid + inv
        poison := w.poison || heads.any (zb8Bit · 3)
        digital := w.digital || heads.any (zb8Bit · 2)
        sat := w.sat || nsat != 0 }
      let w := if w.final.length = 2 * tileCount w then { w with state := 2#3 } else w
      let s := setCv w s
      let s := if nsat = 0 then s
        else redErr 7 (modSeal (modFab s fun f => { f with satCnt := satWord f.satCnt nsat }) v.ctx
          fun x => { x with ringSat := true })
      let s := if inv = 0 then s else redErr 8 s
      if heads.any (zb8Bit · 3) then redErr 9 s else s

/-- Position of the chain start of a tile's chunk, and the chunk (R257). -/
def chunkOf (s : State) (v : Caravan) (t : Nat) : Nat := t % max 1 (ringN s v.ring)

/-- Cluster of a tile's home core. -/
def homeCluster (s : State) (v : Caravan) (t : Nat) : Nat :=
  match layerRec s v.ctx v.layer.toNat with
  | some l => clusterOfCore (homeCore l v t)
  | none => 0

/-- A waystation operation of a tile issues on its home cluster (R276). -/
def noteOp (v : Caravan) (t : Nat) (s : State) : State :=
  let c := homeCluster s v t
  modCv s v.ctx v.n v.epoch fun w => { w with ops := tset 0 w.ops c (s.rack.toNat + 1) }

/-- Start the chain of a ready tile, both halves; with N = 1 the encoded halves are the result (R252, R257). -/
def startChain (v : Caravan) (t : Nat) (s : State) : State :=
  let n := ringN s v.ring
  let s := noteOp v t (modCv s v.ctx v.n v.epoch fun c => { c with started := c.started ++ [t] })
  [false, true].foldl (fun s half =>
    let h := ownHalf s v t half
    if n ≤ 1 then cvFinal v t half h.1 h.2 s else cvSend v false half 1 t h.1 h.2 s) s

/-- This member starts the chain of tile t. -/
def startsChain (s : State) (v : Caravan) (t : Nat) : Bool :=
  let n := max 1 (ringN s v.ring)
  (chunkOf s v t + 1) % n == ringPos s v.ring % n

/-- A half held in a waystation slot goes on: the addition, then the next hop or the result (Table 9-3). A final half is sent
on before it is written, so that the digests in the status of a COMPLETE caravan hold every packet (R266). -/
def forwardHalf (v : Caravan) (h : Half) (s : State) : State :=
  let n := max 1 (ringN s v.ring)
  if h.gather then
    let s := if h.hop + 1 < n then cvSend v true h.half (h.hop + 1) h.tile h.rowmap.toNat h.blocks s else s
    cvFinal v h.tile h.half h.rowmap.toNat h.blocks s
  else
    let r := addHalf s v h.tile h.half h.rowmap.toNat h.blocks
    let s := noteOp v h.tile s
    if h.hop + 1 = n then
      cvFinal v h.tile h.half r.1 r.2 (cvSend v true h.half 1 h.tile r.1 r.2 s)
    else cvSend v false h.half (h.hop + 1) h.tile r.1 r.2 s

/-- Steps 2 and 3 of R268 at a generation: the caravan starts again, halves of a lower generation are discarded, and
the chains this member starts are started anew with the contributions it holds. -/
def restartAt (v : Caravan) (gen : Nat) (send : Bool) (s : State) : State :=
  if 15 < gen then redErr 5 (cvFault v s)
  else
    let w := { v with
      gen := gen, restarted := true, state := 1#3, final := [], satBlocks := 0, maxBump := 0, bump4 := 0, invalid := 0,
      poison := false, digital := false, sat := false, started := []
      halves := v.halves.filter fun h => gen ≤ h.gen }
    let s := setCv w s
    let s := storeBytes s v.bitmap (List.replicate ((v.rows + 7) / 8) 0#8) false
    let others := ((List.range (ringN s v.ring)).filter (· != ringPos s v.ring)).map (ringMember s v.ring)
    let s := if send then
        sendAll others (.restart v.ctx v.n v.epoch (BitVec.ofNat 4 gen) (ctxU s v.ctx).milestone) s
      else s
    ((List.range (tileCount w)).filter fun t => startsChain s w t && tileIsReady s w t).foldl
      (fun s t => startChain w t s) s

end Sys2Proof.Machine
end

