-- ==== Sys2Proof/Machine/Contain.lean ====
section
/-! DEFINITION. Containment shared by many commands: pass and product discard (R106, R56), launch recall (R277), the end of
a launch, context termination (R289), the unit history (R290) and fences (R64, R292). -/

namespace Sys2Proof.Machine

/-! ## Discards -/

/-- Discard the passes of a core that a cause names, running or queued (Table 4-6, R106). -/
def discardCore (s : State) (k : Nat) (bad : Queued → Bool) : State :=
  let c := core s k
  let hit := c.passq.any bad || c.drain.any (fun p => bad p.job)
    || (match c.stream with
        | some p => bad p.job
        | none => false)
    || (match c.retry with
        | some q => bad q
        | none => false)
  if hit then
    modCore s k fun c => { c with
      passq := c.passq.filter fun q => !bad q
      drain := c.drain.filter fun p => !bad p.job
      stream := c.stream.filter fun p => !bad p.job
      retry := c.retry.filter fun q => !bad q
      engErr := setBit c.engErr 4 }
  else s

/-- Discard on every core. -/
def discardAll (s : State) (bad : Queued → Bool) : State := (s.cores.map (·.1)).foldl (fun s k => discardCore s k bad) s

/-- Discard every product of some launches on an array, as R56 does: reads in flight and partial results go. -/
def dropProducts (bad : Nat → Bool) (u : ArrU) : ArrU :=
  let hit := match u.cur with
    | some p => bad p.launch
    | none => false
  { u with
    queue := u.queue.filter fun p => !bad p.launch
    dig := u.dig.filter fun p => !bad p.launch
    cur := if hit then none else u.cur
    flight := if hit then [] else u.flight
    failed := if hit then none else u.failed
    behind := if hit then [] else u.behind }

/-- The product in progress is put back whole, to be served under the layer's policy (R56, R172). -/
def restartProduct (u : ArrU) : ArrU :=
  match u.cur with
  | some p => { u with cur := none, flight := [], failed := none, behind := [],
                       queue := { p with acc := [], plane := 0, span := 0, sat := [] } :: u.queue }
  | none => { u with flight := [], failed := none, behind := [] }

def dropAllProducts (s : State) (bad : Nat → Bool) : State :=
  { s with arrays := s.arrays.map fun e => (e.1, dropProducts bad e.2) }

/-! ## Tensor statistics (R158, R159) -/

def Entry.cleared (e : Entry) : Entry :=
  { e with blocks := 0#32, zero := 0#32, sat := 0#32, dig := 0#32, inexact := 0#32, winlow := 0#32, invalid := 0#32,
           nonfin := 0#32, amax := 0#32, town := setFld e.town 30 29 0 }

/-- Clear the pending statistics of every entry that some launches own; the ownership stays (R159). -/
def clearStats (s : State) (own : Entry → Bool) : State :=
  { s with cores := s.cores.map fun c => (c.1, { c.2 with
      entries := c.2.entries.map fun e => if bit e.2.town 31 && own e.2 then (e.1, e.2.cleared) else e }) }

/-! ## STAGING row lists (R177, Table 7-3) -/

/-- Address of the staging tail. -/
def tailAddr (l : Layer) : Nat := lStaging l + lStateLen l

def rowListAddr (l : Layer) : Nat := tailAddr l + 0x40

def rowListBytes (l : Layer) : Nat := (lOut l + 7) / 8

/-- The row list is emptied, ROWS_STAGED with it. -/
def clearRowList (l : Layer) (s : State) : State :=
  let s := storeBytes s (tailAddr l + 4) (leBytes 4 0) false
  storeBytes s (rowListAddr l) (List.replicate (rowListBytes l) 0#8) false

/-- The staged rows of layers are dropped: their row lists are cleared, their staged outcome goes (R177, R413). -/
def dropStaging (ctx : BitVec 4) (ns : List (BitVec 12)) (s : State) : State :=
  ns.foldl (fun s n =>
    match layerRec s ctx n.toNat with
    | some l => modLayer (clearRowList l s) ctx n.toNat fun st => { st with staged := false, ratio := false }
    | none => s) s

/-- Clear the staging of the layers whose update a launch started, so that a replay may start it again (R277). -/
def unstage (ctx : BitVec 4) (ns : List (BitVec 12)) (s : State) : State :=
  ns.foldl (fun s n => modLayer s ctx n.toNat fun st => { st with
    started := false, refused := false, mismatch := false, skipped := false }) (dropStaging ctx ns s)

/-! ## UPD_STAT (R195, R211) -/

/-- Clusters whose cores hold a layer. -/
def layerClusters (l : Layer) : List Nat := ((lArrays l).map clusterOfArray).dedup

/-- UPD_STAT of every cluster of the layer in work. -/
def setUpdStat (l : Layer) (ctx : BitVec 4) (pass : Nat) (s : State) : State :=
  (layerClusters l).foldl (fun s c => modClus s c fun x => { x with
    updStat := setFld (setFld (setFld x.updStat 27 16 (lNum l)) 11 8 ctx.toNat) 2 0 pass }) s

/-- The clusters that show the layer are idle again. -/
def clearUpdStat (l : Layer) (ctx : BitVec 4) (s : State) : State :=
  (layerClusters l).foldl (fun s c => modClus s c fun x =>
    if fld x.updStat 27 16 = lNum l && fld x.updStat 11 8 == ctx.toNat then
      { x with updStat := setFld (setFld (setFld x.updStat 27 16 0xFFF) 11 8 0) 2 0 0 }
    else x) s

/-- The update of a launch is given up. -/
def dropUpdate (l : LaunchS) (s : State) : State :=
  match l.update with
  | none => s
  | some op => match layerRec s l.ctx op.layer.toNat with
    | some r => clearUpdStat r l.ctx s
    | none => s

/-! ## Ranges that no launch may write (R167) -/

/-- STATE, SHADOW, U and V of a layer record with their sizes. -/
def guardedRanges (l : Layer) : List (Nat × Nat) :=
  let nb := (lIn l + 31) / 32
  [(lState l, lStateLen l), (lShadow l, lOut l * lIn l), (lU l, lOut l * ((lRank l + 31) / 32) * 33),
   (lV l, lRank l * nb * 33)]

/-- A store of n bytes at a falls in a range of some resident layer (R167). -/
def guarded (s : State) (a n : Nat) : Bool :=
  (residents s).any fun e => (guardedRanges e.2).any fun g => g.1 != noAddr && rangesMeet a n g.1 g.2

/-! ## The end of a launch -/

/-- Release the stash reservations of a launch (R175). -/
def releaseStash (l : LaunchS) (s : State) : State :=
  modCtx s l.ctx fun x => { x with resv := x.resv.filter fun r => r.uid != l.uid }

/-- The launch has not ended and runs or will run. -/
def inFlight (l : LaunchS) : Bool := l.state != .ended && l.state != .stopped

/-! ## Admission (R163, R166, R186) -/

/-- Put a layer into the table of resident records, in ascending LAYER. -/
def insertLayer (l : Layer) : Tab Layer → Tab Layer
  | [] => [(lNum l, l)]
  | e :: t => if lNum l < e.1 then (lNum l, l) :: e :: t else if lNum l = e.1 then e :: t else e :: insertLayer l t

/-- The registers of an array that takes a layer (Tables 2-17, 3-11). -/
def placeOn (l : Layer) (u : ArrU) : ArrU :=
  { u with
    cfg := setFld (setFld (setFld (setFld (setFld u.cfg 27 16 (lNum l)) 15 12 (lWidth l)) 8 8 (lPolicy l).toNat)
      7 6 (lSpan l)) 5 3 (lRange l)
    wrcfg := setFld (setFld u.wrcfg 27 16 (lOrder l)) 8 3 (lThresh l) }

/-- A layer becomes resident in a context (R166). -/
def placeLayer (c : BitVec 4) (l : Layer) (s : State) : State :=
  if ((ctxU s c).layers.any fun e => e.1 == lNum l) then s
  else
    let s := modCtx s c fun x => { x with layers := insertLayer l x.layers }
    (lArrays l).foldl (fun s a => modArr s a (placeOn l)) s

/-! ## Commands that wait for writes (R90) -/

/-- The command is an ARRAY_WRITE that waits for an array. -/
def awaitsWrite (a : Nat) (r : Run) : Bool :=
  match r.task with
  | .arrayWrite as _ _ _ _ => as.contains a
  | _ => false

/-- An array leaves the list of an ARRAY_WRITE with its rows, stuck cells, fences and status (Table 11-9). -/
def writeLeaves (a rows stuck fenced status : Nat) (r : Run) (s : State) : State :=
  match r.task with
  | .arrayWrite as n k f t =>
    let left := as.filter (· != a)
    let st := worst t status
    if left.isEmpty then
      completeRun r (worst st (if 0 < f + fenced then 0x60 else if 0 < k + stuck then 1 else 0))
        [w32 (n + rows), w32 (k + stuck), w32 (f + fenced)] s
    else setTask r (.arrayWrite left (n + rows) (k + stuck) (f + fenced) st) s
  | _ => s

/-- An array leaves the lists of every ARRAY_WRITE. -/
def arrayWriteDone (a rows stuck fenced status : Nat) (s : State) : State :=
  (s.host.running.filter (awaitsWrite a)).foldl (fun s r => writeLeaves a rows stuck fenced status r s) s

/-- A write of an array ends: the ARRAY_WRITEs that it served go on. One asked for since the write began waits for the next
(R90). -/
def writeServed (a : Nat) (w : WriteOp) (status : Nat) (s : State) : State :=
  if !w.command then s
  else if (arr s a).byCommand.isSome then
    match s.host.running.find? (awaitsWrite a) with
    | some r => writeLeaves a w.rowsDone w.stuck 0 status r s
    | none => s
  else arrayWriteDone a w.rowsDone w.stuck 0 status s

/-! ## Records that stop being resident (Table 11-9) -/

/-- The array is WRITING. -/
def arrayWriting (s : State) (a : Nat) : Bool :=
  fld (arr s a).state 1 0 == 1 && !(bit (arr s a).state 17 && !(arr s a).retest)

def layerWriting (s : State) (l : Layer) : Bool := (lArrays l).any (arrayWriting s)

/-- An array loses its layer: LAYER 0xFFF, WIDTH and THRESH 0, IMAGE_VALID cleared; its cells keep their levels. A rewrite
that waits for its grant has no layer left to write. -/
def clearPlace (u : ArrU) : ArrU :=
  { u with
    cfg := setFld (setFld u.cfg 27 16 0xFFF) 15 12 0, wrcfg := setFld u.wrcfg 8 3 0
    wrerr := if bit u.wrstat 0 then setBit u.wrerr 3 else u.wrerr, wrstat := clrBit u.wrstat 0
    request := none, granted := false, stamp := none, byCommand := none, state := clrBit u.state 15 }

/-- A record stops being resident in its context; an ARRAY_WRITE that still waits for its arrays ends with STATE_CONFLICT. -/
def removeLayer (c : BitVec 4) (n : Nat) (s : State) : State :=
  match layerRec s c n with
  | none => s
  | some l =>
    let s := modCtx s c fun x => { x with layers := x.layers.filter fun e => e.1 != n }
    let s := (lArrays l).foldl (fun s a => modArr s a clearPlace) s
    (lArrays l).foldl (fun s a => arrayWriteDone a 0 0 0 0x25 s) s

/-- With every context closed, a count that ran in holdover is given up for a beacon's (Table 8-13). -/
def reloadTime (s : State) : State :=
  if s.fab.reload && !(s.ctxs.any fun e => e.2.live) then
    modFab s fun f => { f with reload := false, timeStat := clrBit f.timeStat 0 }
  else s

/-- A context ceases to exist: its job id and its TERMINATED bit are cleared, and what it ran is gone. -/
def closeCtx (c : BitVec 4) (s : State) : State :=
  let s := modCtx s c fun x => { x with
    live := false, begun := false, job := 0#32, dead := false, faults := [], layers := [], slots := [], resv := [], relIn := none
    sealSt := SealS.reset, sealW := setFld (setFld x.sealW 14 12 0) 11 0 0 }
  let s := modRel s fun r => { r with term := clrBit r.term c.toNat }
  reloadTime (modFab s fun f => { f with
    caravans := f.caravans.filter fun v => v.ctx != c
    waiting := f.waiting.filter fun p => p.pkt.ctx != c, blocked := f.blocked.filter fun p => p.2.ctx != c })

/-- CTX_DESTROY goes on: records with no array WRITING stop being resident, and with the last the context ends. -/
def sweepOne (r : Run) (c : BitVec 4) (layers : List (BitVec 12)) (ended : Nat) (s : State) : State :=
  let busy (n : BitVec 12) : Bool := match layerRec s c n.toNat with
    | some l => layerWriting s l
    | none => false
  let left := layers.filter busy
  let s := (layers.filter fun n => !busy n).foldl (fun s n => removeLayer c n.toNat s) s
  if left.isEmpty then completeRun r 0 [w32 ended] (closeCtx c s) else setTask r (.ctxDestroy left ended) s

/-- Every CTX_DESTROY in progress goes on; called where a write of an array ends. -/
def sweepDestroy (s : State) : State :=
  s.host.running.foldl (fun s r => match r.task with
    | .ctxDestroy ls n => sweepOne r r.pkt.hdr.ctx ls n s
    | _ => s) s

/-- A SEAL launch is admitted: its header counts, and WITHDRAWs held for it go on (R279). -/
def admitSeal (l : LaunchS) (s : State) : State :=
  match l.sealHdr with
  | none => s
  | some h =>
    let held := (ctxU s l.ctx).sealSt.heldWithdraws
    let s := modSeal s l.ctx fun x => { x with hdr := some h, heldWithdraws := [] }
    held.foldl (fun s d =>
      if h.parent = ownId s then sendMsg 0 d (.withdrawAck l.ctx l.epoch) s
      else sendMsg 0 h.parent (.withdraw l.ctx l.epoch d) s) s

/-! ## Regions (R337) -/

def regState (r : Region) (w : Word) : Nat :=
  match r with
  | .digital => fld w 7 6
  | .array => fld w 9 8

def setRegState (r : Region) (v : Nat) (w : Word) : Word :=
  match r with
  | .digital => setFld w 7 6 v
  | .array => setFld w 9 8 v

/-- Bit of DIG_ON or ARR_ON. -/
def onBit : Region → Nat
  | .digital => 0
  | .array => 1

/-- A power-on is asked for: the region's ON bit and its state (R337). -/
def askPowerOn (c : Nat) (r : Region) (s : State) : State :=
  let st := regState r (clus s c).region
  let s := modClus s c fun x => { x with region := setBit x.region (onBit r) }
  if st = 0 then modClus s c fun x => { x with region := setRegState r 1 x.region }
  else if st = 3 then modClus s c fun x => { x with region := setRegState r 2 x.region }
  else s

/-- An admitted launch switches the regions of the clusters that it names on (R337). -/
def powerClusters (clusters : Word) (s : State) : State :=
  ((List.range 32).filter fun c => bit clusters c && !clusterOut s c).foldl (fun s c =>
    askPowerOn c .array (askPowerOn c .digital s)) s

/-- A launch is admitted and runs. -/
def admitLaunch (uid : Nat) (s : State) : State :=
  match findLaunch s uid with
  | none => s
  | some l =>
    let s := modLaunch s uid fun l => { l with state := .running, recs := [] }
    let s := l.recs.foldl (fun s r => placeLayer l.ctx r s) s
    let s := if l.kind = 4#4 then (if sealState (ctxU s l.ctx) ≤ 1 then setSealState l.ctx 4 s else s)
      else if sealState (ctxU s l.ctx) = 0 then setSealState l.ctx 1 s else s
    admitSeal l (powerClusters l.clusters s)

/-- An INTERVAL launch of the context runs (R186). -/
def intervalRuns (s : State) (c : BitVec 4) : Bool := s.launches.any fun l => l.ctx == c && l.kind == 4#4 && inFlight l

/-- A launch of the open epoch has been admitted, so that an INTERVAL launch can no longer run before it (R186). -/
def epochBegun (s : State) (c : BitVec 4) : Bool :=
  (ctxLaunches s c).any fun l => l.kind != 4#4 && l.epoch == openEpoch (ctxU s c) && l.state != .held

/-- Held launches of the open epoch are admitted unless an INTERVAL launch runs (R163, R186). -/
def admitHeld (c : BitVec 4) (s : State) : State :=
  if intervalRuns s c then s
  else
    let s := if sealState (ctxU s c) = 4 then setSealState c 1 s else s
    (s.launches.filter fun l => l.ctx == c && l.state == .held && l.epoch == openEpoch (ctxU s c)).foldl
      (fun s l => admitLaunch l.uid s) s

/-- A launch ends with a status: its command completes with LAUNCH, EPOCH, recalls and the time (Table 11-9), once. It stays in
the list until the next commit of its context. -/
def endLaunch (uid : Nat) (status : Nat) (st : LState) (s : State) : State :=
  match findLaunch s uid with
  | none => s
  | some l =>
    let s := modLaunch (dropUpdate l s) uid fun l => { l with
      state := st, update := none, tableSlot := none, gather := [], asked := false
      verify := if st = .stopped then [] else l.verify, groups := if st = .stopped then [] else l.groups }
    let res := [w32 l.number.toNat, l.epoch, w32 l.recalls, w32 s.rack.toNat, w32 (s.rack.toNat / 2 ^ 32)]
    let mine := s.host.running.filter fun r => r.task == .launch uid
    let s := modHost s fun h => { h with running := h.running.filter fun r => r.task != .launch uid }
    let s := mine.foldl (fun s r => finish r.pkt status res s) s
    if l.kind = 4#4 then admitHeld l.ctx s else s

/-- The entry is owned by the launch: of its context and by its launch number (R156, R159). -/
def owns (l : LaunchS) (e : Entry) : Bool :=
  l.kind != 4#4 && bit e.town 31 && e.ownCtx == l.ctx && fld e.town 15 0 == l.number.toNat

/-- A launch stops part way with a status: its passes and products are discarded, its pending effects are those of a
recall without replay (R413); the context records the fault of a refused access (R409). What its updates came to stays (Table 7-6). -/
def stopLaunch (uid : Nat) (status : Nat) (s : State) : State :=
  match findLaunch s uid with
  | none => s
  | some l =>
    let s := discardAll s fun q => q.launch == uid
    let s := dropAllProducts s fun u => u == uid
    let s := releaseStash l s
    let s := clearStats s (owns l)
    let s := dropStaging l.ctx l.updated s
    let s := if 0x51 ≤ status && status ≤ 0x57 then
        modCtx s l.ctx fun x => { x with faults := x.faults ++ [(l.number, BitVec.ofNat 16 status)] }
      else s
    endLaunch uid status .stopped s

/-! ## Recall (R277, R282, R283) -/

/-- Caravans of a launch's epoch that it feeds through a slice. -/
def launchCaravans (s : State) (l : LaunchS) : List Caravan :=
  s.fab.caravans.filter fun v => v.ctx == l.ctx && v.epoch == l.epoch && (v.state == 1#3 || v.state == 2#3)
    && v.slices.any fun x => x.1 == l.number

/-- The slices of a caravan that recalled launches feed. -/
def badSlices (v : Caravan) (numbers : List (BitVec 16)) : List Nat :=
  (List.range v.slices.length).filter fun j => numbers.contains (v.slices.getD j (0#16, 0#16)).1

/-- The caravan with the recalled launches' counts at zero (step 1 of R268). -/
def zeroSlices (v : Caravan) (numbers : List (BitVec 16)) : Caravan :=
  let bad := badSlices v numbers
  { v with counts := v.counts.filter fun e => !bad.contains (e.1 / 2 ^ 24)
           marks := v.marks.filter fun e => !bad.contains (e.1 / 2 ^ 32)
           exact := if bad.isEmpty then v.exact else [] }

/-- Address of the 2-byte count of a slice and tile in the contribution area (R255). -/
def countAddr (v : Caravan) (base slice tile : Nat) : Nat :=
  base + 4 * v.slices.length * v.rows * padCols v.cols + 2 * (slice * tileCount v + tile)

/-- The counts of the launches' slices are zeroed in the contribution area too (R268). -/
def zeroCountWords (v : Caravan) (numbers : List (BitVec 16)) (s : State) : State :=
  match v.contrib with
  | none => s
  | some base =>
    (badSlices v numbers).foldl (fun s j =>
      storeBytes s (countAddr v base j 0) (List.replicate (2 * tileCount v) 0#8) false) s

/-- Devices that a launch's completed signals forwarded to, with their tallies (R278). -/
def forwarded (l : LaunchS) : List (DevId × List (BitVec 14)) :=
  let all := l.signals.flatMap (·.2)
  let ds := (all.map (·.1)).dedup
  ds.map fun d => (d, ((all.filter fun x => x.1 == d).map (·.2)).dedup)

/-- RECALL messages to one device, at most 100 tallies each (R278, Table 10-2). -/
def sendRecalls (l : LaunchS) (d : DevId) (ts : List (BitVec 14)) (s : State) : State :=
  (chunks 100 ts).foldl (fun s c => sendMsg 0 d (.recall ⟨l.ctx, l.number, l.epoch, (ctxU s l.ctx).milestone, c⟩) s) s

/-- REL_CFG as it is in force for a context (R299). -/
def relCfg (s : State) (c : BitVec 4) : Word := (ctxU s c).relIn.getD s.rel.cfg

/-- REL_HIST_CFG as it is in force (R299). -/
def histCfg (s : State) : Word := s.rel.histIn.getD s.rel.histCfg

/-- The launch has begun a run that a recall undoes. -/
def recallable (l : LaunchS) : Bool := l.state == .running || l.state == .ended

/-- One launch is recalled, without what its caravans' restarts recall in turn (R277, R282, R283). -/
def recallOne (send : Bool) (uid : Nat) (s : State) : State :=
  match findLaunch s uid with
  | none => s
  | some l =>
    if !recallable l then s
    else
      let s := discardAll s fun q => q.launch == uid
      let s := dropAllProducts s fun u => u == uid
      let s := releaseStash l s
      let s := clearStats s (owns l)
      let s := dropUpdate l (unstage l.ctx l.updated s)
      let s := modRel s fun r => { r with replayCnt := satWord r.replayCnt 1 }
      let cfg := relCfg s l.ctx
      let hold := fld cfg 31 30 == 1
      let outs := if send && l.kind != 4#4 then forwarded l else []
      let s := if hold then s else outs.foldl (fun s d => sendRecalls l d.1 d.2 s) s
      let s := if hold && !outs.isEmpty then outstanding l.ctx true s
        else modSeal s l.ctx fun x => { x with
          recallsOut := x.recallsOut ++ outs.flatMap fun d => (chunks 100 d.2).map fun _ => (d.1, l.number) }
      let s := modSeal s l.ctx fun x => { x with replayed := x.replayed || l.kind != 4#4 }
      let tooMany := decide (fld cfg 25 22 < l.recalls + 1)
      let s := modLaunch s uid fun l => { l with
        state := if tooMany then .stopped else .recalled
        recalls := l.recalls + 1
        pc := 0, mb := 0, asked := false, tableSlot := none, gather := [], update := none, updated := [], verify := [], groups := [],
        readCv := []
        pending := [], placed := 0
        told := if hold then l.told else (l.told ++ outs.map (·.1)).dedup }
      if tooMany then outstanding l.ctx false (relErr 6 s) else s

/-- Launches that have read a caravan's result, which its restart makes void. -/
def readersOf (s : State) (v : Caravan) : List Nat :=
  if v.state = 2#3 then (s.launches.filter fun x => x.ctx == v.ctx && x.readCv.contains v.n).map (·.uid) else []

/-- Launches are recalled; each caravan that names one of them restarts once, with the others listed, and launches that read such a
caravan's result are recalled (R277, R268). -/
def recallMany (uids : List Nat) (others : List Caravan) (s : State) : State :=
  let ls := uids.filterMap fun u => (findLaunch s u).filter recallable
  let vs := (ls.flatMap (launchCaravans s) ++ others).dedup
  let s := uids.foldl (fun s u => recallOne true u s) s
  vs.foldl (fun s v =>
    let ns := (ls.filter fun l => l.ctx == v.ctx && l.epoch == v.epoch).map (·.number)
    let readers := readersOf s v
    let s := restartAt (zeroSlices v ns) (v.gen + 1) true (zeroCountWords v ns s)
    readers.foldl (fun s u => recallOne true u s) s) s

/-- A launch is recalled, with what follows for its caravans. -/
def recallLaunch (uid : Nat) (s : State) : State := recallMany [uid] [] s

/-- A launch is recalled for a detection; one after the offer withdraws it (R412). -/
def recallDetected (uid : Nat) (s : State) : State :=
  match findLaunch s uid with
  | none => s
  | some l => lateDetection l.ctx (recallLaunch uid s)

/-! ## Suspected faults -/

/-- A corrupt group at rest: no retry cures the epoch (R274, R285). -/
def atRest (c : BitVec 4) (s : State) : State :=
  let s := modRel s fun r => { r with detectCnt := satFld r.detectCnt 15 0 1 }
  outstanding c true (relErr 2 s)

/-- A re-read that matched: the fault was on the read path (R274). -/
def rereadOk (s : State) : State := modRel s fun r => { r with detectCnt := satFld r.detectCnt 31 16 1 }

/-- Memory that ECC protects: stack memory, cluster stores and core scratch (Table 10-1). -/
def eccArea (a : Nat) : Bool :=
  match areaOf a with
  | .stack | .store _ | .scratch _ => true
  | _ => false

/-- An error that memory ECC cannot correct in a granule of the operand: the granule is poisoned (R287). -/
def spoil (check : CheckSeen) (rs : List Range) (s : State) : State :=
  match check with
  | .ecc g => if eccArea (64 * g) && anyMeets rs (64 * g) 64 then setPoison s g else s
  | _ => s

/-- What a consumer's check of its operand comes to: nothing, a fault on the read path, or one at rest (R274). -/
inductive Checked where
  | clean | path | rest
  deriving DecidableEq, Repr

def checkRanges (s : State) (check : CheckSeen) (rs : List Range) : Checked :=
  if check = .atRest || rs.any (fun r => (seen s r.1 r.2).mismatch) then .rest
  else if check = .mismatch then .path else .clean

/-- The check of an operand that a context reads (R274): a fault on the read path is counted and the work goes on; one at rest
brings the context's epoch into suspected-fault handling. -/
def checkFor (c : BitVec 4) (check : CheckSeen) (rs : List Range) (s : State) : Checked × State :=
  let s := spoil check rs s
  match checkRanges s check rs with
  | .clean => (.clean, s)
  | .path => (.path, rereadOk (relErr 1 s))
  | .rest => (.rest, atRest c (relErr 1 s))

/-- The check of a launch's operand before it is used: one at rest ends the launch's run. Whether the work goes on, and the
state. -/
def consume (l : LaunchS) (check : CheckSeen) (rs : List Range) (s : State) : Bool × State :=
  match checkFor l.ctx check rs s with
  | (.rest, s) => (false, modLaunch (dropUpdate l s) l.uid fun x => { x with
      state := .stopped, update := none, verify := [], groups := [] })
  | (_, s) => (true, s)

/-- A store of a launch, with its marks: tested against the guarded ranges (R167), and stopping the launch when it is refused
(R409). -/
def launchStore (uid a : Nat) (bytes : List Byte) (poison : Bool) (marks : Marks) (s : State) : State :=
  if guarded s a bytes.length then stopLaunch uid 0x30 s
  else
    let w := markedWrite s false a bytes poison marks
    if w.1 != 0 then stopLaunch uid 0x51 s else w.2

/-- A context is terminated (R288, R289). -/
def terminateCtx (c : BitVec 4) (s : State) : State :=
  let uids := (ctxLaunches s c).map (·.uid)
  let s := discardAll s fun q => uids.contains q.launch
  let s := dropAllProducts s fun u => uids.contains u
  let s := clearStats s fun e => e.ownCtx == c
  let s := (ctxLaunches s c).foldl (fun s l => releaseStash l s) s
  let s := unstage c ((ctxU s c).layers.map fun l => BitVec.ofNat 12 l.1) s
  let s := (s.fab.caravans.filter fun v => v.ctx == c && v.state != 3#3).foldl (fun s v => cvFault v s) s
  let s := modRel s fun r => { r with term := setBit r.term c.toNat }
  let s := outstanding c true s
  let s := modCtx s c fun x => { x with dead := true, sealSt := { x.sealSt with hdr := none } }
  let s := uids.foldl (fun s u => endLaunch u 0x72 .stopped s) s
  relErr 9 s

def isTerminated (s : State) (c : BitVec 4) : Bool := (ctxU s c).dead

/-! ## Unit histories (R290, Table 10-4) -/

/-- Watch ticks in 24 hours and in one hour (R386). -/
def day : Nat := 24 * 3600 * 32768
def hour : Nat := 3600 * 32768

/-- Events of a unit within a window of logbook time. -/
def eventsWithin (s : State) (kind : BitVec 4) (unit window : Nat) : Nat :=
  s.sec.events.countP fun e => e.1 == kind && e.2.1 == unit && decide ((logTime s).toNat < e.2.2.toNat + window)

/-- Record a UNIT_EVENT (Table 14-8): kinds 1 core, 2 array checksum failure, 3 converter, 4 lane, 5 phase, 6 other array
events. -/
def addEvent (kind : BitVec 4) (unit : Nat) (s : State) : State :=
  let t := logTime s
  let s := modSec s fun x => { x with events := x.events ++ [(kind, unit, t)] }
  logAdd 0x06#8 (BitVec.ofNat 8 kind.toNat :: leBytes 4 unit) s

def isPermanent (s : State) (kind : BitVec 4) (unit : Nat) : Bool := s.sec.permanent.contains (kind, unit)

/-- The unit becomes permanent: a UNIT_STATE record (Table 14-8). -/
def setPermanent (kind : BitVec 4) (unit : Nat) (s : State) : State :=
  if isPermanent s kind unit then s
  else logAdd 0x07#8 (BitVec.ofNat 8 kind.toNat :: leBytes 4 unit ++ [1#8])
    (modSec s fun x => { x with permanent := x.permanent ++ [(kind, unit)] })

/-! ## Device counts (Table 1-3) -/

/-- Arrays not fenced: eight of each core not fenced, less those fenced on their own. -/
def arraysAvail (s : State) : Nat :=
  8 * ((List.range 512).countP fun k => !coreFenced s k)
    - s.arrays.countP fun e => bit e.2.state 17 && !coreFenced s (coreOfArray e.1)

/-- HST_TOPOLOGY and HST_ARRAY_AVAIL from ready on (R21). -/
def countUnits (s : State) : State :=
  if isReady s then
    let t := setFld s.topology 27 24 (stackCount s)
    let t := setFld t 23 14 ((List.range 512).countP fun k => !coreFenced s k)
    let t := setFld t 13 8 ((List.range 32).countP fun c => !clusterOut s c)
    { s with topology := t, avail := w32 (arraysAvail s) }
  else s

/-! ## Commands that wait for arrays -/

/-- What an array's calibration, refresh or write came to, for the commands that wait for it (Table 11-9). -/
structure ArrDone where
  passed   : Nat := 0
  fenced   : Nat := 0
  replaced : Nat := 0
  deriving DecidableEq, Repr

/-- An array leaves a command's list; the command completes with its last array (R18). -/
def arrayDone (a : Nat) (d : ArrDone) (s : State) : State :=
  let step (r : Run) : Run × Option (Nat × List Word) :=
    match r.task with
    | .arrayCal as p f c =>
      -- a calibration that a waiting refresh follows does not end ARRAY_REFRESH
      let early := r.pkt.opcode == 0x2030#16 && d.passed != 0 && fld (arr s a).state 1 0 == 3
      if as.contains a && !early then
        let as' := as.filter (· != a)
        let t := Task.arrayCal as' (p + d.passed) (f + d.fenced) (c + d.replaced)
        let done := if as'.isEmpty then
            some (if 0 < f + d.fenced then 0x60 else if 0 < c + d.replaced then 1 else 0,
              [w32 (p + d.passed), w32 (f + d.fenced), w32 (c + d.replaced)])
          else none
        ({ r with task := t }, done)
      else (r, none)
    | _ => (r, none)
  let rs := s.host.running.map step
  let s := modHost s fun h => { h with running := (rs.filter fun r => r.2.isNone).map (·.1) }
  rs.foldl (fun s r => match r.2 with
    | some (st, res) => finish r.1.pkt st res s
    | none => s) s

/-- UNIT_CLEAR's retest of a unit ends: OK when the unit returns, FENCED_UNIT when it fails (Table 11-9). -/
def retestDone (kind : BitVec 4) (unit : Nat) (ok : Bool) (s : State) : State :=
  let mine := s.host.running.filter fun r => r.task == .retest kind unit
  let s := modHost s fun h => { h with running := h.running.filter fun r => r.task != .retest kind unit }
  mine.foldl (fun s r => finish r.pkt (if ok then 0 else 0x60) [] s) s

/-! ## A write that ends part way (Table 3-5) -/

/-- The cells of a row take levels (sparse; other columns of the row take level 0) in the cell image (R76). -/
def setRowImage (image : List (Nat × Nat)) (r : Nat) (target : List (Nat × Nat)) : List (Nat × Nat) :=
  let keep := image.filter fun c => c.1 / 528 != r
  let before := keep.filter fun c => c.1 / 528 < r
  let after := keep.filter fun c => r < c.1 / 528
  before ++ ((target.filter fun t => t.2 != 0).map fun t => (528 * r + t.1, t.2)) ++ after

def isRef (p : Nat) : Bool := p % 66 == 64

/-- Columns that take a pulse in the iteration in progress: SET and RESET (Table 3-1). -/
def pulses (u : ArrU) (w : WriteOp) (r : Nat) : List Nat × List Nat :=
  if w.iter = 0 then
    if w.refresh then ([], [])
    else
      let cols := (List.range 528).filter fun p => !isRef p
      (cols.filter fun p => decide (cellLevel u r p < tget 0 w.target p),
       cols.filter fun p => decide (tget 0 w.target p < cellLevel u r p))
  else (w.low.filter fun p => w.refresh || !isRef p, w.high.filter fun p => w.refresh || !isRef p)

/-- The amplitude of a cell's next pulse in mV: `first`, then 50 mV more with each further pulse of the row write (R73). -/
def nextMv (first last : Nat) : Nat := if last = 0 then first else last + 50

def raiseMv (first : Nat) (cols : List Nat) (t : Tab Nat) : Tab Nat :=
  cols.foldl (fun t p => tmod 0 t p (nextMv first)) t

/-- Wear level of Table 3-7. -/
def wearLevel (u : ArrU) : Nat :=
  let g := maxGroup u
  if 1000000 ≤ g then 3 else if 900000 ≤ g then 2 else if 100000 ≤ g then 1
  else if 43830 ≤ u.hours.toNat then 1 else 0

/-- A pulse of k cells in a row enters the wear record (R91, R93). -/
def notePulses (k r : Nat) (w : WriteOp) (u : ArrU) : WriteOp × ArrU :=
  if k = 0 then (w, u)
  else
    let g := r / 16
    let u := { u with pulses := u.pulses + w64 k }
    if w.groups.contains g then (w, u)
    else
      let u := { u with groups := tmod 0#32 u.groups g fun n => satWord n 1 }
      ({ w with groups := w.groups ++ [g] }, { u with wrstat := setFld u.wrstat 5 4 (wearLevel u) })

/-- The pulse part of the iteration in progress: SET from 1.20 V, then RESET from 1.40 V (R73), into the wear record (R91). -/
def pulsePart (r : Nat) (w : WriteOp) (u : ArrU) : WriteOp × ArrU :=
  let (ups, downs) := pulses u w r
  let w := { w with setMv := raiseMv 1200 ups w.setMv, resetMv := raiseMv 1400 downs w.resetMv }
  notePulses (ups.length + downs.length) r w u

/-- IMAGE_VALID is cleared; IMAGE_LOST says so when it was 1 (Table 3-11). -/
def loseImage (u : ArrU) : ArrU :=
  { u with wrstat := clrBit u.wrstat 0, wrerr := if bit u.wrstat 0 then setBit u.wrerr 3 else u.wrerr }

/-- STUCK_LAST, ROWS and TIME_US of a write or refresh that stopped before its end. Its duration is in no event: a free
value. -/
def stoppedCounts (w : WriteOp) (time : Nat) (u : ArrU) : ArrU :=
  { u with
    wrstat := setFld (setFld u.wrstat 23 16 (min 255 w.stuck)) 3 2 3
    wrtime := setFld (setFld u.wrtime 31 22 w.rowsDone) 21 0 time }

/-- A fence stops a write: the iteration in progress completes, the row takes its targets, the grant and VPROG are released,
IMAGE_VALID is cleared and WRITE_STOPPED set (Table 3-5). A start-up refresh has no image of the row to take. -/
def stopWrite (time : Nat) (u : ArrU) : ArrU :=
  match u.write with
  | none => { u with request := none, granted := false }
  | some w =>
    let (w, u) := match w.row with
      | some r => if w.rowEnded then (w, u) else pulsePart r w u
      | none => (w, u)
    let image := match w.row with
      | some r => if w.refresh then u.image else setRowImage u.image r w.target
      | none => u.image
    loseImage (stoppedCounts w time { u with
      image := image, write := none, request := none, granted := false, wrerr := setBit u.wrerr 2 })

/-- Take an array out of service: FENCED, FENCE_EVENT, the product in progress discarded as in R56, a write stopped
(Table 2-9, Table 3-5). -/
def fenceArrayUnit (a : Nat) (s : State) : State :=
  let (time, s) := drawFree s
  modArr s a fun u =>
    let u := stopWrite time (restartProduct u)
    { u with state := setBit u.state 17, err := setBit u.err 7, cal := none, retest := false, slotKept := false }

/-- Launches that use an array: a layer of theirs holds it. -/
def launchesOnArray (s : State) (a : Nat) : List Nat :=
  (s.launches.filter fun l => inFlight l && l.layers.any fun n =>
    match layerRec s l.ctx n.toNat with
    | some r => decide (lFirst r ≤ a) && decide (a < lFirst r + lCount r)
    | none => false).map (·.uid)

/-- A fence of an array (R64, R292): recorded as permanent, reported, and the launches on it recalled. Nothing happens
to an array already fenced. -/
def fenceArray (a : Nat) (s : State) : State :=
  if bit (arr s a).state 17 then s
  else
    let rows := match (arr s a).write with
      | some w => w.rowsDone
      | none => 0
    let s := fenceArrayUnit a s
    let s := setPermanent 2#4 a s
    let s := countUnits (relErr 12 s)
    let s := arrayDone a { fenced := 1 } s
    let s := arrayWriteDone a rows 0 1 0 s
    let s := retestDone 2#4 a false s
    sweepDestroy (calWaiters a ((launchesOnArray s a).foldl (fun s u => recallDetected u s) s))

/-- UNIT_CLEAR's retest of an array fails: a fenced array stays fenced and its record permanent; one in service is fenced
(R291). -/
def failArrayRetest (a : Nat) (s : State) : State :=
  if !bit (arr s a).state 17 then fenceArray a s
  else
    let (time, s) := drawFree s
    retestDone 2#4 a false (setPermanent 2#4 a (modArr s a fun u => { stopWrite time u with retest := false, cal := none }))

/-- The rewrite request that dirty bits left by a seal make when no grant is in hand (R79, R80); one that waits already keeps its
order (Table 3-11). -/
def requestRewrite (stamp : Nat) (u : ArrU) : ArrU :=
  if u.dirty = 0#512 then u
  else
    let st := u.stamp.getD stamp
    let order := match u.request with
      | some r => r.order
      | none => BitVec.ofNat 12 (fld u.wrcfg 27 16)
    { u with stamp := some st, request := if u.granted then u.request else some ⟨some st, order⟩ }

/-- UNIT_CLEAR's retest of an array passes: the array returns to service (R291), and dirty bits that it kept ask for their
rewrite again (R79). -/
def passArrayRetest (a : Nat) (s : State) : State :=
  let n := s.commits
  retestDone 2#4 a true (countUnits (modArr s a fun u =>
    requestRewrite n { u with retest := false, state := clrBit u.state 17 }))

/-- The core that takes over a fenced core's work: the next of its cluster in ascending cyclic order that is not fenced
(R292). -/
def pickSubst (s : State) (k : Nat) : Option Nat :=
  ((List.range 15).map fun i => k / 16 * 16 + (k + 1 + i) % 16).find? fun j => !coreFenced s j

/-- A fence of a core (R292): its queue is emptied, its eight arrays are fenced, its substitute is chosen, and the
launches with work on it are recalled. -/
def fenceCore (k : Nat) (s : State) : State :=
  if bit s.rel.coreFence k then s
  else
    let c := core s k
    let hit := (c.passq.map (·.launch)) ++ (c.drain.map (·.job.launch))
      ++ (match c.stream with
          | some p => [p.job.launch]
          | none => [])
    let s := discardCore s k fun _ => true
    let s := modRel s fun r => { r with coreFence := setBit r.coreFence k }
    let s := (List.range 8).foldl (fun s i => fenceArrayUnit (8 * k + i) s) s
    let s := match pickSubst s k with
      | some j => modRel s fun r => { r with subst := tset k r.subst k j }
      | none => s
    let s := setPermanent 1#4 k s
    let s := countUnits (relErr 12 s)
    let s := (List.range 8).foldl (fun s i =>
      retestDone 2#4 (8 * k + i) false (arrayWriteDone (8 * k + i) 0 0 1 0 (arrayDone (8 * k + i) { fenced := 1 } s))) s
    let s := retestDone 1#4 k false s
    let onArrays := (List.range 8).flatMap fun i => launchesOnArray s (8 * k + i)
    let s := ((hit ++ onArrays).dedup).foldl (fun s u => recallDetected u s) s
    sweepDestroy ((List.range 8).foldl (fun s i => calWaiters (8 * k + i) s) s)

/-- A core event (Table 10-4): recorded; the self-test falls due, or the limit of 24 h fences the core. -/
def coreEvent (k : Nat) (s : State) : State :=
  let s := addEvent 1#4 k s
  if fld (histCfg s) 23 16 ≤ eventsWithin s 1#4 k day then fenceCore k s
  else modCore s k fun c => { c with testDue := true }

/-- A checksum failure of an array (R56, Table 10-4): ARRAY_LIMIT of them within 24 h fence it. -/
def arrayChecksumEvent (a : Nat) (s : State) : State :=
  let s := addEvent 2#4 a s
  if fld (histCfg s) 15 8 ≤ eventsWithin s 2#4 a day then fenceArray a s else s

/-- A lane event of a port (Table 10-4); LANE_LIMIT within one hour make it permanent. The unit number is 8 · port + lane. -/
def laneEvent (p lane : Nat) (s : State) : State :=
  let s := addEvent 4#4 (8 * p + lane) s
  if fld (histCfg s) 7 0 ≤ eventsWithin s 4#4 (8 * p + lane) hour then
    modPort (setPermanent 4#4 (8 * p + lane) s) p fun x => { x with badLanes := setBit x.badLanes lane }
  else s

end Sys2Proof.Machine
end

