-- ==== Sys2Proof/Machine/Array.lean ====
section
/-! DEFINITION. Forward arrays (spec/02): reads and their conversion, the checksum, products, the array states of Table 2-9
and the calibration. -/

namespace Sys2Proof.Machine

/-! ## Columns and widths (R39, R42, R43) -/

/-- Physical column of data column d (Table 2-1). -/
def dataCol (d : Nat) : Nat := 66 * (d / 64) + d % 64

def refCol (g : Nat) : Nat := 66 * g + 64

def checkCol (g : Nat) : Nat := 66 * g + 65

/-- Checksum digits used, m_c (Table 2-2). -/
def checkDigits (w : Nat) : Nat := [0, 5, 6, 6, 6, 7, 7, 7, 8].getD w 0

/-- Data columns that hold weights, m · n_w. -/
def usedCols (w : Nat) : Nat := colsPerWeight w * weightsPerRow w

/-- Weight value of a code under R41. -/
def weightValue (w : Nat) (u : Int) : Int := if w = 1 then 2 * u - 1 else u - pow2 (w - 1)

/-! ## Registers of an array -/

def arrMode (u : ArrU) : Nat := fld u.state 1 0

def arrWidth (u : ArrU) : Nat := fld u.cfg 15 12

def arrSpan (u : ArrU) : Nat := 512 / 2 ^ fld u.cfg 7 6

def arrRange (u : ArrU) : Nat := fld u.cfg 5 3

/-- A fenced array works only in the retest of UNIT_CLEAR (R64, R291). -/
def outOfWork (u : ArrU) : Bool := bit u.state 17 && !u.retest

/-- MODE and CAUSE. -/
def setMode (m cause : Nat) (u : ArrU) : ArrU := { u with state := setFld (setFld u.state 1 0 m) 13 11 cause }

/-- REWRITE_DUE reads 1 exactly while ARR_DIRTY is non-zero (R79). -/
def setDirty (d : BitVec 512) (u : ArrU) : ArrU :=
  { u with dirty := d, wrstat := putBit u.wrstat 1 (d != 0#512) }

/-- The array serves an analogue product (Table 3-4): ACTIVE, no rewrite due, image valid, in service. Its region may still be
switching on: the product then waits for it (R337). -/
def serves (s : State) (a : Nat) : Bool :=
  let u := arr s a
  arrMode u == 0 && !bit u.wrstat 1 && bit u.wrstat 0 && !arrFenced s a

/-- Rows of the layer's tile on an array (R45); a full array with no layer placed. -/
def rowsUsed (s : State) (a : Nat) : Nat :=
  match layerOfArray s a with
  | some (_, l) => min 512 (lIn l - 512 * (tileOf l a).2)
  | none => 512

/-! ## Driving and converting (R44 to R50) -/

/-- Planes of a product (Table 2-3). -/
def planeCount (n : Nat) : Nat := if n = 1 then 1 else n

/-- The bit that an aligned code drives in a plane (Table 2-3). -/
def planeBit (n b : Nat) (c : Int) : Bool :=
  if n = 1 then 0 < c else (c % pow2 n).toNat / 2 ^ b % 2 == 1

/-- Place value of a plane (Table 2-3). -/
def placeValue (n b : Nat) : Int := if n = 1 then 1 else if b + 1 = n then -(pow2 b) else pow2 b

/-- One span aligned to its largest valid block exponent (R46, R47): the span, whether an element is invalid, whether valid
blocks differ in exponent, and the elements changed. -/
def alignSpan (n : Nat) (blocks : List ZqBlock) (first count : Nat) : Span × Bool × Bool × Nat :=
  let idx := (List.range count).map (first + ·)
  let bs := (blocks.drop (first / 32)).take ((count + 31) / 32)
  let es := (bs.filter fun b => b.e != 255).map (·.e)
  let emax := es.foldl max 0
  let elt (r : Nat) : Option Int × Nat :=
    let b := blocks.getD (r / 32) ⟨255, []⟩
    ((b.codes.getD (r % 32) none), b.e)
  let align (x : Option Int × Nat) : Int × Bool :=
    match x.1 with
    | none => (0, false)
    | some c => if n = 1 then (c, false)
      else
        let c' := rneScale c (Int.ofNat x.2 - Int.ofNat emax)
        (c', c' * pow2 (emax - x.2) != c)
  let rs := idx.map fun r => align (elt r)
  (⟨emax, rs.map (·.1)⟩, idx.any fun r => (elt r).1 == none, es.any (· != emax), rs.countP (·.2))

/-- The product with its spans aligned for the array (R46, R138). The last component counts the elements changed. -/
def stage (span rows : Nat) (p : Product) : Product × Bool × Nat :=
  let parts := (List.range ((rows + span - 1) / span)).map fun i =>
    alignSpan p.inN p.blocks (i * span) (min span (rows - i * span))
  let n := parts.length
  ({ p with spans := parts.map (·.1), invalid := parts.any (·.2.1), acc := List.replicate n [], plane := 0, span := 0,
            sat := [] },
    p.inN == 1 && parts.any (·.2.2.1), (parts.map (·.2.2.2)).foldl (· + ·) 0)

/-- Rows driven by a read. -/
def drivenRows (span n plane i : Nat) (sp : Span) : List Nat :=
  ((List.range sp.codes.length).filter fun r => planeBit n plane (sp.codes.getD r 0)).map (i * span + ·)

/-- Column sum in level units over the driven rows (R38). -/
def columnSum (u : ArrU) (rows : List Nat) (p : Nat) : Nat := rows.foldl (fun n r => n + cellLevel u r p) 0

/-- The converter that serves a column: its own, or the spare that replaced it (R67). -/
def converterOf (u : ArrU) (p : Nat) : Nat :=
  if fld u.spareMap 15 0 = p then 528 else if fld u.spareMap 31 16 = p then 529 else p

def signed8 (n : Nat) : Int := if n < 128 then Int.ofNat n else Int.ofNat n - 256

/-- clamp(floor((1 + GAIN/1024) · q + OFFSET/16 + 1/2), 0, 63), of a column's converter (R48, R72). -/
def convert (u : ArrU) (p : Nat) (q : Dy) : Nat :=
  let t := tget 0#16 u.trims (converterOf u p)
  let g := signed8 (fld t 15 8)
  let o := signed8 (fld t 7 0)
  let v := dyFloor (dyAdd (dyMul ⟨1024 + g, -10⟩ q) ⟨o + 8, -4⟩)
  if v < 0 then 0 else min 63 v.toNat

/-- The deviation that the analogue parts add to a column, 0 for a column the environment does not list. -/
def deviation (dev : List (Nat × Dy)) (p : Nat) : Dy := ((dev.find? fun e => e.1 == p).map (·.2)).getD ⟨0, 0⟩

/-- Trims written take effect at the drive tick of the array's next read, be it a service, pattern or verify read (R70). -/
def applyTrims (u : ArrU) : ArrU :=
  { u with trims := u.trimHeld.foldl (fun t h => tset 0#16 t h.1 h.2) u.trims, trimHeld := [] }

/-- The codes of a read of one plane and span (R48). -/
def readCodes (u : ArrU) (p : Product) (plane i : Nat) (dev : List (Nat × Dy)) : List Nat :=
  let sp := p.spans.getD i ⟨0, []⟩
  let rows := drivenRows (arrSpan u) p.inN plane i sp
  (List.range 528).map fun c =>
    convert u c (dyAdd ⟨Int.ofNat (columnSum u rows c), -(Int.ofNat (arrRange u))⟩
      (dyMul (deviation dev c) ⟨1, -(Int.ofNat (arrRange u))⟩))

/-! ## The compare (R50 to R53) -/

/-- Digits of a number of columns recombined: Σ 4^(d mod m) · D. -/
def recombine (m : Nat) (codes : List Nat) (cols : List Nat) : Nat :=
  cols.foldl (fun n d => n + 4 ^ (d % m) * codes.getD (dataCol d) 0) 0

/-- What a read's compare finds. -/
structure Verdict where
  clip : Bool
  zero : Bool
  pass : Bool
  deriving DecidableEq, Repr

/-- Σ_(k<m) 16^k. -/
def sum16 (m : Nat) : Nat := (List.range m).foldl (fun n k => n + 16 ^ k) 0

/-- The checksum and zero compare of one read (R50, R52, R53). -/
def compareRead (u : ArrU) (codes : List Nat) : Verdict :=
  let w := arrWidth u
  let m := max 1 (colsPerWeight w)
  let mc := checkDigits w
  let used := usedCols w
  let clip := (List.range 512).any (fun d => codes.getD (dataCol d) 0 == 63)
    || (List.range mc).any (fun g => codes.getD (checkCol g) 0 == 63)
  let zmax := fld u.chkcfg 11 8
  let zero := (List.range 8).any (fun g => decide (mc ≤ g) && decide (zmax < codes.getD (checkCol g) 0))
    || (List.range 512).any (fun d => decide (used ≤ d) && decide (zmax < codes.getD (dataCol d) 0))
  let t : Int := Int.ofNat (recombine m codes (List.range used))
  let c : Int := Int.ofNat ((List.range mc).foldl (fun n g => n + 4 ^ g * codes.getD (checkCol g) 0) 0)
  let k := fld u.chkcfg 15 12
  let q := max (fld u.qual 7 0) 16
  let v := weightsPerRow w * sum16 m + sum16 mc
  let sum := (t - c) * (t - c) * 4096 ≤ Int.ofNat (k * k * (q * q) * v)
  ⟨clip, zero, !zero && (clip || decide sum)⟩

/-- The registers that a compare changes, whether or not the read passes (R50, Table 2-19). -/
def noteCompare (v : Verdict) (u : ArrU) : ArrU :=
  let u := if v.clip then { u with err := setBit u.err 2, clipCnt := satWord u.clipCnt 1 } else u
  if v.zero then { u with err := setBit u.err 3 } else u

/-- The codes of a passing read enter the drain's sums (R51): L_j = 2^RANGE · Σ 4^k · D, times the plane's place value. -/
def releaseRead (u : ArrU) (r : ReadRes) (p : Product) : Product :=
  let w := arrWidth u
  let m := max 1 (colsPerWeight w)
  let nw := weightsPerRow w
  let l (j : Nat) : Int :=
    Int.ofNat (2 ^ arrRange u * recombine m r.codes ((List.range m).map (m * j + ·)))
  let old := p.acc.getD r.span []
  let row := (List.range nw).map fun j => old.getD j 0 + placeValue p.inN r.plane * l j
  let clipped := (List.range nw).filter fun j =>
    (List.range m).any fun k => r.codes.getD (dataCol (m * j + k)) 0 == 63
  { p with acc := p.acc.set r.span row, sat := (p.sat ++ clipped).dedup }

/-! ## Products (R45, R51, R84) -/

/-- Every read of the product has been driven and released. -/
def productDone (u : ArrU) (p : Product) : Bool :=
  decide (planeCount p.inN ≤ p.plane) && u.flight.isEmpty && u.failed.isNone

/-- Column sum of the weight codes of a span, U_j (R51). -/
def codeSum (u : ArrU) (rows : List Nat) (j : Nat) : Nat :=
  let m := max 1 (colsPerWeight (arrWidth u))
  (List.range m).foldl (fun n k => n + 4 ^ k * columnSum u rows (dataCol (m * j + k))) 0

/-- y_j of one span (R51). -/
def spanOutputs (u : ArrU) (p : Product) (i : Nat) : List Int :=
  let w := arrWidth u
  let sp := p.spans.getD i ⟨0, []⟩
  let rows := (List.range sp.codes.length).map (i * arrSpan u + ·)
  let n := sp.codes.length
  let x : Int := sp.codes.foldl (· + ·) 0
  let driven : Int := Int.ofNat (sp.codes.countP fun c => 0 < c)
  let aw : Int := if w = 1 then 2 else 1
  let cw : Int := if w = 1 then 1 else pow2 (w - 1)
  let a := p.acc.getD i []
  (List.range (weightsPerRow w)).map fun j =>
    if p.inN = 1 then aw * (2 * a.getD j 0 - Int.ofNat (codeSum u rows j)) - cw * (2 * driven - Int.ofNat n)
    else aw * a.getD j 0 - cw * x

/-- What the array gave for the product. -/
def productResult (u : ArrU) (a : Nat) (p : Product) : ProdRes :=
  ⟨a, p.token, (List.range p.spans.length).map fun i => ((p.spans.getD i ⟨0, []⟩).emax, spanOutputs u p i), p.sat,
    p.invalid, false, true⟩

/-- A result reaches the core drain, for the launch to gather. -/
def gatherResult (uid : Nat) (r : ProdRes) (s : State) : State :=
  modLaunch s uid fun l => { l with gather := l.gather ++ [r] }

/-! ## State changes (Table 2-9) -/

/-- Writes to SPAN, RANGE, K and ZMAX take effect (R70). -/
def applyCfg (u : ArrU) : ArrU :=
  { u with
    cfg := match u.cfgHeld with
      | some h => setFld u.cfg 7 3 (fld h 7 3)
      | none => u.cfg
    chkcfg := u.chkHeld.getD u.chkcfg, cfgHeld := none, chkHeld := none }

/-- Arrays of a cluster that calibrate for a periodic trigger, or have a slot kept for one (Table 2-9, R62). -/
def calSlotsUsed (s : State) (c : Nat) : Nat :=
  s.arrays.countP fun e => clusterOfArray e.1 == c && !bit e.2.state 17 &&
    (e.2.slotKept || (match e.2.cal with
      | some x => x.periodic
      | none => false))

/-- A free slot for a periodic calibration of the cluster. -/
def slotFree (s : State) (c : Nat) : Bool := decide (calSlotsUsed s c < 16)

def dieOfArray (a : Nat) : Nat := a / 2048

/-- A calibration starts on a die: the trace takes the die's test point and asks for the channel, or is dropped (R364). The model
takes the start and the end of a calibration, so the request of its CTI hold comes at its start. -/
def startTrace (a : Nat) (s : State) : State :=
  if !bit s.mon.traceCfg 31 then s
  else
    let die := dieOfArray a
    if tget 0 s.mon.atp die = 0 then
      let s := modArr s a fun u => { u with traces := u.traces + 1 }
      askChannel (traceUser die) (modMon s fun m => { m with atp := tset 0 m.atp die (a + 1) })
    else modMon s fun m => { m with traceCnt := satFld m.traceCnt 15 0 1, err := setBit m.err 6 }

/-- Field bits of spare i in ARR_SPARE_MAP. -/
def spareHi (i : Nat) : Nat := 16 * i + 15

def spareField (u : ArrU) (i : Nat) : Nat := fld u.spareMap (spareHi i) (16 * i)

/-- Unit number of a column converter in the unit history: array and physical column. -/
def converterUnit (a p : Nat) : Nat := 1024 * a + p

/-- A converter whose history UNIT_CLEAR has cleared returns at the array's next calibration (Table 11-9): the spare that
served its column, or the spare itself, is free again. -/
def returnConverters (a : Nat) (s : State) : State :=
  [0, 1].foldl (fun s i =>
    let v := spareField (arr s a) i
    let unit := if v = 0xFFFE then 528 + i else v
    if v = 0xFFFF || isPermanent s 3#4 (converterUnit a unit) then s
    else modArr s a fun u => { u with
      spareMap := setFld u.spareMap (spareHi i) (16 * i) 0xFFFF
      state := setFld u.state 19 18 (fld u.state 19 18 - 1) }) s

/-- Enter CALIBRATING (Table 2-9): the counts of R63 start again, a waiting trigger or command is met, and trims still held take
effect at its first pattern read. -/
def enterCal (a cause : Nat) (periodic : Bool) (s : State) : State :=
  let scale := (clus s (clusterOfArray a)).ctiScale
  let tj := (clus s (clusterOfArray a)).tj
  let s := modArr s a fun u => setMode 2 cause { applyTrims u with
    state := clrBit u.state 14, dueOrder := none, slotKept := false, yielded := false, wantCal := false, reads := 0#32
    cal := some ⟨periodic, BitVec.ofNat 16 scale.toNat, tj⟩ }
  startTrace a (returnConverters a s)

/-- Enter REFRESHING; the refresh waits there for its grant (R75, R88). -/
def enterRefresh (a cause : Nat) (s : State) : State :=
  modArr s a fun u => setMode 3 cause { u with
    refreshOrder := BitVec.ofNat 12 (fld u.wrcfg 27 16)
    state := clrBit u.state 16, wantRefresh := false, cal := none, recovered := u.recovered || cause == 5 }

/-- Codes of the weights of an array row, from the shadow (R77): output r, input i at SHADOW + r · COLS + i. -/
def shadowRow (s : State) (l : Layer) (a r : Nat) : List Nat :=
  let t := tileOf l a
  let nw := weightsPerRow (lWidth l)
  let i := 512 * t.2 + r
  if i < lIn l then
    ((List.range nw).filter fun j => t.1 * nw + j < lOut l).map fun j =>
      (memByte s (lShadow l + (t.1 * nw + j) * lIn l + i)).toNat
  else []

/-- Target levels of a row of weight codes (R40, R42, R43, R72), columns at level 0 left out. -/
def rowTarget (w r : Nat) (codes : List Nat) : List (Nat × Nat) :=
  let m := max 1 (colsPerWeight w)
  let sum := codes.foldl (· + ·) 0
  let level (p : Nat) : Nat :=
    let g := p / 66
    let q := p % 66
    if q = 64 then r % 4
    else if q = 65 then (if g < checkDigits w then sum / 4 ^ g % 4 else 0)
    else
      let d := 64 * g + q
      if d < usedCols w then codes.getD (d / m) 0 / 4 ^ (d % m) % 4 else 0
  ((List.range 528).map fun p => (p, level p)).filter fun e => e.2 != 0

/-- The levels of a row in the cell image, as a target. -/
def imageRow (u : ArrU) (r : Nat) : List (Nat × Nat) :=
  ((u.image.filter fun c => c.1 / 528 == r).map fun c => (c.1 % 528, c.2)).filter fun e => e.2 != 0

/-- Rows whose shadow codes differ from the cell image (R90). -/
def differingRows (s : State) (a : Nat) : List Nat :=
  match layerOfArray s a with
  | none => []
  | some (_, l) =>
    (List.range 512).filter fun r =>
      rowTarget (lWidth l) r (shadowRow s l a r) != imageRow (arr s a) r

/-- Enter WRITING with a grant: the dirty map or the command gives the row list, and the map is cleared (R80, R90). -/
def enterWriting (a : Nat) (s : State) : State :=
  let u := arr s a
  let rows := match u.byCommand with
    | some true => List.range 512
    | some false => differingRows s a
    | none => (List.range 512).filter fun r => bit u.dirty r
  modArr s a fun u => setDirty 0#512 <| { u with
    state := clrBit (setFld u.state 1 0 1) 15
    writes := satWord u.writes 1
    stamp := none, byCommand := none
    write := some {
      refresh := false, startup := false, command := u.byCommand.isSome, rows := rows, row := none, target := [],
      iter := 0, low := [], high := [], rowEnded := false, setMv := [], resetMv := [],
      vband := 0, groups := [], stuck := 0, rowsDone := 0, mismatch := 0,
      closing := false } }

/-- Enter ACTIVE (R70, Table 2-9). -/
def enterActive (a : Nat) (s : State) : State :=
  modArr s a fun u => applyCfg { u with state := setFld u.state 1 0 0, recovered := false, cal := none }

/-- The exit rule of Table 2-9. With CAL_PENDING set, 16 arrays calibrating and a granted WRITE_PENDING, item 2 alone would leave the
array ACTIVE while the order of the list reaches item 3: the model takes the list's order and enters WRITING, CAL_PENDING kept
(DESIGN CHOICE, log entry 50). -/
def exitRule (a : Nat) (s : State) : State :=
  let s := modArr s a fun u => { u with cal := none }
  let u := arr s a
  if bit u.state 16 then enterRefresh a u.refreshCause.toNat s
  else if bit u.state 14 && slotFree s (clusterOfArray a) then enterCal a u.pendCause.toNat u.pendPeriodic s
  else if bit u.state 15 && u.granted then enterWriting a s
  else enterActive a s

/-- The product boundary (R60 to R62): with no product in progress, held SPAN, RANGE, K and ZMAX take effect (R70), then the
waiting transitions of an ACTIVE array; a refresh by command, a calibration by command, then R62's order of rewrite and periodic
calibration. No state is entered while the array region is off (R338, Table 2-9). -/
def boundary (a : Nat) (s : State) : State :=
  if (arr s a).cur.isSome || bit (arr s a).state 17 || arrMode (arr s a) != 0 then s
  else
    let s := modArr s a applyCfg
    let u := arr s a
    let cal := u.dueOrder.isSome && u.slotKept
    if !regionOn (arrRegState s (clusterOfArray a)) then s
    else if bit u.state 16 then enterRefresh a u.refreshCause.toNat s
    else if u.wantRefresh then enterRefresh a 4 s
    else if u.wantCal then enterCal a 4 false s
    else if u.granted && !(cal && u.yielded) then
      enterWriting a (modArr s a fun u => { u with
        yielded := u.yielded || cal, slotKept := false
        state := putBit u.state 14 (bit u.state 14 || u.dueOrder.isSome) })
    else if cal then enterCal a u.pendCause.toNat true s
    else s

/-- CAL_PENDING with its cause: the trigger falls due now (R62, R63). -/
def pendTrigger (a cause : Nat) (s : State) : State :=
  modArr { s with dueSeq := s.dueSeq + 1 } a fun u => { u with
    dueOrder := some s.dueSeq, pendCause := BitVec.ofNat 3 cause, pendPeriodic := true, state := setBit u.state 14 }

/-- A periodic trigger of an array, with its cause (R63, Table 2-9). -/
def periodicTrigger (a cause : Nat) (s : State) : State :=
  let u := arr s a
  if bit u.state 17 || u.dueOrder.isSome || arrMode u = 2 then s
  else if arrMode u = 0 && slotFree s (clusterOfArray a) then
    let s := pendTrigger a cause s
    boundary a (modArr s a fun x => { x with slotKept := true, state := putBit x.state 14 (bit u.state 14) })
  else pendTrigger a cause s

/-- ARRAY_CALIBRATE on one array (Table 2-9). -/
def commandCal (a : Nat) (s : State) : State :=
  let u := arr s a
  if bit u.state 17 || arrMode u = 2 then s
  else if arrMode u = 0 then boundary a (modArr s a fun u => { u with wantCal := true })
  else if bit u.state 14 then s
  else modArr s a fun u => { u with state := setBit u.state 14, pendCause := 4#3, pendPeriodic := false }

/-- ARRAY_REFRESH on one array (Table 2-9); in a state with no row it is held as REFRESH_PENDING. -/
def commandRefresh (a : Nat) (s : State) : State :=
  let u := arr s a
  if bit u.state 17 then s
  else if arrMode u = 0 then boundary a (modArr s a fun u => { u with wantRefresh := true })
  else if bit u.state 16 then s
  else modArr s a fun u => { u with state := setBit u.state 16, refreshCause := 4#3 }

/-! ## The commands -/

/-- The core that does an array's digital work: its own, or the substitute of a fenced one (R292). -/
def coreFor (s : State) (a : Nat) : Nat :=
  let k := coreOfArray a
  if coreFenced s k then tget k s.rel.subst k else k

/-- Cores of a cluster that run digital FALLBACK products of a context (R174). -/
def fallbackCores (s : State) (ctx : BitVec 4) (c : Nat) : List Nat :=
  ((s.arrays.filter fun e => clusterOfArray e.1 == c && (match e.2.dig with
    | some p => match findLaunch s p.launch with
      | some l => l.ctx == ctx
      | none => false
    | none => false)).map fun e => coreFor s e.1).dedup

/-- A further digital product of a core is within FB_CAP (R174). -/
def capAllows (s : State) (l : LaunchS) (a : Nat) : Bool :=
  let run := fallbackCores s l.ctx (clusterOfArray a)
  run.contains (coreFor s a) || decide (run.length < l.fbCap)

/-- The head of an array's queue leaves it. -/
def popProduct (a : Nat) (s : State) : State := modArr s a fun u => { u with queue := u.queue.drop 1 }

/-- A digital product starts; it counts as a FALLBACK product and marks its layer (R173). One of an INTERVAL launch counts in
HST_CTX_FB: it adds to no seal's record (R187). -/
def startDigital (a : Nat) (p : Product) (l : LaunchS) (layer : Nat) (s : State) : State :=
  let s := modArr (popProduct a s) a fun u => { u with dig := some p }
  let s := modCtx s l.ctx fun x => { x with fb := satWord x.fb 1 }
  if l.kind = 4#4 then s
  else
    let s := modSeal s l.ctx fun x => { x with fbCount := x.fbCount + 1 }
    modLayer s l.ctx layer fun st => { st with digital := true }

/-- An analogue product starts, or a ZQ1 product of mixed exponents ends without a read (R46, R138). -/
def startAnalogue (a : Nat) (p : Product) (s : State) : State :=
  let u := arr s a
  let (p', mixed, changed) := stage (arrSpan u) (rowsUsed s a) p
  let s := popProduct a s
  let k := coreFor s a
  if mixed then
    gatherResult p.launch ⟨a, p.token, [], [], true, false, true⟩
      (modCore s k fun c => { c with fmtErr := setBit c.fmtErr 2 })
  else
    let interval := match findLaunch s p.launch with
      | some l => l.kind == 4#4
      | none => false
    let s := if changed = 0 || interval then s
      else modCore s k fun c => { c with
        entries := tmod Entry.reset c.entries p.tIn fun e => { e with inexact := satWord e.inexact changed } }
    modArr s a fun u => { u with cur := some p' }

/-- Issue of the product at the head of an array's queue (R84 to R86, R170, R171, R174, Table 3-4). -/
def issueProduct (a : Nat) (s : State) : State :=
  let u := arr s a
  match u.queue with
  | [] => s
  | p :: _ =>
    match findLaunch s p.launch, layerOfArray s a with
    | some l, some (c, r) =>
      let fenced := arrFenced s a
      let live := (lArrays r).filter fun b => coreOfArray b == coreOfArray a && !arrFenced s b
      let slice := lSlice r && lPolicy r
      if !fenced && serves s a && (!slice || live.all (serves s)) then
        if u.cur.isSome || !regionOn (arrRegState s (clusterOfArray a)) then s else startAnalogue a p s
      else if (fenced || lPolicy r) && r.st.fwdEpoch == some (ctxU s c).epoch && capAllows s l a && u.dig.isNone
          && regionOn (digState s (clusterOfCore (coreFor s a))) then
        startDigital a p l (lNum r) s
      else s
    | _, _ => s

def execProductIssue (a : Nat) (s : State) : Res := onUnit 4096 a s (issueProduct a)

/-- Reads driven after a failed one and not yet released: n + 1 to n + 4 (Table 2-7). -/
def readsBehind (u : ArrU) : Nat := u.flight.length + u.behind.length

/-- The next read of the product in progress: it is driven, integrated, sampled and converted (R45, R57). Behind a failed read four
more are driven before its re-read is compared (R58). -/
def driveRead (a : Nat) (dev : List (Nat × Dy)) (s : State) : State :=
  modArr s a fun u =>
    match u.cur with
    | none => u
    | some p =>
      if planeCount p.inN ≤ p.plane || (u.failed.isSome && decide (4 ≤ readsBehind u)) || arrMode u != 0 then u
      else
        let u := applyTrims u
        let r : ReadRes := ⟨p.plane, p.span, readCodes u p p.plane p.span dev⟩
        let p' := if p.span + 1 < p.spans.length then { p with span := p.span + 1 }
          else { p with span := 0, plane := p.plane + 1 }
        { u with cur := some p', flight := u.flight ++ [r], reads := satWord u.reads 1 }

def execArrayRead (a : Nat) (analog : List (Nat × Dy)) (s : State) : Res := onUnit 4096 a s (driveRead a analog)

/-- The compare of the oldest read in flight: a read that passes is released; one that fails waits for its re-read. Of the reads
behind a failed one, two are compared before the re-read and held with their verdicts (R52, R55, R58). -/
def compareOldest (a : Nat) (s : State) : State :=
  modArr s a fun u =>
    match u.cur, u.flight with
    | some p, r :: rest =>
      let v := compareRead u r.codes
      if u.failed.isNone then
        let u := noteCompare v { u with flight := rest }
        if v.pass then { u with cur := some (releaseRead u r p) } else { u with failed := some r }
      else if u.behind.length < 2 then noteCompare v { u with flight := rest, behind := u.behind ++ [(r, v.pass)] }
      else u
    | _, _ => u

def execReadCompare (a : Nat) (s : State) : Res := onUnit 4096 a s (compareOldest a)

/-- Held reads are released in order; the first that failed its compare waits for its own re-read (R55). -/
def releaseHeld : List (ReadRes × Bool) → ArrU → ArrU
  | [], u => { u with behind := [] }
  | (r, true) :: rest, u => releaseHeld rest { u with cur := u.cur.map (releaseRead u r) }
  | (r, false) :: rest, u => { u with failed := some r, behind := rest }

/-- The re-read of a failed read, and its outcome (R55, R56). -/
def reReadArray (a : Nat) (dev : List (Nat × Dy)) (s : State) : State :=
  let u := applyTrims (arr s a)
  match u.cur, u.failed with
  | some p, some f =>
    let r : ReadRes := { f with codes := readCodes u p f.plane f.span dev }
    let v := compareRead u r.codes
    let u := noteCompare v { u with reads := satWord u.reads 1 }
    if v.pass then
      modArr s a fun _ => releaseHeld u.behind { u with
        cur := some (releaseRead u r p), failed := none, err := setBit u.err 0, evcnt := satFld u.evcnt 31 16 1 }
    else
      let s := modArr s a fun _ => restartProduct { u with err := setBit u.err 1, evcnt := satFld u.evcnt 15 0 1 }
      arrayChecksumEvent a (enterCal a 3 false s)
  | _, _ => s

def execReRead (a : Nat) (analog : List (Nat × Dy)) (s : State) : Res := onUnit 4096 a s (reReadArray a analog)

/-- The end of a product: its result reaches the drain, and the array stands at a boundary (R45, R60). A digital product
of the array's tile ends likewise (R86). -/
def endProduct (a : Nat) (s : State) : State :=
  let u := arr s a
  let s := match u.dig with
    | some p =>
      gatherResult p.launch ⟨a, p.token, [], [], false, true, !arrFenced s a⟩ (modArr s a fun u => { u with dig := none })
    | none => s
  let s := match u.cur with
    | some p =>
      if productDone u p then gatherResult p.launch (productResult u a p) (modArr s a fun u => { u with cur := none })
      else s
    | none => s
  boundary a s

def execProductBoundary (a : Nat) (s : State) : Res := onUnit 4096 a s (endProduct a)

/-- 2^READS_LOG2 service reads since the last calibration (R63). -/
def readsExpiry (a : Nat) (s : State) : State :=
  if 2 ^ fld (arr s a).calp 23 19 ≤ (arr s a).reads.toNat then periodicTrigger a 0 s else s

def execCalReadCountExpiry (array : Nat) (s : State) : Res := onUnit 4096 array s (readsExpiry array)

/-- PERIOD_MS since the start of the last calibration (R63). -/
def execCalTimerExpiry (array : Nat) (s : State) : Res := onUnit 4096 array s (periodicTrigger array 1)

/-- A temperature as the sensor reads it: the nearest multiple of 0.25 °C, a tie to the multiple of 0.5 °C, coded
(Tj + 64) · 4 (R63). -/
def tjCode (t : Dy) : BitVec 10 :=
  let v := rneScale t.m (t.e + 2) + 256
  if v < 0 then 0#10 else BitVec.ofNat 10 (min v.toNat 1023)

/-- Two temperature readings differ by more than DT. -/
def apartDt (u : ArrU) (x y : Nat) : Bool := decide (fld u.calp 9 4 < max x y - min x y)

/-- The temperature lies more than DT from the array's TJ_CAL. -/
def beyondDt (u : ArrU) (tj : Nat) : Bool := apartDt u tj (fld u.qual 25 16)

/-- The temperature trigger of an array: in a calibration the reading is compared with the new TJ_CAL, and CAL_PENDING waits for
its end (R63). -/
def heatTrigger (a tj : Nat) (s : State) : State :=
  let u := arr s a
  match u.cal with
  | some x =>
    if arrMode u = 2 && !outOfWork u && u.dueOrder.isNone && apartDt u tj x.tj.toNat then pendTrigger a 2 s else s
  | none => if beyondDt u tj then periodicTrigger a 2 s else s

/-- A temperature reading of a cluster: PWR_THERM.TJ_MAX follows the hottest cluster (Table 12-14), and the arrays it has
moved too far from are triggered (R63). -/
def sampleTj (c : Nat) (t : Dy) (s : State) : State :=
  let v := tjCode t
  let s := modClus s c fun x => { x with tj := v }
  let hot := s.clusters.foldl (fun m e => max m e.2.tj.toNat) 0
  let s := modPwr s fun p => { p with therm := setFld p.therm 25 16 hot }
  ((List.range 128).map (128 * c + ·)).foldl (fun s a => heatTrigger a v.toNat s) s

def execTjSample (cluster : Nat) (celsius : Dy) (s : State) : Res := onUnit 32 cluster s (sampleTj cluster celsius)

/-- The ACTIVE array of a cluster that waits for a slot and fell due first, the lower number among equals (R62). -/
def firstDue (s : State) (c : Nat) : Option Nat :=
  let w := s.arrays.filter fun e => clusterOfArray e.1 == c && arrMode e.2 == 0 && !bit e.2.state 17
    && bit e.2.state 14 && !e.2.slotKept
  (w.foldl (fun (b : Option (Nat × Nat)) e =>
    let d := e.2.dueOrder.getD 0
    match b with
    | none => some (e.1, d)
    | some (a, x) => if d < x then some (e.1, d) else some (a, x)) none).map (·.1)

/-- A slot for periodic calibration goes to the array that fell due first and is kept to its boundary (R62). -/
def giveSlot (c : Nat) (s : State) : State :=
  if slotFree s c then
    match firstDue s c with
    | some a =>
      let s := modArr s a fun u => { u with slotKept := true, dueOrder := some (u.dueOrder.getD s.dueSeq) }
      boundary a s
    | none => s
  else s

def execCalSlotFree (cluster : Nat) (s : State) : Res := onUnit 32 cluster s (giveSlot cluster)

end Sys2Proof.Machine
end

