-- ==== Sys2Proof/Machine/Calibration.lean ====
section
/-! DEFINITION. Calibration of a forward array (R65 to R68): the pattern reads, the rotation of the spare converters, the column
fit, the verify and the quality figure. Every phase runs at 512-row span, whatever ARR_CFG.SPAN holds, and at any temperature
(R65, R68). -/

namespace Sys2Proof.Machine

/-! ## Pattern reads (R65) -/

/-- Pattern i drives row r. -/
def patternDrives (i r : Nat) : Bool := decide ((37 * r + 11 * i) % 256 ≤ i)

/-- The cells of a column that hold a level above 0: row and level. -/
def columnCells (u : ArrU) (p : Nat) : List (Nat × Nat) :=
  (u.image.filter fun c => c.1 % 528 == p).map fun c => (c.1 / 528, c.2)

/-- The sum of a pattern that the cell image gives a column. -/
def patternSum (cells : List (Nat × Nat)) (i : Nat) : Nat :=
  cells.foldl (fun n c => if patternDrives i c.1 then n + c.2 else n) 0

/-- The smallest RANGE whose clip threshold of Table 2-4 lies above a sum. -/
def clearRange (sum2 : Nat) : Nat := ((List.range 5).find? fun r => decide (sum2 < 125 * 2 ^ r)).getD 5

/-- What a calibration knows of an array before it reads: the cells of each column, and the RANGE of each pattern. -/
structure CalPlan where
  cells  : List (List (Nat × Nat))
  ranges : List Nat

def calPlan (u : ArrU) : CalPlan :=
  let cells := (List.range 528).map (columnCells u)
  let busy := cells.filter fun c => !c.isEmpty
  ⟨cells, (List.range 256).map fun i => clearRange (2 * busy.foldl (fun n c => max n (patternSum c i)) 0)⟩

/-- Pattern reads of Table 2-10, by the spares that are free. -/
def patternReads (free : Nat) : Nat := if free = 0 then 256 else if free = 1 then 2112 else 1056

/-- A spare serves the column in a pattern read: columns in ascending order, as many at a time as spares are free, four reads a
step (R67; the order is a DESIGN CHOICE, log entry 51). -/
def spareServes (free p n : Nat) : Bool := free != 0 && n / 4 == p / free

/-! ## The least-squares fit (R49, R66) -/

/-- One code and the value it should have, in 2^-21 LSB. -/
structure Sample where
  want : Int
  code : Nat

def sumBy (f : Sample → Int) (xs : List Sample) : Int := xs.foldl (fun n x => n + f x) 0

/-- n / d to the nearest integer. The spec names no tie rule: a tie goes up (DESIGN CHOICE, log entry 51). -/
def nearest (n d : Int) : Int := (2 * n + d) / (2 * d)

/-- GAIN and OFFSET, before the limits of R49, that bring a converter's codes nearest to the wanted values in the sense of least
squares; none when the codes do not differ, so that no line is fixed. `d` is 16 times the converter's input as its present
trims show it. -/
def fitTrim (old : BitVec 16) (xs : List Sample) : Option (Int × Int) :=
  let g := 1024 + signed8 (fld old 15 8)
  let o := signed8 (fld old 7 0)
  let d (x : Sample) : Int := 16 * Int.ofNat x.code - o
  let n := Int.ofNat xs.length
  let sd := sumBy d xs
  let sx := sumBy (·.want) xs
  let den := n * sumBy (fun x => d x * d x) xs - sd * sd
  let num := n * sumBy (fun x => d x * x.want) xs - sd * sx
  if den = 0 then none
  else some (nearest (g * num) (2 ^ 17 * den) - 1024, nearest (sx * den - num * sd) (2 ^ 17 * den * n))

/-- The trim lies within R49. -/
def trimFits (x : Int × Int) : Bool :=
  decide (-128 ≤ x.1) && decide (x.1 ≤ 127) && decide (-128 ≤ x.2) && decide (x.2 ≤ 127)

def trimWord (x : Int × Int) : BitVec 16 := BitVec.ofNat 16 ((x.1 % 256).toNat * 256 + (x.2 % 256).toNat)

/-! ## Rotation (R67) -/

/-- Codes of a converter against the test input: code k stands for k · SCALE / 2^16 level units (R363), converted in the smallest
RANGE that does not clip it. -/
def testSamples (scale : Nat) (codes : List (Nat × Nat)) : List Sample :=
  codes.map fun e => ⟨Int.ofNat (e.1 * scale * 2 ^ 5 / 2 ^ clearRange (2 * e.1 * scale / 2 ^ 16)), e.2⟩

/-- The trim that a converter needs against the test input; none when no code was taken. -/
def testTrim (fit : CalFit) (scale c : Nat) (u : ArrU) : Option (Int × Int) :=
  match fit.test.find? fun e => e.1 == c with
  | some e => fitTrim (tget 0#16 u.trims c) (testSamples scale e.2)
  | none => none

def testFails (fit : CalFit) (scale c : Nat) (u : ArrU) : Bool :=
  match testTrim fit scale c u with
  | some x => !trimFits x
  | none => false

/-- The converter takes its trim from the test input. -/
def takeTest (fit : CalFit) (scale c : Nat) (u : ArrU) : ArrU :=
  match testTrim fit scale c u with
  | some x => if trimFits x then { u with trims := tset 0#16 u.trims c (trimWord x) } else u
  | none => u

/-- A spare takes a value in the map: a column it serves, or 0xFFFE withdrawn (R67). SPARES_USED counts it once. -/
def useSpare (i v : Nat) (u : ArrU) : ArrU :=
  let used := if spareField u i = 0xFFFF then 1 else 0
  { u with spareMap := setFld u.spareMap (spareHi i) (16 * i) v, state := satFld u.state 19 18 used, err := setBit u.err 5 }

def freeSpares (u : ArrU) : List Nat := [0, 1].filter fun i => spareField u i == 0xFFFF

/-- The first free spare of an array. -/
def freeSpare (u : ArrU) : Option Nat := [0, 1].find? fun i => spareField u i == 0xFFFF

/-- A column converter that cannot be trimmed is replaced, or the calibration fails (R67). -/
def replaceColumn (a p : Nat) (r : Nat × Bool × State) : Nat × Bool × State :=
  match freeSpare (arr r.2.2 a) with
  | some i =>
    (r.1 + 1, r.2.1, setPermanent 3#4 (converterUnit a p) (addEvent 3#4 (converterUnit a p)
      (modArr r.2.2 a (useSpare i p))))
  | none => (r.1, false, r.2.2)

/-- A spare that cannot be trimmed is withdrawn; a column that it served needs the other one (R67). -/
def withdrawSpare (a i : Nat) (r : Nat × Bool × State) : Nat × Bool × State :=
  let v := spareField (arr r.2.2 a) i
  if v = 0xFFFE then r
  else
    let s := setPermanent 3#4 (converterUnit a (528 + i)) (addEvent 3#4 (converterUnit a (528 + i))
      (modArr r.2.2 a (useSpare i 0xFFFE)))
    if v = 0xFFFF then (r.1, r.2.1, s) else replaceColumn a v (r.1, r.2.1, s)

/-- The rotation, when a spare is free: the spares are trimmed first, then each column's own converter. Columns replaced, whether
every column has a converter, and the state. -/
def rotate (a : Nat) (fit : CalFit) (scale : Nat) (s : State) : Nat × Bool × State :=
  if (freeSpares (arr s a)).isEmpty then (0, true, s)
  else
    let spares := [0, 1].filter fun i => spareField (arr s a) i != 0xFFFE
    let r := spares.foldl (fun r i =>
      if testFails fit scale (528 + i) (arr r.2.2 a) then withdrawSpare a i r
      else (r.1, r.2.1, modArr r.2.2 a (takeTest fit scale (528 + i)))) (0, true, s)
    if (freeSpares (arr r.2.2 a)).isEmpty then r
    else
      ((List.range 528).filter fun p => fit.test.any fun e => e.1 == p).foldl (fun r p =>
        if converterOf (arr r.2.2 a) p != p then r
        else if testFails fit scale p (arr r.2.2 a) then replaceColumn a p r
        else (r.1, r.2.1, modArr r.2.2 a (takeTest fit scale p))) r

/-! ## The column fit and the verify (R66) -/

/-- Q / 2^RANGE in 2^-21 LSB. -/
def wanted (q range : Nat) : Int := Int.ofNat (q * 2 ^ 21 / 2 ^ range)

/-- The deviation of a column in a read. -/
def readDev (dev : List (Nat × Nat × Dy)) (n p : Nat) : Dy :=
  ((dev.find? fun e => e.1 == n && e.2.1 == p).map (·.2.2)).getD ⟨0, 0⟩

/-- The sample of a column in a read of pattern i. -/
def readSample (u : ArrU) (plan : CalPlan) (dev : List (Nat × Nat × Dy)) (p i n : Nat) : Sample :=
  let q := patternSum (plan.cells.getD p []) i
  let range := plan.ranges.getD i 0
  let scale : Dy := ⟨1, -(Int.ofNat range)⟩
  ⟨wanted q range, convert u p (dyMul (dyAdd ⟨Int.ofNat q, 0⟩ (readDev dev n p)) scale)⟩

/-- A column whose cells all hold level 0 and which shows no deviation: each of its reads is the same, so they fix no line. -/
def blankColumn (plan : CalPlan) (dev : List (Nat × Nat × Dy)) (p : Nat) : Bool :=
  (plan.cells.getD p []).isEmpty && !dev.any fun e => e.2.1 == p

/-- The codes of a column over the pattern reads that its own converter served. -/
def patternSamples (u : ArrU) (plan : CalPlan) (fit : CalFit) (free p : Nat) : List Sample :=
  if blankColumn plan fit.pattern p then []
  else ((List.range (patternReads free)).filter fun n => !spareServes free p n).map fun n =>
    readSample u plan fit.pattern p (n % 256) n

/-- Data and checksum columns: every column but the reference columns. -/
def fittedColumns : List Nat := (List.range 528).filter fun p => p % 66 != 64

/-- The trims that the fit solves, by converter. -/
def fitColumns (u : ArrU) (plan : CalPlan) (fit : CalFit) (free : Nat) : List (Nat × Int × Int) :=
  fittedColumns.filterMap fun p =>
    (fitTrim (tget 0#16 u.trims (converterOf u p)) (patternSamples u plan fit free p)).map fun x => (converterOf u p, x)

/-- Squared errors of a data column over the 64 verify reads, in 2^-42 LSB². -/
def columnError (u : ArrU) (plan : CalPlan) (dev : List (Nat × Nat × Dy)) (p : Nat) : Int :=
  let sq (x : Sample) : Int := (2 ^ 21 * Int.ofNat x.code - x.want) * (2 ^ 21 * Int.ofNat x.code - x.want)
  if blankColumn plan dev p then 64 * sq ⟨0, convert u p ⟨0, 0⟩⟩
  else sumBy sq ((List.range 64).map fun i => readSample u plan dev p i i)

/-- The sum over every data column: 512 · 64 squared errors, in 2^-42 LSB². -/
def verifyError (u : ArrU) (plan : CalPlan) (dev : List (Nat × Nat × Dy)) : Nat :=
  ((List.range 512).foldl (fun n d => n + columnError u plan dev (dataCol d)) 0).toNat

/-- q in steps of 1/64 LSB, the RMS to the nearest step (DESIGN CHOICE, log entry 51), 255 at most (Table 2-18). -/
def qualityOf (err : Nat) : Nat := min 255 ((isqrtBits (err / 2 ^ 43) 32 0 + 1) / 2)

/-- q ≤ QMAX, exactly: QMAX counts steps of 0.125 LSB. No temperature changes the limit (R68). -/
def qualityPasses (err qmax : Nat) : Bool := decide (err ≤ 2 ^ 51 * qmax * qmax)

/-- What a calibration comes to. -/
structure CalResult where
  /-- A converter replaced every one that failed, and every trim lies within R49. -/
  sound    : Bool
  replaced : Nat
  trims    : List (Nat × Int × Int)
  err      : Nat

/-- The phases of Table 2-10 on an array: rotation, fit, trim load, verify. -/
def calibrate (a : Nat) (fit : CalFit) (s : State) : CalResult × State :=
  let scale := match (arr s a).cal with
    | some x => x.cti.toNat
    | none => (clus s (clusterOfArray a)).ctiScale.toNat
  let free := (freeSpares (arr s a)).length
  let (n, spared, s) := rotate a fit scale s
  let u := arr s a
  let plan := calPlan u
  let trims := fitColumns u plan fit free
  let sound := spared && trims.all fun t => trimFits t.2
  let loaded := { u with trims := trims.foldl (fun t x => tset 0#16 t x.1 (trimWord x.2)) u.trims }
  if sound then (⟨true, n, trims, verifyError loaded plan fit.verify⟩, modArr s a fun _ => loaded)
  else (⟨false, n, trims, 0⟩, s)

/-- The die's test point holds no samples any more. -/
def freeTestPoint (a : Nat) (s : State) : State :=
  let die := dieOfArray a
  modMon s fun m => { m with
    atp := tset 0 m.atp die 0, traceMeans := tset [] m.traceMeans die [], traceFit := tset 0 m.traceFit die 0
    waiting := m.waiting.erase (traceUser die) }

/-- The die's test point is released, and the trace dropped (R365). -/
def dropTrace (a : Nat) (s : State) : State :=
  if tget 0 s.mon.atp (dieOfArray a) = a + 1 then
    modMon (freeTestPoint a s) fun m => { m with traceCnt := satFld m.traceCnt 15 0 1, err := setBit m.err 6 }
  else s

/-- The traced calibration has passed; its Tj is kept for the result. -/
def passTrace (a : Nat) (s : State) : State :=
  if tget 0 s.mon.atp (dieOfArray a) = a + 1 then
    modMon s fun m => { m with traceFit := tset 0 m.traceFit (dieOfArray a) (fld (arr s a).qual 25 16 + 1) }
  else s

/-- TJ_CAL is that of the fit; a calibration that passes sets Q and Q_WORST (Table 2-18). -/
def loadQuality (r : CalResult) (good : Bool) (u : ArrU) : ArrU :=
  let u := match u.cal with
    | some x => { u with qual := setFld u.qual 25 16 x.tj.toNat }
    | none => u
  let q := qualityOf r.err
  if good then { u with qual := setFld (setFld u.qual 7 0 q) 15 8 (max q (fld u.qual 15 8)) } else u

/-- The end of a calibration (R66, R67, Table 2-9). A column that no longer holds its programmed image shows here, as a trim
beyond R49 or as a quality figure beyond QMAX (R54). -/
def endCalibration (a : Nat) (fit : CalFit) (s : State) : State :=
  if arrMode (arr s a) != 2 || outOfWork (arr s a) then s
  else
    let (r, s) := calibrate a fit s
    let good := r.sound && qualityPasses r.err (fld (arr s a).calp 3 0)
    let s := modArr s a (loadQuality r good)
    if good then
      let s := passTrace a s
      let s := if (arr s a).retest && !bit (arr s a).state 16 then passArrayRetest a s else s
      let s := exitRule a s
      arrayDone a { passed := 1, replaced := r.replaced } s
    else
      let s := addEvent 6#4 a (dropTrace a (modArr s a fun u => { u with err := setBit u.err 4, cal := none }))
      if (arr s a).recovered then
        if (arr s a).retest then failArrayRetest a s else fenceArray a s
      else enterRefresh a 5 s

def execCalibrationEnd (array : Nat) (fit : CalFit) (s : State) : Res :=
  onUnit 4096 array s fun s => calWaiters array (endCalibration array fit s)

end Sys2Proof.Machine
end

