-- ==== Sys2Proof/Machine/Write.lean ====
section
/-! DEFINITION. Programming the arrays (spec/03): the write budget and its grants, the write frame row by row, refresh and
wear. -/

namespace Sys2Proof.Machine

/-! ## The write budget (R81 to R83) -/

/-- ARR_WB_LIMIT.POWER_LIMIT: the ladder's value, 0 while a protective action is in force (Table 12-8). -/
def wbPower (s : State) : Nat := if s.pwr.protUv || s.pwr.protFlow then 0 else s.pwr.powerLimit

def wbBudget (s : State) : Nat := fld s.wbCfg 9 0

/-- ARR_WB_LIMIT.EFFECTIVE (R81). -/
def wbEffective (s : State) : Nat := min (wbBudget s) (wbPower s)

/-- Grants that an array holds: a refresh in its frame, a rewrite granted. -/
def grantsOf (u : ArrU) : Nat :=
  (match u.write with
    | some w => if w.refresh then 1 else 0
    | none => 0) + if u.granted then 1 else 0

def grantsHeld (s : State) : Nat := s.arrays.foldl (fun n e => n + grantsOf e.2) 0

def grantsIn (s : State) (c : Nat) : Nat :=
  s.arrays.foldl (fun n e => if clusterOfArray e.1 = c then n + grantsOf e.2 else n) 0

/-- An array that may be granted at all: in service and with its array region on (R81). -/
def grantable (s : State) (a : Nat) : Bool :=
  !outOfWork (arr s a) && !coreFenced s (coreOfArray a) && arrRegState s (clusterOfArray a) == 2

/-- A refresh asks for a grant: REFRESHING with no frame begun; a start-up refresh from phase 0x6 on (R371). -/
def refreshAsks (s : State) (a : Nat) : Bool :=
  let u := arr s a
  arrMode u == 3 && u.write.isNone && !outOfWork u && !coreFenced s (coreOfArray a)
    && (fld u.state 13 11 != 6 || (decide (6 ≤ bootPhase s) && decide (bootPhase s ≤ 8)))

/-- A refresh that may be granted; one whose region is not on waits (R81). -/
def refreshWaits (s : State) (a : Nat) : Bool := refreshAsks s a && grantable s a

/-- A rewrite asks for a grant. -/
def rewriteAsks (s : State) (a : Nat) : Bool :=
  (arr s a).request.isSome && !(arr s a).granted && !outOfWork (arr s a) && !coreFenced s (coreOfArray a)

/-- A rewrite that may be granted; one whose region is not on waits (R81). -/
def rewriteWaits (s : State) (a : Nat) : Bool := rewriteAsks s a && grantable s a

/-- A waiting request: refresh or rewrite, and the array. -/
structure Waiting where
  refresh : Bool
  array   : Nat
  deriving DecidableEq, Repr

def reqOrder (s : State) (w : Waiting) : Nat :=
  if w.refresh then (arr s w.array).refreshOrder.toNat
  else match (arr s w.array).request with
    | some r => r.order.toNat
    | none => 0

def reqStamp (s : State) (w : Waiting) : Option Nat :=
  match (arr s w.array).request with
  | some r => if w.refresh then none else r.stamp
  | none => none

/-- Rank class of a request: refreshes, then seal stamps oldest first, then ARRAY_WRITE (R82). -/
def reqClass (s : State) (w : Waiting) : Nat :=
  if w.refresh then 0 else match reqStamp s w with
    | some n => n + 1
    | none => s.commits + 2

/-- The order of R82. -/
def grantBefore (s : State) (x y : Waiting) : Bool :=
  let cx := reqClass s x
  let cy := reqClass s y
  let ox := reqOrder s x
  let oy := reqOrder s y
  decide (cx < cy) || (cx == cy && (decide (ox < oy) || (ox == oy && decide (x.array ≤ y.array))))

def insertWaiting (s : State) (w : Waiting) : List Waiting → List Waiting
  | [] => [w]
  | h :: t => if grantBefore s w h then w :: h :: t else h :: insertWaiting s w t

/-- The waiting requests in the order of R82. -/
def waitingRequests (s : State) : List Waiting :=
  let refreshes := ((List.range 4096).filter (refreshWaits s)).map (Waiting.mk true)
  let rewrites := (s.arrays.filter fun e => rewriteWaits s e.1).map fun e => Waiting.mk false e.1
  (refreshes ++ rewrites).foldr (insertWaiting s) []

/-- A refresh gets its grant and its frame begins; the trace baselines of the array are cleared (R75, R88, R365). -/
def beginRefresh (a : Nat) (s : State) : State :=
  modArr s a fun u => { u with
    refreshes := satWord u.refreshes 1
    traceRef := []
    wrstat := if fld u.state 13 11 = 6 then setFld u.wrstat 15 6 0 else u.wrstat
    write := some {
      refresh := true, startup := fld u.state 13 11 == 6, command := false, rows := List.range 512, row := none,
      target := [], iter := 0, low := [], high := [], rowEnded := false, setMv := [], resetMv := [], vband := 0, groups := [], stuck := 0,
      rowsDone := 0, mismatch := 0, closing := false } }

/-- A rewrite gets its grant: it is entered at the product boundary, or waits as WRITE_PENDING (Table 2-9). -/
def grantRewrite (a : Nat) (s : State) : State :=
  let s := modArr s a fun u => { u with granted := true, request := none }
  if arrMode (arr s a) = 0 then boundary a s else modArr s a fun u => { u with state := setBit u.state 15 }

/-- Grants in order while both limits allow: package count, cluster counts, number granted in this tick. -/
def grantAll : List Waiting → Nat → Tab Nat → Nat → State → Nat × State
  | [], _, _, n, s => (n, s)
  | w :: rest, held, per, n, s =>
    let c := clusterOfArray w.array
    let inC := tget 0 per c
    if held < wbEffective s && inC < fld s.wbCfg 20 16 then
      let s := if w.refresh then beginRefresh w.array s else grantRewrite w.array s
      grantAll rest (held + 1) (tset 0 per c (inC + 1)) (n + 1) s
    else grantAll rest held per n s

/-- Grants of one array control tick, with the one notice of the VPROG load they share (R82, Table 12-3: 0.143 A an array,
in steps of 0.125 A rounded up). -/
def grantTick (s : State) : State :=
  let per := (List.range 32).foldl (fun t c => tset 0 t c (grantsIn s c)) []
  let (n, s) := grantAll (waitingRequests s) (grantsHeld s) per 0 s
  if n = 0 then s else notice 4 (noticeFrame 0 1 63 ((1144 * n + 999) / 1000)) s

def execWriteGrant (s : State) : Res := .next (grantTick s)

/-! ## Rows (R72 to R76, Table 3-5) -/

/-- The end of a write frees its grant; dirty bits that came meanwhile request a new one (R80). -/
def releaseGrant (a : Nat) (s : State) : State :=
  let n := s.commits
  modArr s a fun u => requestRewrite n { u with granted := false, write := none }

/-- TIME_US of a write that a shadow failure cut short: the event carries no duration, so it is a free value. -/
def shadowStop (a status : Nat) (w : WriteOp) (s : State) : State :=
  let (t, s) := drawFree s
  let s := modArr s a fun u =>
    let u := stoppedCounts w t { u with wrerr := setBit (setBit u.wrerr 3) 4 }
    { u with wrstat := clrBit u.wrstat 0 }
  let s := writeServed a w status (releaseGrant a s)
  sweepDestroy (exitRule a s)

/-- Addresses of the shadow codes of a row (R191). -/
def shadowBytes (l : Layer) (a r : Nat) : List Nat :=
  let t := tileOf l a
  let nw := weightsPerRow (lWidth l)
  if 512 * t.2 + r < lIn l then
    ((List.range nw).filter fun j => decide (t.1 * nw + j < lOut l)).map fun j =>
      lShadow l + (t.1 * nw + j) * lIn l + 512 * t.2 + r
  else []

/-- The row's shadow codes as they are read (Table 3-5, R274): 0 readable, otherwise the status of the write's failure; and the
state with what the read recorded. -/
def readShadow (c : BitVec 4) (l : Layer) (a r : Nat) (check : CheckSeen) (s : State) : Nat × State :=
  let xs := shadowBytes l a r
  let s := spoil check (xs.map fun x => (x, 1)) s
  if !xs.all fun x => accessible s false x then (0x51, s)
  else if xs.any fun x => rangePoisoned s x 1 then (0x71, relErr 8 s)
  else if check = .atRest || xs.any fun x => (seen s x 1).mismatch then (0x41, atRest c (relErr 1 s))
  else if check = .mismatch then (0, rereadOk (relErr 1 s))
  else (0, s)

/-- Start the next row of a write or refresh, or the disconnection of VPROG after the last (R74, R80, Table 3-5). -/
def startRow (a : Nat) (shadow : CheckSeen) (s : State) : State :=
  match (arr s a).write with
  | none => s
  | some w =>
    match w.rows with
    | [] => modArr s a fun u => { u with write := some { w with closing := true, row := none } }
    | r :: rest =>
      let band := fld (arr s a).wrcfg 2 0
      let next (target : List (Nat × Nat)) (s : State) : State :=
        modArr s a fun u => { u with write := some { w with
          rows := rest, row := some r, target := target, iter := 0, low := [], high := [], rowEnded := false
          setMv := [], resetMv := [], vband := band } }
      if w.refresh then
        let data := (imageRow (arr s a) r).filter fun e => e.1 % 66 != 64
        let refs := ((List.range 8).map fun g => (refCol g, r % 4)).filter fun e => e.2 != 0
        next (if w.startup then [] else data ++ refs) s
      else
        match layerOfArray s a with
        | none => shadowStop a 0x51 w s
        | some (c, l) =>
          let (st, s) := readShadow c l a r shadow s
          if st = 0 then next (rowTarget (lWidth l) r (shadowRow s l a r)) s else shadowStop a st w s

/-- The first row starts at tick 5,000 of the frame, and not before the notice of VPROG has been sent (R75, R331). -/
def firstRow (a : Nat) (shadow : CheckSeen) (s : State) : State :=
  match (arr s a).write with
  | some w => if w.row.isNone && w.rowsDone = 0 && !w.closing && !noticeUnsent s 1 63 then startRow a shadow s else s
  | none => s

def execWriteFirstRow (array : Nat) (shadow : CheckSeen) (s : State) : Res := onUnit 4096 array s (firstRow array shadow)

/-- D_v of a column (R72). -/
def verifyCode (u : ArrU) (p : Nat) (q : Dy) : Nat := convert u p (dyMul q ⟨8, 0⟩)

/-- The level that the start-up refresh rebuilds: the nearest of round(D_v / 8), clamped to 0 to 3 (Table 3-6). The spec names no
tie rule for D_v = 4, 12 and 20: a tie goes up (DESIGN CHOICE, log entry 51). -/
def rebuiltLevel (d : Nat) : Nat := min 3 ((d + 4) / 8)

/-- The end of an iteration: its pulses, then its verify, at whose drive held trims take effect (R70 to R74). `dev` is the
deviation of each cell's current from the level the cell is programmed to, in level units. -/
def iterationEnd (a : Nat) (dev : List (Nat × Dy)) (s : State) : State :=
  modArr s a fun u =>
    match u.write with
    | none => u
    | some w =>
      match w.row with
      | none => u
      | some r =>
        if w.rowEnded then u
        else
          let (w, u) := pulsePart r w (applyTrims u)
          let code (p : Nat) : Nat :=
            let base := if w.startup && w.iter = 0 then cellLevel u r p
              else if isRef p && !w.refresh then r % 4 else tget 0 w.target p
            verifyCode u p (dyAdd ⟨Int.ofNat base, 0⟩ (deviation dev p))
          let target := if w.startup && w.iter = 0 then
              ((List.range 528).map fun p => (p, if isRef p then r % 4 else rebuiltLevel (code p))).filter fun e => e.2 != 0
            else w.target
          let cols := (List.range 528).filter fun p => w.refresh || !isRef p
          let low := cols.filter fun p => decide (code p + w.vband < 8 * tget 0 target p)
          let high := cols.filter fun p => decide (8 * tget 0 target p + w.vband < code p)
          let ended := (low.isEmpty && high.isEmpty) || decide (16 ≤ w.iter + 1)
          { u with write := some { w with target := target, iter := w.iter + 1, low := low, high := high, rowEnded := ended } }

def execWriteIterationEnd (array : Nat) (analog : List (Nat × Dy)) (s : State) : Res :=
  onUnit 4096 array s (iterationEnd array analog)

/-- A rebuilt row disagrees with its own checksum digits at the array's width: digits 0 to m_c − 1 (R89, R43). -/
def rowDisagrees (w : Nat) (target : List (Nat × Nat)) : Bool :=
  let m := max 1 (colsPerWeight w)
  let lv (p : Nat) : Nat := tget 0 target p
  let sum := (List.range (usedCols w)).foldl (fun n d => n + 4 ^ (d % m) * lv (dataCol d)) 0
  w != 0 && (List.range (checkDigits w)).any fun g => lv (checkCol g) != sum / 4 ^ g % 4

/-- A row that ended with cells out of band: WRITE_STUCK or REFRESH_STUCK, STUCK_LAST, and after a rewrite the recovery refresh
that waits (Table 3-5). -/
def noteStuck (refresh : Bool) (total : Nat) (u : ArrU) : ArrU :=
  let u := { u with
    wrerr := setBit u.wrerr (if refresh then 1 else 0), wrstat := setFld u.wrstat 23 16 (min 255 total) }
  if refresh then u else { u with state := setBit u.state 16, refreshCause := 5#3 }

/-- The end of a row: the image takes the targets, stuck cells are counted, and the next row starts (R76, Table 3-5). -/
def rowEnd (a : Nat) (shadow : CheckSeen) (s : State) : State :=
  match (arr s a).write with
  | some w =>
    match w.row with
    | some r =>
      if !w.rowEnded then s
      else
        let stuck := w.low.length + w.high.length
        let s := modArr s a fun u =>
          let keepRefs := (imageRow u r).filter fun e => isRef e.1
          let target := if w.refresh then w.target
            else (w.target.filter fun e => !isRef e.1) ++ keepRefs
          let bad := w.startup && rowDisagrees (arrWidth u) w.target
          let u := if stuck = 0 then u else noteStuck w.refresh (w.stuck + stuck) u
          { u with
            image := setRowImage u.image r (target.foldl (fun t e => tset 0 t e.1 e.2) [])
            stuck := satWord u.stuck stuck
            write := some { w with row := none, rowsDone := w.rowsDone + 1, stuck := w.stuck + stuck,
                                   mismatch := w.mismatch + if bad then 1 else 0 } }
        startRow a shadow (if w.refresh && 0 < stuck then addEvent 6#4 a s else s)
    | none => s
  | none => s

def execWriteRowEnd (array : Nat) (shadow : CheckSeen) (s : State) : Res := onUnit 4096 array s (rowEnd array shadow)

/-- The registers at the end of a write or refresh (Table 3-5, Table 3-11). -/
def endRegisters (w : WriteOp) (us : Nat) (u : ArrU) : ArrU :=
  let st := setFld (setFld u.wrstat 23 16 (min 255 w.stuck)) 3 2 (if w.stuck = 0 then 1 else 2)
  let st := if w.startup then clrBit (setFld st 15 6 w.mismatch) 0 else if w.command then setBit st 0 else st
  { u with
    wrstat := st
    wrtime := setFld (setFld u.wrtime 31 22 w.rowsDone) 21 0 (min us 0x3FFFFF) }

/-- The end of the frame: the array leaves by the exit rule, or by the ends of a refresh (R75, Table 2-9, Table 3-5). -/
def endWrite (a us : Nat) (s : State) : State :=
  match (arr s a).write with
  | some w =>
    if !w.closing then s
    else
      let s := modArr s a (endRegisters w us)
      if w.refresh then
        let s := modArr s a fun u => { u with write := none }
        if w.stuck = 0 then enterCal a (fld (arr s a).state 13 11) false s
        else if (arr s a).retest then failArrayRetest a s
        else fenceArray a s
      else
        let s := writeServed a w 0 (releaseGrant a s)
        sweepDestroy (exitRule a s)
  | none => s

def execWriteEnd (array us : Nat) (s : State) : Res := onUnit 4096 array s (endWrite array us)

/-! ## Wear (R91 to R93) -/

/-- The wear record of an array, 256 B (Table 3-12). -/
def wearBytes (u : ArrU) : List Byte := (List.range 256).map fun i => windowByte u (0x11000 + i)

def wearOf (u : ArrU) : WearRec := ⟨u.writes, u.refreshes, u.pulses, u.stuck, u.hours, u.groups⟩

/-- Record the wear of an array as the logbook's newest. -/
def saveWear (a : Nat) (s : State) : State :=
  let r := wearOf (arr s a)
  modSec s fun x => { x with wear := tset ⟨0#32, 0#32, 0#64, 0#32, 0#32, []⟩ x.wear a r }

/-- The WEAR record of a cluster's 128 arrays (Table 14-8). -/
def copyWear (c : Nat) (s : State) : State :=
  let as := (List.range 128).map (128 * c + ·)
  let s := as.foldl (fun s a => saveWear a s) s
  logAddFor c 0x08#8 (as.flatMap fun a => wearBytes (arr s a)) s

/-- A group counter of the cluster stands at a multiple of 1,024 (R92). -/
def wearDue (c : Nat) (s : State) : Bool :=
  s.arrays.any fun e => clusterOfArray e.1 == c && e.2.groups.any fun g => g.2.toNat % 1024 == 0 && g.2 != 0#32

def execWearCopy (cluster : Nat) (s : State) : Res :=
  onUnit 32 cluster s fun s => if wearDue cluster s then copyWear cluster s else s

end Sys2Proof.Machine
end

