-- ==== Sys2Proof/Machine/Clock.lean ====
section
/-! DEFINITION. One tick of the rack reference: what an idle step does (R30, R241, R348, R350, R401; log entry 3). -/

namespace Sys2Proof.Machine

/-- Every hour of the watch, an array that is powered has served one more (Table 3-12, R93). -/
def hourMark (s : State) : State :=
  if s.pwr.state = .awake && s.pwr.watchTime.toNat % hour == 0 then
    (List.range 4096).foldl (fun s a =>
      if regionOn (arrRegState s (clusterOfArray a)) then
        modArr s a fun u =>
          let u := { u with hours := satWord u.hours 1 }
          { u with wrstat := setFld u.wrstat 5 4 (wearLevel u) }
      else s) s
  else s

/-- The watch count advances by k ticks of its 32.768 kHz clock while VAON is up (R341); the heartbeat strobe lasts one tick
(R401). -/
def watchAdvance (k : Nat) (s : State) : State :=
  if s.pwr.vaon then hourMark (modPwr s fun p => { p with watchTime := p.watchTime + w64 k, hbOut := false }) else s

/-- The rack count and the step pulse on SYNC_OUT advance while the module is awake (R241, R348). -/
def rackAdvance (s : State) : State :=
  if s.pwr.state = .awake then modPwr { s with rack := s.rack + 1 } fun p => { p with syncOut := p.syncOut - 1 } else s

/-- One tick of the rack reference, 156.25 MHz: 2048 watch ticks pass in 9,765,625 of them. -/
def tick (s : State) : State :=
  let p := s.watchPhase + 2048
  let s := { rackAdvance s with watchPhase := p % 9765625 }
  if 9765625 ≤ p then watchAdvance 1 s else s

end Sys2Proof.Machine
end

