-- ==== Sys2Proof/Machine/Caravan.lean ====
section
/-! DEFINITION. Gradient reduction (spec/09): the start and check of a caravan, contributions, packets, restarts. -/

namespace Sys2Proof.Machine

/-- A range that starts in a region of Table 1-4 runs past its end (R116, R194, R251). A range that starts outside every region is
unmapped, which R409 answers. -/
def overruns (s : State) (a n : Nat) : Bool :=
  n != 0 && match areaOf a with
    | .stack => decide (a < stackBytes s) && decide (stackBytes s < a + n)
    | .tally _ => decide (0xC0B0100000 < a + n)
    | .regs => decide (0xC0B0000000 < a + n)
    | .hole => false
    | x => areaOf (a + n - 1) != x

/-! ## Start (R250, R251) -/

/-- The descriptor of a caravan as the entry holds it (Table 9-1); the sizes come from the layer. -/
def readCaravan (s : State) (c : BitVec 4) (n : BitVec 8) (k : Word) : Caravan :=
  let e := cvEntry s n k
  let w := readWord s (e + 4)
  let rows := match layerRec s c (fld w 11 0) with
    | some l => lOut l
    | none => 0
  let cols := match layerRec s c (fld w 11 0) with
    | some l => lIn l
    | none => 0
  let contrib := readNat s (e + 48) 8
  { ctx := c, n := n, epoch := k, ring := fld w 27 24, s := BitVec.ofNat 8 (fld w 23 16)
    slices := (List.range (fld w 15 12)).map fun j =>
      let x := readWord s (e + 16 + 4 * j)
      (BitVec.ofNat 16 (fld x 31 16), BitVec.ofNat 16 (fld x 15 0))
    layer := BitVec.ofNat 12 (fld w 11 0), result := readNat s (e + 8) 8
    contrib := if contrib = noAddr then none else some contrib
    bitmap := readNat s (e + 56) 8, rows := rows, cols := cols, state := 1#3, gen := 0, restarted := false,
    interval := false, sent := 0#128, recv := 0#128, halves := [], final := [], satBlocks := 0, maxBump := 0, bump4 := 0,
    invalid := 0, poison := false, digital := false, sat := false, exact := [], counts := [], marks := [], rowsOf := [],
    started := [], ops := [] }

/-- The descriptor is bad (R251, Table 9-1). -/
def caravanBad (s : State) (v : Caravan) : Bool :=
  let e := cvEntry s v.n v.epoch
  let w := readWord s (e + 4)
  let contribBytes := 4 * v.slices.length * v.rows * padCols v.cols + 2 * v.slices.length * tileCount v
  !rangeOk s false e 128
    || readWord s e != v.epoch || fld w 31 28 != v.ctx.toNat
    || v.ring = 0 || 12 < v.ring || !bit (ringCfg s v.ring) 27
    || (decide (113 < v.s.toNat) && decide (v.s.toNat < 128))
    || v.slices.isEmpty || decide (8 < v.slices.length) || v.slices.any (fun x => x.2 == 0#16)
    || decide ((v.slices.map (·.1)).dedup.length < v.slices.length)
    || (layerRec s v.ctx v.layer.toNat).isNone
    || overruns s v.result (v.rows * 33 * (padCols v.cols / 32))
    || overruns s v.bitmap ((v.rows + 7) / 8)
    || (match v.contrib with
        | none => !(v.slices.length == 1 && v.slices.all fun x => x.2 == 1#16)
        | some b => overruns s b contribBytes)

/-- A caravan starts: its entry is latched and checked, the bitmap zeroed and the status written (R251). -/
def startCaravan (c : BitVec 4) (n : BitVec 8) (k : Word) (s : State) : State :=
  match findCv s c n k with
  | some _ => s
  | none =>
    let v := readCaravan s c n k
    let s' := modFab s fun f => { f with caravans := f.caravans ++ [v] }
    if caravanBad s v then redErr 1 (cvFault v s')
    else
      let s' := storeBytes s' v.bitmap (List.replicate ((v.rows + 7) / 8) 0#8) false
      cvWriteStatus v s'

def execCaravanStart (ctx : BitVec 4) (caravan : BitVec 8) (epoch : Word) (s : State) : Res :=
  .next (startCaravan ctx caravan epoch s)

/-! ## Contributions (R253 to R255) -/

/-- Home core of a tile, or the substitute of a fenced one (R253, R292). -/
def homeExec (s : State) (l : Layer) (v : Caravan) (t : Nat) : Nat :=
  let k := homeCore l v t
  if coreFenced s k then tget k s.rel.subst k else k

/-- The slice that a launch feeds. -/
def sliceOf (v : Caravan) (number : BitVec 16) : Option Nat :=
  (List.range v.slices.length).find? fun j => (v.slices.getD j (0#16, 0#16)).1 == number

/-- One drained row of a tile enters the contribution on core k: the exact values, or FP32 words written or added (R255). `marks`
gives POISON and DIGITAL of each block. The stores are the launch's (R167, R409). -/
def contributeRow (k uid : Nat) (v : Caravan) (slice t row : Nat) (vals : List (Option Dy)) (marks : Nat → Byte) (s : State) :
    State :=
  let nb := tileBlocks v t
  let width := 32 * nb
  let r := 64 * (t / max 1 (tileCols v)) + row
  let c0 := 64 * (t % max 1 (tileCols v))
  let padded := vals ++ List.replicate (width - vals.length) (some ⟨0, 0⟩)
  let note (w : Caravan) : Caravan := { w with
    rowsOf := tmod 0#64 w.rowsOf t fun b => b ||| BitVec.ofNat 64 (2 ^ row)
    marks := (List.range nb).foldl (fun m b => tmod 0#8 m (markKey slice t row b) fun x => x ||| marks b) w.marks }
  if isExact v then
    modCv s v.ctx v.n v.epoch fun w => note { w with
      exact := tmod [] w.exact t fun rows => (rows.filter fun e => e.1 != row) ++ [(row, padded)] }
  else
    match v.contrib with
    | none => s
    | some base =>
      let first := tget 0 v.counts (2 ^ 24 * slice + t) == 0
      let addr (i : Nat) : Nat := base + 4 * ((slice * v.rows + r) * padCols v.cols + c0 + i)
      let word (i : Nat) : Word :=
        let x := match padded.getD i none with
          | some d => dyToF32 d
          | none => 0x7FC00000#32
        if first then x else f32Add (readWord s (addr i)) x
      let words := (List.range width).map word
      if guarded s (addr 0) (4 * width) then stopLaunch uid 0x30 s
      else if !rangeOk s false (addr 0) (4 * width) then stopLaunch uid 0x51 s
      else
        let s := if !first && words.any isNanF32 then modCore s k fun c => { c with vecErr := setBit c.vecErr 4 } else s
        let s := (List.range nb).foldl (fun s b =>
          storeMarked s (addr (32 * b)) (((words.drop (32 * b)).take 32).flatMap bytesOfWord) (zb8Bit (marks b) 3)
            ⟨zb8Bit (marks b) 2, false⟩) s
        modCv s v.ctx v.n v.epoch note

/-- A pass of a slice has drained its last row: the tile's count of the slice rises (R255). -/
def countContribution (v : Caravan) (slice t : Nat) (s : State) : State :=
  let key := 2 ^ 24 * slice + t
  let n := tget 0 v.counts key + 1
  let s := modCv s v.ctx v.n v.epoch fun w => { w with counts := tset 0 w.counts key n }
  match v.contrib with
  | none => s
  | some base => storeBytes s (countAddr v base slice t) (leBytes 2 n) false

/-! ## Waystations (R257 to R259) -/

/-- Waystation slots of a cluster in use, by halves and by packets that wait for their caravan (R251, R259). -/
def slotsUsed (s : State) (c : Nat) : List Nat :=
  (s.fab.caravans.flatMap fun v => (v.halves.filter fun h => h.cluster == c).map (·.slot))
    ++ (s.fab.waiting.filter fun w => w.cluster == c).map (·.slot)

def slotAvailable (s : State) (c : Nat) : Bool := decide ((slotsUsed s c).length < 960)

/-- The first slot of a cluster that is free. -/
def freeSlot (s : State) (c : Nat) : Nat := ((List.range 960).find? fun k => !(slotsUsed s c).contains k).getD 0

/-- Address of a waystation slot in its cluster store (R259). -/
def slotAddr (c k : Nat) : Nat := 0xC000000000 + 0x2000000 * c + 0x1600000 + 2176 * k

/-- A packet's payload is written into its slot. -/
def fillSlot (c k : Nat) (p : CvPkt) (s : State) : State := storeBytes s (slotAddr c k) (cvPayload p) p.poison

/-- A half leaves its slot. -/
def dropHalf (v : Caravan) (h : Half) (s : State) : State :=
  modCv s v.ctx v.n v.epoch fun w => { w with halves := w.halves.filter (· != h) }

/-- Halves held for a tile go on once the member's contribution is ready (R257). -/
def releaseHalves (c : BitVec 4) (n : BitVec 8) (k : Word) (t : Nat) (s : State) : State :=
  match findCv s c n k with
  | none => s
  | some v =>
    if v.state != 1#3 && v.state != 2#3 then s
    else (v.halves.filter fun h => h.tile == t && !h.gather).foldl (fun s h =>
      match findCv s c n k with
      | some w => if tileIsReady s w t then dropHalf w h (forwardHalf w h s) else s
      | none => s) s

/-- A tile is ready: the chain that this member starts is sent, and halves that waited for the tile go on (R255, R257). -/
def tileBecomesReady (c : BitVec 4) (n : BitVec 8) (k : Word) (t : Nat) (s : State) : State :=
  match findCv s c n k with
  | none => s
  | some v =>
    if v.state != 1#3 || tileCount v ≤ t || !tileIsReady s v t then s
    else
      let s := if startsChain s v t && !v.started.contains t then startChain v t s else s
      releaseHalves c n k t s

def execTileReady (caravan : BitVec 8) (epoch : Word) (tile : BitVec 24) (s : State) : Res :=
  .next ((s.fab.caravans.filter fun v => v.n == caravan && v.epoch == epoch).foldl
    (fun s v => tileBecomesReady v.ctx v.n v.epoch tile.toNat s) s)

/-! ## Packets (R260, R261) -/

/-- The hop number that Table 9-3 gives for this position and phase. -/
def hopOf (s : State) (v : Caravan) (t : Nat) (gather : Bool) : Nat :=
  let n := max 1 (ringN s v.ring)
  let j := ringPos s v.ring
  let c := t % n
  if gather then (j + n - c) % n else (j + 2 * n - c - 1) % n

/-- The first check of R261 that a packet fails: 3 HOP_BAD, 4 SCALE_MISMATCH. -/
def packetFault (s : State) (v : Caravan) (p : CvPkt) : Option Nat :=
  let t := p.tile.toNat
  let h := hopOf s v t p.gather
  if p.src != ringPrev s v.ring || tileCount v ≤ t || p.resv || h = 0 || p.hop != h then some 3
  else if p.s != v.s then some 4
  else none

/-- A block whose header holds the reserved bit: every element is invalid (Table 5-4). -/
def zb8HdrBad (b : List Byte) : Bool := zb8Bit (b.headD 0#8) 4

def cleanBlock (b : List Byte) : List Byte :=
  if zb8HdrBad b then (b.headD 0#8 &&& 0xEF#8 ||| 2#8) :: (b.drop 1).map fun _ => 0x80#8 else b

/-- The half that a packet brings into slot k of a cluster. -/
def halfOf (p : CvPkt) (cluster k : Nat) : Half :=
  ⟨p.tile.toNat, p.half, p.gather, p.hop, p.gen.toNat, p.rowmap, ((chunks 33 p.blocks).map cleanBlock).flatten, cluster, k⟩

/-- HDR_BAD on the tile's home core when a block of the packet holds the reserved bit (Table 5-4). -/
def noteHeaders (p : CvPkt) (v : Caravan) (s : State) : State :=
  match layerRec s v.ctx v.layer.toNat with
  | none => s
  | some l => if (chunks 33 p.blocks).any zb8HdrBad then
      modCore s (homeExec s l v p.tile.toNat) fun c => { c with fmtErr := setBit c.fmtErr 0 }
    else s

/-- A checked packet takes a waystation slot of its home cluster and is processed; with none free it stays in the port's
receive buffer (R259). -/
def acceptHalf (q : Nat) (p : CvPkt) (v : Caravan) (s : State) : State :=
  let c := homeCluster s v p.tile.toNat
  if !slotAvailable s c then modFab s fun f => { f with blocked := f.blocked ++ [(q, p)] }
  else
    let k := freeSlot s c
    let h := halfOf p c k
    let s := noteHeaders p v (fillSlot c k p (modPort s q fun x => { x with redRx := satWord x.redRx 1 }))
    let s := modCv s v.ctx v.n v.epoch fun w => { w with
      recv := if w.interval then w.recv else w.recv + cvDigest p, halves := w.halves ++ [h] }
    match findCv s v.ctx v.n v.epoch with
    | none => s
    | some w =>
      if p.gather || tileIsReady s w p.tile.toNat then dropHalf w h (forwardHalf w h s) else s

/-- Launches that have read a COMPLETE caravan's result are recalled when it restarts (R268). -/
def recallReaders (v : Caravan) (s : State) : State := (readersOf s v).foldl (fun s u => recallOne true u s) s

/-- The caravan restarts at a higher generation that another member announced (R268). -/
def raiseGen (v : Caravan) (gen : Nat) (s : State) : State := recallReaders v (restartAt v gen false s)

/-- A packet of a started caravan (R261, R268). -/
def processPacket (q : Nat) (p : CvPkt) (v : Caravan) (s : State) : State :=
  if v.state = 3#3 then s
  else if p.gen.toNat < v.gen then modFab s fun f => { f with staleGen := satWord f.staleGen 1 }
  else
    let s := if v.gen < p.gen.toNat then raiseGen v p.gen.toNat s else s
    match findCv s v.ctx v.n v.epoch with
    | none => s
    | some w =>
      if w.state = 3#3 then s
      else match packetFault s w p with
        | some e => redErr e (cvFault w s)
        | none => acceptHalf q p w s

/-- A packet waits for its caravan in a waystation slot (R251). Its home core follows from the descriptor that the job has still to
write, so the model takes a slot of the lowest-numbered cluster that has one (DESIGN CHOICE, log entry 53). -/
def holdPacket (q : Nat) (p : CvPkt) (s : State) : State :=
  match (List.range 32).find? (slotAvailable s) with
  | some c =>
    let k := freeSlot s c
    modFab (fillSlot c k p s) fun f => { f with waiting := f.waiting ++ [⟨q, p, c, k⟩] }
  | none => modFab s fun f => { f with blocked := f.blocked ++ [(q, p)] }

/-- Receipt of a caravan packet: it is held while its entry names an older epoch, and otherwise starts its caravan
(R251, R261). A packet whose job no context holds is not served (R234). -/
def receivePacket (q : Nat) (p : CvPkt) (s : State) : State :=
  match ctxOfJob s p.job with
  | none => modFab s fun f => { f with err := setBit f.err 3 }
  | some c =>
    match findCv s c p.caravan p.epoch with
    | some v => processPacket q p v s
    | none =>
      if (readWord s (cvEntry s p.caravan p.epoch)).toNat < p.epoch.toNat then holdPacket q p s
      else
        let s := startCaravan c p.caravan p.epoch s
        match findCv s c p.caravan p.epoch with
        | some v => processPacket q p v s
        | none => s

def execCaravanPacket (port : Nat) (p : CvPkt) (s : State) : Res := onUnit 18 port s (receivePacket port p)

/-- The job writes an entry's EPOCH word: the entry is read again, and held packets of the epoch go on (R251). -/
def entryWritten (n : BitVec 8) (k : Word) (s : State) : State :=
  let s := writeWord s (cvEntry s n k) k
  let mine := s.fab.waiting.filter fun w => w.pkt.caravan == n && w.pkt.epoch == k
  let s := modFab s fun f => { f with waiting := f.waiting.filter fun w => !(w.pkt.caravan == n && w.pkt.epoch == k) }
  mine.foldl (fun s w => receivePacket w.port w.pkt s) s

def execCaravanEntryWrite (caravan : BitVec 8) (epoch : Word) (s : State) : Res := .next (entryWritten caravan epoch s)

/-- A slot of a cluster is free: the first half kept in a receive buffer for it is taken (R259). -/
def takeBlocked (c : Nat) (s : State) : State :=
  let here (w : Nat × CvPkt) : Bool := match ctxOfJob s w.2.job with
    | none => true
    | some x => match findCv s x w.2.caravan w.2.epoch with
      | some v => homeCluster s v w.2.tile.toNat == c
      | none => true
  if !slotAvailable s c then s
  else match s.fab.blocked.find? here with
    | some w => receivePacket w.1 w.2 (modFab s fun f => { f with blocked := f.blocked.erase w })
    | none => s

def execWaystationSlotFree (cluster : Nat) (s : State) : Res := onUnit 32 cluster s (takeBlocked cluster)

/-- Receipt of a RESTART: a higher generation restarts the caravan without sending (R268). -/
def receiveRestart (c : BitVec 4) (n : BitVec 8) (k : Word) (gen : BitVec 4) (s : State) : State :=
  match findCv s c n k with
  | some v => if v.state != 3#3 && decide (v.gen < gen.toNat) then raiseGen v gen.toNat s else s
  | none => s

/-- RESTART carries the milestone count; the spec gives it no comparison on receipt. -/
def execRestart (ctx : BitVec 4) (caravan : BitVec 8) (epoch : Word) (gen : BitVec 4) (_milestone : W64) (s : State) :
    Res := .next (receiveRestart ctx caravan epoch gen s)

end Sys2Proof.Machine
end

