-- ==== Sys2Proof/Machine/Landing.lean ====
section
/-! DEFINITION. The caravanserai and its landing as memory holds them (spec/10, R293 to R298, Table 10-6). The layout of the landing
and of the check list is the model's own (log entry 18): each context has a sixteenth of the landing, a row of sections, each of a
32-byte header (offset in the caravanserai, length, number of check records), its check records of 32 bytes, and its bytes padded to
16; a length of 0 ends the row. -/

namespace Sys2Proof.Machine

/-! ## State of the pair (Table 10-8) -/

/-- REL_TWIN_STAT.STATE: 0 OFF, 1 SYNCING, 2 PAIRED, 3 PEER_LOST. -/
def twinState (s : State) : Nat := fld s.rel.twinStat 31 30

def partner (s : State) : DevId := BitVec.ofNat 18 (fld s.rel.twinCfg 17 0)

/-- Start and size of the own caravanserai. -/
def ownTwinBase (s : State) : Nat := fld s.rel.twinBase 9 0 * gib

def ownTwinSize (s : State) : Nat := fld s.rel.twinCfg 26 18 * gib

def padTo16 (l : List Byte) : List Byte := l ++ List.replicate ((16 - l.length % 16) % 16) 0#8

/-! ## Check records: a group travels with its check plane entry (R294, R295) -/

/-- A check group of a copied range: its offset, its bytes and its entry. -/
structure CheckRec where
  off   : Nat
  len   : Nat
  entry : List Byte
  deriving DecidableEq, Repr

/-- The check groups that lie in a local range, with their entries; offsets count from `at_`. -/
def checkRecs (s : State) (src n at_ : Nat) : List CheckRec :=
  ((groupsMet s src n).filter fun g => decide (src ≤ g.base) && decide (g.base + g.len ≤ src + n)).map fun g =>
    ⟨at_ + (g.base - src), g.len, memGet s g.entry 8⟩

def checkRecBytes (r : CheckRec) : List Byte := leBytes 8 r.off ++ leBytes 8 r.len ++ (r.entry ++ List.replicate 8 0#8).take 8 ++ leBytes 8 0

/-- Check records in memory from a on. -/
def recsAt (s : State) (a k : Nat) : List CheckRec :=
  (List.range k).map fun i => ⟨readNat s (a + 32 * i) 8, readNat s (a + 32 * i + 8) 8, memGet s (a + 32 * i + 16) 8⟩

/-- The group's bytes have the check value that its entry gives (R272). -/
def recHolds (bytes : List Byte) (r : CheckRec) : Bool := crc32c bytes == wordOfBytes r.entry

/-- The check list of the own copy: a count and the records, by offset in the caravanserai. -/
def checksBase (s : State) : Nat := ownTwinBase s + Config.twinChecks (ownId s)

def checkList (rs : List CheckRec) : List Byte := leBytes 8 rs.length ++ leBytes 24 0 ++ rs.flatMap checkRecBytes

/-- Records take the place of those with their offsets. -/
def mergeChecks (old new : List CheckRec) : List CheckRec := old.filter (fun r => !new.any fun x => x.off == r.off) ++ new

/-! ## The landing -/

/-- Bytes of the landing that one context has. -/
def landPart (len : Nat) : Nat := len / 16 / 64 * 64

def headerWord (s : State) (off : Nat) : Word := readWord s (ownTwinBase s + off)

/-- A section of a landing: where its bytes go, how many, its check records, and where the bytes begin. -/
structure Section where
  dst  : Nat
  len  : Nat
  recs : List CheckRec
  body : Nat
  deriving DecidableEq, Repr

def sectionBytes (dst : Nat) (recs : List CheckRec) (bytes : List Byte) : List Byte :=
  leBytes 8 dst ++ leBytes 8 bytes.length ++ leBytes 8 recs.length ++ leBytes 8 0 ++ recs.flatMap checkRecBytes ++ padTo16 bytes

/-- The sections from an address on, at most `fuel`. -/
def sectionsFrom (s : State) : Nat → Nat → List Section
  | 0, _ => []
  | fuel + 1, a =>
    let n := readNat s (a + 8) 8
    let k := readNat s (a + 16) 8
    if n = 0 then []
    else ⟨readNat s a 8, n, recsAt s (a + 32) k, a + 32 + 32 * k⟩
      :: sectionsFrom s fuel (a + 32 + 32 * k + (n + 15) / 16 * 16)

/-- Start of a context's part of the own landing, and its length. -/
def landingOf (s : State) (c : BitVec 4) : Nat × Nat :=
  let b := ownTwinBase s
  let part := landPart (readNat s (b + 16) 8)
  (b + readNat s (b + 8) 8 + c.toNat * part, part)

def landedSections (s : State) (c : BitVec 4) : List Section :=
  sectionsFrom s ((landingOf s c).2 / 32) (landingOf s c).1

/-- Every landed group has the check value of the entry that travelled with it (R295). -/
def landingHolds (s : State) (c : BitVec 4) : Bool :=
  (landedSections s c).all fun x => x.recs.all fun r => recHolds (memGet s (x.body + (r.off - x.dst)) r.len) r

/-- The own caravanserai holds the range. -/
def inCaravanserai (s : State) (a n : Nat) : Bool :=
  decide (ownTwinBase s ≤ a) && decide (a + n ≤ ownTwinBase s + ownTwinSize s)

/-- Context whose FLAGS word of the own header lies at an address (Table 10-6). -/
def flagsOf (s : State) (a : Nat) : Option (BitVec 4) :=
  ((List.range 16).find? fun c => a == ownTwinBase s + 0x48 + 32 * c).map fun c => BitVec.ofNat 4 c

end Sys2Proof.Machine
end

