-- ==== Sys2Proof/Machine/Offer.lean ====
section
/-! DEFINITION. The seal offer (R179 to R181, R245, R267, R284, R285): ring summaries, the conditions of an offer, what the
root decides, HOLD and STUCK. -/

namespace Sys2Proof.Machine

/-! ## Ring summaries (R267) -/

/-- The ring digest of an epoch: the sum of SENT, or of RECV, over the ring's caravans, modulo 2^128. -/
def ringDigest (s : State) (c : BitVec 4) (k : Word) (g : Nat) (sent : Bool) : Nat :=
  (s.fab.caravans.filter fun v => v.ctx == c && v.epoch == k && v.ring == g && !v.interval).foldl
    (fun n v => (n + (if sent then v.sent else v.recv).toNat) % 2 ^ 128) 0

/-- A summary: the exclusive or of a digest's four words. -/
def summaryOf (d : Nat) : Word := w32 d ^^^ w32 (d / 2 ^ 32) ^^^ w32 (d / 2 ^ 64) ^^^ w32 (d / 2 ^ 96)

def ringSummary (s : State) (c : BitVec 4) (k : Word) (g : Nat) (sent : Bool) : Word := summaryOf (ringDigest s c k g sent)

/-- Rings of a context (RED_RING_CFG). -/
def ctxRings (s : State) (c : BitVec 4) : List Nat :=
  ((List.range 12).map (· + 1)).filter fun g => bit (ringCfg s g) 27 && fld (ringCfg s g) 31 28 == c.toNat

/-- Rings that exchange summaries: those of more than one member. -/
def checkedRings (s : State) (c : BitVec 4) : List Nat := (ctxRings s c).filter fun g => decide (1 < ringN s g)

/-- Every summary of the open epoch is here. -/
def sumsHere (s : State) (c : BitVec 4) : Bool :=
  (checkedRings s c).all fun g => [true, false].all fun prev =>
    (ctxU s c).sealSt.sums.any fun x => x.1.toNat == g && x.2.1 == prev

/-- A received summary equals the module's own: the previous member's SENT its RECV, the next member's RECV its SENT. -/
def sumMatches (s : State) (c : BitVec 4) (x : BitVec 4 × Bool × Word × Bool) : Bool :=
  x.2.2.2 && x.2.2.1 == ringSummary s c (openEpoch (ctxU s c)) x.1.toNat (!x.2.1)

def sumsMatch (s : State) (c : BitVec 4) : Bool := (ctxU s c).sealSt.sums.all (sumMatches s c)

/-! ## Conditions (R179, R275, R280, R295) -/

/-- A droop alarm is raised over work that the context issued since it rose: the work is suspect, and its recall comes when the
alarm falls (R276; log entry 21), so that the epoch cannot be offered before (R271). -/
def droopOpen (s : State) (c : BitVec 4) : Bool :=
  s.clusters.any fun k => k.2.droop && (k.2.recent.any (fun e => (findLaunch s e.1).any (·.ctx == c))
    || s.fab.caravans.any fun v => v.ctx == c && tget 0 v.ops k.1 != 0)

/-- Every other launch of the open epoch has ended, no verify and no apply of the seal before runs, no RECALL or WITHDRAW is
unanswered, no suspect work waits for its recall, and the SEAL launch is admitted. -/
def mayPrepare (s : State) (c : BitVec 4) : Bool :=
  let u := ctxU s c
  u.sealSt.hdr.isSome && u.sealSt.pendingGo.isNone && !u.sealSt.offered && !u.sealSt.withdrawn && u.sealSt.recallsOut.isEmpty && !droopOpen s c
    && fld u.sealW 11 0 == 0
    && (ctxLaunches s c).all fun l => l.kind == 3#4 || l.epoch != openEpoch u || l.state == .held || (!inFlight l && l.verify.isEmpty)

/-- The mirror of the epoch is acknowledged (R295). -/
def mirrorDone (s : State) (c : BitVec 4) : Bool :=
  !(s.rel.mirror.any fun m => m.2 == c) && !(s.rel.mirrorHeld.any fun m => m.ctx == c)

/-- The module itself would offer OK (R179, R245, R295, R412). -/
def ownOk (s : State) (c : BitVec 4) : Bool :=
  let st := (ctxU s c).sealSt
  sumsMatch s c && !st.detect && !st.lateDet && !st.mirrorBad

/-- The invalid mark of the module's own caravans under SKIP_STEP (R265). -/
def ownInvalid (s : State) (c : BitVec 4) : Bool :=
  fld (ctxU s c).policy 1 0 == 2
    && s.fab.caravans.any fun v => v.ctx == c && v.epoch == openEpoch (ctxU s c) && decide (0 < v.invalid)

/-- Own and children's marks together. -/
def offerMsg (s : State) (c : BitVec 4) : OfferMsg :=
  let u := ctxU s c
  { ctx := c, epoch := openEpoch u
    ok := ownOk s c && u.sealSt.offers.all fun o => o.2.ok
    invalid := ownInvalid s c || u.sealSt.offers.any fun o => o.2.invalid
    uncurable := u.sealSt.uncurable || u.sealSt.offers.any fun o => o.2.uncurable
    milestone := u.milestone }

/-! ## HOLD and STUCK (R284, R285) -/

/-- The full digests of every caravan of the epoch go to the ring neighbours on the management channel. -/
def sendDigests (c : BitVec 4) (s : State) : State :=
  let k := openEpoch (ctxU s c)
  (s.fab.caravans.filter fun v => v.ctx == c && v.epoch == k && !v.interval && decide (1 < ringN s v.ring)).foldl
    (fun s v =>
      let s := sendMsg 15 (ringNext s v.ring) (.digest c v.n k true v.sent) s
      sendMsg 15 (ringPrev s v.ring) (.digest c v.n k false v.recv) s) s

/-- The epoch is HELD: HOLD goes on to the children, the digests to the neighbours, and an offer has to be made anew. -/
def holdEpoch (c : BitVec 4) (s : State) : State :=
  let u := ctxU s c
  let s := setSealState c 5 s
  let s := sendAll u.sealSt.kids (.hold c (openEpoch u)) s
  let s := sendDigests c s
  modSeal s c fun x => { x with ready := false, offered := false, offers := [], sums := [], lateDet := false }

/-- The epoch stays HELD: STUCK goes on to the children and EPOCH_STUCK is reported. -/
def stuckEpoch (c : BitVec 4) (s : State) : State :=
  let u := ctxU s c
  relErr 11 (sendAll u.sealSt.kids (.stuck c (openEpoch u)) s)

/-- What the root does with every offer in hand: GO, or HOLD and, with nothing left to try, STUCK (R180, R181, R285). -/
def rootDecide (c : BitVec 4) (s : State) : State :=
  let u := ctxU s c
  let m := offerMsg s c
  match u.sealSt.hdr with
  | none => s
  | some h =>
    if m.ok then
      let g : GoMsg := ⟨c, m.epoch, s.rack + w64 (200 * h.margin.toNat), m.invalid, u.milestone⟩
      let s := modSeal s c fun x => { x with lastGo := some g, pendingGo := some g }
      sendAll (u.sealSt.offers.map (·.1)) (.go g) s
    else
      let s := holdEpoch c s
      if m.uncurable || decide (fld (relCfg s c) 21 18 ≤ u.sealSt.retries) then stuckEpoch c s
      else modSeal s c fun x => { x with retries := x.retries + 1 }

/-- The module's own offer stands. -/
def markOffered (c : BitVec 4) (s : State) : State :=
  let s := if sealState (ctxU s c) = 5 then s else setSealState c 2 s
  modSeal s c fun x => { x with offered := true, queried := 0 }

/-- Steps 2 and 3 of R179: once the summaries and the children's offers are in hand, one offer goes to the parent, or the
root decides. -/
def tryOffer (c : BitVec 4) (s : State) : State :=
  let u := ctxU s c
  match u.sealSt.hdr with
  | none => s
  | some h =>
    let full := decide (h.children.toNat ≤ u.sealSt.offers.length)
    if h.parent = ownId s then
      let s := if u.sealSt.ready && mayPrepare s c && mirrorDone s c && sumsHere s c then
          markOffered c (if sumsMatch s c then s else redErr 6 s)
        else s
      if (ctxU s c).sealSt.offered && full && (ctxU s c).sealSt.pendingGo.isNone then rootDecide c s else s
    else if u.sealSt.ready && full && mayPrepare s c && mirrorDone s c && sumsHere s c then
      let m := offerMsg s c
      let s := markOffered c (if sumsMatch s c then s else redErr 6 s)
      sendMsg 0 h.parent (.offer m) (modSeal s c fun x => { x with lateDet := false })
    else s

end Sys2Proof.Machine
end

