-- ==== Sys2Proof/Machine/Request.lean ====
section
/-! DEFINITION. Fabric requests (spec/08, R219 to R226, R234, R235, R407): how a target serves one, how a requester sends
one, and what becomes of its answer. -/

namespace Sys2Proof.Machine

/-! ## Serving (Table 8-6) -/

/-- The range crosses a 4 KiB boundary (R220). -/
def crosses4k (a n : Nat) : Bool := 4096 < a % 4096 + n

def isAtomic (ty : Nat) : Bool := (decide (4 ≤ ty) && decide (ty ≤ 0x0B)) || ty == 0x11

def isCourier (ty : Nat) : Bool := ty == 0x10 || ty == 0x11

/-- A store or an atomic, whose answers a release waits for. -/
def isUpdate (ty : Nat) : Bool := ty == 1 || ty == 2 || ty == 0x10 || isAtomic ty

/-- Bytes that a request touches. -/
def accessBytes (ty : Nat) (len : Nat) : Nat := if isAtomic ty then 8 else len

/-- The request keeps the rules of Table 8-6: a listed type, its payload size, its granule, its alignment. -/
def ruleKept (ty a len : Nat) (payload : List Byte) : Bool :=
  let n := payload.length
  let size :=
    if ty = 0 then decide (1 ≤ len) && decide (len ≤ 4096) && n == 0
    else if ty = 1 || ty = 2 then decide (1 ≤ n) && decide (n ≤ 4096)
    else if ty = 0x0B then n == 16
    else if ty = 0x10 then decide (1 ≤ n) && decide (n ≤ 224)
    else isAtomic ty && n == 8
  size && !crosses4k a (accessBytes ty (if ty = 0 then len else n)) && (!isAtomic ty || a % 8 == 0)

/-- Atomics apply to stack memory, cluster stores, core scratch and the VALUE word of a tally. -/
def atomicTarget (a : Nat) : Bool :=
  match areaOf a with
  | .tally _ => a % 64 == 0
  | .stack | .store _ | .scratch _ => true
  | _ => false

def sgn64 (n : Nat) : Int := (BitVec.ofNat 64 n).toInt

/-- The word that an atomic leaves (Table 8-6). -/
def atomicNew (ty old opnd opnd2 : Nat) : Nat :=
  if ty = 4 || ty = 0x11 then (old + opnd) % 2 ^ 64
  else if ty = 5 then if sgn64 old < sgn64 opnd then opnd else old
  else if ty = 6 then if sgn64 opnd < sgn64 old then opnd else old
  else if ty = 7 then old &&& opnd
  else if ty = 8 then old ||| opnd
  else if ty = 9 then old ^^^ opnd
  else if ty = 0x0A then opnd
  else if old = opnd then opnd2 else old

/-- ADDS of a tally counts an add applied to its VALUE, local or remote (Table 8-12). -/
def countAdd (a : Nat) (m : List Host.Cell) : List Host.Cell :=
  let n := leNat ((List.range 8).map fun i => tget 0#8 m (a + 0x30 + i))
  memPut m (a + 0x30) (leBytes 8 (n + 1))

/-- The atomic is an add to the VALUE of a tally. -/
def tallyAdd (ty a : Nat) : Bool := (ty == 4 || ty == 0x11) && match areaOf a with
  | .tally _ => true
  | _ => false

/-- An atomic on a local word; one in a poisoned granule is not performed (R407). It writes part of its check group (R273). -/
def localAtomic (ty a : Nat) (payload : List Byte) (s : State) : Rd × State :=
  let old := (List.range 8).map fun i => localByte s (a + i)
  let back : List Byte := if ty = 0x11 then [] else old
  if rangePoisoned s a 8 then (⟨0, back, ty != 0x11⟩, relErr 8 s)
  else
    let v := leBytes 8 (atomicNew ty (leNat old) (leNat (payload.take 8)) (leNat (payload.drop 8)))
    let m := memPut (sealStore s a v 0#8) a v
    (⟨0, back, false⟩, { s with mem := if tallyAdd ty a then countAdd a m else m })

/-- A request performed on this module's memory: the answer and the state (R23, R220, R235). -/
def serve (fabric : Bool) (ty a len : Nat) (payload : List Byte) (poison : Bool) (s : State) : Rd × State :=
  if !ruleKept ty a len payload then (⟨3, [], false⟩, s)
  else if ty = 0 then let r := localRead s fabric a len; (r, noteRead r s)
  else if isAtomic ty then
    if !rangeOk s fabric a 8 || onDeadStack s a then (⟨1, [], false⟩, s)
    else if !atomicTarget a then (⟨3, [], false⟩, s)
    else localAtomic ty a payload s
  else
    let w := localWrite s fabric a payload poison
    (⟨w.1, [], false⟩, w.2)

/-! ## Arriving requests (R234) -/

def typeOf (g : W64) : Nat := fld g 63 58

/-- Channel of the answer to a request of an access type that came on channel `vc` (Table 8-8). -/
def answerVc (ty vc : Nat) : Nat :=
  if ty = 0x20 then vc else if isCourier ty then 0 else 14

/-- The answer of a request that arrived over the fabric on a port and channel (R227). It leaves by the rules of R222, as from the
die of the port on which the request came (log entry 54). -/
def respond (port vc : Nat) (p : Pkt) (r : Rd) (s : State) : State :=
  let ty := typeOf p.gaddr
  let die := decide (9 ≤ port)
  let q : Pkt := { p with
    resp := BitVec.ofNat 4 r.resp, poison := r.poison, kind := 1#2, length := BitVec.ofNat 13 r.data.length
    resv := false, payload := r.data }
  let out := answerVc ty vc
  let i := if out = 14 then (slotOf p.src + fld p.gaddr 15 12) % 16 else courierIndex s p.src
  match route s die p.src i with
  | some port => enqueue port out p.src die 0#16 (.pkt q) s
  | none => modFab s fun f => { f with err := setBit f.err 1 }

/-- A request whose job id no context holds is answered with DENIED (R234). -/
def deny (port vc : Nat) (p : Pkt) (s : State) : State :=
  respond port vc p ⟨2, [], false⟩ (modFab s fun f => { f with err := setBit f.err 3 })

/-- The request is the twin partner's, to the caravanserai that this module keeps for it: the mirror, or the loads of the spare that
took the partner's device id (R295, R298). It may carry a job id that no context here holds (DEDUCED, log entry 18). -/
def forTwin (s : State) (p : Pkt) (len : Nat) : Bool :=
  bit s.rel.twinCfg 31 && p.src == BitVec.ofNat 18 (fld s.rel.twinCfg 17 0) && inCaravanserai s (localOf p.gaddr) (max len p.payload.length)

/-- The partner marks a context's landing complete: its groups are verified, and one that fails makes the answer REFUSED, by which
the sender learns of it (R295; log entry 18). -/
def verifyLanding (p : Pkt) (r : Rd × State) : Rd × State :=
  if typeOf p.gaddr != 2 || r.1.resp != 0 then r
  else match flagsOf r.2 (localOf p.gaddr) with
    | none => r
    | some c =>
      if landingHolds r.2 c then r
      else (⟨3, [], false⟩, storeBytes r.2 (localOf p.gaddr) (leBytes 4 1) false)

/-- A request packet served on behalf of the context that holds its job id (R234, R235), or for the twin (R295). -/
def serveArrived (port vc : Nat) (p : Pkt) (len : Nat) (s : State) : State :=
  let r := serve true (typeOf p.gaddr) (localOf p.gaddr) len p.payload p.poison s
  if forTwin s p len then
    let r := verifyLanding p r
    respond port vc p r.1 r.2
  else match ctxOfJob s p.job with
    | none => deny port vc p s
    | some _ => respond port vc p r.1 r.2

/-- A recall message of a reserved KIND is dropped and sets REL_ERR.CFG_DISCARD (Table 10-2). -/
def noteRecallKind (p : Pkt) (s : State) : State :=
  let kind := fld (wordOfBytes p.payload) 31 28
  if Config.isRecallMessage p.payload && (kind = 0 || 4 ≤ kind) then relErr 0 s else s

/-- A MESSAGE that arrived is answered once (R226); job id 0 marks one of device scope (R234). What it says takes effect by the row
of its own kind. A caravan has no response (R260). -/
def answerMessage (port vc : Nat) (p : Pkt) (s : State) : State :=
  if 1 ≤ vc && vc ≤ 12 then s
  else if p.job != 0#32 && (ctxOfJob s p.job).isNone then deny port vc p s
  else respond port vc p ⟨0, [], false⟩ (noteRecallKind p s)

/-! ## Own requests (R221 to R223, R226) -/

/-- The global address of a local address of a device. -/
def atDevice (d : DevId) (a : Nat) : W64 := w64 (d.toNat * 2 ^ 40 + a % 2 ^ 40)

/-- The request packet as sent. -/
def requestPkt (ty : Nat) (g : W64) (src : DevId) (ctx : BitVec 4) (job epoch : Word) (tag : BitVec 16) (poison : Bool)
    (len : Nat) (payload : List Byte) : Pkt :=
  { gaddr := setFld g 63 58 ty, ctx := ctx, src := src, job := job, epoch := epoch, resp := 0#4, tag := tag
    poison := poison, kind := if isCourier ty then 2#2 else 0#2
    length := BitVec.ofNat 13 (if ty = 0 then len else payload.length), resv := false, payload := payload }

/-- Port index of a request (R222). -/
def requestIndex (s : State) (p : Pkt) : Nat :=
  if isCourier (typeOf p.gaddr) then courierIndex s (devOf p.gaddr) else bulkIndex p.gaddr

/-- Channel of a request (Table 8-8): a MESSAGE of KIND 0b00 is a management message. -/
def requestVc (p : Pkt) : Nat :=
  let ty := typeOf p.gaddr
  if ty = 0x20 then (if p.kind = 0#2 then 15 else 0) else if isCourier ty then 0 else 13

def isMessage (p : Pkt) : Bool := typeOf p.gaddr == 0x20

/-- Two requests to one granule of one device. -/
def sameGranule (p q : Pkt) : Bool := devOf p.gaddr == devOf q.gaddr && localOf p.gaddr / 4096 == localOf q.gaddr / 4096

/-- The request waits: a release for the answers of earlier updates of its requester (Table 8-6), a request that moved to another
port for those to its granule (R223), and any request for an earlier one to its granule that is itself held (R27). -/
def mustWait (s : State) (die : Bool) (p : Pkt) (port : Nat) : Bool :=
  let out := s.fab.outst.filter fun o => o.die == die && !isMessage o.pkt
  let held := (s.fab.held.filter fun h => h.die == die).map (·.pkt)
  (typeOf p.gaddr == 2 && (out.map (·.pkt) ++ held).any fun q => isUpdate (typeOf q.gaddr))
    || (out.any fun o => o.port != port && sameGranule o.pkt p) || held.any (sameGranule p)

/-- Send a request of this module: served locally when it names this module (R26), answered NO_ROUTE with no rack port in
service (R223), and otherwise sent; or held while it must wait. The answer comes at once in the first two cases. -/
def sendRequest (die : Bool) (p : Pkt) (s : State) : Option Answer × State :=
  let ty := typeOf p.gaddr
  let hold (s : State) : Option Answer × State := (none, modFab s fun f => { f with held := f.held ++ [⟨p, die⟩] })
  if devOf p.gaddr = ownId s then
    if mustWait s die p 0 then hold s
    else
      let r := serve false ty (localOf p.gaddr) p.length.toNat p.payload p.poison s
      (some ⟨p.tag, BitVec.ofNat 4 r.1.resp, r.1.poison, r.1.data⟩, r.2)
  else if isCourier ty && decide (224 < p.payload.length) then (some ⟨p.tag, 3#4, false, []⟩, s)
  else match route s die (devOf p.gaddr) (requestIndex s p) with
    | none => (some ⟨p.tag, 5#4, false, []⟩, modFab s fun f => { f with err := setBit f.err 1 })
    | some port =>
      if mustWait s die p port then hold s
      else
        let s := enqueue port (requestVc p) (devOf p.gaddr) die 0#16 (.pkt p) s
        (none, modFab s fun f => { f with outst := f.outst ++ [⟨p.tag, p, port, 0, die⟩] })

/-- A request of a requester on die 0 or 1 with a fresh tag, for a context and an epoch. -/
def newRequest (die : Bool) (ty : Nat) (g : W64) (ctx : BitVec 4) (epoch : Word) (poison : Bool) (len : Nat) (payload : List Byte)
    (s : State) : BitVec 16 × Option Answer × State :=
  let (tag, s) := freshTag s
  let r := sendRequest die (requestPkt ty g (ownId s) ctx (ctxU s ctx).job epoch tag poison len payload) s
  (tag, r.1, r.2)

/-- What a requester does with a request: while the answer is to come, and with the answer. -/
def byAnswer {α : Type} (q : BitVec 16 × Option Answer × State) (wait : BitVec 16 → State → α) (done : Answer → State → α) : α :=
  match q.2.1 with
  | none => wait q.1 q.2.2
  | some a => done a q.2.2

/-- The response of Table 11-10 for a fabric outcome. -/
def respStatus (resp : Nat) : Nat := if resp = 0 then 0 else 0x50 + resp

/-! ## Memory commands (R320) -/

/-- Bytes to the next 4 KiB boundary. -/
def toBoundary (a : Nat) : Nat := 4096 - a % 4096

/-- What a memory command met: nothing more to do now, or its end. -/
inductive Progress where
  | waits (t : Task) (s : State)
  | ends (status : Nat) (res : List Word) (s : State)

/-- The mover reads own memory for a command: the check values of the groups it reads are compared (Table 10-1, R274). No launch
consumes them; the command ends with CHECK_FAIL when a group is corrupt at rest, and the command's context, where it exists, is
the one whose open epoch is held (log entry 48). -/
def moverRead (ctx : BitVec 4) (g : W64) (n : Nat) (s : State) : Checked × State :=
  if devOf g != ownId s then (.clean, s)
  else
    let (r, t) := checkFor ctx .good [(localOf g, n)] s
    (r, if (ctxU s ctx).live then t else { t with ctxs := s.ctxs })

/-- The DIGITAL and SAT marks of what the mover copies within the module (R131). -/
def copyMarks (src dst : W64) (n : Nat) (s : State) : State :=
  if devOf src = ownId s && devOf dst = ownId s then carryMarks (localOf src) (localOf dst) n s else s

/-- Copy on from `left` bytes, with the data of the present granule when it is in hand (R320). -/
def copyRun (ctx : BitVec 4) : Nat → W64 → W64 → Nat → Nat → Option (List Byte × Bool) → State → Progress
  | 0, _, _, _, done, _, s => .ends 0 (words64 done) s
  | fuel + 1, src, dst, left, done, data, s =>
    if left = 0 then .ends 0 (words64 done) s
    else
      let n := min left (min (toBoundary (localOf src)) (toBoundary (localOf dst)))
      match data with
      | none =>
        let (c, s) := moverRead ctx src n s
        if c = .rest then .ends 0x41 (words64 done) s
        else byAnswer (newRequest false 0 src ctx 0#32 false n [] s)
          (fun tag s => .waits (.memCopy src dst left done (some tag)) s)
          (fun a s =>
            if a.resp = 0#4 then copyRun ctx fuel src dst left done (some (a.data, a.poison)) s
            else .ends (respStatus a.resp.toNat) (words64 done) s)
      | some (bytes, poison) =>
        byAnswer (newRequest false 1 dst ctx 0#32 poison n bytes s)
          (fun tag s => .waits (.memCopy src dst left done (some tag)) s)
          (fun a s =>
            if a.resp = 0#4 then
              copyRun ctx fuel (src + w64 n) (dst + w64 n) (left - n) (done + n) none (copyMarks src dst n s)
            else .ends (respStatus a.resp.toNat) (words64 done) s)

/-- Two visits a granule. -/
def copyFuel (left : Nat) : Nat := 4 * (left / 4096 + 2)

/-- An answer reaches a MEM_COPY: the data of its load, or the end of its store. -/
def copyAnswer (ctx : BitVec 4) (src dst : W64) (left done : Nat) (load : Bool) (a : Answer) (s : State) : Progress :=
  if a.resp != 0#4 then .ends (respStatus a.resp.toNat) (words64 done) s
  else if load then copyRun ctx (copyFuel left) src dst left done (some (a.data, a.poison)) s
  else
    let n := min left (min (toBoundary (localOf src)) (toBoundary (localOf dst)))
    copyRun ctx (copyFuel left) (src + w64 n) (dst + w64 n) (left - n) (done + n) none (copyMarks src dst n s)

/-- Fill on; a granule begins at a byte of the pattern given by its offset from the start. -/
def fillRun (ctx : BitVec 4) (pattern : W64) : Nat → W64 → Nat → Nat → State → Progress
  | 0, _, _, done, s => .ends 0 (words64 done) s
  | fuel + 1, dst, left, done, s =>
    if left = 0 then .ends 0 (words64 done) s
    else
      let n := min left (toBoundary (localOf dst))
      let bytes := (List.range n).map fun i => BitVec.ofNat 8 (pattern.toNat / 256 ^ ((done + i) % 8))
      byAnswer (newRequest false 1 dst ctx 0#32 false n bytes s)
        (fun tag s => .waits (.memFill dst left done pattern (some tag)) s)
        (fun a s =>
          if a.resp = 0#4 then fillRun ctx pattern fuel (dst + w64 n) (left - n) (done + n) s
          else .ends (respStatus a.resp.toNat) (words64 done) s)

def fillAnswer (ctx : BitVec 4) (pattern dst : W64) (left done : Nat) (a : Answer) (s : State) : Progress :=
  if a.resp != 0#4 then .ends (respStatus a.resp.toNat) (words64 done) s
  else
    let n := min left (toBoundary (localOf dst))
    fillRun ctx pattern (copyFuel left) (dst + w64 n) (left - n) (done + n) s

/-- Read on, collecting the bytes of MEM_READ; the last task holds them all with no tag awaited. -/
def readRun (ctx : BitVec 4) : Nat → W64 → Nat → List Byte → Bool → State → Progress
  | 0, src, _, got, poison, s => .waits (.memRead src 0 got poison none) s
  | fuel + 1, src, left, got, poison, s =>
    if left = 0 then .waits (.memRead src 0 got poison none) s
    else
      let n := min left (toBoundary (localOf src))
      let (c, s) := moverRead ctx src n s
      if c = .rest then .ends 0x41 [0#32] s
      else byAnswer (newRequest false 0 src ctx 0#32 false n [] s)
        (fun tag s => .waits (.memRead src left got poison (some tag)) s)
        (fun a s =>
          if a.resp = 0#4 then readRun ctx fuel (src + w64 n) (left - n) (got ++ a.data) (poison || a.poison) s
          else .ends (respStatus a.resp.toNat) [0#32] s)

def readAnswer (ctx : BitVec 4) (src : W64) (left : Nat) (got : List Byte) (poison : Bool) (a : Answer) (s : State) :
    Progress :=
  if a.resp != 0#4 then .ends (respStatus a.resp.toNat) [0#32] s
  else
    let n := min left (toBoundary (localOf src))
    readRun ctx (copyFuel left) (src + w64 n) (left - n) (got ++ a.data) (poison || a.poison) s

/-- The progress of a running command is recorded. -/
def settle (r : Run) (p : Progress) : State :=
  match p with
  | .waits t s => setTask r t s
  | .ends st res s => completeRun r st res s

/-! ## The outbound stream (R315, R318) -/

/-- The outbound buffer takes a command's bytes and the command completes. -/
def stageBytes (r : Run) (bytes : List Byte) (status : Nat) (res : List Word) (s : State) : State :=
  let s := completeRun r status res s
  if bytes.isEmpty then s
  else raise 2 (modHost s fun h => { h with outBuf := bytes, outBound := true })

/-- The bytes of a MEM_READ are staged once they are all read; poisoned data completes with POISON (R320). -/
def stageRead (r : Run) (s : State) : State :=
  match r.task with
  | .memRead _ 0 got poison none => stageBytes r got (if poison then 0x71 else 0) [w32 got.length] s
  | _ => s

/-- A command whose data leaves by the outbound stream. -/
def isOutbound (r : Run) : Bool :=
  match r.task with
  | .outbound _ _ _ => true
  | .memRead _ _ _ _ _ => true
  | _ => false

/-- The first outbound command is served while the stream is free (R315). -/
def pumpOne (s : State) : State :=
  if s.host.outBound then s
  else match s.host.running.find? isOutbound with
    | none => s
    | some r => match r.task with
      | .outbound bytes res st => stageBytes r bytes st.toNat res s
      | .memRead src left got poison none =>
        match readRun r.pkt.hdr.ctx (copyFuel left) src left got poison s with
        | .waits t s => stageRead { r with task := t } (setTask r t s)
        | .ends st res s => completeRun r st res s
      | _ => s

/-- Serve outbound commands until one holds the stream; a command that stages nothing lets the next one in. -/
def pumpOut (s : State) : State := (List.range s.host.running.length).foldl (fun s _ => pumpOne s) s

/-! ## Answers (R226) -/

/-- A store of MEM_WRITE is answered; the command ends with the last (R316, R320). -/
def writeAnswer (r : Run) (dst : W64) (left written : Nat) (held : List Byte) (tags : List (BitVec 16 × Nat)) (a : Answer)
    (s : State) : State :=
  let n := ((tags.find? fun t => t.1 == a.tag).map (·.2)).getD 0
  let tags := tags.filter fun t => t.1 != a.tag
  if a.resp != 0#4 then completeRun r (respStatus a.resp.toNat) (words64 written) s
  else if left = 0 && tags.isEmpty then completeRun r 0 (words64 (written + n)) s
  else setTask r (.memWrite dst left (written + n) held tags) s

/-- Stores of a MEM_WRITE, split at 4 KiB boundaries: the status of one that failed, the bytes answered OK, the stores
still to be answered. -/
def storeRun (ctx : BitVec 4) : Nat → W64 → List Byte → Nat → List (BitVec 16 × Nat) → State →
    Option Nat × Nat × List (BitVec 16 × Nat) × State
  | 0, _, _, written, tags, s => (none, written, tags, s)
  | fuel + 1, dst, bytes, written, tags, s =>
    if bytes.isEmpty then (none, written, tags, s)
    else
      let n := min bytes.length (toBoundary (localOf dst))
      byAnswer (newRequest false 1 dst ctx 0#32 false n (bytes.take n) s)
        (fun tag s => storeRun ctx fuel (dst + w64 n) (bytes.drop n) written (tags ++ [(tag, n)]) s)
        (fun a s =>
          if a.resp = 0#4 then storeRun ctx fuel (dst + w64 n) (bytes.drop n) (written + n) tags s
          else (some (respStatus a.resp.toNat), written, tags, s))

/-- Bytes of the inbound stream reach a MEM_WRITE: whole granules are stored, so that a granule the command covers whole is
written whole (R287, R316, R320). -/
def takeWrite (r : Run) (dst : W64) (left written : Nat) (held : List Byte) (tags : List (BitVec 16 × Nat))
    (bytes : List Byte) (s : State) : State :=
  let all := held ++ bytes
  let left := left - bytes.length
  let k := if left = 0 then all.length else all.length - (dst.toNat + all.length) % 64
  match storeRun r.pkt.hdr.ctx (k / 4096 + 2) dst (all.take k) written tags s with
  | (some st, written, _, s) => completeRun r st (words64 written) s
  | (none, written, tags, s) =>
    if left = 0 && tags.isEmpty then completeRun r 0 (words64 written) s
    else setTask r (.memWrite (dst + w64 k) left written (all.drop k) tags) s

/-! ## TWIN_PULL (R298, Tables 10-5, 10-6) -/

/-- Offset in the caravanserai and bytes of a load. -/
def pullAt : Pull → Nat × Nat
  | .header => (0, 0x240)
  | .entry off => (off, 32)
  | .region off _ n => (off, n)
  | .layer off _ _ _ n => (off, n)
  | .checkCount off => (off, 8)
  | .checks off n => (off, n)

/-- A range cut at the 4 KiB boundaries of the twin's addresses (R220): offsets in the range and bytes. -/
def cut4k (a n : Nat) : List (Nat × Nat) :=
  if n = 0 then []
  else (List.range ((a + n - 1) / 4096 - a / 4096 + 1)).map fun i =>
    let lo := Nat.max a (4096 * (a / 4096 + i))
    (lo - a, Nat.min (a + n) (4096 * (a / 4096 + i + 1)) - lo)

/-- A context in use at the twin is created with its job id, COMMITTED and milestone count (R298). -/
def pullCtx (data : List Byte) (s : State) (c : Nat) : State :=
  let num (i n : Nat) : Nat := leNat ((data.drop (0x40 + 32 * c + i)).take n)
  if num 8 4 % 2 = 0 then s
  else modCtx s (BitVec.ofNat 4 c) fun x => { x with
    live := true, begun := true, job := w32 (num 0 4), epoch := w32 (num 4 4), milestone := w64 (num 16 8) }

/-- The loads that a list entry asks for, and those of the lists that the header asks for: the entries first, then the check list
that verifies them (R298). -/
def pullNext (twin : DevId) (x : Pull) (data : List Byte) : List Pull :=
  let num (i n : Nat) : Nat := leNat ((data.drop i).take n)
  match x with
  | .header => (List.range (Nat.min 1024 (num 0x20 4))).map (fun i => .entry (num 0x18 8 + 32 * i))
    ++ [.checkCount (Config.twinChecks twin)]
  | .entry _ =>
    let w := w32 (num 0 4)
    let off := num 24 5
    (cut4k (Config.twinBase twin + off) (num 16 5)).map fun r =>
      if fld w 31 28 = 1 then .layer (off + r.1) (BitVec.ofNat 4 (fld w 27 24)) (fld w 23 12) r.1 r.2
      else .region (off + r.1) (num 8 5 + r.1) r.2
  | .checkCount off => (cut4k (Config.twinBase twin + off + 32) (32 * num 0 8)).map fun r => .checks (off + 32 + r.1) r.2
  | _ => []

/-- The address here of a byte of the caravanserai that a load of an entry brought. -/
def pulledTo (x : Pull) (off : Nat) : Option Nat :=
  match x with
  | .region o dst n => if o ≤ off && off < o + n then some (dst + (off - o)) else none
  | .layer o c l pos n => if o ≤ off && off < o + n then some (Config.layerHome c.toNat l (pos + (off - o))) else none
  | _ => none

/-- A group that was pulled whole has the check value of its record (R298). -/
def pulledHolds (s : State) (got : List Pull) (r : CheckRec) : Bool :=
  let at_ := (List.range r.len).map fun i => got.findSome? fun x => pulledTo x (r.off + i)
  at_.any (·.isNone) || recHolds (at_.map fun a => memByte s (a.getD 0)) r

/-- Check records as a load brings them. -/
def recsIn (data : List Byte) : List CheckRec :=
  (chunks 32 data).map fun b => ⟨leNat (b.take 8), leNat ((b.drop 8).take 8), (b.drop 16).take 8⟩

/-- The data of a load arrive: what they do, and the bytes of entries among them. -/
def pullTake (x : Pull) (a : Answer) (s : State) : Nat × State :=
  match x with
  | .header => (0, (List.range 16).foldl (pullCtx a.data) s)
  | .entry _ => (0, s)
  | .region _ dst n => (n, storeBytes s dst a.data a.poison)
  | .layer _ c l pos n => (n, (List.range n).foldl (fun s i =>
      storeBytes s (Config.layerHome c.toNat l (pos + i)) [a.data.getD i 0#8] a.poison) s)
  | _ => (0, s)

/-- What a load that was answered OK leads to: the state, the loads made and to make; none when a group fails its check. -/
def pullStep (twin : DevId) (x : Pull) (rest got : List Pull) (done : Nat) (a : Answer) (s : State) :
    Option (List Pull × List Pull × Nat × State) :=
  let failing := match x with
    | .checks _ _ => (recsIn a.data).any fun r => !pulledHolds s got r
    | _ => false
  if failing then none
  else
    let (n, s) := pullTake x a s
    some (pullNext twin x a.data ++ rest, if n = 0 then got else got ++ [x], done + n, s)

/-- TWIN_PULL goes on with its next load. -/
def pullRun (twin : DevId) : Nat → List Pull → List Pull → Nat → State → Progress
  | 0, _, _, done, s => .ends 0 (words64 done) s
  | fuel + 1, todo, got, done, s =>
    match todo with
    | [] => .ends 0 (words64 done) s
    | x :: rest =>
      byAnswer (newRequest false 0 (atDevice twin (Config.twinBase twin + (pullAt x).1)) 0#4 0#32 false (pullAt x).2 [] s)
        (fun tag s => .waits (.twinPull twin todo got done (some tag)) s)
        (fun a s =>
          if a.resp != 0#4 then .ends (respStatus a.resp.toNat) (words64 done) s
          else match pullStep twin x rest got done a s with
            | none => .ends 0x41 (words64 done) s
            | some r => pullRun twin fuel r.1 r.2.1 r.2.2.1 r.2.2.2)

/-- Loads that a pull may still make at once: the bound is the list's 1,024 entries, each of at most 2^28 pages. -/
def pullFuel : Nat := 2 ^ 40

/-- An answer reaches a TWIN_PULL. -/
def pullAnswer (twin : DevId) (todo got : List Pull) (done : Nat) (a : Answer) (s : State) : Progress :=
  match todo with
  | [] => .ends 0 (words64 done) s
  | x :: rest =>
    if a.resp != 0#4 then .ends (respStatus a.resp.toNat) (words64 done) s
    else match pullStep twin x rest got done a s with
      | none => .ends 0x41 (words64 done) s
      | some r => pullRun twin pullFuel r.1 r.2.1 r.2.2.1 r.2.2.2

/-- An answer of a running command's request. -/
def runAnswer (r : Run) (a : Answer) (load : Bool) (s : State) : State :=
  let ctx := r.pkt.hdr.ctx
  match r.task with
  | .memWrite dst left written held tags => writeAnswer r dst left written held tags a s
  | .memCopy src dst left done _ => settle r (copyAnswer ctx src dst left done load a s)
  | .memFill dst left done pattern _ => settle r (fillAnswer ctx pattern dst left done a s)
  | .memRead src left got poison _ =>
    match readAnswer ctx src left got poison a s with
    | .waits t s => pumpOut (stageRead { r with task := t } (setTask r t s))
    | .ends st res s => pumpOut (completeRun r st res s)
  | .twinPull twin todo got done _ => settle r (pullAnswer twin todo got done a s)
  | _ => s

/-- The command awaits the tag. -/
def awaitsTag (tag : BitVec 16) (r : Run) : Bool :=
  match r.task with
  | .memWrite _ _ _ _ tags => tags.any fun t => t.1 == tag
  | .memCopy _ _ _ _ w => w == some tag
  | .memFill _ _ _ _ w => w == some tag
  | .memRead _ _ _ _ w => w == some tag
  | .twinPull _ _ _ _ w => w == some tag
  | _ => false

def setTwinState (v : Nat) (s : State) : State := modRel s fun r => { r with twinStat := setFld r.twinStat 31 30 v }

/-- Twin mode ends on this module: what waits for the partner is given up. -/
def dropMirror (s : State) : State :=
  modRel s fun r => { r with mirror := [], mirrorHeld := [], busy := [], landPos := [], twinStat := clrBit r.twinStat 29 }

/-- TWIN_UNPAIR completes once the landing in progress is acknowledged: STATE reads OFF, a TWIN_PAIR that still copies ends
with STATE_CONFLICT, and offers that waited for the mirror go on (Table 11-9, R295). -/
def tryUnpair (s : State) : State :=
  if s.rel.mirror.isEmpty && s.host.running.any fun r => r.task == .twinUnpair then
    let s := setTwinState 0 (dropMirror s)
    let s := s.host.running.foldl (fun s r =>
      if r.task = .twinUnpair then completeRun r 0 [] s
      else if r.task = .twinPair then completeRun r 0x25 [] s else s) s
    (List.range 16).foldl (fun s c => tryOffer (BitVec.ofNat 4 c) s) s
  else s

/-- A mirror store is answered; one that failed makes the offer not OK (R295). -/
def mirrorAnswer (m : BitVec 16 × BitVec 4) (a : Answer) (s : State) : State :=
  let s := modRel s fun r => { r with mirror := r.mirror.erase m }
  let s := if a.resp = 0#4 then s else relErr 14 (modSeal s m.2 fun x => { x with mirrorBad := true })
  tryUnpair (tryOffer m.2 s)

/-- An answer reaches its requester: a command, a launch (R168, R409), or the list of answers. -/
def deliver (a : Answer) (load : Bool) (s : State) : State :=
  match s.host.running.find? (awaitsTag a.tag) with
  | some r => runAnswer r a load s
  | none =>
    match s.launches.find? fun l => l.pending.contains a.tag with
    | some l =>
      let s := modLaunch s l.uid fun l => { l with pending := l.pending.erase a.tag }
      if a.resp = 0#4 || !inFlight l then s else stopLaunch l.uid (respStatus a.resp.toNat) s
    | none =>
      match s.rel.mirror.find? fun m => m.1 == a.tag with
      | some m => mirrorAnswer m a s
      | none => modFab s fun f => { f with answers := f.answers ++ [a] }

/-- Held requests are tried again, oldest first (R220, R223). -/
def retryHeld (s : State) : State :=
  let hs := s.fab.held
  hs.foldl (fun s h =>
    match sendRequest h.die h.pkt s with
    | (some a, s) => deliver a (typeOf h.pkt.gaddr == 0) s
    | (none, s) => s) (modFab s fun f => { f with held := [] })

/-- An own request is answered: it leaves the outstanding requests, its answer is delivered unless it was a message, held requests
follow. -/
def answerOutst (o : Outst) (a : Answer) (s : State) : State :=
  let s := modFab s fun f => { f with outst := f.outst.erase o }
  retryHeld (if isMessage o.pkt then s else deliver a (typeOf o.pkt.gaddr == 0) s)

def findOutst (s : State) (tag : BitVec 16) : Option Outst := s.fab.outst.find? fun o => o.tag == tag

/-! ## The request rows -/

/-- A request as its row gives it: one that arrived is served, one of this module's own requesters is sent (R220, R221). -/
def request (ty : Nat) (r : Req) (s : State) : State :=
  let p := requestPkt ty r.gaddr r.src r.ctx r.job r.epoch r.tag r.poison r.length r.payload
  match r.inbound with
  | some port => serveArrived port (requestVc p) p r.length s
  | none =>
    match sendRequest r.die { p with src := ownId s } s with
    | (some a, s) => deliver a (ty == 0) s
    | (none, s) => s

def execLoad (r : Req) (s : State) : Res := .next (request 0 r s)
def execStore (r : Req) (s : State) : Res := .next (request 1 r s)
def execStoreRelease (r : Req) (s : State) : Res := .next (request 2 r s)
def execAtomAdd (r : Req) (s : State) : Res := .next (request 4 r s)
def execAtomMax (r : Req) (s : State) : Res := .next (request 5 r s)
def execAtomMin (r : Req) (s : State) : Res := .next (request 6 r s)
def execAtomAnd (r : Req) (s : State) : Res := .next (request 7 r s)
def execAtomOr (r : Req) (s : State) : Res := .next (request 8 r s)
def execAtomXor (r : Req) (s : State) : Res := .next (request 9 r s)
def execAtomSwap (r : Req) (s : State) : Res := .next (request 0x0A r s)
def execAtomCas (r : Req) (s : State) : Res := .next (request 0x0B r s)
def execCourierStore (r : Req) (s : State) : Res := .next (request 0x10 r s)
def execCourierAdd (r : Req) (s : State) : Res := .next (request 0x11 r s)

/-- A code of Table 8-6 that names an access. -/
def isListed (ty : Nat) : Bool := ty == 0 || isUpdate ty

/-- A reserved access type is not performed and is answered with REFUSED (Table 8-6). An address whose TYPE is listed
stands for the reserved code 0x03. -/
def execReservedAccessType (r : Req) (s : State) : Res :=
  .next (request (if isListed (typeOf r.gaddr) then 3 else typeOf r.gaddr) r s)

/-- A response: one that no request awaits is late; a reserved RESP is handed over as REFUSED (R225, R226). -/
def receiveResponse (p : Pkt) (s : State) : State :=
  match findOutst s p.tag with
  | none => modFab s fun f => { f with err := setBit f.err 4 }
  | some o =>
    let bad := decide (7 < p.resp.toNat)
    let s := if bad then modFab s fun f => { f with err := setBit f.err 2 } else s
    answerOutst o ⟨p.tag, if bad then 3#4 else p.resp, p.poison, p.payload⟩ s

def execResponse (p : Pkt) (s : State) : Res := .next (receiveResponse p s)

/-- A request without an answer for RESP_TO completes with TIMEOUT (R226). -/
def timeoutRequest (tag : BitVec 16) (s : State) : State :=
  match findOutst s tag with
  | none => s
  | some o => answerOutst o ⟨tag, 6#4, false, []⟩ s

def execResponseTimeout (tag : BitVec 16) (s : State) : Res := .next (timeoutRequest tag s)

end Sys2Proof.Machine
end

