-- ==== Sys2Proof/Machine/Fabric.lean ====
section
/-! DEFINITION. Links, flits, packets, the courier toll and the rack reference time (spec/08, R212 to R218, R224 to R232,
R241 to R248). -/

namespace Sys2Proof.Config

/-- The 16 Reed-Solomon parity bytes of 240 data bytes, and the 240 bytes of the code word that the decoder finds for 256 received
bytes: the spec names the field and the strength of the code and not its polynomials (Table 8-3; log entry 54). -/
opaque rsParity : List Sys2Proof.Byte → List Sys2Proof.Byte
opaque rsDecode : List Sys2Proof.Byte → List Sys2Proof.Byte

/-- The lane that carries byte i of a flit, by the lanes in use; the spec gives no striping (log entry 54). -/
opaque laneOfByte : Nat → Nat → Nat

/-- Devices of other racks to which the time master addresses a beacon through the hubs (R242; log entry 54). -/
opaque hallBeacons : List Sys2Proof.DevId

end Sys2Proof.Config

namespace Sys2Proof.Machine

/-! ## Bytes of a packet (Table 8-7) -/

def pktHeader (p : Pkt) : List Byte :=
  leBytes 8 p.gaddr.toNat ++ leBytes 4 (p.ctx.toNat * 2 ^ 28 + p.src.toNat) ++ leBytes 4 p.job.toNat
    ++ leBytes 4 p.epoch.toNat ++ leBytes 4 (p.resp.toNat * 2 ^ 16 + p.tag.toNat)
    ++ leBytes 4 (p.poison.toNat * 2 ^ 18 + p.kind.toNat * 2 ^ 16 + p.length.toNat) ++ leBytes 4 0

def itemBytes (s : State) (q : QItem) : List Byte :=
  match q.body with
  | .pkt p => pktHeader p ++ p.payload
  | .msg m => let p := msgPkt s q.vc q.dst q.tag m; pktHeader p ++ p.payload

/-! ## Flits (Table 8-4) -/

def flLseq (f : Flit) : BitVec 12 := BitVec.ofNat 12 (fld f.header 63 52)
def flCreditVc (f : Flit) : Nat := fld f.header 51 48
def flCredits (f : Flit) : Nat := fld f.header 47 40
def flPsn (f : Flit) : Nat := fld f.header 39 24
def flVc (f : Flit) : Nat := fld f.header 19 16
def flType (f : Flit) : Nat := fld f.header 15 12
def flFill (f : Flit) : Nat := fld f.header 7 0

/-- A reserved TYPE or field, or a FILL outside its type's range (R217). -/
def flitBad (f : Flit) : Bool :=
  let ty := flType f
  let n := flFill f
  decide (6 < ty) || fld f.header 23 20 != 0 || fld f.header 11 8 != 0
    || (if ty = 1 || ty = 4 then n = 0 || decide (224 < n) else if ty = 2 || ty = 3 then n != 224 else n != 0)

def flitHeader (lseq creditVc credits psn vc ty fill : Nat) : W64 :=
  w64 (lseq % 4096 * 2 ^ 52 + creditVc * 2 ^ 48 + credits * 2 ^ 40 + psn % 65536 * 2 ^ 24 + vc * 2 ^ 16 + ty * 2 ^ 12 + fill)

def portErr (i : Nat) (x : PortU) : PortU := { x with err := setBit x.err i }

/-- Bytes 0 to 231, the CRC over which a flit carries (Table 8-3), and all 256. -/
def flitBody (f : Flit) : List Byte := leBytes 8 f.header.toNat ++ f.slot

def flitBytes (f : Flit) : List Byte := flitBody f ++ leBytes 8 f.crc.toNat ++ f.parity

def flitOf (b : List Byte) : Flit :=
  ⟨w64 (leNat (b.take 8)), (b.drop 8).take 224, w64 (leNat ((b.drop 232).take 8)), (b.drop 240).take 16⟩

def flitCrc (f : Flit) : W64 := crc64 0 (flitBody f)

/-- The parity of 240 data bytes. -/
def parityOf (d : List Byte) : List Byte := (Config.rsParity d ++ List.replicate 16 0#8).take 16

/-- A flit with its CRC and its parity (Table 8-3). -/
def sealFlit (header : W64) (slot : List Byte) : Flit :=
  let f : Flit := ⟨header, slot ++ List.replicate (224 - slot.length) 0#8, 0#64, []⟩
  let f := { f with crc := flitCrc f }
  { f with parity := parityOf ((flitBytes f).take 240) }

/-- Flits on a channel of the halves kept in a port's receive buffer, whose credits are not returned (R259). -/
def keptFlits (s : State) (q vc : Nat) : Nat :=
  ((s.fab.blocked.filter fun w => w.1 == q && ((ctxOfJob s w.2.job).bind fun c => findCv s c w.2.caravan w.2.epoch).any
    fun v => v.ring == vc).map fun w => flitsOf (msgLen (.caravan w.2))).sum

/-- The first channel with credits to return, and how many a flit returns (R218). -/
def owedCredits (s : State) (q : Nat) : Option (Nat × Nat) :=
  ((port s q).owed.find? fun e => keptFlits s q e.1 < e.2).map fun e => (e.1, min 255 (e.2 - keptFlits s q e.1))

/-- A flit leaves the port: it takes the next LSEQ and one VC's owed credits, and enters the retry buffer of 256 flits
(R217, R218). -/
def sendFlit (q vc ty psn fill : Nat) (slot : List Byte) (s : State) : State :=
  let x := port s q
  let (cv, n) := (owedCredits s q).getD (0, 0)
  let f := sealFlit (flitHeader x.lseq.toNat cv n psn vc ty fill) slot
  let s := modPort s q fun x => { x with
    lseq := x.lseq + 1
    owed := tmod 0 x.owed cv fun k => k - n
    retry := (x.retry ++ [(x.lseq, f)]).drop (x.retry.length - 255) }
  { s with out := .flit q f :: s.out }

/-! ### Receipt (R217, R218, R247) -/

/-- How far below the expected number a PSN lies, modulo 2^16. -/
def psnBehind (expected : BitVec 16) (psn : Nat) : Nat := (expected.toNat + 65536 - psn) % 65536

/-- A flit of a packet that is neither bad nor stale: its bytes join the part held, and a last flit ends the packet. -/
def takeFlit (q : Nat) (f : Flit) (s : State) : State :=
  let vc := flVc f
  let ty := flType f
  let last := ty == 1 || ty == 4
  let bytes := f.slot.take (flFill f)
  modPort s q fun x =>
    let old := if ty = 1 || ty = 2 then [] else tget [] x.part vc
    { x with
      part := tset [] x.part vc (if last then [] else old ++ bytes)
      psnIn := if last then tset 0#16 x.psnIn vc (BitVec.ofNat 16 (flPsn f + 1)) else tset 0#16 x.psnIn vc (BitVec.ofNat 16 (flPsn f)) }

/-- A replay from an LSEQ on: every flit of the retry buffer from there (R217). -/
def replayFrom (q : Nat) (lseq : BitVec 12) (s : State) : State :=
  modPort s q fun x => { x with
    replay := x.retry.dropWhile fun e => e.1 != lseq
    replays := satWord x.replays 1 }

/-- Bytes in which what arrived differs from a code word. -/
def byteErrors (rx word : List Byte) : List Nat := (List.range 256).filter fun i => rx.getD i 0#8 != word.getD i 0#8

/-- A received flit corrected by its parity, with the bytes corrected: the code word within 8 byte errors of what arrived, when the
decoder finds one (R217). -/
def correctFlit (f : Flit) : Flit × List Nat :=
  let rx := flitBytes f
  let d := Config.rsDecode rx
  let word := d ++ parityOf d
  if parityOf (rx.take 240) = f.parity then (f, [])
  else if d.length = 240 && (byteErrors rx word).length ≤ 8 then (flitOf word, byteErrors rx word)
  else (f, [])

/-- The corrected bytes count as symbol errors of the lanes that carried them (Table 8-15). -/
def countSymbols (errs : List Nat) (x : PortU) : PortU :=
  { x with lanes := errs.foldl (fun t i =>
      tmod 0#32 t (Config.laneOfByte (fld x.stat 9 2) i % 8) fun w => satFld w 15 0 1) x.lanes }

/-- The flit belongs to a packet, and so took a flit buffer of its channel. -/
def ofPacket (f : Flit) : Bool := decide (1 ≤ flType f) && decide (flType f ≤ 4)

/-- The buffer of a packet flit is free again: its credit is owed (R218). -/
def freeBuffer (f : Flit) (x : PortU) : PortU :=
  if ofPacket f then { x with owed := tmod 0 x.owed (flVc f) (· + 1) } else x

/-- The oldest n packet flits of a channel leave the retry buffer: their credits came back, so they have been received. -/
def dropAcked (vc : Nat) : Nat → List (BitVec 12 × Flit) → List (BitVec 12 × Flit)
  | _, [] => []
  | 0, l => l
  | n + 1, e :: l => if ofPacket e.2 && flVc e.2 == vc then dropAcked vc n l else e :: dropAcked vc (n + 1) l

/-- The credits that a flit returns. The spec gives no acknowledgement of flits but these, and the model takes a returned credit for
one (DEDUCED, log entry 54). -/
def takeCredits (f : Flit) (x : PortU) : PortU :=
  { x with
    credits := tmod 0 x.credits (flCreditVc f) (· + flCredits f)
    retry := dropAcked (flCreditVc f) (flCredits f) x.retry }

/-- A flit after correction and the CRC check (R217, R218, R247). -/
def acceptFlit (q : Nat) (f : Flit) (s : State) : State :=
  if flitBad f then modPort s q fun x => portErr 5 (freeBuffer f x)
  else
    let s := modPort s q (takeCredits f)
    let ty := flType f
    if ty = 0 || ty = 6 then s
    else if ty = 5 then replayFrom q (BitVec.ofNat 12 (leNat (f.slot.take 2))) s
    else
      let s := modPort s q (freeBuffer f)
      let d := psnBehind (tget 0#16 (port s q).psnIn (flVc f)) (flPsn f)
      if 1 ≤ d && d ≤ 32767 then modPort s q fun x => portErr 0 { x with stales := satWord x.stales 1 }
      else takeFlit q f s

/-- A flit arrives: it is corrected, then checked; a failed CRC asks for a replay from its LSEQ (R217). -/
def receiveFlit (q : Nat) (f : Flit) (s : State) : State :=
  let (f, errs) := correctFlit f
  let s := modPort s q (countSymbols errs)
  if flitCrc f != f.crc then sendFlit q 0 5 0 0 (leBytes 2 (flLseq f).toNat) s else acceptFlit q f s

def execFlitReceive (port : Nat) (f : Flit) (s : State) : Res := onUnit 18 port s (receiveFlit port f)

def execReplayRequest (port : Nat) (lseq : BitVec 12) (s : State) : Res := onUnit 18 port s (replayFrom port lseq)

/-- A partial packet without a flit for TIMER: it is discarded, the expected PSN passes it, and its source is told (R248). -/
def stallExpiry (q vc : Nat) (s : State) : State :=
  let part := tget [] (port s q).part vc
  if part.isEmpty then s
  else
    let src : DevId := BitVec.ofNat 18 (leNat ((part.drop 8).take 4))
    let tag : BitVec 16 := BitVec.ofNat 16 (leNat ((part.drop 20).take 2))
    let s := modPort s q fun x => portErr 1 { x with
      part := tset [] x.part vc [], stalls := satWord x.stalls 1
      psnIn := tmod 0#16 x.psnIn vc (· + 1) }
    sendMsg 0 src (.stallNotice tag q) s

def execStallTimerExpiry (port : Nat) (vc : BitVec 4) (s : State) : Res := onUnit 18 port s (stallExpiry port vc.toNat)

/-! ### Packets (R225) -/

/-- Payload bytes that a packet of these header fields brings: a LOAD's LENGTH names the bytes asked for (Table 8-6). -/
def broughtBytes (p : Pkt) : Nat := if p.kind = 0#2 && typeOf p.gaddr = 0 then 0 else p.length.toNat

def pktBad (p : Pkt) (flits : Nat) : Bool :=
  p.kind == 3#2 || p.resv || p.payload.length != broughtBytes p || flitsOf (broughtBytes p) != flits
    || decide (4096 < p.length.toNat)

/-- A whole packet: a bad one is dropped; a response goes to its requester, a request is served. A MESSAGE takes effect by
the row of its own kind, since the spec gives its contents there, and is answered here (R225, R226, R234). -/
def receiveWhole (q vc : Nat) (p : Pkt) (flits : Nat) (s : State) : State :=
  if pktBad p flits then modPort s q (portErr 5)
  else if p.kind = 1#2 then receiveResponse p s
  else if isMessage p then answerMessage q vc p s
  else serveArrived q vc p p.length.toNat s

def execPacketReceive (port vc : Nat) (p : Pkt) (flits : Nat) (s : State) : Res :=
  onUnit 18 port s (receiveWhole port vc p flits)

/-! ### Transmission (R228, Table 12-12) -/

def hasCredit (x : PortU) (vc : Nat) : Bool := decide (0 < tget 0 x.credits vc)

/-- The item whose flit a channel sends next: a packet begun, else the first of its queue, which on the courier channel must have
been admitted (R218, R232). None without a credit. -/
def readyItem (x : PortU) (vc : Nat) : Option QItem :=
  if hasCredit x vc then
    (x.queue.find? fun q => q.vc == vc && decide (0 < q.sent)).orElse fun _ =>
      x.queue.find? fun q => q.vc == vc && (vc != 0 || q.admitted)
  else none

/-- The reduction channel whose turn it is: the first after `robin` with a flit and a credit. -/
def nextReduction (x : PortU) : Option QItem :=
  ((List.range 12).map fun i => (x.robin + i) % 12 + 1).findSome? (readyItem x)

/-- The first flit that the rules of R228 allow. VC 13 takes the slot after 7 slots in which it waited. -/
def pickItem (x : PortU) : Option QItem :=
  let manage := if 63 ≤ x.mgmtGap then readyItem x 15 else none
  let bulk := readyItem x 13
  let red := nextReduction x
  let low := if 7 ≤ x.bulkGap then bulk.orElse fun _ => red else red.orElse fun _ => bulk
  (((readyItem x 0).orElse fun _ => manage).orElse fun _ => readyItem x 14).orElse fun _ => low

/-- A flit slot in which the port sends a flit of a channel, or of none: how long VC 15 has sent nothing and VC 13 has waited with
a flit ready (R228, Table 12-12). -/
def countSlot (sent : Option Nat) (x : PortU) : PortU :=
  { x with
    mgmtGap := if sent = some 15 then 0 else x.mgmtGap + 1
    bulkGap := if sent = some 13 || (readyItem x 13).isNone then 0 else x.bulkGap + 1 }

/-- Advance the first item equal to q by one flit, or remove it after its last. -/
def advanceItem (q : QItem) : List QItem → List QItem
  | [] => []
  | x :: r => if x = q then (if q.sent + 1 < q.flits then { q with sent := q.sent + 1 } :: r else r)
    else x :: advanceItem q r

/-- One flit of an item leaves. -/
def transmitItem (p : Nat) (q : QItem) (s : State) : State :=
  let all := itemBytes s q
  let slot := (all.drop (224 * q.sent)).take 224
  let last := decide (q.flits ≤ q.sent + 1)
  let ty := if q.flits ≤ 1 then 1 else if q.sent = 0 then 2 else if last then 4 else 3
  let psn := (tget 0#16 (port s p).psnOut q.vc).toNat
  let s := modPort s p fun x => { countSlot (some q.vc) x with
    queue := advanceItem q x.queue
    credits := tmod 0 x.credits q.vc (· - 1)
    psnOut := if last then tmod 0#16 x.psnOut q.vc (· + 1) else x.psnOut
    robin := if 1 ≤ q.vc && q.vc ≤ 12 then q.vc % 12 else x.robin }
  sendFlit p q.vc ty psn (if ty = 1 || ty = 4 then slot.length else 224) slot s

/-- A flit slot of a port: a replay first, then the class rules; with nothing to send, an idle flit returns credits. -/
def transmit (p : Nat) (s : State) : State :=
  let x := port s p
  if !portUp s p then s
  else match x.replay with
    | (_, f) :: rest =>
      { modPort s p fun x => { countSlot (if ofPacket f then some (flVc f) else none) x with replay := rest } with
        out := .flit p f :: s.out }
    | [] => match pickItem x with
      | some q => transmitItem p q s
      | none =>
        let s := modPort s p (countSlot none)
        if (owedCredits s p).isNone then s else sendFlit p 0 0 0 0 [] s

def execFlitTransmit (port : Nat) (s : State) : Res := onUnit 18 port s (transmit port)

/-! ## The toll (R229 to R232) -/

/-- Lanes in use. -/
def lanesUsed (x : PortU) : Nat := (List.range 8).countP fun l => bit x.stat (2 + l)

/-- The largest effective rate at the port's width (Table 8-9). -/
def maxRate (x : PortU) : Nat := if lanesUsed x = 8 then 70 else if lanesUsed x = 4 then 35 else if lanesUsed x = 2 then 17 else 0

/-- The start of a courier window at a port: the bucket holds the effective rate. -/
def startWindow (x : PortU) : PortU :=
  let want := fld x.toll 6 0
  let top := maxRate x
  let rate := if want = 0 || top < want then top else want
  let x := if top < want then portErr 6 x else x
  { x with rate := rate, tollStat := setFld x.tollStat 6 0 rate }

/-- A window starts at a port: one that is not in service has no width and so no rate (R229). -/
def portWindow (x : PortU) : PortU :=
  if fld x.stat 1 0 = 2 then startWindow x else { x with rate := 0, tollStat := setFld x.tollStat 6 0 0 }

def windowStart (s : State) : State := (List.range 18).foldl (fun s p => modPort s p portWindow) s

def execCourierWindowStart (s : State) : Res := .next (windowStart s)

/-- The head of the courier queue: the first courier item not admitted. -/
def courierHead (x : PortU) : Option QItem := x.queue.find? fun q => q.vc == 0 && !q.admitted

/-- Mark the first item equal to q as admitted. -/
def admitItem (q : QItem) : List QItem → List QItem
  | [] => []
  | x :: r => if x = q then { q with admitted := true } :: r else x :: admitItem q r

/-- The head is admitted when the bucket holds its flits, and counted when its own window is past (R232). -/
def admitCourier (now : Nat) (x : PortU) : PortU :=
  match courierHead x with
  | none => x
  | some q => match q.stamp with
    | none => x
    | some st =>
      let tokens := fld x.tollStat 6 0
      if tokens < q.flits then x
      else
        let late := decide (st.toNat / 200 < now / 200)
        let w := setFld x.tollStat 6 0 (tokens - q.flits)
        { x with queue := admitItem q x.queue, tollStat := if late then satFld w 31 16 1 else w }

def execCourierAdmit (port : Nat) (s : State) : Res :=
  onUnit 18 port s fun s => modPort s port (admitCourier s.rack.toNat)

/-! ## Ports in and out of service (R214, R215) -/

def setPortState (v : Nat) (x : PortU) : PortU := { x with stat := setFld x.stat 1 0 v }

/-- Put a courier item in its place by stamp (R231), another item at the end. -/
def insertItem (q : QItem) : List QItem → List QItem
  | [] => [q]
  | x :: r =>
    let before := q.vc == 0 && x.vc == 0 && (match q.stamp, x.stamp with
      | some a, some b => decide (a.toNat < b.toNat)
      | some _, none => true
      | none, _ => false)
    if before then q :: x :: r else x :: insertItem q r

/-- Port index of a queued item (R222, R260). -/
def itemIndex (s : State) (q : QItem) : Nat :=
  match q.body with
  | .pkt p => if p.kind = 1#2 then (slotOf q.dst + fld p.gaddr 15 12) % 16 else requestIndex s p
  | .msg (.caravan p) => (p.tile.toNat + p.caravan.toNat) % 16
  | .msg _ => courierIndex s q.dst

/-- The own request that a queued item carries. -/
def outstOf (s : State) (q : QItem) : Option Outst :=
  s.fab.outst.find? fun o => match q.body with
    | .pkt p => o.pkt == p
    | .msg _ => isMessage o.pkt && o.tag == q.tag

/-- An earlier request of the same requester to the granule of o is unanswered on another port, or held. -/
def overtakes (s : State) (o : Outst) (p : Nat) (held : List Held) : Bool :=
  !isMessage o.pkt && (((s.fab.outst.takeWhile (· != o)).any fun x => x.die == o.die && x.port != p && !isMessage x.pkt
    && sameGranule x.pkt o.pkt) || held.any fun h => h.die == o.die && sameGranule h.pkt o.pkt)

/-- A queued item moves to the port that R223 gives and enters its queue unadmitted (R231, R232); with none in service its request
is answered NO_ROUTE. A request that would overtake an earlier one to its granule is held instead. -/
def moveItem (r : List Held × State) (q : QItem) : List Held × State :=
  let (held, s) := r
  match route s q.die q.dst (itemIndex s q) with
  | some p =>
    let put (s : State) : State := modPort s p fun x => { x with queue := insertItem { q with admitted := false } x.queue }
    match outstOf s q with
    | some o =>
      if overtakes s o p held then (held ++ [⟨o.pkt, o.die⟩], modFab s fun f => { f with outst := f.outst.erase o })
      else (held, modFab (put s) fun f => { f with outst := f.outst.map fun x => if x = o then { o with port := p } else x })
    | none => (held, put s)
  | none =>
    let s := modFab s fun f => { f with err := setBit f.err 1 }
    match outstOf s q with
    | some o => (held, answerOutst o ⟨o.tag, 5#4, false, []⟩ s)
    | none => (held, s)

/-- A port leaves service: what is queued and not yet sent moves at once (R215), and what must wait is held before what was. -/
def leaveService (p st : Nat) (s : State) : State :=
  let move := (port s p).queue.filter fun q => q.sent == 0
  let s := modPort s p fun x => setPortState st { x with queue := x.queue.filter fun q => q.sent != 0 }
  let (held, s) := move.foldl moveItem ([], s)
  modFab s fun f => { f with held := held ++ f.held }

/-- A port that goes down or is disabled sends nothing of what it held: packets begun end there, and no flit is replayed (R215). -/
def dropLink (x : PortU) : PortU :=
  { x with
    stat := setFld x.stat 9 2 0
    psnOut := x.queue.foldl (fun t q => tmod 0#16 t q.vc (· + 1)) x.psnOut
    queue := [], retry := [], replay := [] }

/-- Requests sent on a port that went down or was disabled are answered LINK_DOWN (R215). -/
def linkDown (p : Nat) (s : State) : State :=
  (s.fab.outst.filter fun o => o.port == p).foldl (fun s o => answerOutst o ⟨o.tag, 7#4, false, []⟩ s) s

/-- A port goes down. -/
def goDown (p : Nat) (s : State) : State :=
  linkDown p (modPort (leaveService p 0 s) p fun x => portErr 2 (dropLink x))

/-- The lanes of the widest width of Table 8-2 that the good lanes allow. -/
def widthLanes (good : Nat) : Nat :=
  if good % 256 = 255 then 255
  else if good % 16 = 15 then 15
  else if good / 16 % 16 = 15 then 240
  else match [0, 1, 2, 3].find? fun i => good / 4 ^ i % 4 == 3 with
    | some i => 3 * 4 ^ i
    | none => 0

def laneCount (m : Nat) : Nat := (List.range 8).countP fun l => m / 2 ^ l % 2 == 1

/-- MIN_WIDTH in lanes. -/
def minLanes (x : PortU) : Nat := 2 * 2 ^ fld x.ctl 1 0

/-- A lane fails. It is good no more; when it was in use, the port retrains at the widest width that its good lanes allow, or goes
down when none is left (R214). -/
def failLane (p l : Nat) (s : State) : State :=
  let x := port s p
  if 8 ≤ l then s
  else
    let s := modPort s p fun x => { x with good := clrBit x.good l }
    if !bit x.stat (2 + l) then s
    else
      let s := laneEvent p l (modPort s p (portErr 4))
      let w := widthLanes (port s p).good.toNat
      if w = 0 || laneCount w < minLanes x then goDown p s
      else leaveService p 1 s

def execLaneFail (port lane : Nat) (s : State) : Res := onUnit 18 port s (failLane port lane)

/-- A training at x8 begins (R214); a disabled port stays disabled. -/
def retrainPort (p : Nat) (s : State) : State :=
  if bit (port s p).ctl 2 then s
  else modPort (leaveService p 1 s) p fun x => { x with stat := setFld x.stat 9 2 0, good := 0xFF#8 }

def execRetrain (port : Nat) (s : State) : Res := onUnit 18 port s (retrainPort port)

/-- FAB_PORT_CTL.DISABLE is written 1 (R215). -/
def disablePort (p : Nat) (s : State) : State :=
  let s := modPort s p fun x => { x with ctl := setBit x.ctl 2 }
  linkDown p (modPort (leaveService p 3 s) p dropLink)

def execPortDisable (port : Nat) (s : State) : Res := onUnit 18 port s (disablePort port)

/-- LINK_STATUS words 0 to 2 (Table 11-9). -/
def linkWords (s : State) : List Word :=
  (List.range 3).map fun i => w32 ((List.range 8).foldl (fun n k =>
    let p := 8 * i + k
    if 18 ≤ p then n
    else
      let x := port s p
      let c := lanesUsed x
      let w := if c = 8 then 3 else if c = 4 then 2 else if c = 2 then 1 else 0
      n + (fld x.stat 1 0 + 4 * w) * 16 ^ k) 0)

/-- PORT_RETRAIN completes when every port it names is up or down (Table 11-9). -/
def retrainEnds (p : Nat) (s : State) : State :=
  (s.host.running.filter fun r => match r.task with
    | .retrain ps => ps.contains p
    | _ => false).foldl (fun s r => match r.task with
      | .retrain ps =>
        let left := ps.filter (· != p)
        if left.isEmpty then completeRun r 0 (linkWords s) s else setTask r (.retrain left) s
      | _ => s) s

/-- Lanes not good at a training count towards the lane history, three in a row make a lane permanent (Table 10-4). -/
def noteTraining (p good : Nat) (s : State) : State :=
  (List.range 8).foldl (fun s l =>
    if good / 2 ^ l % 2 = 1 then modPort s p fun x => { x with narrow := tset 0 x.narrow l 0 }
    else
      let s := modPort s p fun x => { x with narrow := tmod 0 x.narrow l (· + 1) }
      if isPermanent s 4#4 (8 * p + l) then s
      else
        let s := laneEvent p l s
        if 3 ≤ tget 0 (port s p).narrow l then
          modPort (setPermanent 4#4 (8 * p + l) s) p fun x => { x with badLanes := setBit x.badLanes l }
        else s) s

/-- The eye widths of a port's lanes. -/
def recordEyes (eyes : List Byte) (x : PortU) : PortU :=
  { x with lanes := (List.range 8).foldl (fun t l => tmod 0#32 t l fun w => setFld w 23 16 (eyes.getD l 0#8).toNat) x.lanes }

/-- Lanes that a training found good: locked, with an eye of 32/128 UI or more (R214). -/
def testedLanes (locked : Byte) (eyes : List Byte) : Byte :=
  BitVec.ofNat 8 ((List.range 8).foldl (fun n l =>
    if locked.toNat / 2 ^ l % 2 = 1 && decide (32 ≤ (eyes.getD l 0#8).toNat) then n + 2 ^ l else n) 0)

/-- The port is up at the lanes w; what it had sent and not had acknowledged is replayed (R214, R215). -/
def portRises (p w : Nat) (twin : Nat) (x : PortU) : PortU :=
  let two := p == 8 || p == 17
  let st := setFld (setFld (setFld (setFld x.stat 29 12 (if two then twin else 0x3FFFF)) 11 10 (if two then 2 else 1)) 9 2 w) 1 0 2
  let narrower := decide (laneCount w < laneCount x.wasUsed.toNat)
  let x := { x with stat := st, wasUsed := BitVec.ofNat 8 w, replay := x.retry.filter fun e => ofPacket e.2 }
  if narrower then portErr 3 x else x

/-- A training ends: the port is up at the widest width its good lanes allow, or down (R214). -/
def trainEnd (p : Nat) (locked : Byte) (eyes : List Byte) (s : State) : State :=
  if fld (port s p).stat 1 0 != 1 then s
  else
    let tested := testedLanes locked eyes
    let s := noteTraining p tested.toNat (modPort s p (recordEyes eyes))
    let s := modPort s p fun x => { x with good := x.good &&& tested &&& ~~~x.badLanes }
    let x := port s p
    let w := widthLanes x.good.toNat
    let s := if w = 0 || laneCount w < minLanes x then goDown p s
      else modPort s p (portRises p w (fld s.rel.twinCfg 17 0))
    retrainEnds p s

def execPortTrainEnd (port : Nat) (locked : Byte) (eyes : List Byte) (s : State) : Res :=
  onUnit 18 port s (trainEnd port locked eyes)

/-- Once a second, the eye widths of an up port (Table 8-15). -/
def measureEyes (p : Nat) (widths : List Byte) (s : State) : State :=
  if !portUp s p then s else modPort s p (recordEyes widths)

def execEyeWidthMeasure (port : Nat) (widths : List Byte) (s : State) : Res := onUnit 18 port s (measureEyes port widths)

/-! ## Stall notices (R248) -/

/-- The rack port after one used, in service. -/
def nextRackPort (s : State) (p : Nat) : Option Nat := rackFrom s ((if p < 8 then p else p - 1) + 1)

/-- A stall notice: the request goes out again on the next rack port, or completes with STALLED. -/
def stallNoticed (tag : BitVec 16) (s : State) : State :=
  match findOutst s tag with
  | none => s
  | some o =>
    if fld s.fab.stallCfg 13 12 ≤ o.resends then answerOutst o ⟨tag, 4#4, false, []⟩ s
    else match nextRackPort s o.port with
      | none => answerOutst o ⟨tag, 5#4, false, []⟩ (modFab s fun f => { f with err := setBit f.err 1 })
      | some p =>
        let s := modFab s fun f => { f with
          outst := f.outst.map fun x => if x = o then { o with port := p, resends := o.resends + 1 } else x }
        enqueue p (requestVc o.pkt) (devOf o.pkt.gaddr) o.die o.tag (.pkt o.pkt) s

/-- The notice names the port at the target that stalled, which the requester does not act on (R248). -/
def execStallNotice (tag : BitVec 16) (_port : Nat) (s : State) : Res := .next (stallNoticed tag s)

/-! ## The rack reference time (R241 to R243) -/

/-- TIME_VALID rises: courier messages that waited unstamped are stamped in queue order (R230). -/
def timeRises (v : W64) (s : State) : State :=
  let s := { modFab s fun f => { f with timeStat := setBit f.timeStat 0, beacon := none } with rack := v }
  { s with ports := s.ports.map fun e => (e.1, { e.2 with
      queue := e.2.queue.map fun q => if q.vc = 0 && q.stamp.isNone then { q with stamp := some v } else q }) }

def isMaster (s : State) : Bool := fld s.fab.timeCfg 17 0 == (ownId s).toNat

/-- The master's beacon to every module of its rack, and through the hubs to the other racks, on the management channel (R242). -/
def sendBeacons (s : State) : State :=
  let high : BitVec 44 := BitVec.ofNat 44 (s.rack.toNat / 2 ^ 20 + 1)
  let mine := ((List.range 64).filter (· != slotOf (ownId s))).map fun k => BitVec.ofNat 18 ((ownId s).toNat / 64 * 64 + k)
  (mine ++ Config.hallBeacons).foldl (fun s d => sendMsg 15 d (.beacon high) s) s

/-- An RREF frame mark. -/
def frameMark (s : State) : State :=
  let s :=
    if timeValid s then
      if s.rack.toNat % 2 ^ 20 = 0 then s else modFab s fun f => { f with timeStat := setBit f.timeStat 2 }
    else match s.fab.beacon with
      | some h => timeRises (w64 (h.toNat * 2 ^ 20)) s
      | none => if isMaster s then timeRises 0#64 s else s
  if timeValid s && isMaster s then sendBeacons s else s

def execFrameMark (s : State) : Res := .next (frameMark s)

/-- A beacon: a module that is not valid loads it at the next frame mark (R242). -/
def execTimeBeacon (high : BitVec 44) (s : State) : Res :=
  .next (if timeValid s then s else modFab s fun f => { f with beacon := some high })

def execFrameMiss (s : State) : Res :=
  .next (if timeValid s then modFab s fun f => { f with timeStat := setBit f.timeStat 1 } else s)

def execRefLost (s : State) : Res := .next (modFab s fun f => { f with timeStat := setBit f.timeStat 3, refGone := true })

/-- RREF returns after a loss: the count is reloaded once every context is closed, whether or not REF_LOST was cleared meanwhile
(Table 8-13). -/
def execRefReturn (s : State) : Res :=
  .next (reloadTime (if s.fab.refGone then modFab s fun f => { f with refGone := false, reload := true } else s))

end Sys2Proof.Machine
end

