-- ==== Sys2Proof/Machine/Flags.lean ====
section
/-! DEFINITION. Tensor entries (spec/05): ownership, the exponent and the window base of a step, the pending statistics, and
the flags a seal raises. -/

namespace Sys2Proof.Machine

def entryOf (s : State) (k t : Nat) : Entry := tget Entry.reset (core s k).entries t

def modEntry (s : State) (k t : Nat) (f : Entry → Entry) : State :=
  modCore s k fun c => { c with entries := tmod Entry.reset c.entries t f }

/-- INTERVAL launches own no entry and add to no statistic (R157). -/
def isInterval (l : LaunchS) : Bool := l.kind == 4#4

/-- The step epoch by which a launch selects exponents and windows (R141, R157). -/
def fmtEpoch (s : State) (l : LaunchS) : Nat := if isInterval l then (openEpoch (ctxU s l.ctx)).toNat else l.epoch.toNat

/-- The launch may write the entry: it is not owned, or owned by the launch (R156). -/
def mayWrite (e : Entry) (l : LaunchS) : Bool := isInterval l || !bit e.town 31 || owns l e

/-- The first write of a launch takes the entry (R156). -/
def claim (l : LaunchS) (e : Entry) : Entry :=
  if isInterval l || bit e.town 31 then e
  else { e with town := setFld (setBit e.town 31) 15 0 l.number.toNat, ownCtx := l.ctx }

/-! ## Scale and window (R140, R141, R147) -/

/-- The ring entry HIST steps old, when it is usable: e_hist (R141). -/
def histMax (e : Entry) (epoch : Nat) : Option Int :=
  let h := fld e.tcfg 8 5
  let k := (epoch + 2 ^ 32 - h) % 2 ^ 32
  let w := tget 0#16 e.thist (k % 16)
  if fld w 15 9 = k % 128 && fld w 8 0 != 0 then some (Int.ofNat (fld w 8 0) - 150) else none

def eFix (e : Entry) : Nat := fld e.tfix 7 0

/-- The tensor exponent of a write at width n: none under the block rule; and whether the history was missed (Table 5-5,
R137, R141). -/
def tensorExp (e : Entry) (epoch n : Nat) : Option Nat × Bool :=
  match fld e.tcfg 1 0 with
  | 0 => (if n = 1 then some (eFix e) else none, false)
  | 1 =>
    match histMax e epoch with
    | some h => (some (clampE (h + (if n = 1 then 127 else 128) + Int.ofNat (fld e.tcfg 11 9))), false)
    | none => (some (eFix e), true)
  | _ => (some (eFix e), false)

/-- WIN_FIX in two's complement. -/
def winFix (e : Entry) : Int :=
  let v := fld e.tfix 25 16
  if v < 512 then Int.ofNat v else Int.ofNat v - 1024

/-- The window base, and whether the history was missed (R147). -/
def windowBase (e : Entry) (epoch : Nat) : Int × Bool :=
  if fld e.tcfg 13 12 = 1 then
    match histMax e epoch with
    | some h => (h - 62, false)
    | none => (winFix e, true)
  else (winFix e, false)

/-! ## Statistics (Table 5-8) -/

/-- Pending counts grow by those of one write. -/
def addStat (t : TStat) (e : Entry) : Entry :=
  { e with
    blocks := satWord e.blocks t.blocks, zero := satWord e.zero t.zero, sat := satWord e.sat t.sat
    dig := satWord e.dig t.dig, inexact := satWord e.inexact t.inexact, winlow := satWord e.winlow t.winlow
    invalid := satWord e.invalid t.invalid, nonfin := satWord e.nonfin t.nonfin
    amax := w32 (max e.amax.toNat t.amax)
    town := putBit (putBit e.town 30 (bit e.town 30 || t.ovf)) 29 (bit e.town 29 || t.hmiss) }

/-- A write through an entry: ownership, then the counts; none of either for an INTERVAL launch (R156, R157). -/
def account (l : LaunchS) (k t : Nat) (st : TStat) (s : State) : State :=
  if isInterval l then s else modEntry s k t fun e => addStat st (claim l e)

/-- Width of a ZQ destination, 0 for the float formats. -/
def fmtN : VFmt → Nat
  | .zq nm1 => nm1.toNat + 1
  | _ => 0

/-- Values written through an entry of a core: the bytes, and the counts with the history-miss bit (R137, R141). -/
def writeThrough (e : Entry) (epoch : Nat) (dst : VFmt) (dig : Bool) (vs : List Pv) : List Byte × TStat :=
  let n := fmtN dst
  let x := if n = 0 then (none, false) else tensorExp e epoch n
  let r := encodeRow dst x.1 dig vs
  (r.1, { r.2 with hmiss := r.2.hmiss || x.2 })

/-- At most 32 values written at an address through entry t of core k: the bytes with their marks, then the counts (R131, R148,
R156, R157). RESP and the state; a refused store counts nothing. -/
def writeGroup (l : LaunchS) (k t : Nat) (dst : VFmt) (dig : Bool) (a : Nat) (vs : List Pv) (missed poison : Bool) (s : State) :
    Nat × State :=
  let r := writeThrough (entryOf s k t) (fmtEpoch s l) dst dig vs
  let w := markedWrite s false a r.1 poison ⟨dig, r.2.satGroup⟩
  if w.1 != 0 then (w.1, s) else (0, account l k t { r.2 with hmiss := r.2.hmiss || missed } w.2)

/-- Elements that a transpose loader changed count in the entry that the pass names, while the launch owns it (R109, R157). -/
def noteInexact (l : LaunchS) (k t n : Nat) (s : State) : State :=
  if owns l (entryOf s k t) then modEntry s k t (addStat { inexact := n }) else s

/-- A write to an entry that another launch owns: OWNER_CONFLICT, treated as a bad descriptor (R116, R156). -/
def ownerConflict (k uid : Nat) (s : State) : State :=
  stopLaunch uid 0x30 (modCore s k fun c => { c with fmtErr := setBit c.fmtErr 1, engErr := setBit c.engErr 5 })

/-! ## The window accumulator (R145 to R148) -/

def Acc.zero : Acc := ⟨0, false, false, false, false⟩

/-- A fold of P · 2^f at window base B (R146). -/
def Acc.fold (base : Int) (acc : Acc) (p f : Int) : Acc :=
  if acc.clamp then acc
  else
    let k := f - base
    let sum := acc.a + rneScale p k
    let sticky := acc.sticky || !scaleExact p k
    let top := pow2 95
    if top - 1 < sum then { acc with a := top - 1, sticky := sticky, clamp := true }
    else if sum < -top then { acc with a := -top, sticky := sticky, clamp := true }
    else { acc with a := sum, sticky := sticky }

/-- The exact value that the drain presents (R148). -/
def Acc.present (base : Int) (sat : Bool) (x : Acc) : Pv :=
  { v := .fin (decide (x.a < 0)) ⟨x.a, base⟩, invalid := x.invalid, satMark := sat, sticky := x.sticky, clamp := x.clamp }

/-! ## The flags of a seal (R142, R158) -/

/-- MAX_CODE of a pending AMAX (R142). -/
def maxCode (amax : Word) : Nat :=
  if amax = 0#32 then 0
  else if 0x7F800000 ≤ amax.toNat then 277
  else (dyLog2 (f32ToDy amax) + 150).toNat

/-- Flags that the statistics raise: steps 1 and 2 of R158, as bits of FMT_TFLAG. -/
def raisedFlags (e : Entry) : Nat :=
  let z := fld e.tcfg 19 16
  let q := fld e.tcfg 23 20
  (if z != 0 && e.blocks.toNat < e.zero.toNat * 2 ^ z then 1 else 0)
    + (if q != 0 && e.blocks.toNat < e.sat.toNat * 2 ^ q then 2 else 0)
    + (if e.invalid != 0#32 then 4 else 0) + (if bit e.town 30 then 8 else 0)
    + (if e.nonfin != 0#32 then 16 else 0) + (if bit e.town 29 then 32 else 0)

/-- The ring entry of the step (R142). -/
def ringEntry (e : Entry) (epoch : Nat) : BitVec 16 := BitVec.ofNat 16 (epoch % 128 * 512 + maxCode e.amax)

/-- Held configuration writes take effect (R160). -/
def applyHeld (e : Entry) : Entry :=
  { e with
    tcfg := e.heldCfg.getD e.tcfg, tfix := e.heldFix.getD e.tfix
    thist := e.heldHist.foldl (fun t h => tset 0#16 t h.1 h.2) e.thist
    heldCfg := none, heldFix := none, heldHist := [], tflag := clrBit e.tflag 7 }

/-- Steps 1 to 6 of R158 on one owned entry. -/
def sealEntry (epoch : Nat) (e : Entry) : Entry :=
  let fl := raisedFlags e
  let ring := tset 0#16 e.thist (epoch % 16) (ringEntry e epoch)
  let e := { e with tflag := e.tflag ||| w32 fl, thist := ring }
  applyHeld { e.cleared with town := 0#32, ownCtx := 0#4 }

end Sys2Proof.Machine
end

