-- ==== Sys2Proof/Machine/Vector.lean ====
section
/-! DEFINITION. The vector engine (spec/04, R117 to R124): its operations, the lookup tables and their slots. -/

namespace Sys2Proof.Machine

/-- The core that does a fenced core's work (R292). -/
def execCore (s : State) (k : Nat) : Nat := if coreFenced s k then tget k s.rel.subst k else k

/-- The result of an operation is converted and written through its entry (R118, R156); the operation of a launch that is
gone does nothing, and one that writes another launch's entry is treated as a bad descriptor. -/
def vecWrite (o : VOp) (ws : List Word) (s : State) : State :=
  match findLaunch s o.launch with
  | none => s
  | some l =>
    let k := execCore s o.core
    let s := noteIssue k l.uid s
    let e := entryOf s k o.entry.toNat
    let s := if ws.any isNanF32 then modCore s k fun c => { c with vecErr := setBit c.vecErr 4 } else s
    if !mayWrite e l then
      ownerConflict k l.uid s
    else
      let r := writeThrough e (fmtEpoch s l) o.dst false (ws.map fun w => { v := f32ToFv w })
      account l k o.entry.toNat r.2 (modCore s k fun c => { c with vecOut := r.1 })

/-- An element-wise operation on one, two or three operands (Table 4-10). -/
def vecMap1 (f : Word → Word) (a : VSrc) : List Word := (vsrcWords a).map f

def vecMap2 (f : Word → Word → Word) (a b : VSrc) : List Word := List.zipWith f (vsrcWords a) (vsrcWords b)

def vecMap3 (f : Word → Word → Word → Word) (a b c : VSrc) : List Word :=
  List.zipWith (fun g z => g z) (List.zipWith f (vsrcWords a) (vsrcWords b)) (vsrcWords c)

/-- The quiet NaN for any NaN (R118). -/
def quiet (w : Word) : Word := if isNanF32 w then 0x7FC00000#32 else w

def vecOp (o : VOp) (ws : List Word) (s : State) : Res := onUnit 512 o.core s (vecWrite o ws)

def execAdd (o : VOp) (a b : VSrc) (s : State) : Res := vecOp o (vecMap2 f32Add a b) s

def execSub (o : VOp) (a b : VSrc) (s : State) : Res := vecOp o (vecMap2 f32Sub a b) s

def execMul (o : VOp) (a b : VSrc) (s : State) : Res := vecOp o (vecMap2 f32Mul a b) s

def execFma (o : VOp) (a b c : VSrc) (s : State) : Res := vecOp o (vecMap3 f32Fma a b c) s

def execMax (o : VOp) (a b : VSrc) (s : State) : Res := vecOp o (vecMap2 f32Max a b) s

def execMin (o : VOp) (a b : VSrc) (s : State) : Res := vecOp o (vecMap2 f32Min a b) s

def execAbs (o : VOp) (a : VSrc) (s : State) : Res := vecOp o (vecMap1 f32Abs a) s

def execCvt (o : VOp) (a : VSrc) (s : State) : Res := vecOp o (vecMap1 quiet a) s

def execRecip (o : VOp) (a : VSrc) (s : State) : Res := vecOp o (vecMap1 f32Recip a) s

def execRsqrt (o : VOp) (a : VSrc) (s : State) : Res := vecOp o (vecMap1 f32Rsqrt a) s

def execSum (o : VOp) (a : VSrc) (s : State) : Res := vecOp o [f32Sum (vsrcWords a)] s

def execAmax (o : VOp) (a : VSrc) (s : State) : Res := vecOp o [f32Amax (vsrcWords a)] s

/-! ## Tables (R121 to R124) -/

/-- A word of a table slot. -/
def slotWord (c : CoreU) (slot off : Nat) : Word :=
  BitVec.ofNat 32 (leNat ((List.range 4).map fun i => tget 0#8 c.tables (0x1000 * slot + off + i)))

/-- A linear tail; with A zero it is B for every x (R122). -/
def tailValue (a b x : Word) : Word := if a.toNat % 2 ^ 31 = 0 then b else f32Fma a x b

/-- f(x) by R122, and whether the input landed in a tail. -/
def tableValue (c : CoreU) (slot : Nat) (x : Word) : Word × Bool :=
  if isNanF32 x then (0x7FC00000#32, false)
  else
    let w := signed8 (fld (slotWord c slot 0xC04) 7 0)
    let low : Word × Bool := (tailValue (slotWord c slot 0xC08) (slotWord c slot 0xC0C) x, true)
    let high : Word × Bool := (tailValue (slotWord c slot 0xC10) (slotWord c slot 0xC14) x, true)
    match f32ToFv (f32Sub x (slotWord c slot 0xC00)) with
    | .nan => (0x7FC00000#32, false)
    | .inf true => low
    | .inf false => high
    | .fin _ d =>
      let u : Dy := ⟨d.m, d.e - w⟩
      if u.m < 0 then low
      else if dyLe ⟨256, 0⟩ u then high
      else
        let s := dyFloor u
        let t := dyToF32 (dySub u ⟨s, 0⟩)
        let k (j : Nat) : Word := slotWord c slot (12 * s.toNat + 4 * j)
        (f32Fma (f32Fma (k 2) t (k 1)) t (k 0), false)
where
  signed8 (n : Nat) : Int := if n < 128 then Int.ofNat n else Int.ofNat n - 256

/-- Inputs that took a tail are counted (R122). -/
def countTails (k n : Nat) (s : State) : State := modCore s k fun c => { c with tailCnt := satWord c.tailCnt n }

/-- TABLE over a list of inputs (R122). -/
def tableRun (o : VOp) (slot : BitVec 2) (a : VSrc) (s : State) : State :=
  let k := execCore s o.core
  let rs := (vsrcWords a).map (tableValue (core s k) slot.toNat)
  vecWrite o (rs.map (·.1)) (countTails k (rs.countP (·.2)) s)

def execTable (o : VOp) (slot : BitVec 2) (a : VSrc) (s : State) : Res := onUnit 512 o.core s (tableRun o slot a)

/-- TABLE_D: g times the derivative slot at the saved input, rounded once (R123). -/
def tableDRun (o : VOp) (slot : BitVec 2) (xs g : VSrc) (s : State) : State :=
  let k := execCore s o.core
  let rs := (vsrcWords xs).map (tableValue (core s k) slot.toNat)
  vecWrite o (List.zipWith (fun r y => f32Mul y r.1) rs (vsrcWords g)) (countTails k (rs.countP (·.2)) s)

def execTableD (o : VOp) (slot : BitVec 2) (xs g : VSrc) (s : State) : Res := onUnit 512 o.core s (tableDRun o slot xs g)

/-- WADD of one block (R258): the result block is the core's vector result. -/
def waddRun (k : Nat) (sc : BitVec 8) (header : Byte) (codes : List Byte) (own : List Dy) (oh : Byte) (s : State) : State :=
  let k := execCore s k
  let r := waddBlock sc header codes (own.map fun d => Fv.fin (decide (d.m < 0)) d) oh
  modCore s k fun c => { c with
    vecOut := r
    fmtErr := if zb8Bit header 4 then setBit c.fmtErr 0 else c.fmtErr }

def execWadd (core : Nat) (s : BitVec 8) (header : Byte) (codes : List Byte) (own : List Dy) (ownHeader : Byte)
    (st : State) : Res := onUnit 512 core st (waddRun core s header codes own ownHeader)

/-- A reserved operation code is not executed: OP_BAD, and the launch ends malformed (Table 4-10). -/
def opReserved (k launch : Nat) (code : BitVec 6) (s : State) : State :=
  if code.toNat = 0 || 16 ≤ code.toNat then
    stopLaunch launch 0x30 (modCore s (execCore s k) fun c => { c with vecErr := setBit c.vecErr 3 })
  else s

def execVectorOpReserved (core launch : Nat) (code : BitVec 6) (s : State) : Res :=
  onUnit 512 core s (opReserved core launch code)

/-! ## The queues (R120) -/

/-- The core and queue of a vector operation that waits to issue. -/
def vecOpOf : Instr → Option (Nat × VQueue)
  | .add o _ _ | .sub o _ _ | .mul o _ _ | .max o _ _ | .min o _ _ => some (o.core, o.queue)
  | .fma o _ _ _ | .tableD o _ _ _ => some (o.core, o.queue)
  | .abs o _ | .cvt o _ | .recip o _ | .rsqrt o _ | .sum o _ | .amax o _ => some (o.core, o.queue)
  | .table o _ _ => some (o.core, o.queue)
  | .wadd k _ _ _ _ _ => some (k, .waystation)
  | _ => none

/-- The core and slot of a table operation that waits to issue. -/
def tableOpOf : Instr → Option (Nat × Nat)
  | .table o slot _ | .tableD o slot _ _ => some (o.core, slot.toNat)
  | _ => none

/-- The micro-batch of a launch will go through a table slot on the core: its outputs drain there (R124). -/
def drainsTable (s : State) (k : Nat) (l : LaunchS) (slot : Nat) : Bool :=
  (match l.tableSlot with
    | some x => x.toNat == slot
    | none => false)
  && match l.prog[l.pc]? with
    | none => false
    | some e => match layerRec s l.ctx e.layer.toNat with
      | none => false
      | some r => (List.range (lTout r)).any fun o => execCore s (coreOfArray (lFirst r + o * lTin r)) == k

/-- Operations queued on a core (VEC_STAT): the commands that wait for a queue, and one for each micro-batch whose outputs will
go through a table (log entry 52). -/
def queueLen (s : State) (k : Nat) (q : VQueue) : Nat :=
  let cmds := s.pending.countP fun i => match vecOpOf i with
    | some x => execCore s x.1 == k && x.2 == q
    | none => false
  let tabs := if q = .drain then s.launches.countP fun l => (List.range 4).any (drainsTable s k l) else 0
  min 64 (cmds + tabs)

/-- VEC_STAT (Table 4-14). -/
def vecStat (s : State) (k : Nat) : Word :=
  w32 (queueLen s k .update * 2 ^ 16 + queueLen s k .waystation * 2 ^ 8 + queueLen s k .drain)

/-- A TABLE or TABLE_D operation that names the slot is queued on the core (R124). -/
def slotBusy (s : State) (k slot : Nat) : Bool :=
  s.launches.any (drainsTable s k · slot) || s.pending.any fun i => match tableOpOf i with
    | some x => execCore s x.1 == k && x.2 == slot
    | none => false

/-- A write of one word of a slot (R124, Table 4-11). -/
def slotWrite (k slot off : Nat) (v : Word) (s : State) : State :=
  let off := off / 4 * 4
  let w := fld v 7 0
  if 0xC18 ≤ off then s
  else if slotBusy s k slot then modCore s k fun c => { c with vecErr := setBit c.vecErr 2 }
  else if (off == 0xC04 && decide (7 < w) && decide (w < 240)) || (off == 0xC00 && !isFiniteF32 v) then
    modCore s k fun c => { c with vecErr := setBit c.vecErr 1 }
  else
    let v := if off = 0xC04 then w32 w else v
    modCore s k fun c => { c with
      tables := (List.range 4).foldl (fun t i => tset 0#8 t (0x1000 * slot + off + i) ((bytesOfWord v).getD i 0#8)) c.tables }

def execTableSlotWrite (core slot off : Nat) (value : Word) (s : State) : Res :=
  onUnit 512 core s fun s => if slot < 4 then slotWrite core slot off value s else s

/-- VEC_TBL_SUM[s] takes the CRC-32 of slot bytes 0x000 to 0xC17 (R124). -/
def slotSum (k slot : Nat) (s : State) : State :=
  modCore s k fun c => { c with
    tblSum := tset 0#32 c.tblSum slot (crc32 ((List.range 0xC18).map fun i => tget 0#8 c.tables (0x1000 * slot + i))) }

def execTableSumReady (core slot : Nat) (s : State) : Res :=
  onUnit 512 core s fun s => if slot < 4 then slotSum core slot s else s

end Sys2Proof.Machine
end

