-- ==== Sys2Proof/Machine/Engine.lean ====
section
/-! DEFINITION. The matrix engine (spec/04): pass descriptors and their checks, operands and transpose loaders, products and
image builds, the drain, and the power state of an engine. -/

namespace Sys2Proof.Machine

/-! ## The descriptor (Table 4-9) -/

def qw (q : Queued) (i : Nat) : Word := q.words.getD i 0#32

def dKind (q : Queued) : Nat := fld (qw q 0) 31 28
def dLoadA (q : Queued) : Nat := fld (qw q 0) 27 26
def dLoadB (q : Queued) : Nat := fld (qw q 0) 25 24
def dAn (q : Queued) : Nat := fld (qw q 0) 23 21 + 1
def dBn (q : Queued) : Nat := fld (qw q 0) 20 18 + 1
def dTag (q : Queued) : Bool := bit (qw q 0) 17
def dMask (q : Queued) : Bool := bit (qw q 0) 16
def dOut (q : Queued) : Nat := fld (qw q 0) 15 12
def dCtx (q : Queued) : BitVec 4 := BitVec.ofNat 4 (fld (qw q 0) 11 8)
def dTensor (q : Queued) : Nat := fld (qw q 0) 7 0
def dK (q : Queued) : Nat := fld (qw q 1) 19 0
def dAddr (q : Queued) (i : Nat) : Nat := (qw q i).toNat + 2 ^ 32 * fld (qw q (i + 1)) 7 0
def dA (q : Queued) : Nat := dAddr q 2
def dB (q : Queued) : Nat := dAddr q 4
def dDest (q : Queued) : Nat := dAddr q 6
def dKeep (q : Queued) : Nat := (qw q 8).toNat + 2 ^ 32 * (qw q 9).toNat
def dCols (q : Queued) : Nat := fld (qw q 10) 13 7
def dRows (q : Queued) : Nat := fld (qw q 10) 6 0
def dStream (q : Queued) : Bool := dOut q == 2

/-- Destination format of OUT_FMT, stream aside. -/
def dFmt (q : Queued) : VFmt :=
  if dOut q = 0 then .fp32 else if dOut q = 1 then .bf16 else .zq (BitVec.ofNat 3 (dOut q - 8))

/-- Source rows, elements per row and element bytes of an image build (R110). -/
def buildShape (q : Queued) : Nat × Nat × Nat :=
  let b := if 2 ≤ dLoadA q then 4 else 2
  if dLoadA q % 2 = 0 then (dRows q, 32 * dK q, b) else (32 * dK q, dRows q, b)

/-- Bytes of an operand as stored (R414). -/
def operandBytes (n k rows : Nat) (transposed : Bool) : Nat :=
  if transposed then 32 * k * 2 * zqBlockBytes n else rows * k * zqBlockBytes n

/-- Bytes of an output row (R414). -/
def outRowBytes (q : Queued) : Nat :=
  let width := if dKind q = 2 then 32 * dK q else dCols q
  match dFmt q with
  | .fp32 => 4 * width
  | .bf16 => 2 * width
  | .zq nm1 => (width + 31) / 32 * zqBlockBytes (nm1.toNat + 1)

def outBytes (q : Queued) : Nat := if dStream q then 0 else dRows q * outRowBytes q

/-- Stride of a build's source rows. -/
def buildStride (q : Queued) : Nat := if dB q = 0 then (buildShape q).2.1 * (buildShape q).2.2 else dB q

/-- Bytes from the first to the last byte of a build's source. -/
def buildSpan (q : Queued) : Nat :=
  let (rows, len, b) := buildShape q
  if rows = 0 then 0 else (rows - 1) * buildStride q + len * b

/-- The ranges that a descriptor reads (R414). -/
def readRanges (q : Queued) : List Range :=
  if dKind q = 1 then
    [(dA q, operandBytes (dAn q) (dK q) (dRows q) (dLoadA q == 1)), (dB q, operandBytes (dBn q) (dK q) (dCols q) (dLoadB q == 1))]
  else
    let (rows, len, b) := buildShape q
    (List.range rows).map fun r => (dA q + r * buildStride q, len * b)

/-- An operand of a product lies in the scratch of its own core or the store of its own cluster, and ends in it (R104, R116). -/
def sourceOk (s : State) (k a n : Nat) : Bool :=
  (areaOf a == .scratch k || areaOf a == .store (clusterOfCore k)) && !overruns s a n

/-- A reserved code or field of the descriptor, or a size out of range (R116, Table 4-9). -/
def formBad (q : Queued) : Bool :=
  let kind := dKind q
  q.words.length != 12 || (kind != 1 && kind != 2)
    || decide (64 < dRows q) || dRows q = 0 || dK q = 0
    || (decide (3 ≤ dOut q) && decide (dOut q ≤ 7))
    || fld (qw q 1) 31 20 != 0 || fld (qw q 3) 31 8 != 0 || fld (qw q 5) 31 8 != 0 || fld (qw q 7) 31 8 != 0
    || fld (qw q 10) 31 14 != 0 || qw q 11 != 0#32
    || (kind == 1 && (decide (1 < dLoadA q) || decide (1 < dLoadB q) || dCols q = 0 || decide (64 < dCols q)))
    || (kind == 2 && (decide (dOut q < 8) ||
        (dB q != 0 && decide (dB q < (buildShape q).2.1 * (buildShape q).2.2))))

/-- A range of the descriptor lies outside its sources or overruns its region (R116). -/
def rangesBad (s : State) (k : Nat) (q : Queued) : Bool :=
  (if dKind q = 1 then (readRanges q).any fun r => !sourceOk s k r.1 r.2 else overruns s (dA q) (buildSpan q))
    || (!dStream q && overruns s (dDest q) (outBytes q))

/-- The ranges of an accepted descriptor are performed under R23; otherwise its pass is discarded (Table 4-6). -/
def rangesLive (s : State) (q : Queued) : Bool :=
  rangesOk s (readRanges q) && (dStream q || rangeOk s false (dDest q) (outBytes q))

/-- The caravan, slice and tile of a stream pass, when R254 allows it. -/
def streamTarget (s : State) (k : Nat) (l : LaunchS) (q : Queued) : Option (Caravan × Nat × Nat) :=
  let t := fld (qw q 6) 23 0
  match findCv s (dCtx q) (BitVec.ofNat 8 (fld (qw q 7) 7 0)) l.epoch with
  | none => none
  | some v =>
    match layerRec s v.ctx v.layer.toNat, sliceOf v l.number with
    | some r, some j =>
      let r0 := 64 * (t / max 1 (tileCols v))
      let c0 := 64 * (t % max 1 (tileCols v))
      if fld (qw q 6) 31 24 = 0 && decide (t < tileCount v) && homeExec s r v t == k
          && dRows q == min 64 (v.rows - r0) && dCols q == min 64 (v.cols - c0) && v.state != 3#3
      then some (v, j, t) else none
    | _, _ => none

/-- A bad descriptor: DESC_BAD, and the launch ends malformed (R116). -/
def descBad (k uid : Nat) (s : State) : State :=
  stopLaunch uid 0x30 (modCore s k fun c => { c with engErr := setBit c.engErr 5 })

/-! ## The queue (R108, R116) -/

/-- ENG_PASSQ has a place; a pass that waits for its re-read keeps one. -/
def queueRoom (c : CoreU) : Bool := decide (c.passq.length + c.retry.isSome.toNat < 8)

/-- A descriptor enters the queue of the core, or of the substitute of a fenced core; a bad one ends the launch. -/
def enqueueDesc (uid k : Nat) (words : List Word) (s : State) : State :=
  match findLaunch s uid with
  | none => s
  | some l =>
    let k := execCore s k
    let q : Queued := ⟨uid, words, false⟩
    if l.state != .running then s
    else if formBad q || rangesBad s k q || guarded s (dDest q) (outBytes q) then descBad k uid s
    else if queueRoom (core s k) then
      modCore s k fun c => { c with passq := c.passq ++ [q] }
    else s

def execDescriptorEnqueue (launch core : Nat) (words : List Word) (s : State) : Res :=
  onUnit 512 core s (enqueueDesc launch core words)

/-- The notice of engines that leave idle: 3.2 A a core; engines of one cluster whose notice is not yet sent share it
(R108, Table 12-3). -/
def wakeNotice (c : Nat) (s : State) : State :=
  let amps := 26
  match s.pwr.notices.find? fun n => fld n.frame 31 30 == 0 && fld n.frame 29 27 == 0 && fld n.frame 26 21 == c with
  | some old =>
    let new := { old with frame := noticeFrame 0 0 c (fld old.frame 20 8 + amps) }
    modPwr s fun p => { p with notices := p.notices.map fun n => if n = old then new else n }
  | none => notice 4 (noticeFrame 0 0 c amps) s

/-- An idle engine asks for its notice and waits for it. -/
def askNotice (k : Nat) (s : State) : State :=
  if (core s k).power = 0#2 then
    wakeNotice (clusterOfCore k) (modCore s k fun c => { c with power := 1#2, wakeAt := none })
  else s

def wakeEngine (k : Nat) (s : State) : State := if (core s k).passq.isEmpty then s else askNotice k s

def execEngineWake (core : Nat) (s : State) : Res := onUnit 512 core s (wakeEngine core)

/-- The engine runs, or its notice was sent at least 2 µs ago: 313 rack ticks (R108). -/
def engineAwake (s : State) (k : Nat) : Bool :=
  let c := core s k
  c.power == 2#2 || (c.power == 1#2 && match c.wakeAt with
    | some t => decide (t + 313 ≤ s.rack.toNat)
    | none => false)

/-- Every engine of a phase may issue a valid slot; otherwise the idle ones ask for their notices and the phase waits. -/
def enginesAwake (s : State) (ks : List Nat) : Bool := ks.all (engineAwake s)

def askNotices (ks : List Nat) (s : State) : State := ks.foldl (fun s k => askNotice k s) s

/-- No valid slot for 2^IDLE_LOG2 cycles (R108). -/
def idleEngine (k : Nat) (s : State) : State :=
  if (core s k).stream.isNone then modCore s k fun c => { c with power := 0#2, wakeAt := none } else s

def execEngineIdle (core : Nat) (s : State) : Res := onUnit 512 core s (idleEngine core)

/-- A pass leaves the queue, discarded (R106). -/
def dropHead (k : Nat) (s : State) : State :=
  modCore s k fun c => { c with passq := c.passq.drop 1, engErr := setBit c.engErr 4 }

/-- A consumer's check of operand groups mismatched: BLOCK_CHECK, and the pass waits for the re-read; a second mismatch of a
retried pass is an event of the core (R114, R274, Table 10-4). -/
def checkFailed (k : Nat) (q : Queued) (s : State) : State :=
  let s := relErr 1 (dropHead k s)
  let s := modCore s k fun c => { c with retry := some q, engErr := setBit c.engErr 7 }
  if q.retried then coreEvent k s else s

/-- R101 holds the next pass back: the pass two places earlier has its first row still to be taken, or a row held. Once row 0 is
taken every other row is taken by the cycle in which the new pass reaches it, unless the destination holds one. -/
def accHeld (c : CoreU) : Bool :=
  match c.drain.reverse with
  | _ :: p :: _ => p.row == 0 || p.held
  | _ => false

/-- Drain bubbles, in units of 256 (R105). -/
def drainBubbles (n : Nat) (c : CoreU) : CoreU :=
  { c with drainCnt := satWord c.drainCnt ((c.drainSub + n) / 256), drainSub := (c.drainSub + n) % 256 }

/-- Feed bubbles, in units of 256 (R105). -/
def feedBubbles (n : Nat) (c : CoreU) : CoreU :=
  { c with feedCnt := satWord c.feedCnt ((c.feedSub + n) / 256), feedSub := (c.feedSub + n) % 256 }

/-- The bytes of a check group of an operand side, counted in stored order (R130). -/
def sideGroup (q : Queued) (side : Bool) (g : Nat) : Range :=
  if dKind q = 1 then
    let a := if side then dB q else dA q
    let w := zqBlockBytes (if side then dBn q else dAn q)
    if (if side then dLoadB q else dLoadA q) = 1 then (a + g * 2 * w, 2 * w)
    else
      let per := (dK q + 31) / 32
      let b := 32 * (g % max 1 per)
      (a + (g / max 1 per * dK q + b) * w, min 32 (dK q - b) * w)
  else
    let (_, len, b) := buildShape q
    let per := (len + 1023) / 1024
    let c := 1024 * (g % max 1 per)
    (dA q + g / max 1 per * buildStride q + c * b, min 1024 (len - c) * b)

/-- The groups of a pass's operands whose elements are invalid: those whose entries hold a reserved bit in memory, and the one
that the reader met so (Table 5-3). -/
def badRanges (s : State) (q : Queued) (check : CheckSeen) : List Range :=
  reservedIn s (readRanges q) ++ match check with
    | .hdrBad side g => [sideGroup q side g]
    | _ => []

/-- The first valid slot of the pass at the head of the queue enters (R101). The descriptor is checked again, and the first
stream pass starts its caravan (R167, R251). -/
def issuePass (k : Nat) (check : CheckSeen) (s : State) : State :=
  let c := core s k
  match c.passq with
  | [] => s
  | q :: rest =>
    match findLaunch s q.launch with
    | none => modCore s k fun c => { c with passq := rest }
    | some l =>
      if c.stream.isSome || !engineAwake s k || coreFenced s k || !regionOn (digState s (clusterOfCore k)) then s
      else if accHeld c then
        -- a held row's cycle was counted when the row was offered
        if c.drain.any (·.held) then s else modCore s k (drainBubbles 1)
      else
        let n := BitVec.ofNat 8 (fld (qw q 7) 7 0)
        if dStream q && !formBad q && !rangeOk s false (cvEntry s n l.epoch) 128 then
          stopLaunch q.launch 0x51 (dropHead k s)
        else
          let s := if dStream q && !formBad q then
              modCv (startCaravan (dCtx q) n l.epoch s) (dCtx q) n l.epoch fun v =>
                { v with interval := v.interval || isInterval l }
            else s
          if formBad q || rangesBad s k q || guarded s (dDest q) (outBytes q)
              || (dStream q && (streamTarget s k l q).isNone) then
            descBad k q.launch (modCore s k fun c => { c with passq := rest })
          else if !rangesLive s q then
            -- accepted before, refused now: the launch ends as R409 gives (Table 4-6)
            stopLaunch q.launch 0x51 (dropHead k s)
          else
            let s := spoil check (readRanges q) s
            match checkRanges s check (readRanges q) with
            | .clean =>
              let bad := badRanges s q check
              let wb := windowBase (entryOf s k (dTensor q)) (fmtEpoch s l)
              modCore (noteIssue k q.launch s) k fun c => { c with
                passq := rest, power := 2#2, wakeAt := none, stream := some ⟨q, [], bad, wb.1, wb.2, 0, false⟩
                fmtErr := putBit c.fmtErr 0 (bit c.fmtErr 0 || !bad.isEmpty) }
            | _ => checkFailed k q s

def execPassIssue (core : Nat) (check : CheckSeen) (s : State) : Res := onUnit 512 core s (issuePass core check)

/-- The mismatched group is read once more (R274): memory, and what the reader met on the way. -/
def rereadGroup (k : Nat) (seen : CheckSeen) (s : State) : State :=
  match (core s k).retry with
  | none => s
  | some q =>
    let s := spoil seen (readRanges q) (modCore s k fun c => { c with retry := none })
    if checkRanges s seen (readRanges q) != .clean then
      modLaunch (atRest (dCtx q) s) q.launch fun l => { l with state := .stopped }
    else coreEvent k (modCore (rereadOk s) k fun c => { c with passq := { q with retried := true } :: c.passq })

def execGroupReread (core : Nat) (seen : CheckSeen) (s : State) : Res := onUnit 512 core s (rereadGroup core seen)

/-! ## Operands (R97, R109, R414) -/

/-- An operand row: its blocks in reduction order. -/
abbrev OpRow := List ZqBlock

/-- Rows of a direct operand. -/
def directRows (s : State) (bad : List Range) (a n k rows : Nat) : List OpRow :=
  (List.range rows).map fun r => readBlocks s bad n (a + r * k * zqBlockBytes n) k

/-- One new block of a transpose loader: 32 source elements of one column, decoded exactly and blocked anew (R109). -/
def reblock (n : Nat) (vals : List (Option Int × Nat)) : ZqBlock × Nat :=
  let pv (x : Option Int × Nat) : Pv := match x.1 with
    | some c => { v := .fin (decide (c < 0)) (zqValue n x.2 c) }
    | none => { v := .nan, invalid := true }
  let r := encodeBlock n none false (vals.map pv)
  (r.1, r.2.inexact)

/-- Rows of a transposed operand, and the elements that rounding changed (R109). -/
def transposedRows (s : State) (bad : List Range) (a n k : Nat) : List OpRow × Nat :=
  let src := (List.range (32 * k)).map fun t => readBlocks s bad n (a + t * 2 * zqBlockBytes n) 2
  let elt (t c : Nat) : Option Int × Nat :=
    let b := (src.getD t []).getD (c / 32) ⟨255, []⟩
    (b.codes.getD (c % 32) none, b.e)
  let rows := (List.range 64).map fun c => (List.range k).map fun b =>
    reblock n ((List.range 32).map fun i => elt (32 * b + i) c)
  (rows.map fun r => r.map (·.1), (rows.map fun r => (r.map (·.2)).foldl (· + ·) 0).foldl (· + ·) 0)

/-- An operand side: its rows, the count of changed elements. -/
def operandRows (s : State) (bad : List Range) (a n k rows : Nat) (tr : Bool) : List OpRow × Nat :=
  if tr then transposedRows s bad a n k else (directRows s bad a n k rows, 0)

/-! ## A product (R95 to R98) -/

/-- Exact sum of the products of two blocks' codes; none when an element is invalid (R97, R98). -/
def blockDot (a b : ZqBlock) : Option Int :=
  (List.zip a.codes b.codes).foldl (fun acc x => match acc, x.1, x.2 with
    | some n, some c, some d => some (n + c * d)
    | _, _, _ => none) (some 0)

/-- One output: the blocks folded in ascending order at the window base (R97, R149). -/
def dotRow (na nb : Nat) (base : Int) (a b : OpRow) (acc : Acc) : Acc :=
  (List.zip a b).foldl (fun acc x =>
    match blockDot x.1 x.2 with
    | some p => acc.fold base p (Int.ofNat x.1.e - 126 - Int.ofNat na + (Int.ofNat x.2.e - 126 - Int.ofNat nb))
    | none => { acc with invalid := true }) acc

/-- Slots per block of the cell mode of the wider operand (Table 4-1). -/
def slotsPerBlock (n : Nat) : Nat := if 5 ≤ n then 32 else if 3 ≤ n then 8 else if n = 2 then 4 else 2

/-- Zero-gated product lanes of one pair of blocks (R107). -/
def gatedLanes (a b : ZqBlock) : Nat :=
  (List.zip a.codes b.codes).countP fun x => match x.1, x.2 with
    | some c, some d => c == 0 || d == 0
    | _, _ => false

def keepsRow (q : Queued) (i : Nat) : Bool := !dMask q || dKeep q / 2 ^ i % 2 == 1

/-- The counters of a pass: valid slots in units of 256, gated lanes in units of 2^20 (Table 4-13). -/
def countPass (slots gated : Nat) (c : CoreU) : CoreU :=
  let v := c.validSub + slots
  let g := c.gatedSub + if bit c.engCfg 0 then gated else 0
  { c with
    validCnt := satWord c.validCnt (v / 256), validSub := v % 256
    gatedCnt := satWord c.gatedCnt (g / 2 ^ 20), gatedSub := g % 2 ^ 20 }

/-- What the products of an engine showed (R98, R107, R109, R115, Table 5-3). -/
structure EngWork where
  slots    : Nat := 0
  gated    : Nat := 0
  inexact  : Nat := 0
  invalid  : Bool := false
  poison   : Bool := false
  reserved : Bool := false
  deriving DecidableEq, Repr

def EngWork.join (a b : EngWork) : EngWork :=
  ⟨a.slots + b.slots, a.gated + b.gated, a.inexact + b.inexact, a.invalid || b.invalid, a.poison || b.poison,
    a.reserved || b.reserved⟩

/-- The work enters the counters and error bits of its engine, which runs. -/
def engineWork (k : Nat) (w : EngWork) (s : State) : State :=
  modCore s k fun c => countPass w.slots w.gated { c with
    power := 2#2, wakeAt := none
    engErr := putBit (putBit (putBit c.engErr 3 (bit c.engErr 3 || w.invalid)) 8 (bit c.engErr 8 || w.inexact != 0)) 6
      (bit c.engErr 6 || w.poison)
    fmtErr := putBit c.fmtErr 0 (bit c.fmtErr 0 || w.reserved) }

/-- Slots of the passes that tile rows × cols outputs, 64 × 64 at a time, over k blocks (R95, R96). -/
def tileSlots (rows cols k n : Nat) : Nat := (rows + 63) / 64 * ((cols + 63) / 64) * k * slotsPerBlock n

/-- The accumulators of a pass, and what its engine showed. -/
def computePass (s : State) (q : Queued) (bad : List Range) (base : Int) (poison : Bool) : List (List Acc) × EngWork :=
  let k := dK q
  let a := operandRows s bad (dA q) (dAn q) k (dRows q) (dLoadA q == 1)
  let b := operandRows s bad (dB q) (dBn q) k (dCols q) (dLoadB q == 1)
  let rows := (List.range (dRows q)).map fun i =>
    if keepsRow q i then (List.range (dCols q)).map fun j =>
      dotRow (dAn q) (dBn q) base (a.1.getD i []) (b.1.getD j []) { Acc.zero with poison := poison }
    else []
  let gated := (List.range (dRows q)).foldl (fun n i =>
    if keepsRow q i then (List.range (dCols q)).foldl (fun n j =>
      n + ((List.zip (a.1.getD i []) (b.1.getD j [])).map fun x => gatedLanes x.1 x.2).foldl (· + ·) 0) n
    else n) 0
  (rows, { slots := k * slotsPerBlock (max (dAn q) (dBn q)), gated := if dAn q = 1 && dBn q = 1 then 0 else gated
           inexact := a.2 + b.2, invalid := rows.any fun r => r.any (·.invalid), poison := poison, reserved := !bad.isEmpty })

/-- The end of the streaming of a product pass, in which its sources caused some bubbles: its accumulators wait for the drain
(R95, R101, R105, R115). -/
def productPass (k bubbles : Nat) (s : State) : State :=
  match (core s k).stream with
  | none => s
  | some p =>
    let q := p.job
    match findLaunch s q.launch with
    | none => modCore s k fun c => { c with stream := none }
    | some l =>
      if dKind q != 1 then s
      else if !rangesLive s q then
        stopLaunch q.launch 0x51 (modCore s k fun c => { c with stream := none, engErr := setBit c.engErr 4 })
      else
        let poison := rangesPoisoned s (readRanges q)
        let (rows, work) := computePass s q p.bad p.base poison
        let done : Pass := { p with acc := rows }
        let s := engineWork k work (noteIssue k q.launch (modCore s k fun c => feedBubbles bubbles { c with stream := none }))
        let s := if dStream q then noteInexact l k (dTensor q) work.inexact s
          else if !mayWrite (entryOf s k (dTensor q)) l then s
          else account l k (dTensor q) { inexact := work.inexact, hmiss := p.missed } s
        let s := if poison then terminateCtx l.ctx (relErr 8 s) else s
        modCore s k fun c => { c with drain := c.drain ++ [done] }

def execProductPass (core bubbles : Nat) (s : State) : Res := onUnit 512 core s (productPass core bubbles)

/-! ## Image builds (R110) -/

/-- Source value of a build: element c of source row r; one in a bad group is invalid (Table 5-3). -/
def buildValue (s : State) (bad : List Range) (src stride b r c : Nat) : Pv :=
  let a := src + r * stride + c * b
  if anyMeets bad a b then { v := .nan, invalid := true }
  else if b = 4 then { v := f32ToFv (readWord s a) } else { v := f32ToFv (bf16ToF32 (BitVec.ofNat 16 (readNat s a 2))) }

/-- One block of an image: where it goes, its values, and the marks of the groups they come from. -/
structure ImageBlock where
  addr  : Nat
  vals  : List Pv
  marks : Marks
  deriving DecidableEq, Repr

/-- A KIND 0x2 descriptor's image, block by block (R110). Table 4-9 does not say that MASK is ignored for KIND 0x2, and R113 speaks
of passes that compute: the model builds every row whatever MASK and ROW_KEEP hold (DESIGN CHOICE, log entry 52). -/
def buildOutput (s : State) (q : Queued) (bad : List Range) : List ImageBlock :=
  let (rows, len, b) := buildShape q
  let straight := dLoadA q % 2 = 0
  let m := markedIn s (readRanges q)
  let n := dOut q - 7
  let lines := if straight then rows else len
  let width := if straight then len else rows
  (List.range lines).flatMap fun r => (List.range ((width + 31) / 32)).map fun g =>
    let cs := (List.range (min 32 (width - 32 * g))).map (32 * g + ·)
    let src (c : Nat) : Nat × Nat := if straight then (r, c) else (c, r)
    ⟨dDest q + (r * ((width + 31) / 32) + g) * zqBlockBytes n,
      cs.map fun c => buildValue s bad (dA q) (buildStride q) b (src c).1 (src c).2,
      cs.foldl (fun x c => x.join (m.at (dA q + (src c).1 * buildStride q + (src c).2 * b) b)) {}⟩

/-- The blocks of an image are converted by the block rule at width n and stored, with the marks they take over and their own
(R110, R131, R137). -/
def storeImage (l : LaunchS) (k t n : Nat) (dig poison : Bool) (bs : List ImageBlock) (s : State) : State :=
  bs.foldl (fun s b =>
    let r := encodeBlock n none dig b.vals
    account l k t r.2 (storeMarked s b.addr (zqBytes n r.1) poison (b.marks.join ⟨dig, r.2.satGroup⟩))) s

/-- The end of an image build: the image is written (R110). -/
def imageBuild (k : Nat) (s : State) : State :=
  match (core s k).stream with
  | none => s
  | some p =>
    let q := p.job
    match findLaunch s q.launch with
    | none => modCore s k fun c => { c with stream := none }
    | some l =>
      if dKind q != 2 then s
      else
        let s := noteIssue k q.launch (modCore s k fun c => { c with stream := none })
        if !rangesLive s q then
          stopLaunch q.launch 0x51 (modCore s k fun c => { c with engErr := setBit c.engErr 4 })
        else if !mayWrite (entryOf s k (dTensor q)) l then ownerConflict k q.launch s
        else
          let poison := rangesPoisoned s (readRanges q)
          let s := storeImage l k (dTensor q) (dOut q - 7) (dTag q) poison (buildOutput s q p.bad) s
          let s := engineWork k { poison := poison } s
          if poison then terminateCtx l.ctx (relErr 8 s) else s

def execImageBuild (core : Nat) (s : State) : Res := onUnit 512 core s (imageBuild core)

/-! ## The drain (R100, R105, R148) -/

/-- The pass at the head of the drain has given its last row, or is abandoned. -/
def popDrain (k : Nat) (s : State) : State := modCore s k fun c => { c with drain := c.drain.drop 1 }

/-- Bytes of 32 outputs in a format. -/
def groupBytes : VFmt → Nat
  | .fp32 => 128
  | .bf16 => 64
  | .zq nm1 => zqBlockBytes (nm1.toNat + 1)

/-- A row of a product written to its destination through its entry, 32 outputs at a time (R148, R156). -/
def drainWrite (k : Nat) (p : Pass) (l : LaunchS) (row : List Acc) (s : State) : State :=
  let q := p.job
  if !mayWrite (entryOf s k (dTensor q)) l then ownerConflict k l.uid (popDrain k s)
  else
    let a := dDest q + p.row * outRowBytes q
    if guarded s a (outRowBytes q) then descBad k l.uid (popDrain k s)
    else if !rangeOk s false a (outRowBytes q) then
      stopLaunch l.uid 0x51 (modCore (popDrain k s) k fun c => { c with engErr := setBit c.engErr 4 })
    else
      let poison := row.any (·.poison)
      let vs := chunks 32 (row.map (Acc.present p.base false))
      (List.range vs.length).foldl (fun s g =>
        (writeGroup l k (dTensor q) (dFmt q) (dTag q) (a + g * groupBytes (dFmt q)) (vs.getD g []) false poison s).2) s

/-- Row i of an operand side takes bytes of some marked group (R131). -/
def rowMarked (q : Queued) (marked : List Range) (side : Bool) (i : Nat) : Bool :=
  let a := if side then dB q else dA q
  let w := zqBlockBytes (if side then dBn q else dAn q)
  if (if side then dLoadB q else dLoadA q) = 1 then
    (List.range (32 * dK q)).any fun t => anyMeets marked (a + (2 * t + i / 32) * w) w
  else anyMeets marked (a + i * dK q * w) (dK q * w)

/-- A row of a stream pass enters its tile's contribution (R254, R255); DIGITAL comes with the pass's tag or with a group of its
operands that is marked (R131, R256). -/
def drainStream (k : Nat) (p : Pass) (l : LaunchS) (row : List Acc) (s : State) : State :=
  match streamTarget s k l p.job with
  | none => s
  | some (v, j, t) =>
    let vals := row.map fun x => if x.invalid then none else some (⟨x.a, p.base⟩ : Dy)
    let marked := groupRanges s (·.marks.digital) (readRanges p.job)
    let dig (b : Nat) : Bool := dTag p.job || rowMarked p.job marked false p.row
      || (List.range (min 32 (dCols p.job - 32 * b))).any fun i => rowMarked p.job marked true (32 * b + i)
    contributeRow k l.uid v j t p.row vals (fun b => zb8Header 0 (row.any (·.poison)) (dig b) false false) s

/-- The drain offers the next row of the oldest pass: the destination takes it, or the drain holds it (R100, R105). A pass
that waits behind a held drain is counted in drain bubbles, one an offer. -/
def drainRow (k : Nat) (accept : Bool) (s : State) : State :=
  let c := core s k
  match c.drain with
  | [] => s
  | p :: rest =>
    if !accept then
      let wait := !c.passq.isEmpty && decide (2 ≤ c.drain.length)
      modCore s k fun c => drainBubbles wait.toNat { c with drain := { p with held := true } :: rest }
    else
      let q := p.job
      let s := noteIssue k q.launch s
      let s := modCore s k fun c => { c with drain := { p with row := p.row + 1, held := false } :: rest }
      let row := p.acc.getD p.row []
      let last := decide (63 ≤ p.row)
      let s := match findLaunch s q.launch with
        | none => s
        | some l =>
          if row.isEmpty then s
          else if dStream q then drainStream k p l row s else drainWrite k p l row s
      if !last then s
      else
        let s := match findLaunch s q.launch with
          | some l => match streamTarget s k l q with
            | some (v, j, t) => if dStream q then countContribution v j t s else s
            | none => s
          | none => s
        modCore s k fun c => { c with drain := c.drain.filter fun x => !(x.job == q && x.row == 64) }

def execDrainRowTake (core : Nat) (accept : Bool) (s : State) : Res := onUnit 512 core s (drainRow core accept)

/-! ## The self-test of a core (R290) -/

/-- The self-test starts in an idle gap. -/
def startSelfTest (k : Nat) (s : State) : State :=
  let c := core s k
  if c.testDue && c.stream.isNone && c.passq.isEmpty && c.drain.isEmpty then
    modCore s k fun c => { c with testDue := false, testing := true }
  else s

def execCoreSelfTest (core : Nat) (s : State) : Res := onUnit 512 core s (startSelfTest core)

/-- The core is in its fence's retest of UNIT_CLEAR. -/
def inRetest (s : State) (k : Nat) : Bool := s.host.running.any fun r => r.task == .retest 1#4 k

/-- The self-test ends: a failure makes the core permanent and fences it; UNIT_CLEAR's retest returns the core or not
(R290, R291). -/
def endSelfTest (k : Nat) (pass : Bool) (s : State) : State :=
  if !(core s k).testing then s
  else
    let s := modCore s k fun c => { c with testing := false }
    if inRetest s k then
      if pass then
        let s := modRel s fun r => { r with coreFence := clrBit r.coreFence k, subst := tset k r.subst k k }
        let s := (List.range 8).foldl (fun s i =>
          if isPermanent s 2#4 (8 * k + i) then s
          else
            let s := modArr s (8 * k + i) fun u => { u with state := clrBit u.state 17 }
            if arrayWriting s (8 * k + i) && (arr s (8 * k + i)).write.isNone then exitRule (8 * k + i) s else s) s
        retestDone 1#4 k true (countUnits s)
      else if coreFenced s k then retestDone 1#4 k false (setPermanent 1#4 k s)
      else fenceCore k s
    else if pass then s else fenceCore k s

def execCoreSelfTestEnd (core : Nat) (pass : Bool) (s : State) : Res := onUnit 512 core s (endSelfTest core pass)

end Sys2Proof.Machine
end

