-- ==== Sys2Proof/Machine/Phases.lean ====
section
/-! DEFINITION. The program of a launch (spec/06): its entries in order, forward and backward products, weight gradients,
image builds, the job's own passes, tallies, PUT, the stash, and the end of a launch. -/

namespace Sys2Proof.Machine

/-! ## The program (R169) -/

/-- The running launch and the entry it works on, when that entry has the phase. -/
def atPhase (s : State) (uid ph : Nat) : Option (LaunchS × Prog) :=
  match findLaunch s uid with
  | none => none
  | some l =>
    match l.prog[l.pc]? with
    | none => none
    | some e => if l.state = .running && e.phase.toNat = ph then some (l, e) else none

/-- The entry is done: the next one follows. -/
def nextEntry (uid : Nat) (s : State) : State :=
  modLaunch s uid fun l => { l with
    pc := l.pc + 1, mb := 0, asked := false, tableSlot := none, gather := [], placed := 0 }

/-- A micro-batch of the entry is done. -/
def nextBatch (uid : Nat) (e : Prog) (s : State) : State :=
  match findLaunch s uid with
  | none => s
  | some l =>
    if l.mb + 1 < e.mbCount.toNat then
      modLaunch s uid fun l => { l with mb := l.mb + 1, asked := false, tableSlot := none, gather := [] }
    else nextEntry uid s

/-- A pass of the launch is queued, streams or drains. -/
def hasPasses (s : State) (uid : Nat) : Bool :=
  s.cores.any fun c => c.2.passq.any (fun q => q.launch == uid) || c.2.drain.any (fun p => p.job.launch == uid)
    || (match c.2.stream with
        | some p => p.job.launch == uid
        | none => false)
    || (match c.2.retry with
        | some q => q.launch == uid
        | none => false)

/-- The layer of the entry, once its apply has ended (Table 6-6). -/
def readyLayer (s : State) (l : LaunchS) (e : Prog) : Option Layer :=
  match layerRec s l.ctx e.layer.toNat with
  | some r => if r.st.applying then none else some r
  | none => none

/-- Micro-batch in work. -/
def batchOf (l : LaunchS) (e : Prog) : Nat := e.mbFirst.toNat + l.mb

/-! ## Stash (R175) -/

/-- What a slot that no TRAIN launch has named holds: a base that no manifest can carry. -/
def noSlot : W64 × Word × Word := (0xFFFFFFFFFFFFFFFF#64, 0#32, 0#32)

/-- Size per micro-batch in KiB, quota in KiB and base of a slot. -/
def slotOfLaunch (s : State) (l : LaunchS) : W64 × Word × Word := tget noSlot (ctxU s l.ctx).slots l.slot.toNat

def stashKib (s : State) (l : LaunchS) : Nat := (slotOfLaunch s l).2.2.toNat
def stashQuotaKib (s : State) (l : LaunchS) : Nat := (slotOfLaunch s l).2.1.toNat * 1024
def stashBase (s : State) (l : LaunchS) : Nat := (slotOfLaunch s l).1.toNat

def holdsStash (s : State) (l : LaunchS) (m : Nat) : Bool :=
  stashKib s l == 0 || (ctxU s l.ctx).resv.any fun r => r.slot == l.slot.toNat && r.mb == m

/-- KiB of a slot's quota in use. -/
def stashUsed (s : State) (c : BitVec 4) (slot : Nat) : Nat :=
  (ctxU s c).resv.countP (fun r => r.slot == slot) * (tget noSlot (ctxU s c).slots slot).2.2.toNat

/-- The slot reserves stash for the micro-batch of the FORWARD entry in work, once enough is free. -/
def reserveStash (uid : Nat) (s : State) : State :=
  match atPhase s uid 1 with
  | none => s
  | some (l, e) =>
    let m := batchOf l e
    if l.kind != 1#4 || holdsStash s l m || stashQuotaKib s l < stashUsed s l.ctx l.slot.toNat + stashKib s l then s
    else modCtx s l.ctx fun x => { x with resv := x.resv ++ [⟨l.slot.toNat, m, uid⟩] }

def execStashReserve (launch : Nat) (s : State) : Res := .next (reserveStash launch s)

/-- The launch has still to run some entry for a micro-batch. -/
def entryLeft (x : LaunchS) (want : Prog → Bool) (m : Nat) : Bool :=
  (List.range x.prog.length).any fun i =>
    match x.prog[i]? with
    | some e => want e && decide (x.pc ≤ i) && decide (m < e.mbFirst.toNat + e.mbCount.toNat)
        && decide ((if i = x.pc then batchOf x e else e.mbFirst.toNat) ≤ m)
    | none => false

/-- The TRAIN launches of the launch's slot and epoch that have not ended. -/
def slotLaunches (s : State) (l : LaunchS) : List LaunchS :=
  s.launches.filter fun x => x.ctx == l.ctx && x.slot == l.slot && x.kind == 1#4 && x.epoch == l.epoch && inFlight x

/-- Some launch of the slot still has a WEIGHT_GRAD of the micro-batch to run. -/
def gradLeft (s : State) (l : LaunchS) (m : Nat) : Bool :=
  (slotLaunches s l).any fun x => entryLeft x (fun e => e.phase == 3#4) m

/-- Another launch of the slot still has the FORWARD of the micro-batch on the layer to run (Table 6-6). -/
def forwardLeft (s : State) (l : LaunchS) (layer : BitVec 12) (m : Nat) : Bool :=
  (slotLaunches s l).any fun x => x.uid != l.uid && entryLeft x (fun e => e.phase == 1#4 && e.layer == layer) m

/-- The reservation is released after the last WEIGHT_GRAD of the micro-batch in the slot. -/
def releaseBatch (l : LaunchS) (m : Nat) (s : State) : State :=
  if gradLeft s l m then s
  else modCtx s l.ctx fun x => { x with resv := x.resv.filter fun r => !(r.slot == l.slot.toNat && r.mb == m) }

/-- Place of a layer's stashed input within a slot's stash: by micro-batch, then by layer in the launch's order. The spec
gives no layout (log entry 14). -/
def stashAddr (s : State) (l : LaunchS) (layer : Nat) (m : Nat) (f : FwdForm) : Nat :=
  let kib := stashKib s l
  let places := if kib = 0 then 1 else max 1 (stashQuotaKib s l / kib)
  let before := (l.layers.map (·.toNat)).takeWhile (· != layer)
  let bytes := before.foldl (fun n k => match layerRec s l.ctx k with
    | some r => n + f.tokens * ((lIn r + 31) / 32 * zqBlockBytes (f.stashN.toNat + 1))
    | none => n) 0
  stashBase s l + m % places * kib * 1024 + bytes

/-! ## The order of ready passes (R176) -/

/-- The lowest-numbered core of a cluster that is not fenced. -/
def lowestCore (s : State) (c : Nat) : Option Nat := ((List.range 16).map (16 * c + ·)).find? fun k => !coreFenced s k

def scratchOf (a : Nat) : Option Nat :=
  match areaOf a with
  | .scratch k => some k
  | _ => none

def storeOf (a : Nat) : Option Nat :=
  match areaOf a with
  | .store c => some c
  | _ => none

/-- The core that runs a descriptor, chosen by its addresses (R410). -/
def chooseCore (s : State) (l : LaunchS) (q : Queued) : Option Nat :=
  if dKind q = 1 then
    (scratchOf (dA q)).orElse fun _ => (scratchOf (dB q)).orElse fun _ =>
      match storeOf (dA q), storeOf (dB q) with
      | some a, some b => if a = b then lowestCore s a else none
      | _, _ => none
  else
    (scratchOf (dDest q)).orElse fun _ => (scratchOf (dA q)).orElse fun _ =>
      match storeOf (dDest q) with
      | some c => lowestCore s c
      | none => ((List.range 32).find? (bit l.clusters ·)).bind (lowestCore s)

/-- Descriptor i of the list. -/
def listDesc (s : State) (e : Prog) (i : Nat) : List Word :=
  (List.range 12).map fun w => readWord s (e.inAddr.toNat + 48 * i + 4 * w)

/-- The queue of the next descriptor of a PASSES entry has a place. -/
def placeFree (s : State) (l : LaunchS) (e : Prog) : Bool :=
  match chooseCore s l ⟨l.uid, listDesc s e l.placed, false⟩ with
  | some k => queueRoom (core s (execCore s k))
  | none => true

/-- The entry in work has a pass that could issue now. -/
def entryReady (s : State) (l : LaunchS) : Bool :=
  match l.prog[l.pc]? with
  | none => false
  | some e =>
    l.state == .running && e.mbCount != 0#16 && match e.phase.toNat with
      | 1 => (readyLayer s l e).isSome && (l.kind != 1#4 || holdsStash s l (batchOf l e))
          && (!l.asked || l.gather.length == l.due)
      | 2 => (match readyLayer s l e with
          | some r => r.st.tEpoch == some (ctxU s l.ctx).epoch
          | none => false) && !forwardLeft s l e.layer (batchOf l e)
      | 3 | 5 | 6 => (readyLayer s l e).isSome
      | 7 => decide (l.placed < e.mbCount.toNat) && placeFree s l e
      | _ => false

/-- The clusters that an entry issues passes in. -/
def entryClusters (s : State) (l : LaunchS) (e : Prog) : List Nat :=
  if e.phase = 7#4 then (List.range 32).filter (bit l.clusters ·)
  else match layerRec s l.ctx e.layer.toNat with
    | some r => ((lArrays r).map clusterOfArray).dedup
    | none => []

/-- The order of R176: the older epoch, backward phases before all others, the lower micro-batch, the lower slot. Epochs of
different contexts are compared as numbers, and a BUILD or PASSES entry takes the micro-batch that its MB_FIRST gives
(DESIGN CHOICE, log entry 52). -/
def issueRank (l : LaunchS) (e : Prog) : List Nat :=
  [l.epoch.toNat, if e.phase = 2#4 || e.phase = 3#4 then 0 else 1, batchOf l e, l.slot.toNat]

/-- The first list comes first in the order of its numbers. -/
def rankBefore : List Nat → List Nat → Bool
  | a :: as, b :: bs => decide (a < b) || (a == b && rankBefore as bs)
  | _, _ => false

/-- A ready pass of another slot goes first in some cluster of the entry, so the entry waits (R176). -/
def outranked (s : State) (l : LaunchS) (e : Prog) : Bool :=
  s.launches.any fun x => (x.ctx != l.ctx || x.slot != l.slot) && entryReady s x && match x.prog[x.pc]? with
    | some y => rankBefore (issueRank x y) (issueRank l e)
        && (entryClusters s x y).any fun c => (entryClusters s l e).contains c
    | none => false

/-! ## Rows of a micro-batch -/

def rowBytes (n elements : Nat) : Nat := (elements + 31) / 32 * zqBlockBytes n

/-- Address of token t of the micro-batch in work. -/
def tokenAddr (base : Nat) (l : LaunchS) (f : FwdForm) (t bytes : Nat) : Nat := base + (l.mb * f.tokens + t) * bytes

def outBytesOf (f : FwdForm) (elements : Nat) : Nat :=
  match f.out with
  | .fp32 => 4 * elements
  | .bf16 => 2 * elements
  | .zq nm1 => rowBytes (nm1.toNat + 1) elements

/-- The launch still runs. -/
def runs (s : State) (uid : Nat) : Bool :=
  match findLaunch s uid with
  | some l => l.state == .running
  | none => false

/-- The core whose entry T_OUT an output is written through: the one that folds the first output of its group of 32 (R411). R411
speaks of ZQ blocks; the model takes every group of 32 outputs so, FP32 and BF16 ones too, and takes that core's entry as "the
output entry" for the window base of every output of the group (DESIGN CHOICE, log entry 52). -/
def groupCore (coreAt : Nat → Nat) (o : Nat) : Nat := coreAt (32 * (o / 32))

/-- The window base of an output, and whether the history was missed (R145, R147). -/
def outputBase (s : State) (l : LaunchS) (entry : Nat) (coreAt : Nat → Nat) (o : Nat) : Int × Bool :=
  windowBase (entryOf s (groupCore coreAt o) entry) (fmtEpoch s l)

/-- Write a row of presented values, each with its digital tag, through entry T_OUT, group by group of 32 (R411); a group whose
entry belongs to another launch makes the descriptor bad (R156). -/
def writeGroups (l : LaunchS) (entry : Nat) (f : FwdForm) (addr : Nat) (coreAt : Nat → Nat) (vals : List (Pv × Bool))
    (poison : Bool) (s : State) : State :=
  let groups := chunks 32 vals
  let width := outBytesOf f 32
  (List.range groups.length).foldl (fun s g =>
    let k := groupCore coreAt (32 * g)
    let vs := groups.getD g []
    let a := addr + g * width
    if !runs s l.uid then s
    else if !mayWrite (entryOf s k entry) l then ownerConflict k l.uid s
    else if guarded s a (outBytesOf f vs.length) then stopLaunch l.uid 0x30 s
    else
      let w := writeGroup l k entry f.out (vs.any (·.2)) a (vs.map (·.1)) (outputBase s l entry coreAt (32 * g)).2 poison s
      if w.1 != 0 then stopLaunch l.uid 0x51 s else w.2) s

/-- What a table did to a value: it took a tail, it gave a NaN. -/
structure TabMark where
  tail : Bool := false
  nan  : Bool := false
  deriving DecidableEq, Repr

/-- A vector operation's result with its marks enters the core's registers (R118, R122). -/
def noteTable (k : Nat) (m : TabMark) (s : State) : State :=
  let s := if m.tail then countTails k 1 s else s
  if m.nan then modCore s k fun c => { c with vecErr := setBit c.vecErr 4 } else s

/-- A result after the drain, or after the table on a core: the presented value, with the marks of its accumulator. -/
def throughTable (s : State) (k : Nat) (slot : Option (BitVec 2)) (v : Pv) : Pv × TabMark :=
  match slot with
  | none => (v, {})
  | some x =>
    let w := if v.invalid then 0x7FC00000#32 else fvToF32 v.v
    let r := tableValue (core s k) x.toNat w
    ({ v with v := f32ToFv r.1, invalid := v.invalid || isNanF32 r.1 }, ⟨r.2, isNanF32 r.1⟩)

/-- A check group of a tensor of blocks, counted in stored order (R130). -/
def tensorGroup (n base rowBlocks g : Nat) : Range :=
  let per := max 1 ((rowBlocks + 31) / 32)
  let b := 32 * (g % per)
  (base + (g / per * rowBlocks + b) * zqBlockBytes n, min 32 (rowBlocks - b) * zqBlockBytes n)

/-- The groups of a phase's operands whose elements are invalid (Table 5-3). -/
def phaseBad (s : State) (check : CheckSeen) (rs : List Range) (side : Bool → Nat → Range) : List Range :=
  reservedIn s rs ++ match check with
    | .hdrBad b g => [side b g]
    | _ => []

/-- The counters of several engines. -/
def enginesWork (ws : List (Nat × EngWork)) (s : State) : State := ws.foldl (fun s w => engineWork w.1 w.2 s) s

/-- Zero-gated lanes and invalid outputs of one product of two rows. -/
def dotWork (na nb : Nat) (a b : List ZqBlock) : EngWork :=
  let bs := List.zip a b
  { gated := if na = 1 && nb = 1 then 0 else (bs.map fun x => gatedLanes x.1 x.2).foldl (· + ·) 0
    invalid := bs.any fun x => (blockDot x.1 x.2).isNone }

/-! ## FORWARD (R149 to R153, R165, R170) -/

/-- Blocks of a row of elements. -/
def rowBlocks (elements : Nat) : Nat := (elements + 31) / 32

/-- A micro-batch's products are asked of every array of the layer, token after token (R84). -/
def askProducts (l : LaunchS) (e : Prog) (r : Layer) (f : FwdForm) (s : State) : State :=
  let n := f.inN.toNat + 1
  let bytes := rowBytes n (lIn r)
  let src := tokenAddr e.inAddr.toNat l f 0 bytes
  let bad := phaseBad s f.check [(src, f.tokens * bytes)] fun b g => if b then (0, 0) else tensorGroup n src (rowBlocks (lIn r)) g
  let s := (List.range f.tokens).foldl (fun s t =>
    let row := readBlocks s bad n (src + t * bytes) (rowBlocks (lIn r))
    (lArrays r).foldl (fun s a =>
      let p : Product := { launch := l.uid, token := t, inN := n, tIn := e.tIn.toNat
                           blocks := (row.drop (16 * (tileOf r a).2)).take 16, spans := [], invalid := false, acc := []
                           plane := 0, span := 0, sat := [] }
      modArr s a fun u => { u with queue := u.queue ++ [p] }) s) s
  let s := if bad.isEmpty then s else (lArrays r).foldl (fun s a =>
    modCore s (coreFor s a) fun c => { c with fmtErr := setBit c.fmtErr 0 }) s
  modLaunch s l.uid fun x => { x with asked := true, tableSlot := f.slot, gather := [], due := f.tokens * lCount r }

/-- Every array has answered every token. -/
def allGathered (l : LaunchS) : Bool := l.gather.length == l.due

/-- A row of a digital image or factor, blocked along its row (R111). -/
def imageBlocks (s : State) (bad : List Range) (base n elements row : Nat) : List ZqBlock :=
  readBlocks s bad n (base + row * rowBytes n elements) (rowBlocks elements)

/-- Fold the result of one analogue array into an output (R150). -/
def foldAnalogue (r : Layer) (n j : Nat) (base : Int) (res : ProdRes) (acc : Acc) : Acc :=
  if res.invalid then { acc with invalid := true }
  else res.spans.foldl (fun acc sp =>
    acc.fold base (sp.2.getD j 0)
      (Int.ofNat (lWexp r) - 126 - Int.ofNat (lWidth r) + (Int.ofNat sp.1 - 126 - Int.ofNat n))) acc

/-- A live array's digital product makes its core's whole slice digital (R170). -/
def sliceDigital (r : Layer) (gather : List ProdRes) (t core : Nat) : Bool :=
  lSlice r && lPolicy r && gather.any fun g => g.token == t && g.digital && g.live && coreOfArray g.array == core

/-- The array's term of a token is computed digitally. -/
def termDigital (r : Layer) (gather : List ProdRes) (t a : Nat) : Bool :=
  (gather.any fun g => g.array == a && g.token == t && g.digital) || sliceDigital r gather t (coreOfArray a)

/-- The core whose entry gives z = V·x its window base, exponent and statistics: R170 has several cores compute shares of V·x and
the spec does not say whose entry z has; the model takes the core of the layer's first array (DESIGN CHOICE, log entry 52). -/
def zCore (s : State) (r : Layer) : Nat := coreFor s (lFirst r)

/-- z = V·x, drained and encoded as a ZQ8 tensor through its own entry (R153): its blocks, its counts and the work. -/
def factorZ (s : State) (bad : List Range) (l : LaunchS) (r : Layer) (entry n : Nat) (x : List ZqBlock) :
    List ZqBlock × TStat × EngWork :=
  let e := entryOf s (zCore s r) entry
  let wb := windowBase e (fmtEpoch s l)
  let rows := (List.range (lRank r)).map fun i => imageBlocks s bad (lV r) 8 (lIn r) i
  let vals := rows.map fun v => (dotRow n 8 wb.1 x v Acc.zero).present wb.1 false
  let te := tensorExp e (fmtEpoch s l) 8
  let bs := (chunks 32 vals).map (encodeBlock 8 te.1 false)
  (bs.map (·.1), bs.foldl (fun t b => t.add b.2) { hmiss := wb.2 || te.2 },
    rows.foldl (fun w v => w.join (dotWork n 8 x v)) {})

/-- One output of a token, its digital tag and its engine's work (R149). The correction is left out when any core of the output's
tile computes its slice digitally: R170 speaks of one core, and for a tile of several cores the spec does not say whose slice
decides (DESIGN CHOICE, log entry 52). -/
def forwardOutput (s : State) (bad : List Range) (l : LaunchS) (r : Layer) (f : FwdForm) (base : Int) (t out : Nat)
    (x z : List ZqBlock) : Pv × Bool × EngWork :=
  let n := f.inN.toNat + 1
  let nw := max 1 (weightsPerRow (lWidth r))
  let first := lFirst r + out / nw * lTin r
  let arrays := (List.range (lTin r)).map (first + ·)
  let w := imageBlocks s bad (lFwd r) (lDWidth r) (lIn r) out
  let step (st : Acc × Bool × Bool × EngWork) (a : Nat) : Acc × Bool × Bool × EngWork :=
    if termDigital r l.gather t a then
      let xs := (x.drop ((a - first) * 16)).take 16
      let ws := (w.drop ((a - first) * 16)).take 16
      (dotRow n (lDWidth r) base xs ws st.1, st.2.1, true, st.2.2.2.join (dotWork n (lDWidth r) xs ws))
    else match l.gather.find? fun g => g.array == a && g.token == t with
      | none => st
      | some g => (foldAnalogue r n (out % nw) base g st.1, st.2.1 || g.sat.contains (out % nw), st.2.2)
  let (acc, sat, dig, work) := arrays.foldl step (Acc.zero, false, false, {})
  let whole := arrays.any fun a => sliceDigital r l.gather t (coreOfArray a)
  if lRank r = 0 || whole then (acc.present base sat, dig, work)
  else
    let u := imageBlocks s bad (lU r) 8 (lRank r) out
    ((dotRow 8 8 base z u acc).present base sat, dig, work.join (dotWork 8 8 z u))

/-- Valid slots of the digital tiles and of the correction of a micro-batch, by engine: the passes tile the micro-batch's tokens
and outputs 64 × 64 (log entry 52). -/
def forwardSlots (s : State) (l : LaunchS) (r : Layer) (f : FwdForm) : List (Nat × EngWork) :=
  let n := f.inN.toNat + 1
  let nw := max 1 (weightsPerRow (lWidth r))
  let outs (o : Nat) : Nat := min nw (lOut r - o * nw)
  let tiles := (lArrays r).filterMap fun a =>
    let d := (List.range f.tokens).countP fun t => termDigital r l.gather t a
    if d = 0 then none
    else
      let blocks := min 16 (rowBlocks (lIn r) - 16 * (tileOf r a).2)
      some (coreFor s a, ({ slots := tileSlots d (outs (tileOf r a).1) blocks (max n (lDWidth r)) } : EngWork))
  if lRank r = 0 then tiles
  else
    let z : Nat × EngWork := (zCore s r, { slots := tileSlots f.tokens (lRank r) (rowBlocks (lIn r)) (max n 8) })
    tiles ++ z :: (List.range (lTout r)).map fun o =>
      (coreFor s (lFirst r + o * lTin r), { slots := tileSlots f.tokens (outs o) (rowBlocks (lRank r)) 8 })

/-- Some array's term of the micro-batch is digital. -/
def anyDigital (l : LaunchS) : Bool := l.gather.any (·.digital)

/-- What the engines and the mover read of a gathered micro-batch: the inputs, the image for digital terms, the factors. -/
def forwardReads (s : State) (l : LaunchS) (r : Layer) (src bytes : Nat) : List Range :=
  (if lRank r != 0 || anyDigital l || (l.kind = 1#4 && stashKib s l != 0) then [(src, bytes)] else [])
    ++ (if anyDigital l then [(lFwd r, lOut r * rowBytes (lDWidth r) (lIn r))] else [])
    ++ if lRank r = 0 then [] else [(lU r, lOut r * rowBytes 8 (lRank r)), (lV r, lRank r * rowBytes 8 (lIn r))]

/-- A token's outputs are folded, take the table, and are written; its input is copied to the stash. -/
def forwardToken (l : LaunchS) (e : Prog) (r : Layer) (f : FwdForm) (bad : List Range) (factors : Bool) (t : Nat) (s : State) :
    State :=
  let n := f.inN.toNat + 1
  let bytes := rowBytes n (lIn r)
  let src := tokenAddr e.inAddr.toNat l f t bytes
  let x := readBlocks s bad n src (rowBlocks (lIn r))
  let poison := rangePoisoned s src bytes || factors
  let nw := max 1 (weightsPerRow (lWidth r))
  let coreAt (o : Nat) : Nat := coreFor s (lFirst r + o / nw * lTin r)
  let (z, zs, zw) := if lRank r = 0 then ([], ({} : TStat), ({} : EngWork)) else factorZ s bad l r f.zEntry.toNat n x
  if !runs s l.uid then s
  else if lRank r != 0 && !mayWrite (entryOf s (zCore s r) f.zEntry.toNat) l then ownerConflict (zCore s r) l.uid s
  else
    let outs := (List.range (lOut r)).map fun o =>
      (forwardOutput s bad l r f (outputBase s l e.tOut.toNat coreAt o).1 t o x z, o)
    let tab := outs.map fun y => (throughTable s (coreAt y.2) f.slot y.1.1, y)
    let s := if lRank r = 0 then s
      else engineWork (zCore s r) zw (account l (zCore s r) f.zEntry.toNat zs s)
    let s := tab.foldl (fun s y =>
      let k := coreAt y.2.2
      let s := if lRank r != 0 || y.2.1.2.1 then engineWork k y.2.1.2.2 s else s
      noteIssue k l.uid (noteTable k y.1.2 s)) s
    let s := writeGroups l e.tOut.toNat f (tokenAddr e.outAddr.toNat l f t (outBytesOf f (lOut r))) coreAt
      (tab.map fun y => (y.1.1, y.2.1.2.1)) poison s
    if l.kind != 1#4 || stashKib s l = 0 || !runs s l.uid then s
    else
      let dst := stashAddr s l (lNum r) (batchOf l e) { f with stashN := f.inN } + t * bytes
      let s' := launchStore l.uid dst (memGet s src bytes) (rangePoisoned s src bytes) {} s
      if runs s' l.uid then carryMarks src dst bytes s' else s'

/-- FORWARD: the products of the micro-batch are asked for, and gathered once every array has answered. -/
def forwardPhase (uid : Nat) (f : FwdForm) (s : State) : State :=
  match atPhase s uid 1 with
  | none => s
  | some (l, e) =>
    if e.mbCount = 0#16 then nextEntry uid s
    else match readyLayer s l e with
      | none => s
      | some r =>
        let n := f.inN.toNat + 1
        let bytes := rowBytes n (lIn r)
        let src := tokenAddr e.inAddr.toNat l f 0 bytes
        if (l.kind = 1#4 && !holdsStash s l (batchOf l e)) || outranked s l e then s
        else if !l.asked then
          if !rangeOk s false src (f.tokens * bytes) then stopLaunch uid 0x51 s else askProducts l e r f s
        else if !allGathered l then s
        else
          let slots := forwardSlots s l r f
          let rs := forwardReads s l r src (f.tokens * bytes)
          if !enginesAwake s (slots.map (·.1)) then askNotices (slots.map (·.1)) s
          else if !rangesOk s ((src, f.tokens * bytes) :: rs) then stopLaunch uid 0x51 s
          else
            let (go, s) := consume l f.check rs s
            if !go then s
            else
              let bad := phaseBad s f.check ((src, f.tokens * bytes) :: rs) fun b g =>
                if b then tensorGroup (lDWidth r) (lFwd r) (rowBlocks (lIn r)) g else tensorGroup n src (rowBlocks (lIn r)) g
              let inputs := rangePoisoned s src (f.tokens * bytes)
              let factors := rangesPoisoned s (rs.filter (·.1 != src))
              let engines := factors || (inputs && (lRank r != 0 || anyDigital l))
              let s := enginesWork (slots.map fun w => (w.1, { w.2 with poison := engines, reserved := !bad.isEmpty })) s
              let s := (List.range f.tokens).foldl (fun s t => forwardToken l e r f bad factors t s) s
              -- the table consumes poisoned data that the engines do not (R288)
              if engines || (inputs && f.slot.isSome) then terminateCtx l.ctx (relErr 8 s)
              else if runs s uid then nextBatch uid e s else s

def execForward (launch : Nat) (form : FwdForm) (s : State) : Res := .next (forwardPhase launch form s)

/-! ## BACKWARD_IN (R111, R123, R171) -/

/-- Cores of a layer's columns: the core of input column i, with the columns it has. -/
def columnCores (s : State) (r : Layer) : List (Nat × Nat) :=
  (List.range (lTin r)).map fun i => (coreFor s (lFirst r + i), min 512 (lIn r - 512 * i))

/-- A token of the input gradient: Wᵀ·dy, then TABLE_D on the stashed input. -/
def backwardToken (l : LaunchS) (e : Prog) (r : Layer) (f : FwdForm) (bad : List Range) (poison : Bool) (t : Nat) (s : State) :
    State :=
  let n := f.inN.toNat + 1
  let bytes := rowBytes n (lOut r)
  let dy := readBlocks s bad n (tokenAddr e.inAddr.toNat l f t bytes) (rowBlocks (lOut r))
  let sn := f.stashN.toNat + 1
  let xa := stashAddr s l (lNum r) (batchOf l e) f + t * rowBytes sn (lIn r)
  let xs := (readBlocks s bad sn xa (rowBlocks (lIn r))).flatMap fun b => b.codes.map (zqToF32 sn b.e)
  let coreAt (i : Nat) : Nat := coreFor s (lFirst r + i / 512)
  let out (i : Nat) : Pv × TabMark × EngWork :=
    let base := (outputBase s l e.tOut.toNat coreAt i).1
    let w := imageBlocks s bad (lT r) (lDWidth r) (lOut r) i
    let v := (dotRow n (lDWidth r) base dy w Acc.zero).present base false
    let work := dotWork n (lDWidth r) dy w
    match f.slot with
    | none => (v, {}, work)
    | some k =>
      let z := tableValue (core s (coreAt i)) k.toNat (xs.getD i 0#32)
      let g := if v.invalid then 0x7FC00000#32 else fvToF32 v.v
      let y := f32Mul g z.1
      ({ v with v := f32ToFv y, invalid := v.invalid || isNanF32 y }, ⟨z.2, isNanF32 y⟩, work)
  if !runs s l.uid then s
  else
    let outs := (List.range (lIn r)).map fun i => (out i, i)
    let s := outs.foldl (fun s y =>
      let k := coreAt y.2
      noteIssue k l.uid (noteTable k y.1.2.1 (engineWork k y.1.2.2 s))) s
    writeGroups l e.tOut.toNat f (tokenAddr e.outAddr.toNat l f t (outBytesOf f (lIn r))) coreAt
      (outs.map fun y => (y.1.1, false)) poison s

/-- BACKWARD_IN of one micro-batch; it waits for a current T_IMAGE (R171) and for the FORWARD of the micro-batch (Table 6-6). -/
def backwardPhase (uid : Nat) (f : FwdForm) (s : State) : State :=
  match atPhase s uid 2 with
  | none => s
  | some (l, e) =>
    if e.mbCount = 0#16 then nextEntry uid s
    else match readyLayer s l e with
      | none => s
      | some r =>
        let n := f.inN.toNat + 1
        let sn := f.stashN.toNat + 1
        let bytes := rowBytes n (lOut r)
        let src := tokenAddr e.inAddr.toNat l f 0 bytes
        let xa := stashAddr s l (lNum r) (batchOf l e) f
        let ks := columnCores s r
        let rs := [(src, f.tokens * bytes), (lT r, lIn r * rowBytes (lDWidth r) (lOut r))]
          ++ if f.slot.isSome then [(xa, f.tokens * rowBytes sn (lIn r))] else []
        if r.st.tEpoch != some (ctxU s l.ctx).epoch || forwardLeft s l e.layer (batchOf l e) || outranked s l e then s
        else if !enginesAwake s (ks.map (·.1)) then askNotices (ks.map (·.1)) s
        else if !rangesOk s rs then stopLaunch uid 0x51 s
        else
          let (go, s) := consume l f.check rs s
          if !go then s
          else
            let bad := phaseBad s f.check rs fun b g =>
              if b then tensorGroup (lDWidth r) (lT r) (rowBlocks (lOut r)) g else tensorGroup n src (rowBlocks (lOut r)) g
            let poison := rangesPoisoned s rs
            let s := enginesWork (ks.map fun k => (k.1,
              { slots := tileSlots f.tokens k.2 (rowBlocks (lOut r)) (max n (lDWidth r)), poison := poison
                reserved := !bad.isEmpty })) s
            let s := (List.range f.tokens).foldl (fun s t => backwardToken l e r f bad poison t s) s
            if poison then terminateCtx l.ctx (relErr 8 s)
            else if runs s uid then nextBatch uid e s else s

def execBackwardIn (launch : Nat) (form : FwdForm) (s : State) : Res := .next (backwardPhase launch form s)

/-! ## WEIGHT_GRAD (R112, R253 to R255) -/

/-- One column of a token-major tensor, blocked anew along the tokens, and the elements that this changed (R109). -/
def columnBlocks (n tokens : Nat) (rows : List (List ZqBlock)) (c : Nat) : List ZqBlock × Nat :=
  let elt (t : Nat) : Option Int × Nat :=
    if tokens ≤ t then (some 0, 0)
    else
      let b := (rows.getD t []).getD (c / 32) ⟨255, []⟩
      (b.codes.getD (c % 32) none, b.e)
  let bs := (List.range ((tokens + 31) / 32)).map fun b => reblock n ((List.range 32).map fun i => elt (32 * b + i))
  (bs.map (·.1), (bs.map (·.2)).foldl (· + ·) 0)

/-- The operands of a WEIGHT_GRAD micro-batch: dy and the stashed x, token by token, with the marked groups they lie in and whether
poison reaches them. -/
structure GradOps where
  dy     : List (List ZqBlock)
  x      : List (List ZqBlock)
  dyAt   : Nat
  xAt    : Nat
  marked : List Range
  poison : Bool
  deriving DecidableEq, Repr

/-- A column block of a token-major tensor takes bytes of a marked group, in some token (R131). -/
def columnMarked (o : GradOps) (n tokens base elements block : Nat) : Bool :=
  (List.range tokens).any fun t => anyMeets o.marked (base + t * rowBytes n elements + block * zqBlockBytes n) (zqBlockBytes n)

/-- The masked pass of one tile of the micro-batch, streamed to the caravan. -/
def gradTile (l : LaunchS) (e : Prog) (r : Layer) (f : FwdForm) (o : GradOps) (v : Caravan) (j t : Nat) (s : State) : State :=
  if tileMasked s v t || !runs s l.uid then s
  else
    let n := f.inN.toNat + 1
    let sn := f.stashN.toNat + 1
    let k := homeExec s r v t
    let base := (windowBase (entryOf s k e.tOut.toNat) (fmtEpoch s l)).1
    let r0 := 64 * (t / max 1 (tileCols v))
    let c0 := 64 * (t % max 1 (tileCols v))
    let width := min 64 (v.cols - c0)
    let cols := (List.range width).map fun c => columnBlocks sn f.tokens o.x (c0 + c)
    let rows := ((List.range (min 64 (v.rows - r0))).filter fun i => maskBit s (lRowMask r) (r0 + i)).map fun i =>
      (i, columnBlocks n f.tokens o.dy (r0 + i))
    let inexact := (cols.map (·.2)).foldl (· + ·) 0 + (rows.map (·.2.2)).foldl (· + ·) 0
    let work := rows.foldl (fun w a => cols.foldl (fun w b => w.join (dotWork n sn a.2.1 b.1)) w)
      { slots := tileSlots 1 1 ((f.tokens + 31) / 32) (max n sn), inexact := inexact, poison := o.poison : EngWork }
    let s := noteInexact l k e.tOut.toNat inexact (noteIssue k l.uid (engineWork k work s))
    let s := rows.foldl (fun s a =>
      let vals := cols.map fun b =>
        let acc := dotRow n sn base a.2.1 b.1 Acc.zero
        if acc.invalid then none else some (⟨acc.a, base⟩ : Dy)
      let dig (b : Nat) : Bool := columnMarked o n f.tokens o.dyAt (lOut r) ((r0 + a.1) / 32)
        || columnMarked o sn f.tokens o.xAt (lIn r) (c0 / 32 + b)
      contributeRow k l.uid v j t a.1 vals (fun b => zb8Header 0 o.poison (dig b) false false) s) s
    countContribution v j t s

/-- The caravan that OUT_ADDR names, in the place that R254 gives it (log entry 14). -/
def gradCaravan (e : Prog) : BitVec 8 := BitVec.ofNat 8 (fld e.outAddr 39 32)

/-- WEIGHT_GRAD of one micro-batch: masked dy·xᵀ, tile by tile, into the caravan. -/
def gradPhase (uid : Nat) (f : FwdForm) (s : State) : State :=
  match atPhase s uid 3 with
  | none => s
  | some (l, e) =>
    if e.mbCount = 0#16 then nextEntry uid s
    else match readyLayer s l e with
      | none => s
      | some r =>
        let n := f.inN.toNat + 1
        let sn := f.stashN.toNat + 1
        let db := rowBytes n (lOut r)
        let xb := rowBytes sn (lIn r)
        let src := tokenAddr e.inAddr.toNat l f 0 db
        let xa := stashAddr s l (lNum r) (batchOf l e) f
        let rs := [(src, f.tokens * db), (xa, f.tokens * xb)]
        let g := gradCaravan e
        if outranked s l e then s
        else if !rangesOk s ((cvEntry s g l.epoch, 128) :: rs) then stopLaunch uid 0x51 s
        else
          let s := startCaravan l.ctx g l.epoch s
          match findCv s l.ctx g l.epoch with
          | none => s
          | some v =>
            match sliceOf v l.number with
            | none => descBad (coreFor s (lFirst r)) uid s
            | some j =>
              let ks := (((List.range (tileCount v)).filter fun t => !tileMasked s v t).map (homeExec s r v)).dedup
              if v.state = 3#3 || v.layer != e.layer then descBad (coreFor s (lFirst r)) uid s
              else if !enginesAwake s ks then askNotices ks s
              else
                let (go, s) := consume l f.check rs s
                if !go then s
                else
                  let bad := phaseBad s f.check rs fun b g =>
                    if b then tensorGroup sn xa (rowBlocks (lIn r)) g else tensorGroup n src (rowBlocks (lOut r)) g
                  let o : GradOps := {
                    dy := (List.range f.tokens).map fun t => readBlocks s bad n (src + t * db) (rowBlocks (lOut r))
                    x := (List.range f.tokens).map fun t => readBlocks s bad sn (xa + t * xb) (rowBlocks (lIn r))
                    dyAt := src, xAt := xa, marked := groupRanges s (·.marks.digital) rs, poison := rangesPoisoned s rs }
                  let s := enginesWork (ks.map fun k => (k, { reserved := !bad.isEmpty })) s
                  let s := (List.range (tileCount v)).foldl (fun s t =>
                    match findCv s l.ctx g l.epoch with
                    | some v => gradTile l e r f o v j t s
                    | none => s) s
                  if o.poison then terminateCtx l.ctx (relErr 8 s)
                  else if runs s uid then releaseBatch l (batchOf l e) (nextBatch uid e s) else s

def execWeightGrad (launch : Nat) (form : FwdForm) (s : State) : Res := .next (gradPhase launch form s)

/-! ## Image builds (R110, R111, R171) -/

/-- Array that holds weight (o, i) (R191). -/
def arrayOf (r : Layer) (o i : Nat) : Nat := lFirst r + o / max 1 (weightsPerRow (lWidth r)) * lTin r + i / 512

/-- A master value (BF16) of output `o` and input `i`, with its remainder left out (R110). -/
def masterAt (r : Layer) (o i : Nat) : Nat := lState r + 64 + 2 * (o * colsPad r + i)

/-- The blocks of a layer's image, each with the core that holds its first weight. -/
def layerImage (s : State) (r : Layer) (bad : List Range) (transposed : Bool) : List (Nat × ImageBlock) :=
  let n := lDWidth r
  let m := markedIn s [(lState r + 64, 2 * lOut r * colsPad r)]
  let lines := if transposed then lIn r else lOut r
  let width := if transposed then lOut r else lIn r
  let at_ (x y : Nat) : Nat := if transposed then masterAt r y x else masterAt r x y
  let val (a : Nat) : Pv := if anyMeets bad a 2 then { v := .nan, invalid := true }
    else { v := f32ToFv (bf16ToF32 (BitVec.ofNat 16 (readNat s a 2))) }
  (List.range lines).flatMap fun x => (List.range (rowBlocks width)).map fun g =>
    let ys := (List.range (min 32 (width - 32 * g))).map (32 * g + ·)
    (coreFor s (if transposed then arrayOf r (32 * g) x else arrayOf r x (32 * g)),
      ⟨(if transposed then lT r else lFwd r) + x * rowBytes n width + g * zqBlockBytes n, ys.map fun y => val (at_ x y),
        ys.foldl (fun k y => k.join (m.at (at_ x y) 2)) {}⟩)

/-- BUILD_FWD and BUILD_T: nothing for a current image; otherwise the image, with the epoch it was built from. -/
def buildPhase (uid ph : Nat) (transposed : Bool) (check : CheckSeen) (s : State) : State :=
  match atPhase s uid ph with
  | none => s
  | some (l, e) =>
    match readyLayer s l e with
    | none => s
    | some r =>
      let epoch := (ctxU s l.ctx).epoch
      let cur := if transposed then r.st.tEpoch else r.st.fwdEpoch
      let dst := if transposed then lT r else lFwd r
      let size := if transposed then lIn r * rowBytes (lDWidth r) (lOut r) else lOut r * rowBytes (lDWidth r) (lIn r)
      let src := (lState r + 64, 2 * lOut r * colsPad r)
      let cores := ((lArrays r).map (coreFor s)).dedup
      if cur = some epoch then nextEntry uid s
      else if outranked s l e then s
      else if !enginesAwake s cores then askNotices cores s
      else if guarded s dst size then descBad (coreFor s (lFirst r)) uid s
      else match cores.find? fun k => !mayWrite (entryOf s k e.tOut.toNat) l with
        | some k => ownerConflict k uid s
        | none =>
          if !rangesOk s [src, (dst, size)] then stopLaunch uid 0x51 s
          else
            let (go, s) := consume l check [src] s
            if !go then s
            else
              -- a row of the master is one check group for each 1,024 values
              let bad := phaseBad s check [src] fun _ g =>
                let per := max 1 ((colsPad r + 1023) / 1024)
                (masterAt r (g / per) (1024 * (g % per)), 2 * min 1024 (colsPad r - 1024 * (g % per)))
              let poison := rangesPoisoned s [src]
              let s := enginesWork (cores.map fun k => (k, { poison := poison, reserved := !bad.isEmpty })) s
              let s := cores.foldl (fun s k => noteIssue k uid s) s
              let s := (layerImage s r bad transposed).foldl (fun s b =>
                storeImage l b.1 e.tOut.toNat (lDWidth r) false poison [b.2] s) s
              if poison then terminateCtx l.ctx (relErr 8 s)
              else nextEntry uid (modLayer s l.ctx (lNum r) fun st =>
                if transposed then { st with tEpoch := some epoch } else { st with fwdEpoch := some epoch })

def execBuildFwd (launch : Nat) (check : CheckSeen) (s : State) : Res := .next (buildPhase launch 5 false check s)

def execBuildT (launch : Nat) (check : CheckSeen) (s : State) : Res := .next (buildPhase launch 6 true check s)

/-! ## PASSES (R410) -/

/-- Place the next descriptors in list order until a queue is full. A descriptor for which R410 gives no core is bad; whose
ENG_ERR says so is not laid down, and the model sets core 0's (DESIGN CHOICE, log entry 52). -/
def placePasses (uid : Nat) (e : Prog) : Nat → State → State
  | 0, s => s
  | fuel + 1, s =>
    match findLaunch s uid with
    | none => s
    | some l =>
      if l.state != .running || e.mbCount.toNat ≤ l.placed then s
      else
        let words := listDesc s e l.placed
        let q : Queued := ⟨uid, words, false⟩
        match chooseCore s l q with
        | none => descBad 0 uid s
        | some k =>
          if !bit l.clusters (clusterOfCore k) then descBad k uid s
          else if !queueRoom (core s (execCore s k)) then s
          else placePasses uid e fuel (modLaunch (enqueueDesc uid k words s) uid fun l => { l with placed := l.placed + 1 })

/-- PASSES: the descriptors are placed; the entry ends when every one has drained. -/
def passesPhase (uid : Nat) (s : State) : State :=
  match atPhase s uid 7 with
  | none => s
  | some (l, e) =>
    if l.placed < e.mbCount.toNat then
      if outranked s l e then s
      else if !rangeOk s false e.inAddr.toNat (48 * e.mbCount.toNat) then stopLaunch uid 0x51 s
      else placePasses uid e (e.mbCount.toNat - l.placed) s
    else if hasPasses s uid then s else nextEntry uid s

def execPasses (launch : Nat) (s : State) : Res := .next (passesPhase launch s)

/-! ## Tallies (R237 to R240, R281) -/

def tallyAddr (n : Nat) : Nat := 0xC0B0000000 + 64 * n

def tallyValue (s : State) (n : Nat) : Nat := readNat s (tallyAddr n) 8

/-- A TALLY_WAIT completes once VALUE has reached MB_FIRST (R238). -/
def waitTally (uid : Nat) (s : State) : State :=
  match atPhase s uid 8 with
  | none => s
  | some (_, e) =>
    if tallyValue s e.tally.toNat < e.mbFirst.toNat then s
    else nextEntry uid (modLaunch s uid fun l => { l with waits := (l.waits ++ [e.tally]).dedup })

def execTallyWait (launch : Nat) (s : State) : Res := .next (waitTally launch s)

def execTallyWaitComplete (launch : Nat) (s : State) : Res := .next (waitTally launch s)

/-- The forward addresses of a tally that are in use, as device and tally (R239). -/
def forwards (s : State) (n : Nat) : List W64 :=
  ((List.range 4).map fun j => w64 (readNat s (tallyAddr n + 8 + 8 * j) 8)).filter fun g => fld g 63 58 == 0x11

def forwardTarget (g : W64) : DevId × BitVec 14 :=
  (devOf g, BitVec.ofNat 14 ((localOf g - 0xC0B0000000) / 64))

/-- The die of the lowest-numbered cluster named in CLUSTERS, whose mover and sequencer carry out the launch's PUT and TALLY_SIGNAL
entries (R168). -/
def signalDie (l : LaunchS) : Bool := decide (16 ≤ ((List.range 32).find? (bit l.clusters ·)).getD 0)

/-- A COURIER_ADD of a signal goes out, and the launch waits for its answer. -/
def sendForward (uid : Nat) (l : LaunchS) (n : Nat) (g : W64) (s : State) : State :=
  byAnswer (newRequest (signalDie l) 0x11 g l.ctx l.epoch false 8 (leBytes 8 n) s)
    (fun tag s => modLaunch s uid fun l => { l with pending := l.pending ++ [tag] })
    (fun a s => if a.resp = 0#4 then s else stopLaunch uid (respStatus a.resp.toNat) s)

/-- The local add of a signal; a poisoned tally is left alone (R407). -/
def addTally (n k : Nat) (epoch : Word) (s : State) : State :=
  let a := tallyAddr n
  if rangePoisoned s a 8 then relErr 8 s
  else
    let v := (tallyValue s n + k) % 2 ^ 64
    let m := memPut (sealStore s a (leBytes 8 v) 0#8) a (leBytes 8 v)
    { s with mem := countAdd a (memPut m (a + 0x28) (leBytes 4 epoch.toNat)) }

/-- REPLAYED to each device whose last skipped signal this entry is (R281). -/
def tellReplayed (l : LaunchS) (s : State) : State :=
  let here := ((l.signals.filter fun x => x.1 == l.pc).flatMap (·.2)).map (·.1)
  let later := ((l.signals.filter fun x => l.pc < x.1).flatMap (·.2)).map (·.1)
  let due := l.told.filter fun d => here.contains d && !later.contains d
  let s := due.foldl (fun s d =>
    sendMsg 0 d (.replayed ⟨l.ctx, l.number, l.epoch, (ctxU s l.ctx).milestone, []⟩) s) s
  modLaunch s l.uid fun x => { x with told := x.told.filter fun d => !due.contains d }

/-- TALLY_SIGNAL, once every earlier store, atomic and stream has been answered (R239); one that an earlier run completed is
passed over (R240). -/
def signalTally (uid : Nat) (s : State) : State :=
  match atPhase s uid 9 with
  | none => s
  | some (l, e) =>
    if !l.pending.isEmpty || hasPasses s uid then s
    else if l.signals.any fun x => x.1 == l.pc then nextEntry uid (tellReplayed l s)
    else
      let fs := forwards s e.tally.toNat
      let s := addTally e.tally.toNat e.mbFirst.toNat l.epoch s
      let s := nextEntry uid (modLaunch s uid fun x => { x with signals := x.signals ++ [(l.pc, fs.map forwardTarget)] })
      fs.foldl (fun s g => sendForward uid l e.mbFirst.toNat g s) s

def execTallySignal (launch : Nat) (s : State) : Res := .next (signalTally launch s)

/-! ## PUT (R168) -/

/-- The stores of one micro-batch, split at the 4 KiB boundaries of source and destination. A copy within this module carries the
marks of its source (R131). -/
def putRun (uid : Nat) (l : LaunchS) : Nat → Nat → W64 → Nat → State → State
  | 0, _, _, _, s => s
  | fuel + 1, src, dst, left, s =>
    if left = 0 then s
    else
      let n := min left (min (toBoundary src) (toBoundary (localOf dst)))
      let own := devOf dst == ownId s
      let r := localRead s false src n
      if r.resp != 0 then stopLaunch uid (respStatus r.resp) s
      else if own && guarded s (localOf dst) n then stopLaunch uid 0x30 s
      else byAnswer (newRequest (signalDie l) 1 dst l.ctx l.epoch r.poison n r.data (noteRead r s))
          (fun tag s => putRun uid l fuel (src + n) (dst + w64 n) (left - n)
            (modLaunch s uid fun l => { l with pending := l.pending ++ [tag] }))
          (fun a s =>
            if a.resp != 0#4 then stopLaunch uid (respStatus a.resp.toNat) s
            else putRun uid l fuel (src + n) (dst + w64 n) (left - n) (if own then carryMarks src (localOf dst) n s else s))

def putPhase (uid : Nat) (s : State) : State :=
  match atPhase s uid 10 with
  | none => s
  | some (l, e) =>
    let n := e.length.toNat
    let src := e.inAddr.toNat + l.mb * n
    let (go, s) := consume l .good [(src, n)] s
    if !go then s
    else
      let s := putRun uid l (2 * (n / 4096 + 2)) src (e.outAddr + w64 (l.mb * n)) n s
      if runs s uid then nextBatch uid e s else s

def execPut (launch : Nat) (s : State) : Res := .next (putPhase launch s)

/-! ## The end (R413) -/

/-- A launch whose program is done ends with its status, when its stores are answered. A SEAL launch ends at its commit. -/
def finishLaunch (uid : Nat) (s : State) : State :=
  match findLaunch s uid with
  | none => s
  | some l =>
    if l.state != .running || l.kind = 3#4 || l.pc < l.prog.length || !l.pending.isEmpty || hasPasses s uid then s
    else endLaunch uid l.status.toNat .ended s

def execLaunchEnd (launch : Nat) (s : State) : Res := .next (finishLaunch launch s)

end Sys2Proof.Machine
end

