-- ==== Sys2Proof/Machine/Update.lean ====
section
/-! DEFINITION. The update engine (spec/07): the start of a layer's update, its passes, the staging, the read-back, and the
coefficient rows. -/

namespace Sys2Proof.Machine

/-! ## The layer's state (Tables 7-1, 7-2, 7-3) -/

def stateEnd (l : Layer) : Nat := offM2 l + secMoment l

/-- Parts of the staging tail, from STAGING. -/
def stgShadow (l : Layer) : Nat := rowListAddr l + align64 (rowListBytes l)
def stgDirty (l : Layer) : Nat := stgShadow l + align64 (lOut l * lIn l)
def sizeU (l : Layer) : Nat := 33 * lOut l * ((lRank l + 31) / 32)
def sizeV (l : Layer) : Nat := lRank l * momentRow l
def stgU (l : Layer) : Nat := stgDirty l + 64 * lCount l
def stgV (l : Layer) : Nat := stgU l + align64 (sizeU l)
def stgEnd (l : Layer) : Nat := stgV l + align64 (sizeV l)

def headerStep (s : State) (l : Layer) : Word := readWord s (lState l + 4)

/-- The header is bad (R190). -/
def headerBad (s : State) (l : Layer) : Bool :=
  let h := lState l
  let w := readWord s h
  fld w 31 20 != lNum l || fld w 19 16 != 1 || (readWord s (h + 12)).toNat != lOut l || (readWord s (h + 16)).toNat != lIn l
    || readNat s (h + 32) 8 != offRem l || readNat s (h + 40) 8 != offM1 l || readNat s (h + 48) 8 != offM2 l
    || stateEnd l != lStateLen l

/-! ## The update descriptor (Table 7-4) and the coefficient row (Tables 7-7, 7-8) -/

def uw (op : UpdOp) (i : Nat) : Word := op.desc.getD i 0#32
def uAddr (op : UpdOp) (i : Nat) : Nat := (uw op i).toNat + 2 ^ 32 * fld (uw op (i + 1)) 7 0
def gradFmt (op : UpdOp) : Nat := fld (uw op 1) 25 24
def gradScale (op : UpdOp) : BitVec 8 := BitVec.ofNat 8 (fld (uw op 1) 23 16)
def gradAddr (op : UpdOp) : Nat := uAddr op 4
def bitmapAddr (op : UpdOp) : Nat := uAddr op 6
def workAddr (op : UpdOp) : Nat := uAddr op 8
def workLen (op : UpdOp) : Nat := uAddr op 10

def cf (op : UpdOp) (i : Nat) : Word := op.coef.getD i 0#32
def ctrl (op : UpdOp) : Word := cf op 13
def orthoIters (op : UpdOp) : Nat := fld (ctrl op) 15 12
def wdMode (op : UpdOp) : Nat := fld (ctrl op) 9 8
def dirMode (op : UpdOp) : Nat := fld (ctrl op) 7 6
def useM1 (op : UpdOp) : Bool := bit (ctrl op) 2
def useM2 (op : UpdOp) : Bool := bit (ctrl op) 3

def isZeroF32 (w : Word) : Bool := w.toNat % 2 ^ 31 == 0

/-- a > b of FP32 values; false with a NaN. -/
def f32Gt (a b : Word) : Bool := !isNanF32 a && !isNanF32 b && fvLt (f32ToFv b) (f32ToFv a) && !(isZeroF32 a && isZeroF32 b)

/-- Bytes of a gradient row (Table 7-4). -/
def gradRowBytes (op : UpdOp) (l : Layer) : Nat :=
  if gradFmt op = 0 then momentRow l else if gradFmt op = 1 then 2 * colsPad l else 4 * colsPad l

/-- The work area is short or none while the iteration is enabled (R194). -/
def workShort (op : UpdOp) (l : Layer) : Bool :=
  let m := min (lOut l) (colsPad l)
  orthoIters op != 0 && (workAddr op == noAddr || decide (workLen op < 4 * lOut l * colsPad l + 8 * m * m))

/-- The descriptor is bad (R194). Of bits that Table 7-4 gives no meaning, the model takes non-zero bits 63:40 of an address or
of WORK_LEN, and a WORK area that does not begin in stack memory, as bad too (DESIGN CHOICE, log entry 52). -/
def updDescBad (s : State) (op : UpdOp) (l : Layer) : Bool :=
  gradFmt op == 3 || fld (uw op 1) 15 0 != 0 || uw op 12 != 0#32 || uw op 13 != 0#32 || uw op 14 != 0#32 || uw op 15 != 0#32
    || !isFiniteF32 (uw op 2) || !isFiniteF32 (uw op 3)
    || fld (uw op 5) 31 8 != 0 || fld (uw op 7) 31 8 != 0 || fld (uw op 9) 31 8 != 0 || fld (uw op 11) 31 8 != 0
    || overruns s (gradAddr op) (lOut l * gradRowBytes op l) || overruns s (bitmapAddr op) ((lOut l + 7) / 8)
    || (orthoIters op != 0 && workAddr op != noAddr
        && (overruns s (workAddr op) (workLen op) || areaOf (workAddr op) != .stack))

/-! ## Arithmetic of R196, R197 -/

def one32 : Word := 0x3F800000#32

/-- root(x) = x · RSQRT(x) for x > 0, else 0. -/
def root32 (x : Word) : Word :=
  if isNanF32 x then 0x7FC00000#32 else if f32Gt x 0#32 then f32Mul x (f32Rsqrt x) else 0#32

/-- Binary powering from the most significant set bit, each step rounded once (R197). -/
def pow32 (b : Word) (t : Nat) : Word :=
  ((List.range (Nat.log2 t)).reverse).foldl (fun r i =>
    let sq := f32Mul r r
    if t / 2 ^ i % 2 = 1 then f32Mul sq b else sq) b

def stepT (op : UpdOp) : Nat := min (op.step.toNat + 1) (2 ^ 31)

/-- Bias correction 1 − β^t, or 1 (R196). -/
def bias (on : Bool) (b : Word) (t : Nat) : Word := if on then f32Sub one32 (pow32 b t) else one32

def neg32 (w : Word) : Word := w ^^^ 0x80000000#32

/-- The partial sums of a row: one for each core's columns, in the order of SUM (R199). -/
def rowPartials (terms : List Word) : List Word := (chunks 4096 terms).map f32Sum

/-- A layer sum (R199); a partial beyond FP32 has no stated fold, so the sum is a free value. -/
def layerSum (rows : List (List Word)) (s : State) : Word × State :=
  let ps := rows.flatMap rowPartials
  if ps.any fun w => !isFiniteF32 w then
    let (n, s) := drawFree s
    (w32 n, s)
  else
    let top := ps.foldl (fun m w => dyMaxAbs m (f32ToDy w)) ⟨0, 0⟩
    if top.m = 0 then (0#32, s)
    else
      let base := dyLog2 ⟨Int.ofNat top.m.natAbs, top.e⟩ - 62
      let acc := ps.foldl (fun a w => let d := f32ToDy w; a.fold base d.m d.e) Acc.zero
      (dyToF32 ⟨acc.a, base⟩, s)

/-- Rows whose bit is 1 in the row gradient bitmap (R203). -/
def touchedRows (s : State) (op : UpdOp) (l : Layer) : List Nat :=
  (List.range (lOut l)).filter fun r => (memByte s (bitmapAddr op + r / 8)).toNat / 2 ^ (r % 8) % 2 == 1

/-- Blocks of a ZB8 gradient row, each with its address. -/
def gradBlocks (s : State) (op : UpdOp) (l : Layer) (r : Nat) : List (Nat × List Byte) :=
  let a := gradAddr op + r * gradRowBytes op l
  (List.range (rowBlocks (lIn l))).map fun b => (a + 33 * b, memGet s (a + 33 * b) 33)

/-- A gradient row decoded: none for an invalid element of a ZB8 block, or of a group whose entry holds a reserved bit (R134, R154,
R197). -/
def gradRow (s : State) (bad : List Range) (op : UpdOp) (l : Layer) (r : Nat) : List (Option Word) :=
  let b := gradRowBytes op l
  let a := gradAddr op + r * b
  let all : List (Option Word) :=
    if gradFmt op = 0 then
      (gradBlocks s op l r).flatMap fun blk =>
        let h := blk.2.headD 0#8
        (blk.2.drop 1).map fun c =>
          if zb8Bit h 4 || c == 0x80#8 || anyMeets bad blk.1 33 then none
          else some (dyToF32 ⟨c.toInt, (gradScale op).toInt + Int.ofNat (zb8Bump h)⟩)
    else
      let w := if gradFmt op = 1 then 2 else 4
      (List.range (lIn l)).map fun i =>
        if anyMeets bad (a + w * i) w then none
        else if gradFmt op = 1 then some (bf16ToF32 (BitVec.ofNat 16 (readNat s (a + w * i) 2)))
        else some (readWord s (a + w * i))
  all.take (lIn l)

/-- Cores that read a ZB8 block with the reserved bit in its header (R134). -/
def badHeaders (s : State) (op : UpdOp) (l : Layer) (rows : List Nat) : List Nat :=
  if gradFmt op != 0 then []
  else (rows.flatMap fun r => ((List.range (rowBlocks (lIn l))).filter fun b =>
    zb8Bit (memByte s (gradAddr op + r * gradRowBytes op l + 33 * b)) 4).map fun b => coreFor s (arrayOf l r (32 * b))).dedup

/-- A ZB8 block of the row carries POISON (R207). -/
def gradPoison (s : State) (op : UpdOp) (l : Layer) (r : Nat) : Bool :=
  gradFmt op == 0 && (gradBlocks s op l r).any fun blk => zb8Bit (blk.2.headD 0#8) 3

/-- decode(G) · GSCALE, an invalid element entering as 0 (R207). -/
def scaled (op : UpdOp) (g : Option Word) : Word :=
  match g with
  | some w => f32Mul w (uw op 2)
  | none => 0#32

/-- The master value of an element as FP32, exact; none when it is not finite, or lies in a group whose entry holds a reserved
bit. -/
def masterWord (s : State) (bad : List Range) (l : Layer) (r i : Nat) : Option Word :=
  let k := r * colsPad l + i
  let m := masterAt l r i
  let x := lState l + offRem l + k
  if anyMeets bad m 2 || anyMeets bad x 1 then none
  else (masterValue (BitVec.ofNat 16 (readNat s m 2)) (memByte s x)).map dyToF32

/-- A moment row decoded (R201): none for an invalid code. -/
def momentValues (s : State) (bad : List Range) (l : Layer) (off r : Nat) : List (Option Word) :=
  ((readBlocks s bad 8 (lState l + off + r * momentRow l) (rowBlocks (lIn l))).flatMap fun b =>
    b.codes.map fun c => c.map fun c => dyToF32 (zqValue 8 b.e c)).take (lIn l)

/-- What pass 2 gives for a row. -/
structure RowOut where
  d      : List Word
  m1     : List Word
  q      : List Word
  /-- Columns with a value that is not finite, and with a negative root moment. -/
  nonfin : List Nat
  m2neg  : List Nat
  deriving DecidableEq, Repr

/-- Pass 2 on one element (R196): d, m1, q, and whether a value was not finite, g as scaled and as clipped among them (R207). -/
def element (op : UpdOp) (k rc1 rs2 : Word) (g : Option Word) (w : Option Word) (m1 q : Option Word) :
    Word × Word × Word × Bool :=
  let g0 := scaled op g
  let g := f32Mul g0 k
  let ce := cf op 6
  let g := if f32Gt ce 0#32 then f32Min (f32Max g (neg32 ce)) ce else g
  let wv := w.getD 0x7FC00000#32
  let g := if wdMode op = 2 then f32Fma (cf op 4) wv g else g
  let m1' := if useM1 op then f32Fma (cf op 1) (m1.getD 0x7FC00000#32) (f32Mul (cf op 11) g) else 0#32
  let n := if useM1 op then f32Mul m1' rc1 else g
  let qv := q.getD 0x7FC00000#32
  let q' := if useM2 op then root32 (f32Fma (cf op 2) (f32Mul qv qv) (f32Mul (cf op 12) (f32Mul g g))) else 0#32
  let d := if dirMode op = 1 then f32Mul n (f32Recip (f32Fma q' rs2 (cf op 3)))
    else if dirMode op = 2 then
      (if f32Gt n 0#32 then one32 else if f32Gt 0#32 n then neg32 one32 else if isNanF32 n then n else 0#32)
    else n
  (d, m1', q', !(isFiniteF32 g0 && isFiniteF32 g && isFiniteF32 wv && isFiniteF32 m1' && isFiniteF32 q' && isFiniteF32 d))

/-- Indices of a list at which a test holds. -/
def indicesOf {α : Type} (p : α → Bool) (xs : List α) : List Nat :=
  (List.range xs.length).filter fun i => xs[i]?.any p

/-- A root-moment code was negative (R201). -/
def negCode (x : Option Word) : Bool := x.any fun w => bit w 31 && !isZeroF32 w

/-- Pass 2 on one row. -/
def momentsRow (s : State) (bad : List Range) (op : UpdOp) (l : Layer) (rc1 rs2 : Word) (r : Nat) : RowOut :=
  let g := gradRow s bad op l r
  let m1 := if useM1 op then momentValues s bad l (offM1 l) r else []
  let q := if useM2 op then momentValues s bad l (offM2 l) r else []
  let xs := (List.range (lIn l)).map fun i =>
    element op op.k rc1 rs2 (g.getD i none) (masterWord s bad l r i) (m1.getD i none) (q.getD i none)
  let neg := indicesOf negCode q
  ⟨xs.map (·.1), xs.map (·.2.1), xs.map (·.2.2.1), indicesOf (·.2.2.2) xs ++ neg, neg⟩

/-- A row of moments encoded to ZQ8 by the block rule (R201). -/
def momentBytes (xs : List Word) : List Byte :=
  (encodeRow (.zq 7#3) none false (xs.map fun w => { v := f32ToFv w })).1

/-! ## The orthogonalising iteration (R202) -/

/-- A row as ZQ8 blocks along the reduction. -/
def zq8Row (xs : List Word) : List ZqBlock :=
  (chunks 32 xs).map fun c => (encodeBlock 8 none false (c.map fun w => { v := f32ToFv w })).1

/-- A product of the matrix engines: rows of the left against rows of the right, both blocked along the reduction, folded
at base −80 and drained to FP32. -/
def matProduct (a b : List (List Word)) : List (List Word) :=
  let zb := b.map zq8Row
  (a.map zq8Row).map fun x => zb.map fun y =>
    let acc := dotRow 8 8 (-80) x y Acc.zero
    if acc.invalid then 0x7FC00000#32 else dyToF32 ⟨acc.a, -80⟩

def transposeW (cols : Nat) (a : List (List Word)) : List (List Word) :=
  (List.range cols).map fun i => a.map fun r => r.getD i 0#32

def matMap (f : Word → Word) (a : List (List Word)) : List (List Word) := a.map fun r => r.map f

def matZip (f : Word → Word → Word) (a b : List (List Word)) : List (List Word) := List.zipWith (List.zipWith f) a b

/-- P = OB · A + OC · (A · A); without the product when OC is 0. -/
def polyP (op : UpdOp) (n : Nat) (a : List (List Word)) : List (List Word) :=
  let t := matMap (f32Mul (cf op 8)) a
  if isZeroF32 (cf op 9) then t
  else matZip f32Add t (matMap (f32Mul (cf op 9)) (matProduct a (transposeW n a)))

/-- One iteration on X of n rows by `cols` columns. -/
def orthoStep (op : UpdOp) (n cols : Nat) (x : List (List Word)) : List (List Word) :=
  let oa (a b : Word) : Word := f32Fma (cf op 7) a b
  let xt := transposeW cols x
  if n ≤ cols then
    let p := polyP op n (matProduct x x)
    matZip oa x (matProduct p xt)
  else
    let p := polyP op cols (matProduct xt xt)
    matZip oa x (matProduct x (transposeW cols p))

def orthoRun (op : UpdOp) (n cols : Nat) : Nat → List (List Word) → List (List Word)
  | 0, x => x
  | k + 1, x => orthoRun op n cols k (orthoStep op n cols x)

/-- Pass 3 on the directions of the touched rows. -/
def orthogonalise (op : UpdOp) (cols : Nat) (d : List (List Word)) (s : State) : List (List Word) × State :=
  let (sum, s) := layerSum (d.map fun r => r.map fun x => f32Mul x x) s
  let sc := f32Recip (f32Add (root32 sum) (cf op 3))
  let x := orthoRun op d.length cols (orthoIters op) (matMap (fun v => f32Mul v sc) d)
  (matMap (f32Mul (cf op 10)) x, s)

/-! ## Pass 4 (R200, R204, R208) -/

/-- RNE((w' − b') · 256 / ulp(b')), clamped (R200). -/
def splitRem (w : Word) (b : BitVec 16) : Byte :=
  let d := dySub (f32ToDy w) (f32ToDy (bf16ToF32 b))
  let q := dyRne ⟨d.m, d.e + 8 - bf16UlpExp b⟩
  BitVec.ofInt 8 (if 127 < q then 127 else if q < -128 then -128 else q)

/-- The candidate code of R78 and whether the weight is selected. -/
def candidate (l : Layer) (u : Nat) (w : Word) : Nat × Bool :=
  let wd := lWidth l
  let m := f32ToDy w
  let v : Dy := ⟨m.m, m.e - (Int.ofNat (lWexp l) - 126 - Int.ofNat wd)⟩
  let c : Nat := if wd = 1 then (if 0 ≤ v.m then 1 else 0)
    else
      let k := dyRne v + pow2 (wd - 1)
      if k < 1 then 1 else if pow2 wd - 1 < k then (pow2 wd - 1).toNat else k.toNat
  let s := weightValue wd (Int.ofNat u)
  let diff := dySub v ⟨s, 0⟩
  let g : Int := if wd = 1 then 2 else 1
  (c, c != u && dyLe ⟨Int.ofNat (lThresh l) * g, -3⟩ ⟨Int.ofNat diff.m.natAbs, diff.e⟩)

/-- What pass 4 gives for a row. -/
structure MasterOut where
  row    : Nat
  b      : List (BitVec 16)
  rem    : List Byte
  codes  : List Nat
  chosen : List Nat
  dsq    : List Word
  wsq    : List Word
  /-- Columns with a value that is not finite. -/
  nonfin : List Nat
  deriving DecidableEq, Repr

/-- Pass 4 on one row: master, remainder, codes, selected columns, and the terms of the ratio. A finite w' whose BF16 part b'
rounds to an infinity counts as not finite, which R200 leaves open (DESIGN CHOICE, log entry 52). -/
def masterRow (s : State) (bad : List Range) (op : UpdOp) (l : Layer) (lr : Word) (r : Nat) (d : List Word) : MasterOut :=
  let xs := (List.range (lIn l)).map fun i =>
    let w := (masterWord s bad l r i).getD 0x7FC00000#32
    let di := d.getD i 0#32
    let u := if wdMode op = 1 then f32Fma (cf op 4) w di else di
    let w' := f32Fma (neg32 lr) u w
    let b := fvToBf16 (f32ToFv w')
    let rem := splitRem w' b
    let v := (masterValue b rem).map dyToF32
    let code := (memByte s (lShadow l + r * lIn l + i)).toNat
    let c := candidate l code w'
    let diff := f32Sub (v.getD 0x7FC00000#32) w
    (b, rem, if c.2 then c.1 else code, c.2, f32Mul diff diff, f32Mul w w, !isFiniteF32 w' || v.isNone)
  { row := r, b := xs.map (·.1), rem := xs.map (·.2.1), codes := xs.map (·.2.2.1)
    chosen := indicesOf (·.2.2.2.1) xs
    dsq := xs.map (·.2.2.2.2.1), wsq := xs.map (·.2.2.2.2.2.1), nonfin := indicesOf (·.2.2.2.2.2.2) xs }

/-- ρ (R208). -/
def ratioOf (sd sw : Word) : Word :=
  if isZeroF32 sd then 0#32 else if isZeroF32 sw then 0x7F800000#32 else f32Mul (root32 sd) (f32Recip (root32 sw))

def ratioFlagged (op : UpdOp) (rho : Word) : Bool :=
  (!isZeroF32 (cf op 15) && f32Gt rho (cf op 15)) || f32Gt (cf op 14) rho

/-! ## Staging (R192, R193) -/

/-- The staged header: the committed one with STEP, LAST_EPOCH, COEF_ROW, LAST_RATIO and LAST_GNORM of this update. -/
def stagedHeader (s : State) (op : UpdOp) (l : Layer) (epoch rho : Word) : List Byte :=
  let h := memGet s (lState l) 64
  let step := min (op.step.toNat + 1) 0xFFFFFFFF
  h.take 4 ++ leBytes 4 step ++ leBytes 4 epoch.toNat ++ (h.drop 12).take 8 ++ leBytes 4 (fld (uw op 1) 31 26)
    ++ bytesOfWord rho ++ bytesOfWord op.gnorm ++ h.drop 32

/-- The staged writes of one row. -/
def rowStores (op : UpdOp) (l : Layer) (m : MasterOut) : List (Nat × List Byte) :=
  let r := m.row
  let cp := colsPad l
  let pad (n : Nat) : List Byte := List.replicate n 0#8
  let base := lStaging l
  let find (t : List (Nat × List Byte)) : List Byte := ((t.find? fun e => e.1 == r).map (·.2)).getD []
  [(base + 64 + 2 * r * cp, (m.b.flatMap fun w => leBytes 2 w.toNat) ++ pad (2 * (cp - m.b.length))),
    (base + offRem l + r * cp, m.rem ++ pad (cp - m.rem.length))]
    ++ (if useM1 op then [(base + offM1 l + r * momentRow l, find op.m1)] else [])
    ++ (if useM2 op then [(base + offM2 l + r * momentRow l, find op.m2)] else [])
    ++ [(stgShadow l + r * lIn l, m.codes.map fun c => BitVec.ofNat 8 c)]

/-- The pending dirty bits of an array of the layer (R204). -/
def dirtyBits (l : Layer) (ms : List MasterOut) (a : Nat) : BitVec 512 :=
  ms.foldl (fun d m => m.chosen.foldl (fun d i =>
    if arrayOf l m.row i = a then d ||| BitVec.ofNat 512 (2 ^ (i % 512)) else d) d) 0#512

/-- Every store that an accepted update makes, in the order of R193. -/
def stagingStores (s : State) (op : UpdOp) (l : Layer) (epoch rho : Word) (ms : List MasterOut) : List (Nat × List Byte) :=
  let tail := tailAddr l
  let sections := (if useM1 op then 1 else 0) + (if useM2 op then 2 else 0)
  let listByte (k : Nat) : Byte := BitVec.ofNat 8 ((List.range 8).foldl (fun n i =>
    n + if ms.any (·.row == 8 * k + i) then 2 ^ i else 0) 0)
  [(lStaging l, stagedHeader s op l epoch rho)] ++ ms.flatMap (rowStores op l)
    ++ [(tail + 0x0C, leBytes 4 sections)]
    ++ ((lArrays l).map fun a => (stgDirty l + 64 * (a - lFirst l), leBytes 64 (dirtyBits l ms a).toNat))
    ++ [(rowListAddr l, (List.range (rowListBytes l)).map listByte), (tail + 4, leBytes 4 ms.length),
      (tail + 8, leBytes 4 epoch.toNat)]

/-- The launch's stores in order; one that is refused stops the launch, and those after it are not made (R167, R409). -/
def storeAll (uid : Nat) (xs : List (Nat × List Byte)) (s : State) : State :=
  xs.foldl (fun s x => if runs s uid then launchStore uid x.1 x.2 false {} s else s) s

/-- The staged groups that the read-back covers, with their check values as written: the staged state, the shadow and the dirty
bits, not the tail's words and row list (R275). -/
def stagedGroups (l : Layer) (xs : List (Nat × List Byte)) : List (BitVec 12 × Nat × Nat × Word) :=
  (xs.filter fun x => decide (x.1 < tailAddr l) || decide (stgShadow l ≤ x.1)).map fun x =>
    (BitVec.ofNat 12 (lNum l), x.1, x.2.length, crc32c x.2)

/-! ## The commands -/

def updErr (c i : Nat) (s : State) : State := modClus s c fun x => { x with updErr := setBit x.updErr i }

/-- An event of the layer as a whole: UPD_ERR of every cluster whose cores hold it (R211; log entry 52). -/
def layerErr (l : Layer) (i : Nat) (s : State) : State := (layerClusters l).foldl (fun s c => updErr c i s) s

/-- An event of elements, given as row and columns: UPD_ERR of the clusters whose cores hold them, and of the lead, where the job
reads it (R211). -/
def elementErr (l : Layer) (i : Nat) (xs : List (Nat × List Nat)) (s : State) : State :=
  let cs := xs.flatMap fun x => x.2.map fun c => clusterOfArray (arrayOf l x.1 c)
  if cs.isEmpty then s else (clusterOfArray (lFirst l) :: cs).dedup.foldl (fun s c => updErr c i s) s

/-- A layer's update is refused: the launch goes on and ends with a status (R190, R205, R206). -/
def refuseUpdate (uid st : Nat) (s : State) : State :=
  nextEntry uid (modLaunch s uid fun l => { l with status := BitVec.ofNat 16 (worst l.status.toNat st) })

/-- Caravans of an epoch that the table gives to a layer of a context (R250). -/
def tableCaravans (s : State) (l : LaunchS) (layer : BitVec 12) : List (BitVec 8) :=
  ((List.range 256).map (BitVec.ofNat 8)).filter fun n =>
    let e := cvEntry s n l.epoch
    readWord s e == l.epoch && fld (readWord s (e + 4)) 31 28 == l.ctx.toNat && fld (readWord s (e + 4)) 11 0 == layer.toNat

/-- The reduction of the layer is complete on this module: every caravan that the table gives it for the epoch, and every started
one of it, is COMPLETE (Table 6-6). A layer that the table gives none has no reduction to wait for (log entry 52). -/
def reductionDone (s : State) (l : LaunchS) (layer : BitVec 12) : Bool :=
  ((tableCaravans s l layer).all fun n => (findCv s l.ctx n l.epoch).any (·.state == 2#3))
    && s.fab.caravans.all fun v => !(v.ctx == l.ctx && v.epoch == l.epoch && v.layer == layer) || v.state == 2#3

/-- Caravans of the layer whose result the update reads (R268). -/
def readsCaravans (s : State) (l : LaunchS) (layer : BitVec 12) : List (BitVec 8) :=
  (s.fab.caravans.filter fun v => v.ctx == l.ctx && v.epoch == l.epoch && v.layer == layer).map (·.n)

/-- The first pass that runs (Table 7-5). -/
def firstPass (coef : List Word) : BitVec 3 := if f32Gt (coef.getD 5 0#32) 0#32 then 1#3 else 2#3

/-- Issues of the layer's passes, on every cluster whose cores hold it (R276). -/
def noteLayer (l : Layer) (uid : Nat) (s : State) : State := (layerClusters l).foldl (fun s c => noteIssue (16 * c) uid s) s

/-- The update of a launch as its entry finds it: descriptor, coefficient row and step counter (R194, R198, R205). -/
def latchUpdate (s : State) (e : Prog) (r : Layer) : UpdOp :=
  let lead := clusterOfArray (lFirst r)
  let desc := (List.range 16).map fun i => readWord s (e.inAddr.toNat + 4 * i)
  let coef := (List.range 16).map fun f => tget 0#32 (clus s lead).coef (16 * fld (desc.getD 1 0#32) 31 26 + f)
  { layer := e.layer, lead := lead, pass := firstPass coef, desc := desc, coef := coef, step := headerStep s r
    gnorm := 0#32, k := one32, dirs := [], m1 := [], m2 := [] }

/-- The checks that start a layer's update (R190, R194, R205, R206). -/
def startUpdate (uid : Nat) (s : State) : State :=
  match atPhase s uid 4 with
  | none => s
  | some (l, e) =>
    match readyLayer s l e with
    | none => s
    | some r =>
      if l.update.isSome || !reductionDone s l e.layer then s
      else
        let n := lNum r
        let s := modLayer s l.ctx n fun st => { st with named := true }
        if !lTrained r then nextEntry uid (layerErr r 5 s)
        else if r.st.started then refuseUpdate uid 0x30 (layerErr r 4 s)
        else
          let begin_ (f : LayerSt → LayerSt) (s : State) : State :=
            modLaunch (modLayer s l.ctx n fun st => f { st with started := true }) uid fun x => { x with
              updated := x.updated ++ [e.layer] }
          let head : Range := (lState r, 64)
          let desc : Range := (e.inAddr.toNat, 64)
          if !rangeOk s false (lState r) (lStateLen r) || !rangesOk s [desc] then
            stopLaunch uid 0x51 (begin_ (fun st => { st with refused := true }) s)
          else if rangesPoisoned s [head, desc] then terminateCtx l.ctx (relErr 8 s)
          else
            let (go, s) := consume l .good [head, desc] s
            if !go then s
            else if headerBad s r then
              refuseUpdate uid 0x30 (layerErr r 1 (begin_ (fun st => { st with refused := true }) s))
            else
              let op := latchUpdate s e r
              let short := workShort op r
              if updDescBad s op r || short then
                let s := layerErr r 2 (begin_ (fun st => { st with refused := true }) s)
                refuseUpdate uid 0x30 (if short then layerErr r 3 s else s)
              else if op.step != op.desc.getD 0 0#32 then
                refuseUpdate uid 0x34 (layerErr r 6 (begin_ (fun st => { st with mismatch := true }) s))
              else
                let s := noteLayer r uid (setUpdStat r l.ctx op.pass.toNat (begin_ id s))
                modLaunch s uid fun x => { x with
                  update := some op, readCv := (x.readCv ++ readsCaravans s l e.layer).dedup }

def execUpdate (launch : Nat) (s : State) : Res := .next (startUpdate launch s)

/-- The layer's clusters are idle again and the entry done. -/
def endUpdate (uid : Nat) (l : LaunchS) (r : Layer) (s : State) : State :=
  nextEntry uid (clearUpdStat r l.ctx (modLaunch s uid fun l => { l with update := none }))

/-- The update stops after the current pass and its layer takes SKIPPED (R207). -/
def skipUpdate (uid : Nat) (l : LaunchS) (r : Layer) (s : State) : State :=
  endUpdate uid l r (modLayer (clearRowList r s) l.ctx (lNum r) fun st => { st with skipped := true })

/-- The next pass begins. -/
def goPass (uid : Nat) (op : UpdOp) (l : LaunchS) (r : Layer) (p : BitVec 3) (s : State) : State :=
  setUpdStat r l.ctx p.toNat (modLaunch s uid fun x => { x with update := some { op with pass := p } })

/-- The context's policy (Table 9-6). -/
def policyOf (s : State) (c : BitVec 4) : Nat := fld (ctxU s c).policy 1 0

/-- Pass 4 on every touched row. -/
def masterRows (s : State) (bad : List Range) (op : UpdOp) (l : Layer) (dirs : List (Nat × List Word)) : List MasterOut :=
  dirs.map fun d => masterRow s bad op l (f32Mul (cf op 0) (uw op 3)) d.1 d.2

/-- End of pass 1: gnorm and k (R196). `skip` says that an invalid element stops the layer. -/
def endNorm (uid : Nat) (bad : List Range) (op : UpdOp) (l : LaunchS) (r : Layer) (rows : List Nat) (skip : Bool) (s : State) :
    State :=
  let gs := rows.map fun t => (t, (gradRow s bad op r t).map (scaled op))
  let nonfin := gs.map fun g => (g.1, indicesOf (fun w => !isFiniteF32 w) g.2)
  let s := elementErr r 7 nonfin s
  if skip || nonfin.any (fun x => !x.2.isEmpty) then skipUpdate uid l r s
  else
    let (sum, s) := layerSum (gs.map fun g => g.2.map fun w => f32Mul w w) s
    let gnorm := root32 sum
    let clip := cf op 5
    let k := if f32Gt clip 0#32 && f32Gt gnorm clip then f32Mul clip (f32Recip gnorm) else one32
    goPass uid { op with gnorm := gnorm, k := k } l r 2#3 s

/-- The end of pass 4: master, shadow, dirty bits and row list are staged, and the read-back begins (R193, R204, R208, R275). -/
def endMaster (uid : Nat) (bad : List Range) (op : UpdOp) (l : LaunchS) (r : Layer) (s : State) : State :=
  let ms := masterRows s bad op r op.dirs
  let s := elementErr r 7 (ms.map fun m => (m.row, m.nonfin)) s
  if ms.any fun m => !m.nonfin.isEmpty then skipUpdate uid l r s
  else
    let (sd, s) := layerSum (ms.map (·.dsq)) s
    let (sw, s) := layerSum (ms.map (·.wsq)) s
    let rho := ratioOf sd sw
    let flag := ratioFlagged op rho
    let stores := stagingStores s op r (openEpoch (ctxU s l.ctx)) rho ms
    let s := storeAll uid stores s
    if !runs s uid then modLayer s l.ctx (lNum r) fun st => { st with refused := true }
    else
      let s := if flag then layerErr r 9 s else s
      let s := modClus s op.lead fun x => { x with gnorm := op.gnorm, ratio := rho, layers := satWord x.layers 1 }
      let s := modLayer s l.ctx (lNum r) fun st => { st with staged := true, ratio := flag }
      endUpdate uid l r (modLaunch s uid fun x => { x with
        verify := x.verify ++ [op.layer], groups := x.groups ++ stagedGroups r stores })

/-- Place of a row's direction in WORK (Table 7-5): row after row, Cp FP32 values each (log entry 41). -/
def workRow (op : UpdOp) (r : Layer) (t : Nat) : Range := (workAddr op + 4 * t * colsPad r, 4 * colsPad r)

/-- The directions go to WORK, the padding as zeros, and the next pass begins (Table 7-5). -/
def storeWork (uid : Nat) (op : UpdOp) (l : LaunchS) (r : Layer) (p : BitVec 3) (s : State) : State :=
  let rowBytes (d : List Word) : List Byte := (d ++ List.replicate (colsPad r - d.length) 0#32).flatMap bytesOfWord
  let s := storeAll uid (op.dirs.map fun d => ((workRow op r d.1).1, rowBytes d.2)) s
  if runs s uid then goPass uid op l r p s else modLayer s l.ctx (lNum r) fun st => { st with refused := true }

/-- The directions that pass 3, and pass 4 after it, read back from WORK. -/
def fromWork (s : State) (op : UpdOp) (r : Layer) : List (Nat × List Word) :=
  op.dirs.map fun d => (d.1, (List.range (lIn r)).map fun i => readWord s ((workRow op r d.1).1 + 4 * i))

/-- End of pass 2 (R196, R201); with no iteration, pass 4 is joined to it. -/
def endMoments (uid : Nat) (bad : List Range) (op : UpdOp) (l : LaunchS) (r : Layer) (rows : List Nat) (skip : Bool) (s : State) :
    State :=
  let t := stepT op
  let rc1 := f32Recip (bias (bit (ctrl op) 4) (cf op 1) t)
  let rs2 := f32Rsqrt (bias (bit (ctrl op) 5) (cf op 2) t)
  let outs := rows.map fun x => (x, momentsRow s bad op r rc1 rs2 x)
  let dirs := outs.map fun o => (o.1, o.2.d)
  let nonfin := (outs.map fun o => (o.1, o.2.nonfin))
    ++ if orthoIters op = 0 then (masterRows s bad op r dirs).map fun m => (m.row, m.nonfin) else []
  let s := elementErr r 7 nonfin (elementErr r 8 (outs.map fun o => (o.1, o.2.m2neg)) s)
  if skip || nonfin.any (fun x => !x.2.isEmpty) then skipUpdate uid l r s
  else
    let op := { op with
      dirs := dirs, m1 := outs.map fun o => (o.1, momentBytes o.2.m1), m2 := outs.map fun o => (o.1, momentBytes o.2.q) }
    if orthoIters op = 0 then endMaster uid bad op l r s else storeWork uid op l r 3#3 s

/-- Pass 3 stages operand tiles in the upper half of the scratch of every core of the layer and in the upper 8 MiB of every store
of its clusters: what the job held there is lost, and what stands there is a free value (R202). -/
def stageTiles (l : Layer) (s : State) : State :=
  let areas := (((lArrays l).map (coreFor s)).dedup.map fun k => (0xC040000000 + 0x200000 * k + 0x100000, 0x100000))
    ++ (layerClusters l).map fun c => (0xC000000000 + 0x2000000 * c + 0x1800000, 0x800000)
  areas.foldl (fun s a =>
    let (bytes, s) := drawBytes a.2 s
    storeBytes s a.1 bytes false) s

/-- End of pass 3 (R202). -/
def endOrtho (uid : Nat) (op : UpdOp) (l : LaunchS) (r : Layer) (s : State) : State :=
  let x := fromWork s op r
  let (d, s) := orthogonalise op (lIn r) (x.map (·.2)) s
  let s := stageTiles r s
  let op := { op with dirs := List.zipWith (fun o y => (o.1, y)) x d }
  let nonfin := op.dirs.map fun o => (o.1, indicesOf (fun w => !isFiniteF32 w) o.2)
  let s := elementErr r 7 nonfin s
  if nonfin.any fun x => !x.2.isEmpty then skipUpdate uid l r s else storeWork uid op l r 4#3 s

/-- What a pass reads (Table 7-5); the fourth is joined to the second when there is no iteration. -/
def passReads (op : UpdOp) (r : Layer) (rows : List Nat) : List Range :=
  let last := op.pass == 4#3 || (op.pass == 2#3 && orthoIters op == 0)
  (if op.pass = 1#3 || op.pass = 2#3 then
      (bitmapAddr op, (lOut r + 7) / 8) :: rows.map fun t => (gradAddr op + t * gradRowBytes op r, gradRowBytes op r)
    else [])
    ++ (if op.pass = 2#3 || op.pass = 4#3 then rows.flatMap fun t =>
        [(lState r + 64 + 2 * t * colsPad r, 2 * colsPad r), (lState r + offRem r + t * colsPad r, colsPad r)] else [])
    ++ (if op.pass = 2#3 then rows.flatMap fun t =>
        (if useM1 op then [(lState r + offM1 r + t * momentRow r, momentRow r)] else [])
          ++ if useM2 op then [(lState r + offM2 r + t * momentRow r, momentRow r)] else []
      else [])
    ++ (if last then (lState r, 64) :: rows.map fun t => (lShadow r + t * lIn r, lIn r) else [])
    ++ (if op.pass = 3#3 || (op.pass = 4#3 && orthoIters op != 0) then rows.map (workRow op r) else [])

/-- The rows that a pass works on: those of the bitmap, and from pass 3 on those whose directions are in hand. -/
def passRows (s : State) (op : UpdOp) (r : Layer) : List Nat :=
  if op.pass = 1#3 || op.pass = 2#3 then touchedRows s op r else op.dirs.map (·.1)

/-- Every core of the layer has ended the pass (R195): its work is done, and the next pass starts or the update ends. -/
def passEnd (uid : Nat) (check : CheckSeen) (s : State) : State :=
  match atPhase s uid 4 with
  | none => s
  | some (l, _) =>
    match l.update with
    | none => s
    | some op => match layerRec s l.ctx op.layer.toNat with
      | none => s
      | some r =>
        let rows := passRows s op r
        let rs := passReads op r rows
        let s := noteLayer r uid s
        if !rangesOk s rs then stopLaunch uid 0x51 (modLayer s l.ctx (lNum r) fun st => { st with refused := true })
        else
          let (go, s) := consume l check rs s
          if !go then s
          else
            let reads := op.pass == 1#3 || op.pass == 2#3
            if rangesPoisoned s rs || (reads && rows.any (gradPoison s op r)) then terminateCtx l.ctx (relErr 8 s)
            else
              let bad := phaseBad s check rs fun b g =>
                if b then (masterAt r g 0, 2 * colsPad r) else tensorGroup 8 (gradAddr op) (rowBlocks (lIn r)) g
              let cores := (if reads then badHeaders s op r rows else [])
                ++ if bad.isEmpty then [] else (lArrays r).map (coreFor s)
              let s := cores.dedup.foldl (fun s k => modCore s k fun c => { c with fmtErr := setBit c.fmtErr 0 }) s
              let skip := reads && policyOf s l.ctx == 0 && rows.any fun t => (gradRow s bad op r t).any (·.isNone)
              if op.pass = 1#3 then endNorm uid bad op l r rows skip s
              else if op.pass = 2#3 then endMoments uid bad op l r rows skip s
              else if op.pass = 3#3 then endOrtho uid op l r s
              else endMaster uid bad { op with dirs := if orthoIters op = 0 then op.dirs else fromWork s op r } l r s

def execUpdatePassEnd (launch : Nat) (check : CheckSeen) (s : State) : Res := .next (passEnd launch check s)

/-! ## The coefficient rows (R209, R210) -/

/-- A CTRL word that is discarded: a reserved code, or ADAPTIVE without USE_M2. -/
def ctrlBad (v : Word) : Bool := fld v 9 8 == 3 || fld v 7 6 == 3 || (fld v 7 6 == 1 && !bit v 3)

/-- CTRL with its reserved bits zero. -/
def ctrlMask (v : Word) : Word := v &&& 0x0000F3FC#32

/-- A write of field f of row j; whether it was discarded. -/
def putCoef (c j f : Nat) (v : Word) (s : State) : Bool × State :=
  if (if f = 13 then ctrlBad v else !isFiniteF32 v) then (true, updErr c 0 s)
  else (false, modClus s c fun x => { x with coef := tset 0#32 x.coef (16 * j + f) (if f = 13 then ctrlMask v else v) })

def execCoefRowWrite (cluster row off : Nat) (value : Word) (s : State) : Res :=
  onUnit 32 cluster s fun s => if row < 64 && off < 64 then (putCoef cluster row (off / 4) value s).2 else s

/-- CRC-32 of a row's 64 bytes (R210). -/
def coefCrc (s : State) (c j : Nat) : Word :=
  crc32 ((List.range 16).flatMap fun f => bytesOfWord (tget 0#32 (clus s c).coef (16 * j + f)))

def takeCoefSum (c j : Nat) (s : State) : State :=
  let v := coefCrc s c j
  modClus s c fun x => { x with coefSum := tset 0#32 x.coefSum j v }

def execCoefSumReady (cluster row : Nat) (s : State) : Res :=
  onUnit 32 cluster s fun s => if row < 64 then takeCoefSum cluster row s else s

end Sys2Proof.Machine
end

