-- ==== Sys2Proof/Machine/Power.lean ====
section
/-! DEFINITION. Power (spec/12): DVFS, the drover notices, the limit ladder and the thermal floor, regions and their phases,
the watch comparators, trips and the requests for a reset. -/

namespace Sys2Proof.Machine

/-! ## DVFS (R332 to R334) -/

/-- VCORE target of a point in millivolts (Table 12-5). -/
def pointMv (p : Nat) : Nat := [750, 710, 680, 650, 620].getD p 620

/-- Failed uncore phases of a die (R327). -/
def uncoreFails (s : State) (die : Nat) : Nat := s.pwr.uncore.countP fun u => u / 12 == die

/-- P4 is held by protection or by the uncore phases (R334). -/
def protectiveFloor (s : State) : Bool := bit s.pwr.dvfs 15 || decide (3 ≤ uncoreFails s 0) || decide (3 ≤ uncoreFails s 1)

/-- The slowest of the requested point and the floors (R334). -/
def requiredPoint (s : State) : Nat :=
  max (max (fld s.pwr.dvfs 2 0) (fld s.pwr.dvfs 10 8)) (max (fld s.pwr.dvfs 14 12) (if protectiveFloor s then 4 else 0))

def activePoint (s : State) : Nat := fld s.pwr.dvfs 6 4

def slewing (s : State) : Bool := bit s.pwr.stat 10

/-- A move to the required point begins: ACTIVE names it, SLEWING reads 1, and the voltage target is announced; a protective
lowering goes before every other frame (R331, R333). -/
def beginMove (s : State) : State :=
  let q := requiredPoint s
  let slower := decide (activePoint s < q)
  if q = activePoint s then s
  else
    let s := modPwr s fun p => { p with
      dvfs := setFld p.dvfs 6 4 q, stat := setBit p.stat 10, dvfsAt := some s.rack.toNat }
    notice (if slower && protectiveFloor s then 1 else 3) (noticeFrame 1 0 63 (pointMv q)) s

/-- PROTECT follows the protective actions in force; a protective lowering starts at once (Table 12-8, Table 12-12). -/
def applyProtect (s : State) : State :=
  let s := modPwr s fun p => { p with dvfs := putBit p.dvfs 15 (p.protUv || p.protFlow) }
  if protectiveFloor s && decide (activePoint s < 4) then beginMove s else s

/-- PWR_DVFS.REQ: codes 5 to 7 are discarded (Table 12-14). -/
def requestPoint (v : Word) (s : State) : State :=
  if 4 < fld v 2 0 then pwrErr 0 false s else modPwr s fun p => { p with dvfs := setFld p.dvfs 2 0 (fld v 2 0) }

def execDvfsRequest (value : Word) (s : State) : Res := .next (requestPoint value s)

/-- A frame was sent within the last 2 µs: 312.5 ticks of the rack reference (Table 12-12). -/
def noticeLately (s : State) : Bool :=
  match s.pwr.noticeAt with
  | some t => decide (s.rack.toNat < t + 313)
  | none => false

/-- A move began within the last 100 µs: 15,625 ticks of the rack reference (R334). -/
def movedLately (s : State) : Bool :=
  match s.pwr.dvfsAt with
  | some t => decide (s.rack.toNat < t + 15625)
  | none => false

/-- A move that is due begins once the last has settled; one that is no protective lowering waits until no notice was sent in
the last 2 µs and 100 µs have passed since the last move began (R333, R334, R37, Table 12-12; that the 100 µs count from the
beginning is DEDUCED, log entry 55). -/
def dvfsChange (s : State) : State :=
  let protects := protectiveFloor s && decide (activePoint s < requiredPoint s)
  if slewing s || ((noticeLately s || movedLately s) && !protects) then s else beginMove s

def execDvfsChange (s : State) : Res := .next (dvfsChange s)

def execDvfsSettled (s : State) : Res := .next (modPwr s fun p => { p with stat := clrBit p.stat 10 })

/-- The clock generator locks to RREF, or runs from the module's own reference (R347). -/
def execClockLock (rref : Bool) (s : State) : Res :=
  .next (modPwr s fun p => { p with clkStat := putBit (putBit (putBit p.clkStat 0 rref) 1 rref) 2 (!rref) })

/-! ## Drover notices (R330, R331, Table 12-12) -/

def isLoadNotice (n : Notice) : Bool := fld n.frame 31 30 == 0

/-- The first frame that may leave: load notices are held while SLEWING is 1. -/
def nextNotice (s : State) : Option Notice := s.pwr.notices.find? fun n => !(slewing s && isLoadNotice n)

/-- Frames left behind by a slot: those a slew holds are counted once in HELD, and each has waited. -/
def passSlot (hold : Bool) (s : State) : State :=
  let held := s.pwr.notices.countP fun n => hold && isLoadNotice n && !n.held
  modPwr s fun p => { p with
    notices := p.notices.map fun n => { n with waited := true, held := n.held || (hold && isLoadNotice n) }
    noticeCnt := satFld p.noticeCnt 31 16 held }

/-- The time from which the waiting engines of a cluster count their 2 µs (R108): when their VCORE notice is sent, or none while it
has to be sent again. -/
def setWake (c : Nat) (again : Bool) (at_ : Option Nat) (s : State) : State :=
  (List.range 16).foldl (fun s i =>
    if (core s (16 * c + i)).power = 1#2 && (again || (core s (16 * c + i)).wakeAt.isNone) then
      modCore s (16 * c + i) fun x => { x with wakeAt := at_ }
    else s) s

/-- One 100 ns slot: the due frame of highest precedence is sent; LATE counts one that leaves after its slot. -/
def noticeSlot (s : State) : State :=
  let hold := slewing s
  match nextNotice s with
  | none => passSlot hold s
  | some n =>
    let s := modPwr s fun p => { p with
      notices := p.notices.erase n, lastNotice := some n.frame, noticeAt := some s.rack.toNat
      noticeCnt := if n.waited then satFld p.noticeCnt 15 0 1 else p.noticeCnt }
    let s := if isLoadNotice n && fld n.frame 29 27 == 0 then setWake (fld n.frame 26 21) false (some s.rack.toNat) s else s
    passSlot hold { s with out := .notice n.frame :: s.out }

def execNoticeSlot (s : State) : Res := .next (noticeSlot s)

/-- A frame that the stage could not decode goes again in the next slot (R330). -/
def noticeBad (s : State) : State :=
  match s.pwr.lastNotice with
  | none => s
  | some f => pwrErr 8 false (notice 0 f (if fld f 31 30 = 0 && fld f 29 27 = 0 then setWake (fld f 26 21) true none s else s))

def execNoticeBad (s : State) : Res := .next (noticeBad s)

/-! ## Telemetry, ladder and throttle (R324, R335, R336) -/

/-- A telemetry reading: INPUT_W is the mean of the last 1 ms. Its rounding to a whole watt is not given, so a mean that is
no whole number reads as either neighbour (log entry 5). -/
def telemetry (watts : Nat) (s : State) : State :=
  let kept := s.pwr.samples.drop (s.pwr.samples.length - 99) ++ [watts]
  let sum := kept.foldl (· + ·) 0
  let (f, s) := drawFree s
  let mean := sum / kept.length + if sum % kept.length = 0 then 0 else f % 2
  modPwr s fun p => { p with samples := kept, stat := setFld p.stat 22 11 mean }

def execTelemetry (watts : BitVec 12) (s : State) : Res := .next (telemetry watts.toNat s)

def ladder (s : State) : Nat := fld s.pwr.stat 9 7

/-- POWER_FLOOR and POWER_LIMIT of the ladder steps in force (Table 12-6). -/
def ladderFloor (order : Bool) (n : Nat) : Nat := if order then n - 3 else min n 4

def ladderLimit (order : Bool) (n : Nat) : Nat := 512 / 2 ^ (if order then min n 3 else n - 4)

def applyLadder (n : Nat) (s : State) : State :=
  let order := bit s.pwr.cfg 12
  modPwr s fun p => { p with
    stat := setFld p.stat 9 7 n
    dvfs := setFld p.dvfs 10 8 (ladderFloor order n)
    powerLimit := ladderLimit order n }

/-- Checks that make 10 ms, the first included (R335, R336). -/
def calmChecks : Nat := 101

/-- The comparison every 100 µs of the mean input power with LIMIT_W (R335). -/
def ladderCompare (s : State) : State :=
  let n := s.pwr.samples.length
  let sum := s.pwr.samples.foldl (· + ·) 0
  let limit := fld s.pwr.cfg 11 0
  let l := ladder s
  if limit * n < sum then
    let s := modPwr s fun p => { p with calmPower := 0 }
    if l = 7 then pwrErr 10 true s
    else
      let s := applyLadder (l + 1) s
      if l = 0 then pwrErr 3 true s else s
  else if 100 * sum < 95 * limit * n then
    let calm := min (s.pwr.calmPower + 1) calmChecks
    if calm = calmChecks && decide (0 < l) then applyLadder (l - 1) (modPwr s fun p => { p with calmPower := 1 })
    else modPwr s fun p => { p with calmPower := calm }
  else modPwr s fun p => { p with calmPower := 0 }

def execLadderCompare (s : State) : Res := .next (ladderCompare s)

/-- Some cluster at or above a temperature; every cluster at or below it. -/
def hotAt (s : State) (t : Nat) : Bool := s.clusters.any fun c => decide ((t + 64) * 4 ≤ c.2.tj.toNat)

def coolAt (s : State) (t : Nat) : Bool := s.clusters.all fun c => decide (c.2.tj.toNat ≤ (t + 64) * 4)

def thermalFloor (s : State) : Nat := fld s.pwr.dvfs 14 12

def setThermalFloor (n : Nat) (s : State) : State := modPwr s fun p => { p with dvfs := setFld p.dvfs 14 12 n }

/-- The check every 100 µs of the cluster temperatures (R336). -/
def thermalCheck (s : State) : State :=
  let t := fld s.pwr.therm 6 0
  let f := thermalFloor s
  if hotAt s t then
    let s := modPwr s fun p => { p with calmHeat := 0 }
    if f = 0 then pwrErr 4 true (setThermalFloor 1 s) else setThermalFloor (min 4 (f + 1)) s
  else if coolAt s (t - 3) then
    let calm := min (s.pwr.calmHeat + 1) calmChecks
    if calm = calmChecks && decide (0 < f) then setThermalFloor (f - 1) (modPwr s fun p => { p with calmHeat := 1 })
    else modPwr s fun p => { p with calmHeat := calm }
  else modPwr s fun p => { p with calmHeat := 0 }

def execThermalCheck (s : State) : Res := .next (thermalCheck s)

/-! ## Requests for a reset (R343, R345, R399) -/

/-- A reset of a kind loses at least what another does: power-on 0, COLD 2, WARM 1. -/
def strongerKind (a b : BitVec 2) : BitVec 2 := if a = 0#2 || b = 0#2 then 0#2 else if a = 2#2 || b = 2#2 then 2#2 else 1#2

/-- The contents of stack memory are lost. -/
def loseStacks (s : State) : State :=
  { s with mem := s.mem.filter fun c => decide (0xC000000000 ≤ c.1)
           poison := s.poison.filter fun g => decide (0xC000000000 ≤ 64 * g) }

/-- A reset is asked for. The first cause is recorded, and the conditions of every cause apply; the reset line goes before a
DEV_RESET or a wake that has not begun (R399). In a reset that already runs, only what the new cause loses is lost. -/
def requestReset (cause : BitVec 4) (kind : BitVec 2) (s : State) : State :=
  match s.pwr.state with
  | .off => s
  | .resetting =>
    let s := if kind = 1#2 then s else loseStacks s
    modPwr s fun p => { p with resetKind := strongerKind p.resetKind kind }
  | _ =>
    match s.pwr.resetReq with
    | none => modPwr s fun p => { p with resetReq := some (cause, kind) }
    | some (c, k) =>
      let yields := cause == 5#4 && (c == 1#4 || c == 2#4 || c == 4#4)
      modPwr s fun p => { p with resetReq := some (if yields then cause else c, strongerKind k kind) }

def isAwake (s : State) : Bool := s.pwr.state == .awake

def isAsleep (s : State) : Bool := s.pwr.state == .asleep

/-- An enabled comparator wakes a sleeping module (R342). -/
def wakeOn (b : Nat) (s : State) : State :=
  if isAsleep s && bit s.pwr.watchCtl b then requestReset 4#4 1#2 s else s

/-! ## VCORE phases (R325 to R327) -/

/-- Contents of a cluster's store and of its cores' scratch are lost (R338). -/
def loseCluster (c : Nat) (s : State) : State :=
  let mine (a : Nat) : Bool := match areaOf a with
    | .store d => d == c
    | .scratch k => clusterOfCore k == c
    | _ => false
  { s with mem := s.mem.filter fun x => !mine x.1, poison := s.poison.filter fun g => !mine (64 * g) }

/-- The launch's CLUSTERS bit names the cluster, or a layer of it has arrays there (R292). -/
def launchOnCluster (s : State) (c : Nat) (l : LaunchS) : Bool :=
  bit l.clusters c || l.layers.any fun n =>
    match (l.recs.find? fun r => lNum r == n.toNat).or (layerRec s l.ctx n.toNat) with
    | some r => (lArrays r).any fun a => clusterOfArray a == c
    | none => false

/-- Both regions of a cluster are switched off at once (Table 12-2). -/
def cutRegions (c : Nat) (s : State) : State :=
  loseCluster c (modClus s c fun x => { x with
    region := setFld (setFld x.region 9 8 0) 7 6 0, upDig := false, upArr := false })

/-- The release that a disconnection of VPROG from `n` arrays of a cluster at once sends, when it is more than 4 A at 0.143 A
an array (R331, Table 12-3). -/
def releaseVprog (c n : Nat) (s : State) : State :=
  if 4000 < 143 * n then notice 2 (noticeFrame 2 1 c (1144 * n / 1000)) s else s

/-- A cluster goes dark (Table 12-2, R292): it is fenced, its launches end with FENCED_UNIT, its writes stop. -/
def darken (c : Nat) (s : State) : State :=
  let s := ((s.launches.filter fun l => l.state != .held && inFlight l && launchOnCluster s c l).map (·.uid)).foldl
    (fun s u => stopLaunch u 0x60 s) s
  let s := ((List.range 16).map (16 * c + ·)).foldl (fun s k => discardCore s k fun _ => true) s
  let s := releaseVprog c (s.arrays.countP fun e => clusterOfArray e.1 == c && e.2.granted) s
  let s := ((s.arrays.map (·.1)).filter fun a => clusterOfArray a == c).foldl (fun s a =>
    let (time, s) := drawFree (dropTrace a s)
    modArr s a fun u => stopWrite time (restartProduct { u with cal := none, slotKept := false })) s
  let s := cutRegions c (modClus s c fun x => { x with region := setBit (clrBit x.region 17) 16 })
  let s := ((List.range 128).map (128 * c + ·)).foldl (fun s a =>
    retestDone 2#4 a false (calWaiters a (arrayWriteDone a 0 0 1 0 (arrayDone a { fenced := 1 } s)))) s
  let s := ((List.range 16).map (16 * c + ·)).foldl (fun s k => retestDone 1#4 k false s) s
  sweepDestroy (countUnits (relErr 12 (pwrErr 7 true s)))

def phaseOk (s : State) (c i : Nat) : Bool := bit (clus s c).region (18 + i % 6)

/-- The effect of a failed phase of a cluster, at the report and again at start-up (R326, Table 12-2). -/
def failPhase (c i : Nat) (s : State) : State :=
  let s := pwrErr 6 true (modClus s c fun x => { x with region := clrBit x.region (18 + i) })
  let failed := (List.range 6).countP fun j => !phaseOk s c j
  if failed = 1 then modClus s c fun x => { x with region := setBit x.region 17 }
  else if bit (clus s c).region 16 then s
  else darken c s

/-- The stage reports a phase fault: recorded as permanent at the first event (Table 10-4). -/
def phaseFault (c i : Nat) (s : State) : State :=
  if 6 ≤ i || !phaseOk s c i then s
  else failPhase c i (setPermanent 5#4 (6 * c + i) (addEvent 5#4 (6 * c + i) s))

def execPhaseFault (cluster phase : Nat) (s : State) : Res := onUnit 32 cluster s (phaseFault cluster phase)

/-- The effect of a failed uncore phase (R327): P4 from three of a die on, every domain but VAON off from seven on. -/
def failUncore (u : Nat) (s : State) : State :=
  let s := pwrErr 11 true (modPwr s fun p => { p with uncore := insertNat u p.uncore })
  if 7 ≤ uncoreFails s (u / 12) then requestReset 9#4 2#2 (modPwr s fun p => { p with lockedOff := true })
  else applyProtect s

def uncoreFault (u : Nat) (s : State) : State :=
  if s.pwr.uncore.contains u then s
  else failUncore u (setPermanent 5#4 (192 + u) (addEvent 5#4 (192 + u) s))

def execUncorePhaseFault (phase : Nat) (s : State) : Res := onUnit 24 phase s (uncoreFault phase)

/-! ## Regions (R337 to R340) -/

/-- An array keeps its region on: it is WRITING, REFRESHING or CALIBRATING, holds a grant or has a rewrite due (R338). A
fenced array does no such work. -/
def arrayHolds (s : State) (a : Nat) : Bool :=
  let u := arr s a
  !outOfWork u && !coreFenced s (coreOfArray a) && (arrMode u != 0 || u.granted || bit u.wrstat 1)

/-- What holds a switch-off of a cluster's regions (R338). -/
def regionHeld (s : State) (c : Nat) : Bool :=
  ((List.range 16).any fun i =>
      let k := core s (16 * c + i)
      !k.passq.isEmpty || k.stream.isSome || !k.drain.isEmpty)
    || (s.launches.any fun l => l.state != .held && inFlight l && launchOnCluster s c l)
    || (s.fab.caravans.any fun v => v.state == 1#3)
    || (List.range 128).any fun i => arrayHolds s (128 * c + i)

/-- A held switch-off happens when nothing holds it (R338). -/
def switchOff (c : Nat) (r : Region) (s : State) : State :=
  if regState r (clus s c).region != 3 || regionHeld s c then s
  else
    let s := modClus s c fun x => { x with region := setRegState r 0 x.region }
    match r with
    | .digital => loseCluster c s
    | .array => s

def execRegionSwitchOff (cluster : Nat) (r : Region) (s : State) : Res := onUnit 32 cluster s (switchOff cluster r)

/-- A switch-off is asked for; one during a power-on waits for its end. -/
def askOff (c : Nat) (r : Region) (s : State) : State :=
  let s := modClus s c fun x => { x with region := clrBit x.region (onBit r) }
  if regState r (clus s c).region = 2 then
    switchOff c r (modClus s c fun x => { x with region := setRegState r 3 x.region })
  else s

/-- A write of PWR_REGION[c] (R337, R338, Table 12-14). -/
def writeRegion (c : Nat) (v : Word) (s : State) : State :=
  if bit (clus s c).region 16 then pwrErr 0 false s
  else [Region.digital, Region.array].foldl (fun s r =>
    if bit v (onBit r) then askPowerOn c r s
    else if bit (clus s c).region (onBit r) then askOff c r s else s) s

def execRegionWrite (cluster : Nat) (value : Word) (s : State) : Res := onUnit 32 cluster s (writeRegion cluster value)

/-- Rating of a phase in amperes: 12 beside a failed one, else 10 (Table 12-2). -/
def phaseRating (s : State) (c i : Nat) : Nat := if phaseOk s c (i + 1) && phaseOk s c (i + 5) then 10 else 12

/-- A neighbour phase carries more than 90 % of its rating. The currents, in sixteenths of an ampere, are those of phases 0
to 5 of cluster c − 1 and then of cluster c + 1 (R340). -/
def neighbourHot (s : State) (c : Nat) (amps16 : List Nat) : Bool :=
  (List.range 12).any fun j =>
    let n := if j < 6 then c - 1 else c + 1
    (decide (6 ≤ j) || decide (0 < c)) && n / 16 == c / 16 && phaseOk s n (j % 6)
      && decide (phaseRating s n (j % 6) * 16 * 9 < amps16.getD j 0 * 10)

def begun (r : Region) (x : ClusterU) : Bool :=
  match r with
  | .digital => x.upDig
  | .array => x.upArr

def setBegun (r : Region) (b : Bool) (x : ClusterU) : ClusterU :=
  match r with
  | .digital => { x with upDig := b }
  | .array => { x with upArr := b }

/-- Supply domain of a region in a notice (Table 12-4). -/
def regionDomain (r : Region) : Nat :=
  match r with
  | .digital => 0
  | .array => 2

/-- A power-on begins with its load notice, on VCORE or VAR (Tables 12-3, 12-7). The region's inrush and idle load is not
given: a free value. A digital region that had to wait for a neighbour sets SLOW_RAMP (R340). -/
def powerOn (c : Nat) (r : Region) (amps16 : List Nat) (s : State) : State :=
  if regState r (clus s c).region != 1 || begun r (clus s c) || bit (clus s c).region 16 then s
  else
    let slow := r == .digital && neighbourHot s c amps16
    let s := modClus s c (setBegun r true)
    let s := if slow then pwrErr 9 false s else s
    let (f, s) := drawFree s
    notice 4 (noticeFrame 0 (regionDomain r) c f) s

def execRegionPowerOn (cluster : Nat) (r : Region) (phaseAmps16 : List Nat) (s : State) : Res :=
  onUnit 32 cluster s (powerOn cluster r phaseAmps16)

/-- An ACTIVE array whose region returns calibrates when its period has elapsed or its temperature has moved (Table 2-9). -/
def arrayReturns (a : Nat) (s : State) : State :=
  let u := arr s a
  if arrMode u != 0 || bit u.state 17 then s
  else if u.dueOrder.isSome || beyondDt u (clus s (clusterOfArray a)).tj.toNat then enterCal a 7 false s
  else boundary a s

/-- A power-on ends (R339): the SRAMs hold zero, or the arrays are as Table 2-9 decides; a switch-off asked for meanwhile
follows. A notice that has not been sent moves the load back (R331). -/
def powerOnDone (c : Nat) (r : Region) (s : State) : State :=
  if regState r (clus s c).region != 1 || !begun r (clus s c) || noticeUnsent s (regionDomain r) c then s
  else
    let s := modClus s c fun x => setBegun r false { x with region := setRegState r 2 x.region }
    let s := match r with
      | .digital => loseCluster c s
      | .array => ((List.range 128).map (128 * c + ·)).foldl (fun s a => arrayReturns a s) s
    if bit (clus s c).region (onBit r) then s else askOff c r s

def execRegionPowerOnDone (cluster : Nat) (r : Region) (s : State) : Res := onUnit 32 cluster s (powerOnDone cluster r)

/-! ## The watch comparators (R341, Table 12-8) -/

/-- VAON is up, so the watch runs. -/
def watchOn (s : State) : Bool := s.pwr.vaon

/-- UV48: protective action and black-box record awake, wake asleep. -/
def uv48 (s : State) : State :=
  if !watchOn s then s
  else
    let s := sidebandEvent 1#3 (watchEvent 0 s)
    if isAwake s then
      let s := blackbox 1 (pwrErr 2 true s)
      applyProtect (modPwr s fun p => { p with protUv := true })
    else wakeOn 0 s

def execUv48 (s : State) : Res := .next (uv48 s)

def execUv48Lift (s : State) : Res := .next (applyProtect (modPwr s fun p => { p with protUv := false }))

/-- VAON low; below 0.70 V the retention latches are lost, a power-on reset (Table 12-10). -/
def vaonLow (lost : Bool) (s : State) : State :=
  if !watchOn s then s
  else
    let s := blackbox 6 (watchEvent 1 s)
    let s := if isAwake s then pwrErr 1 true s else wakeOn 1 s
    if lost then requestReset 0#4 0#2 s else s

def execVaonLow (lost : Bool) (s : State) : Res := .next (vaonLow lost s)

/-- A thermal trip (R343). -/
def overtemp (s : State) : State :=
  if !watchOn s then s
  else
    let s := blackbox 2 (sidebandEvent 2#3 (watchEvent 2 s))
    requestReset 6#4 2#2 (modPwr s fun p => { p with thermTrip := true, tripHot := true })

def execOvertemp (s : State) : Res := .next (overtemp s)

def execWake (s : State) : Res := .next (if watchOn s then wakeOn 3 (watchEvent 3 s) else s)

/-- The strobe of the twin is lost; awake it is not checked (R401). -/
def execTwinHb (s : State) : Res := .next (if isAsleep s then wakeOn 4 (sidebandEvent 0#3 (watchEvent 4 s)) else s)

/-- Coolant flow low for 100 ms: protective awake, recorded asleep. -/
def flow (s : State) : State :=
  if !watchOn s then s
  else
    let s := modPwr (watchEvent 5 s) fun p => { p with flowLow := true }
    if isAwake s then applyProtect (modPwr (pwrErr 5 true s) fun p => { p with protFlow := true }) else s

def execFlow (s : State) : Res := .next (flow s)

/-- A flow trip, with its COMPARATOR record (R343, R400). -/
def flowTrip (s : State) : State :=
  if !watchOn s then s
  else requestReset 8#4 2#2 (blackbox 3 (sidebandEvent 3#3 (watchEvent 5 (modPwr s fun p => { p with flowLow := true }))))

def execFlowTrip (s : State) : Res := .next (flowTrip s)

/-- FLOW_OK is high again: the count of low samples and the protective state end. -/
def execFlowPresent (s : State) : Res :=
  .next (applyProtect (modPwr s fun p => { p with flowLow := false, protFlow := false }))

/-- TWIN_HB_OUT goes high for one watch tick (R401). -/
def execHeartbeatStrobe (s : State) : Res := .next (if watchOn s then modPwr s fun p => { p with hbOut := true } else s)

/-! ## Pins and input (R395, R397, R345) -/

/-- MRST# asserted for 1 µs or more (R397). -/
def execMrst (s : State) : Res := .next (requestReset 5#4 2#2 (modPwr s fun p => { p with mrstPin := true }))

def execMrstRelease (s : State) : Res := .next (modPwr s fun p => { p with mrstPin := false })

/-- 48 V rises above 42.0 V: the watch converter starts (R395). -/
def execInputRise (s : State) : Res := .next (modPwr s fun p => { p with input := true })

/-- PWR_WDOG not kicked for TIMEOUT_MS: a WARM reset, with a black-box record (R373, R388). At least that time has passed. -/
def watchdogExpiry (s : State) : State :=
  if !s.pwr.wdogArmed then s
  else
    let t := s.pwr.wdogKick.toNat + 156250 * fld s.pwr.wdog 7 0
    let s := { s with rack := w64 (max s.rack.toNat t) }
    requestReset 3#4 1#2 (blackbox 4 (modPwr s fun p => { p with wdogArmed := false }))

def execWatchdogExpiry (s : State) : Res := .next (watchdogExpiry s)

/-- The kick restarts the firmware watchdog (Table 12-14). -/
def kickWdog (s : State) : State := modPwr s fun p => { p with wdogKick := s.rack }

def execKick (s : State) : Res := .next (kickWdog s)

end Sys2Proof.Machine
end

