-- ==== Sys2Proof/Machine/Reset.lean ====
section
/-! DEFINITION. What a module reset, sleep and power-on lose and keep (Table 12-9, R351), and the reset itself (R344 to
R346). -/

namespace Sys2Proof.Machine

/-! ## What is lost -/

/-- The cell image of an array whose write a reset cuts: the unfinished row is unknown, a free value per cell (Table 3-5). -/
def cutImage (f : Nat) (u : ArrU) : List (Nat × Nat) :=
  match u.write with
  | some w => match w.row with
    | some r => setRowImage u.image r ((List.range 528).map fun p => (p, f / 4 ^ p % 4))
    | none => u.image
  | none => u.image

/-- The cells and the wear record of an array, and nothing else (Table 12-9). -/
def barrenArray (f : Nat) (u : ArrU) : ArrU :=
  { ArrU.reset with
    image := cutImage f u, writes := u.writes, refreshes := u.refreshes, pulses := u.pulses, stuck := u.stuck
    hours := u.hours, groups := u.groups }

/-- An array after a COLD or WARM reset: its retained fields stay (Table 12-9, R13). -/
def keptArray (f : Nat) (u : ArrU) : ArrU :=
  { barrenArray f u with
    state := setFld ArrU.reset.state 19 17 (fld u.state 19 17)
    cfg := setFld (setFld ArrU.reset.cfg 27 12 (fld u.cfg 27 12)) 8 8 (fld u.cfg 8 8)
    qual := setFld (setFld 0#32 25 16 (fld u.qual 25 16)) 7 0 (fld u.qual 7 0)
    wrcfg := setFld (setFld ArrU.reset.wrcfg 27 16 (fld u.wrcfg 27 16)) 8 3 (fld u.wrcfg 8 3)
    refreshOrder := BitVec.ofNat 12 (fld u.wrcfg 27 16)
    wrstat := setFld ArrU.reset.wrstat 5 4 (fld u.wrstat 5 4)
    spareMap := u.spareMap, trims := u.trims
    traceRef := u.traceRef, traceLast := u.traceLast, traceTj := u.traceTj }

/-- An array after a power-on reset: the cells stay; the wear record comes back from the logbook (R92, R351). -/
def bareArray (f : Nat) (u : ArrU) : ArrU := { ArrU.reset with image := cutImage f u }

/-- Every array takes a record, one free value each. -/
def mapArrays (g : Nat → ArrU → ArrU) (s : State) : State :=
  s.arrays.foldl (fun s e =>
    let (f, s) := drawFree s
    modArr s e.1 (g f)) s

/-- The watch's own side of PWR_ and CLK_ outlives a reset that leaves it powered; the rest takes its reset values. -/
def keptPower (p : PwrU) : PwrU :=
  { PwrU.reset with
    state := p.state, resetW := p.resetW, watchCtl := p.watchCtl, watchStat := p.watchStat, watchTime := p.watchTime
    watchHi := p.watchHi, sbCtl := clrBit p.sbCtl 31, sbEvent := p.sbEvent, sbAddr := p.sbAddr, ibiQueue := p.ibiQueue
    ibiUnacked := p.ibiUnacked, protUv := p.protUv, protFlow := p.protFlow, resetReq := p.resetReq
    resetKind := p.resetKind, sleepDue := p.sleepDue, tripHot := p.tripHot, input := p.input, lockedOff := p.lockedOff
    vaon := p.vaon, mrstPin := p.mrstPin, flowLow := p.flowLow, thermTrip := p.thermTrip, hbOut := p.hbOut }

/-- The retention latches hold nothing: PWR_ and sideband fields take the values of Table 12-15. -/
def latchesLost (p : PwrU) : PwrU :=
  { p with
    resetW := 0#32, watchCtl := 0#32, watchStat := 0#32, watchTime := 0#64, watchHi := 0#32, sbCtl := 0x000000FF#32
    sbEvent := 0#32, sbAddr := none, ibiQueue := [], ibiUnacked := [], protUv := false, protFlow := false
    flowLow := false, hbOut := false }

/-- The logbook and the images stay; the registers take their reset values, and the boot state starts again. -/
def keptSec (x : SecU) : SecU :=
  { x with
    boot := 0#32, err := 0#32, meas := [], logStat := 0#32, logErr := 0#32, triedFw := false, triedCfg := false
    bbFound := false }

/-- A port after a reset: down, with the lane history that the logbook keeps (Table 10-4). -/
def keptPort (x : PortU) : PortU := { PortU.reset with badLanes := x.badLanes, narrow := x.narrow }

/-- The temperature a sensor reads outlives every reset. -/
def keptCluster (x : ClusterU) : ClusterU := { ClusterU.reset with ctiScale := x.ctiScale, tj := x.tj }

def mapTab {α : Type} [DecidableEq α] (d : α) (g : α → α) (t : Tab α) : Tab α :=
  (t.map fun e => (e.1, g e.2)).filter fun e => e.2 != d

/-- What every reset kind loses (Table 12-9): scratch, stores, tallies, contexts, caravans, the fields marked 0 or cfg; the
ports and the host link go down; stack memory too unless the kind is WARM. -/
def loseWork (kind : BitVec 2) (s : State) : State :=
  let kept (a : Nat) : Bool := kind == 1#2 && decide (a < 0xC000000000)
  let s := mapArrays (if kind = 0#2 then bareArray else keptArray) s
  { s with
    host := { HostIf.reset with perst := s.host.perst }
    deviceId := 0xD9600002#32, topology := 0#32, avail := 0#32, wbCfg := State.reset.wbCfg, wbStat := 0#32
    cores := [], clusters := mapTab ClusterU.reset keptCluster s.clusters
    ports := mapTab PortU.reset keptPort s.ports, ctxs := [], launches := []
    mem := s.mem.filter fun c => kept c.1
    poison := s.poison.filter fun g => kept (64 * g)
    fab := FabU.reset
    rel := { RelU.reset with coreFence := s.rel.coreFence, badStacks := s.rel.badStacks }
    planes := []
    pwr := keptPower s.pwr, sec := keptSec s.sec
    mon := { MonU.reset with coef := s.mon.coef, vref := s.mon.vref, monQual := s.mon.monQual }
    rack := 0#64 }

/-- What a power-on reset loses besides: everything the retention latches held (R351). -/
def loseLatches (s : State) : State :=
  { s with
    clusters := mapTab ClusterU.reset (fun x => { x with ctiScale := ClusterU.reset.ctiScale }) s.clusters
    rel := { s.rel with coreFence := 0#512 }
    pwr := latchesLost s.pwr, sec := { s.sec with headers := [] }
    mon := { s.mon with coef := [], vref := MonU.reset.vref, monQual := 0#32 } }

/-! ## The reset (R344 to R346) -/

/-- Releases of the domains that a reset switches off (Table 12-11); the currents are not given: free values. -/
def sendReleases (s : State) : State :=
  [0, 2, 1, 3].foldl (fun s d =>
    let (f, s) := drawFree s
    { s with out := .notice (noticeFrame 2 d 63 f) :: s.out }) s

/-- A module reset of a cause and kind (Table 12-11). With cause 0x9 the module stays off; with a power-on reset VAON is
gone too. The reset count is that of the resets since power-on. -/
def performReset (cause : BitVec 4) (kind : BitVec 2) (s : State) : State :=
  let s := sendReleases (sidebandEvent 7#3 { s with out := .resetBegins cause :: s.out })
  let s := loseWork kind s
  let s := if kind = 0#2 then loseLatches s else s
  modPwr s fun p => { p with
    resetW := setFld (if kind = 0#2 || p.lockedOff then p.resetW else satFld p.resetW 19 4 1) 3 0 cause.toNat
    resetReq := none, resetKind := kind, sleepDue := false
    vaon := p.vaon && kind != 0#2
    state := if kind = 0#2 || p.lockedOff then .off else .resetting }

/-- A DEV_RESET whose reply is not yet posted: its reset begins 10 µs after the reply (Table 11-9). -/
def resetReplyWaits (s : State) : Bool :=
  (match s.pwr.resetReq with
    | some (c, _) => c == 1#4 || c == 2#4
    | none => false) && s.host.replied.any fun r => r.opcode == 0x0030#16 && r.status == 0#16

/-- The reset that is asked for begins. -/
def moduleReset (s : State) : State :=
  if (!isAwake s && !isAsleep s) || resetReplyWaits s then s
  else match s.pwr.resetReq with
    | some (c, k) => performReset c k s
    | none => s

def execModuleReset (s : State) : Res := .next (moduleReset s)

/-- UV48 is followed by the loss of the stage output (R345, R395). The lock of cause 0x9 ends with the input; a module that is
off already only loses what VAON held. -/
def inputLost (vaonLost : Bool) (s : State) : State :=
  let s := modPwr s fun p => { p with input := false, lockedOff := false }
  let s := if s.pwr.state = .off then
      if vaonLost && s.pwr.vaon then
        modPwr (loseLatches (mapArrays bareArray s)) fun p => { p with vaon := false, resetKind := 0#2 }
      else modPwr s fun p => { p with state := if p.vaon then .resetting else .off, resetKind := 2#2 }
    else requestReset 7#4 (if vaonLost then 0#2 else 2#2) s
  if s.pwr.state = .resetting && vaonLost then
    modPwr (loseLatches (mapArrays bareArray s)) fun p => { p with state := .off, vaon := false, resetKind := 0#2 }
  else s

def execInputLost (vaonLost : Bool) (s : State) : Res := .next (inputLost vaonLost s)

/-- Sleep begins once DEV_SLEEP's reply is posted and every watch write is acknowledged (R342): every domain but VAON and VMEM
goes off. -/
def trySleep (s : State) : State :=
  if s.pwr.sleepDue && isAwake s && s.pwr.watchQ.isEmpty && !(s.host.replied.any fun r => r.opcode == 0x0050#16) then
    modPwr (loseWork 1#2 s) fun p => { p with state := .asleep, sleepDue := false }
  else s

end Sys2Proof.Machine
end

