-- ==== Sys2Proof/Machine/Start.lean ====
section
/-! DEFINITION. Start-up (spec/14, R371 to R381): images and their choice, the measurements, the phases, ready and halted;
the logbook's mount and compaction (R382 to R388). -/

namespace Sys2Proof.Machine

/-! ## Images (R375 to R377) -/

def imgByte (img : List Byte) (i : Nat) : Nat := (img.getD i 0#8).toNat

def imgNat (img : List Byte) (i n : Nat) : Nat := leNat ((img.drop i).take n)

def imgZero (img : List Byte) (i n : Nat) : Bool := ((img.drop i).take n).all (· == 0#8)

/-- The bit of STEPPINGS for the module's stepping, and its earliest release (Tables 0-2, 14-3). -/
def steppingBit (s : State) : Nat := fld s.deviceId 3 0 - 1

def earliestRelease (s : State) : Nat := if fld s.deviceId 3 0 = 1 then 4 * 256 else 4 * 256 + 2

/-- Check 6 of Table 14-4 fails: an RB_INDEX below the counter of the kind, or firmware older than the earliest release of the
stepping (R5). -/
def tooOld (s : State) (kind release rb : Nat) : Bool :=
  decide (rb < (if kind = 1 then s.sec.fwRb.toNat else s.sec.cfgRb.toNat))
    || (kind == 1 && decide (release < earliestRelease s))

/-- The checks of Table 14-4 in order: 0 when all pass, else the status of IMAGE_LOAD. -/
def imageStatus (s : State) (kind : Nat) (img : List Byte) : Nat :=
  let body := imgNat img 16 4
  let form := imgNat img 0 4 == 0x49585A44 && imgByte img 4 == kind && imgZero img 10 2 && imgZero img 20 12
    && imgZero img 452 60 && imgZero img 896 128 && 1024 + body == img.length && body != 0
  let floor := s.sec.keyFloor.toNat
  let sig := pssVerify (imgNat img 64 384) (imgNat img 448 4) (imgNat img 512 384) (img.take 512)
  if !form then 0x26
  else if !bit (BitVec.ofNat 8 (imgByte img 5)) (steppingBit s) then 0x26
  else if 4 ≤ imgByte img 6 || sha256 ((img.drop 64).take 388) != Config.keyDigest (imgByte img 6) then 0x26
  else if imgByte img 6 < floor then 0x26
  else if !sig then 0x26
  else if tooOld s kind (imgByte img 8 * 256 + imgByte img 9) (imgNat img 12 4) then 0x27
  else if sha256 (img.drop 1024) != (img.drop 32).take 32 then 0x26
  else 0

/-- An IMAGE_EVENT record: 0 load, 1 refusal, 2 fallback, with header bytes 0 to 63 (Table 14-8). -/
def imageEvent (what : Nat) (img : List Byte) (s : State) : State :=
  logAdd 0x0D#8 (BitVec.ofNat 8 what :: (img ++ List.replicate 64 0#8).take 64) s

/-- The BOOT_SET record: roles of slots A and B (0 current, 1 pending, 2 fallback) and the attempt flag. -/
def writeBootSet (s : State) : State :=
  let role (b : Bool) : Nat := if s.sec.fwCur == b then 0 else if s.sec.fwPend then 1 else 2
  logAdd 0x05#8 [BitVec.ofNat 8 (role false), BitVec.ofNat 8 (role true), BitVec.ofNat 8 s.sec.attempt.toNat] s

/-- COUNTERS record (R378). -/
def writeCounters (s : State) : State :=
  logAdd 0x01#8 (bytesOfWord s.sec.fwRb ++ bytesOfWord s.sec.cfgRb ++ bytesOfWord s.sec.keyFloor) s

def slotImage (s : State) (b : Bool) : Option (List Byte) := if b then s.sec.slotB else s.sec.slotA

/-- An image verifies: by its checks where the state holds it; for one fitted at manufacture by the environment's word on
checks 1 to 5 and 7, and by check 6 on the header fields that the facts carry. -/
def imageOk (s : State) (kind : Nat) (img : Option (List Byte)) (f : PhaseFacts) (sound : Bool) : Bool :=
  match img with
  | some b => imageStatus s kind b == 0
  | none => sound && !tooOld s kind f.madeRelease.toNat (if kind = 1 then f.madeFwRb.toNat else f.madeCfgRb.toNat)

/-! ## Measurements (R379) -/

/-- M ← SHA-256(M ∥ d), registers held as little-endian numbers of their 32 bytes. -/
def extendMeas (i : Nat) (d : List Byte) (s : State) : State :=
  modSec s fun x => { x with
    meas := tset 0#256 x.meas i (BitVec.ofNat 256 (leNat (sha256 (leBytes 32 (tget 0#256 x.meas i).toNat ++ d)))) }

/-- SHA-256 of header bytes 0 to 511 of an image, or of the one fitted at manufacture. -/
def headerDigest (img : Option (List Byte)) (held : Nat) : List Byte :=
  match img with
  | some b => sha256 (b.take 512)
  | none => Config.heldDigest held

/-! ## Phases -/

def setPhase (p : Nat) (s : State) : State := modSec s fun x => { x with boot := setFld x.boot 3 0 p }

/-- Start-up enters HALTED with a cause (R374). -/
def halt (cause : Nat) (s : State) : State :=
  sidebandEvent 5#3 (setPhase 9 (modSec s fun x => { x with boot := setFld x.boot 23 20 cause }))

/-- Phase 0x0: the ROM measured, the fingerprint keys derived (R379, R380). -/
def endRom (f : PhaseFacts) (s : State) : State :=
  let s := extendMeas 0 Config.romDigest s
  let s := if f.fpWeak then modSec s fun x => { x with err := setBit x.err 4 } else s
  setPhase 1 (if f.idLost then modSec s fun x => { x with boot := setBit x.boot 19 } else s)

/-- The newest valid record of the journal and of the black-box ring. -/
def newestRecord (s : State) : Option LogRec :=
  match (logRecords s).getLast?, s.sec.ring.getLast? with
  | some a, some b => some (if a.seq.toNat < b.seq.toNat then b else a)
  | some a, none => some a
  | none, b => b

/-- SEQ of the newest BOOT record, 0 for none. -/
def lastBootSeq (s : State) : Nat := (logRecords s).foldl (fun n r => if r.kind = 0x0B#8 then max n r.seq.toNat else n) 0

/-- The pending images are chosen, or dropped after a failed attempt (R377). -/
def chooseImages (s : State) : State :=
  if !s.sec.fwPend && s.sec.cfgPend.isNone then s
  else if s.sec.attempt then
    let imgs := (if s.sec.fwPend then [(slotImage s !s.sec.fwCur).getD []] else [])
      ++ match s.sec.cfgPend with
        | some b => [b]
        | none => []
    let s := modSec s fun x => { x with
      fwPend := false, cfgPend := none, attempt := false, boot := setBit x.boot 17 }
    writeBootSet (imgs.foldl (fun s b => imageEvent 2 b s) s)
  else writeBootSet (modSec s fun x => { x with attempt := true, triedFw := x.fwPend, triedCfg := x.cfgPend.isSome })

/-- Phase 0x1: the journal is mounted, logbook time set, READY rises and the images are chosen (R385, R386, R373, R377). -/
def endLogbook (f : PhaseFacts) (s : State) : State :=
  if !f.journalOk then halt 3 s
  else
    let powerOn := s.pwr.resetKind == 0#2
    let newest := newestRecord s
    let s := modSec s fun x => { x with
      logStat := setFld (setBit x.logStat 22) 7 0 (min 255 f.torn)
      logErr := putBit (putBit x.logErr 0 (bit x.logErr 0 || f.torn != 0)) 4 (bit x.logErr 4 || f.unknownKind)
      timeBase := if powerOn then (match newest with
        | some r => r.time + 1
        | none => 0#64) else x.timeBase
      orderly := !powerOn || (match newest with
        | some r => r.kind == 0x0C#8
        | none => true)
      bbFound := match x.ring.getLast? with
        | some r => decide (lastBootSeq s < r.seq.toNat)
        | none => false }
    let s := logRefresh s
    let s := if s.sec.bbFound then modSec s fun x => { x with logErr := setBit x.logErr 1 } else s
    setPhase 2 (chooseImages (modHost s fun h => { h with ready := true }))

/-- A pending image that does not verify gives way to the current one and is dropped, as one whose attempt has failed (R377, the
drop DEDUCED, log entry 56). -/
def dropFirmware (s : State) : State :=
  let img := (slotImage s !s.sec.fwCur).getD []
  writeBootSet (imageEvent 2 img (modSec s fun x => { x with triedFw := false, fwPend := false, boot := setBit x.boot 17 }))

def dropConfig (s : State) : State :=
  let img := s.sec.cfgPend.getD []
  writeBootSet (imageEvent 2 img (modSec s fun x => { x with triedCfg := false, cfgPend := none, boot := setBit x.boot 17 }))

/-- Phase 0x2: the firmware slot that verifies is measured and started, and the watchdog armed (R376, R377, R373). -/
def endFirmware (f : PhaseFacts) (s : State) : State :=
  let first := s.sec.triedFw != s.sec.fwCur
  let ok (b : Bool) (fact : Bool) : Bool := imageOk s 1 (slotImage s b) f fact
  if !ok first f.firmwareOk && !ok (!first) f.otherFwOk then halt 1 s
  else
    let run := if ok first f.firmwareOk then first else !first
    let s := if s.sec.triedFw && run == s.sec.fwCur then dropFirmware s else s
    let img := slotImage s run
    let rel (i : Nat) : Nat := match img with
      | some b => imgByte b (8 + i)
      | none => f.madeRelease.toNat / 256 ^ (1 - i) % 256
    let s := modSec s fun x => { x with boot := putBit x.boot 16 run }
    let s := extendMeas 1 (headerDigest img run.toNat) s
    let s := { s with deviceId := setFld (setFld s.deviceId 15 8 (rel 0)) 7 4 (rel 1) }
    setPhase 3 (modPwr s fun p => { p with wdogArmed := true, wdogKick := s.rack })

/-- Every field marked cfg takes its value from the image; at power-on the retained calibration fields too (R13, R351,
Table 12-15). -/
def loadConfig (img : Option (List Byte)) (s : State) : State :=
  let v := Config.cfgValue img
  let s := modFab s fun x => { x with devid := w32 (2 ^ 31 + v 0 % 2 ^ 18), timeCfg := setFld x.timeCfg 17 0 (v 1) }
  let s := modPwr s fun p => { p with syncCfg := setFld p.syncCfg 0 0 (v 2) }
  let s := modMon s fun m => { m with traceCfg := setFld m.traceCfg 23 16 (v 3) }
  let s := (List.range 18).foldl (fun s p => modPort s p fun x => { x with
    ctl := setFld x.ctl 2 2 (v (16 + p)), stat := setFld x.stat 1 0 (if v (16 + p) % 2 = 1 then 3 else 0) }) s
  if s.pwr.resetKind = 0#2 then
    let s := modMon s fun m => { m with
      coef := [0, 1].foldl (fun t k => tset 0x80000000#32 t k (w32 (v (64 + k)))) m.coef, vref := w32 120000 }
    (List.range 32).foldl (fun s c => modClus s c fun x => { x with
      ctiScale := w32 (max 29491 (min 36045 (v (96 + c)))) }) s
  else s

/-- Phase 0x3: the configuration image is verified, measured and loaded. -/
def endConfig (f : PhaseFacts) (s : State) : State :=
  let first := if s.sec.triedCfg then s.sec.cfgPend else s.sec.cfgCur
  let other := if s.sec.triedCfg then s.sec.cfgCur else s.sec.cfgOld
  if !imageOk s 2 first f f.configOk && !imageOk s 2 other f f.otherCfgOk then halt 2 s
  else
    let good := imageOk s 2 first f f.configOk
    let img := if good then first else other
    let s := if !good && s.sec.triedCfg then dropConfig s else s
    let s := loadConfig img (extendMeas 2 (headerDigest img 2) s)
    setPhase 4 (extendMeas 3
      (sha256 (bytesOfWord s.sec.fwRb ++ bytesOfWord s.sec.cfgRb ++ bytesOfWord s.sec.keyFloor)) s)

/-- Phase 0x4: the stacks in service choose the interleave; a stack that failed in service fails its training; contents kept
over a WARM reset are lost when the interleave changes (R24, R25). -/
def endClocks (f : PhaseFacts) (s : State) : State :=
  let mask := if f.dieMode = 2#2 then 0x0F#8 else if f.dieMode = 3#2 then 0xF0#8 else 0xFF#8
  let live := f.stacksOk &&& mask &&& ~~~s.rel.badStacks
  let s := modRel (if live = s.stacksIn then s else loseStacks s) fun r => { r with badStacks := 0#8 }
  let s := { s with stacksIn := live, topology := setFld s.topology 1 0 f.dieMode.toNat }
  if live = 0#8 then halt 4 s else setPhase 5 s

/-- A spare converter as the unit history gives it at power-on (Table 12-15). -/
def restoreSpare (unit : Nat) (s : State) : State :=
  let a := unit / 1024
  let p := unit % 1024
  let take (i v : Nat) (u : ArrU) : ArrU :=
    { u with spareMap := setFld u.spareMap (spareHi i) (16 * i) v, state := satFld u.state 19 18 1 }
  if 528 ≤ p then modArr s a fun u => if spareField u (p - 528) = 0xFFFE then u else take (p - 528) 0xFFFE u
  else modArr s a fun u => match freeSpare u with
    | some i => take i p u
    | none => u

/-- One permanent unit is acted on again (R291, Table 10-4, R326, R327). -/
def applyPermanent (e : BitVec 4 × Nat) (s : State) : State :=
  let unit := e.2
  if e.1 = 1#4 then
    let s := modRel s fun r => { r with coreFence := setBit r.coreFence unit }
    (List.range 8).foldl (fun s i => modArr s (8 * unit + i) fun u => { u with state := setBit u.state 17 }) s
  else if e.1 = 2#4 then modArr s unit fun u => { u with state := setBit u.state 17 }
  else if e.1 = 3#4 then (if s.pwr.resetKind = 0#2 then restoreSpare unit s else s)
  else if e.1 = 4#4 then modPort s (unit / 8) fun x => { x with badLanes := setBit x.badLanes (unit % 8) }
  else if e.1 = 5#4 then
    if 192 ≤ unit then (if s.pwr.uncore.contains (unit - 192) then s else failUncore (unit - 192) s)
    else if phaseOk s (unit / 6) (unit % 6) then failPhase (unit / 6) (unit % 6) s else s
  else s

/-- The wear record of an array comes back from the logbook; after an unorderly power loss every group counter rises by 1,024
(R92, R386). -/
def restoreWear (orderly : Bool) (w : WearRec) (u : ArrU) : ArrU :=
  let groups := if orderly then w.groups
    else (List.range 32).foldl (fun t g => tmod 0#32 t g fun x => satWord x 1024) w.groups
  let u := { u with
    writes := w.writes, refreshes := w.refreshes, pulses := w.pulses, stuck := w.stuck, hours := w.hours, groups := groups }
  { u with wrstat := setFld u.wrstat 5 4 (wearLevel u) }

def restoreAllWear (s : State) : State :=
  let none : WearRec := ⟨0#32, 0#32, 0#64, 0#32, 0#32, []⟩
  let units := if s.sec.orderly then s.sec.wear.map (·.1) else List.range 4096
  units.foldl (fun s a => modArr s a (restoreWear s.sec.orderly (tget none s.sec.wear a))) s

/-- The fenced-array bitmap, 512 B (Table 14-5). -/
def fencedBitmap (s : State) : List Byte :=
  let n := s.arrays.foldl (fun n e => if bit e.2.state 17 then n + 2 ^ e.1 else n) 0
  leBytes 512 n

/-- Phase 0x5: the unit histories are applied, the wear records restored, and substitutes chosen (R291, R92, R292). -/
def endUnits (s : State) : State :=
  let s := s.sec.permanent.foldl (fun s e => applyPermanent e s) s
  let s := (List.range 512).foldl (fun s k =>
    if bit s.rel.coreFence k then
      match pickSubst s k with
      | some j => modRel s fun r => { r with subst := tset k r.subst k j }
      | none => s
    else s) s
  let s := if s.pwr.resetKind = 0#2 then restoreAllWear s else s
  let s := extendMeas 4 (sha256 (leBytes 64 s.rel.coreFence.toNat ++ fencedBitmap s)) s
  if (List.range 32).all fun c => clusterOut s c then halt 4 s else setPhase 6 s

/-- No array in service still refreshes or calibrates for the start-up (R88, R371). -/
def arraysStarted (s : State) : Bool :=
  (List.range 4096).all fun a =>
    let u := arr s a
    arrFenced s a || !(fld u.state 13 11 == 6 && (arrMode u == 2 || arrMode u == 3))

/-- Phase 0x6: the acceptance point of the images under attempt (R377, R378); the ports begin to train. -/
def endArrays (s : State) : State :=
  if !arraysStarted s then s
  else
    let s := if s.sec.attempt then
        let fwImg := if s.sec.triedFw then (slotImage s !s.sec.fwCur).getD [] else []
        let cfgImg := if s.sec.triedCfg then s.sec.cfgPend.getD [] else []
        let up (w : Word) (img : List Byte) (i n : Nat) : Word := w32 (max w.toNat (imgNat img i n))
        let s := modSec s fun x => { x with
          fwCur := if x.triedFw then !x.fwCur else x.fwCur, fwPend := x.fwPend && !x.triedFw
          cfgOld := if x.triedCfg then x.cfgCur else x.cfgOld
          cfgCur := if x.triedCfg then x.cfgPend else x.cfgCur
          cfgPend := if x.triedCfg then none else x.cfgPend
          fwRb := up x.fwRb fwImg 12 4, cfgRb := up x.cfgRb cfgImg 12 4
          keyFloor := up (up x.keyFloor fwImg 7 1) cfgImg 7 1, attempt := false }
        writeCounters (writeBootSet s)
      else s
    (List.range 18).foldl (fun s p => retrainPort p s) (setPhase 7 s)

/-- The module reports ready (R372): the counts become valid, a BOOT record is written, vector 7 is raised; a black-box
record of the last run is reported (R388). -/
def reportReady (s : State) : State :=
  let s := countUnits (modSec (setPhase 8 s) fun x => { x with boot := clrBit x.boot 18 })
  let s := logAdd 0x0B#8 [BitVec.ofNat 8 (fld s.pwr.resetW 3 0), BitVec.ofNat 8 (fld s.deviceId 15 8),
    BitVec.ofNat 8 (fld s.deviceId 7 4), BitVec.ofNat 8 (fld s.sec.boot 16 16)] s
  let s := raise 7 (sidebandEvent 4#3 s)
  if s.sec.bbFound then raise 6 s else s

/-- Phase 0x7 ends once no port trains; it waits for TIME_VALID without a limit (R372). -/
def endLinks (s : State) : State :=
  if (List.range 18).any fun p => fld (port s p).stat 1 0 == 1 then s
  else if timeValid s then reportReady s
  else modSec s fun x => { x with boot := setBit x.boot 18 }

/-- The phase in progress ends (Table 14-1). -/
def startupPhaseEnd (f : PhaseFacts) (s : State) : State :=
  if !isAwake s then s
  else match bootPhase s with
    | 0 => endRom f s
    | 1 => endLogbook f s
    | 2 => endFirmware f s
    | 3 => endConfig f s
    | 4 => endClocks f s
    | 5 => endUnits s
    | 6 => endArrays s
    | 7 => endLinks s
    | _ => s

def execStartupPhaseEnd (facts : PhaseFacts) (s : State) : Res := .next (startupPhaseEnd facts s)

/-- TIME_VALID is 1 while phase 0x7 waits for it (R372). -/
def execReadyReport (s : State) : Res :=
  .next (if bootPhase s = 7 && bit s.sec.boot 18 && timeValid s then reportReady s else s)

/-! ## The beginning of start-up (R371, R343, R395, R397) -/

/-- Phase 0x0 begins: the uncore is on; a protective action in force applies at once. -/
def beginStart (s : State) : State :=
  applyProtect (setPhase 0 (modPwr s fun p => { p with
    state := .awake, thermTrip := false, tripHot := false, protFlow := p.flowLow }))

/-- Start-up begins 12 µs after the reset start, with the input present, MRST# released and, after a thermal trip, every
sensor below 95 °C. -/
def startupBegin (s : State) : State :=
  if s.pwr.state != .resetting || s.pwr.mrstPin || !s.pwr.input || (s.pwr.tripHot && hotAt s 95) then s
  else beginStart s

def execStartupBegin (s : State) : Res := .next (startupBegin s)

/-- VAON is good after the input rose: the watch counts from zero and phase 0x0 begins, as a power-on (R395, R351). -/
def vaonGood (s : State) : State :=
  if s.pwr.state != .off || s.pwr.vaon || !s.pwr.input then s
  else beginStart (modPwr s fun p => { p with vaon := true, watchTime := 0#64, resetKind := 0#2 })

def execVaonGood (s : State) : Res := .next (vaonGood s)

/-! ## Compaction (R387) -/

/-- Records of a kind newer than a record. -/
def newerCount (all : List LogRec) (r : LogRec) (same : LogRec → Bool) : Nat :=
  all.countP fun x => x.kind == r.kind && decide (r.seq.toNat < x.seq.toNat) && same x

/-- The record is live (Table 14-8): what its kind keeps. -/
def liveRecord (s : State) (all : List LogRec) (r : LogRec) : Bool :=
  let k := r.kind.toNat
  let newer (same : LogRec → Bool) : Nat := newerCount all r same
  if k = 1 || k = 2 || k = 3 || k = 5 || k = 0x0C then newer (fun _ => true) == 0
  else if k = 4 then newer (fun x => x.payload.headD 0#8 == r.payload.headD 0#8) == 0
  else if k = 6 then decide ((logTime s).toNat < r.time.toNat + day)
  else if k = 7 then newer (fun x => x.payload.take 5 == r.payload.take 5) == 0
  else if k = 8 then newer (fun x => x.unit == r.unit) == 0
  else if k = 0x0A || k = 0x0B || k = 0x0D || k = 0x0E then decide (newer (fun _ => true) < 1024)
  else false

/-- The oldest block's live records are copied as new records, and the block erased (R387). -/
def compactBlock (s : State) : State :=
  match s.sec.journal with
  | [] => s
  | b :: rest =>
    let live := b.filter (liveRecord s (logRecords s))
    live.foldl (fun s r => modSec s fun x => { x with
      seq := x.seq + 1
      journal := journalAdd x.journal { r with copy := true, seq := x.seq + 1, time := logTime s, orig := r.orig } })
      (modSec s fun x => { x with journal := rest })

/-- Blocks are compacted, oldest first, until at most half are in use; each block is taken once. -/
def compactTo : Nat → State → State
  | 0, s => s
  | n + 1, s => if 2 * s.sec.journal.length ≤ 510 then s else compactTo n (compactBlock s)

/-- Compaction of a journal that has passed 75 % of its blocks; with no block freed, LOG_ERR.FULL and vector 6 (R387). The
black-box ring keeps 64 pages erased, and its newest 16 records (R388). -/
def compact (s : State) : State :=
  let s := modSec s fun x => { x with
    ring := if 64 < x.ring.length then x.ring.drop (x.ring.length - max 16 (x.ring.length - 64)) else x.ring }
  let before := s.sec.journal.length
  if 4 * before ≤ 3 * 510 then logRefresh s
  else
    let s := compactTo before s
    if s.sec.journal.length < before then logRefresh (modSec s fun x => { x with full := false })
    else raise 6 (logRefresh (modSec s fun x => { x with full := true, logErr := setBit x.logErr 3 }))

def execCompaction (s : State) : Res := .next (compact s)

end Sys2Proof.Machine
end

