-- ==== Sys2Proof/Machine/Twin.lean ====
section
/-! DEFINITION. Twins (spec/10, R293 to R298): the mirror list, the mirror of an epoch into the partner's landing, its commit
there, the heartbeat. -/

namespace Sys2Proof.Machine

/-! ## The mirror list (Table 10-5) -/

structure MEntry where
  kind  : Nat
  ctx   : BitVec 4
  layer : Nat
  src   : Nat
  len   : Nat
  dst   : Nat
  deriving DecidableEq, Repr

def mirrorListAddr (s : State) : Nat := fld s.rel.twinListHi 7 0 * 2 ^ 32 + fld s.rel.twinListLo 31 6 * 64

def mirrorCount (s : State) : Nat := fld s.rel.twinListHi 30 20

def mEntryAt (s : State) (a : Nat) : MEntry :=
  let w := readWord s a
  ⟨fld w 31 28, BitVec.ofNat 4 (fld w 27 24), fld w 23 12, readNat s (a + 8) 5, readNat s (a + 16) 5, readNat s (a + 24) 5⟩

def mirrorList (s : State) : List MEntry := (List.range (mirrorCount s)).map fun i => mEntryAt s (mirrorListAddr s + 32 * i)

/-- The source ranges of an entry, in the order they are copied: address and bytes (Table 10-5). -/
def mSources (s : State) (e : MEntry) : List (Nat × Nat) :=
  if e.kind = 1 then
    match layerRec s e.ctx e.layer with
    | some l => [(lState l, lStateLen l), (lShadow l, lOut l * lIn l), (lU l, sizeU l), (lV l, sizeV l)].filter
        fun r => r.1 != noAddr && r.2 != 0
    | none => []
  else [(e.src, e.len)]

/-! ## Stores to the partner (VC 13) -/

/-- One mirror request; its tag is awaited, an answer at once is judged at once (R295). -/
def mirrorRequest (ty : Nat) (c : BitVec 4) (g : W64) (bytes : List Byte) (poison : Bool) (s : State) : State :=
  byAnswer (newRequest false ty g c 0#32 poison bytes.length bytes s)
    (fun tag s => modRel s fun r => { r with mirror := r.mirror ++ [(tag, c)] })
    (fun a s =>
      if a.resp = 0#4 then s
      else relErr 14 (modSeal s c fun x => { x with mirrorBad := true }))

/-- Bytes stored at a local address of the partner, split at 4 KiB boundaries. -/
def mirrorBytes (c : BitVec 4) : Nat → Nat → List Byte → Bool → State → State
  | 0, _, _, _, s => s
  | fuel + 1, a, bytes, poison, s =>
    if bytes.isEmpty then s
    else
      let n := min bytes.length (toBoundary a)
      mirrorBytes c fuel (a + n) (bytes.drop n) poison
        (mirrorRequest 1 c (atDevice (partner s) a) (bytes.take n) poison s)

def mirrorTo (c : BitVec 4) (a : Nat) (bytes : List Byte) (poison : Bool) (s : State) : State :=
  mirrorBytes c (bytes.length / 4096 + 2) a bytes poison s

/-- A local range copied to an address of the partner; poison travels with it (R287). -/
def mirrorRange (c : BitVec 4) (src n a : Nat) (s : State) : State :=
  let r := localRead s false src n
  mirrorTo c a r.data r.poison (noteRead r (checkFor c .good [(src, n)] s).2)

/-! ## The landing (R295, R296) -/

/-- A section goes into the landing, or makes the offer not OK when it no longer fits (R295). -/
def landSection (h : HeldSection) (s : State) : State :=
  let c := h.ctx
  let d := partner s
  let (off, len) := Config.twinLanding d
  let pos := tget 0 s.rel.landPos c.toNat
  let body := sectionBytes h.dst (h.checks.map fun x => ⟨x.1, x.2.1, x.2.2⟩) h.bytes
  if landPart len < pos + body.length + 32 then
    relErr 15 (modSeal s c fun x => { x with mirrorBad := true })
  else
    let s := modRel s fun r => { r with landPos := tset 0 r.landPos c.toNat (pos + body.length) }
    mirrorTo c (Config.twinBase d + off + c.toNat * landPart len + pos) (body ++ leBytes 32 0) h.poison s

/-- The mirror's read of a range, checked like every other (R270): a group that is corrupt at rest brings the epoch into
suspected-fault handling. -/
def mirrorRead (c : BitVec 4) (src n : Nat) (s : State) : Rd × State :=
  let r := localRead s false src n
  (r, noteRead r (checkFor c .good [(src, n)] s).2)

/-- A section of a paired module, its groups with their check plane entries: sent, or held while the partner's landing is not free
(R295, R296). -/
def mirrorSection (c : BitVec 4) (dst src n : Nat) (s : State) : State :=
  if twinState s != 2 || n = 0 then s
  else
    let (r, s) := mirrorRead c src n s
    let h : HeldSection := ⟨c, dst, r.data, r.poison, (checkRecs s src n dst).map fun x => (x.off, x.len, x.entry)⟩
    if s.rel.busy.contains c then modRel s fun x => { x with mirrorHeld := x.mirrorHeld ++ [h] } else landSection h s

/-- Rows of the row list. -/
def listedRows (s : State) (l : Layer) : List Nat :=
  (List.range (lOut l)).filter fun r => (memByte s (rowListAddr l + r / 8)).toNat / 2 ^ (r % 8) % 2 == 1

/-- The parts of a staged row as offset from STAGING or STATE, and bytes: master, remainder, and the moment sections that
SECTIONS names (R193). -/
def rowParts (s : State) (l : Layer) (r : Nat) : List (Nat × Nat) :=
  let sec := (memByte s (tailAddr l + 0x0C)).toNat
  [(64 + 2 * r * colsPad l, 2 * colsPad l), (offRem l + r * colsPad l, colsPad l)]
    ++ (if sec % 2 = 1 then [(offM1 l + r * momentRow l, momentRow l)] else [])
    ++ (if sec / 2 % 2 = 1 then [(offM2 l + r * momentRow l, momentRow l)] else [])

/-- The staged header and rows of a layer whose verify has passed go into the landing (R295). -/
def mirrorLayer (c : BitVec 4) (layer : Nat) (s : State) : State :=
  if twinState s != 2 then s
  else match layerRec s c layer, (mirrorList s).find? fun e => e.kind == 1 && e.ctx == c && e.layer == layer with
    | some l, some e =>
      let s := mirrorSection c e.dst (lStaging l) 64 s
      (listedRows s l).foldl (fun s r =>
        let s := (rowParts s l r).foldl (fun s p => mirrorSection c (e.dst + p.1) (lStaging l + p.1) p.2 s) s
        mirrorSection c (e.dst + lStateLen l + r * lIn l) (stgShadow l + r * lIn l) (lIn l) s) s
    | _, _ => s

/-- U and V of a layer staged for the open epoch (R295). -/
def mirrorUV (c : BitVec 4) (e : MEntry) (s : State) : State :=
  match layerRec s c e.layer with
  | some l =>
    if lRank l != 0 && readWord s (tailAddr l) == openEpoch (ctxU s c) then
      let d := e.dst + lStateLen l + lOut l * lIn l
      mirrorSection c (d + sizeU l) (stgV l) (sizeV l) (mirrorSection c d (stgU l) (sizeU l) s)
    else s
  | none => s

/-- FLAGS of context c in the partner's header. -/
def partnerCtx (s : State) (c : BitVec 4) : Nat := Config.twinBase (partner s) + 0x40 + 32 * c.toNat

/-- What is mirrored before the offer: U and V, the regions, and the mark that the landing is complete, which waits for all
of it (R295). -/
def mirrorEpoch (c : BitVec 4) (s : State) : State :=
  if twinState s != 2 then s
  else
    let es := (mirrorList s).filter fun e => e.ctx == c
    let s := es.foldl (fun s e =>
      if e.kind = 1 then mirrorUV c e s else if e.kind = 3 then mirrorSection c e.dst e.src e.len s else s) s
    mirrorRequest 2 c (atDevice (partner s) (partnerCtx s c + 8)) (leBytes 4 3) false s

/-- The commit of an epoch is told to the partner, with the step record slot (R295, R296). -/
def mirrorCommitSend (c : BitVec 4) (k : Word) (slotOff src n : Nat) (s : State) : State :=
  if twinState s != 2 then s
  else
    let s := match (mirrorList s).find? fun e => e.kind == 2 && e.ctx == c with
      | some e => mirrorSection c (e.dst + slotOff) src n s
      | none => s
    let s := modRel s fun r => { r with
      busy := (r.busy ++ [c]).dedup, twinStat := setBit r.twinStat 29, landPos := tset 0 r.landPos c.toNat 0 }
    sendMsg 0 (partner s) (.mirrorCommit c k) s

/-- Sections that waited for the landing go out (R296). -/
def flushLanding (s : State) : State :=
  let held := s.rel.mirrorHeld
  held.foldl (fun s h => landSection h s) (modRel s fun r => { r with mirrorHeld := [] })

/-- The partner reports the landing free (R296). -/
def landingFreed (s : State) : State :=
  if twinState s = 0 then s
  else flushLanding (modRel s fun r => { r with busy := [], twinStat := clrBit r.twinStat 29 })

def execLandingFree (s : State) : Res := .next (landingFreed s)

/-! ## The copy at the partner (Table 10-6) -/

/-- One landed section goes into the copy. -/
def applySection (base : Nat) (s : State) (x : Section) : State :=
  let r := localRead s false x.body x.len
  storeBytes (noteRead r s) (base + x.dst) r.data r.poison

/-- The landing of a context is copied into the copy and emptied; the check list, COMMITTED and MILESTONE follow (R296). -/
def applyLanding (c : BitVec 4) (epoch : Word) (s : State) : State :=
  let b := ownTwinBase s
  let xs := landedSections s c
  let a := (landingOf s c).1
  let list := mergeChecks (recsAt s (checksBase s + 32) (readNat s (checksBase s) 8)) (xs.flatMap (·.recs))
  let s := xs.foldl (applySection b) s
  let s := if xs.all (·.recs.isEmpty) then s else storeBytes s (checksBase s) (checkList list) false
  let s := storeBytes s a (leBytes 32 0) false
  let h := b + 0x40 + 32 * c.toNat
  let s := storeBytes s (h + 4) (leBytes 4 epoch.toNat ++ leBytes 4 1) false
  storeBytes s (h + 16) (leBytes 8 (readNat s (h + 16) 8 + 1)) false

/-- The landing of a context is given up (R298). -/
def discardLanding (c : BitVec 4) (s : State) : State :=
  let s := storeBytes s (landingOf s c).1 (leBytes 32 0) false
  let f := ownTwinBase s + 0x48 + 32 * c.toNat
  storeBytes s f (leBytes 4 (clrBit (readWord s f) 1).toNat) false

/-- MIRROR_COMMIT at the partner: the landing is applied and reported free (R296). -/
def mirrorCommitted (c : BitVec 4) (epoch : Word) (s : State) : State :=
  if twinState s = 0 then s else sendMsg 0 (partner s) .landingFree (applyLanding c epoch s)

def execMirrorCommit (ctx : BitVec 4) (epoch : Word) (s : State) : Res := .next (mirrorCommitted ctx epoch s)

/-! ## Pairing (R293, R294) -/

/-- The caravanserai runs beyond stack memory, or meets what the own list copies or the partner's list names, or an entry has a
reserved KIND: TWIN_PAIR refuses (R293, R294; log entry 18). -/
def pairRefused (s : State) : Bool :=
  let b := ownTwinBase s
  let n := ownTwinSize s
  n = 0 || decide (stackBytes s < b + n)
    || ((mirrorList s).any fun e => e.kind == 0 || decide (3 < e.kind))
    || ((mirrorList s).flatMap (mSources s) ++ Config.partnerRanges (partner s)).any fun r => rangesMeet r.1 r.2 b n

/-- Every entry whole, one range after the other at its place in the copy. -/
def copyEntry (e : MEntry) (s : State) : State :=
  ((mSources s e).foldl (fun (r : Nat × State) x =>
    (r.1 + x.2, mirrorRange e.ctx x.1 x.2 (Config.twinBase (partner s) + e.dst + r.1) r.2)) (0, s)).2

/-- The check records of what an entry copies (R294). -/
def entryChecks (s : State) (e : MEntry) : List CheckRec :=
  ((mSources s e).foldl (fun (r : Nat × List CheckRec) x => (r.1 + x.2, r.2 ++ checkRecs s x.1 x.2 (e.dst + r.1))) (0, [])).2

/-- A context as the partner's header holds it. -/
def headerCtx (s : State) (c : Nat) : List Byte :=
  let u := tget CtxU.reset s.ctxs c
  bytesOfWord u.job ++ bytesOfWord u.epoch ++ leBytes 4 u.live.toNat ++ leBytes 4 0 ++ leBytes 8 u.milestone.toNat ++ leBytes 8 0

/-- The pairing begins: the own header says syncing, and every entry goes to the partner with the list and its header. -/
def beginPair (s : State) : State :=
  let d := partner s
  let base := Config.twinBase d
  let n := mirrorCount s
  let s := setTwinState 1 s
  let s := storeBytes s (ownTwinBase s) (leBytes 4 d.toNat ++ leBytes 4 1) false
  let s := (mirrorList s).foldl (fun s e => copyEntry e s) s
  let s := mirrorRange 0#4 (mirrorListAddr s) (32 * n) (base + Config.twinListOff d) s
  let s := mirrorTo 0#4 (base + Config.twinChecks d) (checkList ((mirrorList s).flatMap (entryChecks s))) false s
  let s := mirrorTo 0#4 (base + 0x18) (leBytes 8 (Config.twinListOff d) ++ leBytes 4 n) false s
  let s := mirrorTo 0#4 (base + 0x40) ((List.range 16).flatMap (headerCtx s)) false s
  mirrorRequest 2 0#4 (atDevice d base) (leBytes 4 (ownId s).toNat ++ leBytes 4 2) false s

/-- A running TWIN_PAIR ends. -/
def pairEnds (status : Nat) (s : State) : State :=
  (s.host.running.filter fun r => r.task == .twinPair).foldl (fun s r => completeRun r status [] s) s

/-- The initial copy ends (R294); one that failed ends the pairing with CHECK_FAIL. -/
def syncEnd (ok : Bool) (s : State) : State :=
  if twinState s != 1 then s
  else if ok then pairEnds 0 (setTwinState 2 s)
  else pairEnds 0x41 (relErr 14 (setTwinState 0 (dropMirror s)))

def execTwinSyncEnd (ok : Bool) (s : State) : Res := .next (syncEnd ok s)

/-! ## The heartbeat (R297) -/

/-- The twin ports that are up. -/
def twinPorts (s : State) : List Nat := [8, 17].filter (portUp s)

/-- A heartbeat message on each twin port; with PATH 1 one on the rack port of the message (R293, R297; log entry 18). -/
def sendHeartbeats (s : State) : State :=
  if twinState s = 0 then s
  else if bit s.rel.twinCfg 30 then sendMsg 0 (partner s) .heartbeat s
  else (twinPorts s).foldl (fun s p => postMsg p 0 (partner s) .heartbeat s) s

def execTwinHeartbeatSend (s : State) : Res := .next (sendHeartbeats s)

/-- Receipt of a heartbeat: it restarts the 1 ms of R297, which the environment times, and changes nothing else. -/
def execTwinHeartbeat (port : Nat) (s : State) : Res := onUnit 18 port s id

/-- No heartbeat for 1 ms (R297): the offers that waited for the partner go on without it. -/
def lostPeer (s : State) : State :=
  if twinState s = 0 || twinState s = 3 then s
  else
    let s := sidebandEvent 0#3 (watchEvent 4 (relErr 13 (setTwinState 3 (dropMirror s))))
    let s := tryUnpair (pairEnds 0x57 s)
    (List.range 16).foldl (fun s c => tryOffer (BitVec.ofNat 4 c) s) s

def execPeerLost (s : State) : Res := .next (lostPeer s)

end Sys2Proof.Machine
end

