-- ==== Sys2Proof/Machine/Host.lean ====
section
/-! DEFINITION. The host interface (spec/11, R300 to R318): the reply ring, the two streams of the data port, configuration
requests, and what a reset of the host link does. -/

namespace Sys2Proof.Machine

/-! ## Replies (R313, R314) -/

def hostHead (s : State) : Nat := fld s.host.head 6 0

def hostTail (s : State) : Nat := fld s.host.tail 6 0

/-- Replies in the ring that the host has not consumed. -/
def ringUsed (s : State) : Nat := (hostTail s + 128 - hostHead s) % 128

def ringFull (s : State) : Bool := ringUsed s == 64

/-- The 64 bytes of a reply slot (Table 11-8). -/
def replyBytes (r : Reply) (phase : Nat) : List Byte :=
  leBytes 2 r.status.toNat ++ leBytes 2 r.hdr.tag.toNat ++ leBytes 2 r.opcode.toNat
    ++ [BitVec.ofNat 8 r.hdr.ctx.toNat, BitVec.ofNat 8 phase] ++ leBytes 8 r.hdr.cookie.toNat
    ++ (List.range 12).flatMap fun i => bytesOfWord (r.res.getD i 0#32)

/-- Bytes written into a window or a table, byte by byte. -/
def putBytes (t : Tab Byte) (off : Nat) : List Byte → Tab Byte
  | [] => t
  | b :: r => putBytes (tset 0#8 t off b) (off + 1) r

/-- The oldest completed command's reply goes into a free slot, TAIL advances, and vector 0 is raised when asked. A reply
with HW_FAULT is a black-box event (R388). READY may rise and sleep may begin. -/
def postReply (s : State) : State :=
  match s.host.replied with
  | [] => s
  | r :: rest =>
    if ringFull s then s
    else
      let i := hostTail s
      let s := modHost s fun h => { h with
        replied := rest
        replies := putBytes h.replies (64 * (i % 64)) (replyBytes r (i / 64 % 2))
        tail := w32 ((i + 1) % 128) }
      let s := if r.hdr.irq then raise 0 s else s
      let s := if r.status = 0x00F0#16 then blackbox 5 s else s
      trySleep (readyRises s)

def execReplyPost (s : State) : Res := .next (postReply s)

/-- A HEAD write frees slots, unless it would pass TAIL or move back (R314). -/
def writeHead (v : Word) (s : State) : State :=
  let step := (fld v 6 0 + 128 - hostHead s) % 128
  if ringUsed s < step then hstErr 3 s else modHost s fun h => { h with head := w32 (fld v 6 0) }

def execReplyHeadWrite (value : Word) (s : State) : Res := .next (writeHead value s)

/-- A write to the reply window is discarded (Table 11-4). A write of no byte writes nothing. -/
def execReplyWindowWrite (_off : BitVec 12) (bytes : List Byte) (s : State) : Res :=
  .next (if bytes.isEmpty then s else hstErr 2 s)

/-! ## The inbound stream (R315 to R317) -/

def isInbound (r : Run) : Bool :=
  match r.task with
  | .memWrite _ left _ _ _ => decide (0 < left)
  | .imageLoad _ left _ => decide (0 < left)
  | _ => false

/-- Bytes an inbound command still takes. -/
def inboundLeft (r : Run) : Nat :=
  match r.task with
  | .memWrite _ left _ _ _ => left
  | .imageLoad _ left _ => left
  | _ => 0

/-- The command bound to the inbound stream: the first in the order taken, unless the stream drains. -/
def inbound (s : State) : Option Run := if s.host.draining then none else s.host.running.find? isInbound

/-- Firmware slot that does not hold the current image. -/
def putSlot (img : Option (List Byte)) (s : State) : State :=
  modSec s fun x => if x.fwCur then { x with slotA := img } else { x with slotB := img }

/-- An image is in and checked (R376, R377): one that verifies becomes pending; of one that does not nothing stays. -/
def imageEnd (r : Run) (kind : Nat) (img : List Byte) (s : State) : State :=
  let st := imageStatus s kind img
  let ok := st == 0
  let s := if kind = 1 then
      writeBootSet (modSec (putSlot (some (if ok then img else [])) s) fun x => { x with fwPend := ok, attempt := false })
    else
      let s := modSec s fun x => { x with cfgPend := if ok then some img else none, attempt := false }
      if ok then logAdd 0x04#8 (1#8 :: img) s else s
  let s := if ok then s else modSec s fun x => { x with err := setBit x.err (if st = 0x27 then 2 else 1) }
  completeRun r st [] (imageEvent (if ok then 0 else 1) img s)

/-- Bytes reach the bound command. -/
def feedRun (r : Run) (bytes : List Byte) (s : State) : State :=
  match r.task with
  | .memWrite dst left written held tags => takeWrite r dst left written held tags bytes s
  | .imageLoad kind left got =>
    let got := got ++ bytes
    if left = bytes.length then imageEnd r kind.toNat got s
    else setTask r (.imageLoad kind (left - bytes.length) got) s
  | _ => s

def orphan (n : Nat) (s : State) : State := modHost s fun h => { h with orphan := satWord h.orphan n }

/-- Written bytes in arrival order: to the bound command up to its count, then to the next, and to nobody (R316, R317). -/
def feed : Nat → List Byte → State → State
  | 0, bytes, s => orphan bytes.length s
  | fuel + 1, bytes, s =>
    if bytes.isEmpty then s
    else match inbound s with
      | none => orphan bytes.length s
      | some r =>
        let k := min (inboundLeft r) bytes.length
        feed fuel (bytes.drop k) (feedRun r (bytes.take k) s)

/-- A write to the data port: bytes without their enable are not taken. -/
def execDataPortWrite (bytes : List (Option Byte)) (s : State) : Res :=
  .next (feed (s.host.running.length + 1) (bytes.filterMap id) s)

/-- Bytes of an inbound command's LEN, as its packet gives it. -/
def inboundLen (r : Run) : Nat :=
  match r.task with
  | .memWrite _ _ _ _ _ => (r.pkt.words.getD 2 0#32).toNat + 2 ^ 32 * (r.pkt.words.getD 3 0#32).toNat
  | _ => (r.pkt.words.getD 1 0#32).toNat

/-- An inbound command ends with DATA_SHORT: the bytes taken have been delivered, and its result counts them (R317). An
image of which bytes are missing leaves its slot empty (R377). -/
def endShort (r : Run) (s : State) : State :=
  match r.task with
  | .memWrite dst left written held tags =>
    let taken := inboundLen r - left
    let s := (storeRun r.pkt.hdr.ctx (held.length / 4096 + 2) dst held written tags s).2.2.2
    completeRun r 0x40 (words64 taken) s
  | .imageLoad kind left _ =>
    let taken := inboundLen r - left
    let s := if kind = 1#4 then modSec (putSlot (some []) s) fun x => { x with fwPend := false }
      else modSec s fun x => { x with cfgPend := none }
    completeRun r 0x40 (words64 taken) s
  | _ => s

/-- No byte for IDLE_MS: the bound command ends and the stream drains (R317). -/
def idleTimeout (s : State) : State :=
  match inbound s with
  | none => s
  | some r => raise 2 (hstErr 5 (modHost (endShort r s) fun h => { h with draining := true }))

def execDataPortIdleTimeout (s : State) : Res := .next (idleTimeout s)

/-! ## The outbound stream (R318) -/

/-- The outbound buffer is emptied, and the next outbound command bound. -/
def freeOutbound (s : State) : State := pumpOut (modHost s fun h => { h with outBuf := [], outBound := false })

/-- A read of n bytes returns the next staged ones; beyond them, all-ones and READ_PAST. -/
def readPort (n : Nat) (s : State) : State :=
  let got := s.host.outBuf.take n
  let short := n - got.length
  let s := { s with out := .readData (got ++ List.replicate short 0xFF#8) :: s.out }
  let s := if short = 0 then s else hstErr 4 s
  let s := modHost s fun h => { h with outBuf := h.outBuf.drop n }
  if s.host.outBound && s.host.outBuf.isEmpty then freeOutbound s else s

def execDataPortRead (n : Nat) (s : State) : Res := .next (readPort n s)

/-- HST_DP_CTL.RESYNC (R317, R318). -/
def resyncPort (s : State) : State := freeOutbound (modHost s fun h => { h with draining := false })

def execResync (s : State) : Res := .next (resyncPort s)

/-! ## The link (R300 to R304) -/

/-- A request that hits neither BAR: a read or another non-posted request is completed with Unsupported Request (R302). -/
def execUnsupportedRequest (_addr : W64) (_write : Bool) (s : State) : Res :=
  .next { s with out := .unsupported :: s.out }

/-- A configuration byte. -/
def configByte (s : State) (off : Nat) : Byte :=
  match s.host.config.find? fun e => e.1 == off with
  | some e => e.2
  | none => Config.configByte off

/-- The writable bits of a configuration byte take their values. -/
def writeConfigByte (off : Nat) (v : Byte) (s : State) : State :=
  let b := (configByte s off &&& ~~~Config.configMask off) ||| (v &&& Config.configMask off)
  modHost s fun h => { h with
    config := (h.config.filter fun e => e.1 < off) ++ (off, b) :: h.config.filter fun e => off < e.1 }

/-- A configuration request on the dword that holds a byte offset (R302; log entry 16). -/
def configRequest (reg : Nat) (write : Option Word) (s : State) : State :=
  let a := reg / 4 * 4
  match write with
  | none => { s with out := .readData ((List.range 4).map fun i => configByte s (a + i)) :: s.out }
  | some w => (List.range 4).foldl (fun s i => writeConfigByte (a + i) ((bytesOfWord w).getD i 0#8) s) s

def execConfigurationRequest (reg : BitVec 12) (write : Option Word) (s : State) : Res :=
  .next (configRequest reg.toNat write s)

/-- The fields that the events of R304 reset, of HST_ERR bits 5 to 1. -/
def clearedErr (w : Word) : Word := setFld w 5 1 0

/-- An outbound command that has begun its reads is bound to its stream. -/
def outboundBound (s : State) : Option Run :=
  if s.host.outBound then none
  else s.host.running.find? fun r => match r.task with
    | .memRead _ _ _ _ (some _) => true
    | _ => false

/-- The command window takes packets: READY has risen in this start-up (R373). -/
def takesPackets (s : State) : Bool := s.host.ready || s.host.full

/-- The host interface is reset, and nothing else (R304). -/
def resetLink (ev : LinkEvent) (s : State) : State :=
  let lost := s.host.replied.length
  let mute (p : Packet) : Packet := { p with muted := true }
  let takes := takesPackets s
  let s := modHost s fun h => { h with
    taken := h.taken.map mute, running := h.running.map fun r => { r with pkt := mute r.pkt }, replied := []
    window := [], replies := [], head := 0#32, tail := 0#32, msixTab := [], msixPba := 0#8, irqCause := 0#32
    err := clearedErr h.err, linkUp := h.linkUp && ev == .flr, perst := h.perst || ev == .perst
    outBuf := [], outBound := h.outBound }
  let s := if lost = 0 then s else hstErr 6 s
  let s := match inbound s with
    | some r => endShort r s
    | none => s
  let s := match outboundBound s with
    | some r => completeRun r 0x40 [0#32] s
    | none => s
  let s := modHost s fun h => { h with draining := false }
  let room := decide (inflight s < 256)
  pumpOut (modHost s fun h => { h with ready := takes && room, full := takes && !room, outBound := false })

def execHostLinkReset (ev : LinkEvent) (s : State) : Res := .next (resetLink ev s)

/-- PERST# is released: the link may train (R396). -/
def execPerstDeassert (s : State) : Res := .next (modHost s fun h => { h with perst := false })

/-- Training ends at a generation and a width: HST_LINK_STAT reports them; flit mode from generation 6 (Table 11-1, R301).
No training ends while PERST# is asserted, at generation 0 or at the width code that is never reported. -/
def linkTrained (gen width : Nat) (s : State) : State :=
  if s.host.perst || gen = 0 || width = 3 then s
  else modHost s fun h => { h with
    linkUp := true
    linkStat := w32 (gen * 32 + width * 8 + if 6 ≤ gen then 4 else 0) }

def execHostLinkTrained (gen : BitVec 3) (width : BitVec 2) (s : State) : Res := .next (linkTrained gen.toNat width.toNat s)

end Sys2Proof.Machine
end

