-- ==== Sys2Proof/Machine/Monitor.lean ====
section
/-! DEFINITION. The monitor ADC and the calibration (spec/13): the channel and its users, the converter fits, CAL_SYSTEM, the
array traces. -/

namespace Sys2Proof.Machine

/-! ## Arithmetic -/

/-- RNE(n / d) of an integer over a positive denominator. -/
def rneRatio (n : Int) (d : Nat) : Int :=
  let q := n.natAbs / d
  let r := n.natAbs % d
  let a := Int.ofNat (if d < 2 * r || (2 * r == d && q % 2 == 1) then q + 1 else q)
  if n < 0 then -a else a

/-- RNE(sqrt n): no square root of an integer lies halfway. -/
def rneSqrt (n : Nat) : Nat :=
  let r := isqrtBits n 40 0
  if r * r + r < n then r + 1 else r

/-- The corrected value of a raw code, before the clamp (R355). -/
def correctRaw (coef : Word) (raw : Nat) : Int :=
  let ofs := (BitVec.ofNat 16 (fld coef 15 0)).toInt
  rneScale ((16 * Int.ofNat raw - ofs) * Int.ofNat (fld coef 31 16)) (-19)

def correctCode (coef : Word) (raw : Nat) : Nat := min 4095 (max 0 (correctRaw coef raw)).toNat

/-! ## Conversions (R353 to R356) -/

/-- Half rate: one converter is being fitted. -/
def halfRate (s : State) : Bool := s.mon.fit != 0#2

/-- Converter of conversion i of a unit: A first at full rate; at half rate the one not fitted. -/
def convOf (s : State) (i : Nat) : Nat := if s.mon.fit = 1#2 then 1 else if s.mon.fit = 2#2 then 0 else i % 2

/-- The sample word of Table 13-3. -/
def sampleWord (s : State) (i raw : Nat) : Nat :=
  let k := convOf s i
  (if halfRate s then 0x2000 else 0) + 0x1000 * k + correctCode (coefOf s k) raw

/-- Conversions of a unit are delivered: MON_LAST holds the last, MON_HALF_CNT counts those at half rate. -/
def deliverCodes (channel : Nat) (raws : List Nat) (s : State) : State :=
  match raws.getLast? with
  | none => s
  | some r =>
    let w := sampleWord s (raws.length - 1) r
    modMon s fun m => { m with
      last := setFld (setFld m.last 20 16 channel) 15 0 w
      halfCnt := if m.fit = 0#2 then m.halfCnt else satWord m.halfCnt raws.length }

/-! ## The running set (R357) -/

/-- Once per ms the firmware asks for its running set, unless it still waits or runs. -/
def execRunningSet (s : State) : Res :=
  .next (if s.mon.owner = 1#3 || s.mon.waiting.contains 1 then s else askChannel 1 s)

/-! ## Fits (R358, R359, R362) -/

/-- A fit of converter k begins. -/
def beginFit (k : Nat) (s : State) : State := modMon s fun m => { m with fit := BitVec.ofNat 2 (k + 1) }

def setStage (r : Run) (st : Nat) (a b : Bool) (q : Nat) (s : State) : State := setTask r (.calSystem st a b q) s

/-- CAL_RESTORE reads its image and checks it (R369); a good one is written, monitor section first. -/
def restoreBegin (r : Run) (src bytes : Nat) (s : State) : State :=
  let bad (st : Nat) (s : State) : State := completeRun r st [] (calErr 7 s)
  let rd := localRead s false src bytes
  if rd.resp != 0 then completeRun r 0x51 [] s
  else if rd.poison then completeRun r 0x71 [] (relErr 8 s)
  else
    let at_ (o n : Nat) : Nat := readNat s (src + o) n
    let zero (o n : Nat) : Bool := (memGet s (src + o) n).all (· == 0#8)
    let arrays := at_ 4 4
    let sized := (arrays == 0 && bytes == 192) || (arrays == 4096 && bytes == calBytes)
    if !sized || at_ 0 4 != 1 || at_ 8 8 != Config.serialNumber.toNat || !zero 28 36 || !zero 84 44
        || (List.range arrays).any (fun a => !zero (192 + 1112 * a + 12) 4 || !zero (192 + 1112 * a + 1108) 4) then
      bad 0x23 s
    else if crc32c (memGet s (src + 64) (bytes - 64)) != w32 (at_ 24 4) then bad 0x41 s
    else
      let s := modMon s fun m => { m with
        coef := tset 0x80000000#32 (tset 0x80000000#32 m.coef 0 (w32 (at_ 64 4))) 1 (w32 (at_ 68 4))
        monQual := w32 (at_ 76 4) &&& 0x8000FFFF#32 }
      let s := putTraceCfg (w32 (at_ 80 4)) (putVref (at_ 72 4) s)
      let s := (List.range 32).foldl (fun s c => putCtiScale c (at_ (128 + 2 * c) 2) s) s
      restoreArrays r src bytes 0 0 (List.range arrays) s

/-- With no fit in progress, the work that waits for it goes on: commands in the order taken, then a periodic fit due. No
CAL_SYSTEM or CAL_RESTORE starts while another runs (R361, R362). -/
def nextFitWork (s : State) : State :=
  let busy := s.mon.fit != 0#2 || s.host.running.any fun r => match r.task with
    | .calSystem st _ _ _ => decide (0 < st)
    | .calRestore b _ _ _ _ _ => b
    | _ => false
  if busy then s
  else match s.host.running.find? fun r => match r.task with
      | .calSystem _ _ _ _ => true
      | .calRestore _ _ _ _ _ _ => true
      | _ => false with
    | some r => match r.task with
      | .calRestore _ src bytes _ _ _ => restoreBegin r src bytes s
      | _ => beginFit 0 (setStage r 1 false false 0 s)
    | none =>
      if s.mon.fitDue then
        beginFit s.mon.nextFit.toNat (modMon s fun m => { m with fitDue := false, nextFit := !m.nextFit })
      else s

/-- Every RECAL_S seconds a fit of the next converter falls due (R362). -/
def execPeriodicFit (s : State) : Res :=
  .next (if fld s.mon.cfg 23 16 = 0 || !isAwake s then s else nextFitWork (modMon s fun m => { m with fitDue := true }))

/-- F_T (R359). -/
def fullTarget (s : State) : Nat := (rneRatio (Int.ofNat (4 * fld s.mon.vref 16 0)) 125).toNat

/-- OFS and GAIN of a fit: z̄ and f̄ are the sums over 4,096 conversions; none when one is out of its range. -/
def fitCoef (ft zeroSum fullSum : Nat) : Option Word :=
  let ofs := rneRatio (Int.ofNat zeroSum) 256
  let den := Int.ofNat fullSum - 256 * ofs
  if ofs < -1024 || 1023 < ofs || den ≤ 0 then none
  else
    let gain := rneRatio (Int.ofNat (ft * 2 ^ 27)) den.toNat
    if gain < 29491 || 36045 < gain then none
    else some (w32 (gain.toNat * 65536 + (BitVec.ofInt 16 ofs).toNat))

/-- The 64 codes of the bandgap tap, by the present coefficients, lie within 5 % of 1.10 V: 104,500 to 115,500 steps of 10 µV. They are
read against VREF_CAL, whose mean the same coefficients correct (DEDUCED, log entry 55). -/
def bandgapGood (coef : Word) (vref fullSum : Nat) (bandgap : List Nat) : Bool :=
  let ofs := (BitVec.ofNat 16 (fld coef 15 0)).toInt
  let den := (Int.ofNat fullSum - 256 * ofs) * Int.ofNat (fld coef 31 16)
  let num := Int.ofNat (vref * (bandgap.foldl (fun n r => n + correctCode coef r) 0) * 2 ^ 21)
  decide (0 < den) && decide (104500 * den ≤ num) && decide (num ≤ 115500 * den)

/-- VREF_CAL lies within 10 % of F_T. -/
def refPresent (ft fullSum : Nat) : Bool := decide (9 * ft * 4096 ≤ 10 * fullSum) && decide (10 * fullSum ≤ 11 * ft * 4096)

/-- The end of a fit (R359): its coefficients are set, or it fails and leaves them; then the next work for the converters. -/
def fitEnd (zeroSum fullSum : Nat) (bandgap : List Nat) (stopped : Bool) (s : State) : State :=
  if s.mon.fit = 0#2 || s.mon.fit = 3#2 then s
  else
    let k := s.mon.fit.toNat - 1
    let ft := fullTarget s
    let present := bandgapGood (coefOf s k) (fld s.mon.vref 16 0) fullSum bandgap && refPresent ft fullSum
    let coef := fitCoef ft zeroSum fullSum
    let ok := present && coef.isSome && !stopped
    let s := if present || stopped then s else calErr 1 s
    let s := if stopped || coef.isNone then calErr (2 + k) s else s
    let s := modMon s fun m => { m with
      fit := 0#2, coef := if ok then tset 0x80000000#32 m.coef k (coef.getD 0#32) else m.coef }
    match systemRun s with
    | some (r, 1, _, b, q) => beginFit 1 (setStage r 2 ok b q s)
    | some (r, 2, a, _, q) => askChannel 2 (setStage r 3 a ok q s)
    | _ => nextFitWork s

def execFitEnd (zeroSum fullSum : Nat) (bandgap : List (BitVec 12)) (stopped : Bool) (s : State) : Res :=
  .next (fitEnd zeroSum fullSum (bandgap.map (·.toNat)) stopped s)

/-! ## Units of the channel end (R357, R360, R361) -/

/-- Squares of the residues of a verify unit. -/
def residues (s : State) (target : Nat) (raws : List Nat) : Nat :=
  (List.range raws.length).foldl (fun n i =>
    let d := correctRaw (coefOf s (convOf s i)) (raws.getD i 0) - Int.ofNat target
    n + (d * d).toNat) 0

/-- CAL_SYSTEM ends with its residual in 1/256 LSB (R361). -/
def systemEnds (r : Run) (a b : Bool) (q : Nat) (s : State) : State :=
  let res := rneSqrt (32 * q)
  let s := if 256 < res then calErr 4 s else s
  let s := if a && b && decide (res ≤ 256) then
      completeRun r 0 [w32 res] (modMon s fun m => { m with monQual := w32 (0x80000000 + res) })
    else completeRun r 1 [0xFFFFFFFF#32] s
  nextFitWork s

/-- A verify unit of CAL_SYSTEM ends: 1,024 conversions of channel 0, then of channel 1. -/
def verifyUnit (raws : List Nat) (s : State) : State :=
  match systemRun s with
  | some (r, 3, a, b, q) => askChannel 2 (setStage r 4 a b (q + residues s 0 raws) s)
  | some (r, 4, a, b, q) => systemEnds r a b (q + residues s (fullTarget s) raws) s
  | _ => s

/-- A unit of MON_SAMPLE ends: its sample words are written, and the command completes or asks again (R356). -/
def sampleUnit (raws : List Nat) (s : State) : State :=
  match sampleRun s with
  | none => s
  | some (r, ch, left, next, done) =>
    let n := min 256 left
    let bytes := (List.range n).flatMap fun i => leBytes 2 (sampleWord s i (raws.getD i 0))
    let (resp, s) := localWrite s false next bytes false
    if resp != 0 then completeRun r 0x51 [w32 done] s
    else if left ≤ 256 then completeRun r 0 [w32 (done + n)] s
    else askChannel 4 (setTask r (.monSample ch (left - n) (next + 2 * n) (done + n)) s)

/-- Conversions in the unit that the holder of the channel has. -/
def unitLength (s : State) : Nat :=
  match s.mon.owner.toNat with
  | 1 => 352
  | 2 => 1024
  | 3 => 48
  | 4 => (match sampleRun s with
    | some (_, _, left, _) => min 256 left
    | none => 0)
  | _ => 1

/-- Mean of a group of 16 conversions in 1/4 code. No rounding is given: a mean that is no whole number is either neighbour
(DESIGN CHOICE, log entry 55). -/
def groupMean (codes : List Nat) (s : State) : Nat × State :=
  let n := codes.foldl (· + ·) 0
  let (f, s) := drawFree s
  (n / 4 + if n % 4 = 0 then 0 else f % 2, s)

/-- The three groups of a trace are converted: their means are kept for its result, unless it was dropped meanwhile (R365). -/
def traceUnit (raws : List Nat) (s : State) : State :=
  let codes := (List.range 48).map fun i => correctCode (coefOf s (convOf s i)) (raws.getD i 0)
  let die := dieOfArray (s.mon.traced - 1)
  if s.mon.traced = 0 || tget 0 s.mon.atp die != s.mon.traced then s
  else
    let (z, s) := groupMean (codes.take 16) s
    let (r, s) := groupMean ((codes.drop 16).take 16) s
    let (c, s) := groupMean (codes.drop 32) s
    modMon s fun m => { m with traceMeans := tset [] m.traceMeans die [z, r, c] }

/-- A unit ends with the codes its conversions gave, and the channel passes on; in free run the unit is one sample. -/
def handover (raws : List Nat) (s : State) : State :=
  let u := s.mon.owner.toNat
  if raws.length != unitLength s || (u == 0 && !bit s.mon.cfg 0) then s
  else
    let ch := if u = 1 then 23 else fld s.mon.chsel 4 0
    let d := deliverCodes ch raws (setChannel ch s)
    let d := modMon d fun m => { m with owner := 0#3 }
    passChannel (if u = 2 then verifyUnit raws d else if u = 3 then traceUnit raws d
      else if u = 4 then sampleUnit raws d else d)

def execChannelHandover (samples : List (BitVec 12)) (s : State) : Res := .next (handover (samples.map (·.toNat)) s)

/-- A host write of MON_CHSEL; discarded while a user holds the channel (R354, Table 13-11). -/
def writeChsel (v : Word) (s : State) : State := if s.mon.owner = 0#3 then setChannel (fld v 4 0) s else calErr 0 s

def execMonChselWrite (value : Word) (s : State) : Res := .next (writeChsel value s)

/-! ## Traces (R364 to R366) -/

/-- The trace of an array that the die's test point holds is dropped (R365). -/
def execTraceDeadline (array : Nat) (s : State) : Res :=
  onUnit 4096 array s fun s =>
    if s.mon.waiting.contains (traceUser (dieOfArray array)) then dropTrace array s else s

/-- The CTI scale after a kept result (R366). With Δc = 0 the spec states no value: a free one in its range. -/
def nextCti (scale : Nat) (dr dc : Int) (s : State) : Nat × State :=
  if dc = 0 then
    let (f, s) := drawFree s
    (29491 + f % 6555, s)
  else
    let n := Int.ofNat scale * (dr - dc) * dc.sign
    let v := Int.ofNat scale + rneRatio n (16 * dc.natAbs)
    ((min 36045 (max 29491 v)).toNat, s)

/-- |Δr − E| > E · LIMIT / 1,000 with E = ref · (1 + TC · ΔT / 10,000), ΔT in steps of 0.25 °C. -/
def offBand (ref tc dt limit dr : Int) : Bool :=
  let e := ref * (40000 + tc * dt)
  decide (e * limit < Int.ofNat ((dr * 40000 - e).natAbs * 1000))

/-- A result that is kept is compared with the baseline of its group and moves the CTI scale of the cluster (R365, R366). `tj` is
that of the fit. -/
def keepTrace (a tj z vr vc : Nat) (s : State) : State :=
  let g := ((arr s a).traces - 1) % 8
  let dr := Int.ofNat vr - Int.ofNat z
  let dc := Int.ofNat vc - Int.ofNat z
  let c := clusterOfArray a
  let u := arr s a
  let ref := tget 0#16 u.traceRef g
  let word := BitVec.ofInt 16 dr
  let off := ref != 0#16 && offBand (Int.ofNat ref.toNat) ((BitVec.ofNat 8 (fld s.mon.traceCfg 23 16)).toInt)
    (Int.ofNat tj - Int.ofNat (tget 0#16 u.traceTj g).toNat) (Int.ofNat (fld s.mon.traceCfg 5 0)) dr
  let s := modArr s a fun u => { u with
    traceLast := tset 0#16 u.traceLast g word
    traceRef := if ref = 0#16 then tset 0#16 u.traceRef g word else u.traceRef
    traceTj := if ref = 0#16 then tset 0#16 u.traceTj g (BitVec.ofNat 16 tj) else u.traceTj
    state := if off then setBit u.state 16 else u.state
    refreshCause := if off then 5#3 else u.refreshCause }
  let s := if off then calErr 5 s else s
  let (v, s) := nextCti (fld (clus s c).ctiScale 15 0) dr dc s
  let s := modClus s c fun x => { x with ctiScale := w32 v }
  let s := freeTestPoint a (modMon s fun m => { m with traceCnt := satFld m.traceCnt 31 16 1 })
  if off && fld (arr s a).state 1 0 == 0 then boundary a s else s

/-- The result of a trace (R365), once its conversions and its calibration have ended: kept when the array is in service and its
region on. A calibration that does not pass has dropped it already. -/
def traceResult (a : Nat) (s : State) : State :=
  let die := dieOfArray a
  if tget 0 s.mon.atp die != a + 1 then s
  else match tget [] s.mon.traceMeans die, tget 0 s.mon.traceFit die with
    | [z, vr, vc], tj + 1 =>
      if arrFenced s a || !regionOn (arrRegState s (clusterOfArray a)) then dropTrace a s else keepTrace a tj z vr vc s
    | _, _ => s

def execTraceResult (array : Nat) (s : State) : Res := onUnit 4096 array s (traceResult array)

/-- A host write of CAL_CTI_SCALE; a calibration in progress keeps its value (R366). -/
def execCtiScaleWrite (cluster : Nat) (value : Word) (s : State) : Res :=
  onUnit 32 cluster s (putCtiScale cluster (fld value 15 0))

end Sys2Proof.Machine
end

