-- ==== Sys2Proof/Machine/Registers.lean ====
section
/-! DEFINITION. The registers (R11 to R14): the word at each register address of Tables 1-2, 2-14, 3-9, 4-12, 5-9, 6-14,
7-11, 8-14, 9-7, 10-7, 11-13, 12-13, 13-10 and 14-10, what a write of it does, what a read of it clears or latches, and the
sideband (R404, R405). -/

namespace Sys2Proof.Machine

/-! ## Access codes (Table 0-4) -/

/-- W1C: a 1 clears its bit, within the bits that are W1C. -/
def w1c (mask : Nat) (v w : Word) : Word := w &&& ~~~(v &&& w32 mask)

/-- One RW field of a write: it takes its value, or, with a code that is discarded, keeps it and the discard is noted (R14). -/
def takeField (v : Word) (hi lo : Nat) (ok : Nat → Bool) (r : Word × Bool) : Word × Bool :=
  if ok (fld v hi lo) then (setFld r.1 hi lo (fld v hi lo), r.2) else (r.1, true)

/-- A field of which every code is legal. -/
def anyCode (_ : Nat) : Bool := true

def codeIn (lo hi n : Nat) : Bool := decide (lo ≤ n) && decide (n ≤ hi)

/-- The fields of a write, each with its legal codes, onto the word as it stands. -/
def takeFields (v old : Word) (fs : List (Nat × Nat × (Nat → Bool))) : Word × Bool :=
  fs.foldl (fun r f => takeField v f.1 f.2.1 f.2.2 r) (old, false)

/-! ## The host interface and the device block -/

/-- HST_CMD_STAT. -/
def cmdStat (s : State) : Word := setFld (setFld 0#32 31 31 s.host.ready.toNat) 8 0 (inflight s)

/-- HST_DP_STAT. -/
def dpStat (s : State) : Word :=
  let st := if s.host.draining then 2 else if (inbound s).isSome then 1 else 0
  setFld (setFld (setFld 0#32 31 30 st) 29 29 s.host.outBound.toNat) 16 0 s.host.outBuf.length

/-- HST_DP_REMAIN. -/
def dpRemain (s : State) : Word :=
  match inbound s with
  | some r => w32 (min (inboundLeft r) 0xFFFFFFFF)
  | none => 0#32

/-- HST_CTX_STASH[k]: the reservations of a slot, in micro-batches and in MiB rounded up. -/
def ctxStash (s : State) (c k : Nat) : Word :=
  let x := tget CtxU.reset s.ctxs c
  let n := x.resv.countP fun r => r.slot == k
  let kib := n * (tget noSlot x.slots k).2.2.toNat
  setFld (w32 ((kib + 1023) / 1024)) 31 24 (min n 255)

/-- ARR_WB_STAT and ARR_WB_LIMIT (Table 3-10). -/
def wbStatWord (s : State) : Word :=
  let queued := (List.range 4096).countP fun a => refreshAsks s a || rewriteAsks s a
  setFld (setFld (setFld 0#32 31 31 (fld s.wbStat 31 31)) 28 16 queued) 9 0 (grantsHeld s)

def wbLimitWord (s : State) : Word := setFld (setFld 0#32 25 16 (wbPower s)) 9 0 (wbEffective s)

/-- REL_STAT: the launches that replay, and those that await REPLAYED. -/
def relStatWord (s : State) : Word :=
  let re := s.launches.countP fun l => decide (0 < l.recalls) && l.state == .running
  let aw := s.launches.countP fun l => l.state == .recalled && !l.awaits.isEmpty
  setFld (setFld s.rel.stat 23 16 (min re 255)) 15 8 (min aw 255)

/-- MON_STAT. -/
def monStatWord (s : State) : Word :=
  setFld (setFld (setFld 0#32 10 8 s.mon.owner.toNat) 5 4 s.mon.fit.toNat) 0 0 (if s.mon.fit = 0#2 then 0 else 1)

/-- CLK_STAT with PULSE_MOVED: both REF_REPEAT and STEP_PULSE are 1 (R348). -/
def clkStatWord (s : State) : Word := putBit s.pwr.clkStat 3 (bit s.pwr.syncCfg 0 && bit s.pwr.syncCfg 1)

/-- The counters and LOG_SEQ are set at the mount (R390). -/
def onceMounted (s : State) (w : Word) : Word := if bit s.sec.logStat 22 then w else 0#32

/-- Word i of a 64-bit or wider register. -/
def wordOf {n : Nat} (w : BitVec n) (i : Nat) : Word := w32 (w.toNat / 2 ^ (32 * i))

/-- HST_ and context registers, SEC_ and LOG_ registers: offsets 0x0000 to 0x0EFF of the device block. -/
def readHost (s : State) (o : Nat) : Word :=
  if 0x800 ≤ o && o < 0xC00 then
    let c := (o - 0x800) / 0x40
    let x := tget CtxU.reset s.ctxs c
    let k := o % 0x40
    if k = 0 then x.epoch
    else if k = 4 then x.sealW
    else if k = 8 then x.fb
    else if 0x10 ≤ k && k < 0x30 then ctxStash s c ((k - 0x10) / 4)
    else 0#32
  else if 0xD00 ≤ o && o < 0xE00 then wordOf (tget 0#256 s.sec.meas ((o - 0xD00) / 32)) (o % 32 / 4)
  else match o with
    | 0x000 => s.deviceId
    | 0x010 => shownTopology s
    | 0x014 => s.avail
    | 0x100 => cmdStat s
    | 0x104 => s.host.head
    | 0x108 => s.host.tail
    | 0x10C => dpStat s
    | 0x110 => dpRemain s
    | 0x114 => s.host.dpCtl
    | 0x118 => s.host.orphan
    | 0x11C => s.host.irqCause
    | 0x120 => s.host.err
    | 0x124 => s.host.linkStat
    | 0x400 => s.wbCfg
    | 0x404 => wbStatWord s
    | 0x408 => wbLimitWord s
    | 0xC00 => s.sec.boot
    | 0xC04 => s.sec.err
    | 0xC08 => onceMounted s s.sec.fwRb
    | 0xC0C => onceMounted s s.sec.cfgRb
    | 0xC10 => onceMounted s s.sec.keyFloor
    | 0xC40 => s.sec.logStat
    | 0xC44 => s.sec.logErr
    | 0xC48 => onceMounted s (wordOf s.sec.seq 0)
    | 0xC4C => onceMounted s (wordOf s.sec.seq 1)
    | _ => 0#32

/-- REL_ registers (Table 10-7). -/
def readRel (s : State) (o : Nat) : Word :=
  if 0x100 ≤ o && o < 0x140 then wordOf s.rel.coreFence ((o - 0x100) / 4)
  else match o with
    | 0x00 => s.rel.cfg
    | 0x04 => relStatWord s
    | 0x08 => s.rel.err
    | 0x0C => s.rel.detectCnt
    | 0x10 => s.rel.replayCnt
    | 0x14 => s.rel.term
    | 0x18 => s.rel.histCfg
    | 0x20 => s.rel.twinCfg
    | 0x24 => s.rel.twinBase
    | 0x28 => s.rel.twinListLo
    | 0x2C => s.rel.twinListHi
    | 0x30 => s.rel.twinStat
    | _ => 0#32

/-- PWR_ and CLK_ registers (Table 12-13). -/
def readPwr (s : State) (o : Nat) : Word :=
  if 0x100 ≤ o && o < 0x180 then (clus s ((o - 0x100) / 4)).region
  else match o with
    | 0x000 => s.pwr.stat
    | 0x004 => s.pwr.cfg
    | 0x008 => s.pwr.dvfs
    | 0x00C => s.pwr.therm
    | 0x010 => s.pwr.err
    | 0x014 => s.pwr.resetW
    | 0x018 => s.pwr.noticeCnt
    | 0x01C => s.pwr.wdog
    | 0x200 => s.pwr.watchCtl
    | 0x204 => s.pwr.watchStat
    | 0x208 => wordOf s.pwr.watchTime 0
    | 0x20C => s.pwr.watchHi
    | 0x300 => clkStatWord s
    | 0x304 => s.pwr.syncCfg
    | _ => 0#32

/-- MON_ and CAL_ registers (Table 13-10). -/
def readMon (s : State) (o : Nat) : Word :=
  if 0x200 ≤ o && o < 0x280 then (clus s ((o - 0x200) / 4)).ctiScale
  else match o with
    | 0x000 => s.mon.cfg
    | 0x004 => monStatWord s
    | 0x008 => s.mon.chsel
    | 0x00C => s.mon.last
    | 0x010 => s.mon.halfCnt
    | 0x100 => coefOf s 0
    | 0x104 => coefOf s 1
    | 0x108 => s.mon.vref
    | 0x10C => s.mon.monQual
    | 0x110 => s.mon.err
    | 0x114 => s.mon.traceCfg
    | 0x118 => s.mon.traceCnt
    | _ => 0#32

/-- The device block; addresses not listed read as zero (R12). -/
def readDevice (s : State) (o : Nat) : Word :=
  if o < 0x0F00 then readHost s o
  else if 0x1000 ≤ o && o < 0x2000 then readRel s (o - 0x1000)
  else if 0x2000 ≤ o && o < 0x3000 then readPwr s (o - 0x2000)
  else if 0x3000 ≤ o && o < 0x4000 then readMon s (o - 0x3000)
  else 0#32

/-! ## The unit blocks -/

/-- UPD_ registers (Table 7-11). -/
def readCluster (u : ClusterU) (o : Nat) : Word :=
  if 0x8100 ≤ o && o < 0x9100 then tget 0#32 u.coef ((o - 0x8100) / 4)
  else if 0x9100 ≤ o && o < 0x9200 then tget 0#32 u.coefSum ((o - 0x9100) / 4)
  else match o with
    | 0x8000 => u.updStat
    | 0x8004 => u.updErr
    | 0x8008 => u.gnorm
    | 0x800C => u.ratio
    | 0x8010 => u.layers
    | _ => 0#32

/-- ENG_STAT. -/
def engStat (u : CoreU) : Word :=
  let ctx := match u.stream with
    | some p => fld (p.job.words.getD 0 0#32) 11 8
    | none => 0
  setFld (setFld (setFld (setFld 0#32 23 20 u.passq.length) 19 16 ctx) 2 1 u.power.toNat) 0 0 (!u.drain.isEmpty).toNat

/-- FMT_FLAGSUM word i: bit t for an entry any of whose W1C flags is 1. -/
def flagSum (u : CoreU) (i : Nat) : Word :=
  w32 ((List.range 32).foldl (fun n t =>
    n + if fld (tget Entry.reset u.entries (32 * i + t)).tflag 6 0 = 0 then 0 else 2 ^ t) 0)

/-- A word of a tensor entry (Table 5-9). -/
def readEntry (e : Entry) (o : Nat) : Word :=
  if 0x40 ≤ o && o < 0x60 then
    let k := (o - 0x40) / 2
    w32 ((tget 0#16 e.thist k).toNat + 2 ^ 16 * (tget 0#16 e.thist (k + 1)).toNat)
  else match o with
    | 0x00 => e.tcfg
    | 0x04 => e.tfix
    | 0x08 => e.town
    | 0x0C => e.tflag
    | 0x10 => e.blocks
    | 0x14 => e.zero
    | 0x18 => e.sat
    | 0x1C => e.dig
    | 0x20 => e.inexact
    | 0x24 => e.winlow
    | 0x28 => e.invalid
    | 0x2C => e.nonfin
    | 0x30 => e.amax
    | _ => 0#32

/-- ENG_, VEC_ and FMT_ registers (Tables 4-12, 5-9). -/
def readCore (s : State) (k : Nat) (o : Nat) : Word :=
  let u := core s k
  if 0x0100 ≤ o && o < 0x0280 then
    match u.passq[(o - 0x100) / 48]? with
    | some q => q.words.getD ((o - 0x100) % 48 / 4) 0#32
    | none => 0#32
  else if 0x4000 ≤ o && o < 0x8000 then wordOfBytes ((List.range 4).map fun i => tget 0#8 u.tables (o - 0x4000 + i))
  else if 0x8000 ≤ o && o < 0xE000 then readEntry (tget Entry.reset u.entries ((o - 0x8000) / 0x60)) ((o - 0x8000) % 0x60)
  else if 0xE020 ≤ o && o < 0xE040 then flagSum u ((o - 0xE020) / 4)
  else if 0x1010 ≤ o && o < 0x1020 then tget 0#32 u.tblSum ((o - 0x1010) / 4)
  else match o with
    | 0x0000 => u.engCfg
    | 0x0004 => engStat u
    | 0x0008 => u.engErr
    | 0x0010 => u.validCnt
    | 0x0014 => u.feedCnt
    | 0x0018 => u.drainCnt
    | 0x001C => u.gatedCnt
    | 0x1000 => vecStat s k
    | 0x1004 => u.vecErr
    | 0x1008 => u.tailCnt
    | 0xE000 => u.fmtErr
    | _ => 0#32

/-- ARR_ registers (Tables 2-14, 3-9). -/
def readArr (u : ArrU) (o : Nat) : Word :=
  match o with
  | 0x000 => u.state
  | 0x004 => u.cfg
  | 0x008 => u.chkcfg
  | 0x00C => u.calp
  | 0x010 => u.qual
  | 0x014 => u.err
  | 0x018 => u.evcnt
  | 0x01C => u.clipCnt
  | 0x020 => u.reads
  | 0x024 => u.wrcfg
  | 0x028 => u.wrstat
  | 0x02C => u.wrtime
  | 0x030 => u.wrerr
  | _ => 0#32

/-- FAB_ and RED_ registers of a port (Tables 8-14, 9-7). -/
def readPortRegs (u : PortU) (o : Nat) : Word :=
  if 0x0040 ≤ o && o < 0x0060 then tget 0#32 u.lanes ((o - 0x40) / 4)
  else match o with
    | 0x0000 => u.ctl
    | 0x0004 => u.stat
    | 0x0008 => u.err
    | 0x000C => u.toll
    | 0x0010 => u.tollStat
    | 0x0014 => u.replays
    | 0x0018 => u.stalls
    | 0x001C => u.stales
    | 0xC000 => u.redTx
    | 0xC004 => u.redRx
    | _ => 0#32

/-- RED_STAT. -/
def redStat (s : State) : Word :=
  setFld (setFld 0#32 30 16 s.fab.waiting.length) 9 0 (s.fab.caravans.countP fun v => v.state == 1#3)

/-- A ring's registers; g counts from 1. -/
def readRing (s : State) (g o : Nat) : Word :=
  match o with
  | 0x00 => tget 0#32 s.fab.ringCfg g
  | 0x04 => tget 0#32 s.fab.ringLo g
  | 0x08 => tget 0#32 s.fab.ringHi g
  | 0x0C => tget 0#32 s.fab.sentSum g
  | 0x10 => tget 0#32 s.fab.recvSum g
  | _ => 0#32

/-- Module-wide FAB_ and RED_ registers, in the block of port 0. RED_CTX_POLICY reads as last written. -/
def readFab (s : State) (o : Nat) : Word :=
  if 0x4020 ≤ o && o < 0x4060 then (tget CtxU.reset s.ctxs ((o - 0x4020) / 4)).job
  else if 0x4080 ≤ o && o < 0x4100 then wordOf (tget CtxU.reset s.ctxs ((o - 0x4080) / 8)).milestone (o % 8 / 4)
  else if 0x8040 ≤ o && o < 0x8080 then
    let x := tget CtxU.reset s.ctxs ((o - 0x8040) / 4)
    x.policyHeld.getD x.policy
  else if 0x8100 ≤ o && o < 0x8280 then readRing s ((o - 0x8100) / 0x20 + 1) (o % 0x20)
  else match o with
    | 0x4000 => s.fab.devid
    | 0x4004 => s.fab.stallCfg
    | 0x4008 => s.fab.timeCfg
    | 0x400C => s.fab.timeStat
    | 0x4010 => wordOf s.rack 0
    | 0x4014 => s.fab.timeHi
    | 0x4018 => s.fab.pulse
    | 0x401C => s.fab.err
    | 0x8000 => s.fab.cvtabLo
    | 0x8004 => s.fab.cvtabHi
    | 0x8008 => redStat s
    | 0x800C => s.fab.redErr
    | 0x8010 => s.fab.satCnt
    | 0x8014 => s.fab.staleGen
    | _ => 0#32

/-! ## Addresses (Table 1-5) -/

/-- The block of a register address, with the unit and the offset within its block. -/
inductive RegAt where
  | device (off : Nat)
  | cluster (c off : Nat)
  | core (k off : Nat)
  | array (a off : Nat)
  | port (p off : Nat)
  /-- A memory controller's block: the spec lists no register of it (log entry 13). -/
  | memory (addr : Nat)
  | reserved
  deriving DecidableEq, Repr

/-- The words of the register region. -/
def regAt (addr : Nat) : RegAt :=
  let a := addr / 4 * 4
  if a < 0xC0A0000000 then .reserved
  else if a < 0xC0A0100000 then .device (a - 0xC0A0000000)
  else if 0xC0A1000000 ≤ a && a < 0xC0A1200000 then .cluster ((a - 0xC0A1000000) / 0x10000) (a % 0x10000)
  else if 0xC0A2000000 ≤ a && a < 0xC0A4000000 then .core ((a - 0xC0A2000000) / 0x10000) (a % 0x10000)
  else if 0xC0A4000000 ≤ a && a < 0xC0A5000000 then .array ((a - 0xC0A4000000) / 0x1000) (a % 0x1000)
  else if 0xC0A5000000 ≤ a && a < 0xC0A5120000 then .port ((a - 0xC0A5000000) / 0x10000) (a % 0x10000)
  else if 0xC0A6000000 ≤ a && a < 0xC0A6080000 then .memory a
  else .reserved

/-- A port block's word: a port register, or in the block of port 0 a module-wide one. -/
def readPortBlock (s : State) (p o : Nat) : Word :=
  if p = 0 && (codeIn 0x4000 0x7FFF o || codeIn 0x8000 0xBFFF o) then readFab s o else readPortRegs (port s p) o

/-- The word that a register reads as. -/
def regWord (s : State) (r : RegAt) : Word :=
  match r with
  | .device o => readDevice s o
  | .cluster c o => readCluster (clus s c) o
  | .core k o => readCore s k o
  | .array a o => readArr (arr s a) o
  | .port p o => readPortBlock s p o
  | .memory a => Config.unlistedWord a
  | .reserved => 0#32

/-! ## What a read does (RC, and the latching reads) -/

/-- FAB_TIME_LO latches the count's high half. -/
def latchTime (s : State) : State := modFab s fun f => { f with timeHi := wordOf s.rack 1 }

/-- PWR_WATCH_TIME_LO latches the time counter's high half. -/
def latchWatch (s : State) : State := modPwr s fun p => { p with watchHi := wordOf p.watchTime 1 }

/-- RC fields of the device block. -/
def clearDevice (o : Nat) (s : State) : State :=
  if 0x800 ≤ o && o < 0xC00 then
    if o % 0x40 = 8 then modCtx s (BitVec.ofNat 4 ((o - 0x800) / 0x40)) fun x => { x with fb := 0#32 } else s
  else match o with
    | 0x118 => modHost s fun h => { h with orphan := 0#32 }
    | 0x100C => modRel s fun r => { r with detectCnt := 0#32 }
    | 0x1010 => modRel s fun r => { r with replayCnt := 0#32 }
    | 0x2018 => modPwr s fun p => { p with noticeCnt := 0#32 }
    | 0x2208 => latchWatch s
    | 0x3010 => modMon s fun m => { m with halfCnt := 0#32 }
    | 0x3118 => modMon s fun m => { m with traceCnt := 0#32 }
    | _ => s

/-- RC fields of a core. -/
def clearCore (o : Nat) (u : CoreU) : CoreU :=
  match o with
  | 0x0010 => { u with validCnt := 0#32 }
  | 0x0014 => { u with feedCnt := 0#32 }
  | 0x0018 => { u with drainCnt := 0#32 }
  | 0x001C => { u with gatedCnt := 0#32 }
  | 0x1008 => { u with tailCnt := 0#32 }
  | _ => u

/-- RC fields of an array. -/
def clearArr (o : Nat) (u : ArrU) : ArrU :=
  match o with
  | 0x018 => { u with evcnt := 0#32 }
  | 0x01C => { u with clipCnt := 0#32 }
  | _ => u

/-- RC fields of a port. -/
def clearPort (o : Nat) (u : PortU) : PortU :=
  if 0x0040 ≤ o && o < 0x0060 then { u with lanes := tmod 0#32 u.lanes ((o - 0x40) / 4) fun w => setFld w 15 0 0 }
  else match o with
    | 0x0010 => { u with tollStat := setFld u.tollStat 31 16 0 }
    | 0x0014 => { u with replays := 0#32 }
    | 0x0018 => { u with stalls := 0#32 }
    | 0x001C => { u with stales := 0#32 }
    | 0xC000 => { u with redTx := 0#32 }
    | 0xC004 => { u with redRx := 0#32 }
    | _ => u

/-- RC fields of the module-wide FAB_ and RED_ registers. -/
def clearFab (o : Nat) (s : State) : State :=
  match o with
  | 0x4010 => latchTime s
  | 0x8010 => modFab s fun f => { f with satCnt := 0#32 }
  | 0x8014 => modFab s fun f => { f with staleGen := 0#32 }
  | _ => s

/-- What a read of a register does besides returning it. -/
def readEffect (r : RegAt) (s : State) : State :=
  match r with
  | .device o => clearDevice o s
  | .cluster c o => if o = 0x8010 then modClus s c fun u => { u with layers := 0#32 } else s
  | .core k o => modCore s k (clearCore o)
  | .array a o => modArr s a (clearArr o)
  | .port p o =>
    if p = 0 && (codeIn 0x4000 0x7FFF o || codeIn 0x8000 0xBFFF o) then clearFab o s else modPort s p (clearPort o)
  | .memory _ => s
  | .reserved => s

/-- A read of the register at an address: its word, and the state after it. -/
def readRegister (addr : Nat) (s : State) : Word × State := (regWord s (regAt addr), readEffect (regAt addr) s)

/-- A read that returns its word to the reader. -/
def readOut (addr : Nat) (s : State) : State :=
  let r := readRegister addr s
  { r.2 with out := .readData (bytesOfWord r.1) :: r.2.out }

def execRcRead (addr : Addr) (s : State) : Res := .next (readOut addr.toNat s)

def execFabTimeLoRead (s : State) : Res := .next (readOut 0xC0A5004010 s)

def execPwrWatchTimeLoRead (s : State) : Res := .next (readOut 0xC0A0002208 s)

/-! ## Writes of registers with rows of their own -/

/-- SPAN and RANGE (R70, Tables 2-4, 2-17): held for the next product boundary, at which an idle array stands. -/
def writeArrCfg (a : Nat) (v : Word) (s : State) : State :=
  let u := arr s a
  let r := takeFields v (u.cfgHeld.getD u.cfg) [(7, 6, codeIn 0 2), (5, 3, codeIn 0 5)]
  let s := modArr s a fun u => { u with cfgHeld := some r.1, err := if r.2 then setBit u.err 6 else u.err }
  boundary a s

/-- K and ZMAX (R70, Table 2-17). -/
def writeArrChk (a : Nat) (v : Word) (s : State) : State :=
  let u := arr s a
  let r := takeFields v (u.chkHeld.getD u.chkcfg) [(15, 12, codeIn 4 15), (11, 8, codeIn 1 15)]
  let s := modArr s a fun u => { u with chkHeld := some r.1, err := if r.2 then setBit u.err 6 else u.err }
  boundary a s

def execArrCfgWrite (array : Nat) (reg : ArrCfgReg) (value : Word) (s : State) : Res :=
  onUnit 4096 array s fun s => match reg with
    | .cfg => writeArrCfg array value s
    | .chkcfg => writeArrChk array value s

/-- A write of ARR_TRIM[p] (R70); there are 530 of them. -/
def writeTrim (a p : Nat) (v : BitVec 16) (s : State) : State :=
  if p < 530 then trimByte (trimByte s a p false (BitVec.ofNat 8 v.toNat)) a p true (BitVec.ofNat 8 (v.toNat / 256)) else s

def execArrTrimWrite (array p : Nat) (value : BitVec 16) (s : State) : Res := onUnit 4096 array s (writeTrim array p value)

/-- A configuration word of a tensor entry takes a write, or holds it while the entry is owned (R160). -/
def writeTcfg (v : Word) (e : Entry) : Entry :=
  let r := takeFields v e.tcfg [(23, 20, anyCode), (19, 16, anyCode), (13, 12, codeIn 0 1), (11, 9, anyCode),
    (8, 5, codeIn 1 15), (1, 0, codeIn 0 2)]
  let e := if r.2 then { e with tflag := setBit e.tflag 6 } else e
  if bit e.town 31 then { e with heldCfg := some r.1, tflag := setBit e.tflag 7 } else { e with tcfg := r.1 }

def writeTfix (v : Word) (e : Entry) : Entry :=
  let r := takeFields v e.tfix [(25, 16, anyCode), (7, 0, codeIn 0 254)]
  let e := if r.2 then { e with tflag := setBit e.tflag 6 } else e
  if bit e.town 31 then { e with heldFix := some r.1, tflag := setBit e.tflag 7 } else { e with tfix := r.1 }

/-- FMT_THIST[k]: 16 bits, EPOCH_TAG and MAX_CODE. -/
def writeThist (k : Nat) (v : Word) (e : Entry) : Entry :=
  let old := tget 0#16 e.thist k
  let r := takeFields v (w32 old.toNat) [(15, 9, anyCode), (8, 0, codeIn 0 277)]
  let w := BitVec.ofNat 16 r.1.toNat
  let e := if r.2 then { e with tflag := setBit e.tflag 6 } else e
  if bit e.town 31 then
    { e with
      heldHist := (e.heldHist.filter fun h => h.1 < k) ++ (k, w) :: e.heldHist.filter fun h => k < h.1
      tflag := setBit e.tflag 7 }
  else { e with thist := tset 0#16 e.thist k w }

/-- A write of one of the registers of R160; entries count to 255, the ring to 15. -/
def writeFmt (k t : Nat) (r : FmtReg) (v : Word) (s : State) : State :=
  if 256 ≤ t then s
  else match r with
    | .tcfg => modEntry s k t (writeTcfg v)
    | .tfix => modEntry s k t (writeTfix v)
    | .thist j => if j < 16 then modEntry s k t (writeThist j v) else s

def execFmtConfigWrite (core entry : Nat) (reg : FmtReg) (value : Word) (s : State) : Res :=
  onUnit 512 core s (writeFmt core entry reg value)

/-- A host write to ENG_PASSQ is discarded (Table 4-13). -/
def discardPassq (k : Nat) (s : State) : State := modCore s k fun u => { u with engErr := setBit u.engErr 1 }

def execPassqHostWrite (core _off : Nat) (_value : Word) (s : State) : Res := onUnit 512 core s (discardPassq core)

/-- RED_CTX_POLICY[c] (R265, Table 9-6): a write waits for the context's next commit tick. -/
def writePolicy (c : BitVec 4) (v : Word) (s : State) : State :=
  if fld v 1 0 = 3 then redErr 0 s else modCtx s c fun x => { x with policyHeld := some (w32 (fld v 1 0)) }

def execInvalidPolicyWrite (ctx : BitVec 4) (value : Word) (s : State) : Res := .next (writePolicy ctx value s)

/-- A caravan of the ring is RUNNING. -/
def ringRuns (s : State) (g : Nat) : Bool := s.fab.caravans.any fun v => v.ring == g && v.state == 1#3

/-- RED_RING_CFG: CONTEXT, ENABLE, N from 1 to 4,096 and POS below the N that stands. -/
def writeRingCfg (g : Nat) (v : Word) (s : State) : State :=
  let old := tget 0#32 s.fab.ringCfg g
  let r := takeFields v old [(31, 28, anyCode), (27, 27, anyCode), (25, 13, codeIn 1 4096)]
  let r := takeField v 12 0 (fun p => decide (p < fld r.1 25 13)) r
  let s := modFab s fun f => { f with ringCfg := tset 0#32 f.ringCfg g r.1 }
  if r.2 then redErr 0 s else s

/-- A write to a ring register, discarded while a caravan of the ring is RUNNING (R252). Rings are 1 to 12. -/
def writeRing (g : Nat) (r : RingReg) (v : Word) (s : State) : State :=
  if g = 0 || 12 < g then s
  else if ringRuns s g then redErr 0 s
  else match r with
    | .cfg => writeRingCfg g v s
    | .listLo => modFab s fun f => { f with ringLo := tset 0#32 f.ringLo g (setFld v 1 0 0) }
    | .listHi => modFab s fun f => { f with ringHi := tset 0#32 f.ringHi g (w32 (fld v 7 0)) }

def execRingCfgWrite (ring : Nat) (reg : RingReg) (value : Word) (s : State) : Res := .next (writeRing ring reg value s)

/-- Every context keeps REL_CFG as it stood until its next commit tick (R299). -/
def holdRelCfg (old : Word) (s : State) : State :=
  { s with ctxs := s.ctxs.map fun e =>
      if e.2.live && e.2.relIn.isNone then (e.1, { e.2 with relIn := some old }) else e }

/-- A write of REL_CFG; a context that exists takes it over at its next commit tick. -/
def writeRelCfg (v : Word) (s : State) : State :=
  let old := s.rel.cfg
  let r := takeFields v old [(31, 30, codeIn 0 1), (29, 26, codeIn 6 10), (25, 22, codeIn 1 15), (21, 18, anyCode),
    (15, 0, codeIn 1 65535)]
  let s := modRel (holdRelCfg old s) fun x => { x with cfg := r.1 }
  if r.2 then relErr 0 s else s

/-- A write of REL_HIST_CFG; with a context open it waits for the next commit tick. -/
def writeHistCfg (v : Word) (s : State) : State :=
  let old := s.rel.histCfg
  let r := takeFields v old [(23, 16, codeIn 1 255), (15, 8, codeIn 1 255), (7, 0, codeIn 1 255)]
  let waits := s.ctxs.any fun e => e.2.live
  let s := modRel s fun x => { x with
    histCfg := r.1, histIn := if waits && x.histIn.isNone then some old else x.histIn }
  if r.2 then relErr 0 s else s

def execRelCfgWrite (reg : RelReg) (value : Word) (s : State) : Res :=
  .next (match reg with
    | .cfg => writeRelCfg value s
    | .histCfg => writeHistCfg value s)

/-- A write to a watch register is issued, and waits for those issued before it (R30). -/
def issueWatch (r : WatchReg) (v : Word) (cmd : Bool) (s : State) : State :=
  modPwr s fun p => { p with watchQ := p.watchQ ++ [(r, v, cmd)] }

def execWatchWrite (reg : WatchReg) (value : Word) (s : State) : Res := .next (issueWatch reg value false s)

/-- The oldest write to a watch register takes effect and is acknowledged; a REG_WRITE that waits for it completes, and
sleep may begin (R30, R342). -/
def ackWatch (r : WatchReg) (s : State) : State :=
  match s.pwr.watchQ.find? fun q => q.1 == r with
  | none => s
  | some q =>
    let s := modPwr s fun p => { p with
      watchQ := p.watchQ.erase q
      watchCtl := if r = .ctl then w32 (fld q.2.1 5 0) else p.watchCtl
      watchStat := if r = .stat then w1c 0x3F q.2.1 p.watchStat else p.watchStat }
    let s := if q.2.2 then (match s.host.running.find? fun x => x.task == .watch r with
        | some x => completeRun x 0 [] s
        | none => s) else s
    trySleep s

def execWatchWriteAck (reg : WatchReg) (s : State) : Res := .next (ackWatch reg s)

/-! ## Writes of the other registers -/

/-- A context has an open epoch: it exists and a manifest has set its epoch (R162). -/
def anyOpenEpoch (s : State) : Bool := s.ctxs.any fun e => e.2.live && e.2.begun

/-- HST_ registers, ARR_WB_, HST_CTX_, SEC_ and LOG_ registers. -/
def writeHost (o : Nat) (v : Word) (s : State) : State :=
  if 0x800 ≤ o && o < 0xC00 then
    if o % 0x40 = 4 then
      modCtx s (BitVec.ofNat 4 ((o - 0x800) / 0x40)) fun x => { x with sealW := w1c 0xC0000000 v x.sealW }
    else s
  else match o with
    | 0x104 => writeHead v s
    | 0x114 =>
      let r := takeField v 7 0 (codeIn 1 255) (s.host.dpCtl, false)
      let s := modHost s fun h => { h with dpCtl := r.1 }
      let s := if r.2 then hstErr 0 s else s
      if bit v 31 then resyncPort s else s
    | 0x11C => modHost s fun h => { h with irqCause := w1c 0xFF v h.irqCause }
    | 0x120 => modHost s fun h => { h with err := w1c 0xFF v h.err }
    | 0x400 =>
      let r := takeFields v s.wbCfg [(20, 16, codeIn 1 16), (9, 0, codeIn 1 512)]
      { s with wbCfg := r.1, wbStat := if r.2 then setBit s.wbStat 31 else s.wbStat }
    | 0x404 => { s with wbStat := w1c 0x80000000 v s.wbStat }
    | 0xC04 => modSec s fun x => { x with err := w1c 0x1E v x.err }
    | 0xC44 => modSec s fun x => { x with logErr := w1c 0x3F v x.logErr }
    | _ => s

/-- A write of a REL_TWIN_ register, discarded while STATE is not OFF (R299). -/
def writeTwin (put : RelU → RelU × Bool) (s : State) : State :=
  if twinState s != 0 then relErr 0 s
  else
    let r := put s.rel
    let s := { s with rel := r.1 }
    if r.2 then relErr 0 s else s

def writeRel (o : Nat) (v : Word) (s : State) : State :=
  match o with
  | 0x00 => writeRelCfg v s
  | 0x08 => modRel s fun r => { r with err := w1c 0xFFFF v r.err }
  | 0x14 => modRel s fun r => { r with term := w1c 0xFFFF v r.term }
  | 0x18 => writeHistCfg v s
  | 0x20 => writeTwin (fun r =>
      let t := takeFields v r.twinCfg [(31, 31, anyCode), (30, 30, anyCode), (26, 18, codeIn 1 256), (17, 0, anyCode)]
      ({ r with twinCfg := t.1 }, t.2)) s
  | 0x24 => writeTwin (fun r =>
      let t := takeFields v r.twinBase [(9, 0, codeIn 0 767)]
      ({ r with twinBase := t.1 }, t.2)) s
  | 0x28 => writeTwin (fun r => ({ r with twinListLo := setFld v 5 0 0 }, false)) s
  | 0x2C => writeTwin (fun r =>
      let t := takeFields v r.twinListHi [(30, 20, codeIn 0 1024), (7, 0, anyCode)]
      ({ r with twinListHi := t.1 }, t.2)) s
  | _ => s

/-- PWR_CFG: a new LADDER_ORDER puts the steps in force into its order (Table 12-6). -/
def writePwrCfg (v : Word) (s : State) : State :=
  let r := takeFields v s.pwr.cfg [(12, 12, anyCode), (11, 0, codeIn 600 2400)]
  let s := modPwr s fun p => { p with cfg := r.1 }
  let s := applyLadder (ladder s) s
  if r.2 then pwrErr 0 false s else s

def writePwr (o : Nat) (v : Word) (s : State) : State :=
  if 0x100 ≤ o && o < 0x180 then writeRegion ((o - 0x100) / 4) v s
  else match o with
    | 0x004 => writePwrCfg v s
    | 0x008 => requestPoint v s
    | 0x00C =>
      let r := takeField v 6 0 (codeIn 85 110) (s.pwr.therm, false)
      let s := modPwr s fun p => { p with therm := r.1 }
      if r.2 then pwrErr 0 false s else s
    | 0x010 => modPwr s fun p => { p with err := w1c 0xFFF v p.err }
    | 0x01C =>
      let r := takeField v 7 0 (codeIn 10 255) (s.pwr.wdog, false)
      let s := modPwr s fun p => { p with wdog := r.1 }
      let s := if r.2 then pwrErr 0 false s else s
      if bit v 31 then kickWdog s else s
    | 0x200 => issueWatch .ctl v false s
    | 0x204 => issueWatch .stat v false s
    | 0x304 => modPwr s fun p => { p with syncCfg := w32 (fld v 1 0) }
    | _ => s

/-- CAL_MON_COEF[k], discarded during a fit of converter k (Table 13-11). -/
def writeCoef (k : Nat) (v : Word) (s : State) : State :=
  if s.mon.fit.toNat = k + 1 then calErr 0 s
  else modMon s fun m => { m with coef := tset 0x80000000#32 m.coef k v }

def writeMon (o : Nat) (v : Word) (s : State) : State :=
  if 0x200 ≤ o && o < 0x280 then putCtiScale ((o - 0x200) / 4) (fld v 15 0) s
  else match o with
    | 0x000 => modMon s fun m => { m with cfg := v &&& 0x00FF0001#32 }
    | 0x008 => writeChsel v s
    | 0x100 => writeCoef 0 v s
    | 0x104 => writeCoef 1 v s
    | 0x108 => putVref (fld v 16 0) s
    | 0x110 => modMon s fun m => { m with err := w1c 0xFF v m.err }
    | 0x114 => putTraceCfg v s
    | _ => s

def writeDevice (o : Nat) (v : Word) (s : State) : State :=
  if o < 0x0F00 then writeHost o v s
  else if 0x1000 ≤ o && o < 0x2000 then writeRel (o - 0x1000) v s
  else if 0x2000 ≤ o && o < 0x3000 then writePwr (o - 0x2000) v s
  else if 0x3000 ≤ o && o < 0x4000 then writeMon (o - 0x3000) v s
  else s

def writeCluster (c o : Nat) (v : Word) (s : State) : State :=
  if 0x8100 ≤ o && o < 0x9100 then (putCoef c ((o - 0x8100) / 0x40) (o % 0x40 / 4) v s).2
  else if o = 0x8004 then modClus s c fun u => { u with updErr := w1c 0x3FF v u.updErr }
  else s

/-- A word of a tensor entry: the registers of R160, the W1C flags, or a register that no write changes. -/
def writeEntry (k t o : Nat) (v : Word) (s : State) : State :=
  if 0x40 ≤ o && o < 0x60 then
    let j := (o - 0x40) / 2
    writeFmt k t (.thist (j + 1)) (v >>> 16) (writeFmt k t (.thist j) (w32 (fld v 15 0)) s)
  else match o with
    | 0x00 => writeFmt k t .tcfg v s
    | 0x04 => writeFmt k t .tfix v s
    | 0x0C => modEntry s k t fun e => { e with tflag := w1c 0x7F v e.tflag }
    | _ => s

def writeCore (k o : Nat) (v : Word) (s : State) : State :=
  if 0x0100 ≤ o && o < 0x0280 then discardPassq k s
  else if 0x4000 ≤ o && o < 0x8000 then slotWrite k ((o - 0x4000) / 0x1000) (o % 0x1000) v s
  else if 0x8000 ≤ o && o < 0xE000 then writeEntry k ((o - 0x8000) / 0x60) ((o - 0x8000) % 0x60) v s
  else match o with
    | 0x0000 => modCore s k fun u =>
        let r := takeFields v u.engCfg [(19, 16, codeIn 8 15), (0, 0, anyCode)]
        { u with engCfg := r.1, engErr := if r.2 then setBit u.engErr 0 else u.engErr }
    | 0x0008 => modCore s k fun u => { u with engErr := w1c 0x1FB v u.engErr }
    | 0x1004 => modCore s k fun u => { u with vecErr := w1c 0x1E v u.vecErr }
    | 0xE000 => modCore s k fun u => { u with fmtErr := w1c 0x7 v u.fmtErr }
    | _ => s

def writeArr (a o : Nat) (v : Word) (s : State) : State :=
  match o with
  | 0x004 => writeArrCfg a v s
  | 0x008 => writeArrChk a v s
  | 0x00C => modArr s a fun u =>
      let r := takeFields v u.calp [(23, 19, codeIn 16 24), (18, 10, codeIn 1 511), (9, 4, codeIn 4 63), (3, 0, codeIn 4 15)]
      { u with calp := r.1, err := if r.2 then setBit u.err 6 else u.err }
  | 0x014 => modArr s a fun u => { u with err := w1c 0xFF v u.err }
  | 0x024 => modArr s a fun u =>
      let r := takeFields v u.wrcfg [(27, 16, anyCode), (2, 0, codeIn 1 7)]
      { u with wrcfg := r.1, err := if r.2 then setBit u.err 6 else u.err }
  | 0x030 => modArr s a fun u => { u with wrerr := w1c 0x1F v u.wrerr }
  | _ => s

/-- FAB_PORT_CTL: MIN_WIDTH, DISABLE, and RETRAIN, which a disabled port does not follow. A port whose DISABLE is cleared is
down until a RETRAIN (R214, R215). -/
def writePortCtl (p : Nat) (v : Word) (s : State) : State :=
  let was := bit (port s p).ctl 2
  let r := takeField v 1 0 (codeIn 0 2) ((port s p).ctl, false)
  let s := modPort s p fun x => if r.2 then portErr 7 x else { x with ctl := r.1 }
  let s := if bit v 2 && !was then disablePort p s
    else if !bit v 2 && was then modPort s p fun x => setPortState 0 { x with ctl := clrBit x.ctl 2 }
    else s
  if bit v 3 then retrainPort p s else s

def writePort (p o : Nat) (v : Word) (s : State) : State :=
  match o with
  | 0x0000 => writePortCtl p v s
  | 0x0008 => modPort s p fun x => { x with err := w1c 0xFF v x.err }
  | 0x000C => modPort s p fun x =>
      let r := takeField v 6 0 (fun n => n == 0 || codeIn 2 70 n) (x.toll, false)
      if r.2 then portErr 7 x else { x with toll := r.1 }
  | _ => s

def fabErr (i : Nat) (s : State) : State := modFab s fun f => { f with err := setBit f.err i }

/-- RED_CVTAB_, discarded while a caravan is RUNNING (Table 9-8). -/
def writeCvtab (hi : Bool) (v : Word) (s : State) : State :=
  if s.fab.caravans.any fun x => x.state == 1#3 then redErr 0 s
  else modFab s fun f =>
    if hi then { f with cvtabHi := w32 (fld v 7 0) } else { f with cvtabLo := setFld v 15 0 0 }

def writeFab (o : Nat) (v : Word) (s : State) : State :=
  if 0x8040 ≤ o && o < 0x8080 then writePolicy (BitVec.ofNat 4 ((o - 0x8040) / 4)) v s
  else if 0x8100 ≤ o && o < 0x8280 then
    let g := (o - 0x8100) / 0x20 + 1
    match o % 0x20 with
    | 0x00 => writeRing g .cfg v s
    | 0x04 => writeRing g .listLo v s
    | 0x08 => writeRing g .listHi v s
    | _ => s
  else match o with
    | 0x4000 => if anyOpenEpoch s then fabErr 0 s else modFab s fun f => { f with devid := w32 (2 ^ 31 + fld v 17 0) }
    | 0x4004 =>
      let r := takeFields v s.fab.stallCfg [(23, 16, codeIn 1 255), (13, 12, anyCode), (9, 0, codeIn 1 1023)]
      let s := modFab s fun f => { f with stallCfg := r.1 }
      if r.2 then fabErr 0 s else s
    | 0x4008 => modFab s fun f => { f with timeCfg := w32 (fld v 17 0) }
    | 0x400C => modFab s fun f => { f with timeStat := w1c 0xE v f.timeStat }
    | 0x4018 => modFab s fun f => { f with pulse := setFld (w32 (fld v 17 0)) 31 31 (fld v 31 31) }
    | 0x401C => modFab s fun f => { f with err := w1c 0x3F v f.err }
    | 0x8000 => writeCvtab false v s
    | 0x8004 => writeCvtab true v s
    | 0x800C => modFab s fun f => { f with redErr := w1c 0x3FF v f.redErr }
    | _ => s

/-- A write of a word to a register, by its access codes (R11, R12, R14). -/
def writeAt (r : RegAt) (v : Word) (s : State) : State :=
  match r with
  | .device o => writeDevice o v s
  | .cluster c o => writeCluster c o v s
  | .core k o => writeCore k o v s
  | .array a o => writeArr a o v s
  | .port p o =>
    if p = 0 && (codeIn 0x4000 0x7FFF o || codeIn 0x8000 0xBFFF o) then writeFab o v s else writePort p o v s
  | .memory _ => s
  | .reserved => s

def writeRegister (addr : Nat) (v : Word) (s : State) : State := writeAt (regAt addr) v s

/-! ## The MSI-X table (Table 11-4) -/

/-- A word of the MSI-X table of window A. A vector that is unmasked with its bit pending sends its message then, as the
base specification lays down. The row names the table by 0xC0_A000_0F00 plus the offset in it, the place that window A's
own addresses give it. -/
def writeMsix (o : Nat) (v : Word) (s : State) : State :=
  let put (t : Tab Byte) (i : Nat) : Tab Byte :=
    let d : Byte := if (o + i) % 16 = 12 then 1#8 else 0#8
    tset d t (o + i) ((bytesOfWord v).getD i 0#8)
  let s := modHost s fun h => { h with msixTab := (List.range 4).foldl put h.msixTab }
  let n := o / 16
  if bit s.host.msixPba n && !bit (msixByte s.host (16 * n + 12)) 0 then
    { modHost s fun h => { h with msixPba := clrBit h.msixPba n } with out := .msix n :: s.out }
  else s

/-- REGISTER_WRITE: a write that reaches a register from outside. -/
def writeFrom (addr : Nat) (v : Word) (s : State) : State :=
  if 0xC0A0000F00 ≤ addr && addr < 0xC0A0000F80 then writeMsix (addr / 4 * 4 - 0xC0A0000F00) v s
  else writeRegister addr v s

def execRegisterWrite (addr : Addr) (value : Word) (s : State) : Res := .next (writeFrom addr.toNat value s)

/-! ## Reads of window A (R303, Table 11-4) -/

/-- A byte of window A below the data port. -/
def windowAByte (s : State) (off : Nat) : Byte :=
  if off < 0x1000 then tget 0#8 s.host.window off
  else if off < 0x2000 then tget 0#8 s.host.replies (off - 0x1000)
  else if off < 0x2F00 then BitVec.ofNat 8 ((readHost s ((off - 0x2000) / 4 * 4)).toNat / 256 ^ (off % 4))
  else if off < 0x2F80 then msixByte s.host (off - 0x2F00)
  else if off = 0x2F80 then s.host.msixPba
  else 0#8

/-- The registers whose bytes a read covers are read (R11). -/
def windowAEffect (off n : Nat) (s : State) : State :=
  ((List.range 4096).map (0x2000 + ·)).foldl (fun s x =>
    if x % 4 = 0 && x < 0x2F00 && decide (off < x + 4) && decide (x < off + n) then readEffect (.device (x - 0x2000)) s
    else s) s

/-- A read of window A: at most 8 B and naturally aligned, else all-ones with READ_SHAPE. Offsets from 0x3000 are the data
port (R315). -/
def readWindowA (off n : Nat) (s : State) : State :=
  if 0x3000 ≤ off then readPort n s
  else if n = 1 || ((n = 2 || n = 4 || n = 8) && off % n = 0) then
    let bytes := (List.range n).map fun i => windowAByte s (off + i)
    let s := windowAEffect off n s
    { s with out := .readData bytes :: s.out }
  else hstErr 7 { s with out := .readData (List.replicate n 0xFF#8) :: s.out }

def execWindowARead (off : BitVec 14) (n : Nat) (s : State) : Res := .next (readWindowA off.toNat n s)

/-! ## The sideband (R404, R405) -/

/-- A register of Table 15-7 that reads only while awake. -/
def sidebandAwake (s : State) (off : Nat) : Word :=
  match off with
  | 0x00 => s.deviceId
  | 0x04 => s.sec.boot
  | 0x08 => s.pwr.stat
  | 0x0C => s.pwr.err
  | 0x10 => s.pwr.therm
  | 0x14 => s.pwr.dvfs
  | 0x28 => s.rel.twinStat
  | 0x2C => s.sec.logErr
  | 0x30 => s.fab.devid
  | _ => 0xFFFFFFFF#32

/-- The word of a sideband read (Table 15-7): the watch's own registers always, the others while awake. -/
def sidebandWord (s : State) (off : Nat) : Word :=
  match off with
  | 0x18 => s.pwr.resetW
  | 0x1C => s.pwr.watchStat
  | 0x20 => wordOf s.pwr.watchTime 0
  | 0x24 => s.pwr.watchHi
  | 0x40 => s.pwr.sbCtl
  | 0x44 => s.pwr.sbEvent
  | _ => if isAwake s then sidebandAwake s off else 0xFFFFFFFF#32

/-- A sideband read; TIME_LO latches. Nothing answers without VAON. -/
def sidebandReads (off : Nat) (s : State) : State :=
  if !s.pwr.vaon then s
  else
    let w := sidebandWord s off
    let s := if off = 0x20 then latchWatch s else s
    { s with out := .sideband w :: s.out }

def execSidebandRead (off : BitVec 8) (s : State) : Res := .next (sidebandReads off.toNat s)

/-- A sideband write: PWR_SB_CTL and PWR_SB_EVENT take it, any other offset sets WR_DISCARD. An interrupt whose enable or
event bit is cleared is sent no more (R405). -/
def sidebandWrites (off : Nat) (v : Word) (s : State) : State :=
  if !s.pwr.vaon then s
  else
    let s := match off with
      | 0x40 => modPwr s fun p => { p with sbCtl := setFld (w1c 0x80000000 v p.sbCtl) 7 0 (fld v 7 0) }
      | 0x44 => modPwr s fun p => { p with sbEvent := w1c 0xFF v p.sbEvent }
      | _ => modPwr s fun p => { p with sbCtl := setBit p.sbCtl 31 }
    let keep (b : BitVec 3) : Bool := bit s.pwr.sbCtl b.toNat && bit s.pwr.sbEvent b.toNat
    modPwr s fun p => { p with ibiQueue := p.ibiQueue.filter keep, ibiUnacked := p.ibiUnacked.filter keep }

def execSidebandWrite (off : BitVec 8) (value : Word) (s : State) : Res := .next (sidebandWrites off.toNat value s)

/-- SETDASA or ENTDAA gives the target a dynamic address (R404). -/
def execSidebandDynamicAddress (addr : BitVec 7) (s : State) : Res :=
  .next (if s.pwr.vaon then modPwr s fun p => { p with sbAddr := some addr } else s)

/-- An in-band interrupt due is sent; unacknowledged, it is sent again when the bus is next idle (R405). -/
def sendIbi (b : BitVec 3) (acked : Bool) (s : State) : State :=
  if !s.pwr.ibiQueue.contains b then s
  else
    let s := modPwr s fun p => { p with
      ibiQueue := p.ibiQueue.erase b, ibiUnacked := if acked then p.ibiUnacked else insertBit b p.ibiUnacked }
    { s with out := .ibi (BitVec.ofNat 8 (b.toNat + 1)) :: s.out }

/-- The row's event occurs: its bit is set, and its interrupt sent when enabled (R405). -/
def execInBandInterrupt (bit : BitVec 3) (acked : Bool) (s : State) : Res :=
  .next (if s.pwr.vaon then sendIbi bit acked (sidebandEvent bit s) else s)

/-- The lowest unacknowledged interrupt is sent again (R405). -/
def retryIbi (acked : Bool) (s : State) : State :=
  match s.pwr.ibiUnacked with
  | [] => s
  | b :: _ =>
    let s := modPwr s fun p => { p with ibiUnacked := if acked then p.ibiUnacked.drop 1 else p.ibiUnacked }
    { s with out := .ibi (BitVec.ofNat 8 (b.toNat + 1)) :: s.out }

def execIbiRetry (acked : Bool) (s : State) : Res := .next (retryIbi acked s)

end Sys2Proof.Machine
end

