-- ==== Sys2Proof/Machine/Take.lean ====
section
/-! DEFINITION. Command packets (spec/11, R307 to R312): the header, the layout of the parameters, and the checks that a
taken packet passes before it may start (Table 11-7). -/

namespace Sys2Proof.Machine

/-! ## The opcodes (Table 11-9) -/

/-- A row of Table 11-9: the opcode, whether it is marked C, and its LENGTH; TWIN_TAKEOVER's depends on COUNT. -/
structure Opcode where
  code   : Nat
  ctx    : Bool
  length : Nat
  deriving DecidableEq, Repr

def opTable : List Opcode :=
  [⟨0x0001, false, 0⟩, ⟨0x0010, false, 0⟩, ⟨0x0020, false, 0⟩, ⟨0x0030, false, 4⟩, ⟨0x0040, false, 0⟩, ⟨0x0050, false, 4⟩,
   ⟨0x1010, true, 16⟩, ⟨0x1020, true, 12⟩, ⟨0x1030, true, 24⟩, ⟨0x1040, true, 24⟩, ⟨0x1050, false, 12⟩, ⟨0x1060, false, 12⟩,
   ⟨0x1070, false, 28⟩] ++
  [⟨0x2010, true, 4⟩, ⟨0x2020, false, 8⟩, ⟨0x2030, false, 8⟩, ⟨0x2040, false, 8⟩, ⟨0x2050, true, 4⟩, ⟨0x3010, true, 16⟩,
   ⟨0x3020, true, 0⟩, ⟨0x3030, true, 12⟩, ⟨0x3040, true, 0⟩, ⟨0x4010, false, 72⟩, ⟨0x5010, true, 24⟩, ⟨0x5020, false, 0⟩,
   ⟨0x5030, false, 4⟩, ⟨0x6010, true, 0⟩, ⟨0x6020, false, 12⟩, ⟨0x6030, false, 0⟩, ⟨0x6040, false, 4⟩, ⟨0x6050, false, 4⟩] ++
  [⟨0x6060, false, 0⟩, ⟨0x6070, false, 8⟩, ⟨0x7010, false, 4⟩, ⟨0x7020, false, 0⟩, ⟨0x7030, false, 12⟩, ⟨0x7040, false, 12⟩,
   ⟨0x7050, false, 16⟩, ⟨0x8010, false, 32⟩, ⟨0x8020, false, 8⟩, ⟨0x8030, false, 12⟩, ⟨0x8040, false, 0⟩]

def opcodeRow (code : Nat) : Option Opcode := opTable.find? fun r => r.code == code

/-! ## Parameters -/

/-- Parameter word i of a packet, and the 64-bit parameter that begins at word i. -/
def pw (p : Packet) (i : Nat) : Word := p.words.getD i 0#32

def pn (p : Packet) (i : Nat) : Nat := (pw p i).toNat

def pw64 (p : Packet) (i : Nat) : W64 := w64 (pn p i + 2 ^ 32 * pn p (i + 1))

/-- The opcode's LENGTH (check 5). -/
def wantLength (r : Opcode) (p : Packet) : Nat := if r.code = 0x6040 then 4 + 8 * pn p 0 else r.length

/-- A G parameter's bits 63:58, and an L parameter's bits 63:40, are zero (R307). -/
def gOk (g : W64) : Bool := fld g 63 58 == 0

def lOk (a : W64) : Bool := fld a 63 40 == 0

def otherDevice (s : State) (g : W64) : Bool := devOf g != ownId s

/-- A memory range stays in the 1 TiB of a device and clear of the register region (R320). -/
def memRangeOk (g : W64) (n : Nat) : Bool :=
  decide (localOf g + n ≤ 2 ^ 40) && !rangesMeet (localOf g) n 0xC0A0000000 0x10000000

/-- A range of n bytes, at least its first, lies in stack memory (Table 1-4). -/
def inStack (a : W64) (n : Nat) : Bool := lOk a && decide (a.toNat + max 1 n ≤ 0xC000000000)

/-- A register address, 4-aligned, with COUNT words in the register region (Table 11-9). -/
def regRangeOk (a : W64) (count : Nat) : Bool :=
  lOk a && a.toNat % 4 == 0 && decide (0xC0A0000000 ≤ a.toNat) && decide (a.toNat + 4 * count ≤ 0xC0B0000000)

/-- FIRST and COUNT of the array commands. -/
def arraysOk (p : Packet) : Bool := decide (pn p 0 ≤ 4095) && decide (pn p 0 + pn p 1 ≤ 4096)

def residentIn (s : State) (p : Packet) (n : Nat) : Bool := (layerRec s p.hdr.ctx n).isSome

/-- Units of a KIND of UNIT_CLEAR. -/
def unitCount (kind : Nat) : Nat :=
  if kind = 1 then 512 else if kind = 2 || kind = 3 then 4096 else if kind = 4 then 144 else if kind = 5 then 216 else 0

/-- The parameters of the memory and register commands (check 8, R320). -/
def memParamsOk (p : Packet) : Bool :=
  let op := p.opcode.toNat
  if op = 0x1010 then gOk (pw64 p 0) && decide (1 ≤ (pw64 p 2).toNat) && decide ((pw64 p 2).toNat ≤ 2 ^ 40)
    && memRangeOk (pw64 p 0) (pw64 p 2).toNat
  else if op = 0x1020 then gOk (pw64 p 0) && codeIn 1 65536 (pn p 2) && memRangeOk (pw64 p 0) (pn p 2)
  else if op = 0x1030 then gOk (pw64 p 0) && gOk (pw64 p 2) && decide (1 ≤ (pw64 p 4).toNat)
    && decide ((pw64 p 4).toNat ≤ 2 ^ 40) && memRangeOk (pw64 p 0) (pw64 p 4).toNat && memRangeOk (pw64 p 2) (pw64 p 4).toNat
  else if op = 0x1040 then gOk (pw64 p 0) && (pw64 p 2).toNat % 8 == 0 && memRangeOk (pw64 p 0) (pw64 p 2).toNat
  else if op = 0x1050 then codeIn 1 12 (pn p 2) && regRangeOk (pw64 p 0) (pn p 2)
  else if op = 0x1060 then regRangeOk (pw64 p 0) 1
  else
    let kind := fld (pw p 6) 7 4
    lOk (pw64 p 0) && lOk (pw64 p 2) && fld (pw p 6) 31 8 == 0 && codeIn 1 4 kind
      && (if kind = 1 then decide (fld (pw p 6) 3 0 ≤ 7) else fld (pw p 6) 3 0 == 0)

/-- The parameters of the other opcodes (check 8). -/
def otherParamsOk (p : Packet) (s : State) : Bool :=
  let op := p.opcode.toNat
  if op = 0x0030 then codeIn 1 2 (pn p 0)
  else if op = 0x0050 then decide (pn p 0 < 64)
  else if op = 0x2010 then fld (pw p 0) 31 17 == 0 && fld (pw p 0) 15 12 == 0 && residentIn s p (fld (pw p 0) 11 0)
  else if op = 0x2020 || op = 0x2030 || op = 0x2040 then arraysOk p
  else if op = 0x2050 then decide (pn p 0 < 4096) && residentIn s p (pn p 0)
  else if op = 0x3010 then pn p 0 != 0 && pn p 1 == 0
  else if op = 0x3030 then inStack (pw64 p 0) (pn p 2)
  else if op = 0x4010 then decide (pn p 1 < 64)
  else if op = 0x5010 then decide (pn p 0 < 32) && codeIn 1 12 (fld (pw p 0) 3 0) && codeIn 1 4096 (pn p 1)
    && decide (pn p 2 < pn p 1) && pn p 3 == 0 && lOk (pw64 p 4)
  else if op = 0x5030 then decide (pn p 0 < 2 ^ 18)
  else if op = 0x6020 then decide (pn p 1 < unitCount (pn p 0))
    && (if pn p 0 = 3 then decide (pn p 2 ≤ 529) else pn p 2 == 0)
  else if op = 0x6040 then codeIn 1 16 (pn p 0) && (List.range (pn p 0)).all fun i => decide (pn p (1 + 2 * i) < 16)
  else if op = 0x6050 then decide (pn p 0 < 2 ^ 18)
  else if op = 0x6070 then (pn p 0 == 1 && decide (pn p 1 < 512)) || (pn p 0 == 4 && decide (pn p 1 < 144))
  else if op = 0x7010 then codeIn 600 2400 (pn p 0)
  else if op = 0x7030 || op = 0x7040 then inStack (pw64 p 0) (pn p 2)
  else if op = 0x7050 then decide (pn p 0 < 32) && codeIn 1 65536 (pn p 1) && inStack (pw64 p 2) (2 * pn p 1)
  else if op = 0x8020 then codeIn 1 2 (pn p 0) && codeIn 1 (2 ^ 26) (pn p 1) && (pn p 0 == 1 || decide (pn p 1 ≤ 131072))
  else if op = 0x8030 then codeIn 1 65536 (pn p 2)
  else true

/-- Check 8 of Table 11-7. -/
def paramsOk (p : Packet) (s : State) : Bool := if p.opcode.toNat / 4096 = 1 then memParamsOk p else otherParamsOk p s

/-! ## The checks at take (Table 11-7) -/

/-- The addresses of a memory command. -/
def memAddresses (p : Packet) : List W64 :=
  if p.opcode = 0x1030#16 then [pw64 p 0, pw64 p 2] else [pw64 p 0]

/-- Check 6 asks for the context: of a memory command only when an address names another device (R319). -/
def needsCtx (p : Packet) (s : State) : Bool :=
  if p.opcode.toNat / 4096 = 1 then (memAddresses p).any (otherDevice s) else p.opcode != 0x3010#16

/-- Checks 6 and 7, for an opcode marked C. -/
def ctxStatus (p : Packet) (s : State) : Nat :=
  if needsCtx p s && !(ctxU s p.hdr.ctx).live then 0x24
  else if p.opcode != 0x3020#16 && p.opcode != 0x3040#16 && isTerminated s p.hdr.ctx then 0x72
  else 0

/-- The status of the first check that fails, 0 when all eight pass. -/
def takeStatus (p : Packet) (s : State) : Nat :=
  let n := p.length.toNat
  let group := p.opcode.toNat / 4096
  if n % 4 != 0 || decide (4064 < n) then 0x21
  else if !p.resvOk then 0x22
  else match opcodeRow p.opcode.toNat with
    | none => 0x20
    | some r =>
      if !acceptsAll s && group != 0 && group != 8 then 0x11
      else if n != wantLength r p then 0x21
      else
        let c := if r.ctx then ctxStatus p s else 0
        if c != 0 then c else if paramsOk p s then 0 else 0x23

/-! ## Taking a packet (R309 to R312) -/

/-- The 32 header bytes of a packet whose reserved bits are zero (Table 11-5). -/
def headerBytes (op : Nat) (h : Hdr) (length : Nat) : List Byte :=
  leBytes 2 op ++ leBytes 2 h.tag.toNat ++ leBytes 2 length
    ++ [BitVec.ofNat 8 h.ctx.toNat, BitVec.ofNat 8 (2 * h.ordered.toNat + h.irq.toNat)] ++ leBytes 8 h.cookie.toNat
    ++ List.replicate 16 0#8

/-- The last n of a list. -/
def lastN {α : Type} (n : Nat) (l : List α) : List α := l.drop (l.length - n)

/-- READY after a take: 1, or held at 0 while INFLIGHT is 256 (R312). -/
def readyAfterTake (s : State) : State :=
  let room := decide (inflight s < 256)
  modHost s fun h => { h with ready := room, full := !room }

/-- The module takes a packet: its header is kept for the black box, the window reads zero, and the packet waits to start or
is refused (R309, R310, R388). -/
def takePacket (header : List Byte) (p : Packet) (s : State) : State :=
  let p := { p with seq := s.host.nextSeq }
  let s := modSec s fun x => { x with headers := lastN 64 (x.headers ++ [header]) }
  let s := modHost s fun h => { h with nextSeq := h.nextSeq + 1, window := [] }
  let st := takeStatus p s
  readyAfterTake (if st = 0 then modHost s fun h => { h with taken := h.taken ++ [p] } else finish p st [] s)

/-! ## The command window (R308, R309) -/

/-- A byte of the command window. -/
def windowAt (h : HostIf) (i : Nat) : Byte := tget 0#8 h.window i

def windowBytes (h : HostIf) (off n : Nat) : List Byte := (List.range n).map fun i => windowAt h (off + i)

/-- LENGTH as the header in the window holds it. -/
def windowLength (h : HostIf) : Nat := leNat (windowBytes h 4 2)

def lengthOk (n : Nat) : Bool := n % 4 == 0 && decide (n ≤ 4064)

/-- The packet's size L: 32 + LENGTH, or 32 when LENGTH is bad. -/
def packetSize (h : HostIf) : Nat := if lengthOk (windowLength h) then 32 + windowLength h else 32

/-- The packet that the window holds. -/
def windowPacket (h : HostIf) : Packet where
  opcode := BitVec.ofNat 16 (leNat (windowBytes h 0 2))
  hdr := {
    tag := BitVec.ofNat 16 (leNat (windowBytes h 2 2)), ctx := BitVec.ofNat 4 (windowAt h 6).toNat
    ordered := bit (windowAt h 7) 1, irq := bit (windowAt h 7) 0, cookie := w64 (leNat (windowBytes h 8 8)) }
  length := BitVec.ofNat 16 (windowLength h)
  resvOk := fld (windowAt h 6) 7 4 == 0 && fld (windowAt h 7) 7 2 == 0 && (windowBytes h 16 16).all (· == 0#8)
  words := (chunks 4 (windowBytes h 32 (packetSize h - 32))).map wordOfBytes

/-- A write of n bytes at an offset covers byte i. -/
def covers (off n i : Nat) : Bool := decide (off ≤ i) && decide (i < off + n)

/-- A write to the command window: stored while READY is 1, and the packet it completes is taken (R308). -/
def writeWindow (off : Nat) (bytes : List Byte) (s : State) : State :=
  if bytes.isEmpty then s
  else if !s.host.ready then hstErr 1 s
  else
    let bytes := bytes.take (4096 - off)
    let s := modHost s fun h => { h with window := putBytes h.window off bytes }
    if covers off bytes.length (packetSize s.host - 1) then takePacket (windowBytes s.host 0 32) (windowPacket s.host) s
    else s

def execCommandWindowWrite (off : BitVec 12) (bytes : List Byte) (s : State) : Res := .next (writeWindow off.toNat bytes s)

end Sys2Proof.Machine
end

