-- ==== Sys2Proof/Machine/Load.lean ====
section
/-! DEFINITION. The load of a manifest (spec/06, R162 to R168, R175; spec/11, LAUNCH): its layout, the conditions that make it
malformed, and the admission of its launch. -/

namespace Sys2Proof.Machine

/-! ## The manifest (Tables 6-2 to 6-4) -/

/-- The header's 16 words, the layer records, and the program entries with their 8 words each. -/
structure Manifest where
  head : List Word
  recs : List Layer
  prog : List (List Word)
  deriving DecidableEq, Repr

def mw (m : Manifest) (i : Nat) : Word := m.head.getD i 0#32

def mKind (m : Manifest) : Nat := fld (mw m 0) 31 28
def mCtx (m : Manifest) : Nat := fld (mw m 0) 27 24
def mSlot (m : Manifest) : Nat := fld (mw m 0) 23 21
def mFbCap (m : Manifest) : Nat := fld (mw m 0) 20 16
def mLayers (m : Manifest) : Nat := fld (mw m 2) 23 12
def mProg (m : Manifest) : Nat := (mw m 3).toNat
def mClusters (m : Manifest) : Word := mw m 4
def mPerMb (m : Manifest) : Word := mw m 5
def mBase (m : Manifest) : W64 := w64 ((mw m 6).toNat + 2 ^ 32 * fld (mw m 7) 7 0)
def mQuota (m : Manifest) : Word := mw m 8

/-- The SEAL fields. -/
def mSeal (m : Manifest) : SealHdr where
  timeout := mw m 9
  recBase := w64 ((mw m 10).toNat + 2 ^ 32 * fld (mw m 11) 7 0)
  slots := BitVec.ofNat 16 (fld (mw m 12) 31 16)
  stride := BitVec.ofNat 16 (fld (mw m 12) 15 0)
  margin := BitVec.ofNat 4 (fld (mw m 13) 13 10)
  children := BitVec.ofNat 10 (fld (mw m 13) 9 0)
  parent := BitVec.ofNat 18 (mw m 14).toNat
  root := BitVec.ofNat 18 (mw m 15).toNat

def wordsOf (data : List Byte) : List Word := (chunks 4 data).map wordOfBytes

/-- The manifest in the bytes read; its sizes are those of the header. -/
def readManifest (data : List Byte) : Manifest :=
  let ws := wordsOf data
  let h := ws.take 16
  let nl := fld (h.getD 2 0#32) 23 12
  let np := (h.getD 3 0#32).toNat
  let rest := ws.drop 16
  ⟨h, (chunks 32 (rest.take (32 * nl))).map fun w => ⟨w, LayerSt.fresh⟩, chunks 8 ((rest.drop (32 * nl)).take (8 * np))⟩

/-- Words of a program entry (Table 6-4). -/
def ew (e : List Word) (i : Nat) : Word := e.getD i 0#32

def ePhase (e : List Word) : Nat := fld (ew e 0) 15 12
def eLayer (e : List Word) : Nat := fld (ew e 0) 11 0
def eCount (e : List Word) : Nat := fld (ew e 1) 15 0
def eIn (e : List Word) : Nat := (ew e 2).toNat + 2 ^ 32 * fld (ew e 3) 7 0
def eOut (e : List Word) : Nat := (ew e 4).toNat + 2 ^ 32 * (ew e 5).toNat

def entryOfWords (e : List Word) : Prog where
  phase := BitVec.ofNat 4 (ePhase e)
  layer := BitVec.ofNat 12 (eLayer e)
  mbFirst := BitVec.ofNat 16 (fld (ew e 0) 31 16)
  mbCount := BitVec.ofNat 16 (eCount e)
  tIn := BitVec.ofNat 8 (fld (ew e 1) 23 16)
  tOut := BitVec.ofNat 8 (fld (ew e 1) 31 24)
  inAddr := w64 (eIn e)
  outAddr := w64 (eOut e)
  tally := BitVec.ofNat 14 (ew e 6).toNat
  length := ew e 7

/-! ## Malformed manifests (R164, R167, R168, R175, R194) -/

/-- The header carries a reserved code or bit, or a size that its KIND does not allow (Table 6-2). -/
def headBad (m : Manifest) : Bool :=
  let k := mKind m
  let reserved := fld (mw m 2) 31 24 != 0 || fld (mw m 2) 11 0 != 0 || fld (mw m 7) 31 8 != 0 || fld (mw m 11) 31 8 != 0
    || fld (mw m 13) 31 14 != 0 || fld (mw m 14) 31 18 != 0 || fld (mw m 15) 31 18 != 0
  k = 0 || decide (5 < k) || decide (16 < mFbCap m) || reserved
    || (k != 3 && (mLayers m = 0 || mProg m = 0)) || decide (65536 < mProg m)
    || (k != 1 && mPerMb m != 0#32)

/-- The SEAL fields of a SEAL manifest (Table 6-2). -/
def sealBad (s : State) (m : Manifest) : Bool :=
  let h := mSeal m
  mKind m == 3 && (h.timeout == 0#32 || h.slots == 0#16 || decide (256 < h.slots.toNat) || h.stride == 0#16 || h.margin == 0#4
    || (h.parent == ownId s) != (h.root == ownId s))

/-- The stash of a TRAIN manifest: a quota that holds no micro-batch, other values than its slot's, or a range that meets
another slot's (R167, R175). -/
def stashBad (s : State) (c : BitVec 4) (m : Manifest) : Bool :=
  let mine := (mBase m, mQuota m, mPerMb m)
  mKind m == 1 && (decide ((mQuota m).toNat * 1024 < (mPerMb m).toNat)
    || (ctxU s c).slots.any fun e =>
      if e.1 = mSlot m then e.2 != mine
      else rangesMeet e.2.1.toNat (e.2.2.1.toNat * 2 ^ 20) (mBase m).toNat ((mQuota m).toNat * 2 ^ 20))

/-- Reserved codes and bits of a layer record (Table 6-3). -/
def recordReserved (l : Layer) : Bool :=
  lNum l = 0xFFF || lWidth l = 0 || decide (8 < lWidth l) || lDWidth l = 0 || decide (8 < lDWidth l)
    || decide (64 < lRank l) || lSpan l = 3 || decide (5 < lRange l) || lWexp l = 255 || decide (lThresh l < 8)
    || fld (lw l 1) 17 12 != 0 || fld (lw l 2) 31 12 != 0 || fld (lw l 3) 31 13 != 0
    || lCount l = 0 || decide (4096 < lCount l)
    || ([7, 9, 11, 13, 15, 17, 19, 21, 23, 25, 27].any fun i => fld (lw l i) 31 8 != 0)
    || ([28, 29, 30, 31].any fun i => lw l i != 0#32)

/-- A required address is none (R167). -/
def addressMissing (l : Layer) : Bool :=
  (lRank l != 0 && (lU l == noAddr || lV l == noAddr))
    || (lPolicy l && (lFwd l == noAddr || lT l == noAddr)) || (lTrained l && lStaging l == noAddr)

/-- The tiling breaks R165. -/
def tilingBad (l : Layer) : Bool :=
  let t := lTin l
  lCount l != t * lTout l || decide (4096 < lFirst l + lCount l)
    || (if t ≤ 8 then t = 0 || 8 % t != 0 || lFirst l % t != 0 else t % 8 != 0 || lFirst l % 8 != 0)

/-- The array ranges of two layers meet. -/
def arraysMeet (a b : Layer) : Bool := rangesMeet (lFirst a) (lCount a) (lFirst b) (lCount b)

/-- A record differs from the resident record of its LAYER, or is not resident and meets the arrays of another layer, of
any context or of the manifest (R166, R167). -/
def recordClash (s : State) (c : BitVec 4) (m : Manifest) (l : Layer) : Bool :=
  let twice := m.recs.any fun x => lNum x == lNum l && x.words != l.words
  match layerRec s c (lNum l) with
  | some old => twice || old.words != l.words
  | none => twice || ((residents s).any fun e => arraysMeet e.2 l)
      || m.recs.any fun x => lNum x != lNum l && arraysMeet x l

/-- A layer that the manifest or its context knows by number. -/
def knownLayer (s : State) (c : BitVec 4) (m : Manifest) (n : Nat) : Option Layer :=
  (m.recs.find? fun l => lNum l == n).or (layerRec s c n)

/-- Kinds of manifest in which a phase may stand (Table 6-5): TRAIN 1, UPDATE 2, SEAL 3, INTERVAL 4, AUX 5. -/
def phaseKinds (ph : Nat) : List Nat :=
  if ph = 1 then [1, 4] else if ph = 2 || ph = 3 then [1] else if ph = 4 then [2] else if ph = 6 then [1, 5]
  else if ph = 5 || ph = 7 || ph = 10 then [1, 4, 5] else if ph = 8 || ph = 9 then [1, 2, 4, 5] else []

/-- The layer of a phase that names one is not known, or has arrays in a cluster that CLUSTERS does not name (R167). -/
def entryLayerBad (s : State) (c : BitVec 4) (m : Manifest) (e : List Word) : Bool :=
  match knownLayer s c m (eLayer e) with
  | none => true
  | some l => (lArrays l).any fun a => !bit (mClusters m) (clusterOfArray a)

/-- A PUT with no micro-batch, a LENGTH out of range, or a source that overruns its region (R168). -/
def putBad (s : State) (e : List Word) : Bool :=
  let n := (ew e 7).toNat
  eCount e = 0 || n = 0 || decide (2 ^ 26 < n) || fld (ew e 5) 31 26 != 0 || overruns s (eIn e) (eCount e * n)

/-- A program entry is malformed (R167, R168, R194, Tables 6-4, 6-5). -/
def entryBad (s : State) (c : BitVec 4) (m : Manifest) (e : List Word) : Bool :=
  let ph := ePhase e
  !(phaseKinds ph).contains (mKind m) || fld (ew e 3) 31 8 != 0 || fld (ew e 6) 31 14 != 0
    || (1 ≤ ph && ph ≤ 6 && entryLayerBad s c m e)
    || (ph = 4 && (eOut e != 0 || fld (ew e 0) 31 16 != 0 || ew e 1 != 0#32))
    || (if ph = 10 then putBad s e else ew e 7 != 0#32 || fld (ew e 5) 31 8 != 0)

/-- Descriptor i of a PASSES list, as the load reads it. -/
def loadDesc (s : State) (e : List Word) (i : Nat) : Queued :=
  ⟨0, (List.range 12).map fun w => readWord s (eIn e + 48 * i + 4 * w), false⟩

/-- The write ranges that the manifest fixes for an entry (R167). -/
def entryWrites (s : State) (c : BitVec 4) (m : Manifest) (e : List Word) : List (Nat × Nat) :=
  let ph := ePhase e
  let bs (l : Layer) : Nat := zqBlockBytes (lDWidth l)
  let nb (n : Nat) : Nat := (n + 31) / 32
  if ph = 1 || ph = 2 then [(eOut e, 1)]
  else if ph = 10 then (if devOf (w64 (eOut e)) = ownId s then [(localOf (w64 (eOut e)), 1)] else [])
  else if ph = 7 then (List.range (eCount e)).map fun i => (dDest (loadDesc s e i), outBytes (loadDesc s e i))
  else match knownLayer s c m (eLayer e) with
    | none => []
    | some l => if ph = 5 then [(lFwd l, lOut l * nb (lIn l) * bs l)]
      else if ph = 6 then [(lT l, lIn l * nb (lOut l) * bs l)] else []

/-- An entry writes into STATE, SHADOW, U or V of a resident layer, or of one that the manifest makes resident (R167). -/
def writesGuarded (s : State) (c : BitVec 4) (m : Manifest) (e : List Word) : Bool :=
  (entryWrites s c m e).any fun w => guarded s w.1 w.2
    || m.recs.any fun l => (guardedRanges l).any fun g => g.1 != noAddr && rangesMeet w.1 w.2 g.1 g.2

/-- The manifest is refused as malformed. -/
def malformed (s : State) (c : BitVec 4) (m : Manifest) : Bool :=
  headBad m || sealBad s m || stashBad s c m
    || (m.recs.any fun l => recordReserved l || addressMissing l || tilingBad l || recordClash s c m l)
    || (m.prog.any fun e => entryBad s c m e || writesGuarded s c m e)

/-- Two layers, of the manifest or resident in the context, have STATE ranges that overlap (R7, R167). -/
def tied (s : State) (c : BitVec 4) (m : Manifest) : Bool :=
  let all := (ctxU s c).layers.map (·.2) ++ m.recs
  all.any fun a => all.any fun b => lNum a != lNum b && lState a != noAddr && lState b != noAddr
    && rangesMeet (lState a) (lStateLen a) (lState b) (lStateLen b)

/-! ## Admission (R84, R163, R292) -/

/-- Layers that the launch names: its records and the layers of its program. -/
def namedLayers (s : State) (c : BitVec 4) (m : Manifest) : List Layer :=
  m.recs ++ (m.prog.filter fun e => decide (1 ≤ ePhase e) && decide (ePhase e ≤ 6)).filterMap fun e =>
    knownLayer s c m (eLayer e)

/-- A cluster that the launch names is fenced or dark, or an array is fenced whose layer has no forward image (R292). -/
def fencedRefusal (s : State) (c : BitVec 4) (m : Manifest) : Bool :=
  ((List.range 32).any fun k => bit (mClusters m) k && clusterOut s k)
    || (namedLayers s c m).any fun l => (lArrays l).any fun a =>
      clusterOut s (clusterOfArray a) || (lFwd l == noAddr && arrFenced s a)

/-- A FORWARD entry's layer has an array in service with IMAGE_VALID = 0 (R84). -/
def notWritten (s : State) (c : BitVec 4) (m : Manifest) : Bool :=
  m.prog.any fun e => ePhase e == 1 && match knownLayer s c m (eLayer e) with
    | some l => (lArrays l).any fun a => !arrFenced s a && !bit (arr s a).wrstat 0
    | none => false

/-- The first manifest after a context is created sets COMMITTED (R162). -/
def beginEpochs (c : BitVec 4) (m : Manifest) (s : State) : State :=
  if (ctxU s c).begun then s else modCtx s c fun x => { x with begun := true, epoch := mw m 1 - 1 }

/-- The epoch is not one that Table 6-1 admits or holds. An INTERVAL launch that comes after the first launch of the open epoch can
no longer run before it (R186), and the model refuses it as stale (DESIGN CHOICE, log entry 25). -/
def epochStale (s : State) (c : BitVec 4) (m : Manifest) : Bool :=
  let x := ctxU s c
  if mKind m = 4 then mw m 1 != x.epoch || epochBegun s c else mw m 1 != openEpoch x && mw m 1 != openEpoch x + 1

/-- The launch that a manifest makes. -/
def launchOf (s : State) (c : BitVec 4) (m : Manifest) (uid : Nat) : LaunchS where
  uid := uid
  ctx := c
  number := BitVec.ofNat 16 (fld (mw m 0) 15 0)
  epoch := mw m 1
  kind := BitVec.ofNat 4 (mKind m)
  slot := BitVec.ofNat 3 (mSlot m)
  fbCap := if mFbCap m = 0 then 16 else mFbCap m
  clusters := mClusters m
  layers := ((namedLayers s c m).map fun l => BitVec.ofNat 12 (lNum l)).dedup
  recs := m.recs
  prog := m.prog.map entryOfWords
  pc := 0
  mb := 0
  state := .held
  recalls := 0
  awaits := []
  signals := []
  waits := []
  told := []
  sealHdr := if mKind m = 3 then some (mSeal m) else none
  asked := false
  tableSlot := none
  gather := []
  due := 0
  update := none
  updated := []
  verify := []
  groups := []
  readCv := []
  status := 0#16
  pending := []
  placed := 0

/-- The launch is in: its slot takes the stash values, and it is admitted or held (R163, R175, R186). -/
def enterLaunch (p : Packet) (m : Manifest) (s : State) : State :=
  let c := p.hdr.ctx
  let uid := s.nextUid
  let held := (mKind m != 4 && (mw m 1 == openEpoch (ctxU s c) + 1 || intervalRuns s c))
  let s := if mKind m = 1 then
      modCtx s c fun x => { x with slots := tset noSlot x.slots (mSlot m) (mBase m, mQuota m, mPerMb m) }
    else s
  let s := { s with nextUid := uid + 1, launches := s.launches ++ [launchOf s c m uid] }
  let s := modHost s fun h => { h with running := h.running ++ [⟨p, .launch uid⟩] }
  if held then s else admitLaunch uid s

/-- The descriptor lists of PASSES entries are read: the refusal that one gives, 0 when all are readable (R167). -/
def readLists : List (List Word) → State → Nat × State
  | [], s => (0, s)
  | e :: rest, s =>
    if ePhase e != 7 then readLists rest s
    else
      let r := localRead s false (eIn e) (48 * eCount e)
      let s := noteRead r s
      if r.resp != 0 then (respStatus r.resp, s) else if r.poison then (0x71, s) else readLists rest s

/-- BYTES and CONTEXT of the command agree with the manifest's header (Table 11-9). -/
def sizesAgree (p : Packet) (data : List Byte) (m : Manifest) : Bool :=
  decide (64 ≤ data.length) && data.length == 64 + 128 * mLayers m + 32 * mProg m && mCtx m == p.hdr.ctx.toNat

/-- LAUNCH: the manifest is read and checked, and its launch is admitted, held or refused (R163 to R168, Table 11-9). -/
def performLaunch (p : Packet) (s : State) : State :=
  let c := p.hdr.ctx
  let r := localRead s false (pw64 p 0).toNat (pn p 2)
  let s := noteRead r s
  let m := readManifest r.data
  if r.resp != 0 then finish p (respStatus r.resp) [] s
  else if r.poison then finish p 0x71 [] s
  else if !sizesAgree p r.data m then finish p 0x30 [] s
  else
    let (st, s) := readLists m.prog s
    if st != 0 then finish p st [] s
    else if malformed s c m then finish p 0x30 [] s
    else if tied s c m then finish p 0x31 [] s
    else
      let s := beginEpochs c m s
      if epochStale s c m then finish p 0x32 [] s
      else if fencedRefusal s c m then finish p 0x60 [] s
      else if notWritten s c m then finish p 0x33 [] s
      else enterLaunch p m s

end Sys2Proof.Machine
end

