-- ==== Sys2Proof/Machine/Commands.lean ====
section
/-! DEFINITION. What each opcode does once its command starts (spec/11, Table 11-9): one operation per opcode, named
perform<Opcode>. A command that must wait is put among the running commands with what it waits for. -/

namespace Sys2Proof.Machine

/-- A started command that goes on. -/
def addRun (p : Packet) (t : Task) (s : State) : State :=
  modHost s fun h => { h with running := h.running ++ [⟨p, t⟩] }

/-- Some context exists. -/
def anyCtx (s : State) : Bool := s.ctxs.any fun e => e.2.live

/-! ## Group 0x0 -/

def performNop (p : Packet) (s : State) : State := finish p 0 [] s

def performDevInfo (p : Packet) (s : State) : State :=
  finish p 0 ([s.deviceId, s.fab.devid, shownTopology s, s.avail] ++ words64 Config.serialNumber.toNat) s

/-- Bit c: context c exists. -/
def liveMask (s : State) : Nat := (List.range 16).foldl (fun n c => if (ctxU s (BitVec.ofNat 4 c)).live then n + 2 ^ c else n) 0

def performDevStatus (p : Packet) (s : State) : State :=
  finish p 0 [w32 ((isReady s).toNat + 16 * bootPhase s), s.host.linkStat, w32 (liveMask s), s.rel.term] s

/-- DEV_RESET: the reply is posted, then the reset of its kind and cause begins (R345). -/
def performDevReset (p : Packet) (s : State) : State :=
  let s := finish p 0 [] s
  if pn p 0 = 1 then requestReset 1#4 1#2 s else requestReset 2#4 2#2 s

/-- DEV_SLEEP and DEV_SHUTDOWN are answered BUSY in start-up phases 0x2 to 0x7 (R373). -/
def startingUp (s : State) : Bool := decide (2 ≤ bootPhase s) && decide (bootPhase s ≤ 7)

/-- The wear records of every cluster go to the logbook, and a SHUTDOWN record follows (R92, Table 14-8). -/
def flushRecords (s : State) : State := logAdd 0x0C#8 [] ((List.range 32).foldl (fun s c => copyWear c s) s)

def performDevShutdown (p : Packet) (s : State) : State :=
  if startingUp s then finish p 0x10 [] s
  else if anyCtx s then finish p 0x25 [] s
  else finish p 0 [] (modHost (flushRecords s) fun h => { h with shutdown := true })

/-- DEV_SLEEP: the wake bits are written, the records saved, and sleep waits for the reply and the watch writes (R342). -/
def performDevSleep (p : Packet) (s : State) : State :=
  if startingUp s then finish p 0x10 [] s
  else if anyCtx s then finish p 0x25 [] s
  else
    let s := flushRecords (issueWatch .ctl (pw p 0) false s)
    finish p 0 [] (modPwr s fun w => { w with sleepDue := true })

/-! ## Group 0x1 (R320) -/

def performMemWrite (p : Packet) (s : State) : State := addRun p (.memWrite (pw64 p 0) (pw64 p 2).toNat 0 [] []) s

def performMemRead (p : Packet) (s : State) : State := pumpOut (addRun p (.memRead (pw64 p 0) (pn p 2) [] false none) s)

def performMemCopy (p : Packet) (s : State) : State :=
  let n := (pw64 p 4).toNat
  let t := Task.memCopy (pw64 p 0) (pw64 p 2) n 0 none
  settle ⟨p, t⟩ (copyRun p.hdr.ctx (copyFuel n) (pw64 p 0) (pw64 p 2) n 0 none (addRun p t s))

def performMemFill (p : Packet) (s : State) : State :=
  let n := (pw64 p 2).toNat
  let t := Task.memFill (pw64 p 0) n 0 (pw64 p 4) none
  settle ⟨p, t⟩ (fillRun p.hdr.ctx (pw64 p 4) (copyFuel n) (pw64 p 0) n 0 (addRun p t s))

/-- Consecutive register words, each with its side effects. -/
def readWords : Nat → Nat → State → List Word × State
  | 0, _, s => ([], s)
  | n + 1, a, s =>
    let (w, s) := readRegister a s
    let (ws, s) := readWords n (a + 4) s
    (w :: ws, s)

/-- REG_READ; the command itself counts in INFLIGHT while it reads. -/
def performRegRead (p : Packet) (s : State) : State :=
  let (ws, s) := readWords (pn p 2) (pw64 p 0).toNat (modHost s fun h => { h with taken := p :: h.taken })
  finish p 0 ws (modHost s fun h => { h with taken := h.taken.drop 1 })

/-- The watch register at an address that REG_WRITE waits for (R30). -/
def watchAt (a : Nat) : Option WatchReg :=
  if a = 0xC0A0002200 then some .ctl else if a = 0xC0A0002204 then some .stat else none

def performRegWrite (p : Packet) (s : State) : State :=
  match watchAt (pw64 p 0).toNat with
  | some r => addRun p (.watch r) (issueWatch r (pw p 2) true s)
  | none => finish p 0 [] (writeRegister (pw64 p 0).toNat (pw p 2) s)

/-- Bytes of a whole check group (R130): 32 blocks of ZQn, or 1,024 elements. -/
def sealGroupBytes (what : Word) : Nat :=
  let kind := fld what 7 4
  if kind = 1 then 32 * zqBlockBytes (fld what 3 0 + 1) else if kind = 2 then 2048 else if kind = 3 then 4096 else 1024

/-- Groups of the rows, in order: address and bytes. A row ends its last group early (R130). -/
def sealGroups (base rows rowBytes group : Nat) : List (Nat × Nat) :=
  (List.range rows).flatMap fun r => (List.range ((rowBytes + group - 1) / group)).map fun g =>
    (base + r * rowBytes + g * group, min group (rowBytes - g * group))

/-- The entries of the groups, in order, until an access is refused: the status and the groups written. -/
def sealEntriesOf (plane : Nat) : Nat → List (Nat × Nat) → State → Nat × Nat × State
  | done, [], s => (0, done, s)
  | done, g :: rest, s =>
    let r := localRead s false g.1 g.2
    if r.resp != 0 then (respStatus r.resp, done, s)
    else
      let (resp, s) := localWrite (noteRead r s) false (plane + 8 * done) (bytesOfWord (crc32c r.data) ++ leBytes 4 0) false
      if resp != 0 then (respStatus resp, done, s) else sealEntriesOf plane (done + 1) rest s

/-- The check plane that CHECK_SEAL declares takes the place of those whose data it meets (log entry 48). -/
def declarePlane (x : Plane) (s : State) : State :=
  { s with planes := (s.planes.filter fun y => y.data + y.bytes ≤ x.data || x.data + x.bytes ≤ y.data) ++ [x] }

/-- CHECK_SEAL: an entry for every group of the tensor (R130, R272), whose plane is known from then on (R273, R274). -/
def performCheckSeal (p : Packet) (s : State) : State :=
  let x : Plane := ⟨(pw64 p 0).toNat, (pw64 p 2).toNat, pn p 4, pn p 5, sealGroupBytes (pw p 6)⟩
  let (st, n, s) := sealEntriesOf x.plane 0 (sealGroups x.data x.rows x.rowBytes x.group) s
  finish p st [w32 n] (if st = 0 then declarePlane x s else s)

/-! ## Group 0x2 -/

/-- ARRAY_WRITE asks for a rewrite of an array (R90): a full one stays full when a difference write joins it. A grant that the
array already holds, its write not begun, serves the command. -/
def askWrite (full : Bool) (u : ArrU) : ArrU :=
  { u with
    byCommand := some (full || u.byCommand == some true)
    request := if u.granted && u.write.isNone then none
      else some (u.request.getD ⟨none, BitVec.ofNat 12 (fld u.wrcfg 27 16)⟩) }

/-- ARRAY_WRITE (R90): the layer's arrays in service ask for a rewrite, and the command waits for them. -/
def performArrayWrite (p : Packet) (s : State) : State :=
  match layerRec s p.hdr.ctx (fld (pw p 0) 11 0) with
  | none => finish p 0x23 [] s
  | some l =>
    let live := (lArrays l).filter fun a => !arrFenced s a
    let fenced := lCount l - live.length
    if live.isEmpty then finish p 0x60 [0#32, 0#32, w32 fenced] s
    else live.foldl (fun s a => modArr s a (askWrite (!bit (pw p 0) 16))) (addRun p (.arrayWrite live 0 0 fenced 0) s)

/-- Arrays FIRST to FIRST + COUNT − 1. -/
def rangeArrays (p : Packet) : List Nat := (List.range (pn p 1)).map (pn p 0 + ·)

/-- The arrays in service are asked for a calibration or refresh, and the command waits for them (Table 2-9). -/
def careFor (p : Packet) (ask : Nat → State → State) (s : State) : State :=
  let live := (rangeArrays p).filter fun a => !arrFenced s a
  let fenced := pn p 1 - live.length
  if live.isEmpty then finish p (if fenced = 0 then 0 else 0x60) [0#32, w32 fenced, 0#32] s
  else live.foldl (fun s a => ask a s) (addRun p (.arrayCal live 0 fenced 0) s)

def performArrayCalibrate (p : Packet) (s : State) : State := careFor p commandCal s

def performArrayRefresh (p : Packet) (s : State) : State := careFor p commandRefresh s

/-- ARRAY_FENCE: the arrays not yet fenced are fenced and counted (Table 11-9, R292). -/
def performArrayFence (p : Packet) (s : State) : State :=
  let todo := (rangeArrays p).filter fun a => !bit (arr s a).state 17
  finish p 0 [w32 todo.length] (todo.foldl (fun s a => fenceArray a s) s)

/-- A launch in flight names the layer. -/
def layerInUse (s : State) (c : BitVec 4) (n : Nat) : Bool :=
  s.launches.any fun l => l.ctx == c && inFlight l && l.layers.contains (BitVec.ofNat 12 n)

def performLayerRemove (p : Packet) (s : State) : State :=
  match layerRec s p.hdr.ctx (pn p 0) with
  | none => finish p 0x23 [] s
  | some l =>
    if layerInUse s p.hdr.ctx (pn p 0) || layerWriting s l then finish p 0x25 [] s
    else finish p 0 [] (removeLayer p.hdr.ctx (pn p 0) s)

/-! ## Group 0x3 -/

/-- CTX_CREATE: the context exists with its job id and milestone count; its epoch waits for the first manifest (R162, R244). -/
def performCtxCreate (p : Packet) (s : State) : State :=
  if (ctxU s p.hdr.ctx).live then finish p 0x24 [] s
  else finish p 0 [] (modCtx s p.hdr.ctx fun x => { x with live := true, begun := false, job := pw p 0, milestone := pw64 p 2 })

/-- CTX_DESTROY: launches end ABANDONED, caravans enter FAULT, and records are removed as their arrays leave WRITING. -/
def performCtxDestroy (p : Packet) (s : State) : State :=
  let c := p.hdr.ctx
  let mine := (ctxLaunches s c).filter inFlight
  let s := mine.foldl (fun s l => stopLaunch l.uid 0x70 s) s
  let s := { s with launches := s.launches.filter fun l => l.ctx != c }
  let s := (s.fab.caravans.filter fun v => v.ctx == c && v.state != 3#3).foldl (fun s v => cvFault v s) s
  let layers := (ctxU s c).layers.map fun l => BitVec.ofNat 12 l.1
  let t := Task.ctxDestroy layers mine.length
  sweepOne ⟨p, t⟩ c layers mine.length (addRun p t s)

def performCtxStatus (p : Packet) (s : State) : State :=
  let x := ctxU s p.hdr.ctx
  let n := ((ctxLaunches s p.hdr.ctx).filter inFlight).length
  finish p 0 ([x.epoch, x.sealW, w32 n, w32 x.dead.toNat] ++ words64 x.milestone.toNat) s

/-! ## Groups 0x4 and 0x5 -/

/-- A row written in one cluster: the mask of discarded fields. -/
def putRow (c row : Nat) (data : List Word) (s : State) : Nat × State :=
  let r := (List.range 16).foldl (fun (r : Nat × State) f =>
    let (bad, s) := putCoef c row f (data.getD f 0#32) r.2
    (if bad then r.1 + 2 ^ f else r.1, s)) (0, s)
  (r.1, takeCoefSum c row r.2)

/-- COEF_WRITE (R210): the row in every named cluster in service. -/
def performCoefWrite (p : Packet) (s : State) : State :=
  let row := pn p 1
  let named := (List.range 32).filter fun c => bit (pw p 0) c
  let live := named.filter fun c => !clusterOut s c
  let r := live.foldl (fun (r : Nat × State) c =>
    let (m, s) := putRow c row (p.words.drop 2) r.2
    (r.1 ||| m, s)) (0, s)
  let sum := match live with
    | c :: _ => tget 0#32 (clus r.2 c).coefSum row
    | [] => 0#32
  let skipped := named.length - live.length
  finish p (if r.1 = 0 && skipped = 0 then 0 else 1) [sum, w32 r.1, w32 skipped] r.2

/-- RING_SET: RED_RING_CFG and the list address together, unless a caravan of the ring is RUNNING (R252). -/
def performRingSet (p : Packet) (s : State) : State :=
  let g := fld (pw p 0) 3 0
  if ringRuns s g then finish p 0x10 [] s
  else
    let w := w32 (p.hdr.ctx.toNat * 2 ^ 28 + (bit (pw p 0) 4).toNat * 2 ^ 27 + pn p 1 * 2 ^ 13 + pn p 2)
    finish p 0 [] (modFab s fun f => { f with
      ringCfg := tset 0#32 f.ringCfg g w, ringLo := tset 0#32 f.ringLo g (setFld (pw p 4) 1 0 0)
      ringHi := tset 0#32 f.ringHi g (w32 (fld (pw p 5) 7 0)) })

def performLinkStatus (p : Packet) (s : State) : State := finish p 0 (linkWords s ++ [s.host.linkStat]) s

/-- PORT_RETRAIN: the named ports train, and the command waits until each is up or down (R214). -/
def performPortRetrain (p : Packet) (s : State) : State :=
  let s := ((List.range 18).filter fun q => bit (pw p 0) q).foldl (fun s q => retrainPort q s) s
  let busy := (List.range 18).filter fun q => bit (pw p 0) q && fld (port s q).stat 1 0 == 1
  if busy.isEmpty then finish p 0 (linkWords s) s else addRun p (.retrain busy) s

/-! ## Group 0x6 -/

/-- What a launch of an abandoned epoch did goes, without replay and without RECALLs (R286). -/
def abandonLaunch (uid : Nat) (s : State) : State :=
  let s := stopLaunch uid 0x70 s
  { s with launches := s.launches.filter fun l => l.uid != uid }

/-- What an abandoned epoch leaves of a layer's state: the outcome of the last commit, its apply, and the images (R286). -/
def abandonedLayer (st : LayerSt) : LayerSt :=
  { LayerSt.fresh with outcome := st.outcome, applying := st.applying, fwdEpoch := st.fwdEpoch, tEpoch := st.tEpoch }

/-- EPOCH_ABANDON: every uncommitted effect of the open epoch goes; COMMITTED stays (R286). -/
def performEpochAbandon (p : Packet) (s : State) : State :=
  let c := p.hdr.ctx
  if sealState (ctxU s c) = 0 then finish p 0x25 [] s
  else
    let k := openEpoch (ctxU s c)
    let mine := (ctxLaunches s c).filter fun l => l.kind != 4#4 && l.epoch == k
    let ended := (mine.filter inFlight).length
    let s := mine.foldl (fun s l => abandonLaunch l.uid s) s
    let s := unstage c (((ctxU s c).layers.filter fun l => !l.2.st.applying).map fun l => BitVec.ofNat 12 l.1) s
    let gone (v : BitVec 4) (e : Word) : Bool := v == c && e == k
    let s := modFab s fun f => { f with
      caravans := f.caravans.filter fun v => !gone v.ctx v.epoch
      waiting := f.waiting.filter fun q => !gone q.pkt.ctx q.pkt.epoch
      blocked := f.blocked.filter fun q => !gone q.2.ctx q.2.epoch }
    let s := modCtx s c fun x => { x with layers := x.layers.map fun e => (e.1, { e.2 with st := abandonedLayer e.2.st }) }
    let s := modRel s fun r => { r with
      landPos := tset 0 r.landPos c.toNat 0, mirrorHeld := r.mirrorHeld.filter fun m => m.ctx != c }
    let s := modSeal s c fun x => { SealS.reset with lastGo := x.lastGo, stampNo := x.stampNo }
    let st := sealState (ctxU s c)
    let s := if st = 2 || st = 5 then setSealState c 1 s else s
    finish p 0 [w32 ended] s

/-- The history of a unit is cleared (R291). -/
def clearHistory (kind : BitVec 4) (unit : Nat) (s : State) : State :=
  let mine (k : BitVec 4) (u : Nat) : Bool := u == unit && (k == kind || (kind == 2#4 && k == 6#4))
  let was := isPermanent s kind unit
  let s := modSec s fun x => { x with
    events := x.events.filter fun e => !mine e.1 e.2.1, permanent := x.permanent.filter fun e => !mine e.1 e.2 }
  if was then logAdd 0x07#8 (BitVec.ofNat 8 kind.toNat :: leBytes 4 unit ++ [0#8]) s else s

/-- The retest of a core: its self-test falls due (Table 10-4). -/
def retestCore (p : Packet) (k : Nat) (s : State) : State :=
  if clusterOut s (clusterOfCore k) then finish p 0x60 [] s
  else addRun p (.retest 1#4 k) (modCore s k fun c => { c with testDue := true })

/-- The retest of an array: a recovery refresh and a calibration, entered at once by a fenced array and at its product boundary by
one in service (Tables 2-9, 10-4). -/
def retestArray (p : Packet) (a : Nat) (s : State) : State :=
  if coreFenced s (coreOfArray a) then finish p 0x60 [] s
  else
    let s := addRun p (.retest 2#4 a) (modArr s a fun u => { u with retest := true })
    if bit (arr s a).state 17 then enterRefresh a 5 s
    else
      let s := modArr s a fun u => { u with state := setBit u.state 16, refreshCause := 5#3 }
      boundary a s

/-- UNIT_CLEAR (R291, Table 10-4). -/
def performUnitClear (p : Packet) (s : State) : State :=
  let kind := BitVec.ofNat 4 (pn p 0)
  let unit := pn p 1
  if kind = 1#4 then retestCore p unit (clearHistory kind unit s)
  else if kind = 2#4 then retestArray p unit (clearHistory kind unit s)
  else if kind = 3#4 then finish p 0 [] (clearHistory kind (converterUnit unit (pn p 2)) s)
  else if kind = 4#4 then
    finish p 0 [] (modPort (clearHistory kind unit s) (unit / 8) fun x => { x with
      badLanes := clrBit x.badLanes (unit % 8), narrow := tset 0 x.narrow (unit % 8) 0 })
  else finish p 0 [] (clearHistory kind unit s)

/-- TWIN_PAIR (R293, R294). -/
def performTwinPair (p : Packet) (s : State) : State :=
  if twinState s != 0 || !bit s.rel.twinCfg 31 then finish p 0x25 [] s
  else if pairRefused s then finish p 0x23 [] s
  else beginPair (addRun p .twinPair s)

/-- What TWIN_TAKEOVER does for a context: apply the landing, discard it, or refuse (R298). -/
def takeoverCase (s : State) (c epoch : Nat) : Option Bool :=
  let committed := headerWord s (0x44 + 32 * c)
  let complete := bit (headerWord s (0x48 + 32 * c)) 1
  if complete && committed + 1 == w32 epoch then some true
  else if committed == w32 epoch then some false
  else none

/-- TWIN_TAKEOVER: every context is checked before any landing moves (R298). -/
def performTwinTakeover (p : Packet) (s : State) : State :=
  let entries := (List.range (pn p 0)).map fun i => (pn p (1 + 2 * i), pn p (2 + 2 * i))
  if entries.any fun e => (takeoverCase s e.1 e.2).isNone then finish p 0x25 [] s
  else
    finish p 0 [] (entries.foldl (fun s e => match takeoverCase s e.1 e.2 with
      | some true => applyLanding (BitVec.ofNat 4 e.1) (w32 e.2) s
      | some false => discardLanding (BitVec.ofNat 4 e.1) s
      | none => s) s)

/-- TWIN_PULL: the header, the list and every entry of the twin's caravanserai (R298). -/
def performTwinPull (p : Packet) (s : State) : State :=
  if anyCtx s then finish p 0x25 [] s
  else
    let twin : DevId := BitVec.ofNat 18 (pn p 0)
    let t := Task.twinPull twin [.header] [] 0 none
    settle ⟨p, t⟩ (pullRun twin pullFuel [.header] [] 0 (addRun p t s))

/-- TWIN_UNPAIR: no pairing, or its end once the landing in progress is acknowledged (Table 11-9). -/
def performTwinUnpair (p : Packet) (s : State) : State :=
  if twinState s = 0 then finish p 0 [] s else tryUnpair (addRun p .twinUnpair s)

/-- UNIT_FENCE of a core, or of a lane, which a port in use stops using (R214, R291, R292). -/
def performUnitFence (p : Packet) (s : State) : State :=
  let unit := pn p 1
  if pn p 0 = 1 then finish p 0 [] (setPermanent 1#4 unit (fenceCore unit s))
  else
    let s := relErr 12 (setPermanent 4#4 unit s)
    let s := modPort s (unit / 8) fun x => { x with badLanes := setBit x.badLanes (unit % 8) }
    finish p 0 [] (failLane (unit / 8) (unit % 8) s)

/-! ## Group 0x7 -/

/-- PWR_LIMIT sets PWR_CFG.LIMIT_W (R335). -/
def performPwrLimit (p : Packet) (s : State) : State :=
  finish p 0 [] (modPwr s fun w => { w with cfg := setFld w.cfg 11 0 (pn p 0) })

def performCalSystem (p : Packet) (s : State) : State := nextFitWork (addRun p (.calSystem 0 false false 0) s)

/-- CAL_SAVE (R368): the monitor section, then the record of every array, those that calibrate when they have ended. -/
def performCalSave (p : Packet) (s : State) : State :=
  let dst := (pw64 p 0).toNat
  if pn p 2 < calBytes then finish p 0x40 [] s
  else if !rangeOk s false dst calBytes then finish p 0x51 [] s
  else
    let s := storeBytes s dst (monitorSection s 0#32) false
    let busy := (List.range 4096).filter (calibrating s)
    let s := ((List.range 4096).filter fun a => !calibrating s a).foldl (fun s a => saveRecord dst a s) s
    let t := Task.calSave dst busy
    let s := addRun p t s
    if busy.isEmpty then saveDone ⟨p, t⟩ dst s else s

def performCalRestore (p : Packet) (s : State) : State :=
  nextFitWork (addRun p (.calRestore false (pw64 p 0).toNat (pn p 2) [] 0 0) s)

def performMonSample (p : Packet) (s : State) : State :=
  askChannel 4 (addRun p (.monSample (pn p 0) (pn p 1) (pw64 p 2).toNat 0) s)

/-! ## Group 0x8 -/

/-- The first n bytes of a list, filled with zeros. -/
def padTo (n : Nat) (l : List Byte) : List Byte := l.take n ++ List.replicate (n - l.length) 0#8

/-- Report bytes 0 to 639 (Table 14-6). -/
def reportBody (p : Packet) (s : State) : List Byte :=
  let flags := (bit s.sec.boot 17).toNat + 2 * (bit s.sec.err 4).toNat
  leBytes 4 1 ++ leBytes 4 Config.certificate.length ++ leBytes 8 Config.serialNumber.toNat
    ++ p.words.flatMap bytesOfWord ++ leBytes 8 (logTime s).toNat ++ bytesOfWord s.deviceId
    ++ [BitVec.ofNat 8 (bootPhase s), BitVec.ofNat 8 (fld s.pwr.resetW 3 0), BitVec.ofNat 8 (fld s.sec.boot 16 16),
        BitVec.ofNat 8 flags]
    ++ (List.range 8).flatMap (fun i => leBytes 32 (tget 0#256 s.sec.meas i).toNat)
    ++ bytesOfWord s.sec.fwRb ++ bytesOfWord s.sec.cfgRb ++ bytesOfWord s.sec.keyFloor ++ List.replicate 308 0#8

/-- An internal fault is recorded with the command that ends in HW_FAULT, and vector 7 raised (Tables 11-3, 14-8). -/
def recordFault (p : Packet) (s : State) : State :=
  raise 7 (logAdd 0x0E#8 (headerBytes p.opcode.toNat p.hdr p.length.toNat) s)

/-- ATTEST: the signed report and the identity certificate leave by the outbound stream (R381). -/
def performAttest (p : Packet) (s : State) : State :=
  if bit s.sec.boot 19 then finish p 0xF0 [] (recordFault p (modSec s fun x => { x with err := setBit x.err 3 }))
  else
    let body := reportBody p s
    let bytes := body ++ padTo 384 (Config.identitySign body) ++ Config.certificate
    pumpOut (addRun p (.outbound bytes [w32 bytes.length] 0#16) s)

def performImageLoad (p : Packet) (s : State) : State := addRun p (.imageLoad (BitVec.ofNat 4 (pn p 0)) (pn p 1) []) s

/-- A record as laid out in Table 14-7, IDENTITY and HELPER with what may be shown of their payload (R389). -/
def recordBytes (r : LogRec) : List Byte :=
  let payload := if r.kind = 2#8 || r.kind = 3#8 then Config.shownIdentity r.kind.toNat else r.payload
  let body := [0x5A#8, 0xA5#8, r.kind, BitVec.ofNat 8 r.copy.toNat] ++ leBytes 4 payload.length ++ leBytes 8 r.seq.toNat
    ++ leBytes 8 r.time.toNat ++ leBytes 8 r.orig.toNat ++ payload
  let all := body ++ bytesOfWord (crc32c body) ++ leBytes 4 0 ++ leBytes 8 r.seq.toNat
  all ++ List.replicate ((64 - all.length % 64) % 64) 0#8

def insertRecord (r : LogRec) : List LogRec → List LogRec
  | [] => [r]
  | h :: t => if r.seq.toNat < h.seq.toNat then r :: h :: t else h :: insertRecord r t

/-- The records of the journal and of the black-box ring in ascending SEQ, the dead ones left out (R385, R389). -/
def shownRecords (s : State) : List LogRec :=
  let all := s.sec.ring.foldl (fun l r => insertRecord r l) (logRecords s)
  all.filter fun r => !all.any fun x => x.copy && x.orig == r.seq && x.seq != r.seq

/-- Whole records while they fit in `room` bytes: their bytes, and the first record left. -/
def takeRecords : Nat → List LogRec → List Byte × Option LogRec
  | _, [] => ([], none)
  | room, r :: rest =>
    let b := recordBytes r
    if room < b.length then ([], some r)
    else
      let (more, left) := takeRecords (room - b.length) rest
      (b ++ more, left)

/-- LOG_READ (R389). -/
def performLogRead (p : Packet) (s : State) : State :=
  let first := (pw64 p 0).toNat
  let rs := (shownRecords s).filter fun r => decide (first ≤ r.seq.toNat)
  let (bytes, left) := takeRecords (pn p 2) rs
  let next := match left with
    | some r => r.seq.toNat
    | none => match rs.getLast? with
      | some r => r.seq.toNat + 1
      | none => first
  let res := w32 bytes.length :: words64 next
  if bytes.isEmpty && left.isSome then finish p 0x40 res s
  else pumpOut (addRun p (.outbound bytes res 0#16) s)

def performLogInfo (p : Packet) (s : State) : State :=
  let rs := shownRecords s
  let seqOf (r : Option LogRec) : Nat := match r with
    | some r => r.seq.toNat
    | none => 0
  finish p 0 (w32 (logFill s.sec.journal) :: words64 (seqOf rs.head?) ++ words64 (seqOf rs.getLast?)) s

/-! ## Start of a command (R312) -/

/-- What the opcode of a packet does. -/
def performOp (p : Packet) (s : State) : State :=
  match p.opcode.toNat with
  | 0x0001 => performNop p s
  | 0x0010 => performDevInfo p s
  | 0x0020 => performDevStatus p s
  | 0x0030 => performDevReset p s
  | 0x0040 => performDevShutdown p s
  | 0x0050 => performDevSleep p s
  | 0x1010 => performMemWrite p s
  | 0x1020 => performMemRead p s
  | 0x1030 => performMemCopy p s
  | 0x1040 => performMemFill p s
  | 0x1050 => performRegRead p s
  | 0x1060 => performRegWrite p s
  | 0x1070 => performCheckSeal p s
  | 0x2010 => performArrayWrite p s
  | 0x2020 => performArrayCalibrate p s
  | 0x2030 => performArrayRefresh p s
  | 0x2040 => performArrayFence p s
  | 0x2050 => performLayerRemove p s
  | 0x3010 => performCtxCreate p s
  | 0x3020 => performCtxDestroy p s
  | 0x3030 => performLaunch p s
  | 0x3040 => performCtxStatus p s
  | 0x4010 => performCoefWrite p s
  | 0x5010 => performRingSet p s
  | 0x5020 => performLinkStatus p s
  | 0x5030 => performPortRetrain p s
  | 0x6010 => performEpochAbandon p s
  | 0x6020 => performUnitClear p s
  | 0x6030 => performTwinPair p s
  | 0x6040 => performTwinTakeover p s
  | 0x6050 => performTwinPull p s
  | 0x6060 => performTwinUnpair p s
  | 0x6070 => performUnitFence p s
  | 0x7010 => performPwrLimit p s
  | 0x7020 => performCalSystem p s
  | 0x7030 => performCalSave p s
  | 0x7040 => performCalRestore p s
  | 0x7050 => performMonSample p s
  | 0x8010 => performAttest p s
  | 0x8020 => performImageLoad p s
  | 0x8030 => performLogRead p s
  | 0x8040 => performLogInfo p s
  | _ => s

/-- What a context lost between take and start refuses a command marked C with (checks 6 to 8 once more). -/
def startStatus (p : Packet) (s : State) : Nat :=
  match opcodeRow p.opcode.toNat with
  | some r =>
    if r.ctx then
      let c := ctxStatus p s
      if c != 0 then c else if paramsOk p s then 0 else 0x23
    else 0
  | none => 0

/-- A packet starts. -/
def perform (p : Packet) (s : State) : State :=
  let st := startStatus p s
  if st = 0 then performOp p s else finish p st [] s

/-- A command may start: one with ORDERED waits until every command taken before it has completed and been replied. -/
def mayStart (p : Packet) (s : State) : Bool :=
  !p.hdr.ordered || !((s.host.running.any fun r => decide (r.pkt.seq < p.seq))
    || s.host.replied.any fun r => decide (r.seq < p.seq))

/-- The oldest taken command starts if it may (R312). -/
def startOldest (s : State) : State :=
  match s.host.taken with
  | [] => s
  | p :: rest => if mayStart p s then perform p (modHost s fun h => { h with taken := rest }) else s

def execCommandStart (s : State) : Res := .next (startOldest s)

/-! ## A whole command -/

/-- A packet of an opcode with its parameter words and reserved bits zero. -/
def packet (op : Nat) (h : Hdr) (words : List Word) : Packet where
  opcode := BitVec.ofNat 16 op
  hdr := h
  length := BitVec.ofNat 16 (4 * words.length)
  resvOk := true
  words := words

/-- A whole packet written into the window: discarded while READY is 0, otherwise taken, and started at once when no
earlier command keeps it waiting. -/
def submit (op : Nat) (h : Hdr) (words : List Word) (s : State) : State :=
  if !s.host.ready then hstErr 1 s
  else startOldest (takePacket (headerBytes op h (4 * words.length)) (packet op h words) s)

/-- The two words of a 64-bit parameter. -/
def two (v : W64) : List Word := words64 v.toNat

def execNop (h : Hdr) (s : State) : Res := .next (submit 0x0001 h [] s)
def execDevInfo (h : Hdr) (s : State) : Res := .next (submit 0x0010 h [] s)
def execDevStatus (h : Hdr) (s : State) : Res := .next (submit 0x0020 h [] s)
def execDevReset (h : Hdr) (kind : Word) (s : State) : Res := .next (submit 0x0030 h [kind] s)
def execDevShutdown (h : Hdr) (s : State) : Res := .next (submit 0x0040 h [] s)
def execDevSleep (h : Hdr) (wake : Word) (s : State) : Res := .next (submit 0x0050 h [wake] s)
def execMemWrite (h : Hdr) (dst len : W64) (s : State) : Res := .next (submit 0x1010 h (two dst ++ two len) s)
def execMemRead (h : Hdr) (src : W64) (len : Word) (s : State) : Res := .next (submit 0x1020 h (two src ++ [len]) s)
def execMemCopy (h : Hdr) (src dst len : W64) (s : State) : Res := .next (submit 0x1030 h (two src ++ two dst ++ two len) s)
def execMemFill (h : Hdr) (dst len pattern : W64) (s : State) : Res :=
  .next (submit 0x1040 h (two dst ++ two len ++ two pattern) s)
def execRegRead (h : Hdr) (addr : W64) (count : Word) (s : State) : Res := .next (submit 0x1050 h (two addr ++ [count]) s)
def execRegWrite (h : Hdr) (addr : W64) (value : Word) (s : State) : Res := .next (submit 0x1060 h (two addr ++ [value]) s)
def execCheckSeal (h : Hdr) (data plane : W64) (rows rowBytes kind : Word) (s : State) : Res :=
  .next (submit 0x1070 h (two data ++ two plane ++ [rows, rowBytes, kind]) s)
def execArrayWrite (h : Hdr) (what : Word) (s : State) : Res := .next (submit 0x2010 h [what] s)
def execArrayCalibrate (h : Hdr) (first count : Word) (s : State) : Res := .next (submit 0x2020 h [first, count] s)
def execArrayRefresh (h : Hdr) (first count : Word) (s : State) : Res := .next (submit 0x2030 h [first, count] s)
def execArrayFence (h : Hdr) (first count : Word) (s : State) : Res := .next (submit 0x2040 h [first, count] s)
def execLayerRemove (h : Hdr) (layer : Word) (s : State) : Res := .next (submit 0x2050 h [layer] s)
def execCtxCreate (h : Hdr) (job zero : Word) (milestone : W64) (s : State) : Res :=
  .next (submit 0x3010 h ([job, zero] ++ two milestone) s)
def execCtxDestroy (h : Hdr) (s : State) : Res := .next (submit 0x3020 h [] s)
def execLaunch (h : Hdr) (manifest : W64) (bytes : Word) (s : State) : Res := .next (submit 0x3030 h (two manifest ++ [bytes]) s)
def execCtxStatus (h : Hdr) (s : State) : Res := .next (submit 0x3040 h [] s)
def execCoefWrite (h : Hdr) (clusters row : Word) (data : List Word) (s : State) : Res :=
  .next (submit 0x4010 h ([clusters, row] ++ data) s)
def execRingSet (h : Hdr) (ring n pos zero : Word) (list : W64) (s : State) : Res :=
  .next (submit 0x5010 h ([ring, n, pos, zero] ++ two list) s)
def execLinkStatus (h : Hdr) (s : State) : Res := .next (submit 0x5020 h [] s)
def execPortRetrain (h : Hdr) (ports : Word) (s : State) : Res := .next (submit 0x5030 h [ports] s)
def execEpochAbandon (h : Hdr) (s : State) : Res := .next (submit 0x6010 h [] s)
def execUnitClear (h : Hdr) (kind unit column : Word) (s : State) : Res := .next (submit 0x6020 h [kind, unit, column] s)
def execTwinPair (h : Hdr) (s : State) : Res := .next (submit 0x6030 h [] s)
def execTwinTakeover (h : Hdr) (count : Word) (entries : List (Word × Word)) (s : State) : Res :=
  .next (submit 0x6040 h (count :: entries.flatMap fun e => [e.1, e.2]) s)
def execTwinPull (h : Hdr) (twin : Word) (s : State) : Res := .next (submit 0x6050 h [twin] s)
def execTwinUnpair (h : Hdr) (s : State) : Res := .next (submit 0x6060 h [] s)
def execUnitFence (h : Hdr) (kind unit : Word) (s : State) : Res := .next (submit 0x6070 h [kind, unit] s)
def execPwrLimit (h : Hdr) (watts : Word) (s : State) : Res := .next (submit 0x7010 h [watts] s)
def execCalSystem (h : Hdr) (s : State) : Res := .next (submit 0x7020 h [] s)
def execCalSave (h : Hdr) (dst : W64) (max : Word) (s : State) : Res := .next (submit 0x7030 h (two dst ++ [max]) s)
def execCalRestore (h : Hdr) (src : W64) (bytes : Word) (s : State) : Res := .next (submit 0x7040 h (two src ++ [bytes]) s)
def execMonSample (h : Hdr) (channel count : Word) (dst : W64) (s : State) : Res :=
  .next (submit 0x7050 h ([channel, count] ++ two dst) s)
def execAttest (h : Hdr) (nonce : List Word) (s : State) : Res := .next (submit 0x8010 h nonce s)
def execImageLoad (h : Hdr) (kind len : Word) (s : State) : Res := .next (submit 0x8020 h [kind, len] s)
def execLogRead (h : Hdr) (firstSeq : W64) (max : Word) (s : State) : Res := .next (submit 0x8030 h (two firstSeq ++ [max]) s)
def execLogInfo (h : Hdr) (s : State) : Res := .next (submit 0x8040 h [] s)

end Sys2Proof.Machine
end

