-- ==== Sys2Proof/Machine/Seal.lean ====
section
/-! DEFINITION. The seal (spec/06, R177 to R185): its messages, the commit of an epoch in the order of Table 6-9, the step
record, and the applies. -/

namespace Sys2Proof.Machine

/-! ## Staging verified (R275, R295) -/

/-- Some staged group of a layer no longer has the check value with which it was written (R275). -/
def stagedWrong (s : State) (l : LaunchS) (layer : BitVec 12) : Bool :=
  l.groups.any fun g => g.1 == layer && crc32c (memGet s g.2.1 g.2.2.1) != g.2.2.2

/-- The read-back of a layer's staged groups ends: the layer is mirrored, or its launch is recalled. `ok` says that no fault on the
way of the read shows a mismatch. -/
def verifyEnd (uid : Nat) (layer : BitVec 12) (ok : Bool) (s : State) : State :=
  match findLaunch s uid with
  | none => s
  | some l =>
    if !l.verify.contains layer then s
    else
      let good := ok && !stagedWrong s l layer
      let s := modLaunch s uid fun l => { l with
        verify := l.verify.erase layer, groups := l.groups.filter fun g => g.1 != layer }
      if good then mirrorLayer l.ctx layer.toNat s else recallDetected uid (relErr 3 s)

def execStagingVerifyEnd (launch : Nat) (layer : BitVec 12) (ok : Bool) (s : State) : Res :=
  .next (verifyEnd launch layer ok s)

/-! ## The offer (R179) -/

/-- The summaries of each ring go to both neighbours. -/
def sendSummaries (c : BitVec 4) (s : State) : State :=
  let u := ctxU s c
  let k := openEpoch u
  (checkedRings s c).foldl (fun s g =>
    let r : BitVec 4 := BitVec.ofNat 4 g
    let s := sendMsg 0 (ringNext s g) (.summary c r k true (ringSummary s c k g true) u.milestone) s
    sendMsg 0 (ringPrev s g) (.summary c r k false (ringSummary s c k g false) u.milestone) s) s

/-- Every other launch of the epoch has ended: the mirror and the summaries go out, and the offer follows. -/
def sealOffer (c : BitVec 4) (s : State) : State :=
  if !mayPrepare s c then s
  else if (ctxU s c).sealSt.ready then tryOffer c s
  else
    let s := sendSummaries c (mirrorEpoch c s)
    tryOffer c (modSeal s c fun x => { x with ready := true })

def execSealOffer (ctx : BitVec 4) (s : State) : Res := .next (sealOffer ctx s)

/-- FAB_ERR.MILESTONE_MISMATCH when a count is not the module's own (R245). -/
def milestoneCheck (c : BitVec 4) (m : W64) (s : State) : State :=
  if m = (ctxU s c).milestone then s else modFab s fun f => { f with err := setBit f.err 5 }

/-- The message is for an epoch the context holds open. -/
def forOpen (s : State) (c : BitVec 4) (k : Word) : Bool := (ctxU s c).live && (ctxU s c).begun && k == openEpoch (ctxU s c)

/-- A neighbour's summary is kept for the comparison (R267). -/
def takeSummary (c g : BitVec 4) (k : Word) (prev : Bool) (sum : Word) (m : W64) (s : State) : State :=
  if !forOpen s c k then s
  else
    let good := m == (ctxU s c).milestone
    let s := milestoneCheck c m s
    tryOffer c (modSeal s c fun x => { x with
      sums := (x.sums.filter fun y => !(y.1 == g && y.2.1 == prev)) ++ [(g, prev, sum, good)] })

def execLedgerSummary (ctx ring : BitVec 4) (epoch : Word) (fromPrev : Bool) (sum : Word) (milestone : W64) (s : State) :
    Res := .next (takeSummary ctx ring epoch fromPrev sum milestone s)

/-- A child's offer is held (R180, R245, R279). -/
def takeOffer (m : OfferMsg) (src : DevId) (s : State) : State :=
  if !forOpen s m.ctx m.epoch then s
  else
    let m' := { m with ok := m.ok && m.milestone == (ctxU s m.ctx).milestone }
    let s := milestoneCheck m.ctx m.milestone s
    tryOffer m.ctx (modSeal s m.ctx fun x => { x with
      offers := (x.offers.filter fun o => o.1 != src) ++ [(src, m')]
      kids := if x.kids.contains src then x.kids else x.kids ++ [src] })

def execOffer (m : OfferMsg) (src : DevId) (s : State) : Res := .next (takeOffer m src s)

/-! ## Outcomes (R184, R206) -/

/-- Table 7-6; `skip`: GO carried the invalid mark (R265). -/
def outcomeOf (skip : Bool) (l : Layer) : BitVec 2 :=
  if !lTrained l || !l.st.named || l.st.refused then 3#2
  else if l.st.mismatch then 2#2
  else if skip || l.st.skipped then 1#2
  else if l.st.staged then 0#2 else 3#2

/-- The step counter after the commit. -/
def stepAfter (s : State) (l : Layer) (o : BitVec 2) : Nat :=
  if lState l = noAddr then 0
  else
    let n := (readWord s (lState l + 4)).toNat
    if o = 0#2 then min (n + 1) 0xFFFFFFFF else n

/-- Step record entry of a layer (Table 6-12). -/
def layerEntry (s : State) (skip : Bool) (l : Layer) : List Byte :=
  let o := outcomeOf skip l
  let flags := o.toNat + 4 * l.st.digital.toNat + 8 * (l.st.ratio && o == 0#2).toNat
  leBytes 2 (lNum l) ++ leBytes 2 flags ++ leBytes 4 (stepAfter s l o)
    ++ leBytes 4 (if o = 0#2 then (readWord s (tailAddr l + 4)).toNat else 0) ++ leBytes 4 0

/-- The layer takes its outcome: an applied one waits for its apply, and one whose apply still runs goes on; a discarded one loses its
row list (Table 6-10). -/
def commitLayer (c : BitVec 4) (skip : Bool) (s : State) (l : Layer) : State :=
  let o := outcomeOf skip l
  let s := if o = 1#2 || o = 2#2 then clearRowList l s else s
  modLayer s c (lNum l) fun st => { LayerSt.fresh with
    outcome := o, applying := st.applying || o == 0#2, fwdEpoch := st.fwdEpoch, tEpoch := st.tEpoch }

/-! ## Tensor sections (R158, Table 6-13) -/

def tensorSection (epoch core t : Nat) (e : Entry) : List Byte :=
  leBytes 2 core ++ leBytes 1 t ++ leBytes 1 (raisedFlags e % 64) ++ leBytes 2 (ringEntry e epoch).toNat ++ leBytes 2 0
    ++ ([e.blocks, e.zero, e.sat, e.dig, e.inexact, e.winlow, e.invalid, e.nonfin, e.amax].flatMap bytesOfWord) ++ leBytes 4 0

def ownedBy (c : BitVec 4) (e : Entry) : Bool := bit e.town 31 && e.ownCtx == c

/-- Sections of every entry that a launch of the context owns, in ascending core, then entry. -/
def tensorSections (s : State) (c : BitVec 4) (epoch : Nat) : List (List Byte) :=
  s.cores.flatMap fun k => (k.2.entries.filter fun e => ownedBy c e.2).map fun e => tensorSection epoch k.1 e.1 e.2

/-- A table keeps its form when its records change: entries equal to the default leave it. -/
def tmapAll {α : Type} [DecidableEq α] (d : α) (f : α → α) (t : Tab α) : Tab α :=
  (t.map fun e => (e.1, f e.2)).filter fun e => e.2 != d

def sealEntries (c : BitVec 4) (epoch : Nat) (s : State) : State :=
  { s with cores := tmapAll CoreU.reset (fun k => { k with
      entries := tmapAll Entry.reset (fun e => if ownedBy c e then sealEntry epoch e else e) k.entries }) s.cores }

/-! ## The step record (R185) -/

/-- As many leading parts as fit into n bytes. -/
def fitParts : Nat → List (List Byte) → List (List Byte)
  | _, [] => []
  | n, p :: r => if p.length ≤ n then p :: fitParts (n - p.length) r else []

/-- The record of an epoch (Table 6-11). -/
def stepRecord (s : State) (c : BitVec 4) (k : Word) (stride : Nat) (layers sections : List (List Byte)) (summary : Word)
    (flags : Nat) : List Byte :=
  let parts := layers ++ sections
  let kept := fitParts (stride - 64) parts
  let nl := min layers.length kept.length
  let body := kept.flatten
  let flags := flags + if kept.length < parts.length then 64 else 0
  let head := bytesOfWord k ++ leBytes 4 (c.toNat * 2 ^ 28 + nl * 2 ^ 16) ++ leBytes 4 (kept.length - nl)
    ++ leBytes 4 (64 + body.length) ++ leBytes 8 s.rack.toNat ++ bytesOfWord summary
    ++ leBytes 4 (min (ctxU s c).sealSt.fbCount 0xFFFFFFFF) ++ leBytes 4 flags ++ leBytes 24 0
  head ++ bytesOfWord (crc32c (head ++ leBytes 4 0 ++ body)) ++ body

/-- The record is stored granule by granule; a refused store ends it and sets RECORD_LOST. -/
def storeRecord (c : BitVec 4) : Nat → List (List Byte) → State → State
  | _, [], s => s
  | a, p :: r, s =>
    let w := localWrite s false a p false
    if w.1 = 0 then storeRecord c (a + p.length) r w.2
    else modCtx w.2 c fun x => { x with sealW := setBit x.sealW 30 }

def slotOffset (h : SealHdr) (k : Word) : Nat := k.toNat % max 1 h.slots.toNat * (h.stride.toNat * 1024)

/-! ## The commit (R183, Table 6-9) -/

/-- The ring summaries of the epoch go into their registers (R267). -/
def latchSums (c : BitVec 4) (k : Word) (s : State) : State :=
  (ctxRings s c).foldl (fun s g => modFab s fun f => { f with
    sentSum := tset 0#32 f.sentSum g (ringSummary s c k g true)
    recvSum := tset 0#32 f.recvSum g (ringSummary s c k g false) }) s

/-- The exclusive or of every summary of the context's rings. -/
def recordSummary (s : State) (c : BitVec 4) (k : Word) : Word :=
  (ctxRings s c).foldl (fun w g => w ^^^ ringSummary s c k g true ^^^ ringSummary s c k g false) 0#32

/-- The step pulse: on SYNC_OUT for 8 ticks, or as a message when the repeat holds the pin (R246, R348). -/
def stepPulse (c : BitVec 4) (s : State) : State :=
  let cfg := s.pwr.syncCfg
  if !bit cfg 1 then s
  else if !bit cfg 0 then modPwr s fun p => { p with syncOut := 8 }
  else if bit s.fab.pulse 31 then
    sendMsg 0 (BitVec.ofNat 18 (fld s.fab.pulse 17 0)) (.pulse c (ctxU s c).milestone s.rack) s
  else s

/-- The SEAL launch ends, ended launches of the epoch and ended INTERVAL launches leave, and held launches of the next are admitted
(R163). -/
def commitLaunches (c : BitVec 4) (k : Word) (s : State) : State :=
  let seals := (ctxLaunches s c).filter fun l => l.kind == 3#4 && l.epoch == k && l.state != .held
  let s := seals.foldl (fun s l => endLaunch l.uid 0 .ended s) s
  let s := { s with launches := s.launches.filter fun l => !(l.ctx == c && (l.epoch == k || l.kind == 4#4) && !inFlight l) }
  admitHeld c s

/-- Caravans of epochs before the one committed leave the running state; both parities of the table keep their digests. -/
def commitCaravans (c : BitVec 4) (k : Word) (s : State) : State :=
  modFab s fun f => { f with caravans := f.caravans.filter fun v => !(v.ctx == c && v.epoch != k && v.epoch != k + 1) }

/-- Settings that wait for the context's commit tick take effect (R265, R299). -/
def commitSettings (c : BitVec 4) (s : State) : State :=
  let s := modCtx s c fun x => { x with policy := x.policyHeld.getD x.policy, policyHeld := none, relIn := none }
  modRel s fun r => { r with histIn := none }

/-- After the last apply and the step record the step is open again (Table 6-9). -/
def reopen (c : BitVec 4) (s : State) : State :=
  if sealState (ctxU s c) = 3 && fld (ctxU s c).sealW 11 0 = 0 then setSealState c (if intervalRuns s c then 4 else 1) s else s

/-- The commit of the open epoch under a GO (Table 6-9). -/
def commit (c : BitVec 4) (g : GoMsg) (late : Bool) (s : State) : State :=
  let u := ctxU s c
  match u.sealSt.hdr with
  | none => s
  | some h =>
    let k := openEpoch u
    let ls := u.layers.map (·.2)
    let layers := ls.map (layerEntry s g.invalid)
    let sections := tensorSections s c k.toNat
    let flagsum := s.cores.any fun x => x.2.entries.any fun e => ownedBy c e.2 && raisedFlags e.2 % 64 != 0
    let flags := u.sealSt.ringSat.toNat + 2 * late.toNat + 4 * g.invalid.toNat + 8 * u.sealSt.replayed.toNat
      + 16 * (ls.any fun l => outcomeOf g.invalid l == 2#2).toNat + 32 * flagsum.toNat
    let stride := h.stride.toNat * 1024
    let record := stepRecord s c k stride layers sections (recordSummary s c k) flags
    let applied := ls.countP fun l => l.st.applying || outcomeOf g.invalid l == 0#2
    let s := latchSums c k s
    let s := ls.foldl (commitLayer c g.invalid) s
    let s := sealEntries c k.toNat s
    let s := modCtx { s with commits := s.commits + 1 } c fun x => { x with
      epoch := k, milestone := x.milestone + 1
      sealW := setFld (setFld (putBit x.sealW 31 (bit x.sealW 31 || late)) 14 12 3) 11 0 applied
      sealSt := { SealS.reset with
        lastGo := x.sealSt.lastGo, detect := x.sealSt.detect, uncurable := x.sealSt.uncurable
        lateDet := x.sealSt.lateDet, stampNo := s.commits + 1 } }
    let s := commitSettings c s
    let s := commitLaunches c k (commitCaravans c k s)
    let s := stepPulse c (raise 4 s)
    let a := h.recBase.toNat + slotOffset h k
    let s := storeRecord c a (chunks 64 record) s
    reopen c (mirrorCommitSend c k (slotOffset h k) a stride s)

/-- The rack reference count reaches COMMIT_AT of the GO held. -/
def commitTick (c : BitVec 4) (s : State) : State :=
  match (ctxU s c).sealSt.pendingGo with
  | none => s
  | some g => commit c g false { s with rack := if s.rack.toNat < g.commitAt.toNat then g.commitAt else s.rack }

def execCommitTick (ctx : BitVec 4) (s : State) : Res := .next (commitTick ctx s)

/-- GO: forwarded to the children; it fixes the commit tick, or commits at once when that is past (R180, R245, R412). -/
def takeGo (m : GoMsg) (s : State) : State :=
  let u := ctxU s m.ctx
  if !forOpen s m.ctx m.epoch || u.sealSt.hdr.isNone || u.sealSt.pendingGo.isSome then s
  else if m.milestone != u.milestone then holdEpoch m.ctx (milestoneCheck m.ctx m.milestone s)
  else
    let s := sendAll u.sealSt.kids (.go m) s
    let s := modSeal s m.ctx fun x => { x with pendingGo := some m, withdrawn := false, owedAcks := [] }
    if m.commitAt.toNat < s.rack.toNat then commit m.ctx m true s else s

def execGo (m : GoMsg) (s : State) : Res := .next (takeGo m s)

/-! ## Applies (R178, R193, R79) -/

/-- Copy n bytes; poison travels, and is reported, and the marks of the source's groups travel (R131). -/
def copyLocal (src dst n : Nat) (r : Bool × State) : Bool × State :=
  let d := localRead r.2 false src n
  (r.1 || d.poison, carryMarks src dst n (storeBytes (noteRead d r.2) dst d.data d.poison))

/-- What an apply reads (R193). -/
def applyReads (l : Layer) (k : Word) (s : State) : List Range :=
  (lStaging l, 64) :: ((listedRows s l).flatMap fun t =>
      (stgShadow l + t * lIn l, lIn l) :: (rowParts s l t).map fun p => (lStaging l + p.1, p.2))
    ++ if lRank l != 0 && readWord s (tailAddr l) == k then [(stgU l, sizeU l), (stgV l, sizeV l)] else []

/-- The staged header and rows of a layer are copied, and U and V when they hold for the epoch (R193). -/
def applyRows (l : Layer) (k : Word) (s : State) : Bool × State :=
  let r := copyLocal (lStaging l) (lState l) 64 (false, s)
  let r := (listedRows s l).foldl (fun r t =>
    let r := (rowParts s l t).foldl (fun r p => copyLocal (lStaging l + p.1) (lState l + p.1) p.2 r) r
    copyLocal (stgShadow l + t * lIn l) (lShadow l + t * lIn l) (lIn l) r) r
  if lRank l != 0 && readWord s (tailAddr l) == k then
    copyLocal (stgV l) (lV l) (sizeV l) (copyLocal (stgU l) (lU l) (sizeU l) r)
  else r

/-- Dirty bits of a committed layer reach an array, which requests a grant under the seal's stamp (R79). -/
def commitDirty (l : Layer) (stamp : Nat) (s : State) (a : Nat) : State :=
  let d : BitVec 512 := BitVec.ofNat 512 (readNat s (stgDirty l + 64 * (a - lFirst l)) 64)
  modArr s a fun u =>
    let u := setDirty (u.dirty ||| d) u
    if u.dirty = 0#512 then u
    else match u.write with
      | some w => if w.refresh then requestRewrite stamp u else { u with stamp := some (u.stamp.getD stamp) }
      | none => requestRewrite stamp u

/-- The apply of the first layer that waits for it ends; what it reads is checked (R270). -/
def applyLayer (c : BitVec 4) (check : CheckSeen) (s : State) : State :=
  let u := ctxU s c
  match u.layers.find? fun e => e.2.st.applying with
  | none => s
  | some (n, l) =>
    let (poison, s) := applyRows l u.epoch (checkFor c check (applyReads l u.epoch s) s).2
    let s := (lArrays l).foldl (commitDirty l u.sealSt.stampNo) s
    let s := modLayer (clearRowList l s) c n fun st => { st with applying := false }
    let s := modCtx s c fun x => { x with sealW := setFld x.sealW 11 0 (fld x.sealW 11 0 - 1) }
    let s := reopen c s
    if poison then terminateCtx c s else s

def execLayerApplyEnd (ctx : BitVec 4) (check : CheckSeen) (s : State) : Res := .next (applyLayer ctx check s)

/-! ## Timeouts and queries (R181, R182) -/

/-- The root lacks an offer SEAL_TIMEOUT after its own: no GO, HOLD, and a member that does not answer (R181, R285). -/
def offersLate (c : BitVec 4) (s : State) : State :=
  let u := ctxU s c
  match u.sealSt.hdr with
  | none => s
  | some h =>
    if h.parent = ownId s && u.sealSt.offered && u.sealSt.pendingGo.isNone
        && decide (u.sealSt.offers.length < h.children.toNat) then stuckEpoch c (holdEpoch c s)
    else s

def execSealTimeout (ctx : BitVec 4) (s : State) : Res := .next (offersLate ctx s)

/-- A member that offered holds neither GO nor HOLD: it asks the root, and after the first unanswered query reports the epoch
stuck (R182). -/
def askRoot (c : BitVec 4) (s : State) : State :=
  let u := ctxU s c
  match u.sealSt.hdr with
  | none => s
  | some h =>
    if h.parent = ownId s || !u.sealSt.offered || u.sealSt.pendingGo.isSome || sealState u = 5 then s
    else
      let s := if u.sealSt.queried = 1 then relErr 11 s else s
      let s := modSeal s c fun x => { x with queried := min 2 (x.queried + 1) }
      sendMsg 0 h.root (.goQuery c (openEpoch u) u.milestone) s

def execGoQueryTimeout (ctx : BitVec 4) (s : State) : Res := .next (askRoot ctx s)

/-- The root's answer to a query: the last GO again, HOLD, or nothing (R182). -/
def answerQuery (c : BitVec 4) (k : Word) (src : DevId) (s : State) : State :=
  let u := ctxU s c
  match u.sealSt.lastGo with
  | some g =>
    if g.epoch = k then sendMsg 0 src (.go g) s
    else if forOpen s c k && sealState u == 5 then sendMsg 0 src (.hold c k) s else s
  | none => if forOpen s c k && sealState u == 5 then sendMsg 0 src (.hold c k) s else s

/-- The query carries the member's milestone count; the spec gives the root no comparison of it. -/
def execGoQuery (ctx : BitVec 4) (epoch : Word) (_milestone : W64) (src : DevId) (s : State) : Res :=
  .next (answerQuery ctx epoch src s)

/-! ## Withdrawals (R279, R412) -/

/-- A WITHDRAW: the child's offer is void; it goes on towards the root, which acknowledges it, or repeats a GO it has sent. -/
def takeWithdraw (c : BitVec 4) (k : Word) (src origin : DevId) (s : State) : State :=
  let u := ctxU s c
  let again : Option GoMsg := u.sealSt.lastGo.filter fun g => g.epoch == k
  match again with
  | some g => sendMsg 0 origin (.go g) s
  | none =>
    if !forOpen s c k then s
    else
      let s := modSeal s c fun x => { x with offers := x.offers.filter fun o => o.1 != src }
      match u.sealSt.hdr with
      | none => modSeal s c fun x => { x with heldWithdraws := x.heldWithdraws ++ [origin] }
      | some h =>
        if h.parent = ownId s then sendMsg 0 origin (.withdrawAck c k) s
        else
          let s := sendMsg 0 h.parent (.withdraw c k origin) s
          if u.sealSt.offered && u.sealSt.pendingGo.isNone then
            let s := modSeal s c fun x => { x with offered := false }
            if sealState u = 2 then setSealState c 1 s else s
          else s

def execWithdraw (ctx : BitVec 4) (epoch : Word) (src origin : DevId) (s : State) : Res :=
  .next (takeWithdraw ctx epoch src origin s)

/-- RECALL_ACK with the fields of the RECALL it answers (R279). -/
def sendRecallAck (s : State) (d : DevId × RecallMsg) : State := sendMsg 0 d.1 (.recallAck { d.2 with tallies := [] }) s

/-- The root's acknowledgement: owed RECALL_ACKs go out, and a member whose launches have ended offers again (R279, R412). -/
def withdrawAcked (c : BitVec 4) (k : Word) (s : State) : State :=
  let u := ctxU s c
  if !forOpen s c k || !u.sealSt.withdrawn then s
  else
    let s := modSeal s c fun x => { x with withdrawn := false, owedAcks := [] }
    tryOffer c (u.sealSt.owedAcks.foldl sendRecallAck s)

def execWithdrawAck (ctx : BitVec 4) (epoch : Word) (s : State) : Res := .next (withdrawAcked ctx epoch s)

/-! ## HOLD, digests, STUCK (R284, R285) -/

/-- HOLD: the epoch is HELD, the digests are exchanged, HOLD goes on to the children. -/
def takeHold (c : BitVec 4) (k : Word) (s : State) : State :=
  if forOpen s c k && (ctxU s c).sealSt.pendingGo.isNone then holdEpoch c s else s

def execHold (ctx : BitVec 4) (epoch : Word) (s : State) : Res := .next (takeHold ctx epoch s)

/-- Launches of a caravan's context and epoch that its slices name. -/
def sliceLaunches (s : State) (v : Caravan) : List Nat :=
  ((ctxLaunches s v.ctx).filter fun l => l.epoch == v.epoch && v.slices.any fun x => x.1 == l.number).map (·.uid)

/-- A neighbour's full digest: one that differs recalls the launches of the caravan, and the caravan restarts once (R285, R268). -/
def takeDigest (c : BitVec 4) (n : BitVec 8) (k : Word) (prev : Bool) (d : BitVec 128) (s : State) : State :=
  match findCv s c n k with
  | none => s
  | some v =>
    if !forOpen s c k || d = (if prev then v.recv else v.sent) then s
    else recallMany (sliceLaunches s v) (if v.state = 3#3 then [] else [v]) (relErr 10 s)

def execDigestExchange (ctx : BitVec 4) (caravan : BitVec 8) (epoch : Word) (fromPrev : Bool) (digest : BitVec 128)
    (s : State) : Res := .next (takeDigest ctx caravan epoch fromPrev digest s)

/-- STUCK: forwarded and reported (R285). -/
def takeStuck (c : BitVec 4) (k : Word) (s : State) : State := if forOpen s c k then stuckEpoch c (setSealState c 5 s) else s

def execStuck (ctx : BitVec 4) (epoch : Word) (s : State) : Res := .next (takeStuck ctx epoch s)

end Sys2Proof.Machine
end

