-- ==== Sys2Proof/Machine/Recall.lean ====
section
/-! DEFINITION. Recall and replay (spec/10, R277 to R283), the droop alarm (R276, R328) and a stack that fails (R25). -/

namespace Sys2Proof.Machine

def execLaunchRecall (launch : Nat) (s : State) : Res := .next (recallDetected launch s)

/-- A launch that consumed a listed tally is recalled and awaits the sender's REPLAYED (step 1 of R279). -/
def recallConsumer (m : RecallMsg) (src : DevId) (s : State) (l : LaunchS) : State :=
  if l.waits.any fun t => m.tallies.contains t then
    modLaunch (recallLaunch l.uid s) l.uid fun x => { x with
      awaits := if x.awaits.contains (src, m.launch) then x.awaits else x.awaits ++ [(src, m.launch)] }
  else s

/-- RECALL: consumers are recalled, an offer already made is withdrawn, and RECALL_ACK follows, or waits for the root's
acknowledgement (R279). -/
def takeRecall (m : RecallMsg) (src : DevId) (s : State) : State :=
  let s := relErr 5 s
  if !forOpen s m.ctx m.epoch then modRel s fun r => { r with stat := satFld r.stat 31 24 1 }
  else
    let s := ((ctxLaunches s m.ctx).filter fun l => l.epoch == m.epoch).foldl (recallConsumer m src) s
    let s := modSeal (withdrawOffer m.ctx s) m.ctx fun x => { x with ready := false }
    if (ctxU s m.ctx).sealSt.withdrawn then modSeal s m.ctx fun x => { x with owedAcks := x.owedAcks ++ [(src, m)] }
    else sendRecallAck s (src, m)

def execRecall (m : RecallMsg) (src : DevId) (s : State) : Res := .next (takeRecall m src s)

/-- RECALL_ACK: one RECALL of the sender is acknowledged, and the offer may go on (R280). -/
def takeRecallAck (m : RecallMsg) (src : DevId) (s : State) : State :=
  if !forOpen s m.ctx m.epoch then s
  else tryOffer m.ctx (modSeal s m.ctx fun x => { x with recallsOut := x.recallsOut.erase (src, m.launch) })

def execRecallAck (m : RecallMsg) (src : DevId) (s : State) : Res := .next (takeRecallAck m src s)

/-- REPLAYED: launches that await it from that launch of the sender await it no longer (R281). -/
def takeReplayed (m : RecallMsg) (src : DevId) (s : State) : State :=
  { s with launches := s.launches.map fun l =>
      if l.ctx = m.ctx && l.epoch == m.epoch then { l with awaits := l.awaits.erase (src, m.launch) } else l }

def execReplayed (m : RecallMsg) (src : DevId) (s : State) : Res := .next (takeReplayed m src s)

/-- A recalled launch that awaits nothing runs again from its first entry (R281). -/
def replayLaunch (uid : Nat) (s : State) : State :=
  match findLaunch s uid with
  | none => s
  | some l =>
    if l.state = .recalled && l.awaits.isEmpty then
      modLaunch s uid fun l => { l with state := .running, pc := 0, mb := 0, waits := [] }
    else s

def execLaunchReplay (launch : Nat) (s : State) : Res := .next (replayLaunch launch s)

/-- REPLAY_TO without the REPLAYED awaited: the launch is not replayed (R282). -/
def replayLate (uid : Nat) (s : State) : State :=
  match findLaunch s uid with
  | none => s
  | some l =>
    if l.state = .recalled && !l.awaits.isEmpty then
      outstanding l.ctx false (relErr 7 (modLaunch s uid fun l => { l with state := .stopped }))
    else s

def execReplayTimeout (launch : Nat) (s : State) : Res := .next (replayLate launch s)

/-! ## Droop (R276, R328) -/

/-- The issue noted lies in the suspect window of 2^DROOP_WIN engine cycles before now, at the engine clock in force, 156.25
MHz to the rack count, with DROOP_WIN as it is in force for the context (R276, R299, Table 12-5); while the alarm is raised every
issue since it rose is suspect. -/
def inWindow (s : State) (c : Nat) (ctx : BitVec 4) (mark : Nat) : Bool :=
  (clus s c).droop
    || decide ((s.rack.toNat + 1 - mark) * (1800 - 200 * fld s.pwr.dvfs 6 4) * 100 ≤ 2 ^ fld (relCfg s ctx) 29 26 * 15625)

/-- Launches with suspect work on a cluster. -/
def suspectLaunches (s : State) (c : Nat) : List Nat :=
  ((clus s c).recent.filter fun e => match findLaunch s e.1 with
    | some l => inWindow s c l.ctx e.2
    | none => false).map (·.1)

/-- Caravans with a suspect waystation operation on a cluster. -/
def suspectCaravans (s : State) (c : Nat) : List Caravan :=
  s.fab.caravans.filter fun v => v.state != 3#3 && tget 0 v.ops c != 0 && inWindow s c v.ctx (tget 0 v.ops c)

/-- The suspect work of a cluster is undone: launches recalled, caravans restarted without a recall of the launches that feed them
(R276). A restart of a COMPLETE caravan has its own consequence for launches that read the result (R268). -/
def recallSuspects (c : Nat) (s : State) : State :=
  let us := suspectLaunches s c
  let vs := suspectCaravans s c
  if us.isEmpty && vs.isEmpty then s
  else
    let s := relErr 4 s
    let s := us.foldl (fun s u => recallDetected u s) s
    vs.foldl (fun s v => match findCv s v.ctx v.n v.epoch with
      | some w => recallReaders w (restartAt w (w.gen + 1) true s)
      | none => s) s

/-- The cluster's notes of issued work are forgotten. -/
def forgetIssues (c : Nat) (s : State) : State :=
  let s := modClus s c fun x => { x with recent := [] }
  modFab s fun f => { f with caravans := f.caravans.map fun v => { v with ops := tset 0 v.ops c 0 } }

/-- The alarm rises: the work of the window before it is suspect (R276). -/
def raiseDroop (c : Nat) (s : State) : State :=
  if (clus s c).droop then s
  else modClus (forgetIssues c (recallSuspects c s)) c fun x => { x with droop := true }

def execDroopAlarm (cluster : Nat) (s : State) : Res := onUnit 32 cluster s (raiseDroop cluster)

/-- The alarm falls: work that issued while it was raised is suspect too (R276, R328). -/
def fallDroop (c : Nat) (s : State) : State :=
  if (clus s c).droop then modClus (forgetIssues c (recallSuspects c s)) c fun x => { x with droop := false } else s

def execDroopClear (cluster : Nat) (s : State) : Res := onUnit 32 cluster s (fallDroop cluster)

/-! ## A stack fails in service (R25) -/

/-- Its granules read as poisoned zeros and take no store until the next module reset. -/
def execStackFail (stack : Nat) (s : State) : Res :=
  onUnit 8 stack s fun s =>
    if bit s.stacksIn stack then modRel s fun r => { r with badStacks := setBit r.badStacks stack } else s

end Sys2Proof.Machine
end

