-- ==== Sys2Proof/Machine/Dispatch.lean ====
section
/-! DEFINITION. The dispatch of commands: one arm per row of spec/opcode_table.json, each a direct call of its meaning. -/

namespace Sys2Proof.Machine

def exec (i : Instr) (s : State) : Host.Outcome State Fault Refusal :=
  match i with
  | .nop h => Sys2Proof.Machine.execNop h s
  | .devInfo h => Sys2Proof.Machine.execDevInfo h s
  | .devStatus h => Sys2Proof.Machine.execDevStatus h s
  | .devReset h kind => Sys2Proof.Machine.execDevReset h kind s
  | .devShutdown h => Sys2Proof.Machine.execDevShutdown h s
  | .devSleep h wake => Sys2Proof.Machine.execDevSleep h wake s
  | .memWrite h dst len => Sys2Proof.Machine.execMemWrite h dst len s
  | .memRead h src len => Sys2Proof.Machine.execMemRead h src len s
  | .memCopy h src dst len => Sys2Proof.Machine.execMemCopy h src dst len s
  | .memFill h dst len pattern => Sys2Proof.Machine.execMemFill h dst len pattern s
  | .regRead h addr count => Sys2Proof.Machine.execRegRead h addr count s
  | .regWrite h addr value => Sys2Proof.Machine.execRegWrite h addr value s
  | .checkSeal h data plane rows rowBytes kind => Sys2Proof.Machine.execCheckSeal h data plane rows rowBytes kind s
  | .arrayWrite h what => Sys2Proof.Machine.execArrayWrite h what s
  | .arrayCalibrate h first count => Sys2Proof.Machine.execArrayCalibrate h first count s
  | .arrayRefresh h first count => Sys2Proof.Machine.execArrayRefresh h first count s
  | .arrayFence h first count => Sys2Proof.Machine.execArrayFence h first count s
  | .layerRemove h layer => Sys2Proof.Machine.execLayerRemove h layer s
  | .ctxCreate h job zero milestone => Sys2Proof.Machine.execCtxCreate h job zero milestone s
  | .ctxDestroy h => Sys2Proof.Machine.execCtxDestroy h s
  | .launch h manifest bytes => Sys2Proof.Machine.execLaunch h manifest bytes s
  | .ctxStatus h => Sys2Proof.Machine.execCtxStatus h s
  | .coefWrite h clusters row data => Sys2Proof.Machine.execCoefWrite h clusters row data s
  | .ringSet h ring n pos zero list => Sys2Proof.Machine.execRingSet h ring n pos zero list s
  | .linkStatus h => Sys2Proof.Machine.execLinkStatus h s
  | .portRetrain h ports => Sys2Proof.Machine.execPortRetrain h ports s
  | .epochAbandon h => Sys2Proof.Machine.execEpochAbandon h s
  | .unitClear h kind unit column => Sys2Proof.Machine.execUnitClear h kind unit column s
  | .twinPair h => Sys2Proof.Machine.execTwinPair h s
  | .twinTakeover h count entries => Sys2Proof.Machine.execTwinTakeover h count entries s
  | .twinPull h twin => Sys2Proof.Machine.execTwinPull h twin s
  | .twinUnpair h => Sys2Proof.Machine.execTwinUnpair h s
  | .unitFence h kind unit => Sys2Proof.Machine.execUnitFence h kind unit s
  | .pwrLimit h watts => Sys2Proof.Machine.execPwrLimit h watts s
  | .calSystem h => Sys2Proof.Machine.execCalSystem h s
  | .calSave h dst max => Sys2Proof.Machine.execCalSave h dst max s
  | .calRestore h src bytes => Sys2Proof.Machine.execCalRestore h src bytes s
  | .monSample h channel count dst => Sys2Proof.Machine.execMonSample h channel count dst s
  | .attest h nonce => Sys2Proof.Machine.execAttest h nonce s
  | .imageLoad h kind len => Sys2Proof.Machine.execImageLoad h kind len s
  | .logRead h firstSeq max => Sys2Proof.Machine.execLogRead h firstSeq max s
  | .logInfo h => Sys2Proof.Machine.execLogInfo h s
  | .commandWindowWrite off bytes => Sys2Proof.Machine.execCommandWindowWrite off bytes s
  | .commandStart => Sys2Proof.Machine.execCommandStart s
  | .replyPost => Sys2Proof.Machine.execReplyPost s
  | .replyHeadWrite value => Sys2Proof.Machine.execReplyHeadWrite value s
  | .replyWindowWrite off bytes => Sys2Proof.Machine.execReplyWindowWrite off bytes s
  | .dataPortWrite bytes => Sys2Proof.Machine.execDataPortWrite bytes s
  | .dataPortRead n => Sys2Proof.Machine.execDataPortRead n s
  | .dataPortIdleTimeout => Sys2Proof.Machine.execDataPortIdleTimeout s
  | .resync => Sys2Proof.Machine.execResync s
  | .windowARead off n => Sys2Proof.Machine.execWindowARead off n s
  | .unsupportedRequest addr write => Sys2Proof.Machine.execUnsupportedRequest addr write s
  | .configurationRequest reg write => Sys2Proof.Machine.execConfigurationRequest reg write s
  | .hostLinkReset ev => Sys2Proof.Machine.execHostLinkReset ev s
  | .perstDeassert => Sys2Proof.Machine.execPerstDeassert s
  | .hostLinkTrained gen width => Sys2Proof.Machine.execHostLinkTrained gen width s
  | .registerWrite addr value => Sys2Proof.Machine.execRegisterWrite addr value s
  | .rcRead addr => Sys2Proof.Machine.execRcRead addr s
  | .fabTimeLoRead => Sys2Proof.Machine.execFabTimeLoRead s
  | .pwrWatchTimeLoRead => Sys2Proof.Machine.execPwrWatchTimeLoRead s
  | .kick => Sys2Proof.Machine.execKick s
  | .watchdogExpiry => Sys2Proof.Machine.execWatchdogExpiry s
  | .retrain port => Sys2Proof.Machine.execRetrain port s
  | .portDisable port => Sys2Proof.Machine.execPortDisable port s
  | .arrCfgWrite array reg value => Sys2Proof.Machine.execArrCfgWrite array reg value s
  | .arrTrimWrite array p value => Sys2Proof.Machine.execArrTrimWrite array p value s
  | .fmtConfigWrite core entry reg value => Sys2Proof.Machine.execFmtConfigWrite core entry reg value s
  | .tableSlotWrite core slot off value => Sys2Proof.Machine.execTableSlotWrite core slot off value s
  | .tableSumReady core slot => Sys2Proof.Machine.execTableSumReady core slot s
  | .coefRowWrite cluster row off value => Sys2Proof.Machine.execCoefRowWrite cluster row off value s
  | .coefSumReady cluster row => Sys2Proof.Machine.execCoefSumReady cluster row s
  | .passqHostWrite core off value => Sys2Proof.Machine.execPassqHostWrite core off value s
  | .invalidPolicyWrite ctx value => Sys2Proof.Machine.execInvalidPolicyWrite ctx value s
  | .ringCfgWrite ring reg value => Sys2Proof.Machine.execRingCfgWrite ring reg value s
  | .relCfgWrite reg value => Sys2Proof.Machine.execRelCfgWrite reg value s
  | .regionWrite cluster value => Sys2Proof.Machine.execRegionWrite cluster value s
  | .regionSwitchOff cluster r => Sys2Proof.Machine.execRegionSwitchOff cluster r s
  | .regionPowerOn cluster r phaseAmps16 => Sys2Proof.Machine.execRegionPowerOn cluster r phaseAmps16 s
  | .regionPowerOnDone cluster r => Sys2Proof.Machine.execRegionPowerOnDone cluster r s
  | .dvfsRequest value => Sys2Proof.Machine.execDvfsRequest value s
  | .dvfsChange => Sys2Proof.Machine.execDvfsChange s
  | .dvfsSettled => Sys2Proof.Machine.execDvfsSettled s
  | .watchWrite reg value => Sys2Proof.Machine.execWatchWrite reg value s
  | .watchWriteAck reg => Sys2Proof.Machine.execWatchWriteAck reg s
  | .monChselWrite value => Sys2Proof.Machine.execMonChselWrite value s
  | .ctiScaleWrite cluster value => Sys2Proof.Machine.execCtiScaleWrite cluster value s
  | .sidebandRead off => Sys2Proof.Machine.execSidebandRead off s
  | .sidebandWrite off value => Sys2Proof.Machine.execSidebandWrite off value s
  | .sidebandDynamicAddress addr => Sys2Proof.Machine.execSidebandDynamicAddress addr s
  | .inBandInterrupt bit acked => Sys2Proof.Machine.execInBandInterrupt bit acked s
  | .ibiRetry acked => Sys2Proof.Machine.execIbiRetry acked s
  | .productIssue array => Sys2Proof.Machine.execProductIssue array s
  | .arrayRead array analog => Sys2Proof.Machine.execArrayRead array analog s
  | .readCompare array => Sys2Proof.Machine.execReadCompare array s
  | .reRead array analog => Sys2Proof.Machine.execReRead array analog s
  | .productBoundary array => Sys2Proof.Machine.execProductBoundary array s
  | .calReadCountExpiry array => Sys2Proof.Machine.execCalReadCountExpiry array s
  | .calTimerExpiry array => Sys2Proof.Machine.execCalTimerExpiry array s
  | .tjSample cluster celsius => Sys2Proof.Machine.execTjSample cluster celsius s
  | .calSlotFree cluster => Sys2Proof.Machine.execCalSlotFree cluster s
  | .calibrationEnd array fit => Sys2Proof.Machine.execCalibrationEnd array fit s
  | .writeGrant => Sys2Proof.Machine.execWriteGrant s
  | .writeFirstRow array shadow => Sys2Proof.Machine.execWriteFirstRow array shadow s
  | .writeIterationEnd array analog => Sys2Proof.Machine.execWriteIterationEnd array analog s
  | .writeRowEnd array shadow => Sys2Proof.Machine.execWriteRowEnd array shadow s
  | .writeEnd array us => Sys2Proof.Machine.execWriteEnd array us s
  | .wearCopy cluster => Sys2Proof.Machine.execWearCopy cluster s
  | .productPass core feedBubbles => Sys2Proof.Machine.execProductPass core feedBubbles s
  | .imageBuild core => Sys2Proof.Machine.execImageBuild core s
  | .descriptorEnqueue launch core words => Sys2Proof.Machine.execDescriptorEnqueue launch core words s
  | .passIssue core check => Sys2Proof.Machine.execPassIssue core check s
  | .drainRowTake core accept => Sys2Proof.Machine.execDrainRowTake core accept s
  | .engineIdle core => Sys2Proof.Machine.execEngineIdle core s
  | .engineWake core => Sys2Proof.Machine.execEngineWake core s
  | .groupReread core seen => Sys2Proof.Machine.execGroupReread core seen s
  | .add o a b => Sys2Proof.Machine.execAdd o a b s
  | .sub o a b => Sys2Proof.Machine.execSub o a b s
  | .mul o a b => Sys2Proof.Machine.execMul o a b s
  | .fma o a b c => Sys2Proof.Machine.execFma o a b c s
  | .max o a b => Sys2Proof.Machine.execMax o a b s
  | .min o a b => Sys2Proof.Machine.execMin o a b s
  | .abs o a => Sys2Proof.Machine.execAbs o a s
  | .cvt o a => Sys2Proof.Machine.execCvt o a s
  | .recip o a => Sys2Proof.Machine.execRecip o a s
  | .rsqrt o a => Sys2Proof.Machine.execRsqrt o a s
  | .sum o a => Sys2Proof.Machine.execSum o a s
  | .amax o a => Sys2Proof.Machine.execAmax o a s
  | .table o slot a => Sys2Proof.Machine.execTable o slot a s
  | .tableD o slot xs g => Sys2Proof.Machine.execTableD o slot xs g s
  | .wadd core sc header codes own ownHeader => Sys2Proof.Machine.execWadd core sc header codes own ownHeader s
  | .vectorOpReserved core launch code => Sys2Proof.Machine.execVectorOpReserved core launch code s
  | .forward launch form => Sys2Proof.Machine.execForward launch form s
  | .backwardIn launch form => Sys2Proof.Machine.execBackwardIn launch form s
  | .weightGrad launch form => Sys2Proof.Machine.execWeightGrad launch form s
  | .update launch => Sys2Proof.Machine.execUpdate launch s
  | .buildFwd launch check => Sys2Proof.Machine.execBuildFwd launch check s
  | .buildT launch check => Sys2Proof.Machine.execBuildT launch check s
  | .passes launch => Sys2Proof.Machine.execPasses launch s
  | .tallyWait launch => Sys2Proof.Machine.execTallyWait launch s
  | .tallyWaitComplete launch => Sys2Proof.Machine.execTallyWaitComplete launch s
  | .tallySignal launch => Sys2Proof.Machine.execTallySignal launch s
  | .put launch => Sys2Proof.Machine.execPut launch s
  | .stashReserve launch => Sys2Proof.Machine.execStashReserve launch s
  | .launchEnd launch => Sys2Proof.Machine.execLaunchEnd launch s
  | .updatePassEnd launch check => Sys2Proof.Machine.execUpdatePassEnd launch check s
  | .stagingVerifyEnd launch layer ok => Sys2Proof.Machine.execStagingVerifyEnd launch layer ok s
  | .sealOffer ctx => Sys2Proof.Machine.execSealOffer ctx s
  | .ledgerSummary ctx ring epoch fromPrev sum milestone => Sys2Proof.Machine.execLedgerSummary ctx ring epoch fromPrev sum milestone s
  | .offer m src => Sys2Proof.Machine.execOffer m src s
  | .go m => Sys2Proof.Machine.execGo m s
  | .commitTick ctx => Sys2Proof.Machine.execCommitTick ctx s
  | .layerApplyEnd ctx check => Sys2Proof.Machine.execLayerApplyEnd ctx check s
  | .sealTimeout ctx => Sys2Proof.Machine.execSealTimeout ctx s
  | .goQueryTimeout ctx => Sys2Proof.Machine.execGoQueryTimeout ctx s
  | .goQuery ctx epoch milestone src => Sys2Proof.Machine.execGoQuery ctx epoch milestone src s
  | .withdraw ctx epoch src origin => Sys2Proof.Machine.execWithdraw ctx epoch src origin s
  | .withdrawAck ctx epoch => Sys2Proof.Machine.execWithdrawAck ctx epoch s
  | .hold ctx epoch => Sys2Proof.Machine.execHold ctx epoch s
  | .digestExchange ctx caravan epoch fromPrev digest => Sys2Proof.Machine.execDigestExchange ctx caravan epoch fromPrev digest s
  | .stuck ctx epoch => Sys2Proof.Machine.execStuck ctx epoch s
  | .caravanStart ctx caravan epoch => Sys2Proof.Machine.execCaravanStart ctx caravan epoch s
  | .caravanEntryWrite caravan epoch => Sys2Proof.Machine.execCaravanEntryWrite caravan epoch s
  | .tileReady caravan epoch tile => Sys2Proof.Machine.execTileReady caravan epoch tile s
  | .caravanPacket port p => Sys2Proof.Machine.execCaravanPacket port p s
  | .waystationSlotFree cluster => Sys2Proof.Machine.execWaystationSlotFree cluster s
  | .restart ctx caravan epoch gen milestone => Sys2Proof.Machine.execRestart ctx caravan epoch gen milestone s
  | .launchRecall launch => Sys2Proof.Machine.execLaunchRecall launch s
  | .recall m src => Sys2Proof.Machine.execRecall m src s
  | .recallAck m src => Sys2Proof.Machine.execRecallAck m src s
  | .replayed m src => Sys2Proof.Machine.execReplayed m src s
  | .launchReplay launch => Sys2Proof.Machine.execLaunchReplay launch s
  | .replayTimeout launch => Sys2Proof.Machine.execReplayTimeout launch s
  | .droopAlarm cluster => Sys2Proof.Machine.execDroopAlarm cluster s
  | .droopClear cluster => Sys2Proof.Machine.execDroopClear cluster s
  | .stackFail stack => Sys2Proof.Machine.execStackFail stack s
  | .coreSelfTest core => Sys2Proof.Machine.execCoreSelfTest core s
  | .coreSelfTestEnd core pass => Sys2Proof.Machine.execCoreSelfTestEnd core pass s
  | .twinSyncEnd ok => Sys2Proof.Machine.execTwinSyncEnd ok s
  | .mirrorCommit ctx epoch => Sys2Proof.Machine.execMirrorCommit ctx epoch s
  | .landingFree => Sys2Proof.Machine.execLandingFree s
  | .twinHeartbeat port => Sys2Proof.Machine.execTwinHeartbeat port s
  | .peerLost => Sys2Proof.Machine.execPeerLost s
  | .load r => Sys2Proof.Machine.execLoad r s
  | .store r => Sys2Proof.Machine.execStore r s
  | .storeRelease r => Sys2Proof.Machine.execStoreRelease r s
  | .atomAdd r => Sys2Proof.Machine.execAtomAdd r s
  | .atomMax r => Sys2Proof.Machine.execAtomMax r s
  | .atomMin r => Sys2Proof.Machine.execAtomMin r s
  | .atomAnd r => Sys2Proof.Machine.execAtomAnd r s
  | .atomOr r => Sys2Proof.Machine.execAtomOr r s
  | .atomXor r => Sys2Proof.Machine.execAtomXor r s
  | .atomSwap r => Sys2Proof.Machine.execAtomSwap r s
  | .atomCas r => Sys2Proof.Machine.execAtomCas r s
  | .courierStore r => Sys2Proof.Machine.execCourierStore r s
  | .courierAdd r => Sys2Proof.Machine.execCourierAdd r s
  | .reservedAccessType r => Sys2Proof.Machine.execReservedAccessType r s
  | .response p => Sys2Proof.Machine.execResponse p s
  | .responseTimeout tag => Sys2Proof.Machine.execResponseTimeout tag s
  | .timeBeacon high => Sys2Proof.Machine.execTimeBeacon high s
  | .stallNotice tag port => Sys2Proof.Machine.execStallNotice tag port s
  | .flitReceive port f => Sys2Proof.Machine.execFlitReceive port f s
  | .replayRequest port lseq => Sys2Proof.Machine.execReplayRequest port lseq s
  | .packetReceive port vc p flits => Sys2Proof.Machine.execPacketReceive port vc p flits s
  | .flitTransmit port => Sys2Proof.Machine.execFlitTransmit port s
  | .stallTimerExpiry port vc => Sys2Proof.Machine.execStallTimerExpiry port vc s
  | .courierWindowStart => Sys2Proof.Machine.execCourierWindowStart s
  | .courierAdmit port => Sys2Proof.Machine.execCourierAdmit port s
  | .laneFail port lane => Sys2Proof.Machine.execLaneFail port lane s
  | .portTrainEnd port locked eyes => Sys2Proof.Machine.execPortTrainEnd port locked eyes s
  | .eyeWidthMeasure port widths => Sys2Proof.Machine.execEyeWidthMeasure port widths s
  | .frameMark => Sys2Proof.Machine.execFrameMark s
  | .frameMiss => Sys2Proof.Machine.execFrameMiss s
  | .refLost => Sys2Proof.Machine.execRefLost s
  | .refReturn => Sys2Proof.Machine.execRefReturn s
  | .clockLock rref => Sys2Proof.Machine.execClockLock rref s
  | .phaseFault cluster phase => Sys2Proof.Machine.execPhaseFault cluster phase s
  | .uncorePhaseFault phase => Sys2Proof.Machine.execUncorePhaseFault phase s
  | .telemetry watts => Sys2Proof.Machine.execTelemetry watts s
  | .noticeSlot => Sys2Proof.Machine.execNoticeSlot s
  | .noticeBad => Sys2Proof.Machine.execNoticeBad s
  | .ladderCompare => Sys2Proof.Machine.execLadderCompare s
  | .thermalCheck => Sys2Proof.Machine.execThermalCheck s
  | .uv48 => Sys2Proof.Machine.execUv48 s
  | .uv48Lift => Sys2Proof.Machine.execUv48Lift s
  | .vaonLow lost => Sys2Proof.Machine.execVaonLow lost s
  | .overtemp => Sys2Proof.Machine.execOvertemp s
  | .wake => Sys2Proof.Machine.execWake s
  | .twinHb => Sys2Proof.Machine.execTwinHb s
  | .flow => Sys2Proof.Machine.execFlow s
  | .flowTrip => Sys2Proof.Machine.execFlowTrip s
  | .heartbeatStrobe => Sys2Proof.Machine.execHeartbeatStrobe s
  | .mrst => Sys2Proof.Machine.execMrst s
  | .mrstRelease => Sys2Proof.Machine.execMrstRelease s
  | .inputRise => Sys2Proof.Machine.execInputRise s
  | .vaonGood => Sys2Proof.Machine.execVaonGood s
  | .inputLost vaonLost => Sys2Proof.Machine.execInputLost vaonLost s
  | .moduleReset => Sys2Proof.Machine.execModuleReset s
  | .startupBegin => Sys2Proof.Machine.execStartupBegin s
  | .startupPhaseEnd facts => Sys2Proof.Machine.execStartupPhaseEnd facts s
  | .readyReport => Sys2Proof.Machine.execReadyReport s
  | .runningSet => Sys2Proof.Machine.execRunningSet s
  | .channelHandover samples => Sys2Proof.Machine.execChannelHandover samples s
  | .periodicFit => Sys2Proof.Machine.execPeriodicFit s
  | .fitEnd zeroSum fullSum bandgap stopped => Sys2Proof.Machine.execFitEnd zeroSum fullSum bandgap stopped s
  | .traceResult array => Sys2Proof.Machine.execTraceResult array s
  | .traceDeadline array => Sys2Proof.Machine.execTraceDeadline array s
  | .compaction => Sys2Proof.Machine.execCompaction s
  | .twinHeartbeatSend => Sys2Proof.Machine.execTwinHeartbeatSend s
  | .flowPresent => Sys2Proof.Machine.execFlowPresent s

end Sys2Proof.Machine
end

