-- ==== Sys2Proof/WellFormed.lean ====
section
/-! DEFINITION. Well-formed commands: every unit number names a unit of the module, every list has the length that its
row gives it. A command that is not well-formed is no command of the module; where it names no unit its meaning stops. -/

namespace Sys2Proof

/-- The command names units that exist and carries lists of the lengths of its row. -/
def Instr.wf (i : Instr) : Bool :=
  match i with
  | .nop _ => true
  | .devInfo _ => true
  | .devStatus _ => true
  | .devReset _ _ => true
  | .devShutdown _ => true
  | .devSleep _ _ => true
  | .memWrite _ _ _ => true
  | .memRead _ _ _ => true
  | .memCopy _ _ _ _ => true
  | .memFill _ _ _ _ => true
  | .regRead _ _ _ => true
  | .regWrite _ _ _ => true
  | .checkSeal _ _ _ _ _ _ => true
  | .arrayWrite _ _ => true
  | .arrayCalibrate _ _ _ => true
  | .arrayRefresh _ _ _ => true
  | .arrayFence _ _ _ => true
  | .layerRemove _ _ => true
  | .ctxCreate _ _ _ _ => true
  | .ctxDestroy _ => true
  | .launch _ _ _ => true
  | .ctxStatus _ => true
  | .coefWrite _ _ _ data => decide (data.length = 16)
  | .ringSet _ _ _ _ _ _ => true
  | .linkStatus _ => true
  | .portRetrain _ _ => true
  | .epochAbandon _ => true
  | .unitClear _ _ _ _ => true
  | .twinPair _ => true
  | .twinTakeover _ count entries => decide (count.toNat = entries.length)
  | .twinPull _ _ => true
  | .twinUnpair _ => true
  | .unitFence _ _ _ => true
  | .pwrLimit _ _ => true
  | .calSystem _ => true
  | .calSave _ _ _ => true
  | .calRestore _ _ _ => true
  | .monSample _ _ _ _ => true
  | .attest _ nonce => decide (nonce.length = 8)
  | .imageLoad _ _ _ => true
  | .logRead _ _ _ => true
  | .logInfo _ => true
  | .commandWindowWrite off bytes => decide (off.toNat + bytes.length ≤ 4096)
  | .commandStart => true
  | .replyPost => true
  | .replyHeadWrite _ => true
  | .replyWindowWrite off bytes => decide (off.toNat + bytes.length ≤ 4096)
  | .dataPortWrite _ => true
  | .dataPortRead _ => true
  | .dataPortIdleTimeout => true
  | .resync => true
  | .windowARead off n => decide (off.toNat + n ≤ 16384)
  | .unsupportedRequest _ _ => true
  | .configurationRequest _ _ => true
  | .hostLinkReset _ => true
  | .perstDeassert => true
  | .hostLinkTrained _ _ => true
  | .registerWrite _ _ => true
  | .rcRead _ => true
  | .fabTimeLoRead => true
  | .pwrWatchTimeLoRead => true
  | .kick => true
  | .watchdogExpiry => true
  | .retrain port => decide (port < 18)
  | .portDisable port => decide (port < 18)
  | .arrCfgWrite array _ _ => decide (array < 4096)
  | .arrTrimWrite array p _ => decide (array < 4096) && decide (p < 530)
  | .fmtConfigWrite core entry _ _ => decide (core < 512) && decide (entry < 256)
  | .tableSlotWrite core slot _ _ => decide (core < 512) && decide (slot < 4)
  | .tableSumReady core slot => decide (core < 512) && decide (slot < 4)
  | .coefRowWrite cluster row off _ => decide (cluster < 32) && decide (row < 64 ∧ off < 64)
  | .coefSumReady cluster row => decide (cluster < 32) && decide (row < 64)
  | .passqHostWrite core _ _ => decide (core < 512)
  | .invalidPolicyWrite _ _ => true
  | .ringCfgWrite ring _ _ => decide (ring < 16)
  | .relCfgWrite _ _ => true
  | .regionWrite cluster _ => decide (cluster < 32)
  | .regionSwitchOff cluster _ => decide (cluster < 32)
  | .regionPowerOn cluster _ phaseAmps16 => decide (cluster < 32) && decide (phaseAmps16.length = 12)
  | .regionPowerOnDone cluster _ => decide (cluster < 32)
  | .dvfsRequest _ => true
  | .dvfsChange => true
  | .dvfsSettled => true
  | .watchWrite _ _ => true
  | .watchWriteAck _ => true
  | .monChselWrite _ => true
  | .ctiScaleWrite cluster _ => decide (cluster < 32)
  | .sidebandRead _ => true
  | .sidebandWrite _ _ => true
  | .sidebandDynamicAddress _ => true
  | .inBandInterrupt _ _ => true
  | .ibiRetry _ => true
  | .productIssue array => decide (array < 4096)
  | .arrayRead array _ => decide (array < 4096)
  | .readCompare array => decide (array < 4096)
  | .reRead array _ => decide (array < 4096)
  | .productBoundary array => decide (array < 4096)
  | .calReadCountExpiry array => decide (array < 4096)
  | .calTimerExpiry array => decide (array < 4096)
  | .tjSample cluster _ => decide (cluster < 32)
  | .calSlotFree cluster => decide (cluster < 32)
  | .calibrationEnd array _ => decide (array < 4096)
  | .writeGrant => true
  | .writeFirstRow array _ => decide (array < 4096)
  | .writeIterationEnd array _ => decide (array < 4096)
  | .writeRowEnd array _ => decide (array < 4096)
  | .writeEnd array _ => decide (array < 4096)
  | .wearCopy cluster => decide (cluster < 32)
  | .productPass core _ => decide (core < 512)
  | .imageBuild core => decide (core < 512)
  | .descriptorEnqueue _ core _ => decide (core < 512)
  | .passIssue core _ => decide (core < 512)
  | .drainRowTake core _ => decide (core < 512)
  | .engineIdle core => decide (core < 512)
  | .engineWake core => decide (core < 512)
  | .groupReread core _ => decide (core < 512)
  | .add o _ _ => decide (o.core < 512)
  | .sub o _ _ => decide (o.core < 512)
  | .mul o _ _ => decide (o.core < 512)
  | .fma o _ _ _ => decide (o.core < 512)
  | .max o _ _ => decide (o.core < 512)
  | .min o _ _ => decide (o.core < 512)
  | .abs o _ => decide (o.core < 512)
  | .cvt o _ => decide (o.core < 512)
  | .recip o _ => decide (o.core < 512)
  | .rsqrt o _ => decide (o.core < 512)
  | .sum o _ => decide (o.core < 512)
  | .amax o _ => decide (o.core < 512)
  | .table o _ _ => decide (o.core < 512)
  | .tableD o _ _ _ => decide (o.core < 512)
  | .wadd core _ _ codes own _ => decide (core < 512) && decide (codes.length = own.length)
  | .vectorOpReserved core _ _ => decide (core < 512)
  | .forward _ _ => true
  | .backwardIn _ _ => true
  | .weightGrad _ _ => true
  | .update _ => true
  | .buildFwd _ _ => true
  | .buildT _ _ => true
  | .passes _ => true
  | .tallyWait _ => true
  | .tallyWaitComplete _ => true
  | .tallySignal _ => true
  | .put _ => true
  | .stashReserve _ => true
  | .launchEnd _ => true
  | .updatePassEnd _ _ => true
  | .stagingVerifyEnd _ _ _ => true
  | .sealOffer _ => true
  | .ledgerSummary _ _ _ _ _ _ => true
  | .offer _ _ => true
  | .go _ => true
  | .commitTick _ => true
  | .layerApplyEnd _ _ => true
  | .sealTimeout _ => true
  | .goQueryTimeout _ => true
  | .goQuery _ _ _ _ => true
  | .withdraw _ _ _ _ => true
  | .withdrawAck _ _ => true
  | .hold _ _ => true
  | .digestExchange _ _ _ _ _ => true
  | .stuck _ _ => true
  | .caravanStart _ _ _ => true
  | .caravanEntryWrite _ _ => true
  | .tileReady _ _ _ => true
  | .caravanPacket port _ => decide (port < 18)
  | .waystationSlotFree cluster => decide (cluster < 32)
  | .restart _ _ _ _ _ => true
  | .launchRecall _ => true
  | .recall _ _ => true
  | .recallAck _ _ => true
  | .replayed _ _ => true
  | .launchReplay _ => true
  | .replayTimeout _ => true
  | .droopAlarm cluster => decide (cluster < 32)
  | .droopClear cluster => decide (cluster < 32)
  | .stackFail stack => decide (stack < 8)
  | .coreSelfTest core => decide (core < 512)
  | .coreSelfTestEnd core _ => decide (core < 512)
  | .twinSyncEnd _ => true
  | .mirrorCommit _ _ => true
  | .landingFree => true
  | .twinHeartbeat port => decide (port < 18)
  | .peerLost => true
  | .load _ => true
  | .store _ => true
  | .storeRelease _ => true
  | .atomAdd _ => true
  | .atomMax _ => true
  | .atomMin _ => true
  | .atomAnd _ => true
  | .atomOr _ => true
  | .atomXor _ => true
  | .atomSwap _ => true
  | .atomCas _ => true
  | .courierStore _ => true
  | .courierAdd _ => true
  | .reservedAccessType _ => true
  | .response _ => true
  | .responseTimeout _ => true
  | .timeBeacon _ => true
  | .stallNotice _ port => decide (port < 18)
  | .flitReceive port f => decide (port < 18) && decide (f.slot.length = 224) && decide (f.parity.length = 16)
  | .replayRequest port _ => decide (port < 18)
  | .packetReceive port vc _ _ => decide (port < 18) && decide (vc < 16)
  | .flitTransmit port => decide (port < 18)
  | .stallTimerExpiry port _ => decide (port < 18)
  | .courierWindowStart => true
  | .courierAdmit port => decide (port < 18)
  | .laneFail port lane => decide (port < 18) && decide (lane < 8)
  | .portTrainEnd port _ eyes => decide (port < 18) && decide (eyes.length = 8)
  | .eyeWidthMeasure port widths => decide (port < 18) && decide (widths.length = 8)
  | .frameMark => true
  | .frameMiss => true
  | .refLost => true
  | .refReturn => true
  | .clockLock _ => true
  | .phaseFault cluster phase => decide (cluster < 32) && decide (phase < 6)
  | .uncorePhaseFault phase => decide (phase < 24)
  | .telemetry _ => true
  | .noticeSlot => true
  | .noticeBad => true
  | .ladderCompare => true
  | .thermalCheck => true
  | .uv48 => true
  | .uv48Lift => true
  | .vaonLow _ => true
  | .overtemp => true
  | .wake => true
  | .twinHb => true
  | .flow => true
  | .flowTrip => true
  | .heartbeatStrobe => true
  | .mrst => true
  | .mrstRelease => true
  | .inputRise => true
  | .vaonGood => true
  | .inputLost _ => true
  | .moduleReset => true
  | .startupBegin => true
  | .startupPhaseEnd _ => true
  | .readyReport => true
  | .runningSet => true
  | .channelHandover _ => true
  | .periodicFit => true
  | .fitEnd zeroSum fullSum bandgap stopped =>
    stopped || (decide (zeroSum ≤ 4096 * 4095) && decide (fullSum ≤ 4096 * 4095) && decide (bandgap.length = 64))
  | .traceResult array => decide (array < 4096)
  | .traceDeadline array => decide (array < 4096)
  | .compaction => true
  | .twinHeartbeatSend => true
  | .flowPresent => true

end Sys2Proof
end

