-- ==== Sys2Proof/Safety.lean ====
section
/-! DEFINITION. What counts as a safe run, and the words in which claims speak of a command: the parts of the state that
it leaves alone, a packet that is accepted, the reply that answers it. -/

namespace Sys2Proof.Safety

open Sys2Proof.Machine

/-! ## Runs -/

/-- The state that a step answers, none where it stops. -/
def nextOf (s : State) : Option State :=
  match step s with
  | .next t => some t
  | _ => none

/-- The state after n steps, none where one of them stops. -/
def run : Nat → State → Option State
  | 0, s => some s
  | n + 1, s => (nextOf s).bind (run n)

/-- The run goes on for n steps. -/
def Safe (n : Nat) (s : State) : Prop := (run n s).isSome = true

/-- Every command that waits is well-formed. -/
def queueWf (s : State) : Bool := s.pending.all Instr.wf

/-- The hard-wired fields of HST_DEVICE_ID: the part code and the stepping (R4, Table 11-14). -/
abbrev idOk (s : State) : Prop := fld s.deviceId 31 16 = 0xD960 ∧ fld s.deviceId 3 0 = 2

/-- Memory is in canonical form and the hard-wired fields read as the spec says. -/
abbrev Inv (s : State) : Prop := Memory.wf s.mem = true ∧ idOk s

/-- No two launches have the same number in the model, and a number not yet given is above them all. -/
abbrev launchesDistinct (s : State) : Prop := (s.launches.map (·.uid)).Nodup ∧ ∀ l, l ∈ s.launches → l.uid < s.nextUid

/-! ## Frames -/

/-- The kinds of state that the spec names, as a frame lists them. -/
inductive Part where
  | queue | host | ident | writeBudget | arrays | cores | clusters | ports | ctxs | launches | memory | planes | poison
  | stacks | fabric | rel | pwr | sec | mon | time | counters | out
  deriving DecidableEq, Repr

/-- The part is the same in two states; of memory, every byte reads the same. -/
def same (p : Part) (s t : State) : Prop :=
  match p with
  | .queue => t.pending = s.pending
  | .host => t.host = s.host
  | .ident => t.deviceId = s.deviceId ∧ t.topology = s.topology ∧ t.avail = s.avail
  | .writeBudget => t.wbCfg = s.wbCfg ∧ t.wbStat = s.wbStat
  | .arrays => t.arrays = s.arrays
  | .cores => t.cores = s.cores
  | .clusters => t.clusters = s.clusters
  | .ports => t.ports = s.ports
  | .ctxs => t.ctxs = s.ctxs
  | .launches => t.launches = s.launches
  | .memory => ∀ a, memByte t a = memByte s a
  | .planes => t.planes = s.planes
  | .poison => t.poison = s.poison
  | .stacks => t.stacksIn = s.stacksIn
  | .fabric => t.fab = s.fab
  | .rel => t.rel = s.rel
  | .pwr => t.pwr = s.pwr
  | .sec => t.sec = s.sec
  | .mon => t.mon = s.mon
  | .time => t.rack = s.rack ∧ t.watchPhase = s.watchPhase
  | .counters => t.nextUid = s.nextUid ∧ t.commits = s.commits ∧ t.dueSeq = s.dueSeq ∧ t.free = s.free
  | .out => t.out = s.out

/-- From s to t nothing changed outside the listed parts. -/
def Only (ps : List Part) (s t : State) : Prop := ∀ p, p ∉ ps → same p s t

/-! ## Packets and replies (R308 to R314) -/

/-- A packet with this header is taken now, and starts at once: READY is 1, no older command waits to start, and with ORDERED
every older command has been replied (R309, R312). -/
def clear (h : Hdr) (s : State) : Bool :=
  s.host.ready && s.host.taken.isEmpty && (!h.ordered || (s.host.running.isEmpty && s.host.replied.isEmpty))

/-- The packet of an opcode as the module holds it once taken. -/
def pkt (op : Nat) (h : Hdr) (ws : List Word) (s : State) : Packet :=
  { opcode := BitVec.ofNat 16 op, hdr := h, length := BitVec.ofNat 16 (4 * ws.length), resvOk := true, words := ws
    muted := false, seq := s.host.nextSeq }

/-- A packet has been taken: the window reads zero, its header is kept for the black box, and READY reads 1 again unless 256
commands are in flight with it (R309, R312, R388). -/
def accepted (op : Nat) (h : Hdr) (ws : List Word) (s : State) : State :=
  let room := decide (inflight s + 1 < 256)
  { s with
    host := { s.host with window := [], ready := room, full := !room, nextSeq := s.host.nextSeq + 1 }
    sec := { s.sec with headers := lastN 64 (s.sec.headers ++ [headerBytes op h (4 * ws.length)]) } }

/-- A reply with the packet's header fields waits to be posted (Table 11-8). -/
def answered (p : Packet) (status : Nat) (res : List Word) (s : State) : State :=
  { s with host := { s.host with
      replied := s.host.replied ++ [⟨BitVec.ofNat 16 status, p.hdr, p.opcode, res, p.seq⟩] } }

/-- The command runs and waits for what its task names. -/
def working (p : Packet) (task : Task) (s : State) : State :=
  { s with host := { s.host with running := s.host.running ++ [⟨p, task⟩] } }

/-- In state t, reached from s, the packet has been answered with a status and result words, and no other command's place
has changed. -/
def Replied (s t : State) (p : Packet) (status : Nat) (res : List Word) : Prop :=
  t.host.taken = s.host.taken ∧ t.host.running.Perm s.host.running
    ∧ t.host.replied = s.host.replied ++ [⟨BitVec.ofNat 16 status, p.hdr, p.opcode, res, p.seq⟩]

/-- In state t the newest reply is the packet's. -/
def Answers (t : State) (p : Packet) (status : Nat) (res : List Word) : Prop :=
  t.host.replied.getLast? = some ⟨BitVec.ofNat 16 status, p.hdr, p.opcode, res, p.seq⟩

/-- In state t, reached from s, the packet runs with a task. -/
def Runs (s t : State) (p : Packet) (task : Task) : Prop :=
  t.host.taken = s.host.taken ∧ t.host.replied = s.host.replied ∧ t.host.running.Perm (s.host.running ++ [⟨p, task⟩])

/-- The opcode, header and parameter words of a command packet (Table 11-9); none for the other rows. -/
def commandOf (c : Instr) : Option (Nat × Hdr × List Word) :=
  match c with
  | .nop h => some (0x0001, h, [])
  | .devInfo h => some (0x0010, h, [])
  | .devStatus h => some (0x0020, h, [])
  | .devReset h kind => some (0x0030, h, [kind])
  | .devShutdown h => some (0x0040, h, [])
  | .devSleep h wake => some (0x0050, h, [wake])
  | .memWrite h dst len => some (0x1010, h, (two dst ++ two len))
  | .memRead h src len => some (0x1020, h, (two src ++ [len]))
  | .memCopy h src dst len => some (0x1030, h, (two src ++ two dst ++ two len))
  | .memFill h dst len pattern => some (0x1040, h, (two dst ++ two len ++ two pattern))
  | .regRead h addr count => some (0x1050, h, (two addr ++ [count]))
  | .regWrite h addr value => some (0x1060, h, (two addr ++ [value]))
  | .checkSeal h data plane rows rowBytes kind => some (0x1070, h, (two data ++ two plane ++ [rows, rowBytes, kind]))
  | .arrayWrite h what => some (0x2010, h, [what])
  | .arrayCalibrate h first count => some (0x2020, h, [first, count])
  | .arrayRefresh h first count => some (0x2030, h, [first, count])
  | .arrayFence h first count => some (0x2040, h, [first, count])
  | .layerRemove h layer => some (0x2050, h, [layer])
  | .ctxCreate h job zero milestone => some (0x3010, h, ([job, zero] ++ two milestone))
  | .ctxDestroy h => some (0x3020, h, [])
  | .launch h manifest bytes => some (0x3030, h, (two manifest ++ [bytes]))
  | .ctxStatus h => some (0x3040, h, [])
  | .coefWrite h clusters row data => some (0x4010, h, ([clusters, row] ++ data))
  | .ringSet h ring n pos zero list => some (0x5010, h, ([ring, n, pos, zero] ++ two list))
  | .linkStatus h => some (0x5020, h, [])
  | .portRetrain h ports => some (0x5030, h, [ports])
  | .epochAbandon h => some (0x6010, h, [])
  | .unitClear h kind unit column => some (0x6020, h, [kind, unit, column])
  | .twinPair h => some (0x6030, h, [])
  | .twinTakeover h count entries => some (0x6040, h, (count :: entries.flatMap fun e => [e.1, e.2]))
  | .twinPull h twin => some (0x6050, h, [twin])
  | .twinUnpair h => some (0x6060, h, [])
  | .unitFence h kind unit => some (0x6070, h, [kind, unit])
  | .pwrLimit h watts => some (0x7010, h, [watts])
  | .calSystem h => some (0x7020, h, [])
  | .calSave h dst max => some (0x7030, h, (two dst ++ [max]))
  | .calRestore h src bytes => some (0x7040, h, (two src ++ [bytes]))
  | .monSample h channel count dst => some (0x7050, h, ([channel, count] ++ two dst))
  | .attest h nonce => some (0x8010, h, nonce)
  | .imageLoad h kind len => some (0x8020, h, [kind, len])
  | .logRead h firstSeq max => some (0x8030, h, (two firstSeq ++ [max]))
  | .logInfo h => some (0x8040, h, [])
  | _ => none

/-- The packet of a row of Table 11-9, as the module holds it once taken. -/
def pktOf (c : Instr) (s : State) : Packet :=
  match commandOf c with
  | some (op, h, ws) => pkt op h ws s
  | none => pkt 0 ⟨0#16, 0#4, false, false, 0#64⟩ [] s

/-- The state once the packet of a row of Table 11-9 has been taken. -/
def took (c : Instr) (s : State) : State :=
  match commandOf c with
  | some (op, h, ws) => accepted op h ws s
  | none => s

/-- A row of Table 11-9 whose packet is taken now, passes checks 1 to 8 of Table 11-7, and starts at once. -/
def legal (c : Instr) (s : State) : Bool :=
  match commandOf c with
  | some (op, h, ws) => clear h s && takeStatus (pkt op h ws s) s == 0
  | none => false

/-- A range of stack memory of this module, on stacks that all work (R25, Table 1-4). -/
def inStacks (s : State) (a n : Nat) : Bool := decide (a + n ≤ stackBytes s) && s.rel.badStacks == 0#8

/-- The address names a range of this module's stack memory. -/
def ownStacks (s : State) (g : W64) (n : Nat) : Bool := devOf g == ownId s && inStacks s (localOf g) n

/-- No earlier request to a granule of 4 KiB of the range waits or is unanswered, so a request to it goes at once (R223). -/
def unawaited (s : State) (g : W64) (n : Nat) : Bool :=
  ((s.fab.outst.map (·.pkt)).filter (!isMessage ·) ++ s.fab.held.map (·.pkt)).all fun q =>
    devOf q.gaddr != devOf g || decide (localOf q.gaddr / 4096 < localOf g / 4096)
      || decide ((localOf g + n) / 4096 < localOf q.gaddr / 4096)

/-- No granule of a range is poisoned (R287). -/
def unpoisoned (s : State) (a n : Nat) : Bool := (granules a n).all fun g => !isPoisoned s g

/-- A byte of the check plane entry of a group that a store to a range meets: the store brings it up to date (R273). -/
abbrev sealedBy (s : State) (a n b : Nat) : Prop := ∃ g ∈ groupsMet s a n, g.entry ≤ b ∧ b < g.entry + 8

/-- Every byte reads as before but those of a range that is stored to and of its groups' check plane entries. -/
def outside (a n : Nat) (s t : State) : Prop :=
  ∀ b, b < a ∨ a + n ≤ b → ¬ sealedBy s a n b → memByte t b = memByte s b

/-- Every check group that the range meets matches its entry (R274). -/
def intact (s : State) (a n : Nat) : Bool := !(seen s a n).mismatch

/-- No check plane entry of a range's groups lies in another range. -/
abbrev aloof (s : State) (a n b m : Nat) : Prop := ∀ g ∈ groupsMet s a n, m = 0 ∨ g.entry + 8 ≤ b ∨ b + m ≤ g.entry

/-! ## Arrays -/

/-- The array is in service, ACTIVE and powered, stands at a product boundary, and nothing else waits for it (Table 2-9). -/
def idleActive (s : State) (a : Nat) : Bool :=
  let u := arr s a
  !arrFenced s a && arrMode u == 0 && u.cur.isNone && regionOn (arrRegState s (clusterOfArray a)) && !bit u.state 16
    && !u.wantRefresh && !u.wantCal && !u.granted && u.dueOrder.isNone

/-! ## The program of a launch (R169) -/

/-- A running launch works an entry of a phase. -/
abbrev atEntry (s : State) (uid ph : Nat) (l : LaunchS) (e : Prog) : Prop :=
  findLaunch s uid = some l ∧ l.state = .running ∧ l.prog[l.pc]? = some e ∧ e.phase.toNat = ph

/-- The launch once its entry is done. -/
def afterEntry (l : LaunchS) : LaunchS :=
  { l with pc := l.pc + 1, mb := 0, asked := false, tableSlot := none, gather := [], placed := 0 }

/-- The launch once a micro-batch of its entry is done. -/
def afterBatch (l : LaunchS) (e : Prog) : LaunchS :=
  if l.mb + 1 < e.mbCount.toNat then { l with mb := l.mb + 1, asked := false, tableSlot := none, gather := [] } else afterEntry l

/-- Two ranges have no byte in common. -/
abbrev apart (a n b m : Nat) : Prop := a + n ≤ b ∨ b + m ≤ a

/-- A launch may store to the range, which lies in this module's stacks (R167). -/
def storable (s : State) (a n : Nat) : Bool := inStacks s a n && !guarded s a n

/-- The bytes of a row of values, group by group of 32, each through the entry of the core that holds it (R156, R411); a group with
a digital value has the digital tag. -/
def groupBytes (s : State) (l : LaunchS) (entry : Nat) (out : VFmt) (coreAt : Nat → Nat) (vals : List (Pv × Bool)) : List Byte :=
  (List.range (chunks 32 vals).length).flatMap fun g =>
    let vs := (chunks 32 vals).getD g []
    (writeThrough (entryOf s (coreAt (32 * g)) entry) (fmtEpoch s l) out (vs.any (·.2)) (vs.map (·.1))).1

/-! ## Messages (R222, R223) -/

/-- Messages go out in order, each on a channel to a device. -/
def sends (xs : List (Nat × DevId × Msg)) (s : State) : State := xs.foldl (fun s x => sendMsg x.1 x.2.1 x.2.2 s) s

/-- From s to t these messages went out, in order, and nothing else changed in the ports and the fabric. -/
def Sent (xs : List (Nat × DevId × Msg)) (s t : State) : Prop := t.ports = (sends xs s).ports ∧ t.fab = (sends xs s).fab

end Sys2Proof.Safety
end

