-- ==== Sys2Proof/Certificates/Slice0/Obligations.lean ====
section
/-! DEFINITION. The statements for the provers, in the order of OBLIGATIONS.json. Each names the rules of spec/ it rests on; a
clause that rests on a choice of the model names the log entry. -/

open Sys2Proof Sys2Proof.Machine Sys2Proof.Safety

/-- The block's step (asked of every block): the command at the front of the queue is executed with the queue's rest. -/
def Obligations.StepRunsTheFrontCommand : Prop :=
  ∀ (c : Instr) (rest : List Instr) (s : State), s.pending = c :: rest →
    step s = exec c { s with pending := rest }

/-- The model's choice (log entry 3): with no command waiting one tick of the rack reference passes. The rack count advances
while the module is awake (R241), and while VAON is up 2,048 watch ticks pass in 9,765,625 idle steps (R341). -/
def Obligations.IdleStepPassesOneTick : Prop :=
  ∀ s : State, s.pending = [] → s.watchPhase < 9765625 → ∃ t, step s = .next t
    ∧ t.rack = (if s.pwr.state = .awake then s.rack + 1 else s.rack)
    ∧ t.watchPhase < 9765625
    ∧ (s.pwr.vaon = true → 9765625 * (t.pwr.watchTime - s.pwr.watchTime).toNat + t.watchPhase = s.watchPhase + 2048)
    ∧ (s.pwr.vaon = false → t.pwr.watchTime = s.pwr.watchTime)
    ∧ Only [.pwr, .time, .arrays] s t

/-- No well-formed command stops the module: each has an effect, a discard, a response or a status. -/
def Obligations.WellFormedCommandsRun : Prop :=
  ∀ (c : Instr) (s : State), c.wf = true → ∃ t, exec c s = .next t

/-- A command that names a unit beyond Table 1-1 or Table 8-1 stops, and nothing else does. -/
def Obligations.OnlyMissingUnitsStop : Prop :=
  (∀ (c : Instr) (s : State) (f : Fault), exec c s = .fault f → c.wf = false ∧ ∃ n, f = .noSuchUnit n)
    ∧ (∀ (c : Instr) (s : State) (r : Refusal), exec c s ≠ .refused r)
    ∧ (∀ (a : Nat) (s : State), 4096 ≤ a → exec (.productBoundary a) s = .fault (.noSuchUnit a))
    ∧ (∀ (k : Nat) (s : State), 512 ≤ k → exec (.engineIdle k) s = .fault (.noSuchUnit k))
    ∧ (∀ (q : Nat) (s : State), 18 ≤ q → exec (.retrain q) s = .fault (.noSuchUnit q))

/-- Every step keeps memory in canonical form and the hard-wired fields of HST_DEVICE_ID. -/
def Obligations.EveryStepKeepsTheInvariant : Prop :=
  ∀ s t : State, Inv s → step s = .next t → Inv t

/-- The invariant holds after reset. -/
def Obligations.ResetHasTheInvariant : Prop := Inv State.reset

/-- A step takes the front command from the queue and leaves the others in their order. -/
def Obligations.StepTakesOneCommand : Prop :=
  ∀ s t : State, step s = .next t → t.pending = s.pending.tail

/-- R309: a packet that comes while READY is 0 is discarded and sets HST_ERR.CMD_DISCARD (bit 1), and changes nothing else; so is
a write to the command window. -/
def Obligations.PacketsAreDiscardedWhileNotReady : Prop :=
  (∀ (c : Instr) (s : State), (commandOf c).isSome = true → s.host.ready = false →
      exec c s = .next { s with host := { s.host with err := setBit s.host.err 1 } })
    ∧ (∀ (off : BitVec 12) (bytes : List Byte) (s : State), bytes ≠ [] → s.host.ready = false →
      exec (.commandWindowWrite off bytes) s = .next { s with host := { s.host with err := setBit s.host.err 1 } })

/-- Table 11-7: a packet that fails a check is answered with that check's status, in the order of the checks, with no result
words, and it has no effect but the take itself. Checks 1 to 3 cannot fail for a row of Table 11-9; check 9 is the opcodes'. -/
def Obligations.TakenPacketsAreCheckedInOrder : Prop :=
  ∀ (c : Instr) (s : State) (op : Nat) (h : Hdr) (ws : List Word), commandOf c = some (op, h, ws) →
    s.host.ready = true → s.host.taken = [] →
    let refused (status : Nat) : Prop := exec c s = .next (answered (pkt op h ws s) status [] (accepted op h ws s))
    let accepts : Prop := bootPhase s = 8 ∧ s.host.shutdown = false
    let marked : Prop := op ∈ [0x2010, 0x2050, 0x3020, 0x3030, 0x3040, 0x5010, 0x6010]
    -- check 4
    (¬ accepts → op / 4096 ≠ 0 → op / 4096 ≠ 8 → ws.length ≤ 1016 → refused 0x11)
    -- check 5
    ∧ (accepts → (∃ cl row data, c = .coefWrite h cl row data ∧ data.length ≠ 16 ∧ data.length ≤ 1014) → refused 0x21)
    -- check 6
    ∧ (accepts → marked → (ctxU s h.ctx).live = false → refused 0x24)
    -- check 7
    ∧ (accepts → marked → op ≠ 0x3020 → op ≠ 0x3040 → (ctxU s h.ctx).live = true → (ctxU s h.ctx).dead = true → refused 0x72)
    -- check 8
    ∧ (accepts →
        (∃ kind, c = .devReset h kind ∧ kind ≠ 1 ∧ kind ≠ 2) ∨ (∃ wake, c = .devSleep h wake ∧ 64 ≤ wake.toNat)
          ∨ (∃ a n, c = .arrayFence h a n ∧ 4096 < a.toNat + n.toNat) ∨ (∃ ports, c = .portRetrain h ports ∧ 2 ^ 18 ≤ ports.toNat)
          ∨ (∃ twin, c = .twinPull h twin ∧ 2 ^ 18 ≤ twin.toNat) ∨ (∃ k u, c = .unitFence h k u ∧ k ≠ 1 ∧ k ≠ 4)
          ∨ (∃ w, c = .pwrLimit h w ∧ (w.toNat < 600 ∨ 2400 < w.toNat))
          ∨ (∃ a n, c = .regRead h a n ∧ (n = 0 ∨ 12 < n.toNat ∨ a.toNat % 4 ≠ 0 ∨ a.toNat < 0xC0A0000000))
          ∨ (∃ k n, c = .imageLoad h k n ∧ k ≠ 1 ∧ k ≠ 2) ∨ (∃ q n, c = .logRead h q n ∧ (n = 0 ∨ 65536 < n.toNat)) →
        refused 0x23)

/-- Table 11-9, group 0x0: NOP, DEV_INFO, DEV_STATUS, DEV_RESET, DEV_SHUTDOWN and DEV_SLEEP as they complete. A reset that
is already asked for keeps its cause (R399), so DEV_RESET is stated where none is. -/
def Obligations.DeviceCommandsComplete : Prop :=
  ∀ (h : Hdr) (s : State),
    let reply (c : Instr) (status : Nat) (res : List Word) : State := answered (pktOf c s) status res (took c s)
    (legal (.nop h) s = true → exec (.nop h) s = .next (reply (.nop h) 0 []))
    ∧ (legal (.devInfo h) s = true → exec (.devInfo h) s = .next (reply (.devInfo h) 0
        [s.deviceId, s.fab.devid, if bootPhase s = 8 then s.topology else setFld s.topology 1 0 0, s.avail, Config.serialNumber.extractLsb' 0 32, Config.serialNumber.extractLsb' 32 32]))
    ∧ (legal (.devStatus h) s = true → ∃ m : Word, (∀ c : BitVec 4, m.getLsbD c.toNat = (ctxU s c).live) ∧ m.toNat < 2 ^ 16
        ∧ exec (.devStatus h) s = .next (reply (.devStatus h) 0
            [w32 ((if bootPhase s = 8 then 1 else 0) + 16 * bootPhase s), s.host.linkStat, m, s.rel.term]))
    ∧ (∀ kind : Word, legal (.devReset h kind) s = true → s.pwr.state = .awake → s.pwr.resetReq = none →
        exec (.devReset h kind) s = .next { reply (.devReset h kind) 0 [] with
          pwr := { s.pwr with resetReq := some (if kind = 1 then (1#4, 1#2) else (2#4, 2#2)) } })
    ∧ (¬ (2 ≤ bootPhase s ∧ bootPhase s ≤ 7) → anyCtx s = false →
        (legal (.devShutdown h) s = true → ∃ t, exec (.devShutdown h) s = .next t ∧ t.host.shutdown = true
          ∧ Replied s t (pktOf (.devShutdown h) s) 0 [] ∧ Only [.host, .sec, .out] s t)
        ∧ ∀ wake : Word, legal (.devSleep h wake) s = true → ∃ t, exec (.devSleep h wake) s = .next t
          ∧ t.pwr = { s.pwr with watchQ := s.pwr.watchQ ++ [(.ctl, wake, false)], sleepDue := true }
          ∧ Replied s t (pktOf (.devSleep h wake) s) 0 [] ∧ Only [.host, .sec, .out, .pwr] s t)
    ∧ (¬ (2 ≤ bootPhase s ∧ bootPhase s ≤ 7) → anyCtx s = true →
        (legal (.devShutdown h) s = true → exec (.devShutdown h) s = .next (reply (.devShutdown h) 0x25 []))
        ∧ ∀ wake : Word, legal (.devSleep h wake) s = true → exec (.devSleep h wake) s = .next (reply (.devSleep h wake) 0x25 []))

/-- Table 11-9 and R320, the memory commands on this module's stack memory. MEM_WRITE waits for its bytes; MEM_READ stages the
bytes read on the free outbound stream; MEM_COPY and MEM_FILL store every byte of their range and no other, and bring the check
plane entries of its groups up to date (R273). A mover's read of a checked group whose entry does not match is at rest and ends
the command with CHECK_FAIL (R274), so a checked source is stated where its groups match: MEM_COPY of one over one block of 4 KiB,
and over any length where no group covers it. CHECK_SEAL of one group writes its check plane entry and declares the plane (R130,
R272). -/
def Obligations.MemoryCommandsComplete : Prop :=
  ∀ (h : Hdr) (s : State),
    (∀ dst len, legal (.memWrite h dst len) s = true → exec (.memWrite h dst len) s
        = .next (working (pktOf (.memWrite h dst len) s) (.memWrite dst len.toNat 0 [] []) (took (.memWrite h dst len) s)))
    ∧ (∀ src len, legal (.memRead h src len) s = true → s.host.outBound = false → s.host.running.any isOutbound = false →
        ownStacks s src len.toNat = true → unawaited s src len.toNat = true →
        unpoisoned s (localOf src) len.toNat = true → intact s (localOf src) len.toNat = true →
        ∃ t, exec (.memRead h src len) s = .next t
          ∧ t.host.outBuf = (List.range len.toNat).map (fun i => memByte s (localOf src + i)) ∧ t.host.outBound = true
          ∧ Replied s t (pktOf (.memRead h src len) s) 0 [len] ∧ Only [.host, .sec, .fabric, .out] s t)
    ∧ (∀ src dst len, legal (.memCopy h src dst len) s = true →
        ownStacks s src len.toNat = true → ownStacks s dst len.toNat = true → unawaited s src len.toNat = true →
        unawaited s dst len.toNat = true → unpoisoned s (localOf src) len.toNat = true →
        rangesMeet (localOf src) len.toNat (localOf dst) len.toNat = false →
        (groupsMet s (localOf src) len.toNat = [] ∨ (intact s (localOf src) len.toNat = true
          ∧ len.toNat ≤ toBoundary (localOf src) ∧ len.toNat ≤ toBoundary (localOf dst))) →
        aloof s (localOf dst) len.toNat (localOf src) len.toNat → aloof s (localOf dst) len.toNat (localOf dst) len.toNat →
        ∃ t, exec (.memCopy h src dst len) s = .next t
          ∧ (∀ i, i < len.toNat → memByte t (localOf dst + i) = memByte s (localOf src + i))
          ∧ outside (localOf dst) len.toNat s t
          ∧ Replied s t (pktOf (.memCopy h src dst len) s) 0 (words64 len.toNat)
          ∧ Only [.host, .sec, .fabric, .memory, .poison] s t)
    ∧ (∀ dst len pattern, legal (.memFill h dst len pattern) s = true → ownStacks s dst len.toNat = true →
        unawaited s dst len.toNat = true → aloof s (localOf dst) len.toNat (localOf dst) len.toNat →
        ∃ t, exec (.memFill h dst len pattern) s = .next t
          ∧ (∀ i, i < len.toNat → memByte t (localOf dst + i) = pattern.extractLsb' (8 * (i % 8)) 8)
          ∧ outside (localOf dst) len.toNat s t
          ∧ Replied s t (pktOf (.memFill h dst len pattern) s) 0 (words64 len.toNat)
          ∧ Only [.host, .sec, .fabric, .memory, .poison] s t)
    ∧ (∀ data plane rowBytes kind, legal (.checkSeal h data plane 1 rowBytes kind) s = true →
        0 < rowBytes.toNat → rowBytes.toNat ≤ sealGroupBytes kind →
        inStacks s data.toNat rowBytes.toNat = true → inStacks s plane.toNat 8 = true →
        unpoisoned s data.toNat rowBytes.toNat = true →
        ∃ t, exec (.checkSeal h data plane 1 rowBytes kind) s = .next t
          ∧ memGet t plane.toNat 8 = bytesOfWord (crc32c (memGet s data.toNat rowBytes.toNat)) ++ [0#8, 0#8, 0#8, 0#8]
          ∧ outside plane.toNat 8 s t
          ∧ (⟨data.toNat, plane.toNat, 1, rowBytes.toNat, sealGroupBytes kind⟩ : Plane) ∈ t.planes
          ∧ Replied s t (pktOf (.checkSeal h data plane 1 rowBytes kind) s) 0 [1]
          ∧ Only [.host, .sec, .memory, .planes, .poison] s t)

/-- Table 11-9, REG_READ and REG_WRITE. A read answers with the words, and a read of an RC counter (ARR_EVCNT) clears it; a write
has its register's effect before the answer; a write of a watch register waits for its acknowledgement (R30). -/
def Obligations.RegisterCommandsComplete : Prop :=
  ∀ (h : Hdr) (s : State),
    (∀ addr count, legal (.regRead h addr count) s = true →
        ∃ t ws, exec (.regRead h addr count) s = .next t ∧ ws.length = count.toNat
          ∧ Replied s t (pktOf (.regRead h addr count) s) 0 ws
          ∧ Only [.host, .sec, .arrays, .cores, .clusters, .ports, .ctxs, .fabric, .rel, .pwr, .mon] s t)
    ∧ (legal (.regRead h 0xC0A0000000 1) s = true → exec (.regRead h 0xC0A0000000 1) s
        = .next (answered (pktOf (.regRead h 0xC0A0000000 1) s) 0 [s.deviceId] (took (.regRead h 0xC0A0000000 1) s)))
    ∧ (∀ a addr, a < 4096 → addr.toNat = 0xC0A4000018 + 0x1000 * a → legal (.regRead h addr 1) s = true →
        exec (.regRead h addr 1) s = .next (answered (pktOf (.regRead h addr 1) s) 0 [(arr s a).evcnt]
          (modArr (took (.regRead h addr 1) s) a fun u => { u with evcnt := 0#32 })))
    ∧ (∀ addr value, legal (.regWrite h addr value) s = true →
        addr.toNat / 4 * 4 ≠ 0xC0A0002200 → addr.toNat / 4 * 4 ≠ 0xC0A0002204 →
        exec (.regWrite h addr value) s = .next (answered (pktOf (.regWrite h addr value) s) 0 []
          (writeRegister addr.toNat value (took (.regWrite h addr value) s))))
    ∧ (∀ value, legal (.regWrite h 0xC0A0002200 value) s = true → ∃ t, exec (.regWrite h 0xC0A0002200 value) s = .next t
        ∧ Runs s t (pktOf (.regWrite h 0xC0A0002200 value) s) (.watch .ctl)
        ∧ t.pwr = { s.pwr with watchQ := s.pwr.watchQ ++ [(.ctl, value, true)] } ∧ Only [.host, .sec, .pwr] s t)

/-- Table 0-4 and R11 to R14 on registers of each block: W1C clears the bits written with 1 within its mask, an RW field takes a
legal code and discards another with its CFG_DISCARD, a read-only word and an address not listed take nothing. -/
def Obligations.RegisterWritesFollowTheirAccessCodes : Prop :=
  ∀ (s : State) (v : Word) (addr : Addr),
    (addr.toNat = 0xC0A0000120 → exec (.registerWrite addr v) s
        = .next { s with host := { s.host with err := s.host.err &&& ~~~(v &&& 0xFF#32) } })
    ∧ (addr.toNat = 0xC0A0001008 → exec (.registerWrite addr v) s
        = .next { s with rel := { s.rel with err := s.rel.err &&& ~~~(v &&& 0xFFFF#32) } })
    ∧ (addr.toNat = 0xC0A0002010 → exec (.registerWrite addr v) s
        = .next { s with pwr := { s.pwr with err := s.pwr.err &&& ~~~(v &&& 0xFFF#32) } })
    ∧ (∀ a, a < 4096 → addr.toNat = 0xC0A4000014 + 0x1000 * a → exec (.registerWrite addr v) s
        = .next (modArr s a fun u => { u with err := u.err &&& ~~~(v &&& 0xFF#32) }))
    ∧ (addr.toNat = 0xC0A000200C → exec (.registerWrite addr v) s = .next { s with pwr := { s.pwr with
        therm := if 85 ≤ fld v 6 0 ∧ fld v 6 0 ≤ 110 then setFld s.pwr.therm 6 0 (fld v 6 0) else s.pwr.therm
        err := if 85 ≤ fld v 6 0 ∧ fld v 6 0 ≤ 110 then s.pwr.err else setBit s.pwr.err 0 } })
    ∧ (addr.toNat = 0xC0A0000000 ∨ addr.toNat = 0xC0A0000010 ∨ addr.toNat = 0xC0A0F00000 →
        exec (.registerWrite addr v) s = .next s)

/-- R11, R11's RC reads and the latching reads: a read hands out the word, and clears an RC field or latches the high half of the
count it reads (Tables 8-16, 12-14). -/
def Obligations.RegisterReadsHandOutClearAndLatch : Prop :=
  ∀ s : State,
    (∀ (k : Nat) (addr : Addr), k < 512 → addr.toNat = 0xC0A2000010 + 0x10000 * k →
        exec (.rcRead addr) s = .next { (modCore s k fun c => { c with validCnt := 0#32 }) with
          out := .readData (bytesOfWord (core s k).validCnt) :: s.out })
    ∧ (∀ addr : Addr, addr.toNat = 0xC0A000100C → exec (.rcRead addr) s = .next { s with
          rel := { s.rel with detectCnt := 0#32 }, out := .readData (bytesOfWord s.rel.detectCnt) :: s.out })
    ∧ exec .fabTimeLoRead s = .next { s with
          fab := { s.fab with timeHi := s.rack.extractLsb' 32 32 }
          out := .readData (bytesOfWord (s.rack.extractLsb' 0 32)) :: s.out }
    ∧ exec .pwrWatchTimeLoRead s = .next { s with
          pwr := { s.pwr with watchHi := s.pwr.watchTime.extractLsb' 32 32 }
          out := .readData (bytesOfWord (s.pwr.watchTime.extractLsb' 0 32)) :: s.out }
    ∧ exec .kick s = .next { s with pwr := { s.pwr with wdogKick := s.rack } }

/-- Table 11-9, ARRAY_WRITE, ARRAY_CALIBRATE, ARRAY_REFRESH, ARRAY_FENCE: the arrays in service are asked and the command waits for
them, or is answered FENCED_UNIT where none is in service; ARRAY_FENCE fences, reports and records each (R64, R292). -/
def Obligations.ArrayCommandsComplete : Prop :=
  ∀ (h : Hdr) (s : State),
    (∀ what l, legal (.arrayWrite h what) s = true → layerRec s h.ctx (fld what 11 0) = some l →
        let live := (lArrays l).filter fun a => !arrFenced s a
        (live ≠ [] → ∃ t, exec (.arrayWrite h what) s = .next t
          ∧ Runs s t (pktOf (.arrayWrite h what) s) (.arrayWrite live 0 0 (lCount l - live.length) 0)
          ∧ (∀ a, arr t a = if a ∈ live then { arr s a with
                byCommand := some (!bit what 16 || (arr s a).byCommand == some true)
                request := if (arr s a).granted && (arr s a).write.isNone then none
                  else some ((arr s a).request.getD ⟨none, BitVec.ofNat 12 (fld (arr s a).wrcfg 27 16)⟩) } else arr s a)
          ∧ Only [.host, .sec, .arrays] s t)
        ∧ (live = [] → exec (.arrayWrite h what) s = .next (answered (pktOf (.arrayWrite h what) s) 0x60
            [0, 0, w32 (lCount l)] (took (.arrayWrite h what) s))))
    ∧ (∀ first count : Word,
        let range := (List.range count.toNat).map (first.toNat + ·)
        let live := range.filter fun a => !arrFenced s a
        (legal (.arrayCalibrate h first count) s = true → live ≠ [] →
          ∃ t, exec (.arrayCalibrate h first count) s = .next t
            ∧ Runs s t (pktOf (.arrayCalibrate h first count) s) (.arrayCal live 0 (count.toNat - live.length) 0)
            ∧ (∀ a, a ∈ range → idleActive s a = true → arrMode (arr t a) = 2 ∧ fld (arr t a).state 13 11 = 4)
            ∧ (∀ b, b ∉ range → arr t b = arr s b) ∧ Only [.host, .sec, .arrays, .mon] s t)
        ∧ (legal (.arrayRefresh h first count) s = true → live ≠ [] →
          ∃ t, exec (.arrayRefresh h first count) s = .next t
            ∧ Runs s t (pktOf (.arrayRefresh h first count) s) (.arrayCal live 0 (count.toNat - live.length) 0)
            ∧ (∀ a, a ∈ range → idleActive s a = true → arrMode (arr t a) = 3 ∧ fld (arr t a).state 13 11 = 4)
            ∧ (∀ b, b ∉ range → arr t b = arr s b) ∧ Only [.host, .sec, .arrays, .mon] s t)
        ∧ (legal (.arrayCalibrate h first count) s = true → live = [] →
            exec (.arrayCalibrate h first count) s = .next (answered (pktOf (.arrayCalibrate h first count) s)
              (if count = 0 then 0 else 0x60) [0, count, 0] (took (.arrayCalibrate h first count) s)))
        ∧ (legal (.arrayRefresh h first count) s = true → live = [] →
            exec (.arrayRefresh h first count) s = .next (answered (pktOf (.arrayRefresh h first count) s)
              (if count = 0 then 0 else 0x60) [0, count, 0] (took (.arrayRefresh h first count) s))))
    ∧ (∀ first : Word, legal (.arrayFence h first 1) s = true → bit (arr s first.toNat).state 17 = false →
        s.launches = [] → s.host.running = [] →
        ∃ t, exec (.arrayFence h first 1) s = .next t ∧ Answers t (pktOf (.arrayFence h first 1) s) 0 [1]
          ∧ bit (arr t first.toNat).state 17 = true ∧ bit (arr t first.toNat).err 7 = true ∧ (arr t first.toNat).cur = none
          ∧ (∀ b, b ≠ first.toNat → arr t b = arr s b)
          ∧ bit t.rel.err 12 = true ∧ isPermanent t 2#4 first.toNat = true
          ∧ Only [.host, .sec, .arrays, .rel, .ident, .mon, .counters, .out] s t)
    ∧ (∀ first count : Word, legal (.arrayFence h first count) s = true →
        (∀ i, i < count.toNat → bit (arr s (first.toNat + i)).state 17 = true) →
        exec (.arrayFence h first count) s = .next (answered (pktOf (.arrayFence h first count) s) 0 [0]
          (took (.arrayFence h first count) s)))

/-- Table 11-9, LAYER_REMOVE (R166): STATE_CONFLICT while a launch in flight names the layer or an array of it is WRITING; otherwise
the record stops being resident and its arrays read LAYER 0xFFF, WIDTH 0, THRESH 0 and IMAGE_VALID 0 and keep their levels. -/
def Obligations.LayerRemoveClearsTheArrays : Prop :=
  ∀ (h : Hdr) (s : State) (layer : Word) (l : Layer), legal (.layerRemove h layer) s = true →
    layerRec s h.ctx layer.toNat = some l →
    ((layerInUse s h.ctx layer.toNat = true ∨ layerWriting s l = true) → exec (.layerRemove h layer) s
        = .next (answered (pktOf (.layerRemove h layer) s) 0x25 [] (took (.layerRemove h layer) s)))
    ∧ (layerInUse s h.ctx layer.toNat = false → layerWriting s l = false →
        ∃ t, exec (.layerRemove h layer) s = .next t ∧ Answers t (pktOf (.layerRemove h layer) s) 0 []
          ∧ layerRec t h.ctx layer.toNat = none
          ∧ (∀ a, a ∈ lArrays l → fld (arr t a).cfg 27 16 = 0xFFF ∧ fld (arr t a).cfg 15 12 = 0
              ∧ fld (arr t a).wrcfg 8 3 = 0 ∧ bit (arr t a).wrstat 0 = false ∧ (arr t a).image = (arr s a).image)
          ∧ (∀ b, b ∉ lArrays l → arr t b = arr s b)
          ∧ Only [.host, .sec, .arrays, .ctxs, .out] s t)

/-- Table 11-9, CTX_CREATE, CTX_STATUS and CTX_DESTROY (R162, R244): what a context holds when it begins to exist, what its status
reports, and that its end leaves no launch, caravan, record, job id or TERMINATED bit of it. -/
def Obligations.ContextCommandsComplete : Prop :=
  ∀ (h : Hdr) (s : State),
    (∀ job zero milestone, legal (.ctxCreate h job zero milestone) s = true →
        exec (.ctxCreate h job zero milestone) s = .next (if (ctxU s h.ctx).live then
            answered (pktOf (.ctxCreate h job zero milestone) s) 0x24 [] (took (.ctxCreate h job zero milestone) s)
          else answered (pktOf (.ctxCreate h job zero milestone) s) 0 []
            (modCtx (took (.ctxCreate h job zero milestone) s) h.ctx fun x =>
              { x with live := true, begun := false, job := job, milestone := milestone })))
    ∧ (legal (.ctxStatus h) s = true →
        let x := ctxU s h.ctx
        exec (.ctxStatus h) s = .next (answered (pktOf (.ctxStatus h) s) 0
          [x.epoch, x.sealW, w32 ((ctxLaunches s h.ctx).countP inFlight), if x.dead then 1 else 0,
            x.milestone.extractLsb' 0 32, x.milestone.extractLsb' 32 32] (took (.ctxStatus h) s)))
    ∧ (legal (.ctxDestroy h) s = true → (∀ a, arrayWriting s a = false) →
        ∃ t, exec (.ctxDestroy h) s = .next t
          ∧ Answers t (pktOf (.ctxDestroy h) s) 0 [w32 ((ctxLaunches s h.ctx).countP inFlight)]
          ∧ (ctxU t h.ctx).live = false ∧ (ctxU t h.ctx).job = 0 ∧ (ctxU t h.ctx).dead = false ∧ (ctxU t h.ctx).layers = []
          ∧ (∀ l, l ∈ t.launches → l.ctx ≠ h.ctx) ∧ (∀ v, v ∈ t.fab.caravans → v.ctx ≠ h.ctx)
          ∧ bit t.rel.term h.ctx.toNat = false)
    ∧ (legal (.ctxDestroy h) s = true → ctxLaunches s h.ctx = [] → (ctxU s h.ctx).layers = [] →
        (∀ v, v ∈ s.fab.caravans → v.ctx ≠ h.ctx) →
        ∃ t, exec (.ctxDestroy h) s = .next t ∧ Replied s t (pktOf (.ctxDestroy h) s) 0 [0]
          ∧ (∀ c, c ≠ h.ctx → ctxU t c = ctxU s c) ∧ Only [.host, .sec, .ctxs, .fabric, .rel] s t)

/-- Table 11-9, LAUNCH (R163 to R168): BYTES and CONTEXT are checked first, then the manifest, then its admission, each with its
status; a launch that passes runs at once, or is held where its epoch is not open yet or an INTERVAL launch runs (R163, R186). -/
def Obligations.LaunchIsCheckedAndEnters : Prop :=
  ∀ (h : Hdr) (s : State) (addr : W64) (bytes : Word),
    let c := Instr.launch h addr bytes
    let data := memGet s addr.toNat bytes.toNat
    let m := readManifest data
    let refused (status : Nat) : Prop := exec c s = .next (answered (pktOf c s) status [] (took c s))
    legal c s = true → inStacks s addr.toNat bytes.toNat = true → unpoisoned s addr.toNat bytes.toNat = true →
    (bytes.toNat < 64 ∨ bytes.toNat ≠ 64 + 128 * mLayers m + 32 * mProg m ∨ mCtx m ≠ h.ctx.toNat → refused 0x30)
    ∧ (64 ≤ bytes.toNat → bytes.toNat = 64 + 128 * mLayers m + 32 * mProg m → mCtx m = h.ctx.toNat →
        (∀ e, e ∈ m.prog → ePhase e ≠ 7) → (ctxU s h.ctx).begun = true →
        (malformed s h.ctx m = true → refused 0x30)
        ∧ (malformed s h.ctx m = false → tied s h.ctx m = true → refused 0x31)
        ∧ (malformed s h.ctx m = false → tied s h.ctx m = false → epochStale s h.ctx m = true → refused 0x32)
        ∧ (malformed s h.ctx m = false → tied s h.ctx m = false → epochStale s h.ctx m = false →
            fencedRefusal s h.ctx m = true → refused 0x60)
        ∧ (malformed s h.ctx m = false → tied s h.ctx m = false → epochStale s h.ctx m = false →
            fencedRefusal s h.ctx m = false → notWritten s h.ctx m = true → refused 0x33)
        ∧ (malformed s h.ctx m = false → tied s h.ctx m = false → epochStale s h.ctx m = false →
            fencedRefusal s h.ctx m = false → notWritten s h.ctx m = false →
            ∃ t, exec c s = .next t ∧ Runs s t (pktOf c s) (.launch s.nextUid) ∧ t.nextUid = s.nextUid + 1
              ∧ (∃ l, l ∈ t.launches ∧ l.uid = s.nextUid ∧ l.ctx = h.ctx ∧ l.number = BitVec.ofNat 16 (fld (mw m 0) 15 0)
                  ∧ l.epoch = mw m 1 ∧ l.kind = BitVec.ofNat 4 (mKind m) ∧ l.prog = m.prog.map entryOfWords ∧ l.pc = 0
                  ∧ l.state = if mKind m ≠ 4 ∧ (mw m 1 = openEpoch (ctxU s h.ctx) + 1 ∨ intervalRuns s h.ctx = true)
                      then .held else .running)
              ∧ Only [.host, .sec, .launches, .ctxs, .arrays, .clusters, .counters, .ports, .fabric] s t))

/-- Every step keeps the model's own numbers of launches apart, from every state in which they are; the reset state is one. (R163
gives each launch its context and its number there; that the model counts all launches of the module is its own record.) -/
def Obligations.LaunchNumbersStayDistinct : Prop :=
  launchesDistinct State.reset ∧ ∀ s t : State, launchesDistinct s → step s = .next t → launchesDistinct t

/-- Table 11-9, EPOCH_ABANDON (R286): STATE_CONFLICT where no epoch has started; otherwise the open epoch's launches, caravans and
landing sections are gone and COMMITTED stands. -/
def Obligations.EpochAbandonDropsTheOpenEpoch : Prop :=
  ∀ (h : Hdr) (s : State), legal (.epochAbandon h) s = true →
    let x := ctxU s h.ctx
    let mine := (ctxLaunches s h.ctx).filter fun l => l.kind != 4#4 && l.epoch == openEpoch x
    launchesDistinct s →
    (sealState x = 0 → exec (.epochAbandon h) s
        = .next (answered (pktOf (.epochAbandon h) s) 0x25 [] (took (.epochAbandon h) s)))
    ∧ (sealState x ≠ 0 → ∃ t, exec (.epochAbandon h) s = .next t
        ∧ Answers t (pktOf (.epochAbandon h) s) 0 [w32 (mine.countP inFlight)]
        ∧ (ctxU t h.ctx).epoch = x.epoch ∧ (ctxU t h.ctx).milestone = x.milestone
        ∧ sealState (ctxU t h.ctx) = (if sealState x = 2 ∨ sealState x = 5 then 1 else sealState x)
        ∧ (∀ l, l ∈ t.launches → l.ctx = h.ctx → l.epoch = openEpoch x → l.kind = 4#4)
        ∧ (∀ v, v ∈ t.fab.caravans → v.ctx = h.ctx → v.epoch ≠ openEpoch x)
        ∧ tget 0 t.rel.landPos h.ctx.toNat = 0 ∧ (∀ m, m ∈ t.rel.mirrorHeld → m.ctx ≠ h.ctx)
        ∧ Only [.host, .sec, .cores, .clusters, .arrays, .ctxs, .launches, .memory, .poison, .fabric, .rel, .out] s t)

/-- Table 11-9, COEF_WRITE and RING_SET (R210, R252): the row and its sum in every named cluster; the ring's configuration and list
address together, unless a caravan of the ring is RUNNING. -/
def Obligations.CoefficientAndRingCommandsComplete : Prop :=
  ∀ (h : Hdr) (s : State),
    (∀ clusters row data, legal (.coefWrite h clusters row data) s = true →
        (∀ c, c < 32 → bit clusters c = true → clusterOut s c = false) →
        (∀ f, f < 16 → if f = 13 then ctrlBad (data.getD f 0) = false else isFiniteF32 (data.getD f 0) = true) →
        let value (f : Nat) : Word := if f = 13 then data.getD 13 0 &&& 0x0000F3FC#32 else data.getD f 0
        let sum : Word := crc32 ((List.range 16).flatMap fun f => bytesOfWord (value f))
        ∃ t, exec (.coefWrite h clusters row data) s = .next t
          ∧ Replied s t (pktOf (.coefWrite h clusters row data) s) 0 [if clusters = 0 then 0 else sum, 0, 0]
          ∧ (∀ c, c < 32 → bit clusters c = true → tget 0#32 (clus t c).coefSum row.toNat = sum
              ∧ ∀ f, f < 16 → tget 0#32 (clus t c).coef (16 * row.toNat + f) = value f)
          ∧ (∀ c, ¬ (c < 32 ∧ bit clusters c = true) → clus t c = clus s c) ∧ Only [.host, .sec, .clusters] s t)
    ∧ (∀ ring n pos zero list, legal (.ringSet h ring n pos zero list) s = true →
        let g := fld ring 3 0
        exec (.ringSet h ring n pos zero list) s = .next (if ringRuns s g then
            answered (pktOf (.ringSet h ring n pos zero list) s) 0x10 [] (took (.ringSet h ring n pos zero list) s)
          else answered (pktOf (.ringSet h ring n pos zero list) s) 0 []
            { took (.ringSet h ring n pos zero list) s with fab := { s.fab with
              ringCfg := tset 0#32 s.fab.ringCfg g
                (w32 (h.ctx.toNat * 2 ^ 28 + (bit ring 4).toNat * 2 ^ 27 + n.toNat * 2 ^ 13 + pos.toNat))
              ringLo := tset 0#32 s.fab.ringLo g (setFld (list.extractLsb' 0 32) 1 0 0)
              ringHi := tset 0#32 s.fab.ringHi g (w32 (fld list 39 32)) } }))

/-- Table 11-9, LINK_STATUS and PORT_RETRAIN (R214): the state and width of every port; the named ports train while the command
waits. -/
def Obligations.LinkCommandsComplete : Prop :=
  ∀ (h : Hdr) (s : State),
    (legal (.linkStatus h) s = true → ∃ w0 w1 w2 : Word,
        exec (.linkStatus h) s = .next (answered (pktOf (.linkStatus h) s) 0 [w0, w1, w2, s.host.linkStat] (took (.linkStatus h) s))
          ∧ ∀ q, q < 18 → let v := [w0, w1, w2].getD (q / 8) 0
            fld v (4 * (q % 8) + 1) (4 * (q % 8)) = fld (port s q).stat 1 0
              ∧ fld v (4 * (q % 8) + 3) (4 * (q % 8) + 2) = (if lanesUsed (port s q) = 8 then 3
                  else if lanesUsed (port s q) = 4 then 2 else if lanesUsed (port s q) = 2 then 1 else 0))
    ∧ (∀ ports, legal (.portRetrain h ports) s = true →
        let named := (List.range 18).filter fun q => bit ports q
        (∀ q, q ∈ named → bit (port s q).ctl 2 = false ∧ (port s q).queue = []) →
        (named ≠ [] → ∃ t, exec (.portRetrain h ports) s = .next t
          ∧ Runs s t (pktOf (.portRetrain h ports) s) (.retrain named)
          ∧ (∀ q, port t q = if q ∈ named then { port s q with stat := setFld (setFld (port s q).stat 1 0 1) 9 2 0, good := 0xFF#8 } else port s q)
          ∧ Only [.host, .sec, .ports] s t)
        ∧ (named = [] → ∃ res, exec (.portRetrain h ports) s
            = .next (answered (pktOf (.portRetrain h ports) s) 0 res (took (.portRetrain h ports) s))))

/-- Table 11-9, UNIT_CLEAR and UNIT_FENCE (R291, R292, Table 10-4): the unit's history and its permanence go; a core is retested,
the others complete at once. A fence is recorded as permanent and reported. -/
def Obligations.UnitCommandsComplete : Prop :=
  ∀ (h : Hdr) (s : State),
    (∀ unit column, legal (.unitClear h 1 unit column) s = true → clusterOut s (unit.toNat / 16) = false →
        ∃ t, exec (.unitClear h 1 unit column) s = .next t
          ∧ Runs s t (pktOf (.unitClear h 1 unit column) s) (.retest 1#4 unit.toNat)
          ∧ (core t unit.toNat).testDue = true ∧ isPermanent t 1#4 unit.toNat = false
          ∧ (∀ e, e ∈ t.sec.events → ¬ (e.1 = 1#4 ∧ e.2.1 = unit.toNat))
          ∧ (∀ k, k ≠ unit.toNat → core t k = core s k) ∧ Only [.host, .sec, .cores, .out] s t)
    ∧ (∀ unit column, legal (.unitClear h 2 unit column) s = true → coreFenced s (unit.toNat / 8) = false →
        ∃ t, exec (.unitClear h 2 unit column) s = .next t
          ∧ Runs s t (pktOf (.unitClear h 2 unit column) s) (.retest 2#4 unit.toNat)
          ∧ (arr t unit.toNat).retest = true
          ∧ (bit (arr s unit.toNat).state 17 = true → arrMode (arr t unit.toNat) = 3) ∧ isPermanent t 2#4 unit.toNat = false
          ∧ (∀ b, b ≠ unit.toNat → arr t b = arr s b) ∧ Only [.host, .sec, .arrays, .out] s t)
    ∧ (∀ kind unit column : Word, kind = 3 ∨ kind = 4 ∨ kind = 5 → legal (.unitClear h kind unit column) s = true →
        let u := if kind = 3 then 1024 * unit.toNat + column.toNat else unit.toNat
        ∃ t, exec (.unitClear h kind unit column) s = .next t
          ∧ Replied s t (pktOf (.unitClear h kind unit column) s) 0 []
          ∧ isPermanent t (BitVec.ofNat 4 kind.toNat) u = false
          ∧ (∀ e, e ∈ t.sec.events → ¬ (e.1 = BitVec.ofNat 4 kind.toNat ∧ e.2.1 = u))
          ∧ (kind = 4 → bit (port t (u / 8)).badLanes (u % 8) = false)
          ∧ Only [.host, .sec, .ports, .out] s t)
    ∧ (∀ unit, legal (.unitFence h 1 unit) s = true → bit s.rel.coreFence unit.toNat = false → s.launches = [] →
        s.host.running = [] → ∃ t, exec (.unitFence h 1 unit) s = .next t ∧ Answers t (pktOf (.unitFence h 1 unit) s) 0 []
          ∧ bit t.rel.coreFence unit.toNat = true ∧ isPermanent t 1#4 unit.toNat = true ∧ bit t.rel.err 12 = true
          ∧ (∀ i, i < 8 → bit (arr t (8 * unit.toNat + i)).state 17 = true)
          ∧ Only [.host, .sec, .arrays, .cores, .rel, .ident, .counters, .out] s t)
    ∧ (∀ unit, legal (.unitFence h 4 unit) s = true →
        bit (port s (unit.toNat / 8)).stat (2 + unit.toNat % 8) = false → ∃ t, exec (.unitFence h 4 unit) s = .next t
          ∧ Replied s t (pktOf (.unitFence h 4 unit) s) 0 [] ∧ isPermanent t 4#4 unit.toNat = true ∧ bit t.rel.err 12 = true
          ∧ port t (unit.toNat / 8) = { port s (unit.toNat / 8) with
              badLanes := setBit (port s (unit.toNat / 8)).badLanes (unit.toNat % 8)
              good := clrBit (port s (unit.toNat / 8)).good (unit.toNat % 8) }
          ∧ (∀ q, q ≠ unit.toNat / 8 → port t q = port s q) ∧ Only [.host, .sec, .ports, .rel, .out] s t)

/-- Table 11-9, TWIN_PAIR, TWIN_TAKEOVER, TWIN_PULL, TWIN_UNPAIR (R293 to R298). The header words are those of the module's own
caravanserai (Table 10-6). -/
def Obligations.TwinCommandsComplete : Prop :=
  ∀ (h : Hdr) (s : State),
    (legal (.twinPair h) s = true →
      ((twinState s ≠ 0 ∨ bit s.rel.twinCfg 31 = false) → exec (.twinPair h) s
        = .next (answered (pktOf (.twinPair h) s) 0x25 [] (took (.twinPair h) s)))
      ∧ (twinState s = 0 → bit s.rel.twinCfg 31 = true → pairRefused s = true → exec (.twinPair h) s
        = .next (answered (pktOf (.twinPair h) s) 0x23 [] (took (.twinPair h) s)))
      ∧ (twinState s = 0 → bit s.rel.twinCfg 31 = true → pairRefused s = false →
        ∃ t, exec (.twinPair h) s = .next t ∧ twinState t = 1 ∧ Runs s t (pktOf (.twinPair h) s) .twinPair))
    ∧ (∀ c e : Word, legal (.twinTakeover h 1 [(c, e)]) s = true →
      (takeoverCase s c.toNat e.toNat = none → exec (.twinTakeover h 1 [(c, e)]) s
        = .next (answered (pktOf (.twinTakeover h 1 [(c, e)]) s) 0x25 [] (took (.twinTakeover h 1 [(c, e)]) s)))
      ∧ (takeoverCase s c.toNat e.toNat = some true → inStacks s (ownTwinBase s) 0x240 = true →
        aloof s (ownTwinBase s + 0x50 + 32 * c.toNat) 8 (ownTwinBase s + 0x44 + 32 * c.toNat) 4 →
        ∃ t, exec (.twinTakeover h 1 [(c, e)]) s = .next t ∧ headerWord t (0x44 + 32 * c.toNat) = e
          ∧ Replied s t (pktOf (.twinTakeover h 1 [(c, e)]) s) 0 []
          ∧ Only [.host, .sec, .arrays, .memory, .poison, .rel] s t)
      ∧ (takeoverCase s c.toNat e.toNat = some false → ∃ t, exec (.twinTakeover h 1 [(c, e)]) s = .next t
          ∧ Replied s t (pktOf (.twinTakeover h 1 [(c, e)]) s) 0 []
          ∧ Only [.host, .sec, .arrays, .memory, .poison] s t))
    ∧ (∀ twin : Word, legal (.twinPull h twin) s = true →
      (anyCtx s = true → exec (.twinPull h twin) s
        = .next (answered (pktOf (.twinPull h twin) s) 0x25 [] (took (.twinPull h twin) s)))
      ∧ (anyCtx s = false → BitVec.ofNat 18 twin.toNat ≠ ownId s →
          (∀ i, i < 16 → (route s false (BitVec.ofNat 18 twin.toNat) i).isSome = true) →
          ∃ t, exec (.twinPull h twin) s = .next t
            ∧ Runs s t (pktOf (.twinPull h twin) s) (.twinPull (BitVec.ofNat 18 twin.toNat) [.header] [] 0 (some s.fab.nextTag))
            ∧ Only [.host, .sec, .fabric, .ports] s t)
      ∧ (anyCtx s = false → BitVec.ofNat 18 twin.toNat ≠ ownId s →
          (∀ i, i < 16 → route s false (BitVec.ofNat 18 twin.toNat) i = none) →
          ∃ t, exec (.twinPull h twin) s = .next t ∧ Replied s t (pktOf (.twinPull h twin) s) 0x55 [0, 0]
            ∧ bit t.fab.err 1 = true ∧ Only [.host, .sec, .fabric] s t))
    ∧ (legal (.twinUnpair h) s = true →
      (twinState s = 0 → exec (.twinUnpair h) s
        = .next (answered (pktOf (.twinUnpair h) s) 0 [] (took (.twinUnpair h) s)))
      ∧ (twinState s ≠ 0 → s.rel.mirror ≠ [] → exec (.twinUnpair h) s
        = .next (working (pktOf (.twinUnpair h) s) .twinUnpair (took (.twinUnpair h) s)))
      ∧ (twinState s ≠ 0 → s.rel.mirror = [] → s.host.running = [] → ∃ t, exec (.twinUnpair h) s = .next t
          ∧ twinState t = 0 ∧ Replied s t (pktOf (.twinUnpair h) s) 0 []))

/-- The rows of the twins (R293 to R297): the end of the copy, the commit at the partner, a landing that is free, the heartbeat and
its loss. -/
def Obligations.TwinEventsTakeEffect : Prop :=
  ∀ s : State,
    (∀ ok, twinState s ≠ 1 → exec (.twinSyncEnd ok) s = .next s)
    ∧ (∀ ok, twinState s = 1 → ∃ t, exec (.twinSyncEnd ok) s = .next t
        ∧ twinState t = (if ok then 2 else 0) ∧ (∀ r, r ∈ t.host.running → r.task ≠ .twinPair)
        ∧ (ok = false → bit t.rel.err 14 = true) ∧ Only [.host, .rel, .out] s t)
    ∧ (∀ ctx epoch, (twinState s = 0 → exec (.mirrorCommit ctx epoch) s = .next s)
        ∧ (twinState s ≠ 0 → inStacks s (ownTwinBase s) 0x240 = true →
          aloof s (ownTwinBase s + 0x50 + 32 * ctx.toNat) 8 (ownTwinBase s + 0x44 + 32 * ctx.toNat) 4 → ∃ t, exec (.mirrorCommit ctx epoch) s = .next t
          ∧ headerWord t (0x44 + 32 * ctx.toNat) = epoch
          ∧ Only [.arrays, .memory, .poison, .rel, .ports, .fabric] s t))
    ∧ (twinState s = 0 → exec .landingFree s = .next s)
    ∧ (twinState s ≠ 0 → s.rel.mirrorHeld = [] → exec .landingFree s
        = .next { s with rel := { s.rel with busy := [], twinStat := clrBit s.rel.twinStat 29 } })
    ∧ (∀ q, q < 18 → exec (.twinHeartbeat q) s = .next s)
    ∧ ((twinState s = 1 ∨ twinState s = 2) → (∀ r, r ∈ s.host.running → r.task ≠ .twinUnpair) →
        ∃ t, exec .peerLost s = .next t ∧ twinState t = 3 ∧ bit t.rel.err 13 = true ∧ bit t.pwr.sbEvent 0 = true
          ∧ bit t.pwr.watchStat 4 = true ∧ t.rel.mirror = [] ∧ (∀ r, r ∈ t.host.running → r.task ≠ .twinPair)
          ∧ Only [.host, .rel, .pwr, .sec, .ctxs, .ports, .fabric, .out] s t)
    ∧ ((twinState s = 0 ∨ twinState s = 3) → exec .peerLost s = .next s)
    ∧ (twinState s = 0 → exec .twinHeartbeatSend s = .next s)
    ∧ (twinState s ≠ 0 → bit s.rel.twinCfg 30 = false → ∃ t, exec .twinHeartbeatSend s = .next t ∧ Only [.ports, .fabric] s t
        ∧ ∀ q, if (q = 8 ∨ q = 17) ∧ portUp s q = true then
            ∃ i, (port t q).queue = (port s q).queue ++ [i] ∧ i.vc = 0 ∧ i.dst = partner s ∧ i.body = .msg .heartbeat
          else port t q = port s q)
    ∧ (twinState s ≠ 0 → bit s.rel.twinCfg 30 = true →
        exec .twinHeartbeatSend s = .next (sendMsg 0 (partner s) .heartbeat s))

/-- Table 11-9, group 0x7 (R335, R356, R361, R368, R369): the module limit; a calibration and a restore that begin at once where no
fit runs and nothing waits before them; a save that cannot be whole; a monitor sample that asks for the channel. -/
def Obligations.PowerAndCalibrationCommandsComplete : Prop :=
  ∀ (h : Hdr) (s : State),
    (∀ watts, legal (.pwrLimit h watts) s = true → exec (.pwrLimit h watts) s = .next
        (answered (pktOf (.pwrLimit h watts) s) 0 [] { took (.pwrLimit h watts) s with
          pwr := { s.pwr with cfg := setFld s.pwr.cfg 11 0 watts.toNat } }))
    ∧ (legal (.calSystem h) s = true → s.mon.fit = 0#2 → s.host.running = [] → exec (.calSystem h) s
        = .next { working (pktOf (.calSystem h) s) (.calSystem 1 false false 0) (took (.calSystem h) s) with
            mon := { s.mon with fit := 1#2 } })
    ∧ (legal (.calSystem h) s = true → s.mon.fit ≠ 0#2 → exec (.calSystem h) s
        = .next (working (pktOf (.calSystem h) s) (.calSystem 0 false false 0) (took (.calSystem h) s)))
    ∧ (∀ dst max, legal (.calSave h dst max) s = true → max.toNat < 4554944 → exec (.calSave h dst max) s
        = .next (answered (pktOf (.calSave h dst max) s) 0x40 [] (took (.calSave h dst max) s)))
    ∧ (∀ dst max, legal (.calSave h dst max) s = true → 4554944 ≤ max.toNat → inStacks s dst.toNat 4554944 = true →
        (∀ a, a < 4096 → calibrating s a = false) → aloof s dst.toNat 4554944 dst.toNat 4554944 → ∃ t, exec (.calSave h dst max) s = .next t
          ∧ Replied s t (pktOf (.calSave h dst max) s) 0 [4554944]
          ∧ memGet t dst.toNat 24 = leBytes 4 1 ++ leBytes 4 4096 ++ leBytes 8 Config.serialNumber.toNat
              ++ leBytes 8 s.pwr.watchTime.toNat
          ∧ memGet t (dst.toNat + 24) 4 = bytesOfWord (crc32c (memGet t (dst.toNat + 64) 4554880))
          ∧ (∀ a, a < 4096 → memGet t (dst.toNat + 192 + 1112 * a) 1112 = calRecord s a)
          ∧ outside dst.toNat 4554944 s t ∧ Only [.host, .sec, .memory, .poison] s t)
    ∧ (∀ src bytes, legal (.calRestore h src bytes) s = true → s.mon.fit = 0#2 → s.host.running = [] →
        inStacks s src.toNat bytes.toNat = true → unpoisoned s src.toNat bytes.toNat = true →
        memGet s src.toNat 4 ≠ leBytes 4 1 → ∃ t, exec (.calRestore h src bytes) s = .next t
          ∧ Replied s t (pktOf (.calRestore h src bytes) s) 0x23 [] ∧ bit t.mon.err 7 = true ∧ Only [.host, .sec, .mon] s t)
    ∧ (∀ src, legal (.calRestore h src 192) s = true → s.mon.fit = 0#2 → s.host.running = [] →
        inStacks s src.toNat 192 = true → unpoisoned s src.toNat 192 = true →
        readNat s src.toNat 8 = 1 → readNat s (src.toNat + 8) 8 = Config.serialNumber.toNat →
        (memGet s (src.toNat + 28) 36).all (· == 0#8) = true → (memGet s (src.toNat + 84) 44).all (· == 0#8) = true →
        crc32c (memGet s (src.toNat + 64) 128) = readWord s (src.toNat + 24) →
        ∃ t, exec (.calRestore h src 192) s = .next t ∧ Replied s t (pktOf (.calRestore h src 192) s) 0 [0, 0]
          ∧ coefOf t 0 = readWord s (src.toNat + 64) ∧ coefOf t 1 = readWord s (src.toNat + 68)
          ∧ Only [.host, .sec, .mon, .clusters] s t)
    ∧ (∀ channel count dst, legal (.monSample h channel count dst) s = true → s.mon.owner = 0#3 → s.mon.waiting = [] →
        s.host.running = [] → exec (.monSample h channel count dst) s
          = .next { working (pktOf (.monSample h channel count dst) s)
                (.monSample channel.toNat count.toNat dst.toNat 0) (took (.monSample h channel count dst) s) with
              mon := { s.mon with owner := 4#3, chsel := setFld s.mon.chsel 4 0 channel.toNat } })
    ∧ (∀ channel count dst, legal (.monSample h channel count dst) s = true → s.mon.owner ≠ 0#3 →
        exec (.monSample h channel count dst) s
          = .next { working (pktOf (.monSample h channel count dst) s)
                (.monSample channel.toNat count.toNat dst.toNat 0) (took (.monSample h channel count dst) s) with
              mon := { s.mon with waiting := s.mon.waiting ++ [4] } })

/-- Table 11-9, group 0x8 (R376, R381, R389): ATTEST stages the report, its signature and the certificate on the free outbound
stream, or is refused with HW_FAULT and ATTEST_REFUSED where the identity was lost; IMAGE_LOAD waits for its bytes; LOG_READ stages
whole records; LOG_INFO reports the fill. -/
def Obligations.RecordCommandsComplete : Prop :=
  ∀ (h : Hdr) (s : State),
    (∀ nonce, legal (.attest h nonce) s = true → bit s.sec.boot 19 = true → ∃ t, exec (.attest h nonce) s = .next t
        ∧ Replied s t (pktOf (.attest h nonce) s) 0xF0 [] ∧ bit t.sec.err 3 = true ∧ bit t.host.irqCause 7 = true
        ∧ Only [.host, .sec, .out] s t)
    ∧ (∀ nonce, legal (.attest h nonce) s = true → bit s.sec.boot 19 = false → s.host.outBound = false →
        s.host.running.any isOutbound = false → ∃ t n, exec (.attest h nonce) s = .next t
          ∧ t.host.outBuf.take 48 = leBytes 4 1 ++ leBytes 4 Config.certificate.length ++ leBytes 8 Config.serialNumber.toNat
              ++ nonce.flatMap bytesOfWord
          ∧ t.host.outBuf.length = 1024 + Config.certificate.length ∧ n = w32 (1024 + Config.certificate.length)
          ∧ Replied s t (pktOf (.attest h nonce) s) 0 [n] ∧ t.host.outBound = true ∧ Only [.host, .sec, .out] s t)
    ∧ (∀ kind len, legal (.imageLoad h kind len) s = true → exec (.imageLoad h kind len) s
        = .next (working (pktOf (.imageLoad h kind len) s) (.imageLoad (BitVec.ofNat 4 kind.toNat) len.toNat [])
            (took (.imageLoad h kind len) s)))
    ∧ (∀ first max, legal (.logRead h first max) s = true → s.host.outBound = false → s.host.running.any isOutbound = false →
        let rs := (shownRecords s).filter fun r => decide (first.toNat ≤ r.seq.toNat)
        (rs = [] → exec (.logRead h first max) s = .next (answered (pktOf (.logRead h first max) s) 0
          [0, first.extractLsb' 0 32, first.extractLsb' 32 32] (took (.logRead h first max) s)))
        ∧ (∀ r rest, rs = r :: rest → (recordBytes r).length ≤ max.toNat → ∃ t n next, exec (.logRead h first max) s = .next t
          ∧ t.host.outBuf.take (recordBytes r).length = recordBytes r ∧ t.host.outBuf.length ≤ max.toNat
          ∧ n = w32 t.host.outBuf.length ∧ Replied s t (pktOf (.logRead h first max) s) 0 (n :: words64 next)
          ∧ Only [.host, .sec, .out] s t))
    ∧ (legal (.logInfo h) s = true → ∃ first last : Nat, exec (.logInfo h) s = .next (answered (pktOf (.logInfo h) s) 0
          (w32 (min 255 (s.sec.journal.length * 256 / 510)) :: words64 first ++ words64 last) (took (.logInfo h) s))
        ∧ (∀ r, (shownRecords s).head? = some r → first = r.seq.toNat)
        ∧ (∀ r, (shownRecords s).getLast? = some r → last = r.seq.toNat))

/-- R308 to R314, the command and reply windows. Bytes written while READY is 1 are stored; the write that covers the packet's
last byte has it taken, and the window reads zero; the oldest taken command starts when it may; the oldest completed command's
reply goes into the slot of TAIL; HEAD moves on, but not past TAIL; the reply window takes no write. -/
def Obligations.HostWindowsComplete : Prop :=
  ∀ s : State,
    (∀ (off : BitVec 12) (bytes : List Byte), bytes ≠ [] → s.host.ready = true →
        let n := min bytes.length (4096 - off.toNat)
        let h := { s.host with window := putBytes s.host.window off.toNat (bytes.take n) }
        let p := { windowPacket h with seq := s.host.nextSeq }
        (∀ i, windowAt h i = if off.toNat ≤ i ∧ i < off.toNat + n then bytes.getD (i - off.toNat) 0#8 else windowAt s.host i)
        ∧ (covers off.toNat n (packetSize h - 1) = false →
            exec (.commandWindowWrite off bytes) s = .next { s with host := h })
        ∧ (covers off.toNat n (packetSize h - 1) = true → ∃ t, exec (.commandWindowWrite off bytes) s = .next t
            ∧ t.host.window = [] ∧ t.host.running = s.host.running
            ∧ t.host.ready = decide (inflight s + 1 < 256)
            ∧ (takeStatus p s = 0 → t.host.taken = s.host.taken ++ [p] ∧ t.host.replied = s.host.replied)
            ∧ (takeStatus p s ≠ 0 → t.host.taken = s.host.taken ∧ Answers t p (takeStatus p s) [])
            ∧ Only [.host, .sec] s t))
    ∧ (∀ (p : Packet) (rest : List Packet), s.host.taken = p :: rest →
        let u := { s with host := { s.host with taken := rest } }
        (mayStart p s = true → startStatus p u = 0 → exec .commandStart s = .next (performOp p u))
        ∧ (mayStart p s = true → startStatus p u ≠ 0 → exec .commandStart s = .next (finish p (startStatus p u) [] u))
        ∧ (mayStart p s = false → exec .commandStart s = .next s))
    ∧ (∀ (r : Reply) (rest : List Reply), s.host.replied = r :: rest → ringUsed s < 64 → s.host.full = false →
        s.pwr.sleepDue = false → r.status ≠ 0x00F0#16 →
        ∃ t, exec .replyPost s = .next t ∧ t.host.replied = rest
          ∧ t.host.tail = BitVec.ofNat 32 ((fld s.host.tail 6 0 + 1) % 128)
          ∧ (∀ i, tget 0#8 t.host.replies i = if i / 64 = fld s.host.tail 5 0
              then (replyBytes r (fld s.host.tail 6 6)).getD (i % 64) 0#8 else tget 0#8 s.host.replies i)
          ∧ (r.hdr.irq = true → bit t.host.irqCause 0 = true)
          ∧ (r.hdr.irq = false → t.host.irqCause = s.host.irqCause ∧ t.out = s.out)
          ∧ t.host.taken = s.host.taken ∧ t.host.running = s.host.running ∧ t.host.head = s.host.head
          ∧ Only [.host, .out] s t)
    ∧ (ringUsed s = 64 → exec .replyPost s = .next s)
    ∧ (∀ v : Word, (fld v 6 0 + 128 - hostHead s) % 128 ≤ ringUsed s → exec (.replyHeadWrite v) s
        = .next { s with host := { s.host with head := v &&& 0x7F#32 } })
    ∧ (∀ v : Word, ringUsed s < (fld v 6 0 + 128 - hostHead s) % 128 → exec (.replyHeadWrite v) s
        = .next { s with host := { s.host with err := setBit s.host.err 3 } })
    ∧ (∀ (off : BitVec 12) (bytes : List Byte), bytes ≠ [] → exec (.replyWindowWrite off bytes) s
        = .next { s with host := { s.host with err := setBit s.host.err 2 } })

/-- R315 to R318, the data port. Written bytes go to the bound inbound command, or to nobody and are counted; with the last of
them a MEM_WRITE has stored its range and ends; without a byte for IDLE_MS it ends DATA_SHORT and the stream drains. A read
returns the next staged bytes, and all-ones with READ_PAST beyond them; RESYNC frees both streams. -/
def Obligations.HostStreamsComplete : Prop :=
  ∀ s : State,
    (∀ bytes : List (Option Byte), inbound s = none → bytes.filterMap id ≠ [] → exec (.dataPortWrite bytes) s
        = .next { s with host := { s.host with orphan := satWord s.host.orphan (bytes.filterMap id).length } })
    ∧ (∀ (bytes : List (Option Byte)) (r : Run) (dst : W64), inbound s = some r → r.pkt.muted = false →
        r.task = .memWrite dst (bytes.filterMap id).length 0 [] [] →
        ownStacks s dst (bytes.filterMap id).length = true → unawaited s dst (bytes.filterMap id).length = true →
        aloof s (localOf dst) (bytes.filterMap id).length (localOf dst) (bytes.filterMap id).length →
        ∃ t, exec (.dataPortWrite bytes) s = .next t
          ∧ memGet t (localOf dst) (bytes.filterMap id).length = bytes.filterMap id
          ∧ outside (localOf dst) (bytes.filterMap id).length s t
          ∧ t.host.running = s.host.running.erase r ∧ Answers t r.pkt 0 (words64 (bytes.filterMap id).length)
          ∧ Only [.host, .fabric, .memory, .poison] s t)
    ∧ (∀ (r : Run) (dst : W64) (left written : Nat), inbound s = some r → r.pkt.muted = false →
        r.task = .memWrite dst left written [] [] → ∃ t, exec .dataPortIdleTimeout s = .next t
          ∧ t.host.running = s.host.running.erase r ∧ Answers t r.pkt 0x40 (words64 (inboundLen r - left))
          ∧ t.host.draining = true ∧ bit t.host.err 5 = true ∧ bit t.host.irqCause 2 = true ∧ Only [.host, .out] s t)
    ∧ (inbound s = none → exec .dataPortIdleTimeout s = .next s)
    ∧ (∀ n, n < s.host.outBuf.length → exec (.dataPortRead n) s = .next { s with
        out := .readData (s.host.outBuf.take n) :: s.out, host := { s.host with outBuf := s.host.outBuf.drop n } })
    ∧ (∀ n, s.host.outBuf.length = n → s.host.outBound = true → s.host.running.any isOutbound = false →
        exec (.dataPortRead n) s = .next { s with
          out := .readData s.host.outBuf :: s.out, host := { s.host with outBuf := [], outBound := false } })
    ∧ (∀ n, s.host.outBuf = [] → s.host.outBound = false → 0 < n → exec (.dataPortRead n) s = .next { s with
        out := .readData (List.replicate n 0xFF#8) :: s.out, host := { s.host with err := setBit s.host.err 4 } })
    ∧ (s.host.running.any isOutbound = false → exec .resync s
        = .next { s with host := { s.host with draining := false, outBuf := [], outBound := false } })

/-- R300 to R304, R396: the host link. A read of the windows or a register hands out its bytes, a read of another shape all-ones
with READ_SHAPE; a request that hits no BAR is Unsupported; a configuration write changes the writable bits of its dword; a reset
of the link resets the host interface and mutes the commands in flight; training sets HST_LINK_STAT unless PERST# is asserted. -/
def Obligations.HostLinkCommandsComplete : Prop :=
  ∀ s : State,
    (∀ (off : BitVec 14) (n : Nat), (n = 1 ∨ n = 2 ∨ n = 4 ∨ n = 8) → off.toNat % n = 0 → off.toNat < 0x2000 →
        exec (.windowARead off n) s = .next { s with out := .readData ((List.range n).map fun i =>
          if off.toNat < 0x1000 then tget 0#8 s.host.window (off.toNat + i)
          else tget 0#8 s.host.replies (off.toNat + i - 0x1000)) :: s.out })
    ∧ exec (.windowARead 0x2120 4) s = .next { s with out := .readData (bytesOfWord s.host.err) :: s.out }
    ∧ (∀ (off : BitVec 14) (n : Nat), off.toNat < 0x3000 → (n = 3 ∨ n = 16 ∨ (n = 4 ∧ off.toNat % 4 ≠ 0)) →
        exec (.windowARead off n) s = .next { s with
          out := .readData (List.replicate n 0xFF#8) :: s.out, host := { s.host with err := setBit s.host.err 7 } })
    ∧ (∀ off : BitVec 14, 0x3000 ≤ off.toNat → ∀ n, exec (.windowARead off n) s = exec (.dataPortRead n) s)
    ∧ (∀ a w, exec (.unsupportedRequest a w) s = .next { s with out := .unsupported :: s.out })
    ∧ (∀ reg : BitVec 12, exec (.configurationRequest reg none) s = .next { s with
        out := .readData ((List.range 4).map fun i => configByte s (reg.toNat / 4 * 4 + i)) :: s.out })
    ∧ (∀ (reg : BitVec 12) (v : Word), ∃ t, exec (.configurationRequest reg (some v)) s = .next t
        ∧ (∀ i, i < 4 → let a := reg.toNat / 4 * 4 + i
            configByte t a = (configByte s a &&& ~~~Config.configMask a) ||| (v.extractLsb' (8 * i) 8 &&& Config.configMask a))
        ∧ (∀ b, b < reg.toNat / 4 * 4 ∨ reg.toNat / 4 * 4 + 4 ≤ b → configByte t b = configByte s b)
        ∧ t.host = { s.host with config := t.host.config } ∧ Only [.host] s t)
    ∧ (∀ ev : LinkEvent, s.host.running = [] → ∃ t, exec (.hostLinkReset ev) s = .next t
        ∧ t.host.window = [] ∧ t.host.replies = [] ∧ t.host.replied = [] ∧ t.host.running = []
        ∧ t.host.taken = s.host.taken.map (fun p => { p with muted := true })
        ∧ t.host.head = 0#32 ∧ t.host.tail = 0#32 ∧ t.host.irqCause = 0#32 ∧ t.host.msixTab = [] ∧ t.host.msixPba = 0#8
        ∧ t.host.outBuf = [] ∧ t.host.outBound = false ∧ t.host.draining = false
        ∧ t.host.linkUp = (s.host.linkUp && ev == .flr) ∧ t.host.perst = (s.host.perst || ev == .perst)
        ∧ fld t.host.err 5 1 = 0 ∧ bit t.host.err 6 = (bit s.host.err 6 || !s.host.replied.isEmpty)
        ∧ (takesPackets s = true → s.host.taken.length < 256 → t.host.ready = true)
        ∧ t.host.linkStat = s.host.linkStat ∧ Only [.host] s t)
    ∧ exec .perstDeassert s = .next { s with host := { s.host with perst := false } }
    ∧ (∀ (gen : BitVec 3) (width : BitVec 2), s.host.perst = false → gen ≠ 0 → width ≠ 3 →
        ∃ t, exec (.hostLinkTrained gen width) s = .next t ∧ t.host.linkUp = true
          ∧ fld t.host.linkStat 7 5 = gen.toNat ∧ fld t.host.linkStat 4 3 = width.toNat
          ∧ bit t.host.linkStat 2 = decide (6 ≤ gen.toNat) ∧ t.host = { s.host with linkUp := true, linkStat := t.host.linkStat }
          ∧ Only [.host] s t)
    ∧ (∀ gen width, s.host.perst = true → exec (.hostLinkTrained gen width) s = .next s)

/-- R70, R160: the registers of an array and of a tensor entry whose writes wait. SPAN, RANGE, K and ZMAX take effect at the
product boundary at which an idle array stands, and are held while a product runs; a trim waits for the next read and is discarded
in CALIBRATING; an entry's words are written, or held while a launch owns the entry; a code that is not legal sets the flag. -/
def Obligations.HeldRegisterWritesComplete : Prop :=
  ∀ (s : State) (v : Word),
    (∀ a, a < 4096 → idleActive s a = true → (arr s a).cfgHeld = none → (arr s a).chkHeld = none →
        (∃ t, exec (.arrCfgWrite a .cfg v) s = .next t
          ∧ fld (arr t a).cfg 7 6 = (if fld v 7 6 ≤ 2 then fld v 7 6 else fld (arr s a).cfg 7 6)
          ∧ fld (arr t a).cfg 5 3 = (if fld v 5 3 ≤ 5 then fld v 5 3 else fld (arr s a).cfg 5 3)
          ∧ fld (arr t a).cfg 31 8 = fld (arr s a).cfg 31 8 ∧ fld (arr t a).cfg 2 0 = fld (arr s a).cfg 2 0
          ∧ arr t a = { arr s a with cfg := (arr t a).cfg, err := if fld v 7 6 ≤ 2 ∧ fld v 5 3 ≤ 5 then (arr s a).err else setBit (arr s a).err 6 }
          ∧ (∀ b, b ≠ a → arr t b = arr s b) ∧ Only [.arrays] s t)
        ∧ (∃ t, exec (.arrCfgWrite a .chkcfg v) s = .next t
          ∧ fld (arr t a).chkcfg 15 12 = (if 4 ≤ fld v 15 12 then fld v 15 12 else fld (arr s a).chkcfg 15 12)
          ∧ fld (arr t a).chkcfg 11 8 = (if 1 ≤ fld v 11 8 then fld v 11 8 else fld (arr s a).chkcfg 11 8)
          ∧ arr t a = { arr s a with chkcfg := (arr t a).chkcfg, err := if 4 ≤ fld v 15 12 ∧ 1 ≤ fld v 11 8 then (arr s a).err else setBit (arr s a).err 6 }
          ∧ (∀ b, b ≠ a → arr t b = arr s b) ∧ Only [.arrays] s t))
    ∧ (∀ a, a < 4096 → (arr s a).cur.isSome = true → ∃ t, exec (.arrCfgWrite a .cfg v) s = .next t
        ∧ (arr t a).cfg = (arr s a).cfg ∧ (arr t a).cfgHeld.isSome = true ∧ (∀ b, b ≠ a → arr t b = arr s b)
        ∧ Only [.arrays] s t)
    ∧ (∀ a p (w : BitVec 16), a < 4096 → p < 530 → arrMode (arr s a) ≠ 2 → ∃ t, exec (.arrTrimWrite a p w) s = .next t
        ∧ tget 0#16 (arr t a).trimHeld p = w ∧ (∀ q, q ≠ p → tget 0#16 (arr t a).trimHeld q = tget 0#16 (arr s a).trimHeld q)
        ∧ arr t a = { arr s a with trimHeld := (arr t a).trimHeld } ∧ (∀ b, b ≠ a → arr t b = arr s b) ∧ Only [.arrays] s t)
    ∧ (∀ a p (w : BitVec 16), a < 4096 → p < 530 → arrMode (arr s a) = 2 → ∃ t, exec (.arrTrimWrite a p w) s = .next t
        ∧ arr t a = { arr s a with err := setBit (arr s a).err 6 } ∧ (∀ b, b ≠ a → arr t b = arr s b) ∧ Only [.arrays] s t)
    ∧ (∀ k e, k < 512 → e < 256 →
        let old := entryOf s k e
        (bit old.town 31 = false → ∃ t, exec (.fmtConfigWrite k e .tfix v) s = .next t
          ∧ fld (entryOf t k e).tfix 25 16 = fld v 25 16
          ∧ fld (entryOf t k e).tfix 7 0 = (if fld v 7 0 ≤ 254 then fld v 7 0 else fld old.tfix 7 0)
          ∧ entryOf t k e = { old with tfix := (entryOf t k e).tfix, tflag := if fld v 7 0 ≤ 254 then old.tflag else setBit old.tflag 6 }
          ∧ (∀ x, x ≠ e → entryOf t k x = entryOf s k x) ∧ Only [.cores] s t)
        ∧ (bit old.town 31 = true → ∃ t, exec (.fmtConfigWrite k e .tfix v) s = .next t
          ∧ (entryOf t k e).tfix = old.tfix ∧ (entryOf t k e).heldFix.isSome = true ∧ bit (entryOf t k e).tflag 7 = true
          ∧ (∀ x, x ≠ e → entryOf t k x = entryOf s k x) ∧ Only [.cores] s t)
        ∧ (bit old.town 31 = false → fld v 13 12 ≤ 1 → 1 ≤ fld v 8 5 → fld v 1 0 ≤ 2 →
          ∃ t, exec (.fmtConfigWrite k e .tcfg v) s = .next t
          ∧ (entryOf t k e).tcfg &&& 0x00FF3FE3#32 = v &&& 0x00FF3FE3#32
          ∧ (entryOf t k e).tcfg &&& 0xFF00C01C#32 = old.tcfg &&& 0xFF00C01C#32
          ∧ entryOf t k e = { old with tcfg := (entryOf t k e).tcfg } ∧ Only [.cores] s t)
        ∧ (∀ j, j < 16 → bit old.town 31 = false → fld v 8 0 ≤ 277 → ∃ t, exec (.fmtConfigWrite k e (.thist j) v) s = .next t
          ∧ tget 0#16 (entryOf t k e).thist j = v.extractLsb' 0 16
          ∧ (∀ i, i ≠ j → tget 0#16 (entryOf t k e).thist i = tget 0#16 old.thist i)
          ∧ entryOf t k e = { old with thist := (entryOf t k e).thist } ∧ Only [.cores] s t))

/-- R14, R105, R124, R210, R252, R265, R299, R354, R366 and Tables 4-11, 4-13, 7-12, 9-6, 9-8: register rows with a rule of their own. A
table word is written unless an operation on the slot is queued; sums follow; a coefficient field takes finite values; ENG_PASSQ takes none;
a context's policy waits for its commit tick; a ring's registers are kept while its caravan runs; MON_CHSEL while the channel is held. -/
def Obligations.UnitRegisterRowsComplete : Prop :=
  ∀ (s : State) (v : Word),
    (∀ k slot off, k < 512 → slot < 4 → off < 0xC00 → slotBusy s k slot = false →
        ∃ t, exec (.tableSlotWrite k slot off v) s = .next t ∧ slotWord (core t k) slot (off / 4 * 4) = v
          ∧ (∀ b, b / 4 ≠ 0x400 * slot + off / 4 → tget 0#8 (core t k).tables b = tget 0#8 (core s k).tables b)
          ∧ core t k = { core s k with tables := (core t k).tables }
          ∧ (∀ j, j ≠ k → core t j = core s j) ∧ Only [.cores] s t)
    ∧ (∀ k slot off, k < 512 → slot < 4 → off < 0xC18 → slotBusy s k slot = true → exec (.tableSlotWrite k slot off v) s
        = .next (modCore s k fun c => { c with vecErr := setBit c.vecErr 2 }))
    ∧ (∀ k slot, k < 512 → slot < 4 → slotBusy s k slot = false → 7 < fld v 7 0 → fld v 7 0 < 240 →
        exec (.tableSlotWrite k slot 0xC04 v) s = .next (modCore s k fun c => { c with vecErr := setBit c.vecErr 1 }))
    ∧ (∀ k slot, k < 512 → slot < 4 → ∃ t, exec (.tableSumReady k slot) s = .next t
        ∧ tget 0#32 (core t k).tblSum slot = crc32 ((List.range 0xC18).map fun i => tget 0#8 (core s k).tables (0x1000 * slot + i))
        ∧ core t k = { core s k with tblSum := (core t k).tblSum } ∧ (∀ j, j ≠ k → core t j = core s j) ∧ Only [.cores] s t)
    ∧ (∀ c row off, c < 32 → row < 64 → off < 52 → isFiniteF32 v = true → ∃ t, exec (.coefRowWrite c row off v) s = .next t
        ∧ tget 0#32 (clus t c).coef (16 * row + off / 4) = v
        ∧ (∀ i, i ≠ 16 * row + off / 4 → tget 0#32 (clus t c).coef i = tget 0#32 (clus s c).coef i)
        ∧ clus t c = { clus s c with coef := (clus t c).coef } ∧ (∀ d, d ≠ c → clus t d = clus s d) ∧ Only [.clusters] s t)
    ∧ (∀ c row off, c < 32 → row < 64 → off < 52 → isFiniteF32 v = false → exec (.coefRowWrite c row off v) s
        = .next (modClus s c fun u => { u with updErr := setBit u.updErr 0 }))
    ∧ (∀ c row, c < 32 → row < 64 → ∃ t, exec (.coefSumReady c row) s = .next t
        ∧ tget 0#32 (clus t c).coefSum row
          = crc32 ((List.range 16).flatMap fun f => bytesOfWord (tget 0#32 (clus s c).coef (16 * row + f)))
        ∧ clus t c = { clus s c with coefSum := (clus t c).coefSum } ∧ (∀ d, d ≠ c → clus t d = clus s d) ∧ Only [.clusters] s t)
    ∧ (∀ k off, k < 512 → exec (.passqHostWrite k off v) s = .next (modCore s k fun c => { c with engErr := setBit c.engErr 1 }))
    ∧ (∀ c, fld v 1 0 ≠ 3 → exec (.invalidPolicyWrite c v) s
        = .next (modCtx s c fun x => { x with policyHeld := some (v &&& 3#32) }))
    ∧ (∀ c, fld v 1 0 = 3 → exec (.invalidPolicyWrite c v) s
        = .next { s with fab := { s.fab with redErr := setBit s.fab.redErr 0 } })
    ∧ (∀ g, 1 ≤ g → g ≤ 12 → ringRuns s g = false →
        (∃ t, exec (.ringCfgWrite g .listLo v) s = .next t ∧ tget 0#32 t.fab.ringLo g = v &&& 0xFFFFFFFC#32
          ∧ (∀ h, h ≠ g → tget 0#32 t.fab.ringLo h = tget 0#32 s.fab.ringLo h)
          ∧ t.fab = { s.fab with ringLo := t.fab.ringLo } ∧ Only [.fabric] s t)
        ∧ (∃ t, exec (.ringCfgWrite g .listHi v) s = .next t ∧ tget 0#32 t.fab.ringHi g = v &&& 0xFF#32
          ∧ t.fab = { s.fab with ringHi := t.fab.ringHi } ∧ Only [.fabric] s t)
        ∧ (1 ≤ fld v 25 13 → fld v 25 13 ≤ 4096 → fld v 12 0 < fld v 25 13 → ∃ t, exec (.ringCfgWrite g .cfg v) s = .next t
          ∧ fld (tget 0#32 t.fab.ringCfg g) 31 27 = fld v 31 27 ∧ fld (tget 0#32 t.fab.ringCfg g) 25 0 = fld v 25 0
          ∧ t.fab = { s.fab with ringCfg := t.fab.ringCfg } ∧ Only [.fabric] s t))
    ∧ (∀ g r, 1 ≤ g → g ≤ 12 → ringRuns s g = true → exec (.ringCfgWrite g r v) s
        = .next { s with fab := { s.fab with redErr := setBit s.fab.redErr 0 } })
    ∧ (fld v 31 30 ≤ 1 → 6 ≤ fld v 29 26 → fld v 29 26 ≤ 10 → 1 ≤ fld v 25 22 → 1 ≤ fld v 15 0 →
        ∃ t, exec (.relCfgWrite .cfg v) s = .next t
          ∧ fld t.rel.cfg 31 18 = fld v 31 18 ∧ fld t.rel.cfg 15 0 = fld v 15 0
          ∧ (∀ c, (ctxU s c).live = true → relCfg t c = relCfg s c)
          ∧ t.rel = { s.rel with cfg := t.rel.cfg } ∧ Only [.rel, .ctxs] s t)
    ∧ (1 ≤ fld v 23 16 → 1 ≤ fld v 15 8 → 1 ≤ fld v 7 0 → anyCtx s = false → s.rel.histIn = none →
        ∃ t, exec (.relCfgWrite .histCfg v) s = .next t ∧ fld (histCfg t) 23 0 = fld v 23 0
          ∧ t.rel = { s.rel with histCfg := t.rel.histCfg } ∧ Only [.rel] s t)
    ∧ (anyCtx s = true → ∃ t, exec (.relCfgWrite .histCfg v) s = .next t ∧ histCfg t = histCfg s ∧ Only [.rel] s t)
    ∧ (s.mon.owner = 0#3 → exec (.monChselWrite v) s
        = .next { s with mon := { s.mon with chsel := setFld s.mon.chsel 4 0 (fld v 4 0) } })
    ∧ (s.mon.owner ≠ 0#3 → exec (.monChselWrite v) s = .next { s with mon := { s.mon with err := setBit s.mon.err 0 } })
    ∧ (∀ c, c < 32 → 29491 ≤ fld v 15 0 → fld v 15 0 ≤ 36045 → exec (.ctiScaleWrite c v) s
        = .next (modClus s c fun u => { u with ctiScale := v &&& 0xFFFF#32 }))
    ∧ (∀ c, c < 32 → (fld v 15 0 < 29491 ∨ 36045 < fld v 15 0) → exec (.ctiScaleWrite c v) s
        = .next { s with mon := { s.mon with err := setBit s.mon.err 0 } })

/-- R214, R215, R222, R223 and Table 10-4: a port that leaves service. A RETRAIN, a failed lane, a DISABLE: the port's state and
lanes; what is queued and not yet sent moves to the port that R223 gives; a request sent there is answered LINK_DOWN; a training
ends at the widest width its good lanes allow and replays what was not acknowledged, or down where no lane is locked with an eye of
32/128 UI; an eye measurement fills the lane words. -/
def Obligations.PortRowsComplete : Prop :=
  ∀ (s : State) (q : Nat), q < 18 →
    let x := port s q
    let away := x.queue.filter fun i => i.sent == 0
    let here := s.fab.outst.filter fun o => o.port == q
    (bit x.ctl 2 = false → away = [] → ∃ t, exec (.retrain q) s = .next t
        ∧ port t q = { x with stat := setFld (setFld x.stat 1 0 1) 9 2 0, good := 0xFF#8 }
        ∧ (∀ p, p ≠ q → port t p = port s p) ∧ Only [.ports] s t)
    ∧ (∀ (i : QItem) (m : Msg) (p : Nat), bit x.ctl 2 = false → x.queue = [i] → i.sent = 0 → i.body = .msg m → p ≠ q →
        let u := modPort s q fun x => setPortState 1 { x with queue := [] }
        route u i.die i.dst (itemIndex u i) = some p → ∃ t, exec (.retrain q) s = .next t
          ∧ port t p = { port s p with queue := insertItem { i with admitted := false } (port s p).queue }
          ∧ port t q = { x with queue := [], stat := setFld (setFld x.stat 1 0 1) 9 2 0, good := 0xFF#8 }
          ∧ (∀ r, r ≠ q → r ≠ p → port t r = port s r)
          ∧ (∀ o, outstOf s i = some o → { o with port := p } ∈ t.fab.outst) ∧ Only [.ports, .fabric] s t)
    ∧ (bit x.ctl 2 = true → exec (.retrain q) s = .next s)
    ∧ (away = [] → here = [] → ∃ t, exec (.portDisable q) s = .next t
        ∧ port t q = { x with
            ctl := setBit x.ctl 2, stat := setFld (setFld x.stat 1 0 3) 9 2 0, queue := [], retry := [], replay := []
            psnOut := x.queue.foldl (fun n i => tmod 0#16 n i.vc (· + 1)) x.psnOut }
        ∧ (∀ p, p ≠ q → port t p = port s p) ∧ Only [.ports] s t)
    ∧ (∀ o, away = [] → s.fab.outst = [o] → o.port = q → s.fab.held = [] → s.host.running = [] → s.launches = [] →
        s.rel.mirror = [] → ∃ t, exec (.portDisable q) s = .next t
          ∧ t.fab = { s.fab with
              outst := [], answers := if isMessage o.pkt then s.fab.answers else s.fab.answers ++ [⟨o.tag, 7#4, false, []⟩] }
          ∧ fld (port t q).stat 1 0 = 3 ∧ Only [.ports, .fabric] s t)
    ∧ (∀ l, l < 8 → bit x.stat (2 + l) = true → away = [] → here = [] →
        let left := widthLanes (clrBit x.good l).toNat
        ∃ t, exec (.laneFail q l) s = .next t ∧ bit (port t q).err 4 = true
          ∧ fld (port t q).stat 1 0 = (if left = 0 ∨ laneCount left < minLanes x then 0 else 1)
          ∧ (left = 0 ∨ laneCount left < minLanes x → bit (port t q).err 2 = true ∧ fld (port t q).stat 9 2 = 0)
          ∧ (∃ a b, t.sec.events = s.sec.events ++ [(4#4, a, b)] ∧ a = 8 * q + l)
          ∧ (∀ p, p ≠ q → port t p = port s p) ∧ Only [.ports, .sec, .host, .out] s t)
    ∧ (∀ l, l < 8 → bit x.stat (2 + l) = false → exec (.laneFail q l) s
        = .next (modPort s q fun x => { x with good := clrBit x.good l }))
    ∧ (∀ l, 8 ≤ l → exec (.laneFail q l) s = .next s)
    ∧ (∀ eyes : List Byte, fld x.stat 1 0 = 1 → x.good = 0xFF#8 → x.badLanes = 0#8 → fld x.ctl 1 0 ≤ 2 → s.host.running = [] →
        (∀ l, l < 8 → 32 ≤ (eyes.getD l 0#8).toNat) → ∃ t, exec (.portTrainEnd q 0xFF eyes) s = .next t
          ∧ fld (port t q).stat 1 0 = 2 ∧ fld (port t q).stat 9 2 = 0xFF
          ∧ fld (port t q).stat 11 10 = (if q = 8 ∨ q = 17 then 2 else 1)
          ∧ fld (port t q).stat 29 12 = (if q = 8 ∨ q = 17 then fld s.rel.twinCfg 17 0 else 0x3FFFF)
          ∧ (∀ l, l < 8 → tget 0 (port t q).narrow l = 0)
          ∧ (∀ l, l < 8 → tget 0#32 (port t q).lanes l = setFld (tget 0#32 x.lanes l) 23 16 (eyes.getD l 0#8).toNat)
          ∧ port t q = { x with
              stat := (port t q).stat, narrow := (port t q).narrow, lanes := (port t q).lanes, wasUsed := 0xFF#8
              replay := x.retry.filter fun e => ofPacket e.2 }
          ∧ (∀ p, p ≠ q → port t p = port s p) ∧ Only [.ports] s t)
    ∧ (∀ (locked : Byte) (eyes : List Byte), fld x.stat 1 0 = 1 → away = [] → here = [] → s.host.running = [] →
        (∀ l, l < 8 → bit locked l = false ∨ (eyes.getD l 0#8).toNat < 32) → ∃ t, exec (.portTrainEnd q locked eyes) s = .next t
        ∧ fld (port t q).stat 1 0 = 0 ∧ fld (port t q).stat 9 2 = 0 ∧ bit (port t q).err 2 = true
        ∧ (∀ p, p ≠ q → port t p = port s p) ∧ Only [.ports, .sec, .host, .out] s t)
    ∧ (fld x.stat 1 0 = 2 → ∀ widths, ∃ t, exec (.eyeWidthMeasure q widths) s = .next t
        ∧ (∀ l, l < 8 → tget 0#32 (port t q).lanes l = setFld (tget 0#32 x.lanes l) 23 16 (widths.getD l 0#8).toNat)
        ∧ port t q = { x with lanes := (port t q).lanes } ∧ (∀ p, p ≠ q → port t p = port s p) ∧ Only [.ports] s t)

/-- R332 to R340 and Tables 12-2, 12-5, 12-7: the regions of a cluster and the operating point. A region asked on waits for its power-on,
which begins with a load notice and ends with empty memories; one asked off goes off when nothing holds it. A required point that
differs is moved to while nothing slews and, unless it protects, no notice went out in the last 2 µs and no move began in the last
100 µs (Table 12-12; log entry 55). The loads that a power-on announces are free values (log entry 5). -/
def Obligations.RegionAndPointRowsComplete : Prop :=
  ∀ s : State,
    (∀ c, c < 32 →
        let w := (clus s c).region
        let lost (r : Region) (a : Nat) : Prop := r = .digital ∧ match areaOf a with
          | .store d => d = c
          | .scratch k => k / 16 = c
          | _ => False
        (∀ v : Word, bit w 16 = true → exec (.regionWrite c v) s = .next { s with pwr := { s.pwr with err := setBit s.pwr.err 0 } })
        ∧ (bit w 16 = false → fld w 9 6 = 0 → ∃ t, exec (.regionWrite c 3) s = .next t
            ∧ fld (clus t c).region 9 6 = 5 ∧ fld (clus t c).region 1 0 = 3
            ∧ fld (clus t c).region 31 10 = fld w 31 10 ∧ fld (clus t c).region 5 2 = fld w 5 2
            ∧ (∀ d, d ≠ c → clus t d = clus s d) ∧ Only [.clusters] s t)
        ∧ (bit w 16 = false → fld w 9 6 = 10 → fld w 1 0 = 3 → ∃ t, exec (.regionWrite c 0) s = .next t
            ∧ fld (clus t c).region 9 6 = (if regionHeld s c = true then 15 else 0) ∧ fld (clus t c).region 1 0 = 0
            ∧ (regionHeld s c = true → Only [.clusters] s t)
            ∧ Only [.clusters, .memory, .poison] s t)
        ∧ (∀ r, regState r w = 3 → regionHeld s c = false → ∃ t, exec (.regionSwitchOff c r) s = .next t
            ∧ (clus t c).region = setRegState r 0 w ∧ clus t c = { clus s c with region := (clus t c).region }
            ∧ (∀ a, lost r a → memByte t a = 0#8) ∧ (∀ a, ¬ lost r a → memByte t a = memByte s a)
            ∧ (∀ d, d ≠ c → clus t d = clus s d) ∧ Only [.clusters, .memory, .poison] s t)
        ∧ (∀ r, regionHeld s c = true → exec (.regionSwitchOff c r) s = .next s)
        ∧ (∀ r amps, regState r w = 1 → begun r (clus s c) = false → bit w 16 = false →
            ∃ t n, exec (.regionPowerOn c r amps) s = .next t ∧ clus t c = setBegun r true (clus s c)
              ∧ t.pwr.notices.Perm (n :: s.pwr.notices) ∧ n.rank = 4 ∧ n.due = s.rack.toNat ∧ fld n.frame 31 30 = 0
              ∧ fld n.frame 29 27 = (if r = .digital then 0 else 2) ∧ fld n.frame 26 21 = c
              ∧ (bit t.pwr.err 9 = (bit s.pwr.err 9 || (r == .digital && neighbourHot s c amps)))
              ∧ (∀ d, d ≠ c → clus t d = clus s d) ∧ Only [.clusters, .pwr, .counters] s t)
        ∧ (∀ r, noticeUnsent s (if r = .digital then 0 else 2) c = true → exec (.regionPowerOnDone c r) s = .next s)
        ∧ (∀ r, regState r w = 1 → begun r (clus s c) = true → bit w (onBit r) = true →
            noticeUnsent s (if r = .digital then 0 else 2) c = false →
            ∃ t, exec (.regionPowerOnDone c r) s = .next t ∧ (clus t c).region = setRegState r 2 w
              ∧ begun r (clus t c) = false
              ∧ (∀ a, lost r a → memByte t a = 0#8) ∧ (∀ a, ¬ lost r a → memByte t a = memByte s a)
              ∧ (r = .array → ∀ i, i < 128 → arrMode (arr s (128 * c + i)) = 0 → bit (arr s (128 * c + i)).state 17 = false →
                  (arr s (128 * c + i)).dueOrder.isSome = true →
                  arrMode (arr t (128 * c + i)) = 2 ∧ fld (arr t (128 * c + i)).state 13 11 = 7)
              ∧ Only [.clusters, .memory, .poison, .arrays, .mon] s t))
    ∧ (∀ v : Word, fld v 2 0 ≤ 4 → exec (.dvfsRequest v) s
        = .next { s with pwr := { s.pwr with dvfs := setFld s.pwr.dvfs 2 0 (fld v 2 0) } })
    ∧ (∀ v : Word, 4 < fld v 2 0 → exec (.dvfsRequest v) s = .next { s with pwr := { s.pwr with err := setBit s.pwr.err 0 } })
    ∧ (slewing s = false → requiredPoint s ≠ activePoint s →
        ((noticeLately s = false ∧ movedLately s = false) ∨ (protectiveFloor s = true ∧ activePoint s < requiredPoint s)) →
        ∃ t n, exec .dvfsChange s = .next t
        ∧ activePoint t = requiredPoint s ∧ slewing t = true ∧ t.pwr.notices.Perm (n :: s.pwr.notices)
        ∧ fld n.frame 31 30 = 1 ∧ fld n.frame 20 8 = pointMv (requiredPoint s)
        ∧ n.rank = (if activePoint s < requiredPoint s ∧ protectiveFloor s = true then 1 else 3) ∧ Only [.pwr] s t)
    ∧ ((slewing s = true ∨ requiredPoint s = activePoint s) → exec .dvfsChange s = .next s)
    ∧ ((noticeLately s = true ∨ movedLately s = true) → ¬ (protectiveFloor s = true ∧ activePoint s < requiredPoint s) →
        exec .dvfsChange s = .next s)
    ∧ exec .dvfsSettled s = .next { s with pwr := { s.pwr with stat := clrBit s.pwr.stat 10 } }

/-- R30, R373, R388, R404, R405: the watch registers, the firmware watchdog and the sideband. A watch write is issued and takes effect
when acknowledged; the watchdog's expiry asks for a WARM reset with a black-box record; the sideband reads and writes its registers
while VAON is up, and sends an in-band interrupt for an enabled event, once more where it is not acknowledged. -/
def Obligations.WatchAndSidebandRowsComplete : Prop :=
  ∀ s : State,
    (∀ r v, exec (.watchWrite r v) s = .next { s with pwr := { s.pwr with watchQ := s.pwr.watchQ ++ [(r, v, false)] } })
    ∧ (∀ (v : Word) (rest : List (WatchReg × Word × Bool)), s.pwr.sleepDue = false →
        (s.pwr.watchQ = (.ctl, v, false) :: rest → exec (.watchWriteAck .ctl) s
            = .next { s with pwr := { s.pwr with watchQ := rest, watchCtl := v &&& 0x3F#32 } })
        ∧ (s.pwr.watchQ = (.stat, v, false) :: rest → exec (.watchWriteAck .stat) s
            = .next { s with pwr := { s.pwr with watchQ := rest, watchStat := s.pwr.watchStat &&& ~~~(v &&& 0x3F#32) } })
        ∧ (∀ p : Packet, s.pwr.watchQ = (.ctl, v, true) :: rest → s.host.running = [⟨p, .watch .ctl⟩] → p.muted = false →
            ∃ t, exec (.watchWriteAck .ctl) s = .next t ∧ t.pwr.watchCtl = v &&& 0x3F#32 ∧ t.host.running = []
              ∧ Answers t p 0 [] ∧ Only [.host, .pwr] s t))
    ∧ (s.pwr.wdogArmed = true → s.pwr.state = .awake → s.pwr.resetReq = none → s.sec.ring.length < 128 →
        s.pwr.wdogKick.toNat + 156250 * fld s.pwr.wdog 7 0 < 2 ^ 64 →
        ∃ t r, exec .watchdogExpiry s = .next t ∧ t.pwr.resetReq = some (3#4, 1#2) ∧ t.pwr.wdogArmed = false
          ∧ t.rack.toNat = Nat.max s.rack.toNat (s.pwr.wdogKick.toNat + 156250 * fld s.pwr.wdog 7 0)
          ∧ t.sec.ring = s.sec.ring ++ [r] ∧ r.kind = 0x09#8 ∧ r.payload.head? = some 4#8 ∧ bit t.pwr.sbEvent 6 = true
          ∧ Only [.pwr, .sec, .time] s t)
    ∧ (s.pwr.wdogArmed = false → exec .watchdogExpiry s = .next s)
    ∧ (s.pwr.vaon = true →
        exec (.sidebandRead 0x1C) s = .next { s with out := .sideband s.pwr.watchStat :: s.out }
        ∧ exec (.sidebandRead 0x20) s = .next { s with
            pwr := { s.pwr with watchHi := s.pwr.watchTime.extractLsb' 32 32 }
            out := .sideband (s.pwr.watchTime.extractLsb' 0 32) :: s.out }
        ∧ (s.pwr.state = .awake → exec (.sidebandRead 0x00) s = .next { s with out := .sideband s.deviceId :: s.out })
        ∧ (s.pwr.state ≠ .awake → exec (.sidebandRead 0x00) s = .next { s with out := .sideband 0xFFFFFFFF#32 :: s.out })
        ∧ (∀ v : Word, s.pwr.ibiQueue = [] → s.pwr.ibiUnacked = [] →
            exec (.sidebandWrite 0x40 v) s = .next { s with pwr := { s.pwr with
              sbCtl := setFld (s.pwr.sbCtl &&& ~~~(v &&& 0x80000000#32)) 7 0 (fld v 7 0) } }
            ∧ exec (.sidebandWrite 0x44 v) s = .next { s with pwr := { s.pwr with
                sbEvent := s.pwr.sbEvent &&& ~~~(v &&& 0xFF#32) } }
            ∧ exec (.sidebandWrite 0x00 v) s = .next { s with pwr := { s.pwr with sbCtl := setBit s.pwr.sbCtl 31 } })
        ∧ (∀ a, exec (.sidebandDynamicAddress a) s = .next { s with pwr := { s.pwr with sbAddr := some a } })
        ∧ (∀ b : BitVec 3, s.pwr.ibiQueue = [] → bit s.pwr.sbCtl b.toNat = true →
            exec (.inBandInterrupt b true) s = .next { s with
              pwr := { s.pwr with sbEvent := setBit s.pwr.sbEvent b.toNat }
              out := .ibi (BitVec.ofNat 8 (b.toNat + 1)) :: s.out }
            ∧ exec (.inBandInterrupt b false) s = .next { s with
              pwr := { s.pwr with sbEvent := setBit s.pwr.sbEvent b.toNat, ibiUnacked := insertBit b s.pwr.ibiUnacked }
              out := .ibi (BitVec.ofNat 8 (b.toNat + 1)) :: s.out })
        ∧ (∀ (b : BitVec 3) (k : Bool), s.pwr.ibiQueue = [] → bit s.pwr.sbCtl b.toNat = false →
            exec (.inBandInterrupt b k) s = .next { s with pwr := { s.pwr with sbEvent := setBit s.pwr.sbEvent b.toNat } }))
    ∧ (s.pwr.vaon = false → ∀ off v, exec (.sidebandRead off) s = .next s ∧ exec (.sidebandWrite off v) s = .next s)
    ∧ (∀ (b : BitVec 3) (rest : List (BitVec 3)), s.pwr.ibiUnacked = b :: rest →
        exec (.ibiRetry true) s = .next { s with
          pwr := { s.pwr with ibiUnacked := rest }, out := .ibi (BitVec.ofNat 8 (b.toNat + 1)) :: s.out }
        ∧ exec (.ibiRetry false) s = .next { s with out := .ibi (BitVec.ofNat 8 (b.toNat + 1)) :: s.out })

/-- R26, R219 to R221, R235, R287, R407, Tables 8-6 and 8-12: a request of the module's own requesters to its own stack memory is served
there and answered OK: a load with the bytes, a store with nothing once every byte is stored, an atomic with the old word once the new one
is. A poisoned store marks its granules; an atomic in a poisoned granule is not performed; a reserved type is REFUSED.
One that must wait (a release for earlier updates, any for an earlier one to its granule) is held. -/
def Obligations.OwnRequestsAreServed : Prop :=
  ∀ (s : State) (r : Req), r.inbound = none → devOf r.gaddr = ownId s → s.host.running.any (awaitsTag r.tag) = false →
    s.launches.any (fun l => l.pending.contains r.tag) = false → s.rel.mirror.any (fun m => m.1 == r.tag) = false →
    let a := localOf r.gaddr
    let n := r.payload.length
    let told (resp : BitVec 4) (poison : Bool) (data : List Byte) : FabU :=
      { s.fab with answers := s.fab.answers ++ [⟨r.tag, resp, poison, data⟩] }
    let asked (ty : Nat) : Pkt := requestPkt ty r.gaddr (ownId s) r.ctx r.job r.epoch r.tag r.poison r.length r.payload
    let waits (ty : Nat) : Bool := mustWait s r.die (asked ty) 0
    (∀ c ty, (c, ty) ∈ [(Instr.load r, 0), (Instr.store r, 1), (Instr.storeRelease r, 2)] → waits ty = true →
        exec c s = .next { s with fab := { s.fab with held := s.fab.held ++ [⟨asked ty, r.die⟩] } })
    ∧ (waits 0 = false → 1 ≤ r.length → r.length ≤ 4096 → r.payload = [] → a % 4096 + r.length ≤ 4096 → inStacks s a r.length = true →
        unpoisoned s a r.length = true → exec (.load r) s = .next { s with fab := told 0 false (memGet s a r.length) })
    ∧ (∀ c, c = Instr.store r ∨ c = Instr.storeRelease r ∨ (c = Instr.courierStore r ∧ n ≤ 224) →
        waits (if c = .storeRelease r then 2 else 1) = false → 1 ≤ n →
        a % 4096 + n ≤ 4096 → inStacks s a n = true → ∃ t, exec c s = .next t ∧ memGet t a n = r.payload ∧ outside a n s t
          ∧ (∀ g, g ∈ granules a n → r.poison = true → isPoisoned t g = true)
          ∧ (∀ g, r.poison = false → a ≤ 64 * g → 64 * g + 64 ≤ a + n → isPoisoned t g = false)
          ∧ (∀ g, g ∉ granules a n → isPoisoned t g = isPoisoned s g)
          ∧ t.fab = told 0 false [] ∧ Only [.memory, .poison, .fabric] s t)
    ∧ (∀ (c : Instr) (f : Nat → Nat → Nat → Nat),
        (c, f) ∈ [(Instr.atomAdd r, fun o x _ => (o + x) % 2 ^ 64),
          (Instr.atomMax r, fun o x _ => if (BitVec.ofNat 64 o).toInt < (BitVec.ofNat 64 x).toInt then x else o),
          (Instr.atomMin r, fun o x _ => if (BitVec.ofNat 64 x).toInt < (BitVec.ofNat 64 o).toInt then x else o),
          (Instr.atomAnd r, fun o x _ => o &&& x), (Instr.atomOr r, fun o x _ => o ||| x),
          (Instr.atomXor r, fun o x _ => o ^^^ x), (Instr.atomSwap r, fun _ x _ => x),
          (Instr.atomCas r, fun o x y => if o = x then y else o), (Instr.courierAdd r, fun o x _ => (o + x) % 2 ^ 64)] →
        waits 1 = false → n = (if c = .atomCas r then 16 else 8) → a % 8 = 0 → inStacks s a 8 = true →
        let old := memGet s a 8
        let back := if c = .courierAdd r then [] else old
        (unpoisoned s a 8 = true → ∃ t, exec c s = .next t
          ∧ memGet t a 8 = leBytes 8 (f (leNat old) (leNat (r.payload.take 8)) (leNat (r.payload.drop 8)))
          ∧ outside a 8 s t ∧ t.fab = told 0 false back ∧ Only [.memory, .fabric] s t)
        ∧ (isPoisoned s (a / 64) = true → ∃ t, exec c s = .next t ∧ t.fab = told 0 (decide (c ≠ .courierAdd r)) back
          ∧ bit t.rel.err 8 = true ∧ Only [.fabric, .rel] s t))
    ∧ (∀ k, waits 1 = false → areaOf a = .tally k → a % 64 = 0 → n = 8 → s.poison = [] → aloof s a 8 (a + 0x30) 8 → ∃ t, exec (.atomAdd r) s = .next t
        ∧ leNat (memGet t a 8) = (leNat (memGet s a 8) + leNat r.payload) % 2 ^ 64
        ∧ leNat (memGet t (a + 0x30) 8) = (leNat (memGet s (a + 0x30) 8) + 1) % 2 ^ 64
        ∧ (∀ b, b < a ∨ (a + 8 ≤ b ∧ b < a + 0x30) ∨ a + 0x38 ≤ b → ¬ sealedBy s a 8 b → memByte t b = memByte s b) ∧ Only [.memory, .fabric] s t)
    ∧ (waits 1 = false → isListed (typeOf r.gaddr) = false → exec (.reservedAccessType r) s = .next { s with fab := told 3 false [] })
    ∧ (∀ c, c = Instr.store r ∨ c = Instr.storeRelease r →
        waits (if c = .storeRelease r then 2 else 1) = false → stackBytes s ≤ a → a + n ≤ 0xC000000000 → 1 ≤ n →
        a % 4096 + n ≤ 4096 → exec c s = .next { s with fab := told 1 false [] })
    ∧ (waits 1 = false → 4096 < a % 4096 + n → exec (.store r) s = .next { s with fab := told 3 false [] })

/-- R222, R223, R225 to R227, R234, R235: requests that cross the fabric, and their answers. One for another device leaves by the port of
the rule and stays outstanding, or is answered NO_ROUTE; one that arrives for a job that no context holds is DENIED, another is served
and answered; a response ends its request, a late one is discarded, and RESP_TO without one is a TIMEOUT. -/
def Obligations.FabricRequestsAndAnswersComplete : Prop :=
  ∀ s : State,
    (∀ (r : Req) (q : Nat), r.inbound = none → devOf r.gaddr ≠ ownId s → r.payload = [] →
        let p := requestPkt 0 r.gaddr (ownId s) r.ctx r.job r.epoch r.tag r.poison r.length []
        route s r.die (devOf r.gaddr) (bulkIndex p.gaddr) = some q → mustWait s r.die p q = false →
        ∃ t, exec (.load r) s = .next t
          ∧ port t q = { port s q with queue := (port s q).queue ++ [⟨13, devOf r.gaddr, 1, .pkt p, none, false, 0, r.die, 0#16⟩] }
          ∧ t.fab = { s.fab with outst := s.fab.outst ++ [⟨r.tag, p, q, 0, r.die⟩] }
          ∧ (∀ j, j ≠ q → port t j = port s j) ∧ Only [.ports, .fabric] s t)
    ∧ (∀ r : Req, r.inbound = none → devOf r.gaddr ≠ ownId s → s.host.running = [] → s.launches = [] → s.rel.mirror = [] →
        (List.range 18).all (fun q => !portUp s q) = true → exec (.store r) s = .next { s with fab := { s.fab with
          err := setBit s.fab.err 1, answers := s.fab.answers ++ [⟨r.tag, 5#4, false, []⟩] } })
    ∧ (∀ (r : Req) (j p : Nat), r.inbound = some j →
        let i := (slotOf r.src + fld r.gaddr 15 12) % 16
        let a := localOf r.gaddr
        let reply (resp : BitVec 4) (ty len : Nat) (data : List Byte) : QItem :=
          ⟨14, r.src, flitsOf data.length, .pkt { requestPkt ty r.gaddr r.src r.ctx r.job r.epoch r.tag r.poison len r.payload with
            resp := resp, poison := false, kind := 1#2, length := BitVec.ofNat 13 data.length, payload := data }, none, false, 0, decide (9 ≤ j), 0#16⟩
        route s (decide (9 ≤ j)) r.src i = some p →
        (ctxOfJob s r.job = none →
          forTwin s (requestPkt 0 r.gaddr r.src r.ctx r.job r.epoch r.tag r.poison r.length r.payload) r.length = false →
          ∃ t, exec (.load r) s = .next t
          ∧ port t p = { port s p with queue := (port s p).queue ++ [reply 2 0 r.length []] }
          ∧ t.fab = { s.fab with err := setBit s.fab.err 3 } ∧ (∀ k, k ≠ p → port t k = port s k) ∧ Only [.ports, .fabric] s t)
        ∧ ((ctxOfJob s r.job).isSome = true → r.payload = [] → 1 ≤ r.length → r.length ≤ 4096 → a % 4096 + r.length ≤ 4096 →
          inStacks s a r.length = true → unpoisoned s a r.length = true → ∃ t, exec (.load r) s = .next t
          ∧ port t p = { port s p with queue := (port s p).queue ++ [reply 0 0 r.length (memGet s a r.length)] }
          ∧ (∀ k, k ≠ p → port t k = port s k) ∧ Only [.ports] s t)
        ∧ ((ctxOfJob s r.job).isSome = true → 1 ≤ r.payload.length → a % 4096 + r.payload.length ≤ 4096 →
          inStacks s a r.payload.length = true → ∃ t, exec (.store r) s = .next t
          ∧ memGet t a r.payload.length = r.payload ∧ outside a r.payload.length s t
          ∧ port t p = { port s p with queue := (port s p).queue ++ [reply 0 1 r.length []] }
          ∧ (∀ k, k ≠ p → port t k = port s k) ∧ Only [.ports, .memory, .poison] s t))
    ∧ (∀ (p : Pkt) (o : Outst), s.fab.outst = [o] → o.tag = p.tag → isMessage o.pkt = false → s.fab.held = [] → s.launches = [] → s.rel.mirror = [] →
        (s.host.running = [] → p.resp.toNat ≤ 7 → exec (.response p) s = .next { s with fab := { s.fab with
            outst := [], answers := s.fab.answers ++ [⟨p.tag, p.resp, p.poison, p.payload⟩] } })
        ∧ (s.host.running = [] → 7 < p.resp.toNat → exec (.response p) s = .next { s with fab := { s.fab with
            outst := [], err := setBit s.fab.err 2, answers := s.fab.answers ++ [⟨p.tag, 3#4, p.poison, p.payload⟩] } })
        ∧ (∀ (k : Packet) (dst : W64) (w n : Nat), s.host.running = [⟨k, .memWrite dst 0 w [] [(p.tag, n)]⟩] → k.muted = false →
            p.resp = 0#4 → ∃ t, exec (.response p) s = .next t ∧ t.host.running = [] ∧ Answers t k 0 (words64 (w + n))
              ∧ t.fab = { s.fab with outst := [] } ∧ Only [.host, .fabric] s t)
        ∧ (s.host.running = [] → exec (.responseTimeout p.tag) s = .next { s with fab := { s.fab with
            outst := [], answers := s.fab.answers ++ [⟨p.tag, 6#4, false, []⟩] } }))
    ∧ (∀ (p : Pkt) (o : Outst), s.fab.outst = [o] → o.tag = p.tag → isMessage o.pkt = true → s.fab.held = [] →
        (p.resp.toNat ≤ 7 → exec (.response p) s = .next { s with fab := { s.fab with outst := [] } })
        ∧ exec (.responseTimeout p.tag) s = .next { s with fab := { s.fab with outst := [] } })
    ∧ (∀ p : Pkt, s.fab.outst.any (fun o => o.tag == p.tag) = false →
        exec (.response p) s = .next { s with fab := { s.fab with err := setBit s.fab.err 4 } }
        ∧ exec (.responseTimeout p.tag) s = .next s)

/-- R217, R218, R225, R228, R247, R248, Tables 8-4 and 8-7: flits and packets of a port. A good flit's bytes join the part held and return
its credits; a stale one is counted; one whose CRC fails after the correction is asked for again; a replay sends from an LSEQ on; a flit
leaves by the class rules with a credit, or waits; a partial packet without a flit for TIMER is dropped and its source told; a bad packet
is dropped, a message answered. What the parity corrects is free (log entry 54). -/
def Obligations.FlitRowsComplete : Prop :=
  ∀ (s : State) (q : Nat), q < 18 →
    let x := port s q
    (∀ r : Flit, let f := (correctFlit r).1; flitCrc f = f.crc → flitBad f = false →
        let vc := flVc f
        let back := psnBehind (tget 0#16 x.psnIn vc) (flPsn f)
        let bytes := f.slot.take (flFill f)
        ∃ t, exec (.flitReceive q r) s = .next t
          ∧ (∀ v, tget 0 (port t q).credits v = tget 0 x.credits v + if v = flCreditVc f then flCredits f else 0)
          ∧ (flType f ≠ 5 → (1 ≤ flType f ∧ flType f ≤ 4 ∧ (back = 0 ∨ 32767 < back) →
              (flType f = 2 → tget [] (port t q).part vc = bytes)
              ∧ (flType f = 3 → tget [] (port t q).part vc = tget [] x.part vc ++ bytes)
              ∧ (flType f = 1 ∨ flType f = 4 → tget [] (port t q).part vc = []
                  ∧ tget 0#16 (port t q).psnIn vc = BitVec.ofNat 16 (flPsn f + 1))
              ∧ (port t q).stales = x.stales)
            ∧ (1 ≤ flType f ∧ flType f ≤ 4 ∧ 1 ≤ back ∧ back ≤ 32767 → bit (port t q).err 0 = true
              ∧ (port t q).stales = satWord x.stales 1 ∧ (port t q).part = x.part ∧ (port t q).psnIn = x.psnIn))
          ∧ (∀ v, tget 0 (port t q).owed v = tget 0 x.owed v + if v = vc ∧ 1 ≤ flType f ∧ flType f ≤ 4 then 1 else 0)
          ∧ (port t q).lanes = (countSymbols (correctFlit r).2 x).lanes
          ∧ (∀ p, p ≠ q → port t p = port s p) ∧ Only [.ports] s t)
    ∧ (∀ r : Flit, let f := (correctFlit r).1; flitCrc f = f.crc → flitBad f = true → exec (.flitReceive q r) s
        = .next (modPort s q fun x => { freeBuffer f (countSymbols (correctFlit r).2 x) with err := setBit x.err 5 }))
    ∧ (∀ f : Flit, parityOf ((flitBytes f).take 240) = f.parity → correctFlit f = (f, []))
    ∧ (∀ r : Flit, let f := (correctFlit r).1; flitCrc f ≠ f.crc → x.owed = [] → ∃ t g, exec (.flitReceive q r) s = .next t ∧ t.out = .flit q g :: s.out
        ∧ flType g = 5 ∧ g.slot.take 2 = leBytes 2 (fld f.header 63 52) ∧ flLseq g = x.lseq ∧ (port t q).lseq = x.lseq + 1
        ∧ (port t q).part = x.part ∧ (port t q).psnIn = x.psnIn ∧ (∀ p, p ≠ q → port t p = port s p) ∧ Only [.ports, .out] s t)
    ∧ (∀ l, ∃ t, exec (.replayRequest q l) s = .next t
        ∧ port t q = { x with replay := x.retry.dropWhile (fun e => e.1 != l), replays := satWord x.replays 1 }
        ∧ (∀ p, p ≠ q → port t p = port s p) ∧ Only [.ports] s t)
    ∧ (∀ (l : BitVec 12) (f : Flit) (rest : List (BitVec 12 × Flit)), fld x.stat 1 0 = 2 → x.replay = (l, f) :: rest →
        ∃ t, exec (.flitTransmit q) s = .next t ∧ t.out = .flit q f :: s.out
          ∧ port t q = { countSlot (if 1 ≤ flType f ∧ flType f ≤ 4 then some (flVc f) else none) x with replay := rest } ∧ Only [.ports, .out] s t)
    ∧ (∀ i : QItem, fld x.stat 1 0 = 2 → x.replay = [] → x.queue = [i] → i.vc = 0 → i.admitted = true → i.flits ≤ 1 → i.sent = 0 →
        0 < tget 0 x.credits 0 → ∃ t g, exec (.flitTransmit q) s = .next t ∧ t.out = .flit q g :: s.out ∧ (port t q).queue = []
          ∧ flVc g = 0 ∧ flType g = 1 ∧ flPsn g = (tget 0#16 x.psnOut 0).toNat
          ∧ g.slot.take (min 224 (itemBytes s i).length) = (itemBytes s i).take 224
          ∧ (port t q).lseq = x.lseq + 1 ∧ tget 0#16 (port t q).psnOut 0 = tget 0#16 x.psnOut 0 + 1
          ∧ tget 0 (port t q).credits 0 = tget 0 x.credits 0 - 1
          ∧ (∀ p, p ≠ q → port t p = port s p) ∧ Only [.ports, .out] s t)
    ∧ (∀ i : QItem, fld x.stat 1 0 = 2 → x.replay = [] → x.queue = [i] → tget 0 x.credits i.vc = 0 → owedCredits s q = none →
        ∃ t, exec (.flitTransmit q) s = .next t ∧ port t q = countSlot none x ∧ (∀ p, p ≠ q → port t p = port s p)
          ∧ Only [.ports] s t)
    ∧ (fld x.stat 1 0 ≠ 2 → exec (.flitTransmit q) s = .next s)
    ∧ (∀ vc : BitVec 4,
        let part := tget [] x.part vc.toNat
        let src : DevId := BitVec.ofNat 18 (leNat ((part.drop 8).take 4))
        let u := modPort s q fun x => portErr 1 { x with
          part := tset [] x.part vc.toNat [], stalls := satWord x.stalls 1, psnIn := tmod 0#16 x.psnIn vc.toNat (· + 1) }
        (part = [] → exec (.stallTimerExpiry q vc) s = .next s)
        ∧ (part ≠ [] → route u false src (courierIndex u src) = none → exec (.stallTimerExpiry q vc) s
            = .next { u with fab := { s.fab with err := setBit s.fab.err 1 } })
        ∧ (∀ p, part ≠ [] → p ≠ q → route u false src (courierIndex u src) = some p → ∃ t i,
            exec (.stallTimerExpiry q vc) s = .next t ∧ port t q = port u q
            ∧ port t p = { port s p with queue := (port s p).queue ++ [i] } ∧ i.vc = 0 ∧ i.dst = src
            ∧ i.body = .msg (.stallNotice (BitVec.ofNat 16 (leNat ((part.drop 20).take 2))) q) ∧ Only [.ports, .fabric] s t))
    ∧ (∀ (vc : Nat) (p : Pkt) (k : Nat), pktBad p k = true → exec (.packetReceive q vc p k) s
        = .next (modPort s q fun x => { x with err := setBit x.err 5 }))
    ∧ (∀ (vc : Nat) (p : Pkt) (k : Nat), pktBad p k = false → p.kind = 1#2 →
        exec (.packetReceive q vc p k) s = exec (.response p) s)
    ∧ (∀ (vc : Nat) (p : Pkt) (k : Nat), pktBad p k = false → p.kind ≠ 1#2 → isMessage p = true →
        (1 ≤ vc → vc ≤ 12 → exec (.packetReceive q vc p k) s = .next s)
        ∧ (∀ j, vc = 0 ∨ vc = 15 → p.job = 0#32 →
          route s (decide (9 ≤ q)) p.src (courierIndex s p.src) = some j → ∃ t i, exec (.packetReceive q vc p k) s = .next t
          ∧ port t j = { port s j with queue := (port s j).queue ++ [i] } ∧ i.vc = vc ∧ i.dst = p.src
          ∧ i.body = .pkt { p with resp := 0, poison := false, kind := 1, length := 0, resv := false, payload := [] }
          ∧ (∀ b, bit t.rel.err b = (bit s.rel.err b || (b == 0 && Config.isRecallMessage p.payload
              && (fld (wordOfBytes p.payload) 31 28 == 0 || decide (4 ≤ fld (wordOfBytes p.payload) 31 28)))))
          ∧ Only [.ports, .rel] s t))
    ∧ (∀ (vc : Nat) (p : Pkt) (k : Nat), pktBad p k = false → p.kind ≠ 1#2 → fld p.gaddr 63 58 = 0 → p.payload = [] →
        (ctxOfJob s p.job).isSome = true → 1 ≤ p.length.toNat → p.length.toNat ≤ 4096 →
        localOf p.gaddr % 4096 + p.length.toNat ≤ 4096 → inStacks s (localOf p.gaddr) p.length.toNat = true →
        unpoisoned s (localOf p.gaddr) p.length.toNat = true → ∀ j,
        let data := memGet s (localOf p.gaddr) p.length.toNat
        route s (decide (9 ≤ q)) p.src ((slotOf p.src + fld p.gaddr 15 12) % 16) = some j → ∃ t i,
          exec (.packetReceive q vc p k) s = .next t
          ∧ port t j = { port s j with queue := (port s j).queue ++ [i] } ∧ i.vc = 14 ∧ i.dst = p.src
          ∧ i.body = .pkt { p with resp := 0, poison := false, kind := 1, resv := false, payload := data } ∧ Only [.ports] s t)

/-- R229 to R232, R241 to R243, R248, R347: the courier toll and the rack reference time. A window refills each bucket with the port's
effective rate; the head of the courier queue is admitted when the bucket holds its flits, and counted when late; a stall notice sends a
request again on the next port; a frame mark loads the beacon or starts the master's time; losses of RREF are reported. -/
def Obligations.TollAndTimeRowsComplete : Prop :=
  ∀ s : State,
    (∃ t, exec .courierWindowStart s = .next t ∧ (∀ q, q < 18 → fld (port s q).stat 1 0 = 2 →
          let top := maxRate (port s q)
          let want := fld (port s q).toll 6 0
          (port t q).rate = (if want = 0 ∨ top < want then top else want)
          ∧ fld (port t q).tollStat 6 0 = (port t q).rate
          ∧ bit (port t q).err 6 = (bit (port s q).err 6 || decide (top < want)) ∧ (port t q).queue = (port s q).queue)
        ∧ (∀ q, q < 18 → fld (port s q).stat 1 0 ≠ 2 →
            port t q = { port s q with rate := 0, tollStat := setFld (port s q).tollStat 6 0 0 })
        ∧ (∀ q, 18 ≤ q → port t q = port s q) ∧ Only [.ports] s t)
    ∧ (∀ (q : Nat) (i : QItem) (rest : List QItem) (st : W64), q < 18 → (port s q).queue = i :: rest → i.vc = 0 → i.admitted = false →
        i.stamp = some st → i.flits ≤ fld (port s q).tollStat 6 0 → ∃ t, exec (.courierAdmit q) s = .next t
          ∧ (port t q).queue = { i with admitted := true } :: rest
          ∧ fld (port t q).tollStat 6 0 = fld (port s q).tollStat 6 0 - i.flits
          ∧ fld (port t q).tollStat 31 16 = (if st.toNat / 200 < s.rack.toNat / 200
              then min (fld (port s q).tollStat 31 16 + 1) 65535 else fld (port s q).tollStat 31 16)
          ∧ (∀ p, p ≠ q → port t p = port s p) ∧ Only [.ports] s t)
    ∧ (∀ (q : Nat) (i : QItem), q < 18 → courierHead (port s q) = some i → fld (port s q).tollStat 6 0 < i.flits →
        ∃ t, exec (.courierAdmit q) s = .next t ∧ (∀ p, port t p = port s p) ∧ Only [.ports] s t)
    ∧ (∀ (o : Outst) (tag : BitVec 16) (n p : Nat), findOutst s tag = some o → s.fab.outst = [o] →
        o.resends < fld s.fab.stallCfg 13 12 → nextRackPort s o.port = some p → typeOf o.pkt.gaddr = 0 →
        ∃ t, exec (.stallNotice tag n) s = .next t
          ∧ t.fab = { s.fab with outst := [{ o with port := p, resends := o.resends + 1 }] }
          ∧ port t p = { port s p with queue := (port s p).queue
              ++ [⟨13, devOf o.pkt.gaddr, flitsOf o.pkt.payload.length, .pkt o.pkt, none, false, 0, o.die, o.tag⟩] }
          ∧ Only [.ports, .fabric] s t)
    ∧ (∀ (o : Outst) (tag : BitVec 16) (n : Nat), s.fab.outst = [o] → o.tag = tag → fld s.fab.stallCfg 13 12 ≤ o.resends →
        s.fab.held = [] → s.host.running = [] → s.launches = [] → s.rel.mirror = [] → exec (.stallNotice tag n) s = .next { s with
          fab := { s.fab with
            outst := [], answers := if isMessage o.pkt then s.fab.answers else s.fab.answers ++ [⟨tag, 4#4, false, []⟩] } })
    ∧ (∀ h : BitVec 44, bit s.fab.timeStat 0 = false →
        exec (.timeBeacon h) s = .next { s with fab := { s.fab with beacon := some h } }
        ∧ (s.fab.beacon = some h → isMaster s = false → ∃ t, exec .frameMark s = .next t
            ∧ t.rack = BitVec.ofNat 64 (2 ^ 20 * h.toNat) ∧ bit t.fab.timeStat 0 = true ∧ t.fab.beacon = none
            ∧ Only [.time, .fabric, .ports] s t))
    ∧ (bit s.fab.timeStat 0 = false → s.fab.beacon = none → isMaster s = true → ∃ t, exec .frameMark s = .next t
        ∧ t.rack = 0#64 ∧ bit t.fab.timeStat 0 = true ∧ Only [.time, .fabric, .ports] s t)
    ∧ (bit s.fab.timeStat 0 = true → isMaster s = false →
        (s.rack.toNat % 2 ^ 20 = 0 → exec .frameMark s = .next s)
        ∧ (s.rack.toNat % 2 ^ 20 ≠ 0 → exec .frameMark s
            = .next { s with fab := { s.fab with timeStat := setBit s.fab.timeStat 2 } }))
    ∧ (bit s.fab.timeStat 0 = true → exec .frameMiss s
        = .next { s with fab := { s.fab with timeStat := setBit s.fab.timeStat 1 } })
    ∧ exec .refLost s = .next { s with fab := { s.fab with timeStat := setBit s.fab.timeStat 3, refGone := true } }
    ∧ (s.fab.refGone = true →
        (anyCtx s = false → exec .refReturn s
          = .next { s with fab := { s.fab with refGone := false, reload := false, timeStat := clrBit s.fab.timeStat 0 } })
        ∧ (anyCtx s = true → exec .refReturn s = .next { s with fab := { s.fab with refGone := false, reload := true } }))
    ∧ (∀ b, ∃ t, exec (.clockLock b) s = .next t ∧ fld t.pwr.clkStat 2 0 = (if b then 3 else 4)
        ∧ fld t.pwr.clkStat 31 3 = fld s.pwr.clkStat 31 3 ∧ t.pwr = { s.pwr with clkStat := t.pwr.clkStat } ∧ Only [.pwr] s t)

/-- R45 to R57, R60, R84, R86, R170, R173 and Table 3-4: a product on an array. Issue aligns its spans where the array serves, sends it to the
digital engine by policy, or lets it wait; a read drives one plane of one span and converts it; its compare releases it or holds
it for its re-read; a re-read that fails again calibrates the array; the end of the last read hands over the outputs. -/
def Obligations.ForwardProductRowsComplete : Prop :=
  ∀ (s : State) (a : Nat), a < 4096 →
    let u := arr s a
    let others (t : State) : Prop := ∀ b, b ≠ a → arr t b = arr s b
    (∀ (p : Product) (rest : List Product) (l : LaunchS) (c : BitVec 4) (r : Layer), u.queue = p :: rest →
        findLaunch s p.launch = some l → layerOfArray s a = some (c, r) → arrFenced s a = false →
        let alone := (lSlice r && lPolicy r) = false
          ∨ (lArrays r).all (fun b => coreOfArray b != coreOfArray a || arrFenced s b || serves s b) = true
        (serves s a = true → alone → (u.cur ≠ none ∨ regionOn (arrRegState s (clusterOfArray a)) = false) →
          exec (.productIssue a) s = .next s)
        ∧ (serves s a = true → alone → u.cur = none → regionOn (arrRegState s (clusterOfArray a)) = true → p.inN ≠ 1 → ∃ t p', exec (.productIssue a) s = .next t
          ∧ arr t a = { u with queue := rest, cur := some p' }
          ∧ p'.launch = p.launch ∧ p'.token = p.token ∧ p'.blocks = p.blocks ∧ p'.plane = 0 ∧ p'.span = 0 ∧ p'.sat = []
          ∧ p'.spans = (List.range ((rowsUsed s a + arrSpan u - 1) / arrSpan u)).map (fun i =>
              (alignSpan p.inN p.blocks (i * arrSpan u) (min (arrSpan u) (rowsUsed s a - i * arrSpan u))).1)
          ∧ others t ∧ Only [.arrays, .cores] s t)
        ∧ (serves s a = false → lPolicy r = true → r.st.fwdEpoch = some (ctxU s c).epoch → capAllows s l a = true →
          u.dig = none → regionOn (digState s (clusterOfCore (coreFor s a))) = true → ∃ t, exec (.productIssue a) s = .next t
          ∧ arr t a = { u with queue := rest, dig := some p }
          ∧ (ctxU t l.ctx).fb = satWord (ctxU s l.ctx).fb 1
          ∧ (ctxU t l.ctx).sealSt.fbCount = (ctxU s l.ctx).sealSt.fbCount + (if l.kind = 4#4 then 0 else 1)
          ∧ others t ∧ Only [.arrays, .ctxs] s t)
        ∧ (serves s a = false → lPolicy r = false → exec (.productIssue a) s = .next s))
    ∧ (u.queue = [] → exec (.productIssue a) s = .next s)
    ∧ (∀ p : Product, u.cur = some p → p.plane < planeCount p.inN → u.failed = none → arrMode u = 0 → u.trimHeld = [] →
        ∃ t codes, exec (.arrayRead a []) s = .next t
          ∧ arr t a = { u with
              cur := some (if p.span + 1 < p.spans.length then { p with span := p.span + 1 }
                else { p with span := 0, plane := p.plane + 1 })
              flight := u.flight ++ [⟨p.plane, p.span, codes⟩], reads := satWord u.reads 1 }
          ∧ codes.length = 528
          ∧ (u.trims = [] → ∀ c, c < 528 →
              let rows := drivenRows (arrSpan u) p.inN p.plane p.span (p.spans.getD p.span ⟨0, []⟩)
              codes.getD c 0 = min 63 ((2 * columnSum u rows c + 2 ^ arrRange u) / 2 ^ (arrRange u + 1)))
          ∧ others t ∧ Only [.arrays] s t)
    ∧ (∀ (p : Product) (r : ReadRes) (rest : List ReadRes), u.cur = some p → u.flight = r :: rest → u.failed = none →
        let v := compareRead u r.codes
        ∃ t, exec (.readCompare a) s = .next t ∧ (arr t a).flight = rest
          ∧ (v.pass = true → (arr t a).failed = none ∧ ∃ p', (arr t a).cur = some p' ∧ p'.plane = p.plane ∧ p'.span = p.span
              ∧ p'.acc.length = p.acc.length ∧ (∀ i, i ≠ r.span → p'.acc[i]? = p.acc[i]?))
          ∧ (v.pass = false → (arr t a).failed = some r ∧ (arr t a).cur = some p)
          ∧ (v.clip = true → bit (arr t a).err 2 = true ∧ (arr t a).clipCnt = satWord u.clipCnt 1)
          ∧ (v.clip = false → (arr t a).clipCnt = u.clipCnt) ∧ (v.zero = true → bit (arr t a).err 3 = true)
          ∧ (arr t a).image = u.image ∧ (arr t a).state = u.state ∧ others t ∧ Only [.arrays] s t)
    ∧ (∀ (p : Product) (f r : ReadRes) (rest : List ReadRes), u.cur = some p → u.flight = r :: rest → u.failed = some f →
        u.behind.length < 2 → ∃ t, exec (.readCompare a) s = .next t ∧ (arr t a).flight = rest
          ∧ (arr t a).behind = u.behind ++ [(r, (compareRead u r.codes).pass)] ∧ (arr t a).failed = some f
          ∧ (arr t a).cur = some p ∧ (arr t a).clipCnt = (if (compareRead u r.codes).clip then satWord u.clipCnt 1 else u.clipCnt)
          ∧ others t ∧ Only [.arrays] s t)
    ∧ (∀ (p : Product) (f : ReadRes) (dev : List (Nat × Dy)), u.cur = some p → u.failed = some f →
        let v := compareRead (applyTrims u) (readCodes (applyTrims u) p f.plane f.span dev)
        (v.pass = true → ∃ t, exec (.reRead a dev) s = .next t ∧ (arr t a).flight = u.flight
          ∧ ((∀ x, x ∈ u.behind → x.2 = true) → (arr t a).failed = none ∧ (arr t a).behind = [])
          ∧ (∀ x rest, u.behind = (x, false) :: rest → (arr t a).failed = some x ∧ (arr t a).behind = rest)
          ∧ bit (arr t a).err 0 = true ∧ (arr t a).evcnt = satFld u.evcnt 31 16 1 ∧ (arr t a).reads = satWord u.reads 1
          ∧ (arr t a).state = u.state ∧ others t ∧ Only [.arrays] s t)
        ∧ (v.pass = false → eventsWithin s 2#4 a day + 1 < fld (histCfg s) 15 8 → ∃ t e, exec (.reRead a dev) s = .next t
          ∧ arrMode (arr t a) = 2 ∧ fld (arr t a).state 13 11 = 3 ∧ bit (arr t a).err 1 = true
          ∧ (arr t a).evcnt = satFld u.evcnt 15 0 1 ∧ (arr t a).cur = none ∧ (arr t a).failed = none ∧ (arr t a).flight = []
          ∧ (arr t a).queue.length = u.queue.length + 1 ∧ t.sec.events = s.sec.events ++ [(2#4, a, e)]
          ∧ others t ∧ Only [.arrays, .mon, .sec, .host, .out] s t))
    ∧ (∀ p : Product, arrMode u = 0 → bit u.state 16 = false → u.wantRefresh = false → u.wantCal = false → u.granted = false →
        u.dueOrder = none → bit u.state 17 = false → regionOn (arrRegState s (clusterOfArray a)) = true →
        (u.cur = some p → u.dig = none → productDone u p = true → ∃ t, exec (.productBoundary a) s = .next t
          ∧ (arr t a).cur = none ∧ (arr t a).cfgHeld = none ∧ (arr t a).state = u.state
          ∧ t.launches = s.launches.map (fun l => if l.uid = p.launch
              then { l with gather := l.gather ++ [productResult u a p] } else l)
          ∧ others t ∧ Only [.arrays, .launches] s t)
        ∧ (u.cur = none → u.dig = some p → ∃ t, exec (.productBoundary a) s = .next t ∧ (arr t a).dig = none
          ∧ t.launches = s.launches.map (fun l => if l.uid = p.launch
              then { l with gather := l.gather ++ [⟨a, p.token, [], [], false, true, !arrFenced s a⟩] } else l)
          ∧ others t ∧ Only [.arrays, .launches] s t))

/-- R46 and R52, R53: what the alignment and the compare compute. A span takes the largest exponent of its valid blocks, and each code is
rounded to it, an invalid element reads 0; a read whose weighted digits agree with its checksum passes unless a column that must
be zero is not; one whose zero columns disagree fails. -/
def Obligations.AlignmentAndCompare : Prop :=
  (∀ (n : Nat) (blocks : List ZqBlock) (first count : Nat), n ≠ 1 →
      let sp := (alignSpan n blocks first count).1
      let bs := ((blocks.drop (first / 32)).take ((count + 31) / 32)).filter fun b => b.e != 255
      sp.codes.length = count ∧ (∀ b, b ∈ bs → b.e ≤ sp.emax) ∧ (bs = [] → sp.emax = 0)
      ∧ (∀ i, i < count → let b := blocks.getD ((first + i) / 32) ⟨255, []⟩
          sp.codes.getD i 0 = match b.codes.getD ((first + i) % 32) none with
            | none => 0
            | some c => rneScale c (Int.ofNat b.e - Int.ofNat sp.emax)))
  ∧ (∀ (u : ArrU) (codes : List Nat),
      let w := arrWidth u
      let m := max 1 (colsPerWeight w)
      let digits := (List.range (checkDigits w)).foldl (fun n g => n + 4 ^ g * codes.getD (checkCol g) 0) 0
      let zmax := fld u.chkcfg 11 8
      let idle := (List.range 8).any (fun g => decide (checkDigits w ≤ g) && decide (zmax < codes.getD (checkCol g) 0))
        || (List.range 512).any fun d => decide (usedCols w ≤ d) && decide (zmax < codes.getD (dataCol d) 0)
      (compareRead u codes).zero = idle
      ∧ (idle = true → (compareRead u codes).pass = false)
      ∧ (idle = false → recombine m codes (List.range (usedCols w)) = digits → (compareRead u codes).pass = true))

/-- R61 to R67, R292 and Tables 2-9, 2-18: the triggers of a calibration and its end. A trigger of an idle array takes one of its cluster's 16
slots and calibrates at once, or waits as CAL_PENDING; a slot that comes free goes to the array that fell due first; a good
result is loaded and the array serves again; a bad one brings a recovery refresh, and after that refresh the fence; a converter that
fails the test input is replaced by a free spare. The pattern, the fit, the trims and the quality figure are computed from the cell
image and the deviations that the row brings; the roundings and the rotation's order are the model's (log entry 51). -/
def Obligations.CalibrationRowsComplete : Prop :=
  ∀ (s : State) (a : Nat), a < 4096 →
    let u := arr s a
    let c := a / 128
    let others (t : State) : Prop := ∀ b, b ≠ a → arr t b = arr s b
    let begins (t : State) (cause : Nat) : Prop := arrMode (arr t a) = 2 ∧ fld (arr t a).state 13 11 = cause
      ∧ (arr t a).cal.isSome = true ∧ (arr t a).reads = 0#32 ∧ (arr t a).image = u.image
    (idleActive s a = true → slotFree s c = true →
        (∃ t, exec (.calTimerExpiry a) s = .next t ∧ begins t 1 ∧ others t ∧ Only [.arrays, .mon, .counters] s t)
        ∧ (2 ^ fld u.calp 23 19 ≤ u.reads.toNat → ∃ t, exec (.calReadCountExpiry a) s = .next t ∧ begins t 0 ∧ others t
          ∧ Only [.arrays, .mon, .counters] s t))
    ∧ (idleActive s a = true → slotFree s c = false → (s.arrays.map (·.1)).Nodup → ∃ t, exec (.calTimerExpiry a) s = .next t ∧ bit (arr t a).state 14 = true
        ∧ arrMode (arr t a) = 0 ∧ (arr t a).dueOrder = some s.dueSeq ∧ others t ∧ Only [.arrays, .counters] s t)
    ∧ (u.reads.toNat < 2 ^ fld u.calp 23 19 → exec (.calReadCountExpiry a) s = .next s)
    ∧ (∀ m : Int, -256 ≤ m → m ≤ 767 → ∃ t, exec (.tjSample c ⟨m, -2⟩) s = .next t
        ∧ ((clus t c).tj.toNat : Int) = m + 256 ∧ clus t c = { clus s c with tj := (clus t c).tj }
        ∧ (∀ d, d ≠ c → clus t d = clus s d) ∧ (∀ e, e ∈ t.clusters → e.2.tj.toNat ≤ fld t.pwr.therm 25 16)
        ∧ (beyondDt u (m + 256).toNat = false → (arrMode u ≠ 2 ∨ u.cal = none) → arr t a = arr s a)
        ∧ (beyondDt u (m + 256).toNat = true → u.cal = none → idleActive s a = true →
            begins t 2 ∨ (bit (arr t a).state 14 = true))
        ∧ (∀ x, arrMode u = 2 → u.cal = some x → outOfWork u = false → u.dueOrder = none →
            (fld u.calp 9 4 < max (m + 256).toNat x.tj.toNat - min (m + 256).toNat x.tj.toNat →
              bit (arr t a).state 14 = true ∧ arrMode (arr t a) = 2 ∧ (arr t a).cal = u.cal)
            ∧ (max (m + 256).toNat x.tj.toNat - min (m + 256).toNat x.tj.toNat ≤ fld u.calp 9 4 → arr t a = arr s a))
        ∧ Only [.arrays, .clusters, .pwr, .mon, .counters] s t)
    ∧ (firstDue s c = some a → slotFree s c = true → arrMode u = 0 → bit u.state 17 = false → u.cur = none → regionOn (arrRegState s c) = true → bit u.state 16 = false →
        u.wantRefresh = false → u.wantCal = false → u.granted = false → ∃ t, exec (.calSlotFree c) s = .next t
          ∧ begins t u.pendCause.toNat ∧ others t ∧ Only [.arrays, .mon] s t)
    ∧ (firstDue s c = none → exec (.calSlotFree c) s = .next s)
    ∧ (∀ (fit : CalFit) (x : CalOp), arrMode u = 2 → outOfWork u = false → s.host.running = [] → fit.test = [] → u.cal = some x →
        let plan := calPlan u
        let trims := fitColumns u plan fit (freeSpares u).length
        let sound := trims.all fun y => trimFits y.2
        let loaded := { u with trims := trims.foldl (fun t y => tset 0#16 t y.1 (trimWord y.2)) u.trims }
        let err := verifyError loaded plan fit.verify
        let q := qualityOf err
        (sound = true → err ≤ 2 ^ 51 * fld u.calp 3 0 * fld u.calp 3 0 → fld u.state 16 14 = 0 → u.retest = false →
          ∃ t, exec (.calibrationEnd a fit) s = .next t ∧ arrMode (arr t a) = 0 ∧ (arr t a).cal = none
            ∧ fld (arr t a).qual 7 0 = q ∧ fld (arr t a).qual 15 8 = max q (fld u.qual 15 8)
            ∧ fld (arr t a).qual 25 16 = x.tj.toNat ∧ (arr t a).trims = loaded.trims
            ∧ (arr t a).recovered = false ∧ others t ∧ Only [.arrays, .mon] s t)
        ∧ ((sound = false ∨ 2 ^ 51 * fld u.calp 3 0 * fld u.calp 3 0 < err) → u.recovered = false →
          ∃ t e, exec (.calibrationEnd a fit) s = .next t
            ∧ arrMode (arr t a) = 3 ∧ fld (arr t a).state 13 11 = 5 ∧ (arr t a).recovered = true ∧ bit (arr t a).err 4 = true
            ∧ (arr t a).trims = (if sound then loaded.trims else u.trims)
            ∧ fld (arr t a).qual 15 0 = fld u.qual 15 0 ∧ fld (arr t a).qual 25 16 = x.tj.toNat
            ∧ t.sec.events = s.sec.events ++ [(6#4, a, e)] ∧ others t ∧ Only [.arrays, .mon, .sec, .host, .out] s t)
        ∧ ((sound = false ∨ 2 ^ 51 * fld u.calp 3 0 * fld u.calp 3 0 < err) → u.recovered = true → u.retest = false →
          s.launches = [] → ∃ t, exec (.calibrationEnd a fit) s = .next t
            ∧ bit (arr t a).state 17 = true ∧ bit (arr t a).err 7 = true ∧ isPermanent t 2#4 a = true ∧ bit t.rel.err 12 = true
            ∧ others t ∧ Only [.arrays, .mon, .sec, .rel, .ident, .counters, .host, .out] s t))
    ∧ (∀ (fit : CalFit) (p i : Nat) (codes : List (Nat × Nat)) (x : CalOp), arrMode u = 2 → outOfWork u = false →
        s.host.running = [] → fit.test = [(p, codes)] → p < 528 → converterOf u p = p → freeSpare u = some i → u.cal = some x →
        testFails fit x.cti.toNat p u = true → ∃ t, exec (.calibrationEnd a fit) s = .next t
          ∧ spareField (arr t a) i = p ∧ bit (arr t a).err 5 = true ∧ isPermanent t 3#4 (converterUnit a p) = true)
    ∧ (∀ fit : CalFit, arrMode u ≠ 2 → s.host.running = [] → exec (.calibrationEnd a fit) s = .next s)

/-- R72 to R93, R292, Tables 3-3 to 3-7: writes and refreshes of an array. A grant within both limits begins the frame with a load notice; a row
takes its targets from the shadow, which a corrupt group ends and a transit error does not, or from the cell image; an iteration's verify sorts the columns against the band and a row ends with
every column in it or after 16; the row's end stores its levels and counts its stuck cells; the frame's end leaves by Table 2-9. -/
def Obligations.ArrayWriteRowsComplete : Prop :=
  ∀ (s : State) (a : Nat), a < 4096 →
    let u := arr s a
    let c := a / 128
    let others (t : State) : Prop := ∀ b, b ≠ a → arr t b = arr s b
    let readable (l : Layer) (r : Nat) : Prop := (shadowBytes l a r).all (fun x =>
      accessible s false x && !rangePoisoned s x 1 && !(seen s x 1).mismatch) = true
    (waitingRequests s = [] → exec .writeGrant s = .next s)
    ∧ (wbEffective s ≤ grantsHeld s → exec .writeGrant s = .next s)
    ∧ (grantsHeld s < wbEffective s → grantsIn s c < fld s.wbCfg 20 16 →
        let noticed (t : State) : Prop := ∃ n, t.pwr.notices.Perm (n :: s.pwr.notices) ∧ fld n.frame 31 30 = 0
          ∧ fld n.frame 29 27 = 1 ∧ fld n.frame 20 8 = 2
        (waitingRequests s = [⟨true, a⟩] → ∃ t w, exec .writeGrant s = .next t ∧ (arr t a).write = some w ∧ w.refresh = true
          ∧ w.rows = List.range 512 ∧ (arr t a).refreshes = satWord u.refreshes 1 ∧ (arr t a).image = u.image
          ∧ noticed t ∧ others t ∧ Only [.arrays, .pwr] s t)
        ∧ (waitingRequests s = [⟨false, a⟩] → idleActive s a = true → u.byCommand = none →
          ∃ t w, exec .writeGrant s = .next t ∧ (arr t a).write = some w ∧ w.refresh = false ∧ arrMode (arr t a) = 1
          ∧ w.rows = (List.range 512).filter (fun r => bit u.dirty r) ∧ (arr t a).dirty = 0#512
          ∧ bit (arr t a).wrstat 1 = false ∧ (arr t a).writes = satWord u.writes 1 ∧ (arr t a).granted = true
          ∧ (arr t a).request = none ∧ (arr t a).image = u.image ∧ noticed t ∧ others t ∧ Only [.arrays, .pwr] s t))
    ∧ (∀ w : WriteOp, u.write = some w →
        (noticeUnsent s 1 63 = true → ∀ seen, exec (.writeFirstRow a seen) s = .next s)
        ∧ (w.row = none → w.rowsDone = 0 → w.closing = false → noticeUnsent s 1 63 = false → ∀ (r : Nat) (rest : List Nat), w.rows = r :: rest →
          (∀ (x : BitVec 4) (l : Layer), w.refresh = false → layerOfArray s a = some (x, l) → readable l r →
            ∃ t, exec (.writeFirstRow a .good) s = .next t
              ∧ arr t a = { u with write := some { w with
                  rows := rest, row := some r, target := rowTarget (lWidth l) r (shadowRow s l a r), iter := 0, low := [],
                  high := [], rowEnded := false, setMv := [], resetMv := [], vband := fld u.wrcfg 2 0 } }
              ∧ others t ∧ Only [.arrays] s t)
          ∧ (∀ (x : BitVec 4) (l : Layer), w.refresh = false → layerOfArray s a = some (x, l) → readable l r →
            ∃ t w', exec (.writeFirstRow a .mismatch) s = .next t ∧ (arr t a).write = some w' ∧ w'.row = some r
              ∧ bit t.rel.err 1 = true ∧ (arr t a).wrerr = u.wrerr ∧ others t ∧ Only [.arrays, .rel] s t)
          ∧ (w.refresh = true → ∀ seen, ∃ t w', exec (.writeFirstRow a seen) s = .next t ∧ (arr t a).write = some w'
              ∧ w'.row = some r ∧ w'.rows = rest ∧ w'.iter = 0 ∧ (arr t a).image = u.image ∧ others t ∧ Only [.arrays] s t)
          ∧ (∀ (x : BitVec 4) (l : Layer), w.refresh = false → layerOfArray s a = some (x, l) → readable l r →
            s.host.running = [] → ∃ t, exec (.writeFirstRow a .atRest) s = .next t
              ∧ (arr t a).write = none ∧ (arr t a).granted = false ∧ bit (arr t a).wrstat 0 = false
              ∧ fld (arr t a).wrstat 3 2 = 3 ∧ bit (arr t a).wrerr 3 = true ∧ bit (arr t a).wrerr 4 = true
              ∧ bit t.rel.err 1 = true ∧ (ctxU t x).sealSt.detect = true ∧ (arr t a).image = u.image ∧ others t
              ∧ Only [.arrays, .rel, .ctxs, .counters, .ports, .fabric, .mon] s t))
        ∧ (∀ (r : Nat) (dev : List (Nat × Dy)), w.row = some r → w.rowEnded = false → w.startup = false →
          ∃ t w', exec (.writeIterationEnd a dev) s = .next t ∧ (arr t a).write = some w' ∧ w'.iter = w.iter + 1
            ∧ (∀ p, p < 528 → isRef p = false →
                let code := verifyCode (applyTrims u) p (dyAdd ⟨Int.ofNat (tget 0 w.target p), 0⟩ (deviation dev p))
                (p ∈ w'.low ↔ code + w.vband < 8 * tget 0 w.target p) ∧ (p ∈ w'.high ↔ 8 * tget 0 w.target p + w.vband < code))
            ∧ (w'.rowEnded = true ↔ (w'.low = [] ∧ w'.high = []) ∨ 16 ≤ w.iter + 1) ∧ w'.target = w.target
            ∧ (arr t a).pulses = u.pulses + w64 ((pulses u w r).1.length + (pulses u w r).2.length)
            ∧ (arr t a).trims = (applyTrims u).trims ∧ (arr t a).trimHeld = []
            ∧ (arr t a).image = u.image ∧ (arr t a).state = u.state ∧ others t ∧ Only [.arrays] s t)
        ∧ (∀ (r : Nat) (seen : CheckSeen), w.row = some r → w.rowEnded = true → w.rows = [] → (w.target.map (·.1)).Nodup →
          (∀ e, e ∈ w.target → e.1 < 528) → ∃ t w', exec (.writeRowEnd a seen) s = .next t ∧ (arr t a).write = some w'
            ∧ w'.closing = true ∧ w'.row = none ∧ w'.rowsDone = w.rowsDone + 1
            ∧ w'.stuck = w.stuck + w.low.length + w.high.length
            ∧ (arr t a).stuck = satWord u.stuck (w.low.length + w.high.length)
            ∧ (∀ p, p < 528 → isRef p = false → cellLevel (arr t a) r p = tget 0 w.target p)
            ∧ (∀ x p, x ≠ r → p < 528 → cellLevel (arr t a) x p = cellLevel u x p)
            ∧ (arr t a).state = (if w.refresh = true ∨ w.low ++ w.high = [] then u.state else setBit u.state 16)
            ∧ (w.low ++ w.high ≠ [] → bit (arr t a).wrerr (if w.refresh then 1 else 0) = true
                ∧ fld (arr t a).wrstat 23 16 = min 255 (w.stuck + w.low.length + w.high.length))
            ∧ ((w.refresh = false ∨ w.low ++ w.high = []) → Only [.arrays] s t)
            ∧ others t ∧ Only [.arrays, .sec, .host, .out] s t)
        ∧ (∀ us, w.closing = true → w.stuck = 0 → w.refresh = true →
          ∃ t, exec (.writeEnd a us) s = .next t ∧ (arr t a).write = none ∧ arrMode (arr t a) = 2
            ∧ fld (arr t a).state 13 11 = fld u.state 13 11 ∧ (arr t a).cal.isSome = true
            ∧ fld (arr t a).wrtime 31 22 = w.rowsDone % 1024 ∧ fld (arr t a).wrtime 21 0 = min us 0x3FFFFF
            ∧ others t ∧ Only [.arrays, .mon] s t)
        ∧ (∀ us, w.closing = true → w.stuck = 0 → w.refresh = false → w.startup = false → s.host.running = [] →
          u.dirty = 0#512 → fld u.state 16 14 = 0 → ∃ t, exec (.writeEnd a us) s = .next t ∧ (arr t a).write = none
            ∧ (arr t a).granted = false ∧ arrMode (arr t a) = 0 ∧ fld (arr t a).wrstat 3 2 = 1
            ∧ bit (arr t a).wrstat 0 = (w.command || bit u.wrstat 0)
            ∧ fld (arr t a).wrtime 21 0 = min us 0x3FFFFF ∧ (arr t a).image = u.image ∧ others t ∧ Only [.arrays] s t)
        ∧ (∀ us, w.closing = true → w.stuck ≠ 0 → w.refresh = true → u.retest = false → bit u.state 17 = false →
          s.host.running = [] → s.launches = [] → ∃ t, exec (.writeEnd a us) s = .next t ∧ bit (arr t a).state 17 = true
            ∧ fld (arr t a).wrstat 3 2 = 2 ∧ isPermanent t 2#4 a = true ∧ bit t.rel.err 12 = true ∧ others t
            ∧ Only [.arrays, .sec, .rel, .ident, .mon, .counters, .host, .out] s t))
    ∧ (u.write = none → ∀ seen us dev, exec (.writeFirstRow a seen) s = .next s ∧ exec (.writeRowEnd a seen) s = .next s
        ∧ exec (.writeEnd a us) s = .next s ∧ ∃ t, exec (.writeIterationEnd a dev) s = .next t ∧ arr t a = u ∧ others t)
    ∧ (wearDue c s = true → s.sec.full = false → journalFits s.sec.journal 32768 = true → ∃ t r, exec (.wearCopy c) s = .next t
        ∧ (logRecords t).getLast? = some r ∧ r.kind = 0x08#8 ∧ r.unit = c ∧ t.sec.seq = s.sec.seq + 1
        ∧ tget ⟨0#32, 0#32, 0#64, 0#32, 0#32, []⟩ t.sec.wear a = wearOf u ∧ Only [.sec] s t)
    ∧ (wearDue c s = false → exec (.wearCopy c) s = .next s)

/-- R95 to R116, R148, R156, R167, R274, R290, Tables 4-9, 4-13, 10-4: a core's matrix engine and its self-test. A good descriptor enters the
queue, a bad one ends its launch; the pass at the head streams where the engine may, its accumulators wait for the drain, an
image is written, a drained row is stored through its entry; a mismatched group is read once more; a failed test fences the core. -/
def Obligations.EngineRowsComplete : Prop :=
  ∀ (s : State) (k : Nat), k < 512 → coreFenced s k = false →
    let c := core s k
    let others (t : State) : Prop := ∀ j, j ≠ k → core t j = core s j
    let fits (q : Queued) : Prop := formBad q = false ∧ rangesBad s k q = false ∧ guarded s (dDest q) (outBytes q) = false
    (∀ (uid : Nat) (words : List Word) (l : LaunchS), findLaunch s uid = some l → l.state = .running →
        let q : Queued := ⟨uid, words, false⟩
        (fits q → c.passq.length + c.retry.isSome.toNat < 8 → ∃ t, exec (.descriptorEnqueue uid k words) s = .next t
          ∧ core t k = { c with passq := c.passq ++ [q] } ∧ others t ∧ Only [.cores] s t)
        ∧ (fits q → 8 ≤ c.passq.length + c.retry.isSome.toNat → exec (.descriptorEnqueue uid k words) s = .next s)
        ∧ (∀ p : Packet, ¬ fits q → l.kind ≠ 4#4 → s.host.running = [⟨p, .launch uid⟩] → p.muted = false →
          ∃ t, exec (.descriptorEnqueue uid k words) s = .next t ∧ bit (core t k).engErr 5 = true
            ∧ (∀ x, x ∈ t.launches → x.uid = uid → x.state = .stopped) ∧ t.host.running = []
            ∧ Answers t p 0x30 [w32 l.number.toNat, l.epoch, w32 l.recalls, s.rack.extractLsb' 0 32, s.rack.extractLsb' 32 32]))
    ∧ (∀ (q : Queued) (rest : List Queued) (l : LaunchS), c.passq = q :: rest → findLaunch s q.launch = some l → c.stream = none →
        engineAwake s k = true → accHeld c = false → regionOn (digState s (k / 16)) = true → dOut q ≠ 2 → fits q →
        let wb := windowBase (entryOf s k (dTensor q)) (fmtEpoch s l)
        let bad := reservedIn s (readRanges q)
        (rangesLive s q = true → checkRanges s .good (readRanges q) = .clean →
          (∃ t, exec (.passIssue k .good) s = .next t
            ∧ core t k = { c with
                passq := rest, power := 2#2, wakeAt := none, stream := some ⟨q, [], bad, wb.1, wb.2, 0, false⟩
                fmtErr := if bad = [] then c.fmtErr else setBit c.fmtErr 0 }
            ∧ others t ∧ Only [.cores, .clusters] s t)
          ∧ (∀ b g, ∃ t, exec (.passIssue k (.hdrBad b g)) s = .next t ∧ (core t k).passq = rest
            ∧ (core t k).stream = some ⟨q, [], bad ++ [sideGroup q b g], wb.1, wb.2, 0, false⟩
            ∧ bit (core t k).fmtErr 0 = true ∧ others t ∧ Only [.cores, .clusters] s t))
        ∧ (rangesLive s q = true → q.retried = false → ∀ check,
            check = .mismatch ∨ check = .atRest ∨ (check = .good ∧ checkRanges s .good (readRanges q) = .rest) →
            ∃ t, exec (.passIssue k check) s = .next t ∧ (core t k).passq = rest
            ∧ (core t k).retry = some q ∧ (core t k).stream = none ∧ bit (core t k).engErr 4 = true
            ∧ bit (core t k).engErr 7 = true ∧ bit t.rel.err 1 = true ∧ others t ∧ Only [.cores, .rel] s t)
        ∧ (rangesLive s q = false → ∃ t, exec (.passIssue k .good) s = .next t ∧ bit (core t k).engErr 4 = true
            ∧ ∀ x, x ∈ t.launches → x.uid = q.launch → x.state = .stopped))
    ∧ (∀ (q : Queued) (rest : List Queued) (l : LaunchS), c.passq = q :: rest → findLaunch s q.launch = some l → ∀ check,
        (engineAwake s k = false → exec (.passIssue k check) s = .next s)
        ∧ (accHeld c = true → c.stream = none → engineAwake s k = true → regionOn (digState s (k / 16)) = true →
          exec (.passIssue k check) s = .next (if c.drain.any (·.held) then s else modCore s k (drainBubbles 1))))
    ∧ (∀ (p : Pass) (l : LaunchS), c.stream = some p → findLaunch s p.job.launch = some l → rangesLive s p.job = true →
        let q := p.job
        (∀ bubbles, dKind q = 1 → s.poison = [] → s.rel.badStacks = 0#8 →
          ∃ t p', exec (.productPass k bubbles) s = .next t ∧ (core t k).stream = none ∧ (core t k).drain = c.drain ++ [p']
            ∧ p'.job = q ∧ p'.row = p.row ∧ p'.base = p.base ∧ p'.acc.length = dRows q
            ∧ (∀ i, i < dRows q → (p'.acc.getD i []).length = if keepsRow q i then dCols q else 0)
            ∧ 256 * (core t k).feedCnt.toNat + (core t k).feedSub ≤ 256 * c.feedCnt.toNat + c.feedSub + bubbles
            ∧ (core t k).passq = c.passq ∧ others t ∧ Only [.cores, .clusters] s t)
        ∧ (dKind q = 2 → mayWrite (entryOf s k (dTensor q)) l = true → s.poison = [] →
          let n := dOut q - 7
          let bytes := (buildOutput s q p.bad).flatMap fun b => zqBytes n (encodeBlock n none (dTag q) b.vals).1
          inStacks s (dDest q) bytes.length = true → aloof s (dDest q) bytes.length (dDest q) bytes.length →
          ∃ t, exec (.imageBuild k) s = .next t ∧ (core t k).stream = none
            ∧ memGet t (dDest q) bytes.length = bytes ∧ outside (dDest q) bytes.length s t ∧ (core t k).passq = c.passq
            ∧ others t ∧ Only [.cores, .clusters, .memory] s t))
    ∧ (∀ (p : Pass) (rest : List Pass), c.drain = p :: rest →
        (∃ t, exec (.drainRowTake k false) s = .next t ∧ (core t k).drain = { p with held := true } :: rest ∧ others t
          ∧ Only [.cores] s t)
        ∧ (∀ l, findLaunch s p.job.launch = some l → p.row < 63 → dOut p.job ≠ 2 → p.acc.getD p.row [] ≠ [] →
          (p.acc.getD p.row []).all (fun x => !x.poison) = true → (p.acc.getD p.row []).length = dCols p.job →
          mayWrite (entryOf s k (dTensor p.job)) l = true →
          let q := p.job
          let e := entryOf s k (dTensor q)
          let bytes := (chunks 32 ((p.acc.getD p.row []).map (Acc.present p.base false))).flatMap fun v =>
            (writeThrough e (fmtEpoch s l) (dFmt q) (dTag q) v).1
          let a := dDest q + p.row * outRowBytes q
          guarded s a (outRowBytes q) = false → inStacks s a (outRowBytes q) = true → aloof s a bytes.length a bytes.length → ∃ t, exec (.drainRowTake k true) s = .next t
            ∧ (core t k).drain = { p with row := p.row + 1, held := false } :: rest
            ∧ memGet t a bytes.length = bytes ∧ outside a bytes.length s t ∧ others t
            ∧ Only [.cores, .clusters, .memory, .poison] s t))
    ∧ (c.stream = none → ∃ t, exec (.engineIdle k) s = .next t ∧ core t k = { c with power := 0#2, wakeAt := none } ∧ others t
        ∧ Only [.cores] s t)
    ∧ (c.stream ≠ none → exec (.engineIdle k) s = .next s)
    ∧ (c.power = 0#2 → c.passq ≠ [] → s.pwr.notices = [] → ∃ t n, exec (.engineWake k) s = .next t
        ∧ core t k = { c with power := 1#2, wakeAt := none } ∧ t.pwr.notices = [n] ∧ n.rank = 4 ∧ fld n.frame 31 27 = 0
        ∧ fld n.frame 26 21 = k / 16 ∧ fld n.frame 20 8 = 26 ∧ others t ∧ Only [.cores, .pwr] s t)
    ∧ (∀ q : Queued, c.retry = some q →
        (checkRanges s .good (readRanges q) = .clean → eventsWithin s 1#4 k day + 1 < fld (histCfg s) 23 16 → ∃ t, exec (.groupReread k .good) s = .next t
          ∧ (core t k).retry = none ∧ (core t k).passq = { q with retried := true } :: c.passq ∧ (core t k).testDue = true
          ∧ t.rel.detectCnt = satFld s.rel.detectCnt 31 16 1 ∧ (∃ e, t.sec.events = s.sec.events ++ [(1#4, k, e)])
          ∧ others t ∧ Only [.cores, .rel, .sec, .host, .out] s t)
        ∧ (∃ t, exec (.groupReread k .mismatch) s = .next t ∧ (core t k).retry = none
          ∧ (∀ l, l ∈ t.launches → l.uid = q.launch → l.state = .stopped) ∧ bit t.rel.err 2 = true
          ∧ t.rel.detectCnt = satFld s.rel.detectCnt 15 0 1 ∧ (ctxU t (dCtx q)).sealSt.detect = true ∧ others t
          ∧ Only [.cores, .rel, .ctxs, .launches, .ports, .fabric] s t))
    ∧ (c.testDue = true → c.stream = none → c.passq = [] → c.drain = [] → ∃ t, exec (.coreSelfTest k) s = .next t
        ∧ core t k = { c with testDue := false, testing := true } ∧ others t ∧ Only [.cores] s t)
    ∧ (c.testDue = false ∨ c.passq ≠ [] → exec (.coreSelfTest k) s = .next s)
    ∧ (c.testing = true → s.host.running = [] →
        (∃ t, exec (.coreSelfTestEnd k true) s = .next t ∧ core t k = { c with testing := false } ∧ others t ∧ Only [.cores] s t)
        ∧ (bit s.rel.coreFence k = false → s.launches = [] → ∃ t, exec (.coreSelfTestEnd k false) s = .next t
          ∧ bit t.rel.coreFence k = true ∧ isPermanent t 1#4 k = true ∧ bit t.rel.err 12 = true
          ∧ (∀ i, i < 8 → bit (arr t (8 * k + i)).state 17 = true) ∧ (core t k).passq = [] ∧ others t
          ∧ Only [.host, .sec, .arrays, .cores, .rel, .ident, .counters, .out] s t))

/-- R291: the retest of a fenced core by UNIT_CLEAR. A self-test that passes returns the core, and its arrays that are not permanent, and the
command is answered OK; one that fails leaves the fence, and the command is answered FENCED_UNIT. -/
def Obligations.CoreRetestReturnsTheCore : Prop :=
  ∀ (s : State) (k : Nat) (p : Packet), k < 512 → (core s k).testing = true → clusterOut s (k / 16) = false →
    bit s.rel.coreFence k = true → s.host.running = [⟨p, .retest 1#4 k⟩] → p.muted = false →
    (∀ i, i < 8 → (arr s (8 * k + i)).write = none ∧ arrMode (arr s (8 * k + i)) = 0
      ∧ bit (arr s (8 * k + i)).wrstat 1 = false ∧ (arr s (8 * k + i)).granted = false ∧ (arr s (8 * k + i)).request = none) →
    (∃ t, exec (.coreSelfTestEnd k true) s = .next t ∧ bit t.rel.coreFence k = false
      ∧ (∀ i, i < 8 → isPermanent s 2#4 (8 * k + i) = false → bit (arr t (8 * k + i)).state 17 = false)
      ∧ (∀ j, j ≠ k → bit t.rel.coreFence j = bit s.rel.coreFence j)
      ∧ t.host.running = [] ∧ Answers t p 0 [] ∧ Only [.host, .cores, .arrays, .rel, .ident] s t)
    ∧ (∃ t, exec (.coreSelfTestEnd k false) s = .next t ∧ bit t.rel.coreFence k = true ∧ isPermanent t 1#4 k = true
      ∧ t.host.running = [] ∧ Answers t p 0x60 [] ∧ Only [.host, .cores, .sec, .rel, .out] s t)

/-- R117 to R123, R118, R156, R258, Table 4-10: every vector operation computes each element in FP32, once rounded, and its results go
through the tensor entry that it names, in the destination format; a NaN sets NAN_OUT, a tail is counted, a reserved code stops
the launch. The result block is the core's vector result (the model's own record of it, log 12). -/
def Obligations.VectorOperationsComplete : Prop :=
  ∀ (s : State) (o : VOp) (a b z : VSrc) (slot : BitVec 2), o.core < 512 → coreFenced s o.core = false →
    let k := o.core
    let c := core s k
    let others (t : State) : Prop := ∀ j, j ≠ k → core t j = core s j
    let f (x : Word) : Word × Bool := tableValue c slot.toNat x
    let rows : List (Instr × List Word × Nat) :=
      [(.add o a b, List.zipWith f32Add (vsrcWords a) (vsrcWords b), 0), (.sub o a b, List.zipWith f32Sub (vsrcWords a) (vsrcWords b), 0),
       (.mul o a b, List.zipWith f32Mul (vsrcWords a) (vsrcWords b), 0), (.max o a b, List.zipWith f32Max (vsrcWords a) (vsrcWords b), 0),
       (.min o a b, List.zipWith f32Min (vsrcWords a) (vsrcWords b), 0),
       (.fma o a b z, List.zipWith (fun p v => f32Fma p.1 p.2 v) ((vsrcWords a).zip (vsrcWords b)) (vsrcWords z), 0),
       (.abs o a, (vsrcWords a).map f32Abs, 0), (.cvt o a, (vsrcWords a).map fun w => if isNanF32 w then 0x7FC00000#32 else w, 0),
       (.recip o a, (vsrcWords a).map f32Recip, 0), (.rsqrt o a, (vsrcWords a).map f32Rsqrt, 0),
       (.sum o a, [f32Sum (vsrcWords a)], 0), (.amax o a, [f32Amax (vsrcWords a)], 0),
       (.table o slot a, (vsrcWords a).map fun x => (f x).1, (vsrcWords a).countP fun x => (f x).2),
       (.tableD o slot a b, List.zipWith (fun x g => f32Mul g (f x).1) (vsrcWords a) (vsrcWords b),
         (vsrcWords a).countP fun x => (f x).2)]
    (∀ l, findLaunch s o.launch = some l → mayWrite (entryOf s k o.entry.toNat) l = true →
      ∀ r, r ∈ rows → ∃ t, exec r.1 s = .next t
        ∧ (core t k).vecOut
          = (writeThrough (entryOf s k o.entry.toNat) (fmtEpoch s l) o.dst false (r.2.1.map fun w => { v := f32ToFv w })).1
        ∧ (∀ i, bit (core t k).vecErr i = (bit c.vecErr i || (i == 4 && r.2.1.any isNanF32)))
        ∧ (core t k).tailCnt.toNat = min (c.tailCnt.toNat + r.2.2) 0xFFFFFFFF
        ∧ (core t k).tables = c.tables ∧ (core t k).passq = c.passq ∧ (core t k).engErr = c.engErr ∧ (core t k).fmtErr = c.fmtErr
        ∧ (∀ x, x ≠ o.entry.toNat → entryOf t k x = entryOf s k x) ∧ others t ∧ Only [.cores, .clusters] s t)
    ∧ (∀ sc header codes own oh, ∃ t, exec (.wadd k sc header codes own oh) s = .next t
        ∧ (core t k).vecOut = waddBlock sc header codes (own.map fun d => Fv.fin (decide (d.m < 0)) d) oh
        ∧ (∀ i, bit (core t k).fmtErr i = (bit c.fmtErr i || (i == 0 && zb8Bit header 4)))
        ∧ (core t k).vecErr = c.vecErr ∧ (core t k).tables = c.tables ∧ (core t k).passq = c.passq ∧ others t ∧ Only [.cores] s t)
    ∧ (∀ (uid : Nat) (code : BitVec 6) (l : LaunchS) (p : Packet), findLaunch s uid = some l →
        ((code = 0#6 ∨ 16 ≤ code.toNat) → l.kind ≠ 4#4 → s.host.running = [⟨p, .launch uid⟩] → p.muted = false →
          ∃ t, exec (.vectorOpReserved k uid code) s = .next t ∧ bit (core t k).vecErr 3 = true
            ∧ (∀ x, x ∈ t.launches → x.uid = uid → x.state = .stopped) ∧ t.host.running = [] ∧ (core t k).vecOut = c.vecOut
            ∧ Answers t p 0x30 [w32 l.number.toNat, l.epoch, w32 l.recalls, s.rack.extractLsb' 0 32, s.rack.extractLsb' 32 32]
            ∧ (l.updated = [] → ∀ x, memByte t x = memByte s x) ∧ t.rel = s.rel ∧ t.pwr = s.pwr)
        ∧ (code ≠ 0#6 → code.toNat < 16 → exec (.vectorOpReserved k uid code) s = .next s))

/-- R118, R119, R122: the values that the vector operations give at the corners. MAX and MIN of the two zeros, NaN in every operation,
the reciprocals of zero and infinity, one rounding of FMA, the table at a NaN, in its tails, and with a zero tail slope. -/
def Obligations.VectorCornersAreFixed : Prop :=
  (∀ a b : Word, (isNanF32 a = true ∨ isNanF32 b = true) →
      f32Max a b = 0x7FC00000#32 ∧ f32Min a b = 0x7FC00000#32 ∧ f32Add a b = 0x7FC00000#32 ∧ f32Sub a b = 0x7FC00000#32
        ∧ f32Mul a b = 0x7FC00000#32)
  ∧ (f32Max 0#32 0x80000000#32 = 0#32 ∧ f32Max 0x80000000#32 0#32 = 0#32
      ∧ f32Min 0#32 0x80000000#32 = 0x80000000#32 ∧ f32Min 0x80000000#32 0#32 = 0x80000000#32)
  ∧ (∀ a b : Word, isNanF32 a = false → isNanF32 b = false → (f32Max a b = a ∨ f32Max a b = b) ∧ (f32Min a b = a ∨ f32Min a b = b)
      ∧ fvLt (f32ToFv (f32Max a b)) (f32ToFv a) = false ∧ fvLt (f32ToFv (f32Max a b)) (f32ToFv b) = false
      ∧ fvLt (f32ToFv a) (f32ToFv (f32Min a b)) = false ∧ fvLt (f32ToFv b) (f32ToFv (f32Min a b)) = false)
  ∧ (f32Recip 0x7F800000#32 = 0#32 ∧ f32Recip 0xFF800000#32 = 0x80000000#32 ∧ f32Recip 0x3F800000#32 = 0x3F800000#32
      ∧ f32Rsqrt 0x7F800000#32 = 0#32 ∧ f32Rsqrt 0x3F800000#32 = 0x3F800000#32)
  ∧ (∀ xs : List Word, xs.any isNanF32 = true → f32Amax xs = 0x7FC00000#32)
  ∧ (∀ (c : CoreU) (slot : Nat) (x : Word), isNanF32 x = true → tableValue c slot x = (0x7FC00000#32, false))
  ∧ (∀ (c : CoreU) (slot : Nat), slotWord c slot 0xC08 = 0#32 → isFiniteF32 (slotWord c slot 0xC00) = true →
      tableValue c slot 0xFF800000#32 = (slotWord c slot 0xC0C, true))
  ∧ (∀ (c : CoreU) (slot : Nat), slotWord c slot 0xC10 = 0#32 → isFiniteF32 (slotWord c slot 0xC00) = true →
      tableValue c slot 0x7F800000#32 = (slotWord c slot 0xC14, true))

/-- R108, R149 to R153, R165, R170, R171, R175, R176, R411: FORWARD and BACKWARD_IN. An entry waits for a pass that goes before it, and
for its engines to wake. The products of a micro-batch are asked of every array of the layer; once all have answered, each token's
outputs are folded, take the table, and are written through T_OUT group by group, and a TRAIN launch copies its inputs to the stash
(whose layout is the model's, log 14); the input gradient is written from a current transposed image. Whose entry serves a group of 32
outputs, and the factor z, is the model's (log 52). An entry without micro-batches does nothing; one whose image is not current waits. -/
def Obligations.ForwardAndBackwardRowsComplete : Prop :=
  ∀ (s : State) (uid : Nat) (f : FwdForm) (l : LaunchS) (e : Prog),
    (atEntry s uid 1 l e → e.mbCount = 0#16 →
        ∃ t, exec (.forward uid f) s = .next t ∧ findLaunch t uid = some (afterEntry l) ∧ Only [.launches] s t)
    ∧ (atEntry s uid 2 l e → e.mbCount = 0#16 →
        ∃ t, exec (.backwardIn uid f) s = .next t ∧ findLaunch t uid = some (afterEntry l) ∧ Only [.launches] s t)
    ∧ (∀ r : Layer, atEntry s uid 1 l e → e.mbCount ≠ 0#16 → layerRec s l.ctx e.layer.toNat = some r → r.st.applying = false →
        let n := f.inN.toNat + 1
        let bytes := rowBytes n (lIn r)
        let src (k : Nat) : Nat := tokenAddr e.inAddr.toNat l f k bytes
        let input : Range := (src 0, f.tokens * bytes)
        let coreAt (o : Nat) : Nat := coreFor s (lFirst r + o / max 1 (weightsPerRow (lWidth r)) * lTin r)
        let bad0 := phaseBad s f.check [input] fun b g => if b then (0, 0) else tensorGroup n (src 0) (rowBlocks (lIn r)) g
        let engines := (forwardSlots s l r f).map (·.1)
        let reads := input :: forwardReads s l r (src 0) (f.tokens * bytes)
        let s1 := (consume l f.check reads.tail s).2
        let bad := phaseBad s1 f.check reads fun b g =>
          if b then tensorGroup (lDWidth r) (lFwd r) (rowBlocks (lIn r)) g else tensorGroup n (src 0) (rowBlocks (lIn r)) g
        let x (k : Nat) : List ZqBlock := readBlocks s1 bad n (src k) (rowBlocks (lIn r))
        let z (k : Nat) : List ZqBlock := if lRank r = 0 then [] else (factorZ s1 bad l r f.zEntry.toNat n (x k)).1
        let out (k o : Nat) : Pv × Bool :=
          let y := forwardOutput s1 bad l r f (outputBase s1 l e.tOut.toNat coreAt o).1 k o (x k) (z k)
          ((throughTable s1 (coreAt o) f.slot y.1).1, y.2.1)
        let dst (k : Nat) : Nat := tokenAddr e.outAddr.toNat l f k (outBytesOf f (lOut r))
        let size := f.tokens * outBytesOf f (lOut r)
        let stashes : Prop := l.kind = 1#4 ∧ stashKib s l ≠ 0
        let stash := stashAddr s l (lNum r) (batchOf l e) { f with stashN := f.inN }
        let copied := f.tokens * bytes
        (outranked s l e = true ∨ (l.kind = 1#4 ∧ holdsStash s l (batchOf l e) = false) → exec (.forward uid f) s = .next s)
        ∧ (outranked s l e = false → (l.kind = 1#4 → holdsStash s l (batchOf l e) = true) →
          (l.asked = false → rangesOk s [input] = true → ∃ t, exec (.forward uid f) s = .next t
            ∧ findLaunch t uid = some { l with asked := true, tableSlot := f.slot, gather := [], due := f.tokens * lCount r }
            ∧ (∀ a, a ∈ lArrays r → arr t a = { arr s a with queue := (arr s a).queue ++ (List.range f.tokens).map fun k =>
                { launch := l.uid, token := k, inN := n, tIn := e.tIn.toNat
                  blocks := ((readBlocks s bad0 n (src k) (rowBlocks (lIn r))).drop (16 * (tileOf r a).2)).take 16
                  spans := [], invalid := false, acc := [], plane := 0, span := 0, sat := [] } })
            ∧ (∀ a, a ∉ lArrays r → arr t a = arr s a)
            ∧ (∀ k, core t k = if bad0 ≠ [] ∧ k ∈ (lArrays r).map (coreFor s)
                then { core s k with fmtErr := setBit (core s k).fmtErr 0 } else core s k)
            ∧ Only [.arrays, .cores, .launches] s t)
          ∧ (l.asked = true → l.gather.length ≠ l.due → exec (.forward uid f) s = .next s)
          ∧ (l.asked = true → l.gather.length = l.due →
            (enginesAwake s engines = false → exec (.forward uid f) s = .next (askNotices engines s))
            ∧ (enginesAwake s engines = true → rangesOk s reads = true →
              ((consume l f.check reads.tail s).1 = false → exec (.forward uid f) s = .next s1)
              ∧ ((consume l f.check reads.tail s).1 = true → rangesPoisoned s1 reads = false →
                (lRank r ≠ 0 → mayWrite (entryOf s (zCore s r) f.zEntry.toNat) l = true) →
                (∀ o, o < lOut r → mayWrite (entryOf s (coreAt o) e.tOut.toNat) l = true) →
                storable s (dst 0) size = true → aloof s (dst 0) size (dst 0) size →
                (∀ y, y ∈ reads → apart (dst 0) size y.1 y.2 ∧ aloof s (dst 0) size y.1 y.2) →
                (stashes → storable s stash copied = true ∧ apart stash copied (dst 0) size ∧ aloof s stash copied stash copied
                  ∧ aloof s stash copied (dst 0) size ∧ aloof s (dst 0) size stash copied
                  ∧ ∀ y, y ∈ reads → apart stash copied y.1 y.2 ∧ aloof s stash copied y.1 y.2) →
                ∃ t, exec (.forward uid f) s = .next t ∧ findLaunch t uid = some (afterBatch l e)
                  ∧ (∀ k, k < f.tokens → memGet t (dst k) (outBytesOf f (lOut r))
                      = groupBytes s1 l e.tOut.toNat f.out coreAt ((List.range (lOut r)).map (out k)))
                  ∧ (stashes → memGet t stash copied = memGet s1 (src 0) copied)
                  ∧ (∀ b, (b < dst 0 ∨ dst 0 + size ≤ b) → ¬ sealedBy s (dst 0) size b →
                      (stashes → (b < stash ∨ stash + copied ≤ b) ∧ ¬ sealedBy s stash copied b) → memByte t b = memByte s b)
                  ∧ Only [.cores, .clusters, .launches, .memory, .poison] s1 t)))))
    ∧ (∀ r : Layer, atEntry s uid 2 l e → e.mbCount ≠ 0#16 → layerRec s l.ctx e.layer.toNat = some r → r.st.applying = false →
        let n := f.inN.toNat + 1
        let sn := f.stashN.toNat + 1
        let bytes := rowBytes n (lOut r)
        let src (k : Nat) : Nat := tokenAddr e.inAddr.toNat l f k bytes
        let sb := rowBytes sn (lIn r)
        let stash := stashAddr s l (lNum r) (batchOf l e) f
        let coreAt (i : Nat) : Nat := coreFor s (lFirst r + i / 512)
        let dst (k : Nat) : Nat := tokenAddr e.outAddr.toNat l f k (outBytesOf f (lIn r))
        let size := f.tokens * outBytesOf f (lIn r)
        let engines := (columnCores s r).map (·.1)
        let reads : List Range := [(src 0, f.tokens * bytes), (lT r, lIn r * rowBytes (lDWidth r) (lOut r))]
          ++ if f.slot.isSome then [(stash, f.tokens * sb)] else []
        let s1 := (consume l f.check reads s).2
        let bad := phaseBad s1 f.check reads fun b g =>
          if b then tensorGroup (lDWidth r) (lT r) (rowBlocks (lOut r)) g else tensorGroup n (src 0) (rowBlocks (lOut r)) g
        let value (k i : Nat) : Pv :=
          let base := (outputBase s1 l e.tOut.toNat coreAt i).1
          let v := (dotRow n (lDWidth r) base (readBlocks s1 bad n (src k) (rowBlocks (lOut r)))
            (imageBlocks s1 bad (lT r) (lDWidth r) (lOut r) i) Acc.zero).present base false
          match f.slot with
          | none => v
          | some j =>
            let xs := (readBlocks s1 bad sn (stash + k * sb) (rowBlocks (lIn r))).flatMap fun b => b.codes.map (zqToF32 sn b.e)
            let w := f32Mul (if v.invalid then 0x7FC00000#32 else fvToF32 v.v) (tableValue (core s (coreAt i)) j.toNat (xs.getD i 0#32)).1
            { v with v := f32ToFv w, invalid := v.invalid || isNanF32 w }
        (r.st.tEpoch ≠ some (ctxU s l.ctx).epoch ∨ forwardLeft s l e.layer (batchOf l e) = true ∨ outranked s l e = true →
          exec (.backwardIn uid f) s = .next s)
        ∧ (r.st.tEpoch = some (ctxU s l.ctx).epoch → forwardLeft s l e.layer (batchOf l e) = false → outranked s l e = false →
          (enginesAwake s engines = false → exec (.backwardIn uid f) s = .next (askNotices engines s))
          ∧ (enginesAwake s engines = true → rangesOk s reads = true →
            ((consume l f.check reads s).1 = false → exec (.backwardIn uid f) s = .next s1)
            ∧ ((consume l f.check reads s).1 = true → rangesPoisoned s1 reads = false →
              (∀ i, i < lIn r → mayWrite (entryOf s (coreAt i) e.tOut.toNat) l = true) →
              storable s (dst 0) size = true → aloof s (dst 0) size (dst 0) size →
              (∀ y, y ∈ reads → apart (dst 0) size y.1 y.2 ∧ aloof s (dst 0) size y.1 y.2) →
              ∃ t, exec (.backwardIn uid f) s = .next t ∧ findLaunch t uid = some (afterBatch l e)
                ∧ (∀ k, k < f.tokens → memGet t (dst k) (outBytesOf f (lIn r))
                    = groupBytes s1 l e.tOut.toNat f.out coreAt ((List.range (lIn r)).map fun i => (value k i, false)))
                ∧ outside (dst 0) size s1 t ∧ Only [.cores, .clusters, .launches, .memory, .poison] s1 t))))

/-- R109 to R112, R171, R175, R176, R253 to R255: WEIGHT_GRAD contributes the masked product of a micro-batch to its caravan, tile by tile
(the place of the caravan's number in OUT_ADDR is the model's, log 14): exact values where one slice has one micro-batch, FP32 sums in
the contribution area elsewhere. BUILD_FWD and BUILD_T write the image from the committed master and mark it current; a current one is
kept. Each waits for a pass that goes before it, and for its engines to wake (R108). -/
def Obligations.GradientAndImageRowsComplete : Prop :=
  ∀ (s : State) (uid : Nat) (f : FwdForm) (l : LaunchS) (e : Prog) (r : Layer),
    layerRec s l.ctx e.layer.toNat = some r → r.st.applying = false → lNum r = e.layer.toNat →
    (atEntry s uid 3 l e → e.mbCount = 0#16 →
        ∃ t, exec (.weightGrad uid f) s = .next t ∧ findLaunch t uid = some (afterEntry l) ∧ Only [.launches] s t)
    ∧ (atEntry s uid 3 l e → e.mbCount ≠ 0#16 → outranked s l e = true → exec (.weightGrad uid f) s = .next s)
    ∧ (∀ (v : Caravan) (j : Nat), atEntry s uid 3 l e → e.mbCount ≠ 0#16 → outranked s l e = false →
        let n := f.inN.toNat + 1
        let sn := f.stashN.toNat + 1
        let db := rowBytes n (lOut r)
        let xb := rowBytes sn (lIn r)
        let src := tokenAddr e.inAddr.toNat l f 0 db
        let stash := stashAddr s l (lNum r) (batchOf l e) f
        let reads : List Range := [(src, f.tokens * db), (stash, f.tokens * xb)]
        let s0 := startCaravan l.ctx (gradCaravan e) l.epoch s
        let s1 := (consume l f.check reads s0).2
        let engines := (((List.range (tileCount v)).filter fun k => !tileMasked s0 v k).map (homeExec s0 r v)).dedup
        let bad := phaseBad s1 f.check reads fun b g =>
          if b then tensorGroup sn stash (rowBlocks (lIn r)) g else tensorGroup n src (rowBlocks (lOut r)) g
        let dy := (List.range f.tokens).map fun k => readBlocks s1 bad n (src + k * db) (rowBlocks (lOut r))
        let x := (List.range f.tokens).map fun k => readBlocks s1 bad sn (stash + k * xb) (rowBlocks (lIn r))
        let r0 (k : Nat) : Nat := 64 * (k / max 1 (tileCols v))
        let c0 (k : Nat) : Nat := 64 * (k % max 1 (tileCols v))
        let kept (k i : Nat) : Prop := k < tileCount v ∧ tileMasked s1 v k = false ∧ i < min 64 (v.rows - r0 k)
          ∧ maskBit s1 (lRowMask r) (r0 k + i) = true
        let elt (k i c : Nat) : Option Dy :=
          let base := (windowBase (entryOf s1 (homeExec s1 r v k) e.tOut.toNat) (fmtEpoch s1 l)).1
          if min 64 (v.cols - c0 k) ≤ c then some ⟨0, 0⟩
          else
            let acc := dotRow n sn base (columnBlocks n f.tokens dy (r0 k + i)).1 (columnBlocks sn f.tokens x (c0 k + c)).1 Acc.zero
            if acc.invalid then none else some ⟨acc.a, base⟩
        let area := 4 * v.slices.length * v.rows * padCols v.cols + 2 * v.slices.length * tileCount v
        let maskApart (base : Nat) : Prop := ∀ m ∈ [(lRowMask r, (v.rows + 7) / 8), (lBlockMask r, (tileCount v + 7) / 8)],
          m.1 = noAddr ∨ (apart m.1 m.2 base area ∧ aloof s1 base area m.1 m.2)
        let counted (t : State) : Prop := ∃ w, findCv t l.ctx (gradCaravan e) l.epoch = some w ∧ w.state = v.state
          ∧ (∀ k, k < tileCount v → tget 0 w.counts (2 ^ 24 * j + k)
              = tget 0 v.counts (2 ^ 24 * j + k) + if tileMasked s1 v k then 0 else 1)
        rangesOk s ((cvEntry s (gradCaravan e) l.epoch, 128) :: reads) = true →
        findCv s0 l.ctx (gradCaravan e) l.epoch = some v → sliceOf v l.number = some j → v.state ≠ 3#3 → v.layer = e.layer →
        (enginesAwake s0 engines = false → exec (.weightGrad uid f) s = .next (askNotices engines s0))
        ∧ (enginesAwake s0 engines = true → (consume l f.check reads s0).1 = false → exec (.weightGrad uid f) s = .next s1)
        ∧ (enginesAwake s0 engines = true → (consume l f.check reads s0).1 = true → rangesPoisoned s1 reads = false →
          (isExact v = true → (∀ base ∈ v.contrib, inStacks s1 base area = true ∧ maskApart base) →
            ∃ t w, exec (.weightGrad uid f) s = .next t
              ∧ findLaunch t uid = some (afterBatch l e) ∧ counted t ∧ findCv t l.ctx (gradCaravan e) l.epoch = some w
              ∧ (∀ k i, kept k i → ∃ row, row ∈ tget [] w.exact k ∧ row.1 = i
                  ∧ row.2 = (List.range (32 * tileBlocks v k)).map (elt k i))
              ∧ (v.contrib = none → ∀ b, memByte t b = memByte s1 b) ∧ (∀ base, v.contrib = some base → outside base area s1 t)
              ∧ Only [.cores, .clusters, .ctxs, .launches, .fabric, .memory, .poison] s1 t)
          ∧ (∀ base, v.contrib = some base → isExact v = false → storable s1 base area = true → aloof s1 base area base area →
              maskApart base →
              ∃ t, exec (.weightGrad uid f) s = .next t ∧ findLaunch t uid = some (afterBatch l e) ∧ counted t
                ∧ (∀ k i c, kept k i → c < 32 * tileBlocks v k →
                    let a := base + 4 * ((j * v.rows + r0 k + i) * padCols v.cols + c0 k + c)
                    let g := match elt k i c with
                      | some d => dyToF32 d
                      | none => 0x7FC00000#32
                    readWord t a = if tget 0 v.counts (2 ^ 24 * j + k) = 0 then g else f32Add (readWord s1 a) g)
                ∧ outside base area s1 t ∧ Only [.cores, .clusters, .ctxs, .launches, .fabric, .memory, .poison] s1 t)))
    ∧ (∀ (transposed : Bool) (check : CheckSeen), atEntry s uid (if transposed then 6 else 5) l e →
        let c : Instr := if transposed then .buildT uid check else .buildFwd uid check
        let epoch := (ctxU s l.ctx).epoch
        let now := if transposed then r.st.tEpoch else r.st.fwdEpoch
        let rows := if transposed then lIn r else lOut r
        let cols := if transposed then lOut r else lIn r
        let rb := rowBytes (lDWidth r) cols
        let dst := if transposed then lT r else lFwd r
        let master : Range := (lState r + 64, 2 * lOut r * colsPad r)
        let engines := ((lArrays r).map (coreFor s)).dedup
        let s1 := (consume l check [master] s).2
        let bad := phaseBad s1 check [master] fun _ g =>
          let per := max 1 ((colsPad r + 1023) / 1024)
          (masterAt r (g / per) (1024 * (g % per)), 2 * min 1024 (colsPad r - 1024 * (g % per)))
        let value (i k : Nat) : Pv :=
          let a := if transposed then masterAt r k i else masterAt r i k
          if anyMeets bad a 2 then { v := .nan, invalid := true }
          else { v := f32ToFv (bf16ToF32 (BitVec.ofNat 16 (readNat s1 a 2))) }
        (now = some epoch → ∃ t, exec c s = .next t ∧ findLaunch t uid = some (afterEntry l) ∧ Only [.launches] s t)
        ∧ (now ≠ some epoch → outranked s l e = true → exec c s = .next s)
        ∧ (now ≠ some epoch → outranked s l e = false → enginesAwake s engines = false → exec c s = .next (askNotices engines s))
        ∧ (now ≠ some epoch → outranked s l e = false → enginesAwake s engines = true → storable s dst (rows * rb) = true →
            (∀ k, k ∈ engines → mayWrite (entryOf s k e.tOut.toNat) l = true) → rangesOk s [master, (dst, rows * rb)] = true →
            ((consume l check [master] s).1 = false → exec c s = .next s1)
            ∧ ((consume l check [master] s).1 = true → rangesPoisoned s1 [master] = false → aloof s dst (rows * rb) dst (rows * rb) →
              ∃ t, exec c s = .next t ∧ findLaunch t uid = some (afterEntry l)
                ∧ layerRec t l.ctx (lNum r)
                    = some { r with st := if transposed then { r.st with tEpoch := some epoch } else { r.st with fwdEpoch := some epoch } }
                ∧ (∀ i, i < rows → memGet t (dst + i * rb) rb = (List.range (rowBlocks cols)).flatMap fun g =>
                    zqBytes (lDWidth r) (encodeBlock (lDWidth r) none false
                      ((List.range (min 32 (cols - 32 * g))).map fun y => value i (32 * g + y))).1)
                ∧ outside dst (rows * rb) s1 t ∧ Only [.cores, .clusters, .ctxs, .launches, .memory, .poison] s1 t)))

/-- R190 to R208, R211, R275, Tables 7-2 to 7-8: UPDATE and its passes. The start checks the layer, its header, its descriptor and its step,
in this order; an accepted one begins the first pass on the layer's clusters. Each pass end leaves what the next one takes: the norm
and the clip, the moments and directions, the iterated directions, and at the end the staged header, rows and codes, whose read-back
then runs; an invalid element under SKIP_LAYER, or a value that is not finite, skips the layer. The rows' places in WORK are the model's
(log 41), and an event of the whole layer is told on each of its clusters (log 52). -/
def Obligations.UpdateRowsComplete : Prop :=
  ∀ (s : State) (uid : Nat) (check : CheckSeen) (l : LaunchS) (e : Prog) (r : Layer), atEntry s uid 4 l e →
    layerRec s l.ctx e.layer.toNat = some r → r.st.applying = false → lNum r = e.layer.toNat →
    let lead := clusterOfArray (lFirst r)
    let parts : List Safety.Part := [.clusters, .ctxs, .launches]
    let refused (t : State) (st : Nat) (bits : Word) (updated : List (BitVec 12)) (f : LayerSt) : Prop :=
      findLaunch t uid = some (afterEntry { l with status := BitVec.ofNat 16 (worst l.status.toNat st), updated := updated })
        ∧ (∀ c, c ∈ layerClusters r → (clus t c).updErr = (clus s c).updErr ||| bits)
        ∧ layerRec t l.ctx (lNum r) = some { r with st := f } ∧ Only parts s t
    (l.update = none → reductionDone s l e.layer = true →
      (lTrained r = false → ∃ t, exec (.update uid) s = .next t ∧ findLaunch t uid = some (afterEntry l)
        ∧ (∀ c, c ∈ layerClusters r → bit (clus t c).updErr 5 = true)
        ∧ layerRec t l.ctx (lNum r) = some { r with st := { r.st with named := true } } ∧ Only parts s t)
      ∧ (lTrained r = true → r.st.started = true → ∃ t, exec (.update uid) s = .next t
        ∧ refused t 0x30 0x10#32 l.updated { r.st with named := true })
      ∧ (lTrained r = true → r.st.started = false → rangesOk s [(lState r, lStateLen r), (e.inAddr.toNat, 64)] = true →
          rangesPoisoned s [(lState r, 64), (e.inAddr.toNat, 64)] = false →
          intact s (lState r) 64 = true → intact s e.inAddr.toNat 64 = true →
          let desc := (List.range 16).map fun i => readWord s (e.inAddr.toNat + 4 * i)
          let coef := (List.range 16).map fun f => tget 0#32 (clus s lead).coef (16 * fld (desc.getD 1 0#32) 31 26 + f)
          let op : UpdOp := ⟨e.layer, lead, firstPass coef, desc, coef, headerStep s r, 0#32, 0x3F800000#32, [], [], []⟩
          let updated := l.updated ++ [e.layer]
          (headerBad s r = true → ∃ t, exec (.update uid) s = .next t
            ∧ refused t 0x30 0x02#32 updated { r.st with named := true, started := true, refused := true })
          ∧ (headerBad s r = false → (updDescBad s op r || workShort op r) = true → ∃ t, exec (.update uid) s = .next t
            ∧ refused t 0x30 (if workShort op r then 0x0C#32 else 0x04#32) updated
                { r.st with named := true, started := true, refused := true })
          ∧ (headerBad s r = false → (updDescBad s op r || workShort op r) = false → op.step ≠ desc.getD 0 0#32 →
            ∃ t, exec (.update uid) s = .next t
              ∧ refused t 0x34 0x40#32 updated { r.st with named := true, started := true, mismatch := true })
          ∧ (headerBad s r = false → (updDescBad s op r || workShort op r) = false → op.step = desc.getD 0 0#32 →
            ∃ t, exec (.update uid) s = .next t
              ∧ findLaunch t uid = some { l with update := some op, updated := updated,
                                                 readCv := (l.readCv ++ readsCaravans s l e.layer).dedup }
              ∧ (∀ c, c ∈ layerClusters r → fld (clus t c).updStat 27 16 = lNum r ∧ fld (clus t c).updStat 11 8 = l.ctx.toNat
                  ∧ fld (clus t c).updStat 2 0 = op.pass.toNat ∧ (clus t c).updErr = (clus s c).updErr)
              ∧ layerRec t l.ctx (lNum r) = some { r with st := { r.st with named := true, started := true } } ∧ Only parts s t)))
    ∧ ((l.update ≠ none ∨ reductionDone s l e.layer = false) → exec (.update uid) s = .next s)
    ∧ (∀ op : UpdOp, l.update = some op → op.layer = e.layer →
        let rows := passRows s op r
        let reads := passReads op r rows
        let taken := consume l check reads (noteLayer r uid s)
        let s1 := taken.2
        rangesOk s reads = true →
        (taken.1 = false → exec (.updatePassEnd uid check) s = .next s1)
        ∧ (taken.1 = true → rangesPoisoned s1 reads = false → inStacks s (lStaging r) (stgEnd r - lStaging r) = true →
          aloof s (rowListAddr r) (rowListBytes r) (tailAddr r + 4) 4 →
          let bad := phaseBad s1 check reads fun b g =>
            if b then (masterAt r g 0, 2 * colsPad r) else tensorGroup 8 (gradAddr op) (rowBlocks (lIn r)) g
          let first := op.pass = 1#3 ∨ op.pass = 2#3
          (first → ∀ k, k ∈ rows → gradPoison s1 op r k = false) →
          let invalid := first ∧ policyOf s l.ctx = 0 ∧ ∃ k, k ∈ rows ∧ none ∈ gradRow s1 bad op r k
          let parts : List Safety.Part := [.cores, .clusters, .ctxs, .launches, .memory, .poison, .counters]
          let on (t : State) (p : UpdOp) : Prop := findLaunch t uid = some { l with update := some p }
            ∧ ∀ c, c ∈ layerClusters r → fld (clus t c).updStat 2 0 = p.pass.toNat
          let skips (nonfin : Prop) : Prop := ∃ t, exec (.updatePassEnd uid check) s = .next t
            ∧ findLaunch t uid = some (afterEntry { l with update := none }) ∧ (nonfin → bit (clus t lead).updErr 7 = true)
            ∧ layerRec t l.ctx (lNum r) = some { r with st := { r.st with skipped := true } }
            ∧ readWord t (tailAddr r + 4) = 0#32 ∧ Only parts s1 t
          let staged (op : UpdOp) : Prop :=
            let ms := masterRows s1 bad op r op.dirs
            let sd := layerSum (ms.map (·.dsq)) s1
            let sw := layerSum (ms.map (·.wsq)) sd.2
            let rho := ratioOf sd.1 sw.1
            let epoch := openEpoch (ctxU s l.ctx)
            let stores := stagingStores s1 op r epoch rho ms
            ((∃ m, m ∈ ms ∧ m.nonfin ≠ []) → skips True)
            ∧ ((∀ m, m ∈ ms → m.nonfin = []) → (∀ x, x ∈ stores → storable s x.1 x.2.length = true) →
              aloof s (tailAddr r + 8) 4 (tailAddr r + 4) 4 → ∃ t, exec (.updatePassEnd uid check) s = .next t
                ∧ findLaunch t uid = some (afterEntry { l with update := none, verify := l.verify ++ [op.layer],
                                                               groups := l.groups ++ stagedGroups r stores })
                ∧ layerRec t l.ctx (lNum r) = some { r with st := { r.st with staged := true, ratio := ratioFlagged op rho } }
                ∧ (∀ x, memByte t x = memByte (storeAll uid stores s1) x)
                ∧ readWord t (tailAddr r + 8) = epoch ∧ readWord t (tailAddr r + 4) = BitVec.ofNat 32 ms.length
                ∧ (clus t op.lead).gnorm = op.gnorm ∧ (clus t op.lead).ratio = rho
                ∧ (clus t op.lead).layers = satWord (clus s op.lead).layers 1
                ∧ (∀ c, c ∈ layerClusters r →
                    bit (clus t c).updErr 9 = (bit (clus s c).updErr 9 || ratioFlagged op rho)
                    ∧ (fld (clus s c).updStat 27 16 = lNum r → fld (clus s c).updStat 11 8 = l.ctx.toNat →
                        fld (clus t c).updStat 2 0 = 0 ∧ fld (clus t c).updStat 27 16 = 0xFFF))
                ∧ Only parts s1 t)
          let work : Range := (workAddr op, 4 * lOut r * colsPad r)
          (op.pass = 1#3 →
            let gs := rows.map fun k => (gradRow s1 bad op r k).map (scaled op)
            let sum := layerSum (gs.map fun g => g.map fun w => f32Mul w w) s1
            let gnorm := root32 sum.1
            let clip := cf op 5
            let finite := ∀ g, g ∈ gs → ∀ w, w ∈ g → isFiniteF32 w = true
            (invalid ∨ ¬ finite → skips (¬ finite))
            ∧ (¬ invalid → finite → ∃ t, exec (.updatePassEnd uid check) s = .next t
              ∧ on t { op with gnorm := gnorm, pass := 2#3,
                               k := if f32Gt clip 0#32 && f32Gt gnorm clip then f32Mul clip (f32Recip gnorm) else 0x3F800000#32 }
              ∧ Only [.cores, .clusters, .launches, .counters] s1 t))
          ∧ (op.pass = 2#3 →
            let rc1 := f32Recip (bias (bit (ctrl op) 4) (cf op 1) (stepT op))
            let rs2 := f32Rsqrt (bias (bit (ctrl op) 5) (cf op 2) (stepT op))
            let outs := rows.map fun k => (k, momentsRow s1 bad op r rc1 rs2 k)
            let op' : UpdOp := { op with dirs := outs.map fun o => (o.1, o.2.d), m1 := outs.map fun o => (o.1, momentBytes o.2.m1),
                                         m2 := outs.map fun o => (o.1, momentBytes o.2.q) }
            let finite := ∀ o, o ∈ outs → o.2.nonfin = []
            (invalid ∨ ¬ finite → skips (¬ finite))
            ∧ (¬ invalid → finite → orthoIters op = 0 → staged op')
            ∧ (¬ invalid → finite → orthoIters op ≠ 0 → storable s work.1 work.2 = true → aloof s work.1 work.2 work.1 work.2 →
              ∃ t, exec (.updatePassEnd uid check) s = .next t ∧ on t { op' with pass := 3#3 }
                ∧ (∀ o, o ∈ outs → memGet t (workRow op r o.1).1 (4 * lIn r) = o.2.d.flatMap bytesOfWord)
                ∧ outside work.1 work.2 s1 t ∧ Only [.cores, .clusters, .launches, .memory, .poison] s1 t))
          ∧ (op.pass = 3#3 →
            let x := fromWork s1 op r
            let d := (orthogonalise op (lIn r) (x.map (·.2)) s1).1
            let finite := ∀ y, y ∈ d → ∀ w, w ∈ y → isFiniteF32 w = true
            let tiles : List Range := (lArrays r).map (fun a => (0xC040000000 + 0x200000 * coreFor s a + 0x100000, 0x100000))
              ++ (layerClusters r).map fun c => (0xC000000000 + 0x2000000 * c + 0x1800000, 0x800000)
            (¬ finite → d.length = x.length → skips True)
            ∧ (finite → storable s work.1 work.2 = true → (∀ o, o ∈ op.dirs → o.1 < lOut r) →
              ∃ t, exec (.updatePassEnd uid check) s = .next t
                ∧ on t { op with pass := 4#3, dirs := List.zipWith (fun o y => (o.1, y)) x d }
                ∧ (∀ b, (∀ y, y ∈ work :: tiles → (b < y.1 ∨ y.1 + y.2 ≤ b) ∧ ¬ sealedBy s y.1 y.2 b) → memByte t b = memByte s1 b)
                ∧ Only [.cores, .clusters, .launches, .memory, .poison, .counters] s1 t))
          ∧ (op.pass = 4#3 → staged { op with dirs := if orthoIters op = 0 then op.dirs else fromWork s1 op r })))

/-- R168, R169, R175, R176, R237 to R240, R409, R410, R413: the other entries of a program, and its end. The next pass descriptor is placed on the
core that its addresses choose, and the entry ends with the last drain; a wait ends at its tally; a signal adds, forwards, and is passed
over in a replay; a PUT copies; a micro-batch reserves its stash while the quota lasts; the launch ends with its status. -/
def Obligations.ProgramRowsComplete : Prop :=
  ∀ (s : State) (uid : Nat) (l : LaunchS) (e : Prog),
    (atEntry s uid 7 l e → l.placed + 1 = e.mbCount.toNat →
        let q : Queued := ⟨uid, (List.range 12).map fun w => readWord s (e.inAddr.toNat + 48 * l.placed + 4 * w), false⟩
        (outranked s l e = true → exec (.passes uid) s = .next s)
        ∧ ∀ k, outranked s l e = false → rangesOk s [(e.inAddr.toNat, 48 * e.mbCount.toNat)] = true → chooseCore s l q = some k →
          bit l.clusters (clusterOfCore k) = true → coreFenced s k = false →
          (queueRoom (core s k) = false → exec (.passes uid) s = .next s)
          ∧ (queueRoom (core s k) = true → formBad q = false → rangesBad s k q = false → guarded s (dDest q) (outBytes q) = false →
            ∃ t, exec (.passes uid) s = .next t ∧ findLaunch t uid = some { l with placed := l.placed + 1 }
              ∧ core t k = { core s k with passq := (core s k).passq ++ [q] } ∧ (∀ j, j ≠ k → core t j = core s j)
              ∧ Only [.cores, .launches] s t))
    ∧ (atEntry s uid 7 l e → e.mbCount.toNat ≤ l.placed →
        (hasPasses s uid = true → exec (.passes uid) s = .next s)
        ∧ (hasPasses s uid = false → ∃ t, exec (.passes uid) s = .next t ∧ findLaunch t uid = some (afterEntry l) ∧ Only [.launches] s t))
    ∧ (atEntry s uid 8 l e → ∀ c, c = Instr.tallyWait uid ∨ c = Instr.tallyWaitComplete uid →
        (leNat (memGet s (tallyAddr e.tally.toNat) 8) < e.mbFirst.toNat → exec c s = .next s)
        ∧ (e.mbFirst.toNat ≤ leNat (memGet s (tallyAddr e.tally.toNat) 8) → ∃ t, exec c s = .next t
          ∧ findLaunch t uid = some (afterEntry { l with waits := (l.waits ++ [e.tally]).dedup }) ∧ Only [.launches] s t))
    ∧ (atEntry s uid 9 l e → (l.pending ≠ [] ∨ hasPasses s uid = true) → exec (.tallySignal uid) s = .next s)
    ∧ (atEntry s uid 9 l e → l.pending = [] → hasPasses s uid = false →
        let a := tallyAddr e.tally.toNat
        let k := e.mbFirst.toNat
        (l.signals.any (fun x => x.1 == l.pc) = true → l.told = [] → ∃ t, exec (.tallySignal uid) s = .next t
          ∧ findLaunch t uid = some (afterEntry l) ∧ Only [.launches] s t)
        ∧ (l.signals.any (fun x => x.1 == l.pc) = false → rangePoisoned s a 8 = false → aloof s a 8 (a + 0x30) 8 →
            let added (t : State) : Prop := leNat (memGet t a 8) = (leNat (memGet s a 8) + k) % 2 ^ 64
              ∧ readWord t (a + 0x28) = l.epoch ∧ leNat (memGet t (a + 0x30) 8) = (leNat (memGet s (a + 0x30) 8) + 1) % 2 ^ 64
              ∧ (∀ b, b < a ∨ (a + 8 ≤ b ∧ b < a + 0x28) ∨ (a + 0x2C ≤ b ∧ b < a + 0x30) ∨ a + 0x38 ≤ b →
                  ¬ sealedBy s a 8 b → memByte t b = memByte s b)
            (forwards s e.tally.toNat = [] → ∃ t, exec (.tallySignal uid) s = .next t ∧ added t
              ∧ findLaunch t uid = some (afterEntry { l with signals := l.signals ++ [(l.pc, [])] }) ∧ Only [.memory, .launches] s t)
            ∧ (∀ (g : W64) (q : Nat), forwards s e.tally.toNat = [g] → devOf g ≠ ownId s →
              let p := requestPkt 0x11 g (ownId s) l.ctx (ctxU s l.ctx).job l.epoch s.fab.nextTag false 8 (leBytes 8 k)
              route s (signalDie l) (devOf g) (courierIndex s (devOf g)) = some q → mustWait s (signalDie l) p q = false →
              ∃ t, exec (.tallySignal uid) s = .next t ∧ added t
                ∧ findLaunch t uid = some (afterEntry { l with signals := l.signals ++ [(l.pc, [forwardTarget g])],
                                                               pending := [s.fab.nextTag] })
                ∧ (∃ i, (port t q).queue = (port s q).queue ++ [i] ∧ i.body = .pkt p ∧ i.vc = 0 ∧ i.dst = devOf g)
                ∧ t.fab.outst = s.fab.outst ++ [⟨s.fab.nextTag, p, q, 0, signalDie l⟩] ∧ Only [.memory, .launches, .ports, .fabric] s t)))
    ∧ (atEntry s uid 10 l e → l.mb < e.mbCount.toNat →
        let n := e.length.toNat
        let src := e.inAddr.toNat + l.mb * n
        let g := e.outAddr + BitVec.ofNat 64 (l.mb * n)
        inStacks s src n = true → rangePoisoned s src n = false → intact s src n = true →
        (devOf g = ownId s → storable s (localOf g) n = true → apart src n (localOf g) n → aloof s (localOf g) n src n →
          aloof s (localOf g) n (localOf g) n → unawaited s g n = true → ∃ t, exec (.put uid) s = .next t
          ∧ memGet t (localOf g) n = memGet s src n ∧ outside (localOf g) n s t ∧ findLaunch t uid = some (afterBatch l e)
          ∧ t.fab.outst = s.fab.outst ∧ Only [.memory, .poison, .launches, .fabric] s t)
        ∧ (∀ q, devOf g ≠ ownId s → 1 ≤ n → n ≤ toBoundary src → n ≤ toBoundary (localOf g) →
          let p := requestPkt 1 g (ownId s) l.ctx (ctxU s l.ctx).job l.epoch s.fab.nextTag false n (memGet s src n)
          route s (signalDie l) (devOf g) (bulkIndex p.gaddr) = some q → mustWait s (signalDie l) p q = false → ∃ t, exec (.put uid) s = .next t
            ∧ findLaunch t uid = some (afterBatch { l with pending := l.pending ++ [s.fab.nextTag] } e)
            ∧ (∃ i, (port t q).queue = (port s q).queue ++ [i] ∧ i.body = .pkt p ∧ i.vc = 13 ∧ i.dst = devOf g)
            ∧ t.fab.outst = s.fab.outst ++ [⟨s.fab.nextTag, p, q, 0, signalDie l⟩] ∧ Only [.launches, .ports, .fabric] s t))
    ∧ (atEntry s uid 1 l e → l.kind = 1#4 → holdsStash s l (batchOf l e) = false →
        (stashQuotaKib s l < stashUsed s l.ctx l.slot.toNat + stashKib s l → exec (.stashReserve uid) s = .next s)
        ∧ (stashUsed s l.ctx l.slot.toNat + stashKib s l ≤ stashQuotaKib s l → ∃ t, exec (.stashReserve uid) s = .next t
          ∧ ctxU t l.ctx = { ctxU s l.ctx with resv := (ctxU s l.ctx).resv ++ [⟨l.slot.toNat, batchOf l e, uid⟩] }
          ∧ (∀ x, x ≠ l.ctx → ctxU t x = ctxU s x) ∧ Only [.ctxs] s t))
    ∧ (findLaunch s uid = some l → l.state = .running → (l.pc < l.prog.length ∨ l.pending ≠ [] ∨ hasPasses s uid = true) →
        exec (.launchEnd uid) s = .next s)
    ∧ (∀ p : Packet, findLaunch s uid = some l → l.state = .running → l.kind ≠ 3#4 → l.kind ≠ 4#4 → l.prog.length ≤ l.pc →
        l.pending = [] → hasPasses s uid = false → s.host.running = [⟨p, .launch uid⟩] → p.muted = false →
        ∃ t, exec (.launchEnd uid) s = .next t ∧ (∀ x, x ∈ t.launches → x.uid = uid → x.state = .ended) ∧ t.host.running = []
          ∧ Answers t p l.status.toNat
              [w32 l.number.toNat, l.epoch, w32 l.recalls, s.rack.extractLsb' 0 32, s.rack.extractLsb' 32 32]
          ∧ Only [.host, .clusters, .launches] s t)

/-- R178 to R182, R245, R265, R267, R279, R284, R285, R412: the messages of a seal. A message leaves by the port of the rule. A context whose
launches have ended sends its summaries and, with its children's offers in hand, offers to its parent; the root answers GO at a tick,
or HOLD, or STUCK when nothing is left to try. A message for another epoch than the open one is ignored; queries are answered by the last
GO or HOLD; a withdrawal voids an offer. A digest that differs recalls the launches that feed the caravan, which restarts once. A message
is a request, outstanding until it is answered (R226). -/
def Obligations.SealMessagesComplete : Prop :=
  ∀ (s : State) (c : BitVec 4),
    let u := ctxU s c
    let st := u.sealSt
    let k := openEpoch u
    let now (t : State) (w : Word) (x : SealS) : Prop :=
      ctxU t c = { u with sealW := w, sealSt := x } ∧ ∀ y, y ≠ c → ctxU t y = ctxU s y
    let held : Word := setFld u.sealW 14 12 5
    let retry : SealS := { st with ready := false, offered := false, offers := [], sums := [], lateDet := false }
    let digests : List (Nat × DevId × Msg) :=
      (s.fab.caravans.filter fun v => v.ctx == c && v.epoch == k && !v.interval && decide (1 < ringN s v.ring)).flatMap fun v =>
        [(15, ringNext s v.ring, .digest c v.n k true v.sent), (15, ringPrev s v.ring, .digest c v.n k false v.recv)]
    let toKids (m : Msg) : List (Nat × DevId × Msg) := st.kids.map fun d => (0, d, m)
    let sumList : List (Nat × DevId × Msg) := (checkedRings s c).flatMap fun g =>
      [(0, ringNext s g, .summary c (BitVec.ofNat 4 g) k true (ringSummary s c k g true) u.milestone),
       (0, ringPrev s g, .summary c (BitVec.ofNat 4 g) k false (ringSummary s c k g false) u.milestone)]
    let mine : List Safety.Part := [.ctxs, .ports, .fabric]
    let loud : List Safety.Part := [.ctxs, .ports, .fabric, .rel, .host, .out]
    (∀ (vc : Nat) (d : DevId) (m : Msg),
        (∀ q, route s false d (courierIndex s d) = some q → ∃ i, port (sends [(vc, d, m)] s) q
            = { port s q with queue := (port s q).queue ++ [i] } ∧ i.vc = vc ∧ i.dst = d ∧ i.body = .msg m ∧ i.tag = s.fab.nextTag
          ∧ (sends [(vc, d, m)] s).fab = { s.fab with
              nextTag := s.fab.nextTag + 1, outst := s.fab.outst ++ [⟨s.fab.nextTag, msgPkt s vc d s.fab.nextTag m, q, 0, false⟩] }
          ∧ (∀ j, j ≠ q → port (sends [(vc, d, m)] s) j = port s j) ∧ Only [.ports, .fabric] s (sends [(vc, d, m)] s))
        ∧ (route s false d (courierIndex s d) = none → sends [(vc, d, m)] s = { s with fab := { s.fab with err := setBit s.fab.err 1 } }))
    ∧ (mayPrepare s c = false → exec (.sealOffer c) s = .next s)
    ∧ (∀ h, st.hdr = some h → mayPrepare s c = true → st.ready = false → twinState s ≠ 2 → mirrorDone s c = true →
        let base := if sumsMatch s c then s else redErr 6 s
        let m := offerMsg s c
        let w := if sealState u = 5 then u.sealW else setFld u.sealW 14 12 2
        ((sumsHere s c = false ∨ (h.parent ≠ ownId s ∧ st.offers.length < h.children.toNat)) → ∃ t, exec (.sealOffer c) s = .next t
          ∧ now t u.sealW { st with ready := true } ∧ Sent sumList s t ∧ Only mine s t)
        ∧ (sumsHere s c = true → h.parent = ownId s → st.offers.length < h.children.toNat → ∃ t, exec (.sealOffer c) s = .next t
          ∧ now t w { st with ready := true, offered := true, queried := 0 } ∧ Sent sumList base t ∧ Only mine s t)
        ∧ (sumsHere s c = true → h.children.toNat ≤ st.offers.length →
          (h.parent ≠ ownId s → ∃ t, exec (.sealOffer c) s = .next t
            ∧ now t w { st with ready := true, offered := true, queried := 0, lateDet := false }
            ∧ Sent (sumList ++ [(0, h.parent, .offer m)]) base t ∧ Only mine s t)
          ∧ (h.parent = ownId s → m.ok = true → ∃ t, exec (.sealOffer c) s = .next t
            ∧ (let g : GoMsg := ⟨c, k, s.rack + BitVec.ofNat 64 (200 * h.margin.toNat), m.invalid, u.milestone⟩
               now t w { st with ready := true, offered := true, queried := 0, lastGo := some g, pendingGo := some g }
                ∧ Sent (sumList ++ st.offers.map fun o => (0, o.1, .go g)) base t)
            ∧ Only mine s t)
          ∧ (h.parent = ownId s → m.ok = false → m.uncurable = false → st.retries < fld (relCfg s c) 21 18 →
            ∃ t, exec (.sealOffer c) s = .next t ∧ now t held { retry with queried := 0, retries := st.retries + 1 }
              ∧ Sent (sumList ++ toKids (.hold c k) ++ digests) base t ∧ Only mine s t)
          ∧ (h.parent = ownId s → m.ok = false → (m.uncurable = true ∨ fld (relCfg s c) 21 18 ≤ st.retries) →
            ∃ t, exec (.sealOffer c) s = .next t ∧ now t held { retry with queried := 0 } ∧ bit t.rel.err 11 = true
              ∧ Sent (sumList ++ toKids (.hold c k) ++ digests ++ toKids (.stuck c k)) base t ∧ Only loud s t)))
    ∧ (∀ (r : BitVec 4) (e : Word) (prev : Bool) (sum : Word) (ms : W64),
        (forOpen s c e = false → exec (.ledgerSummary c r e prev sum ms) s = .next s)
        ∧ (forOpen s c e = true → st.hdr = none → ∃ t, exec (.ledgerSummary c r e prev sum ms) s = .next t
          ∧ now t u.sealW { st with sums := (st.sums.filter fun y => !(y.1 == r && y.2.1 == prev)) ++ [(r, prev, sum, ms == u.milestone)] }
          ∧ t.fab = (if ms = u.milestone then s.fab else { s.fab with err := setBit s.fab.err 5 }) ∧ Only [.ctxs, .fabric] s t))
    ∧ (∀ (m : OfferMsg) (src : DevId), m.ctx = c →
        let m' := { m with ok := m.ok && m.milestone == u.milestone }
        let st' : SealS := { st with offers := (st.offers.filter fun o => o.1 != src) ++ [(src, m')],
                                     kids := if st.kids.contains src then st.kids else st.kids ++ [src] }
        (forOpen s c m.epoch = false → exec (.offer m src) s = .next s)
        ∧ (forOpen s c m.epoch = true → st.hdr = none → ∃ t, exec (.offer m src) s = .next t ∧ now t u.sealW st'
          ∧ t.fab = (if m.milestone = u.milestone then s.fab else { s.fab with err := setBit s.fab.err 5 }) ∧ Only [.ctxs, .fabric] s t)
        ∧ (∀ h, forOpen s c m.epoch = true → st.hdr = some h → h.parent = ownId s → st.offered = true → st.pendingGo = none →
            m.milestone = u.milestone → h.children.toNat ≤ st'.offers.length → ownOk s c = true → st'.offers.all (fun o => o.2.ok) = true →
            let g : GoMsg := ⟨c, k, s.rack + BitVec.ofNat 64 (200 * h.margin.toNat),
              ownInvalid s c || st'.offers.any (fun o => o.2.invalid), u.milestone⟩
            ∃ t, exec (.offer m src) s = .next t ∧ now t u.sealW { st' with lastGo := some g, pendingGo := some g }
              ∧ Sent (st'.offers.map fun o => (0, o.1, .go g)) s t ∧ Only mine s t))
    ∧ (∀ g : GoMsg, g.ctx = c →
        ((forOpen s c g.epoch = false ∨ st.hdr = none ∨ st.pendingGo ≠ none) → exec (.go g) s = .next s)
        ∧ (forOpen s c g.epoch = true → st.hdr ≠ none → st.pendingGo = none →
          (g.milestone ≠ u.milestone → ∃ t, exec (.go g) s = .next t ∧ now t held retry ∧ bit t.fab.err 5 = true ∧ Only mine s t)
          ∧ (g.milestone = u.milestone → s.rack.toNat ≤ g.commitAt.toNat → ∃ t, exec (.go g) s = .next t
            ∧ now t u.sealW { st with pendingGo := some g, withdrawn := false, owedAcks := [] } ∧ Sent (toKids (.go g)) s t
            ∧ Only mine s t)))
    ∧ (∀ h, st.hdr = some h →
        let late := decide (h.parent = ownId s) && st.offered && st.pendingGo.isNone && decide (st.offers.length < h.children.toNat)
        (late = true → ∃ t, exec (.sealTimeout c) s = .next t ∧ now t held retry ∧ bit t.rel.err 11 = true
          ∧ Sent (toKids (.hold c k) ++ digests ++ toKids (.stuck c k)) s t ∧ Only loud s t)
        ∧ (late = false → exec (.sealTimeout c) s = .next s)
        ∧ ((h.parent = ownId s ∨ st.offered = false ∨ st.pendingGo ≠ none ∨ sealState u = 5) → exec (.goQueryTimeout c) s = .next s)
        ∧ (h.parent ≠ ownId s → st.offered = true → st.pendingGo = none → sealState u ≠ 5 → ∃ t, exec (.goQueryTimeout c) s = .next t
          ∧ now t u.sealW { st with queried := min 2 (st.queried + 1) } ∧ Sent [(0, h.root, .goQuery c k u.milestone)] s t
          ∧ (∀ i, bit t.rel.err i = (bit s.rel.err i || (i == 11 && st.queried == 1)))
          ∧ Only (if st.queried = 1 then loud else mine) s t))
    ∧ (∀ (e : Word) (ms : W64) (src : DevId),
        (∀ g, st.lastGo = some g → g.epoch = e → ∃ t, exec (.goQuery c e ms src) s = .next t ∧ Sent [(0, src, .go g)] s t
          ∧ Only [.ports, .fabric] s t)
        ∧ (st.lastGo = none → forOpen s c e = true → sealState u = 5 → ∃ t, exec (.goQuery c e ms src) s = .next t
          ∧ Sent [(0, src, .hold c e)] s t ∧ Only [.ports, .fabric] s t)
        ∧ (st.lastGo = none → (forOpen s c e = false ∨ sealState u ≠ 5) → exec (.goQuery c e ms src) s = .next s))
    ∧ (∀ (e : Word) (src origin : DevId),
        let st' : SealS := { st with offers := st.offers.filter fun o => o.1 != src }
        (∀ g, st.lastGo = some g → g.epoch = e → ∃ t, exec (.withdraw c e src origin) s = .next t ∧ Sent [(0, origin, .go g)] s t
          ∧ Only [.ports, .fabric] s t)
        ∧ (st.lastGo = none → forOpen s c e = false → exec (.withdraw c e src origin) s = .next s)
        ∧ (st.lastGo = none → forOpen s c e = true →
          (st.hdr = none → ∃ t, exec (.withdraw c e src origin) s = .next t
            ∧ now t u.sealW { st' with heldWithdraws := st.heldWithdraws ++ [origin] } ∧ Only [.ctxs] s t)
          ∧ (∀ h, st.hdr = some h → h.parent = ownId s → ∃ t, exec (.withdraw c e src origin) s = .next t ∧ now t u.sealW st'
            ∧ Sent [(0, origin, .withdrawAck c e)] s t ∧ Only mine s t)
          ∧ (∀ h, st.hdr = some h → h.parent ≠ ownId s → ∃ t, exec (.withdraw c e src origin) s = .next t
            ∧ Sent [(0, h.parent, .withdraw c e origin)] s t ∧ Only mine s t
            ∧ (let back := st.offered && st.pendingGo.isNone
               now t (if back ∧ sealState u = 2 then setFld u.sealW 14 12 1 else u.sealW)
                { st' with offered := st.offered && !back }))))
    ∧ (∀ e : Word,
        ((forOpen s c e = false ∨ st.withdrawn = false) → exec (.withdrawAck c e) s = .next s)
        ∧ (forOpen s c e = true → st.withdrawn = true → st.ready = false → st.offered = false → ∃ t, exec (.withdrawAck c e) s = .next t
          ∧ now t u.sealW { st with withdrawn := false, owedAcks := [] }
          ∧ Sent (st.owedAcks.map fun d => (0, d.1, .recallAck { d.2 with tallies := [] })) s t ∧ Only mine s t)
        ∧ ((forOpen s c e = false ∨ st.pendingGo ≠ none) → exec (.hold c e) s = .next s)
        ∧ (forOpen s c e = true → st.pendingGo = none → ∃ t, exec (.hold c e) s = .next t ∧ now t held retry
          ∧ Sent (toKids (.hold c k) ++ digests) s t ∧ Only mine s t)
        ∧ (forOpen s c e = false → exec (.stuck c e) s = .next s)
        ∧ (forOpen s c e = true → ∃ t, exec (.stuck c e) s = .next t ∧ now t held st ∧ bit t.rel.err 11 = true
          ∧ Sent (toKids (.stuck c k)) s t ∧ Only loud s t))
    ∧ (∀ (n : BitVec 8) (e : Word) (prev : Bool) (d : BitVec 128),
        (findCv s c n e = none → exec (.digestExchange c n e prev d) s = .next s)
        ∧ (∀ v, findCv s c n e = some v →
          ((forOpen s c e = false ∨ d = (if prev then v.recv else v.sent)) → exec (.digestExchange c n e prev d) s = .next s)
          ∧ (forOpen s c e = true → d ≠ (if prev then v.recv else v.sent) → sliceLaunches s v = [] →
            (v.state = 3#3 → exec (.digestExchange c n e prev d) s = .next { s with rel := { s.rel with err := setBit s.rel.err 10 } })
            ∧ (v.state ≠ 3#3 → v.gen < 15 → ∃ t y, exec (.digestExchange c n e prev d) s = .next t ∧ bit t.rel.err 10 = true
              ∧ findCv t c n e = some y ∧ y.gen = v.gen + 1 ∧ y.restarted = true))
          ∧ (∀ uid l, forOpen s c e = true → d ≠ (if prev then v.recv else v.sent) → sliceLaunches s v = [uid] →
            findLaunch s uid = some l → l.state = .running → l.recalls + 1 ≤ fld (relCfg s l.ctx) 25 22 →
            launchCaravans s l = [v] → v.state = 1#3 → v.gen < 15 →
            ∃ t x y, exec (.digestExchange c n e prev d) s = .next t ∧ bit t.rel.err 10 = true
              ∧ findLaunch t uid = some x ∧ x.state = .recalled ∧ x.recalls = l.recalls + 1 ∧ x.pc = 0
              ∧ findCv t c n e = some y ∧ y.gen = v.gen + 1 ∧ y.restarted = true)))

/-- R158, R163, R178, R183 to R185, R193, R206, R245, R265, Tables 6-9 to 6-11: the commit tick and the applies. At COMMIT_AT, or at once under
a late GO, the open epoch becomes the committed one, each layer takes its outcome, the owned tensor entries fold into their history, the
SEAL launch ends, and the step record is written; without a GO nothing happens. An apply copies the staged header, rows and codes, passes
the dirty bits to the arrays, and the last one opens the step again; what it reads is checked first (R270). -/
def Obligations.CommitAndApplyComplete : Prop :=
  ∀ (s : State) (c : BitVec 4),
    let u := ctxU s c
    let k := openEpoch u
    (u.sealSt.pendingGo = none → exec (.commitTick c) s = .next s)
    ∧ (∀ (g : GoMsg) (h : SealHdr) (l : LaunchS) (old : List LaunchS) (p : Packet), u.sealSt.hdr = some h → g.ctx = c → g.epoch = k →
        s.launches = l :: old → old.all (fun x => x.ctx == c && x.epoch == k && x.kind != 3#4 && x.state == .ended && x.uid != l.uid) = true →
        l.ctx = c → l.epoch = k → l.kind = 3#4 → l.state = .running → l.update = none → s.host.running = [⟨p, .launch l.uid⟩] →
        p.muted = false → twinState s ≠ 2 → (u.layers.map (·.1)).Nodup → (∀ x, x ∈ u.layers → lNum x.2 = x.1) →
        let a := h.recBase.toNat + slotOffset h k
        inStacks s a (h.stride.toNat * 1024) = true → aloof s a (h.stride.toNat * 1024) a (h.stride.toNat * 1024) → 1 ≤ h.stride.toNat →
        ∀ late : Bool, (late = true → forOpen s c k = true ∧ u.sealSt.pendingGo = none ∧ g.milestone = u.milestone
            ∧ g.commitAt.toNat < s.rack.toNat) → (late = false → u.sealSt.pendingGo = some g) →
          let applied := u.layers.countP fun x => x.2.st.applying || outcomeOf g.invalid x.2 == 0#2
          let rack := if late ∨ g.commitAt.toNat ≤ s.rack.toNat then s.rack else g.commitAt
          ∃ t, exec (if late then .go g else .commitTick c) s = .next t
            ∧ (ctxU t c).epoch = k ∧ (ctxU t c).milestone = u.milestone + 1 ∧ (ctxU t c).policy = u.policyHeld.getD u.policy
            ∧ fld (ctxU t c).sealW 11 0 = applied % 4096 ∧ bit (ctxU t c).sealW 31 = (bit u.sealW 31 || late)
            ∧ sealState (ctxU t c) = (if applied % 4096 = 0 then 1 else 3)
            ∧ (ctxU t c).sealSt.hdr = none ∧ (ctxU t c).sealSt.pendingGo = none ∧ (ctxU t c).sealSt.offered = false
            ∧ (∀ n r, layerRec s c n = some r → ∃ r', layerRec t c n = some r' ∧ r'.words = r.words
                ∧ r'.st.outcome = outcomeOf g.invalid r ∧ r'.st.applying = (r.st.applying || outcomeOf g.invalid r == 0#2) ∧ r'.st.staged = false)
            ∧ (∀ x, x ≠ c → ctxU t x = ctxU s x) ∧ t.commits = s.commits + 1 ∧ t.rack = rack ∧ t.launches = []
            ∧ t.host.running = [] ∧ bit t.host.irqCause 4 = true
            ∧ Answers t p 0 [w32 l.number.toNat, l.epoch, w32 l.recalls, rack.extractLsb' 0 32, rack.extractLsb' 32 32]
            ∧ readWord t a = k ∧ memGet t (a + 16) 8 = leBytes 8 rack.toNat
            ∧ bit (readWord t (a + 32)) 1 = late ∧ bit (readWord t (a + 32)) 2 = g.invalid
            ∧ bit (readWord t (a + 32)) 3 = u.sealSt.replayed ∧ bit (readWord t (a + 32)) 0 = u.sealSt.ringSat
            ∧ (u.layers.all (fun x => outcomeOf g.invalid x.2 == 0#2 || outcomeOf g.invalid x.2 == 3#2) = true →
                outside a (h.stride.toNat * 1024) s t ∧ t.arrays = s.arrays)
            ∧ ((s.cores.map (·.1)).Nodup → (∀ x, x ∈ s.cores → (x.2.entries.map (·.1)).Nodup) →
                ∀ i j, ownedBy c (entryOf s i j) = true → entryOf t i j = sealEntry k.toNat (entryOf s i j)))
    ∧ (u.layers.all (fun x => !x.2.st.applying) = true → ∀ check, exec (.layerApplyEnd c check) s = .next s)
    ∧ (∀ (check : CheckSeen) (n : Nat) (r : Layer), (u.layers.find? fun x => x.2.st.applying) = some (n, r) → layerRec s c n = some r →
        inStacks s (lState r) (lStateLen r) = true → inStacks s (lShadow r) (lOut r * lIn r) = true →
        let tail := stgEnd r - lStaging r
        let s1 := (checkFor c check (applyReads r u.epoch s) s).2
        let own : List Range := [(lState r, lStateLen r), (lShadow r, lOut r * lIn r), (lStaging r, tail)]
        (∀ x, x ∈ own → ∀ y, y ∈ own → aloof s x.1 x.2 y.1 y.2) →
        inStacks s (lStaging r) tail = true → rangePoisoned s1 (lStaging r) tail = false → stateEnd r = lStateLen r → lRank r = 0 →
        apart (lState r) (lStateLen r) (lStaging r) tail → apart (lShadow r) (lOut r * lIn r) (lStaging r) tail →
        apart (lState r) (lStateLen r) (lShadow r) (lOut r * lIn r) →
        let left := fld (ctxU s1 c).sealW 11 0 - 1
        let dirty (a : Nat) : BitVec 512 := BitVec.ofNat 512 (leNat (memGet s (stgDirty r + 64 * (a - lFirst r)) 64))
        ∃ t, exec (.layerApplyEnd c check) s = .next t
          ∧ layerRec t c n = some { r with st := { r.st with applying := false } } ∧ fld (ctxU t c).sealW 11 0 = left
          ∧ sealState (ctxU t c) = (if sealState (ctxU s1 c) = 3 ∧ left = 0 then (if intervalRuns s c then 4 else 1)
              else sealState (ctxU s1 c))
          ∧ (∀ x, x ≠ c → ctxU t x = ctxU s1 x)
          ∧ memGet t (lState r) 64 = memGet s (lStaging r) 64
          ∧ (∀ i, i ∈ listedRows s r → memGet t (lShadow r + i * lIn r) (lIn r) = memGet s (stgShadow r + i * lIn r) (lIn r)
              ∧ ∀ x, x ∈ rowParts s r i → memGet t (lState r + x.1) x.2 = memGet s (lStaging r + x.1) x.2)
          ∧ (∀ i, i < lOut r → i ∉ listedRows s r →
              memGet t (lShadow r + i * lIn r) (lIn r) = memGet s (lShadow r + i * lIn r) (lIn r))
          ∧ (readWord t (tailAddr r + 4)).toNat = 0
          ∧ (∀ a, a ∈ lArrays r → (arr t a).dirty = (arr s a).dirty ||| dirty a
              ∧ (dirty a ≠ 0#512 → (arr s a).write = none → (arr s a).granted = false → (arr t a).request.isSome = true
                  ∧ bit (arr t a).wrstat 1 = true)
              ∧ (arr t a).image = (arr s a).image)
          ∧ (∀ a, a ∉ lArrays r → arr t a = arr s a)
          ∧ Only [.ctxs, .arrays, .memory, .poison] s1 t)

/-- R250 to R264, R266, R268, Tables 9-1 to 9-5: a caravan starts with its entry latched and its bitmap zeroed, or enters FAULT; a packet is
refused for an unknown job, held for an epoch not yet written, counted when stale, faulted by the checks, or takes a waystation slot; a
ready tile starts its chain, an arriving half is added and goes on, a final half is written; a freed slot takes a blocked half, and a
restart of a higher generation begins the caravan again. -/
def Obligations.CaravanRowsComplete : Prop :=
  ∀ (s : State) (c : BitVec 4) (n : BitVec 8) (k : Word),
    let e := cvEntry s n k
    let fresh := readCaravan s c n k
    let maplen (v : Caravan) : Nat := (v.rows + 7) / 8
    let again (v : Caravan) (g : Nat) : Caravan :=
      { v with
        gen := g, restarted := true, state := 1#3, final := [], satBlocks := 0, maxBump := 0, bump4 := 0, invalid := 0
        poison := false, digital := false, sat := false, started := [], halves := v.halves.filter fun h => decide (g ≤ h.gen) }
    (∀ v, findCv s c n k = some v → exec (.caravanStart c n k) s = .next s)
    ∧ (findCv s c n k = none → inStacks s e 128 = true → caravanBad s fresh = false → inStacks s fresh.bitmap (maplen fresh) = true →
        apart fresh.bitmap (maplen fresh) (e + 64) 64 → aloof s (e + 64) 64 fresh.bitmap (maplen fresh) → ∃ t, exec (.caravanStart c n k) s = .next t
          ∧ t.fab = { s.fab with caravans := s.fab.caravans ++ [fresh] } ∧ fresh.state = 1#3
          ∧ memGet t fresh.bitmap (maplen fresh) = List.replicate (maplen fresh) 0#8 ∧ readWord t (e + 64) = 1#32
          ∧ (∀ b, (b < fresh.bitmap ∨ fresh.bitmap + maplen fresh ≤ b) → (b < e + 64 ∨ e + 128 ≤ b) →
              ¬ sealedBy s fresh.bitmap (maplen fresh) b → ¬ sealedBy s (e + 64) 64 b → memByte t b = memByte s b)
          ∧ Only [.fabric, .memory, .poison] s t)
    ∧ (findCv s c n k = none → inStacks s e 128 = true → caravanBad s fresh = true → (ctxU s c).sealSt.hdr = none →
        ∃ t, exec (.caravanStart c n k) s = .next t ∧ findCv t c n k = some { fresh with state := 3#3 }
          ∧ bit t.fab.redErr 1 = true ∧ bit t.fab.redErr 2 = true ∧ readWord t (e + 64) = 3#32 ∧ outside (e + 64) 64 s t
          ∧ (ctxU t c).sealSt.detect = true ∧ (ctxU t c).sealSt.uncurable = true ∧ Only [.fabric, .memory, .poison, .ctxs] s t)
    ∧ (inStacks s e 4 = true →
        (s.fab.waiting.all (fun w => !(w.pkt.caravan == n && w.pkt.epoch == k)) = true → ∃ t, exec (.caravanEntryWrite n k) s = .next t
          ∧ readWord t e = k ∧ outside e 4 s t ∧ Only [.memory, .poison, .fabric] s t ∧ t.fab = s.fab)
        ∧ (∀ (q : Nat) (p : CvPkt) (cl slot : Nat), q < 18 → s.fab.waiting = [⟨q, p, cl, slot⟩] → p.caravan = n → p.epoch = k →
          ∃ t, readWord t e = k ∧ outside e 4 s t ∧ t.fab = { s.fab with waiting := [] } ∧ Only [.memory, .poison, .fabric] s t
            ∧ exec (.caravanEntryWrite n k) s = exec (.caravanPacket q p) t))
    ∧ (∀ (v : Caravan) (tile : BitVec 24), (s.fab.caravans.filter fun v => v.n == n && v.epoch == k) = [v] → v.ctx = c →
        let i := tile.toNat
        let pk (half : Bool) : CvPkt :=
          let h := ownHalf s v i half
          ⟨ownId s, c, (ctxU s c).job, k, 1, (chunks 33 h.2).any (fun b => zb8Bit (b.headD 0#8) 3), n, false, half, false,
            BitVec.ofNat 4 v.gen, tile, BitVec.ofNat 32 h.1, v.s, h.2⟩
        ((v.state ≠ 1#3 ∨ tileCount v ≤ i ∨ tileIsReady s v i = false) → exec (.tileReady n k tile) s = .next s)
        ∧ (v.state = 1#3 → i < tileCount v → tileIsReady s v i = true → v.halves = [] → startsChain s v i = true → i ∉ v.started →
          (∀ q, 1 < ringN s v.ring → v.interval = false → 
              route s (homeDie s v i) (ringNext s v.ring) ((i + n.toNat) % 16) = some q →
            ∃ t a b, exec (.tileReady n k tile) s = .next t
              ∧ findCv t c n k = some { v with started := v.started ++ [i], sent := v.sent + cvDigest (pk false) + cvDigest (pk true),
                                                ops := tset 0 v.ops (homeCluster s v i) (s.rack.toNat + 1) }
              ∧ (port t q).queue = (port s q).queue ++ [a, b] ∧ a.body = .msg (.caravan (pk false)) ∧ b.body = .msg (.caravan (pk true))
              ∧ a.vc = v.ring ∧ b.vc = v.ring ∧ a.dst = ringNext s v.ring ∧ b.dst = ringNext s v.ring
              ∧ (∀ j, j ≠ q → port t j = port s j) ∧ Only [.fabric, .ports] s t)
          ∧ (ringN s v.ring ≤ 1 → tileCount v = 1 → v.final = [] → ∃ t w, exec (.tileReady n k tile) s = .next t
            ∧ findCv t c n k = some w ∧ w.state = 2#3 ∧ w.final = [(i, false), (i, true)]))
        ∧ (v.state = 1#3 → i < tileCount v → tileIsReady s v i = true → v.halves = [] → (startsChain s v i = false ∨ i ∈ v.started) →
          exec (.tileReady n k tile) s = .next s))
    ∧ (∀ (q : Nat) (p : CvPkt), q < 18 → p.caravan = n → p.epoch = k →
        (ctxOfJob s p.job = none → exec (.caravanPacket q p) s = .next { s with fab := { s.fab with err := setBit s.fab.err 3 } })
        ∧ (ctxOfJob s p.job = some c →
          (findCv s c n k = none → (readWord s e).toNat < k.toNat →
            (∀ cl, (List.range 32).find? (slotAvailable s) = some cl → exec (.caravanPacket q p) s
              = .next { fillSlot cl (freeSlot s cl) p s with
                  fab := { s.fab with waiting := s.fab.waiting ++ [⟨q, p, cl, freeSlot s cl⟩] } })
            ∧ ((List.range 32).find? (slotAvailable s) = none → exec (.caravanPacket q p) s
              = .next { s with fab := { s.fab with blocked := s.fab.blocked ++ [(q, p)] } }))
          ∧ (∀ v, findCv s c n k = some v →
            (v.state = 3#3 → exec (.caravanPacket q p) s = .next s)
            ∧ (v.state ≠ 3#3 → p.gen.toNat < v.gen →
              exec (.caravanPacket q p) s = .next { s with fab := { s.fab with staleGen := satWord s.fab.staleGen 1 } })
            ∧ (v.state ≠ 3#3 → p.gen.toNat = v.gen → ∀ x, packetFault s v p = some x → inStacks s e 128 = true →
              (ctxU s c).sealSt.hdr = none → ∃ t, exec (.caravanPacket q p) s = .next t
                ∧ findCv t c n k = some { v with state := 3#3, halves := [] } ∧ bit t.fab.redErr x = true ∧ bit t.fab.redErr 2 = true
                ∧ (ctxU t c).sealSt.uncurable = true ∧ outside (e + 64) 64 s t ∧ Only [.fabric, .memory, .poison, .ctxs] s t)
            ∧ (v.state ≠ 3#3 → p.gen.toNat = v.gen → packetFault s v p = none → v.interval = false → v.halves = [] →
              let home := homeCluster s v p.tile.toNat
              let slot := freeSlot s home
              let s1 := fillSlot home slot p s
              let half := halfOf p home slot
              let recv := v.recv + cvDigest p
              let sum := addHalf s1 v p.tile.toNat p.half p.rowmap.toNat half.blocks
              let on : CvPkt :=
                ⟨ownId s, c, (ctxU s c).job, k, p.hop + 1, (chunks 33 sum.2).any (fun b => zb8Bit (b.headD 0#8) 3), n, false, p.half, false,
                  BitVec.ofNat 4 v.gen, p.tile, BitVec.ofNat 32 sum.1, v.s, sum.2⟩
              let parts : List Safety.Part := [.fabric, .ports, .cores, .memory, .poison]
              (slotAvailable s home = false → exec (.caravanPacket q p) s
                = .next { s with fab := { s.fab with blocked := s.fab.blocked ++ [(q, p)] } })
              ∧ (slotAvailable s home = true → p.gather = false → tileIsReady s1 v p.tile.toNat = false →
                ∃ t, exec (.caravanPacket q p) s = .next t ∧ findCv t c n k = some { v with recv := recv, halves := [half] }
                  ∧ port t q = { port s q with redRx := satWord (port s q).redRx 1 } ∧ (∀ j, j ≠ q → port t j = port s j)
                  ∧ (∀ b, memByte t b = memByte s1 b) ∧ Only parts s t)
              ∧ (∀ o, slotAvailable s home = true → p.gather = false → tileIsReady s1 v p.tile.toNat = true →
                p.hop + 1 < ringN s v.ring →
                route s1 (homeDie s v p.tile.toNat) (ringNext s1 v.ring) ((p.tile.toNat + n.toNat) % 16) = some o →
                ∃ t a, exec (.caravanPacket q p) s = .next t
                  ∧ findCv t c n k = some { v with recv := recv, sent := v.sent + cvDigest on,
                                                   ops := tset 0 v.ops home (s.rack.toNat + 1) }
                  ∧ (port t o).queue = (port s o).queue ++ [a] ∧ a.body = .msg (.caravan on) ∧ a.vc = v.ring
                  ∧ a.dst = ringNext s1 v.ring ∧ (∀ b, memByte t b = memByte s1 b) ∧ Only parts s t)
              ∧ (slotAvailable s home = true → p.gather = true → ringN s v.ring ≤ p.hop + 1 →
                let nb := tileBlocks v p.tile.toNat
                let cols := max 1 (tileCols v)
                let row0 := 64 * (p.tile.toNat / cols) + if p.half then 32 else 0
                let stride := 33 * (padCols v.cols / 32)
                let rows := (List.range 32).filter (rowIn p.rowmap.toNat)
                let own : List Range := [(v.result, v.rows * stride), (v.bitmap, maplen v), (e + 64, 64)]
                (∀ i, i ∈ rows → row0 + i < v.rows) → p.blocks.length = 33 * nb * rows.length →
                inStacks s v.result (v.rows * stride) = true → inStacks s v.bitmap (maplen v) = true → inStacks s e 128 = true →
                apart v.result (v.rows * stride) v.bitmap (maplen v) → apart v.result (v.rows * stride) (e + 64) 64 →
                apart v.bitmap (maplen v) (e + 64) 64 → (∀ x, x ∈ own → ∀ y, y ∈ own → aloof s x.1 x.2 y.1 y.2) →
                ∃ t w, exec (.caravanPacket q p) s = .next t ∧ findCv t c n k = some w
                  ∧ w.final = (if (p.tile.toNat, p.half) ∈ v.final then v.final else v.final ++ [(p.tile.toNat, p.half)])
                  ∧ (∀ i, i < rows.length →
                      memGet t (v.result + (row0 + rows.getD i 0) * stride + 66 * (p.tile.toNat % cols)) (33 * nb)
                        = (half.blocks.drop (33 * nb * i)).take (33 * nb)
                      ∧ maskBit t v.bitmap (row0 + rows.getD i 0) = true)
                  ∧ (∀ b, (∀ x, x ∈ own → (b < x.1 ∨ x.1 + x.2 ≤ b) ∧ ¬ sealedBy s x.1 x.2 b) → memByte t b = memByte s1 b)
                  ∧ Only (.ctxs :: parts) s t))))
        ∧ (∀ (cl : Nat) (v : Caravan) (x : BitVec 4), cl < 32 → s.fab.blocked = [(q, p)] → ctxOfJob s p.job = some x →
            findCv s x n k = some v → homeCluster s v p.tile.toNat = cl →
            exec (.waystationSlotFree cl) s = if slotAvailable s cl
              then exec (.caravanPacket q p) { s with fab := { s.fab with blocked := [] } } else .next s))
    ∧ (∀ cl, cl < 32 → s.fab.blocked = [] → exec (.waystationSlotFree cl) s = .next s)
    ∧ (∀ (gen : BitVec 4) (m : W64),
        (findCv s c n k = none → exec (.restart c n k gen m) s = .next s)
        ∧ (∀ v, findCv s c n k = some v →
          ((v.state = 3#3 ∨ gen.toNat ≤ v.gen) → exec (.restart c n k gen m) s = .next s)
          ∧ (v.state = 1#3 → v.gen < gen.toNat → (∃ t w, exec (.restart c n k gen m) s = .next t ∧ findCv t c n k = some w
              ∧ w.gen = gen.toNat ∧ w.restarted = true)
            ∧ ((∀ i, i < tileCount v → startsChain s v i = false) → inStacks s e 128 = true →
              inStacks s v.bitmap (maplen v) = true → apart v.bitmap (maplen v) (e + 64) 64 → ∃ t, exec (.restart c n k gen m) s = .next t
                ∧ findCv t c n k = some (again v gen.toNat)
                ∧ memGet t v.bitmap (maplen v) = List.replicate (maplen v) 0#8 ∧ Only [.fabric, .memory, .poison] s t))))

/-- R25, R275 to R283, R328, R412: recall and replay, the read-back of a staged layer, the droop alarm, a stack that fails. A recalled
launch loses its passes and effects and waits at its first entry; its RECALLs go to every device that it signalled, an offer is withdrawn,
and past the limit it stops; a RECALL recalls the consumers of its tallies and is acknowledged; with nothing awaited the launch runs
again. Work within the suspect window of a droop is recalled (the window is measured on the rack count, log 21). -/
def Obligations.RecallRowsComplete : Prop :=
  ∀ (s : State) (uid : Nat) (l : LaunchS), findLaunch s uid = some l →
    let c := l.ctx
    let u := ctxU s c
    let st := u.sealSt
    let cfg := relCfg s c
    let hold := fld cfg 31 30 == 1
    let k := openEpoch u
    let back : LaunchS := { l with
      state := .recalled, recalls := l.recalls + 1, pc := 0, mb := 0, asked := false, tableSlot := none, gather := [], update := none
      updated := [], verify := [], groups := [], readCv := [], pending := [], placed := 0, told := if hold then l.told else l.told.dedup }
    let alive : Prop := (l.state = .running ∨ l.state = .ended) ∧ launchCaravans s l = [] ∧ l.updated = [] ∧ l.update = none
    let cleared (t : State) : Prop := (∀ j q, q ∈ (core t j).passq → q.launch ≠ uid) ∧ (∀ j p, p ∈ (core t j).drain → p.job.launch ≠ uid)
      ∧ (∀ j e, bit (entryOf s j e).town 31 = true → owns l (entryOf s j e) = false → entryOf t j e = entryOf s j e)
    let parts : List Safety.Part := [.cores, .arrays, .ctxs, .launches, .rel]
    let gone (t : State) (errs : Word) : Prop := findLaunch t uid = some back ∧ cleared t ∧ t.rel.err = s.rel.err ||| errs
      ∧ t.rel.replayCnt = satWord s.rel.replayCnt 1 ∧ (ctxU t c).sealSt.replayed = (st.replayed || l.kind != 4#4)
    ((l.state = .held ∨ l.state = .stopped ∨ l.state = .recalled) → st.offered = false →
        exec (.launchRecall uid) s = .next s)
    ∧ (alive → forwarded l = [] → st.offered = false → l.recalls + 1 ≤ fld cfg 25 22 →
        ∃ t, exec (.launchRecall uid) s = .next t ∧ gone t 0#32 ∧ Only parts s t)
    ∧ (alive → forwarded l = [] → st.offered = false → fld cfg 25 22 < l.recalls + 1 → ∃ t, exec (.launchRecall uid) s = .next t
        ∧ findLaunch t uid = some { back with state := .stopped } ∧ cleared t ∧ bit t.rel.err 6 = true
        ∧ (ctxU t c).sealSt.detect = true ∧ Only parts s t)
    ∧ (∀ d ts, alive → forwarded l = [(d, ts)] → ts.length ≤ 100 → ts ≠ [] → l.kind ≠ 4#4 → st.offered = false →
        l.recalls + 1 ≤ fld cfg 25 22 →
        (hold = false → ∃ t, exec (.launchRecall uid) s = .next t
          ∧ Sent [(0, d, .recall ⟨c, l.number, l.epoch, u.milestone, ts⟩)] s t
          ∧ (ctxU t c).sealSt.recallsOut = st.recallsOut ++ [(d, l.number)] ∧ Only (.ports :: .fabric :: parts) s t)
        ∧ (hold = true → ∃ t, exec (.launchRecall uid) s = .next t ∧ (ctxU t c).sealSt.uncurable = true
          ∧ (ctxU t c).sealSt.recallsOut = st.recallsOut ∧ Only parts s t))
    ∧ (∀ h, alive → forwarded l = [] → st.hdr = some h → st.offered = true → st.pendingGo = none → h.parent ≠ ownId s →
        l.recalls + 1 ≤ fld cfg 25 22 → ∃ t, exec (.launchRecall uid) s = .next t ∧ gone t 0#32
          ∧ Sent [(0, h.parent, .withdraw c k (ownId s))] s t ∧ (ctxU t c).sealSt.offered = false
          ∧ (ctxU t c).sealSt.withdrawn = true ∧ (ctxU t c).sealSt.lateDet = true
          ∧ sealState (ctxU t c) = (if sealState u = 2 then 1 else sealState u) ∧ Only (.ports :: .fabric :: parts) s t)
    ∧ (∀ ly, (ly ∉ l.verify → ∀ ok, exec (.stagingVerifyEnd uid ly ok) s = .next s)
        ∧ (ly ∈ l.verify → stagedWrong s l ly = false → twinState s ≠ 2 → ∃ t, exec (.stagingVerifyEnd uid ly true) s = .next t
          ∧ findLaunch t uid = some { l with verify := l.verify.erase ly, groups := l.groups.filter fun g => g.1 != ly }
          ∧ Only [.launches] s t)
        ∧ (∀ ok, ly ∈ l.verify → (ok = false ∨ stagedWrong s l ly = true) → alive → forwarded l = [] → st.offered = false →
          l.recalls + 1 ≤ fld cfg 25 22 → ∃ t, exec (.stagingVerifyEnd uid ly ok) s = .next t ∧ gone t 0x08#32 ∧ Only parts s t))
    ∧ (∀ (m : RecallMsg) (src : DevId), m.ctx = c →
        let ready (t : State) : Prop := (ctxU t c).sealSt.ready = false
        (forOpen s c m.epoch = false → exec (.recall m src) s
          = .next { s with rel := { s.rel with err := setBit s.rel.err 5, stat := satFld s.rel.stat 31 24 1 } })
        ∧ (forOpen s c m.epoch = true → st.hdr = none → st.withdrawn = false →
          s.launches.all (fun x => !(x.ctx == c && x.epoch == m.epoch && x.waits.any fun y => m.tallies.contains y)) = true →
          ∃ t, exec (.recall m src) s = .next t ∧ bit t.rel.err 5 = true ∧ ready t
            ∧ Sent [(0, src, .recallAck { m with tallies := [] })] s t ∧ Only [.ctxs, .rel, .ports, .fabric] s t)
        ∧ (forOpen s c m.epoch = true → st.hdr = none → st.withdrawn = true →
          s.launches.all (fun x => !(x.ctx == c && x.epoch == m.epoch && x.waits.any fun y => m.tallies.contains y)) = true →
          ∃ t, exec (.recall m src) s = .next t ∧ bit t.rel.err 5 = true ∧ ready t
            ∧ (ctxU t c).sealSt.owedAcks = st.owedAcks ++ [(src, m)] ∧ Only [.ctxs, .rel] s t)
        ∧ (forOpen s c m.epoch = true → st.hdr = none → st.withdrawn = false → s.launches = [l] → l.epoch = m.epoch →
          l.waits.any (fun y => m.tallies.contains y) = true → alive → forwarded l = [] → l.recalls + 1 ≤ fld cfg 25 22 →
          (src, m.launch) ∉ l.awaits → ∃ t, exec (.recall m src) s = .next t
            ∧ findLaunch t uid = some { back with awaits := l.awaits ++ [(src, m.launch)] } ∧ cleared t ∧ bit t.rel.err 5 = true
            ∧ Sent [(0, src, .recallAck { m with tallies := [] })] s t ∧ Only (.ports :: .fabric :: parts) s t)
        ∧ (forOpen s c m.epoch = false → exec (.recallAck m src) s = .next s)
        ∧ (forOpen s c m.epoch = true → st.ready = false → st.offered = false → ∃ t, exec (.recallAck m src) s = .next t
          ∧ ctxU t c = { u with sealSt := { st with recallsOut := st.recallsOut.erase (src, m.launch) } }
          ∧ (∀ y, y ≠ c → ctxU t y = ctxU s y) ∧ Only [.ctxs] s t)
        ∧ exec (.replayed m src) s = .next { s with launches := s.launches.map fun x =>
            if x.ctx = c ∧ x.epoch = m.epoch then { x with awaits := x.awaits.erase (src, m.launch) } else x })
    ∧ (l.state = .recalled → l.awaits = [] → ∃ t, exec (.launchReplay uid) s = .next t
        ∧ findLaunch t uid = some { l with state := .running, pc := 0, mb := 0, waits := [] } ∧ Only [.launches] s t)
    ∧ ((l.state ≠ .recalled ∨ l.awaits ≠ []) → exec (.launchReplay uid) s = .next s)
    ∧ (l.state = .recalled → l.awaits ≠ [] → st.offered = false → ∃ t, exec (.replayTimeout uid) s = .next t
        ∧ findLaunch t uid = some { l with state := .stopped } ∧ bit t.rel.err 7 = true ∧ (ctxU t c).sealSt.detect = true
        ∧ Only [.launches, .rel, .ctxs] s t)
    ∧ ((l.state ≠ .recalled ∨ l.awaits = []) → exec (.replayTimeout uid) s = .next s)
    ∧ (∀ x, x < 32 →
        let y := clus s x
        let quiet : Prop := suspectLaunches s x = [] ∧ suspectCaravans s x = []
        let forgot (t : State) (up : Bool) : Prop := clus t x = { y with droop := up, recent := [] } ∧ (∀ j, j ≠ x → clus t j = clus s j)
        (y.droop = true → exec (.droopAlarm x) s = .next s)
        ∧ (y.droop = false → exec (.droopClear x) s = .next s)
        ∧ (y.droop = false → quiet → ∃ t, exec (.droopAlarm x) s = .next t ∧ forgot t true ∧ Only [.clusters, .fabric] s t)
        ∧ (y.droop = true → quiet → ∃ t, exec (.droopClear x) s = .next t ∧ forgot t false ∧ Only [.clusters, .fabric] s t)
        ∧ (suspectLaunches s x = [uid] → suspectCaravans s x = [] → alive → forwarded l = [] → st.offered = false →
          l.recalls + 1 ≤ fld cfg 25 22 →
          (y.droop = false → ∃ t, exec (.droopAlarm x) s = .next t ∧ forgot t true ∧ gone t 0x10#32
            ∧ Only (.clusters :: .fabric :: parts) s t)
          ∧ (y.droop = true → ∃ t, exec (.droopClear x) s = .next t ∧ forgot t false ∧ gone t 0x10#32
            ∧ Only (.clusters :: .fabric :: parts) s t)))
    ∧ (∀ n, n < 8 → exec (.stackFail n) s = .next (if bit s.stacksIn n
        then { s with rel := { s.rel with badStacks := setBit s.rel.badStacks n } } else s))

/-- R324 to R336, Tables 12-2, 12-6, 12-12, Table 10-4: phases that fail, the notices, the telemetry, the ladder and the throttle. A first
failed phase leaves its cluster running, a second makes it dark; uncore phases force the slowest point, seven lock the stage off. A slot
sends the first frame that may leave, from which an engine that wakes counts its 2 µs (R108), a frame not decoded goes again. (A mean that is no whole number of watts reads as either
neighbour, log 5; 10 ms are 101 checks, log 31.) -/
def Obligations.PhaseNoticeAndLadderRowsComplete : Prop :=
  ∀ s : State,
    let p := s.pwr
    let loud : List Safety.Part := [.pwr, .host, .out]
    let sum := p.samples.foldl (· + ·) 0
    let n := p.samples.length
    let limit := fld p.cfg 11 0
    let l := ladder s
    let order := bit p.cfg 12
    let stepTo (t : State) (k : Nat) : Prop := ladder t = k ∧ t.pwr.powerLimit = (512 / 2 ^ if order then min k 3 else k - 4)
      ∧ fld t.pwr.dvfs 10 8 = (if order then k - 3 else min k 4)
    (∀ c i, c < 32 →
        (6 ≤ i → exec (.phaseFault c i) s = .next s)
        ∧ (i < 6 → phaseOk s c i = false → exec (.phaseFault c i) s = .next s)
        ∧ (i < 6 → phaseOk s c i = true →
          let known (t : State) : Prop := phaseOk t c i = false ∧ bit t.pwr.err 6 = true ∧ isPermanent t 5#4 (6 * c + i) = true
            ∧ t.sec.events = s.sec.events ++ [(5#4, 6 * c + i, logTime s)] ∧ bit t.host.irqCause 5 = true
          ((∀ j, j < 6 → j ≠ i → phaseOk s c j = true) → ∃ t, exec (.phaseFault c i) s = .next t ∧ known t
            ∧ bit (clus t c).region 17 = true ∧ bit (clus t c).region 16 = bit (clus s c).region 16
            ∧ (∀ j, j ≠ c → clus t j = clus s j) ∧ Only [.clusters, .pwr, .sec, .host, .out] s t)
          ∧ (∀ j, j < 6 → j ≠ i → phaseOk s c j = false → bit (clus s c).region 16 = false → s.launches = [] → s.host.running = [] →
            ∃ t, exec (.phaseFault c i) s = .next t ∧ known t ∧ bit (clus t c).region 16 = true ∧ bit (clus t c).region 17 = false
              ∧ digState t c = 0 ∧ fld (clus t c).region 9 8 = 0 ∧ bit t.pwr.err 7 = true ∧ bit t.rel.err 12 = true
              ∧ (∀ a, areaOf a = .store c → memByte t a = 0#8) ∧ (∀ a, areaOf a = .stack → memByte t a = memByte s a)
              ∧ (∀ k, k / 16 = c → (core t k).passq = [] ∧ (core t k).drain = []))))
    ∧ (∀ u, u < 24 →
        (u ∈ p.uncore → exec (.uncorePhaseFault u) s = .next s)
        ∧ (u ∉ p.uncore → p.state = .awake → p.resetReq = none →
          let f := uncoreFails s (u / 12) + 1
          ∃ t, exec (.uncorePhaseFault u) s = .next t ∧ u ∈ t.pwr.uncore ∧ isPermanent t 5#4 (192 + u) = true ∧ bit t.pwr.err 11 = true
            ∧ t.pwr.resetReq = (if 7 ≤ f then some (9#4, 2#2) else none) ∧ (7 ≤ f → t.pwr.lockedOff = true)
            ∧ (3 ≤ f → f < 7 → 4 ≤ activePoint t) ∧ Only [.pwr, .sec, .host, .out] s t))
    ∧ (∀ w : BitVec 12,
        let kept := p.samples.drop (n - 99) ++ [w.toNat]
        let sum := kept.foldl (· + ·) 0
        ∃ t, exec (.telemetry w) s = .next t ∧ t.pwr.samples = kept
          ∧ (sum % kept.length = 0 → fld t.pwr.stat 22 11 = sum / kept.length % 4096)
          ∧ (fld t.pwr.stat 22 11 = sum / kept.length % 4096 ∨ fld t.pwr.stat 22 11 = (sum / kept.length + 1) % 4096)
          ∧ Only [.pwr, .counters] s t)
    ∧ (∃ t, exec .noticeSlot s = .next t ∧ Only [.pwr, .cores, .out] s t
        ∧ (match p.notices.find? fun x => !(bit p.stat 10 && fld x.frame 31 30 == 0) with
          | none => t.out = s.out ∧ t.cores = s.cores ∧ t.pwr.notices.map (·.frame) = p.notices.map (·.frame) ∧ t.pwr.lastNotice = p.lastNotice
            ∧ fld t.pwr.noticeCnt 31 16 = min (fld p.noticeCnt 31 16 + p.notices.countP fun x => bit p.stat 10 && !x.held) 0xFFFF
          | some x => t.out = .notice x.frame :: s.out ∧ t.pwr.lastNotice = some x.frame ∧ t.pwr.noticeAt = some s.rack.toNat
            ∧ (∀ k, (core t k).wakeAt = if fld x.frame 31 27 = 0 ∧ k / 16 = fld x.frame 26 21 ∧ (core s k).power = 1#2
                ∧ (core s k).wakeAt = none then some s.rack.toNat else (core s k).wakeAt)
            ∧ t.pwr.notices.map (·.frame) = (p.notices.erase x).map (·.frame) ∧ t.pwr.notices.all (·.waited) = true
            ∧ fld t.pwr.noticeCnt 15 0 = min (fld p.noticeCnt 15 0 + if x.waited then 1 else 0) 0xFFFF))
    ∧ (p.lastNotice = none → exec .noticeBad s = .next s)
    ∧ (∀ f, p.lastNotice = some f → ∃ t, exec .noticeBad s = .next t ∧ t.pwr.notices.Perm (⟨0, s.rack.toNat, f, false, false⟩ :: p.notices)
        ∧ bit t.pwr.err 8 = true ∧ Only [.pwr, .cores] s t)
    ∧ (limit * n < sum →
        (l = 7 → ∃ t, exec .ladderCompare s = .next t ∧ ladder t = 7 ∧ bit t.pwr.err 10 = true ∧ bit t.host.irqCause 5 = true
          ∧ t.pwr.calmPower = 0 ∧ Only loud s t)
        ∧ (l ≠ 7 → ∃ t, exec .ladderCompare s = .next t ∧ stepTo t (l + 1) ∧ t.pwr.calmPower = 0
          ∧ (∀ i, bit t.pwr.err i = (bit p.err i || (i == 3 && l == 0))) ∧ Only loud s t))
    ∧ (sum ≤ limit * n → 100 * sum < 95 * limit * n →
        (p.calmPower < 100 → exec .ladderCompare s = .next { s with pwr := { p with calmPower := p.calmPower + 1 } })
        ∧ (100 ≤ p.calmPower → 0 < l → ∃ t, exec .ladderCompare s = .next t ∧ stepTo t (l - 1) ∧ t.pwr.calmPower = 1 ∧ Only [.pwr] s t)
        ∧ (100 ≤ p.calmPower → l = 0 → exec .ladderCompare s = .next { s with pwr := { p with calmPower := 101 } }))
    ∧ (sum ≤ limit * n → 95 * limit * n ≤ 100 * sum → exec .ladderCompare s = .next { s with pwr := { p with calmPower := 0 } })
    ∧ (let hot := fld p.therm 6 0
       let f := thermalFloor s
       (hotAt s hot = true → ∃ t, exec .thermalCheck s = .next t ∧ thermalFloor t = (if f = 0 then 1 else min 4 (f + 1))
          ∧ t.pwr.calmHeat = 0 ∧ (∀ i, bit t.pwr.err i = (bit p.err i || (i == 4 && f == 0))) ∧ Only loud s t)
        ∧ (hotAt s hot = false → coolAt s (hot - 3) = false → exec .thermalCheck s = .next { s with pwr := { p with calmHeat := 0 } })
        ∧ (hotAt s hot = false → coolAt s (hot - 3) = true → p.calmHeat < 100 →
          exec .thermalCheck s = .next { s with pwr := { p with calmHeat := p.calmHeat + 1 } })
        ∧ (hotAt s hot = false → coolAt s (hot - 3) = true → 100 ≤ p.calmHeat → 0 < f → ∃ t, exec .thermalCheck s = .next t
          ∧ thermalFloor t = f - 1 ∧ t.pwr.calmHeat = 1 ∧ Only [.pwr] s t))

/-- R341 to R345, R395, R397, R399 to R401, Tables 12-8, 12-10: the watch comparators, the pins and the input. A comparator that trips sets
its latch and, awake, its action, or wakes a sleeping module where it is enabled; a thermal or a flow trip, the reset line and the loss of
the input ask for a reset, each with its cause; the watch that is off notes nothing. -/
def Obligations.WatchAndPinRowsComplete : Prop :=
  ∀ s : State,
    let p := s.pwr
    let parts : List Safety.Part := [.pwr, .sec, .host, .out]
    let awake : Prop := p.vaon = true ∧ p.state = .awake
    let asleep : Prop := p.vaon = true ∧ p.state = .asleep
    let latched (t : State) (b : Nat) : Prop := bit t.pwr.watchStat b = true
    let logged (t : State) : Prop := s.sec.ring.length < 128 → t.sec.ring.length = s.sec.ring.length + 1
    let wakes (t : State) (b : Nat) : Prop := t.pwr.resetReq = if bit p.watchCtl b then some (4#4, 1#2) else none
    let floor (t : State) : Prop := bit t.pwr.dvfs 15 = true ∧ 4 ≤ activePoint t
    (∀ c, c ∈ [Instr.uv48, .vaonLow true, .vaonLow false, .overtemp, .wake, .flow, .flowTrip, .heartbeatStrobe] → p.vaon = false →
        exec c s = .next s)
    ∧ (awake → ∃ t, exec .uv48 s = .next t ∧ latched t 0 ∧ logged t ∧ bit t.pwr.err 2 = true ∧ t.pwr.protUv = true ∧ floor t
        ∧ bit t.host.irqCause 5 = true ∧ Only parts s t)
    ∧ (asleep → p.resetReq = none → ∃ t, exec .uv48 s = .next t ∧ latched t 0 ∧ wakes t 0 ∧ t.pwr.protUv = p.protUv ∧ Only parts s t)
    ∧ (uncoreFails s 0 < 3 → uncoreFails s 1 < 3 → p.protFlow = false →
        exec .uv48Lift s = .next { s with pwr := { p with protUv := false, dvfs := putBit p.dvfs 15 false } })
    ∧ (p.protFlow = true → ∃ t, exec .uv48Lift s = .next t ∧ t.pwr.protUv = false ∧ floor t ∧ Only [.pwr] s t)
    ∧ (awake → p.resetReq = none → ∀ lost, ∃ t, exec (.vaonLow lost) s = .next t ∧ latched t 1 ∧ logged t ∧ bit t.pwr.err 1 = true
        ∧ t.pwr.resetReq = (if lost then some (0#4, 0#2) else none) ∧ Only parts s t)
    ∧ (asleep → p.resetReq = none → ∃ t, exec (.vaonLow false) s = .next t ∧ latched t 1 ∧ logged t ∧ wakes t 1 ∧ Only parts s t)
    ∧ ((awake ∨ asleep) → p.resetReq = none →
        (∃ t, exec .overtemp s = .next t ∧ latched t 2 ∧ logged t ∧ t.pwr.thermTrip = true ∧ t.pwr.tripHot = true
          ∧ t.pwr.resetReq = some (6#4, 2#2) ∧ Only parts s t)
        ∧ (∃ t, exec .flowTrip s = .next t ∧ latched t 5 ∧ logged t ∧ t.pwr.flowLow = true ∧ t.pwr.resetReq = some (8#4, 2#2)
          ∧ Only parts s t))
    ∧ (awake → ∃ t, exec .wake s = .next t ∧ latched t 3 ∧ t.pwr.resetReq = p.resetReq ∧ Only parts s t)
    ∧ (asleep → p.resetReq = none → ∃ t, exec .wake s = .next t ∧ latched t 3 ∧ wakes t 3 ∧ Only parts s t)
    ∧ (p.state ≠ .asleep → exec .twinHb s = .next s)
    ∧ (asleep → p.resetReq = none → ∃ t, exec .twinHb s = .next t ∧ latched t 4 ∧ wakes t 4 ∧ bit t.pwr.sbEvent 0 = true ∧ Only parts s t)
    ∧ (awake → ∃ t, exec .flow s = .next t ∧ latched t 5 ∧ t.pwr.flowLow = true ∧ t.pwr.protFlow = true ∧ bit t.pwr.err 5 = true
        ∧ floor t ∧ Only parts s t)
    ∧ (asleep → ∃ t, exec .flow s = .next t ∧ latched t 5 ∧ t.pwr.flowLow = true ∧ t.pwr.protFlow = p.protFlow ∧ Only parts s t)
    ∧ (uncoreFails s 0 < 3 → uncoreFails s 1 < 3 → p.protUv = false → exec .flowPresent s
        = .next { s with pwr := { p with flowLow := false, protFlow := false, dvfs := putBit p.dvfs 15 false } })
    ∧ (p.vaon = true → exec .heartbeatStrobe s = .next { s with pwr := { p with hbOut := true } })
    ∧ ((p.state = .awake ∨ p.state = .asleep) → ∃ t, exec .mrst s = .next t ∧ t.pwr.mrstPin = true ∧ Only [.pwr] s t
        ∧ t.pwr.resetReq = (match p.resetReq with
          | none => some (5#4, 2#2)
          | some (c, k) => some (if c = 1#4 ∨ c = 2#4 ∨ c = 4#4 then 5#4 else c, if k = 0#2 then 0#2 else 2#2)))
    ∧ exec .mrstRelease s = .next { s with pwr := { p with mrstPin := false } }
    ∧ exec .inputRise s = .next { s with pwr := { p with input := true } }
    ∧ (p.state = .off → p.vaon = false → p.input = true → p.protUv = false → p.flowLow = false → uncoreFails s 0 < 3 →
        uncoreFails s 1 < 3 → exec .vaonGood s = .next { s with
          sec := { s.sec with boot := setFld s.sec.boot 3 0 0 }
          pwr := { p with
            vaon := true, watchTime := 0#64, resetKind := 0#2, state := .awake, thermTrip := false, tripHot := false
            protFlow := false, dvfs := putBit p.dvfs 15 false } })
    ∧ ((p.state ≠ .off ∨ p.vaon = true ∨ p.input = false) → exec .vaonGood s = .next s)
    ∧ (∀ lost, ((p.state = .awake ∨ p.state = .asleep) → p.resetReq = none → exec (.inputLost lost) s = .next { s with pwr := { p with
          input := false, lockedOff := false, resetReq := some (7#4, if lost then 0#2 else 2#2) } })
        ∧ (p.state = .resetting → lost = true → ∃ t, exec (.inputLost lost) s = .next t ∧ t.pwr.state = .off ∧ t.pwr.vaon = false
          ∧ t.pwr.input = false ∧ t.pwr.resetKind = 0#2 ∧ t.pwr.resetW = 0#32 ∧ (∀ a, areaOf a = .stack → memByte t a = 0#8))
        ∧ (p.state = .off → lost = false → p.vaon = false → exec (.inputLost lost) s
          = .next { s with pwr := { p with input := false, lockedOff := false, resetKind := 2#2 } }))

/-- R5, R24, R25, R343 to R346, R351, R371 to R380, Tables 12-9, 12-11, 14-1: a module reset and start-up. A reset that is asked for begins once
its reply is posted: the work is lost, the cells and, unless VAON went, the retained fields stay, the stacks stay in a WARM reset only. Start-up
begins with the input present and the reset line released; each phase ends with the next one or with HALTED and its cause; the module
reports ready once no port trains and the time is valid. (The values of a configuration image are the image's, log 6.) -/
def Obligations.ResetAndStartupRowsComplete : Prop :=
  ∀ s : State,
    let p := s.pwr
    let due : Prop := (p.state = .awake ∨ p.state = .asleep) ∧ resetReplyWaits s = false
    let wait : Prop := p.state ≠ .resetting ∨ p.mrstPin = true ∨ p.input = false ∨ (p.tripHot = true ∧ hotAt s 95 = true)
    ((¬ due ∨ p.resetReq = none) → exec .moduleReset s = .next s)
    ∧ (∀ (c : BitVec 4) (k : BitVec 2), due → p.resetReq = some (c, k) → ∃ t, exec .moduleReset s = .next t
        ∧ t.cores = [] ∧ t.ctxs = [] ∧ t.launches = [] ∧ t.rack = 0#64 ∧ t.host = { HostIf.reset with perst := s.host.perst }
        ∧ t.pending = s.pending ∧ t.stacksIn = s.stacksIn ∧ t.sec.journal = s.sec.journal ∧ t.sec.permanent = s.sec.permanent
        ∧ t.fab = FabU.reset ∧ t.planes = [] ∧ t.pwr.dvfs = PwrU.reset.dvfs ∧ t.pwr.notices = [] ∧ t.pwr.resetReq = none ∧ t.pwr.resetKind = k
        ∧ t.pwr.input = p.input ∧ fld t.pwr.resetW 3 0 = c.toNat
        ∧ t.pwr.state = (if k = 0#2 ∨ p.lockedOff = true then .off else .resetting) ∧ t.pwr.vaon = (p.vaon && k != 0#2)
        ∧ fld t.pwr.resetW 19 4 = (if k = 0#2 then 0 else if p.lockedOff = true then fld p.resetW 19 4 else min (fld p.resetW 19 4 + 1) 0xFFFF)
        ∧ (∀ a, areaOf a = .stack → memByte t a = if k = 1#2 then memByte s a else 0#8)
        ∧ (∀ a, areaOf a ≠ .stack → memByte t a = 0#8)
        ∧ ((s.arrays.map (·.1)).Nodup → ∀ a, (arr s a).write = none → (arr t a).image = (arr s a).image
            ∧ (k ≠ 0#2 → (arr t a).trims = (arr s a).trims ∧ (arr t a).spareMap = (arr s a).spareMap
              ∧ (arr t a).pulses = (arr s a).pulses ∧ bit (arr t a).state 17 = bit (arr s a).state 17))
        ∧ (k ≠ 0#2 → t.rel.coreFence = s.rel.coreFence ∧ t.mon.coef = s.mon.coef) ∧ (k = 0#2 → t.rel.coreFence = 0#512)
        ∧ (∃ ns, t.out = ns ++ .resetBegins c :: s.out ∧ ns.length = 4
            ∧ ∀ x, x ∈ ns → ∃ f, x = .notice f ∧ fld f 31 30 = 2))
    ∧ (wait → exec .startupBegin s = .next s)
    ∧ (¬ wait → ∃ t, exec .startupBegin s = .next t ∧ t.pwr.state = .awake ∧ bootPhase t = 0 ∧ t.pwr.thermTrip = false
        ∧ t.pwr.tripHot = false ∧ t.pwr.protFlow = p.flowLow ∧ ((p.protUv = true ∨ p.flowLow = true) → 4 ≤ activePoint t)
        ∧ Only [.pwr, .sec] s t)
    ∧ (∀ f : PhaseFacts,
        let halted (t : State) (c : Nat) : Prop := bootPhase t = 9 ∧ fld t.sec.boot 23 20 = c ∧ bit t.pwr.sbEvent 5 = true
        let inPhase (n : Nat) : Prop := p.state = .awake ∧ bootPhase s = n
        let sec := s.sec
        ((p.state ≠ .awake ∨ 8 ≤ bootPhase s) → exec (.startupPhaseEnd f) s = .next s)
        ∧ (inPhase 0 → ∃ t, exec (.startupPhaseEnd f) s = .next t ∧ bootPhase t = 1
          ∧ tget 0#256 t.sec.meas 0 = BitVec.ofNat 256 (leNat (sha256 (leBytes 32 (tget 0#256 sec.meas 0).toNat ++ Config.romDigest)))
          ∧ (∀ i, bit t.sec.err i = (bit sec.err i || (i == 4 && f.fpWeak))) ∧ bit t.sec.boot 19 = (bit sec.boot 19 || f.idLost)
          ∧ Only [.sec] s t)
        ∧ (inPhase 1 → f.journalOk = false → ∃ t, exec (.startupPhaseEnd f) s = .next t ∧ halted t 3 ∧ Only [.sec, .pwr] s t)
        ∧ (inPhase 1 → f.journalOk = true → sec.fwPend = false → sec.cfgPend = none → ∃ t, exec (.startupPhaseEnd f) s = .next t
          ∧ bootPhase t = 2 ∧ t.host.ready = true ∧ bit t.sec.logStat 22 = true ∧ fld t.sec.logStat 7 0 = min 255 f.torn
          ∧ (p.resetKind ≠ 0#2 → t.sec.timeBase = sec.timeBase) ∧ t.sec.journal = sec.journal ∧ Only [.sec, .host] s t)
        ∧ (inPhase 1 → f.journalOk = true → (sec.fwPend = true ∨ sec.cfgPend ≠ none) → sec.attempt = false →
          ∃ t, exec (.startupPhaseEnd f) s = .next t ∧ bootPhase t = 2 ∧ t.sec.attempt = true ∧ t.sec.triedFw = sec.fwPend
            ∧ t.sec.triedCfg = sec.cfgPend.isSome ∧ Only [.sec, .host, .out] s t)
        ∧ (inPhase 1 → f.journalOk = true → (sec.fwPend = true ∨ sec.cfgPend ≠ none) → sec.attempt = true →
          ∃ t, exec (.startupPhaseEnd f) s = .next t ∧ bootPhase t = 2 ∧ t.sec.attempt = false ∧ t.sec.fwPend = false
            ∧ t.sec.cfgPend = none ∧ bit t.sec.boot 17 = true ∧ Only [.sec, .host, .out] s t)
        ∧ (inPhase 2 → sec.triedFw = false → (slotImage s sec.fwCur) = none → (slotImage s !sec.fwCur) = none →
          let old := tooOld s 1 f.madeRelease.toNat f.madeFwRb.toNat
          (((f.firmwareOk = false ∧ f.otherFwOk = false) ∨ old = true) → ∃ t, exec (.startupPhaseEnd f) s = .next t ∧ halted t 1 ∧ Only [.sec, .pwr] s t)
          ∧ ((f.firmwareOk = true ∨ f.otherFwOk = true) → old = false → ∃ t, exec (.startupPhaseEnd f) s = .next t ∧ bootPhase t = 3
            ∧ bit t.sec.boot 16 = (if f.firmwareOk then sec.fwCur else !sec.fwCur) ∧ t.pwr.wdogArmed = true ∧ t.pwr.wdogKick = s.rack
            ∧ fld t.deviceId 31 16 = fld s.deviceId 31 16 ∧ fld t.deviceId 3 0 = fld s.deviceId 3 0 ∧ Only [.sec, .pwr, .ident] s t))
        ∧ (inPhase 3 → sec.triedCfg = false → sec.cfgCur = none → sec.cfgOld = none →
          let old := decide (f.madeCfgRb.toNat < sec.cfgRb.toNat)
          (((f.configOk = false ∧ f.otherCfgOk = false) ∨ old = true) → ∃ t, exec (.startupPhaseEnd f) s = .next t ∧ halted t 2 ∧ Only [.sec, .pwr] s t)
          ∧ ((f.configOk = true ∨ f.otherCfgOk = true) → old = false → ∃ t, exec (.startupPhaseEnd f) s = .next t ∧ bootPhase t = 4
            ∧ bit t.fab.devid 31 = true ∧ (p.resetKind ≠ 0#2 → t.mon.coef = s.mon.coef ∧ t.clusters = s.clusters)
            ∧ (p.resetKind = 0#2 → t.mon.vref = 120000#32 ∧ ∀ c, c < 32 → 29491 ≤ fld (clus t c).ctiScale 15 0
                ∧ fld (clus t c).ctiScale 15 0 ≤ 36045)
            ∧ Only [.sec, .fabric, .pwr, .mon, .ports, .clusters] s t))
        ∧ (inPhase 4 →
          let live := (f.stacksOk &&& if f.dieMode = 2#2 then 0x0F#8 else if f.dieMode = 3#2 then 0xF0#8 else 0xFF#8) &&& ~~~s.rel.badStacks
          ∃ t, exec (.startupPhaseEnd f) s = .next t ∧ t.stacksIn = live ∧ fld t.topology 1 0 = f.dieMode.toNat
            ∧ (live = 0#8 → halted t 4) ∧ (live ≠ 0#8 → bootPhase t = 5)
            ∧ (∀ a, areaOf a = .stack → memByte t a = if live = s.stacksIn then memByte s a else 0#8)
            ∧ (∀ a, areaOf a ≠ .stack → memByte t a = memByte s a)
            ∧ t.rel = { s.rel with badStacks := 0#8 } ∧ Only [.sec, .pwr, .memory, .poison, .stacks, .ident, .rel] s t)
        ∧ (inPhase 5 → sec.permanent = [] → p.resetKind ≠ 0#2 →
          ((List.range 32).all (fun c => clusterOut s c) = true → ∃ t, exec (.startupPhaseEnd f) s = .next t ∧ halted t 4
            ∧ Only [.sec, .pwr, .rel] s t)
          ∧ ((List.range 32).all (fun c => clusterOut s c) = false → ∃ t, exec (.startupPhaseEnd f) s = .next t ∧ bootPhase t = 6
            ∧ t.rel.coreFence = s.rel.coreFence ∧ Only [.sec, .rel] s t))
        ∧ (inPhase 5 → ∀ k, k < 512 → sec.permanent = [(1#4, k)] → p.resetKind ≠ 0#2 → clusterOut s ((k / 16 + 1) % 32) = false →
          ∃ t, exec (.startupPhaseEnd f) s = .next t ∧ bootPhase t = 6 ∧ bit t.rel.coreFence k = true
            ∧ (∀ i, i < 8 → bit (arr t (8 * k + i)).state 17 = true) ∧ Only [.sec, .rel, .arrays] s t)
        ∧ (inPhase 6 → arraysStarted s = false → exec (.startupPhaseEnd f) s = .next s)
        ∧ (inPhase 6 → arraysStarted s = true → sec.attempt = false → (∀ q, q < 18 → (port s q).queue = []) →
          ∃ t, exec (.startupPhaseEnd f) s = .next t ∧ bootPhase t = 7
            ∧ (∀ q, q < 18 → bit (port s q).ctl 2 = false → fld (port t q).stat 1 0 = 1)
            ∧ (∀ q, bit (port s q).ctl 2 = true → port t q = port s q))
        ∧ (inPhase 7 → (List.range 18).any (fun q => fld (port s q).stat 1 0 == 1) = true → exec (.startupPhaseEnd f) s = .next s)
        ∧ (inPhase 7 → (List.range 18).any (fun q => fld (port s q).stat 1 0 == 1) = false → timeValid s = false →
          exec (.startupPhaseEnd f) s = .next { s with sec := { sec with boot := setBit sec.boot 18 } })
        ∧ (∀ c, (c = Instr.startupPhaseEnd f ∧ inPhase 7 ∧ (List.range 18).any (fun q => fld (port s q).stat 1 0 == 1) = false
              ∨ c = Instr.readyReport ∧ bootPhase s = 7 ∧ bit sec.boot 18 = true) → timeValid s = true →
          ∃ t, exec c s = .next t ∧ bootPhase t = 8 ∧ bit t.sec.boot 18 = false ∧ bit t.host.irqCause 7 = true ∧ bit t.pwr.sbEvent 4 = true
            ∧ fld t.topology 27 24 = stackCount s ∧ t.avail = BitVec.ofNat 32 (arraysAvail s)
            ∧ (sec.bbFound = true → bit t.host.irqCause 6 = true) ∧ Only [.sec, .host, .ident, .pwr, .out] s t))
    ∧ ((bootPhase s ≠ 7 ∨ bit s.sec.boot 18 = false ∨ timeValid s = false) → exec .readyReport s = .next s)

/-- R353 to R366, R387, R388, Table 12-12: the monitor's channel and its users, the fits of the converters, the array traces, the compaction
of the logbook. A user takes the free channel, the highest waiting one first; a unit that ends leaves its last sample, stores or verifies
what its user asked, and hands the channel on; a fit sets its converter's coefficients or reports why not; a kept trace sets the result and
the cluster's scale; a journal past three quarters is compacted. (Of two traces that wait die 0's goes first, and a mean of a group that
is no whole quarter code reads as either neighbour: log 55.) -/
def Obligations.MonitorAndCompactionRowsComplete : Prop :=
  ∀ s : State,
    let m := s.mon
    let mine : List Safety.Part := [.mon]
    let idle : Prop := s.host.running = [] ∧ m.fitDue = false
    ((m.owner = 1#3 ∨ 1 ∈ m.waiting) → exec .runningSet s = .next s)
    ∧ (m.owner = 0#3 → m.waiting = [] → exec .runningSet s
        = .next { s with mon := { m with owner := 1#3, chsel := setFld m.chsel 4 0 2 } })
    ∧ (m.owner ≠ 0#3 → m.owner ≠ 1#3 → 1 ∉ m.waiting → exec .runningSet s
        = .next { s with mon := { m with waiting := m.waiting ++ [1] } })
    ∧ (∀ raws : List (BitVec 12),
        let codes := raws.map (·.toNat)
        let last (t : State) (ch : Nat) : Prop := fld t.mon.last 20 16 = ch
          ∧ fld t.mon.last 15 0 = sampleWord s (raws.length - 1) (codes.getLastD 0)
          ∧ t.mon.halfCnt = (if m.fit = 0#2 then m.halfCnt else satWord m.halfCnt raws.length)
        ((raws.length ≠ unitLength s ∨ (m.owner = 0#3 ∧ bit m.cfg 0 = false)) → exec (.channelHandover raws) s = .next s)
        ∧ (m.owner = 0#3 → bit m.cfg 0 = true → raws.length = 1 → m.waiting = [] → ∃ t, exec (.channelHandover raws) s = .next t
          ∧ last t (fld m.chsel 4 0) ∧ t.mon.owner = 0#3 ∧ t.mon.chsel = m.chsel ∧ Only mine s t)
        ∧ (m.owner = 1#3 → raws.length = 352 → ∃ t, exec (.channelHandover raws) s = .next t ∧ last t 23
          ∧ (m.waiting = [] → t.mon.owner = 0#3) ∧ (m.waiting = [3] → t.mon.owner = 3#3 ∧ t.mon.waiting = [])
          ∧ (m.waiting = [5, 3] → t.mon.owner = 3#3 ∧ t.mon.waiting = [5] ∧ t.mon.traced = tget 0 m.atp 0)
          ∧ (m.waiting = [4, 2] → t.mon.owner = 2#3 ∧ t.mon.waiting = [4]) ∧ Only mine s t)
        ∧ (m.owner = 3#3 → raws.length = 48 → m.waiting = [] →
          let d := dieOfArray (m.traced - 1)
          let fixed := (List.range 48).map fun i => correctCode (coefOf s (convOf s i)) (codes.getD i 0)
          ∃ t, exec (.channelHandover raws) s = .next t ∧ last t (fld m.chsel 4 0) ∧ t.mon.owner = 0#3 ∧ t.mon.atp = m.atp
            ∧ ((m.traced = 0 ∨ tget 0 m.atp d ≠ m.traced) → t.mon.traceMeans = m.traceMeans)
            ∧ (m.traced ≠ 0 → tget 0 m.atp d = m.traced → (tget [] t.mon.traceMeans d).length = 3 ∧ ∀ j, j < 3 →
                let sum := ((fixed.drop (16 * j)).take 16).foldl (· + ·) 0
                (tget [] t.mon.traceMeans d).getD j 0 = sum / 4
                  ∨ (sum % 4 ≠ 0 ∧ (tget [] t.mon.traceMeans d).getD j 0 = sum / 4 + 1))
            ∧ Only [.mon, .counters] s t)
        ∧ (∀ (p : Packet) (ch left next done : Nat), m.owner = 4#3 → m.waiting = [] → p.muted = false →
            s.host.running = [⟨p, .monSample ch left next done⟩] →
            let n := min 256 left
            raws.length = n → 1 ≤ n → inStacks s next (2 * n) = true →
            ∃ t, exec (.channelHandover raws) s = .next t ∧ last t (fld m.chsel 4 0)
              ∧ (∀ i, i < n → leNat (memGet t (next + 2 * i) 2) = sampleWord s i (codes.getD i 0)) ∧ outside next (2 * n) s t
              ∧ (left ≤ 256 → t.host.running = [] ∧ Answers t p 0 [BitVec.ofNat 32 (done + n)] ∧ t.mon.owner = 0#3)
              ∧ (256 < left → t.host.running = [⟨p, .monSample ch (left - 256) (next + 512) (done + 256)⟩] ∧ t.mon.owner = 4#3
                ∧ fld t.mon.chsel 4 0 = ch % 32)
              ∧ Only [.mon, .host, .memory, .poison] s t)
        ∧ (∀ (p : Packet) (a b : Bool) (q : Nat), m.owner = 2#3 → m.waiting = [] → raws.length = 1024 → p.muted = false → m.fitDue = false →
            (s.host.running = [⟨p, .calSystem 3 a b q⟩] → ∃ t, exec (.channelHandover raws) s = .next t
              ∧ t.host.running = [⟨p, .calSystem 4 a b (q + residues s 0 codes)⟩] ∧ t.mon.owner = 2#3 ∧ fld t.mon.chsel 4 0 = 1
              ∧ Only [.mon, .host] s t)
            ∧ (s.host.running = [⟨p, .calSystem 4 a b q⟩] →
              let res := rneSqrt (32 * (q + residues s (fullTarget s) codes))
              ∃ t, exec (.channelHandover raws) s = .next t ∧ t.host.running = [] ∧ t.mon.owner = 0#3
                ∧ (a = true → b = true → res ≤ 256 → Answers t p 0 [BitVec.ofNat 32 res] ∧ t.mon.monQual = BitVec.ofNat 32 (0x80000000 + res))
                ∧ ((a = false ∨ b = false ∨ 256 < res) → Answers t p 1 [0xFFFFFFFF#32] ∧ t.mon.monQual = m.monQual)
                ∧ (∀ i, bit t.mon.err i = (bit m.err i || (i == 4 && decide (256 < res)))) ∧ Only [.mon, .host] s t)))
    ∧ ((fld m.cfg 23 16 = 0 ∨ s.pwr.state ≠ .awake) → exec .periodicFit s = .next s)
    ∧ (fld m.cfg 23 16 ≠ 0 → s.pwr.state = .awake →
        (m.fit ≠ 0#2 → exec .periodicFit s = .next { s with mon := { m with fitDue := true } })
        ∧ (m.fit = 0#2 → s.host.running = [] → exec .periodicFit s = .next { s with mon := { m with
            fitDue := false, nextFit := !m.nextFit, fit := if m.nextFit then 2#2 else 1#2 } }))
    ∧ (∀ (zs fs : Nat) (bg : List (BitVec 12)) (stopped : Bool),
        ((m.fit = 0#2 ∨ m.fit = 3#2) → exec (.fitEnd zs fs bg stopped) s = .next s)
        ∧ (idle → m.fit ≠ 0#2 → m.fit ≠ 3#2 →
          let k := m.fit.toNat - 1
          let ft := fullTarget s
          let present := bandgapGood (coefOf s k) (fld m.vref 16 0) fs (bg.map (·.toNat)) && refPresent ft fs
          let coef := fitCoef ft zs fs
          ∃ t, exec (.fitEnd zs fs bg stopped) s = .next t ∧ t.mon.fit = 0#2
            ∧ (∀ w, present = true → coef = some w → stopped = false → coefOf t k = w)
            ∧ ((present = false ∨ coef = none ∨ stopped = true) → coefOf t k = coefOf s k)
            ∧ (∀ j, j ≠ k → coefOf t j = coefOf s j)
            ∧ (∀ i, bit t.mon.err i = (bit m.err i || (i == 1 && !present && !stopped) || (i == 2 + k && (stopped || coef.isNone))))
            ∧ Only mine s t))
    ∧ (∀ a, a < 4096 →
        let d := dieOfArray a
        let user := 3 + 2 * d
        let held : Prop := tget 0 m.atp d = a + 1
        let dropped (t : State) : Prop := tget 0 t.mon.atp d = 0 ∧ bit t.mon.err 6 = true ∧ t.mon.waiting = m.waiting.erase user
          ∧ t.mon.traceCnt = satFld m.traceCnt 15 0 1 ∧ Only mine s t
        ((user ∉ m.waiting ∨ ¬ held) → exec (.traceDeadline a) s = .next s)
        ∧ (user ∈ m.waiting → held → ∃ t, exec (.traceDeadline a) s = .next t ∧ dropped t)
        ∧ ((¬ held ∨ (tget [] m.traceMeans d).length ≠ 3 ∨ tget 0 m.traceFit d = 0) → exec (.traceResult a) s = .next s)
        ∧ (∀ z vr vc tj : Nat, held → tget [] m.traceMeans d = [z, vr, vc] → tget 0 m.traceFit d = tj + 1 →
            let c := clusterOfArray a
            let g := ((arr s a).traces - 1) % 8
            let dr := Int.ofNat vr - Int.ofNat z
            let dc := Int.ofNat vc - Int.ofNat z
            let scale := fld (clus s c).ctiScale 15 0
            let kept : Prop := arrFenced s a = false ∧ regionOn (arrRegState s c) = true
            (¬ kept → ∃ t, exec (.traceResult a) s = .next t ∧ dropped t)
            ∧ (kept → tget 0#16 (arr s a).traceRef g = 0#16 → dc ≠ 0 → ∃ t, exec (.traceResult a) s = .next t
              ∧ tget 0#16 (arr t a).traceRef g = BitVec.ofInt 16 dr ∧ tget 0#16 (arr t a).traceLast g = BitVec.ofInt 16 dr
              ∧ tget 0#16 (arr t a).traceTj g = BitVec.ofNat 16 tj
              ∧ fld (clus t c).ctiScale 15 0
                = (min 36045 (max 29491 (Int.ofNat scale + rneRatio (Int.ofNat scale * (dr - dc) * dc.sign) (16 * dc.natAbs)))).toNat
              ∧ tget 0 t.mon.atp d = 0 ∧ t.mon.traceCnt = satFld m.traceCnt 31 16 1 ∧ t.mon.err = m.err
              ∧ (∀ b, b ≠ a → arr t b = arr s b) ∧ Only [.mon, .arrays, .clusters] s t)))
    ∧ (let j := s.sec.journal
       ∃ t, exec .compaction s = .next t ∧ Only [.sec, .host, .out] s t
        ∧ (s.sec.ring.length ≤ 64 → t.sec.ring = s.sec.ring)
        ∧ (64 < s.sec.ring.length → t.sec.ring = s.sec.ring.drop (s.sec.ring.length - max 16 (s.sec.ring.length - 64)))
        ∧ (4 * j.length ≤ 3 * 510 → t.sec.journal = j)
        ∧ (3 * 510 < 4 * j.length → (t.sec.journal.length < j.length ∧ t.sec.full = false)
          ∨ (t.sec.full = true ∧ bit t.sec.logErr 3 = true ∧ bit t.host.irqCause 6 = true)))

/-- R10 to R13, R22, R351, R371 and the register tables of every chapter: what reset leaves. The registers hold the reset values that their
tables give, on every array, core, cluster and port; no context, launch, command or reply exists; stores, scratch and tallies are zero.
(That memory that nothing has written reads 0 is the model's, log 1; the stepping is the model's, log 7, and is not stated here.) -/
def Obligations.ResetLeavesTheSpecValues : Prop :=
  let s := State.reset
  (∀ a, let u := arr s a
    fld u.state 1 0 = 3 ∧ fld u.state 13 11 = 6 ∧ bit u.state 17 = false ∧ fld u.cfg 27 16 = 0xFFF ∧ fld u.cfg 5 3 = 5 ∧ fld u.cfg 7 6 = 0
    ∧ fld u.chkcfg 15 12 = 10 ∧ fld u.chkcfg 11 8 = 2 ∧ fld u.calp 23 19 = 20 ∧ fld u.calp 18 10 = 250 ∧ fld u.calp 9 4 = 16
    ∧ fld u.calp 3 0 = 8 ∧ fld u.wrcfg 2 0 = 1 ∧ u.spareMap = 0xFFFFFFFF#32 ∧ u.wrstat = 0#32 ∧ u.err = 0#32)
  ∧ (∀ k, let u := core s k
    fld u.engCfg 19 16 = 12 ∧ bit u.engCfg 0 = true ∧ u.power = 0#2 ∧ u.engErr = 0#32 ∧ u.vecErr = 0#32 ∧ u.fmtErr = 0#32 ∧ u.passq = []
    ∧ ∀ e, let x := entryOf s k e
      fld x.tcfg 23 20 = 10 ∧ fld x.tcfg 19 16 = 7 ∧ fld x.tcfg 11 9 = 1 ∧ fld x.tcfg 8 5 = 1 ∧ fld x.tcfg 1 0 = 0 ∧ fld x.tcfg 13 12 = 0
      ∧ fld x.tfix 25 16 = 0x3C2 ∧ fld x.tfix 7 0 = 127)
  ∧ (∀ c, let u := clus s c
    fld u.updStat 27 16 = 0xFFF ∧ fld u.updStat 2 0 = 0 ∧ u.updErr = 0#32 ∧ fld u.region 23 18 = 0x3F ∧ fld u.region 9 8 = 2
    ∧ fld u.region 7 6 = 2 ∧ bit u.region 1 = true ∧ bit u.region 0 = true ∧ bit u.region 16 = false)
  ∧ (∀ q, let u := port s q
    fld u.stat 29 12 = 0x3FFFF ∧ fld u.stat 1 0 = 0 ∧ u.queue = [])
  ∧ (∀ c, ctxU s c = CtxU.reset ∧ sealState (ctxU s c) = 0 ∧ (ctxU s c).live = false ∧ (ctxU s c).layers = [])
  ∧ fld s.wbCfg 20 16 = 16 ∧ fld s.wbCfg 9 0 = 512 ∧ s.pwr.powerLimit = 512
  ∧ fld s.fab.stallCfg 23 16 = 64 ∧ fld s.fab.stallCfg 13 12 = 1 ∧ fld s.fab.stallCfg 9 0 = 10 ∧ s.fab.err = 0#32 ∧ s.fab.redErr = 0#32
  ∧ timeValid s = false ∧ s.fab.caravans = [] ∧ s.fab.outst = []
  ∧ fld s.rel.cfg 31 30 = 0 ∧ fld s.rel.cfg 29 26 = 8 ∧ fld s.rel.cfg 25 22 = 2 ∧ fld s.rel.cfg 21 18 = 2 ∧ fld s.rel.cfg 15 0 = 1000
  ∧ fld s.rel.histCfg 23 16 = 4 ∧ fld s.rel.histCfg 15 8 = 8 ∧ fld s.rel.histCfg 7 0 = 3 ∧ s.rel.err = 0#32 ∧ twinState s = 0
  ∧ fld s.deviceId 31 16 = 0xD960 ∧ fld s.host.dpCtl 7 0 = 100 ∧ s.host.ready = false ∧ s.host.taken = [] ∧ s.host.running = []
  ∧ s.host.replied = [] ∧ s.host.irqCause = 0#32
  ∧ fld s.pwr.cfg 11 0 = 2400 ∧ fld s.pwr.therm 6 0 = 105 ∧ fld s.pwr.wdog 7 0 = 100 ∧ fld s.pwr.sbCtl 7 0 = 0xFF ∧ s.pwr.err = 0#32
  ∧ activePoint s = 0 ∧ ladder s = 0
  ∧ s.mon.owner = 0#3 ∧ s.mon.fit = 0#2 ∧ bit s.mon.traceCfg 31 = true ∧ fld s.mon.traceCfg 5 0 = 20
  ∧ bootPhase s = 0 ∧ s.rack = 0#64 ∧ s.launches = [] ∧ s.pending = [] ∧ s.out = []
  ∧ ∀ a, memByte s a = 0#8
end

