-- ==== Sys2Proof/Laws/Command.lean ====
section
/-! SUPPORT. How a whole command packet is taken and started: one lemma for a packet that passes the checks of Table 11-7, one for
a packet that fails them, and one for a packet that comes while READY is 0. -/

namespace Sys2Proof.Laws

open Sys2Proof.Machine Sys2Proof.Safety

/-- The checks read the contexts, the start-up phase, DEV_SHUTDOWN and the own device id alone. -/
theorem takeStatus_congr {s t : State} (p : Packet) (hc : s.ctxs = t.ctxs) (hb : s.sec.boot = t.sec.boot)
    (hd : s.host.shutdown = t.host.shutdown) (hf : s.fab.devid = t.fab.devid) :
    takeStatus p s = takeStatus p t := by
  have h1 : acceptsAll s = acceptsAll t := by simp only [acceptsAll, isReady, bootPhase, hb, hd]
  have h2 : paramsOk p s = paramsOk p t := by
    have (n : Nat) : residentIn s p n = residentIn t p n := by simp only [residentIn, layerRec, ctxU, hc]
    unfold paramsOk otherParamsOk
    simp only [this]
  have h3 : needsCtx p s = needsCtx p t := by
    have (g : W64) : otherDevice s g = otherDevice t g := by simp only [otherDevice, ownId, hf]
    have h : otherDevice s = otherDevice t := funext this
    unfold needsCtx
    rw [h]
  have h4 : ctxStatus p s = ctxStatus p t := by
    have h (c : BitVec 4) : ctxU s c = ctxU t c := by simp only [ctxU, hc]
    unfold ctxStatus isTerminated
    rw [h3, h]
  unfold takeStatus
  simp only [h1, h2, h4]

/-- What passes at take passes at start. -/
theorem startStatus_of_take {p : Packet} {s : State} (h : takeStatus p s = 0) : startStatus p s = 0 := by
  unfold takeStatus at h
  dsimp only at h
  split at h
  · cases h
  split at h
  · cases h
  unfold startStatus
  split at h
  · cases h
  · rename_i r hr
    simp only [hr]
    split at h
    · cases h
    split at h
    · cases h
    split
    · rename_i hc
      simp only [hc, if_true] at h
      exact h
    · rfl

/-- The state in which a packet is checked: its header is kept and the window reads zero. -/
def seen (op : Nat) (h : Hdr) (ws : List Word) (s : State) : State :=
  { s with
    host := { s.host with window := [], nextSeq := s.host.nextSeq + 1 }
    sec := { s.sec with headers := lastN 64 (s.sec.headers ++ [headerBytes op h (4 * ws.length)]) } }

theorem takePacket_eq (op : Nat) (h : Hdr) (ws : List Word) (s : State) :
    takePacket (headerBytes op h (4 * ws.length)) (packet op h ws) s
      = readyAfterTake (if takeStatus (pkt op h ws s) s = 0 then
          modHost (seen op h ws s) fun x => { x with taken := x.taken ++ [pkt op h ws s] }
        else finish (pkt op h ws s) (takeStatus (pkt op h ws s) s) [] (seen op h ws s)) := by
  have e : takeStatus (pkt op h ws s) (seen op h ws s) = takeStatus (pkt op h ws s) s :=
    takeStatus_congr (pkt op h ws s) rfl rfl rfl rfl
  rw [← e]
  rfl

/-- A packet that passes the eight checks and that nothing keeps waiting starts at once. -/
theorem submit_started {op : Nat} {h : Hdr} {ws : List Word} {s : State} (hc : clear h s = true)
    (ht : takeStatus (pkt op h ws s) s = 0) : submit op h ws s = performOp (pkt op h ws s) (accepted op h ws s) := by
  simp only [clear, Bool.and_eq_true, List.isEmpty_iff, Bool.or_eq_true, Bool.not_eq_true'] at hc
  obtain ⟨⟨hr, hk⟩, ho⟩ := hc
  have h1 : takePacket (headerBytes op h (4 * ws.length)) (packet op h ws) s
      = modHost (accepted op h ws s) fun x => { x with taken := [pkt op h ws s] } := by
    rw [takePacket_eq, if_pos ht]
    simp only [readyAfterTake, modHost, inflight, hk, accepted, pkt, seen, List.nil_append, List.length_cons, List.length_nil]
    simp only [show 0 + 1 + s.host.running.length + s.host.replied.length = 0 + s.host.running.length + s.host.replied.length + 1
      by omega]
  unfold submit
  simp only [hr, h1]
  have hm : mayStart (pkt op h ws s) (modHost (accepted op h ws s) fun x => { x with taken := [pkt op h ws s] }) = true := by
    simp only [mayStart, pkt, modHost, accepted]
    rcases ho with ho | ⟨h2, h3⟩
    · simp [ho]
    · simp [h2, h3]
  have hs : startStatus (pkt op h ws s) (modHost (modHost (accepted op h ws s) fun x => { x with taken := [pkt op h ws s] })
      fun x => { x with taken := [] }) = 0 :=
    startStatus_of_take ((takeStatus_congr (pkt op h ws s) rfl rfl rfl rfl).trans ht)
  have hb : (modHost (modHost (accepted op h ws s) fun x => { x with taken := [pkt op h ws s] })
      fun x => { x with taken := [] }) = accepted op h ws s := by simp only [modHost, accepted, hk]
  rw [hb] at hs
  have : startOldest (modHost (accepted op h ws s) fun x => { x with taken := [pkt op h ws s] })
      = if mayStart (pkt op h ws s) (modHost (accepted op h ws s) fun x => { x with taken := [pkt op h ws s] }) then
          perform (pkt op h ws s) (modHost (modHost (accepted op h ws s) fun x => { x with taken := [pkt op h ws s] })
            fun x => { x with taken := [] }) else (modHost (accepted op h ws s) fun x => { x with taken := [pkt op h ws s] }) := rfl
  simp only [Bool.not_true, Bool.false_eq_true, if_false]
  rw [this, hm, hb]
  simp only [if_true, perform, hs]

/-- A packet that fails a check is answered with that check's status, and nothing else happens (R310). -/
theorem submit_refused {op : Nat} {h : Hdr} {ws : List Word} {s : State} (hr : s.host.ready = true)
    (hk : s.host.taken = []) (ht : takeStatus (pkt op h ws s) s ≠ 0) :
    submit op h ws s = answered (pkt op h ws s) (takeStatus (pkt op h ws s) s) [] (accepted op h ws s) := by
  have h1 : takePacket (headerBytes op h (4 * ws.length)) (packet op h ws) s
      = answered (pkt op h ws s) (takeStatus (pkt op h ws s) s) [] (accepted op h ws s) := by
    rw [takePacket_eq, if_neg ht]
    simp only [readyAfterTake, modHost, inflight, hk, accepted, pkt, seen, finish, answered, List.length_nil,
      List.length_append, List.length_cons, Bool.false_eq_true, if_false]
    simp only [show 0 + s.host.running.length + (s.host.replied.length + (0 + 1))
      = 0 + s.host.running.length + s.host.replied.length + 1 by omega]
  unfold submit
  have h2 : startOldest (answered (pkt op h ws s) (takeStatus (pkt op h ws s) s) [] (accepted op h ws s))
      = answered (pkt op h ws s) (takeStatus (pkt op h ws s) s) [] (accepted op h ws s) := by
    unfold startOldest
    have : (answered (pkt op h ws s) (takeStatus (pkt op h ws s) s) [] (accepted op h ws s)).host.taken = [] := by
      simp only [answered, accepted, hk]
    rw [this]
  simp only [hr, h1, h2, Bool.not_true, Bool.false_eq_true, if_false]

theorem submit_discarded {op : Nat} {h : Hdr} {ws : List Word} {s : State} (hr : s.host.ready = false) :
    submit op h ws s = hstErr 1 s := by
  unfold submit
  simp only [hr, Bool.not_false, if_true]

theorem finish_eq {p : Packet} (hm : p.muted = false) (st : Nat) (res : List Word) (s : State) :
    finish p st res s = answered p st res s := by
  unfold finish
  simp only [hm, Bool.false_eq_true, if_false, modHost, answered]

theorem addRun_eq (p : Packet) (t : Task) (s : State) : addRun p t s = working p t s := rfl

/-- A row of Table 11-9 submits its packet. -/
theorem exec_commandOf {c : Instr} {op : Nat} {h : Hdr} {ws : List Word} (hc : commandOf c = some (op, h, ws)) (s : State) :
    exec c s = .next (submit op h ws s) := by
  unfold commandOf at hc
  split at hc <;> first | (cases hc; rfl) | cases hc

/-- A legal command does what its opcode does. -/
theorem exec_legal {c : Instr} {s : State} (h : legal c s = true) :
    exec c s = .next (performOp (pktOf c s) (took c s)) := by
  unfold legal at h
  split at h
  · rename_i op hd ws hc
    simp only [Bool.and_eq_true, beq_iff_eq] at h
    rw [exec_commandOf hc, submit_started h.1 h.2]
    simp only [pktOf, took, hc]
  · cases h

end Sys2Proof.Laws
end

