-- ==== Sys2Proof/Laws/Memory.lean ====
section
/-! SUPPORT. Tables and memory: what a lookup answers after an update, and that every memory operation keeps the canonical
form. -/

namespace Sys2Proof.Laws

open Sys2Proof.Machine

variable {α : Type} [DecidableEq α]

/-- Every key of a table lies above k. -/
def tabAbove (k : Nat) (t : Tab α) : Prop := ∀ e ∈ t, k < e.1

theorem tabWf_cons (d : α) (j : Nat) (v : α) (t : Tab α) :
    tabWf d ((j, v) :: t) = true ↔ v ≠ d ∧ tabAbove j t ∧ tabWf d t = true := by
  induction t generalizing j v with
  | nil => simp [tabWf, tabAbove]
  | cons h t ih =>
    obtain ⟨k, w⟩ := h
    simp only [tabWf, Bool.and_eq_true, bne_iff_ne, decide_eq_true_eq, tabAbove, List.mem_cons, forall_eq_or_imp]
    constructor
    · rintro ⟨⟨hv, hk⟩, hw⟩
      exact ⟨hv, ⟨hk, fun e he => lt_trans hk (((ih k w).1 hw).2.1 e he)⟩, hw⟩
    · rintro ⟨hv, ⟨hk, _⟩, hw⟩
      exact ⟨⟨hv, hk⟩, hw⟩

omit [DecidableEq α] in
theorem tget_above (d : α) (k : Nat) (t : Tab α) (h : ∀ e ∈ t, e.1 ≠ k) : tget d t k = d := by
  induction t with
  | nil => rfl
  | cons e t ih =>
    simp only [List.mem_cons, forall_eq_or_imp] at h
    simp [tget, h.1, ih h.2]

theorem tabWf_filter (d : α) (t : Tab α) (p : Nat × α → Bool) (h : tabWf d t = true) : tabWf d (t.filter p) = true := by
  induction t with
  | nil => rfl
  | cons e t ih =>
    obtain ⟨i, w⟩ := e
    obtain ⟨hw, ha, ht⟩ := (tabWf_cons d i w t).1 h
    simp only [List.filter_cons]
    split
    · exact (tabWf_cons d i w _).2 ⟨hw, fun e he => ha e (List.mem_of_mem_filter he), ih ht⟩
    · exact ih ht

/-! ## Memory -/

theorem tget_filter (d : α) (t : Tab α) (k : Nat) (p : Nat × α → Bool) (h : ∀ v, p (k, v) = true) :
    tget d (t.filter p) k = tget d t k := by
  induction t with
  | nil => rfl
  | cons e t ih =>
    obtain ⟨i, w⟩ := e
    by_cases hi : i = k
    · subst hi
      simp [List.filter_cons, h, tget]
    · by_cases hp : p (i, w) = true <;> simp [List.filter_cons, hp, tget, hi, ih]

theorem tget_tput_same (d : α) (t : Tab α) (k : Nat) (v : α) (h : ∀ e ∈ t, e.1 ≠ k) : tget d (tput t k v) k = v := by
  induction t with
  | nil => simp [tput, tget]
  | cons e t ih =>
    obtain ⟨i, w⟩ := e
    simp only [List.mem_cons, forall_eq_or_imp] at h
    simp only [tput]
    split
    · simp [tget]
    · simp [tget, h.1, ih h.2]

theorem tget_tput_ne (d : α) (t : Tab α) (k j : Nat) (v : α) (h : j ≠ k) : tget d (tput t k v) j = tget d t j := by
  induction t with
  | nil => simp [tput, tget, Ne.symm h]
  | cons e t ih =>
    obtain ⟨i, w⟩ := e
    simp only [tput]
    split
    · simp [tget, Ne.symm h]
    · simp [tget, ih]

theorem tget_tset_ne (d : α) (t : Tab α) (k j : Nat) (v : α) (h : j ≠ k) : tget d (tset d t k v) j = tget d t j := by
  have hf : tget d (t.filter fun e => e.1 != k) j = tget d t j := tget_filter d t j _ fun v => by simp [h]
  simp only [tset]
  split
  · exact hf
  · rw [tget_tput_ne d _ k j v h, hf]

theorem tget_tset_same (d : α) (t : Tab α) (k : Nat) (v : α) : tget d (tset d t k v) k = v := by
  have hn : ∀ e ∈ t.filter (fun e => e.1 != k), e.1 ≠ k := fun e he => by
    have := (List.mem_filter.1 he).2
    simpa using this
  simp only [tset]
  split
  · rename_i hv
    rw [hv, tget_above d k _ hn]
  · exact tget_tput_same d _ k v hn

theorem tput_mem (t : Tab α) (k : Nat) (v : α) (e : Nat × α) (h : e ∈ tput t k v) : e = (k, v) ∨ e ∈ t := by
  induction t with
  | nil => simpa [tput] using h
  | cons x t ih =>
    obtain ⟨i, w⟩ := x
    simp only [tput] at h
    split at h
    · simpa using h
    · simp only [List.mem_cons] at h ⊢
      rcases h with h | h
      · exact .inr (.inl h)
      · rcases ih h with h | h
        · exact .inl h
        · exact .inr (.inr h)

theorem tabWf_tput (d : α) (t : Tab α) (k : Nat) (v : α) (h : tabWf d t = true) (hk : ∀ e ∈ t, e.1 ≠ k) (hv : v ≠ d) :
    tabWf d (tput t k v) = true := by
  induction t with
  | nil => simp [tput, tabWf, hv]
  | cons e t ih =>
    obtain ⟨i, w⟩ := e
    obtain ⟨hw, ha, ht⟩ := (tabWf_cons d i w t).1 h
    simp only [List.mem_cons, forall_eq_or_imp] at hk
    simp only [tput]
    split
    · rename_i hlt
      refine (tabWf_cons d k v _).2 ⟨hv, ?_, h⟩
      simp only [tabAbove, List.mem_cons, forall_eq_or_imp]
      exact ⟨hlt, fun e he => lt_trans hlt (ha e he)⟩
    · rename_i hlt
      refine (tabWf_cons d i w _).2 ⟨hw, ?_, ih ht hk.2⟩
      intro e he
      rcases tput_mem t k v e he with rfl | he
      · have := hk.1
        omega
      · exact ha e he

theorem tabWf_tset (d : α) (t : Tab α) (k : Nat) (v : α) (h : tabWf d t = true) : tabWf d (tset d t k v) = true := by
  have hf := tabWf_filter d t (fun e => e.1 != k) h
  simp only [tset]
  split
  · exact hf
  · rename_i hv
    refine tabWf_tput d _ k v hf (fun e he => ?_) hv
    have := (List.mem_filter.1 he).2
    simpa using this

theorem tabWf_tmod (d : α) (t : Tab α) (k : Nat) (f : α → α) (h : tabWf d t = true) : tabWf d (tmod d t k f) = true :=
  tabWf_tset d t k _ h

@[simp] theorem tget_tmod_same (d : α) (t : Tab α) (k : Nat) (f : α → α) :
    tget d (tmod d t k f) k = f (tget d t k) := tget_tset_same d t k _

theorem tget_tmod_ne (d : α) (t : Tab α) (k j : Nat) (f : α → α) (h : j ≠ k) : tget d (tmod d t k f) j = tget d t j :=
  tget_tset_ne d t k j _ h

theorem tabWf_iff (d : α) (t : Tab α) :
    tabWf d t = true ↔ t.Pairwise (fun x y => x.1 < y.1) ∧ ∀ e ∈ t, e.2 ≠ d := by
  induction t with
  | nil => simp [tabWf]
  | cons e t ih =>
    obtain ⟨j, v⟩ := e
    rw [tabWf_cons, ih, List.pairwise_cons]
    simp only [tabAbove, List.mem_cons, forall_eq_or_imp]
    tauto

omit [DecidableEq α] in
theorem tget_append (d : α) (t u : Tab α) (k : Nat) (h : ∀ e ∈ t, e.1 ≠ k) : tget d (t ++ u) k = tget d u k := by
  induction t with
  | nil => rfl
  | cons e t ih =>
    simp only [List.mem_cons, forall_eq_or_imp] at h
    simp [tget, h.1, ih h.2]

omit [DecidableEq α] in
theorem tget_append_none (d : α) (t u : Tab α) (k : Nat) (h : ∀ e ∈ u, e.1 ≠ k) : tget d (t ++ u) k = tget d t k := by
  induction t with
  | nil => exact tget_above d k u h
  | cons e t ih => simp [tget, ih]

omit [DecidableEq α] in
theorem memCells_range (bytes : List Byte) : ∀ a, ∀ e ∈ memCells a bytes, a ≤ e.1 ∧ e.1 < a + bytes.length := by
  induction bytes with
  | nil => intro a e h; simp [memCells] at h
  | cons b r ih =>
    intro a e h
    simp only [memCells] at h
    have step (h : e ∈ memCells (a + 1) r) : a ≤ e.1 ∧ e.1 < a + (b :: r).length := by
      have := ih (a + 1) e h
      simp only [List.length_cons]
      omega
    split at h
    · exact step h
    · rcases List.mem_cons.1 h with rfl | h
      · simp
      · exact step h

theorem memCells_wf (bytes : List Byte) : ∀ a, tabWf 0#8 (memCells a bytes) = true := by
  induction bytes with
  | nil => intro a; rfl
  | cons b r ih =>
    intro a
    simp only [memCells]
    split
    · exact ih (a + 1)
    · rename_i hb
      exact (tabWf_cons 0#8 a b _).2 ⟨hb, fun e he => (memCells_range r (a + 1) e he).1, ih (a + 1)⟩

theorem memCells_get (bytes : List Byte) : ∀ a i, i < bytes.length → tget 0#8 (memCells a bytes) (a + i) = bytes.getD i 0#8 := by
  induction bytes with
  | nil => intro a i h; simp at h
  | cons b r ih =>
    intro a i h
    rcases i with _ | i
    · simp only [memCells, Nat.add_zero, List.getD_cons_zero]
      split
      · rename_i hb
        rw [tget_above 0#8 a _ fun e he => by have := memCells_range r (a + 1) e he; omega, hb]
      · simp [tget]
    · have := ih (a + 1) i (by simpa using h)
      rw [show a + 1 + i = a + (i + 1) by omega] at this
      simp only [memCells, List.getD_cons_succ]
      split
      · exact this
      · simp [tget, this]

/-- A write keeps the canonical form. -/
theorem memPut_wf (bytes : List Byte) (m : List Host.Cell) (a : Nat) (h : Memory.wf m = true) :
    Memory.wf (memPut m a bytes) = true := by
  obtain ⟨hs, hd⟩ := (tabWf_iff 0#8 m).1 h
  obtain ⟨cs, cd⟩ := (tabWf_iff 0#8 _).1 (memCells_wf bytes a)
  refine (tabWf_iff 0#8 _).2 ⟨?_, ?_⟩
  · refine List.pairwise_append.2 ⟨List.pairwise_append.2 ⟨hs.filter _, cs, ?_⟩, hs.filter _, ?_⟩
    · intro x hx y hy
      have h1 := (List.mem_filter.1 hx).2
      have h2 := memCells_range bytes a y hy
      simp only [decide_eq_true_eq] at h1
      omega
    · intro x hx y hy
      have h2 := (List.mem_filter.1 hy).2
      simp only [decide_eq_true_eq] at h2
      rcases List.mem_append.1 hx with hx | hx
      · have h1 := (List.mem_filter.1 hx).2
        simp only [decide_eq_true_eq] at h1
        omega
      · have h1 := memCells_range bytes a x hx
        omega
  · intro e he
    rcases List.mem_append.1 he with he | he
    · rcases List.mem_append.1 he with he | he
      · exact hd e (List.mem_of_mem_filter he)
      · exact cd e he
    · exact hd e (List.mem_of_mem_filter he)

/-- A byte outside the ones written reads as before. -/
theorem memPut_out (bytes : List Byte) (m : List Host.Cell) (a x : Nat) (h : x < a ∨ a + bytes.length ≤ x) :
    tget 0#8 (memPut m a bytes) x = tget 0#8 m x := by
  unfold memPut
  have hc : ∀ e ∈ memCells a bytes, e.1 ≠ x := fun e he => by have := memCells_range bytes a e he; omega
  rcases h with h | h
  · rw [List.append_assoc, tget_append_none]
    · exact tget_filter 0#8 m x _ fun v => by simp [h]
    · intro e he
      rcases List.mem_append.1 he with he | he
      · exact hc e he
      · have := (List.mem_filter.1 he).2
        simp only [decide_eq_true_eq] at this
        omega
  · rw [tget_append]
    · exact tget_filter 0#8 m x _ fun v => by simp [h]
    · intro e he
      rcases List.mem_append.1 he with he | he
      · have := (List.mem_filter.1 he).2
        simp only [decide_eq_true_eq] at this
        omega
      · exact hc e he

/-- A byte written reads as written. -/
theorem memPut_in (bytes : List Byte) (m : List Host.Cell) (a i : Nat) (h : i < bytes.length) :
    tget 0#8 (memPut m a bytes) (a + i) = bytes.getD i 0#8 := by
  unfold memPut
  rw [tget_append_none, tget_append]
  · exact memCells_get bytes a i h
  · intro e he
    have := (List.mem_filter.1 he).2
    simp only [decide_eq_true_eq] at this
    omega
  · intro e he
    have := (List.mem_filter.1 he).2
    simp only [decide_eq_true_eq] at this
    omega

theorem setPoison_mem (s : State) (g : Nat) : (setPoison s g).mem = s.mem := rfl

theorem clearPoison_mem (s : State) (g : Nat) : (clearPoison s g).mem = s.mem := rfl

/-- A fold of steps that each leave memory leaves memory. -/
theorem foldl_mem {β : Type} (f : State → β → State) (hf : ∀ s b, (f s b).mem = s.mem) (l : List β) :
    ∀ s, (l.foldl f s).mem = s.mem := by
  induction l with
  | nil => intro s; rfl
  | cons b l ih => intro s; rw [List.foldl_cons, ih, hf]

/-- A fold of steps that each keep a property keeps it. -/
theorem foldl_keeps {β : Type} (P : State → Prop) (f : State → β → State) (hf : ∀ s b, P s → P (f s b)) (l : List β) :
    ∀ s, P s → P (l.foldl f s) := by
  induction l with
  | nil => intro s h; exact h
  | cons b l ih => intro s h; exact ih _ (hf s b h)

theorem poisonStore_mem (s : State) (a n : Nat) (p : Bool) : (poisonStore s a n p).mem = s.mem := by
  refine foldl_mem _ (fun s g => ?_) _ s
  split
  · rfl
  · split <;> rfl

theorem trimByte_mem (s : State) (x p : Nat) (hi : Bool) (b : Byte) : (trimByte s x p hi b).mem = s.mem := by
  unfold trimByte
  split <;> rfl

theorem windowStore_mem (x : Nat) : ∀ (bytes : List Byte) (s : State) (off : Nat), (windowStore s x off bytes).mem = s.mem := by
  intro bytes
  induction bytes with
  | nil => intro s off; rfl
  | cons b r ih =>
    intro s off
    rw [windowStore, ih]
    split <;> first | exact trimByte_mem .. | rfl

/-! ## Stores (R273) -/

theorem planeIndex_lt (p : Plane) (x : Nat) (h : x < p.bytes) : p.indexOf x < p.rows * p.perRow := by
  have hb : 0 < p.rowBytes := by
    rcases Nat.eq_zero_or_pos p.rowBytes with h0 | h0
    · simp [Plane.bytes, h0] at h
    · exact h0
  have hr : x / p.rowBytes + 1 ≤ p.rows := (Nat.div_lt_iff_lt_mul hb).2 h
  have hm : x % p.rowBytes < p.rowBytes := Nat.mod_lt _ hb
  have hc : x % p.rowBytes / max 1 p.group < p.perRow := by
    have hg : 0 < max 1 p.group := by omega
    refine (Nat.div_lt_iff_lt_mul hg).2 ?_
    have := Nat.lt_div_mul_add (a := p.rowBytes + max 1 p.group - 1) hg
    simp only [Plane.perRow]
    omega
  have := Nat.mul_le_mul_right p.perRow hr
  simp only [Plane.indexOf, show max 1 p.rowBytes = p.rowBytes by omega]
  rw [Nat.add_mul] at this
  omega

/-- The entry of a group that a range meets lies in its plane. -/
theorem planeMeets_entry (p : Plane) (a n : Nat) (g : Group) (h : g ∈ p.meets a n) :
    p.plane ≤ g.entry ∧ g.entry + 8 ≤ p.plane + 8 * (p.rows * p.perRow) := by
  unfold Plane.meets at h
  dsimp only at h
  split at h
  · simp at h
  · rename_i hlo
    obtain ⟨j, hj, rfl⟩ := List.mem_map.1 h
    have hj := List.mem_range.1 hj
    have := planeIndex_lt p (min (a + n) (p.data + p.bytes) - p.data - 1) (by omega)
    simp only [Plane.groupAt]
    omega

theorem entryAfter_length (s : State) (g : Group) (a : Nat) (bytes : List Byte) (flags : Byte) :
    (entryAfter s g a bytes flags).length = 8 := by
  unfold entryAfter
  dsimp only
  split <;> simp [bytesOfWord, leBytes, memGet]

theorem sealStore_wf (s : State) (a : Nat) (bytes : List Byte) (flags : Byte) (h : Memory.wf s.mem = true) :
    Memory.wf (sealStore s a bytes flags) = true := by
  unfold sealStore
  generalize groupsMet s a bytes.length = gs
  suffices ∀ m : List Host.Cell, Memory.wf m = true →
      Memory.wf (gs.foldl (fun m g => memPut m g.entry (entryAfter s g a bytes flags)) m) = true from this _ h
  induction gs with
  | nil => exact fun m h => h
  | cons g gs ih => exact fun m h => ih _ (memPut_wf _ _ _ h)

/-- The update of the check plane entries changes no byte but those of entries. -/
theorem sealStore_out (s : State) (a : Nat) (bytes : List Byte) (flags : Byte) (x : Nat) (h : ¬ entryByte s x) :
    tget 0#8 (sealStore s a bytes flags) x = memByte s x := by
  unfold sealStore
  have hm : ∀ g ∈ groupsMet s a bytes.length, x < g.entry ∨ g.entry + 8 ≤ x := by
    intro g hg
    obtain ⟨hg, -⟩ := List.mem_filter.1 hg
    obtain ⟨p, hp, hg⟩ := List.mem_flatMap.1 hg
    have := planeMeets_entry p _ _ _ hg
    by_contra hx
    exact h ⟨p, hp, by omega, by omega⟩
  generalize groupsMet s a bytes.length = gs at hm ⊢
  suffices ∀ m : List Host.Cell, tget 0#8 m x = memByte s x →
      tget 0#8 (gs.foldl (fun m g => memPut m g.entry (entryAfter s g a bytes flags)) m) x = memByte s x from this _ rfl
  induction gs with
  | nil => exact fun m h => h
  | cons g gs ih =>
    intro m h
    refine ih (fun k hk => hm k (List.mem_cons_of_mem _ hk)) _ ?_
    rw [memPut_out _ _ _ _ (by rw [entryAfter_length]; exact hm g List.mem_cons_self), h]

theorem keptBytes_length (a : Nat) (bytes : List Byte) : (keptBytes a bytes).length = bytes.length := by
  unfold keptBytes
  split <;> simp

/-- A local write keeps the canonical form of memory. -/
theorem markedWrite_wf (s : State) (fabric : Bool) (a : Nat) (bytes : List Byte) (p : Bool) (marks : Marks)
    (h : Memory.wf s.mem = true) : Memory.wf (markedWrite s fabric a bytes p marks).2.mem = true := by
  unfold markedWrite
  split
  · exact h
  · split
    · exact h
    · split
      · rw [windowStore_mem]; exact h
      · rw [poisonStore_mem]; exact memPut_wf _ _ _ (sealStore_wf _ _ _ _ h)

theorem localWrite_wf (s : State) (fabric : Bool) (a : Nat) (bytes : List Byte) (p : Bool) (h : Memory.wf s.mem = true) :
    Memory.wf (localWrite s fabric a bytes p).2.mem = true := markedWrite_wf s fabric a bytes p {} h

/-- A local write changes no byte outside the ones it stores and the check plane entries that follow them. -/
theorem markedWrite_out (s : State) (fabric : Bool) (a : Nat) (bytes : List Byte) (p : Bool) (marks : Marks) (x : Nat)
    (h : x < a ∨ a + bytes.length ≤ x) (he : ¬ entryByte s x) :
    memByte (markedWrite s fabric a bytes p marks).2 x = memByte s x := by
  unfold markedWrite
  split
  · rfl
  · split
    · rfl
    · split
      · unfold memByte; rw [windowStore_mem]
      · conv_lhs => unfold memByte
        rw [poisonStore_mem]
        dsimp only
        rw [memPut_out _ _ _ _ (by rw [keptBytes_length]; exact h), sealStore_out _ _ _ _ _ he]

theorem localWrite_out (s : State) (fabric : Bool) (a : Nat) (bytes : List Byte) (p : Bool) (x : Nat)
    (h : x < a ∨ a + bytes.length ≤ x) (he : ¬ entryByte s x) :
    memByte (localWrite s fabric a bytes p).2 x = memByte s x := markedWrite_out s fabric a bytes p {} x h he

end Sys2Proof.Laws
end

