-- ==== Sys2Proof/Laws/Frame.lean ====
section
/-! SUPPORT. What no operation of the module does, one lemma for each: it leaves the queue of commands alone, keeps memory in
its canonical form and keeps the hard-wired bits of the device id. -/

namespace Sys2Proof.Laws

open Sys2Proof.Machine

/-- The hard-wired fields of HST_DEVICE_ID: the part code and the stepping (R4, Table 11-14). -/
def idOk (s : State) : Prop := fld s.deviceId 31 16 = 0xD960 ∧ fld s.deviceId 3 0 = 2

/-- From s to t the queue stands, and memory and device id stay well-formed. -/
structure Keeps (s t : State) : Prop where
  queue : t.pending = s.pending
  mem   : Memory.wf s.mem = true → Memory.wf t.mem = true
  ident : idOk s → idOk t

theorem Keeps.refl (s : State) : Keeps s s := ⟨rfl, fun h => h, fun h => h⟩

theorem Keeps.upd {s t : State} (h : Keeps s t) {host topology avail wbCfg wbStat arrays cores clusters ports ctxs launches
    poison planes stacksIn fab rel pwr sec mon rack watchPhase nextUid commits dueSeq free out} :
    Keeps s ⟨t.pending, host, t.deviceId, topology, avail, wbCfg, wbStat, arrays, cores, clusters, ports, ctxs, launches,
      t.mem, poison, planes, stacksIn, fab, rel, pwr, sec, mon, rack, watchPhase, nextUid, commits, dueSeq, free, out⟩ :=
  ⟨h.queue, h.mem, h.ident⟩

theorem Keeps.setMem {s t : State} (h : Keeps s t) {m : List Host.Cell}
    (hm : Memory.wf t.mem = true → Memory.wf m = true) : Keeps s { t with mem := m } :=
  ⟨h.queue, fun w => hm (h.mem w), h.ident⟩

theorem Keeps.ite {s a b : State} {c : Prop} [Decidable c] (ha : Keeps s a) (hb : Keeps s b) :
    Keeps s (if c then a else b) := by
  split <;> assumption

theorem Keeps.cut {s : State} {P : Prop} (x : State) (h : Keeps s x) (k : Keeps s x → P) : P := k h

theorem Keeps.foldl {α : Type} {s0 s : State} {f : State → α → State} {l : List α} (h : Keeps s0 s)
    (hf : ∀ s x, Keeps s0 s → Keeps s0 (f s x)) : Keeps s0 (l.foldl f s) := by
  induction l generalizing s with
  | nil => exact h
  | cons a l ih => exact ih (hf _ _ h)

theorem Keeps.foldlOn {α β : Type} {s0 : State} (p : β → State) {f : β → α → β} {l : List α} {b : β}
    (h : Keeps s0 (p b)) (hf : ∀ b x, Keeps s0 (p b) → Keeps s0 (p (f b x))) : Keeps s0 (p (l.foldl f b)) := by
  induction l generalizing b with
  | nil => exact h
  | cons a l ih => exact ih (hf _ _ h)

variable {s0 s : State}

theorem modArr_keeps {a f} (h : Keeps s0 s) : Keeps s0 (modArr s a f) := h.upd

theorem modCore_keeps {a f} (h : Keeps s0 s) : Keeps s0 (modCore s a f) := h.upd

theorem modClus_keeps {a f} (h : Keeps s0 s) : Keeps s0 (modClus s a f) := h.upd

theorem modPort_keeps {a f} (h : Keeps s0 s) : Keeps s0 (modPort s a f) := h.upd

theorem modCtx_keeps {c f} (h : Keeps s0 s) : Keeps s0 (modCtx s c f) := h.upd

theorem modSeal_keeps {c f} (h : Keeps s0 s) : Keeps s0 (modSeal s c f) := h.upd

theorem modHost_keeps {f} (h : Keeps s0 s) : Keeps s0 (modHost s f) := h.upd

theorem modFab_keeps {f} (h : Keeps s0 s) : Keeps s0 (modFab s f) := h.upd

theorem modRel_keeps {f} (h : Keeps s0 s) : Keeps s0 (modRel s f) := h.upd

theorem modPwr_keeps {f} (h : Keeps s0 s) : Keeps s0 (modPwr s f) := h.upd

theorem modSec_keeps {f} (h : Keeps s0 s) : Keeps s0 (modSec s f) := h.upd

theorem modMon_keeps {f} (h : Keeps s0 s) : Keeps s0 (modMon s f) := h.upd

theorem noteIssue_keeps {k : Nat} {uid : Nat} (hk : Keeps s0 s) :
    Keeps s0 (noteIssue k uid s) := by
  unfold noteIssue
  repeat' first
    | with_reducible assumption
    | with_reducible apply modClus_keeps

theorem drawFree_keeps (h : Keeps s0 s) : Keeps s0 (drawFree s).2 := h.upd

theorem drawBytes_keeps {n : Nat} (h : Keeps s0 s) : Keeps s0 (drawBytes n s).2 := h.upd

theorem raise_keeps {v : Nat} (hk : Keeps s0 s) :
    Keeps s0 (raise v s) := by
  unfold raise
  repeat' first
    | with_reducible assumption
    | ((try lift_lets);  intro x; apply Keeps.cut (s := s0) x <;> [subst x; (intro hx; clear_value x)])
    | with_reducible apply modHost_keeps
    | with_reducible apply Keeps.ite
    | with_reducible apply Keeps.upd

theorem hstErr_keeps {i : Nat} (hk : Keeps s0 s) :
    Keeps s0 (hstErr i s) := by
  unfold hstErr
  repeat' first
    | with_reducible assumption
    | with_reducible apply modHost_keeps

theorem relErr_keeps {i : Nat} (hk : Keeps s0 s) :
    Keeps s0 (relErr i s) := by
  unfold relErr
  repeat' first
    | with_reducible assumption
    | ((try lift_lets);  intro x; apply Keeps.cut (s := s0) x <;> [subst x; (intro hx; clear_value x)])
    | with_reducible apply modRel_keeps
    | with_reducible apply raise_keeps
    | with_reducible apply Keeps.ite

theorem pwrErr_keeps {i : Nat} {irq : Bool} (hk : Keeps s0 s) :
    Keeps s0 (pwrErr i irq s) := by
  unfold pwrErr
  repeat' first
    | with_reducible assumption
    | ((try lift_lets);  intro x; apply Keeps.cut (s := s0) x <;> [subst x; (intro hx; clear_value x)])
    | with_reducible apply modPwr_keeps
    | with_reducible apply raise_keeps
    | with_reducible apply Keeps.ite

theorem logRefresh_keeps (hk : Keeps s0 s) :
    Keeps s0 (logRefresh s) := by
  unfold logRefresh
  repeat' first
    | with_reducible assumption
    | with_reducible apply modSec_keeps

theorem logAddFor_keeps {unit : Nat} {kind : Byte} {payload : List Byte} (hk : Keeps s0 s) :
    Keeps s0 (logAddFor unit kind payload s) := by
  unfold logAddFor
  repeat' first
    | with_reducible assumption
    | ((try lift_lets); intro x; clear_value x)
    | with_reducible apply modSec_keeps
    | with_reducible apply raise_keeps
    | with_reducible apply logRefresh_keeps
    | with_reducible apply Keeps.ite

theorem logAdd_keeps {kind : Byte} {payload : List Byte} (hk : Keeps s0 s) :
    Keeps s0 (logAdd kind payload s) := by
  unfold logAdd
  repeat' first
    | with_reducible assumption
    | with_reducible apply logAddFor_keeps

theorem watchEvent_keeps {b : Nat} (hk : Keeps s0 s) :
    Keeps s0 (watchEvent b s) := by
  unfold watchEvent
  repeat' first
    | with_reducible assumption
    | ((try lift_lets);  intro x; apply Keeps.cut (s := s0) x <;> [subst x; (intro hx; clear_value x)])
    | with_reducible apply modPwr_keeps
    | with_reducible apply logAdd_keeps

theorem sidebandEvent_keeps {b : BitVec 3} (hk : Keeps s0 s) :
    Keeps s0 (sidebandEvent b s) := by
  unfold sidebandEvent
  repeat' first
    | with_reducible assumption
    | with_reducible apply modPwr_keeps

theorem blackbox_keeps {cause : Nat} (hk : Keeps s0 s) :
    Keeps s0 (blackbox cause s) := by
  unfold blackbox
  repeat' first
    | with_reducible assumption
    | ((try lift_lets);  intro x; apply Keeps.cut (s := s0) x <;> [subst x; (intro hx; clear_value x)])
    | ((try lift_lets); intro x; clear_value x)
    | with_reducible apply modSec_keeps
    | with_reducible apply logRefresh_keeps
    | with_reducible apply sidebandEvent_keeps
    | with_reducible apply Keeps.ite

theorem setPoison_keeps {g : Nat} (hk : Keeps s0 s) :
    Keeps s0 (setPoison s g) := by
  unfold setPoison
  repeat' first
    | with_reducible assumption
    | with_reducible apply Keeps.ite
    | with_reducible apply Keeps.upd

theorem clearPoison_keeps {g : Nat} (hk : Keeps s0 s) :
    Keeps s0 (clearPoison s g) := by
  unfold clearPoison
  repeat' first
    | with_reducible assumption
    | with_reducible apply Keeps.ite
    | with_reducible apply Keeps.upd

theorem noteRead_keeps {r : Rd} (hk : Keeps s0 s) :
    Keeps s0 (noteRead r s) := by
  unfold noteRead
  repeat' first
    | with_reducible assumption
    | with_reducible apply relErr_keeps
    | with_reducible apply Keeps.ite

theorem poisonStore_keeps {a : Nat} {n : Nat} {poison : Bool} (h : Keeps s0 s) : Keeps s0 (poisonStore s a n poison) := by
  unfold poisonStore
  refine Keeps.foldl h ?_
  intro x y hx
  exact Keeps.ite (setPoison_keeps hx) (Keeps.ite (clearPoison_keeps hx) hx)

theorem trimByte_keeps {x : Nat} {p : Nat} {high : Bool} {b : Byte} (hk : Keeps s0 s) :
    Keeps s0 (trimByte s x p high b) := by
  unfold trimByte
  repeat' first
    | with_reducible assumption
    | with_reducible apply modArr_keeps
    | with_reducible apply Keeps.ite

theorem windowStore_keeps {x : Nat} (bytes : List Byte) : ∀ (s : State) (off : Nat), Keeps s0 s → Keeps s0 (windowStore s x off bytes) := by
  induction bytes with
  | nil => exact fun s off h => h
  | cons b r ih =>
    intro s off h
    unfold windowStore
    exact ih _ _ (Keeps.ite (trimByte_keeps h) h)

theorem markedWrite_keeps {fabric : Bool} {a : Nat} {bytes : List Byte} {poison : Bool} {marks : Marks}
    (h : Keeps s0 s) : Keeps s0 (markedWrite s fabric a bytes poison marks).2 := by
  unfold markedWrite
  split
  · exact h
  split
  · exact h
  split
  · exact windowStore_keeps _ _ _ h
  · exact poisonStore_keeps (h.setMem fun w => memPut_wf _ _ _ (sealStore_wf _ _ _ _ w))

theorem localWrite_keeps {fabric : Bool} {a : Nat} {bytes : List Byte} {poison : Bool} (h : Keeps s0 s) :
    Keeps s0 (localWrite s fabric a bytes poison).2 := markedWrite_keeps h

theorem storeMarked_keeps {a : Nat} {bytes : List Byte} {poison : Bool} {marks : Marks} (h : Keeps s0 s) :
    Keeps s0 (storeMarked s a bytes poison marks) := markedWrite_keeps h

theorem storeBytes_keeps {a : Nat} {bytes : List Byte} {poison : Bool} (hk : Keeps s0 s) :
    Keeps s0 (storeBytes s a bytes poison) := localWrite_keeps hk

theorem writeWord_keeps {a : Nat} {w : Word} (hk : Keeps s0 s) :
    Keeps s0 (writeWord s a w) := by
  unfold writeWord
  repeat' first
    | with_reducible assumption
    | with_reducible apply storeBytes_keeps

theorem carryMarks_keeps {src dst n : Nat} (h : Keeps s0 s) : Keeps s0 (carryMarks src dst n s) := by
  unfold carryMarks
  refine h.setMem fun w => ?_
  generalize groupsMet s dst n = gs
  suffices ∀ m : List Host.Cell, Memory.wf m = true → Memory.wf (gs.foldl (fun c g =>
      let lo := max dst g.base
      let k := (markedIn s [(src, n)]).at (src + (lo - dst)) (min (dst + n) (g.base + g.len) - lo)
      if k = {} then c else memPut c (g.entry + 4) [tget 0#8 c (g.entry + 4) ||| k.byte false]) m) = true from
    this _ w
  induction gs with
  | nil => exact fun m hm => hm
  | cons g gs ih =>
    refine fun m hm => ih _ ?_
    dsimp only
    split
    · exact hm
    · exact memPut_wf _ _ _ hm

theorem readyRises_keeps (hk : Keeps s0 s) :
    Keeps s0 (readyRises s) := by
  unfold readyRises
  repeat' first
    | with_reducible assumption
    | with_reducible apply modHost_keeps
    | with_reducible apply raise_keeps
    | with_reducible apply Keeps.ite

theorem finish_keeps {p : Packet} {status : Nat} {res : List Word} (hk : Keeps s0 s) :
    Keeps s0 (finish p status res s) := by
  unfold finish
  repeat' first
    | with_reducible assumption
    | with_reducible apply modHost_keeps
    | with_reducible apply hstErr_keeps
    | with_reducible apply readyRises_keeps
    | with_reducible apply Keeps.ite

theorem setTask_keeps {r : Run} {t : Task} (hk : Keeps s0 s) :
    Keeps s0 (setTask r t s) := by
  unfold setTask
  repeat' first
    | with_reducible assumption
    | with_reducible apply modHost_keeps

theorem completeRun_keeps {r : Run} {status : Nat} {res : List Word} (hk : Keeps s0 s) :
    Keeps s0 (completeRun r status res s) := by
  unfold completeRun
  repeat' first
    | with_reducible assumption
    | with_reducible apply modHost_keeps
    | with_reducible apply finish_keeps

theorem notice_keeps {rank : Nat} {frame : Word} (hk : Keeps s0 s) :
    Keeps s0 (notice rank frame s) := by
  unfold notice
  repeat' first
    | with_reducible assumption
    | with_reducible apply modPwr_keeps

theorem modLayer_keeps {c : BitVec 4} {n : Nat} {f : LayerSt → LayerSt} (hk : Keeps s0 s) :
    Keeps s0 (modLayer s c n f) := by
  unfold modLayer
  repeat' first
    | with_reducible assumption
    | with_reducible apply modCtx_keeps

theorem modLaunch_keeps {u f} (h : Keeps s0 s) : Keeps s0 (modLaunch s u f) := h.upd

theorem setSealState_keeps {c : BitVec 4} {v : Nat} (hk : Keeps s0 s) :
    Keeps s0 (setSealState c v s) := by
  unfold setSealState
  repeat' first
    | with_reducible assumption
    | with_reducible apply modCtx_keeps

end Sys2Proof.Laws
end

