-- ==== Sys2Proof/Laws/FrameUnits.lean ====
section
/-! SUPPORT. The frame lemmas of the units: messages, containment, offers, arrays. -/

namespace Sys2Proof.Laws

open Sys2Proof.Machine

variable {s0 s : State}

theorem setChannel_keeps {c : Nat} (hk : Keeps s0 s) :
    Keeps s0 (setChannel c s) := by
  unfold setChannel
  repeat' first
    | with_reducible assumption
    | with_reducible apply modMon_keeps

theorem passChannel_keeps (hk : Keeps s0 s) :
    Keeps s0 (passChannel s) := by
  unfold passChannel
  repeat' first
    | with_reducible assumption
    | with_reducible apply modMon_keeps
    | with_reducible apply setChannel_keeps
    | with_reducible apply Keeps.ite
    | split

theorem askChannel_keeps {u : Nat} (hk : Keeps s0 s) :
    Keeps s0 (askChannel u s) := by
  unfold askChannel
  repeat' first
    | with_reducible assumption
    | with_reducible apply modMon_keeps
    | with_reducible apply passChannel_keeps

theorem calErr_keeps {i : Nat} (hk : Keeps s0 s) :
    Keeps s0 (calErr i s) := by
  unfold calErr
  repeat' first
    | with_reducible assumption
    | with_reducible apply modMon_keeps

theorem putVref_keeps {v : Nat} (hk : Keeps s0 s) :
    Keeps s0 (putVref v s) := by
  unfold putVref
  repeat' first
    | with_reducible assumption
    | with_reducible apply modMon_keeps
    | with_reducible apply calErr_keeps
    | with_reducible apply Keeps.ite

theorem putTraceCfg_keeps {v : Word} (hk : Keeps s0 s) :
    Keeps s0 (putTraceCfg v s) := by
  unfold putTraceCfg
  repeat' first
    | with_reducible assumption
    | ((try lift_lets);  intro x; apply Keeps.cut (s := s0) x <;> [subst x; (intro hx; clear_value x)])
    | with_reducible apply modMon_keeps
    | with_reducible apply calErr_keeps
    | with_reducible apply Keeps.ite

theorem putCtiScale_keeps {c : Nat} {v : Nat} (hk : Keeps s0 s) :
    Keeps s0 (putCtiScale c v s) := by
  unfold putCtiScale
  repeat' first
    | with_reducible assumption
    | with_reducible apply modClus_keeps
    | with_reducible apply calErr_keeps
    | with_reducible apply Keeps.ite

theorem saveRecord_keeps {base : Nat} {a : Nat} (hk : Keeps s0 s) :
    Keeps s0 (saveRecord base a s) := by
  unfold saveRecord
  repeat' first
    | with_reducible assumption
    | with_reducible apply storeBytes_keeps

theorem saveDone_keeps {r : Run} {base : Nat} (hk : Keeps s0 s) :
    Keeps s0 (saveDone r base s) := by
  unfold saveDone
  repeat' first
    | with_reducible assumption
    | ((try lift_lets); intro x; clear_value x)
    | with_reducible apply storeBytes_keeps
    | with_reducible apply completeRun_keeps

theorem loadRecord_keeps {base : Nat} {a : Nat} (hk : Keeps s0 s) :
    Keeps s0 (loadRecord base a s) := by
  unfold loadRecord
  repeat' first
    | with_reducible assumption
    | ((try lift_lets); intro x; clear_value x)
    | with_reducible apply modArr_keeps

theorem restoreArray_keeps {base a : Nat} {r : List Nat × Nat × Nat × State} (hk : Keeps s0 r.2.2.2) :
    Keeps s0 (restoreArray base a r).2.2.2 := by
  obtain ⟨left, n, k, s⟩ := r
  unfold restoreArray
  dsimp only
  split
  · exact hk
  · split
    · exact hk
    · exact loadRecord_keeps hk

theorem restoreArrays_keeps {r : Run} {base bytes n k : Nat} {as : List Nat} (hk : Keeps s0 s) :
    Keeps s0 (restoreArrays r base bytes n k as s) := by
  have h : ∀ (as : List Nat) (t : List Nat × Nat × Nat × State), Keeps s0 t.2.2.2 →
      Keeps s0 (as.foldl (fun t a => restoreArray base a t) t).2.2.2 := by
    intro as
    induction as with
    | nil => exact fun t ht => ht
    | cons a as ih => exact fun t ht => ih _ (restoreArray_keeps ht)
  unfold restoreArrays
  exact Keeps.ite (completeRun_keeps (h as _ hk)) (setTask_keeps (h as _ hk))

theorem calWaiters_keeps {a : Nat} (hk : Keeps s0 s) :
    Keeps s0 (calWaiters a s) := by
  unfold calWaiters
  repeat' first
    | with_reducible assumption
    | ((try lift_lets);  intro x; apply Keeps.cut (s := s0) x <;> [subst x; (intro hx; clear_value x)])
    | ((try lift_lets); intro x; clear_value x)
    | with_reducible apply setTask_keeps
    | with_reducible apply saveRecord_keeps
    | with_reducible apply saveDone_keeps
    | with_reducible apply restoreArrays_keeps
    | with_reducible apply Keeps.ite
    | (with_reducible apply Keeps.foldl; rotate_left; intro x y hx)
    | split

theorem enqueue_keeps {p : Nat} {vc : Nat} {dst : DevId} {die : Bool} {tag : BitVec 16} {b : Body} (hk : Keeps s0 s) :
    Keeps s0 (enqueue p vc dst die tag b s) := by
  unfold enqueue
  repeat' first
    | with_reducible assumption
    | ((try lift_lets); intro x; clear_value x)
    | with_reducible apply modPort_keeps

theorem freshTag_keeps (h : Keeps s0 s) : Keeps s0 (freshTag s).2 := h.upd

theorem postMsg_keeps {p : Nat} {vc : Nat} {dst : DevId} {m : Msg} (hk : Keeps s0 s) :
    Keeps s0 (postMsg p vc dst m s) := by
  unfold postMsg
  repeat' first
    | with_reducible assumption
    | with_reducible apply modFab_keeps
    | with_reducible apply enqueue_keeps
    | with_reducible apply freshTag_keeps

theorem sendMsg_keeps {vc : Nat} {dst : DevId} {m : Msg} (hk : Keeps s0 s) :
    Keeps s0 (sendMsg vc dst m s) := by
  unfold sendMsg
  repeat' first
    | with_reducible assumption
    | with_reducible apply modFab_keeps
    | with_reducible apply postMsg_keeps
    | with_reducible apply Keeps.ite
    | split

theorem sendAll_keeps {ds : List DevId} {m : Msg} (hk : Keeps s0 s) :
    Keeps s0 (sendAll ds m s) := by
  unfold sendAll
  repeat' first
    | with_reducible assumption
    | with_reducible apply sendMsg_keeps
    | with_reducible apply Keeps.ite
    | (with_reducible apply Keeps.foldl; rotate_left; intro x y hx)

theorem modCv_keeps {c : BitVec 4} {n : BitVec 8} {e : Word} {f : Caravan → Caravan} (hk : Keeps s0 s) :
    Keeps s0 (modCv s c n e f) := by
  unfold modCv
  repeat' first
    | with_reducible assumption
    | with_reducible apply modFab_keeps

theorem cvWriteStatus_keeps {v : Caravan} (hk : Keeps s0 s) :
    Keeps s0 (cvWriteStatus v s) := by
  unfold cvWriteStatus
  repeat' first
    | with_reducible assumption
    | with_reducible apply storeBytes_keeps

theorem setCv_keeps {v : Caravan} (hk : Keeps s0 s) :
    Keeps s0 (setCv v s) := by
  unfold setCv
  repeat' first
    | with_reducible assumption
    | with_reducible apply modCv_keeps
    | with_reducible apply cvWriteStatus_keeps

theorem redErr_keeps {i : Nat} (hk : Keeps s0 s) :
    Keeps s0 (redErr i s) := by
  unfold redErr
  repeat' first
    | with_reducible assumption
    | with_reducible apply modFab_keeps

theorem withdrawOffer_keeps {c : BitVec 4} (hk : Keeps s0 s) :
    Keeps s0 (withdrawOffer c s) := by
  unfold withdrawOffer
  repeat' first
    | with_reducible assumption
    | ((try lift_lets);  intro x; apply Keeps.cut (s := s0) x <;> [subst x; (intro hx; clear_value x)])
    | ((try lift_lets); intro x; clear_value x)
    | with_reducible apply modSeal_keeps
    | with_reducible apply setSealState_keeps
    | with_reducible apply sendMsg_keeps
    | with_reducible apply Keeps.ite
    | split

theorem outstanding_keeps {c : BitVec 4} {unc : Bool} (hk : Keeps s0 s) :
    Keeps s0 (outstanding c unc s) := by
  unfold outstanding
  repeat' first
    | with_reducible assumption
    | with_reducible apply modSeal_keeps
    | with_reducible apply withdrawOffer_keeps

theorem lateDetection_keeps {c : BitVec 4} (hk : Keeps s0 s) :
    Keeps s0 (lateDetection c s) := by
  unfold lateDetection
  repeat' first
    | with_reducible assumption
    | with_reducible apply modSeal_keeps
    | with_reducible apply withdrawOffer_keeps
    | with_reducible apply Keeps.ite

theorem cvFault_keeps {v : Caravan} (hk : Keeps s0 s) :
    Keeps s0 (cvFault v s) := by
  unfold cvFault
  repeat' first
    | with_reducible assumption
    | with_reducible apply setCv_keeps
    | with_reducible apply redErr_keeps
    | with_reducible apply outstanding_keeps

theorem cvSend_keeps {v : Caravan} {gather : Bool} {half : Bool} {hop : Nat} {tile : Nat} {rowmap : Nat} {blocks : List Byte} (hk : Keeps s0 s) :
    Keeps s0 (cvSend v gather half hop tile rowmap blocks s) := by
  unfold cvSend
  repeat' first
    | with_reducible assumption
    | ((try lift_lets);  intro x; apply Keeps.cut (s := s0) x <;> [subst x; (intro hx; clear_value x)])
    | ((try lift_lets); intro x; clear_value x)
    | with_reducible apply modPort_keeps
    | with_reducible apply modFab_keeps
    | with_reducible apply enqueue_keeps
    | with_reducible apply modCv_keeps
    | with_reducible apply Keeps.ite
    | split

theorem orBitmap_keeps {base : Nat} {row : Nat} (hk : Keeps s0 s) :
    Keeps s0 (orBitmap s base row) := by
  unfold orBitmap
  repeat' first
    | with_reducible assumption
    | ((try lift_lets); intro x; clear_value x)
    | with_reducible apply storeBytes_keeps

theorem cvFinal_keeps {v : Caravan} {t : Nat} {half : Bool} {rowmap : Nat} {blocks : List Byte} (hk : Keeps s0 s) :
    Keeps s0 (cvFinal v t half rowmap blocks s) := by
  unfold cvFinal
  repeat' first
    | with_reducible assumption
    | ((try lift_lets);  intro x; apply Keeps.cut (s := s0) x <;> [subst x; (intro hx; clear_value x)])
    | ((try lift_lets); intro x; clear_value x)
    | with_reducible apply modSeal_keeps
    | with_reducible apply modFab_keeps
    | with_reducible apply storeBytes_keeps
    | with_reducible apply setCv_keeps
    | with_reducible apply redErr_keeps
    | with_reducible apply orBitmap_keeps
    | with_reducible apply Keeps.ite
    | (with_reducible apply Keeps.foldl; rotate_left; intro x y hx)
    | split

theorem noteOp_keeps {v : Caravan} {t : Nat} (hk : Keeps s0 s) :
    Keeps s0 (noteOp v t s) := by
  unfold noteOp
  repeat' first
    | with_reducible assumption
    | ((try lift_lets); intro x; clear_value x)
    | with_reducible apply modCv_keeps

theorem startChain_keeps {v : Caravan} {t : Nat} (hk : Keeps s0 s) :
    Keeps s0 (startChain v t s) := by
  unfold startChain
  repeat' first
    | with_reducible assumption
    | ((try lift_lets);  intro x; apply Keeps.cut (s := s0) x <;> [subst x; (intro hx; clear_value x)])
    | ((try lift_lets); intro x; clear_value x)
    | with_reducible apply modCv_keeps
    | with_reducible apply cvSend_keeps
    | with_reducible apply cvFinal_keeps
    | with_reducible apply noteOp_keeps
    | with_reducible apply Keeps.ite
    | (with_reducible apply Keeps.foldl; rotate_left; intro x y hx)

theorem forwardHalf_keeps {v : Caravan} {h : Half} (hk : Keeps s0 s) :
    Keeps s0 (forwardHalf v h s) := by
  unfold forwardHalf
  repeat' first
    | with_reducible assumption
    | ((try lift_lets);  intro x; apply Keeps.cut (s := s0) x <;> [subst x; (intro hx; clear_value x)])
    | ((try lift_lets); intro x; clear_value x)
    | with_reducible apply cvSend_keeps
    | with_reducible apply cvFinal_keeps
    | with_reducible apply noteOp_keeps
    | with_reducible apply Keeps.ite

theorem restartAt_keeps {v : Caravan} {gen : Nat} {send : Bool} (hk : Keeps s0 s) :
    Keeps s0 (restartAt v gen send s) := by
  unfold restartAt
  repeat' first
    | with_reducible assumption
    | ((try lift_lets);  intro x; apply Keeps.cut (s := s0) x <;> [subst x; (intro hx; clear_value x)])
    | ((try lift_lets); intro x; clear_value x)
    | with_reducible apply storeBytes_keeps
    | with_reducible apply sendAll_keeps
    | with_reducible apply setCv_keeps
    | with_reducible apply redErr_keeps
    | with_reducible apply cvFault_keeps
    | with_reducible apply startChain_keeps
    | with_reducible apply Keeps.ite
    | (with_reducible apply Keeps.foldl; rotate_left; intro x y hx)

theorem discardCore_keeps {k : Nat} {bad : Queued → Bool} (hk : Keeps s0 s) :
    Keeps s0 (discardCore s k bad) := by
  unfold discardCore
  repeat' first
    | with_reducible assumption
    | ((try lift_lets); intro x; clear_value x)
    | with_reducible apply modCore_keeps
    | with_reducible apply Keeps.ite

theorem discardAll_keeps {bad : Queued → Bool} (hk : Keeps s0 s) :
    Keeps s0 (discardAll s bad) := by
  unfold discardAll
  repeat' first
    | with_reducible assumption
    | with_reducible apply discardCore_keeps
    | with_reducible apply Keeps.ite
    | (with_reducible apply Keeps.foldl; rotate_left; intro x y hx)

theorem dropAllProducts_keeps {bad : Nat → Bool} (hk : Keeps s0 s) :
    Keeps s0 (dropAllProducts s bad) := by
  unfold dropAllProducts
  repeat' first
    | with_reducible assumption
    | with_reducible apply Keeps.ite
    | with_reducible apply Keeps.upd

theorem clearStats_keeps {own : Entry → Bool} (hk : Keeps s0 s) :
    Keeps s0 (clearStats s own) := by
  unfold clearStats
  repeat' first
    | with_reducible assumption
    | with_reducible apply Keeps.ite
    | with_reducible apply Keeps.upd

theorem clearRowList_keeps {l : Layer} (hk : Keeps s0 s) :
    Keeps s0 (clearRowList l s) := by
  unfold clearRowList
  repeat' first
    | with_reducible assumption
    | ((try lift_lets);  intro x; apply Keeps.cut (s := s0) x <;> [subst x; (intro hx; clear_value x)])
    | with_reducible apply storeBytes_keeps

theorem dropStaging_keeps {ctx : BitVec 4} {ns : List (BitVec 12)} (hk : Keeps s0 s) :
    Keeps s0 (dropStaging ctx ns s) := by
  unfold dropStaging
  repeat' first
    | with_reducible assumption
    | with_reducible apply modLayer_keeps
    | with_reducible apply clearRowList_keeps
    | with_reducible apply Keeps.ite
    | (with_reducible apply Keeps.foldl; rotate_left; intro x y hx)
    | split

theorem unstage_keeps {ctx : BitVec 4} {ns : List (BitVec 12)} (hk : Keeps s0 s) :
    Keeps s0 (unstage ctx ns s) := by
  unfold unstage
  repeat' first
    | with_reducible assumption
    | with_reducible apply modLayer_keeps
    | with_reducible apply dropStaging_keeps
    | with_reducible apply Keeps.ite
    | (with_reducible apply Keeps.foldl; rotate_left; intro x y hx)

theorem setUpdStat_keeps {l : Layer} {ctx : BitVec 4} {pass : Nat} (hk : Keeps s0 s) :
    Keeps s0 (setUpdStat l ctx pass s) := by
  unfold setUpdStat
  repeat' first
    | with_reducible assumption
    | with_reducible apply modClus_keeps
    | with_reducible apply Keeps.ite
    | (with_reducible apply Keeps.foldl; rotate_left; intro x y hx)

theorem clearUpdStat_keeps {l : Layer} {ctx : BitVec 4} (hk : Keeps s0 s) :
    Keeps s0 (clearUpdStat l ctx s) := by
  unfold clearUpdStat
  repeat' first
    | with_reducible assumption
    | with_reducible apply modClus_keeps
    | with_reducible apply Keeps.ite
    | (with_reducible apply Keeps.foldl; rotate_left; intro x y hx)

theorem dropUpdate_keeps {l : LaunchS} (hk : Keeps s0 s) :
    Keeps s0 (dropUpdate l s) := by
  unfold dropUpdate
  repeat' first
    | with_reducible assumption
    | with_reducible apply clearUpdStat_keeps
    | with_reducible apply Keeps.ite
    | split

theorem releaseStash_keeps {l : LaunchS} (hk : Keeps s0 s) :
    Keeps s0 (releaseStash l s) := by
  unfold releaseStash
  repeat' first
    | with_reducible assumption
    | with_reducible apply modCtx_keeps

theorem placeLayer_keeps {c : BitVec 4} {l : Layer} (hk : Keeps s0 s) :
    Keeps s0 (placeLayer c l s) := by
  unfold placeLayer
  repeat' first
    | with_reducible assumption
    | ((try lift_lets);  intro x; apply Keeps.cut (s := s0) x <;> [subst x; (intro hx; clear_value x)])
    | with_reducible apply modArr_keeps
    | with_reducible apply modCtx_keeps
    | with_reducible apply Keeps.ite
    | (with_reducible apply Keeps.foldl; rotate_left; intro x y hx)

theorem writeLeaves_keeps {a : Nat} {rows : Nat} {stuck : Nat} {fenced : Nat} {status : Nat} {r : Run} (hk : Keeps s0 s) :
    Keeps s0 (writeLeaves a rows stuck fenced status r s) := by
  unfold writeLeaves
  repeat' first
    | with_reducible assumption
    | ((try lift_lets); intro x; clear_value x)
    | with_reducible apply setTask_keeps
    | with_reducible apply completeRun_keeps
    | with_reducible apply Keeps.ite
    | split

theorem arrayWriteDone_keeps {a : Nat} {rows : Nat} {stuck : Nat} {fenced : Nat} {status : Nat} (hk : Keeps s0 s) :
    Keeps s0 (arrayWriteDone a rows stuck fenced status s) := by
  unfold arrayWriteDone
  repeat' first
    | with_reducible assumption
    | with_reducible apply writeLeaves_keeps
    | with_reducible apply Keeps.ite
    | (with_reducible apply Keeps.foldl; rotate_left; intro x y hx)

theorem writeServed_keeps {a : Nat} {w : WriteOp} {status : Nat} (hk : Keeps s0 s) :
    Keeps s0 (writeServed a w status s) := by
  unfold writeServed
  repeat' first
    | with_reducible assumption
    | with_reducible apply writeLeaves_keeps
    | with_reducible apply arrayWriteDone_keeps
    | with_reducible apply Keeps.ite
    | split

theorem removeLayer_keeps {c : BitVec 4} {n : Nat} (hk : Keeps s0 s) :
    Keeps s0 (removeLayer c n s) := by
  unfold removeLayer
  repeat' first
    | with_reducible assumption
    | ((try lift_lets);  intro x; apply Keeps.cut (s := s0) x <;> [subst x; (intro hx; clear_value x)])
    | with_reducible apply modArr_keeps
    | with_reducible apply modCtx_keeps
    | with_reducible apply arrayWriteDone_keeps
    | with_reducible apply Keeps.ite
    | (with_reducible apply Keeps.foldl; rotate_left; intro x y hx)
    | split

theorem reloadTime_keeps (hk : Keeps s0 s) :
    Keeps s0 (reloadTime s) := by
  unfold reloadTime
  repeat' first
    | with_reducible assumption
    | with_reducible apply modFab_keeps
    | with_reducible apply Keeps.ite

theorem closeCtx_keeps {c : BitVec 4} (hk : Keeps s0 s) :
    Keeps s0 (closeCtx c s) := by
  unfold closeCtx
  repeat' first
    | with_reducible assumption
    | ((try lift_lets);  intro x; apply Keeps.cut (s := s0) x <;> [subst x; (intro hx; clear_value x)])
    | with_reducible apply modCtx_keeps
    | with_reducible apply modFab_keeps
    | with_reducible apply modRel_keeps
    | with_reducible apply reloadTime_keeps

theorem sweepOne_keeps {r : Run} {c : BitVec 4} {layers : List (BitVec 12)} {ended : Nat} (hk : Keeps s0 s) :
    Keeps s0 (sweepOne r c layers ended s) := by
  unfold sweepOne
  repeat' first
    | with_reducible assumption
    | ((try lift_lets);  intro x; apply Keeps.cut (s := s0) x <;> [subst x; (intro hx; clear_value x)])
    | ((try lift_lets); intro x; clear_value x)
    | with_reducible apply setTask_keeps
    | with_reducible apply completeRun_keeps
    | with_reducible apply removeLayer_keeps
    | with_reducible apply closeCtx_keeps
    | with_reducible apply Keeps.ite
    | (with_reducible apply Keeps.foldl; rotate_left; intro x y hx)

theorem sweepDestroy_keeps (hk : Keeps s0 s) :
    Keeps s0 (sweepDestroy s) := by
  unfold sweepDestroy
  repeat' first
    | with_reducible assumption
    | with_reducible apply sweepOne_keeps
    | with_reducible apply Keeps.ite
    | (with_reducible apply Keeps.foldl; rotate_left; intro x y hx)
    | split

theorem admitSeal_keeps {l : LaunchS} (hk : Keeps s0 s) :
    Keeps s0 (admitSeal l s) := by
  unfold admitSeal
  repeat' first
    | with_reducible assumption
    | ((try lift_lets);  intro x; apply Keeps.cut (s := s0) x <;> [subst x; (intro hx; clear_value x)])
    | ((try lift_lets); intro x; clear_value x)
    | with_reducible apply modSeal_keeps
    | with_reducible apply sendMsg_keeps
    | with_reducible apply Keeps.ite
    | (with_reducible apply Keeps.foldl; rotate_left; intro x y hx)
    | split

theorem askPowerOn_keeps {c : Nat} {r : Region} (hk : Keeps s0 s) :
    Keeps s0 (askPowerOn c r s) := by
  unfold askPowerOn
  repeat' first
    | with_reducible assumption
    | ((try lift_lets);  intro x; apply Keeps.cut (s := s0) x <;> [subst x; (intro hx; clear_value x)])
    | ((try lift_lets); intro x; clear_value x)
    | with_reducible apply modClus_keeps
    | with_reducible apply Keeps.ite

theorem powerClusters_keeps {clusters : Word} (hk : Keeps s0 s) :
    Keeps s0 (powerClusters clusters s) := by
  unfold powerClusters
  repeat' first
    | with_reducible assumption
    | with_reducible apply askPowerOn_keeps
    | with_reducible apply Keeps.ite
    | (with_reducible apply Keeps.foldl; rotate_left; intro x y hx)

theorem admitLaunch_keeps {uid : Nat} (hk : Keeps s0 s) :
    Keeps s0 (admitLaunch uid s) := by
  unfold admitLaunch
  repeat' first
    | with_reducible assumption
    | ((try lift_lets);  intro x; apply Keeps.cut (s := s0) x <;> [subst x; (intro hx; clear_value x)])
    | with_reducible apply modLaunch_keeps
    | with_reducible apply setSealState_keeps
    | with_reducible apply placeLayer_keeps
    | with_reducible apply admitSeal_keeps
    | with_reducible apply powerClusters_keeps
    | with_reducible apply Keeps.ite
    | (with_reducible apply Keeps.foldl; rotate_left; intro x y hx)
    | split

theorem admitHeld_keeps {c : BitVec 4} (hk : Keeps s0 s) :
    Keeps s0 (admitHeld c s) := by
  unfold admitHeld
  repeat' first
    | with_reducible assumption
    | ((try lift_lets);  intro x; apply Keeps.cut (s := s0) x <;> [subst x; (intro hx; clear_value x)])
    | with_reducible apply setSealState_keeps
    | with_reducible apply admitLaunch_keeps
    | with_reducible apply Keeps.ite
    | (with_reducible apply Keeps.foldl; rotate_left; intro x y hx)

theorem endLaunch_keeps {uid : Nat} {status : Nat} {st : LState} (hk : Keeps s0 s) :
    Keeps s0 (endLaunch uid status st s) := by
  unfold endLaunch
  split
  · exact hk
  · dsimp only
    have h : ∀ t, Keeps s0 t → ∀ (rs : List Run) (res : List Word),
        Keeps s0 (rs.foldl (fun s r => finish r.pkt status res s) t) :=
      fun t ht rs res => Keeps.foldl ht fun _ _ hx => finish_keeps hx
    have ht := fun f g => modHost_keeps (f := g) (modLaunch_keeps (u := uid) (f := f) (dropUpdate_keeps (l := ‹LaunchS›) hk))
    exact Keeps.ite (admitHeld_keeps (h _ (ht _ _) _ _)) (h _ (ht _ _) _ _)

theorem stopLaunch_keeps {uid : Nat} {status : Nat} (hk : Keeps s0 s) :
    Keeps s0 (stopLaunch uid status s) := by
  unfold stopLaunch
  repeat' first
    | with_reducible assumption
    | ((try lift_lets);  intro x; apply Keeps.cut (s := s0) x <;> [subst x; (intro hx; clear_value x)])
    | with_reducible apply modCtx_keeps
    | with_reducible apply discardAll_keeps
    | with_reducible apply dropAllProducts_keeps
    | with_reducible apply clearStats_keeps
    | with_reducible apply dropStaging_keeps
    | with_reducible apply releaseStash_keeps
    | with_reducible apply endLaunch_keeps
    | with_reducible apply Keeps.ite
    | split

theorem zeroCountWords_keeps {v : Caravan} {numbers : List (BitVec 16)} (hk : Keeps s0 s) :
    Keeps s0 (zeroCountWords v numbers s) := by
  unfold zeroCountWords
  repeat' first
    | with_reducible assumption
    | with_reducible apply storeBytes_keeps
    | with_reducible apply Keeps.ite
    | (with_reducible apply Keeps.foldl; rotate_left; intro x y hx)
    | split

theorem sendRecalls_keeps {l : LaunchS} {d : DevId} {ts : List (BitVec 14)} (hk : Keeps s0 s) :
    Keeps s0 (sendRecalls l d ts s) := by
  unfold sendRecalls
  repeat' first
    | with_reducible assumption
    | with_reducible apply sendMsg_keeps
    | with_reducible apply Keeps.ite
    | (with_reducible apply Keeps.foldl; rotate_left; intro x y hx)

theorem recallOne_keeps {send : Bool} {uid : Nat} (hk : Keeps s0 s) :
    Keeps s0 (recallOne send uid s) := by
  unfold recallOne
  repeat' first
    | with_reducible assumption
    | ((try lift_lets);  intro x; apply Keeps.cut (s := s0) x <;> [subst x; (intro hx; clear_value x)])
    | ((try lift_lets); intro x; clear_value x)
    | with_reducible apply modSeal_keeps
    | with_reducible apply modRel_keeps
    | with_reducible apply relErr_keeps
    | with_reducible apply modLaunch_keeps
    | with_reducible apply outstanding_keeps
    | with_reducible apply discardAll_keeps
    | with_reducible apply dropAllProducts_keeps
    | with_reducible apply clearStats_keeps
    | with_reducible apply unstage_keeps
    | with_reducible apply dropUpdate_keeps
    | with_reducible apply releaseStash_keeps
    | with_reducible apply sendRecalls_keeps
    | with_reducible apply Keeps.ite
    | (with_reducible apply Keeps.foldl; rotate_left; intro x y hx)
    | split

theorem recallMany_keeps {uids : List Nat} {others : List Caravan} (hk : Keeps s0 s) :
    Keeps s0 (recallMany uids others s) := by
  unfold recallMany
  repeat' first
    | with_reducible assumption
    | ((try lift_lets);  intro x; apply Keeps.cut (s := s0) x <;> [subst x; (intro hx; clear_value x)])
    | ((try lift_lets); intro x; clear_value x)
    | with_reducible apply restartAt_keeps
    | with_reducible apply zeroCountWords_keeps
    | with_reducible apply recallOne_keeps
    | with_reducible apply Keeps.ite
    | (with_reducible apply Keeps.foldl; rotate_left; intro x y hx)

theorem recallLaunch_keeps {uid : Nat} (hk : Keeps s0 s) :
    Keeps s0 (recallLaunch uid s) := by
  unfold recallLaunch
  repeat' first
    | with_reducible assumption
    | with_reducible apply recallMany_keeps

theorem recallDetected_keeps {uid : Nat} (hk : Keeps s0 s) :
    Keeps s0 (recallDetected uid s) := by
  unfold recallDetected
  repeat' first
    | with_reducible assumption
    | with_reducible apply lateDetection_keeps
    | with_reducible apply recallLaunch_keeps
    | with_reducible apply Keeps.ite
    | split

theorem atRest_keeps {c : BitVec 4} (hk : Keeps s0 s) :
    Keeps s0 (atRest c s) := by
  unfold atRest
  repeat' first
    | with_reducible assumption
    | ((try lift_lets);  intro x; apply Keeps.cut (s := s0) x <;> [subst x; (intro hx; clear_value x)])
    | with_reducible apply modRel_keeps
    | with_reducible apply relErr_keeps
    | with_reducible apply outstanding_keeps

theorem rereadOk_keeps (hk : Keeps s0 s) :
    Keeps s0 (rereadOk s) := by
  unfold rereadOk
  repeat' first
    | with_reducible assumption
    | with_reducible apply modRel_keeps

theorem spoil_keeps {check : CheckSeen} {rs : List Range} (hk : Keeps s0 s) :
    Keeps s0 (spoil check rs s) := by
  unfold spoil
  repeat' first
    | with_reducible assumption
    | with_reducible apply setPoison_keeps
    | with_reducible apply Keeps.ite
    | split

theorem checkFor_keeps {c : BitVec 4} {check : CheckSeen} {rs : List Range} (h : Keeps s0 s) :
    Keeps s0 (checkFor c check rs s).2 := by
  have hs : Keeps s0 (spoil check rs s) := spoil_keeps h
  unfold checkFor
  dsimp only
  split
  · exact hs
  · exact rereadOk_keeps (relErr_keeps hs)
  · exact atRest_keeps (relErr_keeps hs)

theorem consume_keeps {l : LaunchS} {check : CheckSeen} {rs : List Range} (h : Keeps s0 s) :
    Keeps s0 (consume l check rs s).2 := by
  have hc : Keeps s0 (checkFor l.ctx check rs s).2 := checkFor_keeps h
  unfold consume
  split
  · rename_i heq
    rw [heq] at hc
    exact modLaunch_keeps (dropUpdate_keeps hc)
  · rename_i heq
    rw [heq] at hc
    exact hc

theorem launchStore_keeps {uid a : Nat} {bytes : List Byte} {poison : Bool} {marks : Marks} (hk : Keeps s0 s) :
    Keeps s0 (launchStore uid a bytes poison marks s) := by
  unfold launchStore
  dsimp only
  exact Keeps.ite (stopLaunch_keeps hk) (Keeps.ite (stopLaunch_keeps hk) (markedWrite_keeps hk))

theorem terminateCtx_keeps {c : BitVec 4} (hk : Keeps s0 s) :
    Keeps s0 (terminateCtx c s) := by
  unfold terminateCtx
  repeat' first
    | with_reducible assumption
    | ((try lift_lets);  intro x; apply Keeps.cut (s := s0) x <;> [subst x; (intro hx; clear_value x)])
    | ((try lift_lets); intro x; clear_value x)
    | with_reducible apply modCtx_keeps
    | with_reducible apply modRel_keeps
    | with_reducible apply relErr_keeps
    | with_reducible apply outstanding_keeps
    | with_reducible apply cvFault_keeps
    | with_reducible apply discardAll_keeps
    | with_reducible apply dropAllProducts_keeps
    | with_reducible apply clearStats_keeps
    | with_reducible apply unstage_keeps
    | with_reducible apply releaseStash_keeps
    | with_reducible apply endLaunch_keeps
    | with_reducible apply Keeps.ite
    | (with_reducible apply Keeps.foldl; rotate_left; intro x y hx)

theorem addEvent_keeps {kind : BitVec 4} {unit : Nat} (hk : Keeps s0 s) :
    Keeps s0 (addEvent kind unit s) := by
  unfold addEvent
  repeat' first
    | with_reducible assumption
    | ((try lift_lets);  intro x; apply Keeps.cut (s := s0) x <;> [subst x; (intro hx; clear_value x)])
    | ((try lift_lets); intro x; clear_value x)
    | with_reducible apply modSec_keeps
    | with_reducible apply logAdd_keeps

theorem setPermanent_keeps {kind : BitVec 4} {unit : Nat} (hk : Keeps s0 s) :
    Keeps s0 (setPermanent kind unit s) := by
  unfold setPermanent
  repeat' first
    | with_reducible assumption
    | with_reducible apply modSec_keeps
    | with_reducible apply logAdd_keeps
    | with_reducible apply Keeps.ite

theorem countUnits_keeps (hk : Keeps s0 s) :
    Keeps s0 (countUnits s) := by
  unfold countUnits
  repeat' first
    | with_reducible assumption
    | ((try lift_lets); intro x; clear_value x)
    | with_reducible apply Keeps.ite
    | with_reducible apply Keeps.upd

theorem arrayDone_keeps {a : Nat} {d : ArrDone} (hk : Keeps s0 s) :
    Keeps s0 (arrayDone a d s) := by
  unfold arrayDone
  repeat' first
    | with_reducible assumption
    | ((try lift_lets);  intro x; apply Keeps.cut (s := s0) x <;> [subst x; (intro hx; clear_value x)])
    | ((try lift_lets); intro x; clear_value x)
    | with_reducible apply modHost_keeps
    | with_reducible apply finish_keeps
    | with_reducible apply Keeps.ite
    | (with_reducible apply Keeps.foldl; rotate_left; intro x y hx)
    | split

theorem retestDone_keeps {kind : BitVec 4} {unit : Nat} {ok : Bool} (hk : Keeps s0 s) :
    Keeps s0 (retestDone kind unit ok s) := by
  unfold retestDone
  repeat' first
    | with_reducible assumption
    | ((try lift_lets);  intro x; apply Keeps.cut (s := s0) x <;> [subst x; (intro hx; clear_value x)])
    | ((try lift_lets); intro x; clear_value x)
    | with_reducible apply modHost_keeps
    | with_reducible apply finish_keeps
    | with_reducible apply Keeps.ite
    | (with_reducible apply Keeps.foldl; rotate_left; intro x y hx)

theorem fenceArrayUnit_keeps {a : Nat} (hk : Keeps s0 s) :
    Keeps s0 (fenceArrayUnit a s) := by
  unfold fenceArrayUnit
  repeat' first
    | with_reducible assumption
    | with_reducible apply modArr_keeps
    | with_reducible apply drawFree_keeps

theorem fenceArray_keeps {a : Nat} (hk : Keeps s0 s) :
    Keeps s0 (fenceArray a s) := by
  unfold fenceArray
  repeat' first
    | with_reducible assumption
    | ((try lift_lets);  intro x; apply Keeps.cut (s := s0) x <;> [subst x; (intro hx; clear_value x)])
    | ((try lift_lets); intro x; clear_value x)
    | with_reducible apply relErr_keeps
    | with_reducible apply calWaiters_keeps
    | with_reducible apply arrayWriteDone_keeps
    | with_reducible apply sweepDestroy_keeps
    | with_reducible apply recallDetected_keeps
    | with_reducible apply setPermanent_keeps
    | with_reducible apply countUnits_keeps
    | with_reducible apply arrayDone_keeps
    | with_reducible apply retestDone_keeps
    | with_reducible apply fenceArrayUnit_keeps
    | with_reducible apply Keeps.ite
    | (with_reducible apply Keeps.foldl; rotate_left; intro x y hx)

theorem failArrayRetest_keeps {a : Nat} (hk : Keeps s0 s) :
    Keeps s0 (failArrayRetest a s) := by
  unfold failArrayRetest
  repeat' first
    | with_reducible assumption
    | with_reducible apply modArr_keeps
    | with_reducible apply drawFree_keeps
    | with_reducible apply setPermanent_keeps
    | with_reducible apply retestDone_keeps
    | with_reducible apply fenceArray_keeps
    | with_reducible apply Keeps.ite

theorem passArrayRetest_keeps {a : Nat} (hk : Keeps s0 s) :
    Keeps s0 (passArrayRetest a s) := by
  unfold passArrayRetest
  repeat' first
    | with_reducible assumption
    | ((try lift_lets); intro x; clear_value x)
    | with_reducible apply modArr_keeps
    | with_reducible apply countUnits_keeps
    | with_reducible apply retestDone_keeps

theorem fenceCore_keeps {k : Nat} (hk : Keeps s0 s) :
    Keeps s0 (fenceCore k s) := by
  unfold fenceCore
  repeat' first
    | with_reducible assumption
    | ((try lift_lets);  intro x; apply Keeps.cut (s := s0) x <;> [subst x; (intro hx; clear_value x)])
    | ((try lift_lets); intro x; clear_value x)
    | with_reducible apply modRel_keeps
    | with_reducible apply relErr_keeps
    | with_reducible apply calWaiters_keeps
    | with_reducible apply discardCore_keeps
    | with_reducible apply arrayWriteDone_keeps
    | with_reducible apply sweepDestroy_keeps
    | with_reducible apply recallDetected_keeps
    | with_reducible apply setPermanent_keeps
    | with_reducible apply countUnits_keeps
    | with_reducible apply arrayDone_keeps
    | with_reducible apply retestDone_keeps
    | with_reducible apply fenceArrayUnit_keeps
    | with_reducible apply Keeps.ite
    | (with_reducible apply Keeps.foldl; rotate_left; intro x y hx)
    | split

theorem coreEvent_keeps {k : Nat} (hk : Keeps s0 s) :
    Keeps s0 (coreEvent k s) := by
  unfold coreEvent
  repeat' first
    | with_reducible assumption
    | ((try lift_lets);  intro x; apply Keeps.cut (s := s0) x <;> [subst x; (intro hx; clear_value x)])
    | with_reducible apply modCore_keeps
    | with_reducible apply addEvent_keeps
    | with_reducible apply fenceCore_keeps
    | with_reducible apply Keeps.ite

theorem arrayChecksumEvent_keeps {a : Nat} (hk : Keeps s0 s) :
    Keeps s0 (arrayChecksumEvent a s) := by
  unfold arrayChecksumEvent
  repeat' first
    | with_reducible assumption
    | ((try lift_lets);  intro x; apply Keeps.cut (s := s0) x <;> [subst x; (intro hx; clear_value x)])
    | with_reducible apply addEvent_keeps
    | with_reducible apply fenceArray_keeps
    | with_reducible apply Keeps.ite

theorem laneEvent_keeps {p : Nat} {lane : Nat} (hk : Keeps s0 s) :
    Keeps s0 (laneEvent p lane s) := by
  unfold laneEvent
  repeat' first
    | with_reducible assumption
    | ((try lift_lets);  intro x; apply Keeps.cut (s := s0) x <;> [subst x; (intro hx; clear_value x)])
    | with_reducible apply modPort_keeps
    | with_reducible apply addEvent_keeps
    | with_reducible apply setPermanent_keeps
    | with_reducible apply Keeps.ite

theorem gatherResult_keeps {uid : Nat} {r : ProdRes} (hk : Keeps s0 s) :
    Keeps s0 (gatherResult uid r s) := by
  unfold gatherResult
  repeat' first
    | with_reducible assumption
    | with_reducible apply modLaunch_keeps

theorem startTrace_keeps {a : Nat} (hk : Keeps s0 s) :
    Keeps s0 (startTrace a s) := by
  unfold startTrace
  repeat' first
    | with_reducible assumption
    | ((try lift_lets);  intro x; apply Keeps.cut (s := s0) x <;> [subst x; (intro hx; clear_value x)])
    | ((try lift_lets); intro x; clear_value x)
    | with_reducible apply modArr_keeps
    | with_reducible apply modMon_keeps
    | with_reducible apply askChannel_keeps
    | with_reducible apply Keeps.ite

theorem returnConverters_keeps {a : Nat} (hk : Keeps s0 s) :
    Keeps s0 (returnConverters a s) := by
  unfold returnConverters
  repeat' first
    | with_reducible assumption
    | ((try lift_lets); intro x; clear_value x)
    | with_reducible apply modArr_keeps
    | with_reducible apply Keeps.ite
    | (with_reducible apply Keeps.foldl; rotate_left; intro x y hx)

theorem enterCal_keeps {a : Nat} {cause : Nat} {periodic : Bool} (hk : Keeps s0 s) :
    Keeps s0 (enterCal a cause periodic s) := by
  unfold enterCal
  repeat' first
    | with_reducible assumption
    | ((try lift_lets);  intro x; apply Keeps.cut (s := s0) x <;> [subst x; (intro hx; clear_value x)])
    | ((try lift_lets); intro x; clear_value x)
    | with_reducible apply modArr_keeps
    | with_reducible apply startTrace_keeps
    | with_reducible apply returnConverters_keeps

theorem enterRefresh_keeps {a : Nat} {cause : Nat} (hk : Keeps s0 s) :
    Keeps s0 (enterRefresh a cause s) := by
  unfold enterRefresh
  repeat' first
    | with_reducible assumption
    | with_reducible apply modArr_keeps

theorem enterWriting_keeps {a : Nat} (hk : Keeps s0 s) :
    Keeps s0 (enterWriting a s) := by
  unfold enterWriting
  repeat' first
    | with_reducible assumption
    | ((try lift_lets); intro x; clear_value x)
    | with_reducible apply modArr_keeps

theorem enterActive_keeps {a : Nat} (hk : Keeps s0 s) :
    Keeps s0 (enterActive a s) := by
  unfold enterActive
  repeat' first
    | with_reducible assumption
    | with_reducible apply modArr_keeps

theorem exitRule_keeps {a : Nat} (hk : Keeps s0 s) :
    Keeps s0 (exitRule a s) := by
  unfold exitRule
  repeat' first
    | with_reducible assumption
    | ((try lift_lets);  intro x; apply Keeps.cut (s := s0) x <;> [subst x; (intro hx; clear_value x)])
    | ((try lift_lets); intro x; clear_value x)
    | with_reducible apply modArr_keeps
    | with_reducible apply enterCal_keeps
    | with_reducible apply enterRefresh_keeps
    | with_reducible apply enterWriting_keeps
    | with_reducible apply enterActive_keeps
    | with_reducible apply Keeps.ite

theorem boundary_keeps {a : Nat} (hk : Keeps s0 s) :
    Keeps s0 (boundary a s) := by
  unfold boundary
  repeat' first
    | with_reducible assumption
    | ((try lift_lets);  intro x; apply Keeps.cut (s := s0) x <;> [subst x; (intro hx; clear_value x)])
    | ((try lift_lets); intro x; clear_value x)
    | with_reducible apply modArr_keeps
    | with_reducible apply enterCal_keeps
    | with_reducible apply enterRefresh_keeps
    | with_reducible apply enterWriting_keeps
    | with_reducible apply Keeps.ite

theorem pendTrigger_keeps {a : Nat} {cause : Nat} (hk : Keeps s0 s) :
    Keeps s0 (pendTrigger a cause s) := by
  unfold pendTrigger
  repeat' first
    | with_reducible assumption
    | with_reducible apply modArr_keeps
    | with_reducible apply Keeps.ite
    | with_reducible apply Keeps.upd

theorem periodicTrigger_keeps {a : Nat} {cause : Nat} (hk : Keeps s0 s) :
    Keeps s0 (periodicTrigger a cause s) := by
  unfold periodicTrigger
  repeat' first
    | with_reducible assumption
    | ((try lift_lets);  intro x; apply Keeps.cut (s := s0) x <;> [subst x; (intro hx; clear_value x)])
    | ((try lift_lets); intro x; clear_value x)
    | with_reducible apply modArr_keeps
    | with_reducible apply boundary_keeps
    | with_reducible apply pendTrigger_keeps
    | with_reducible apply Keeps.ite

theorem commandCal_keeps {a : Nat} (hk : Keeps s0 s) :
    Keeps s0 (commandCal a s) := by
  unfold commandCal
  repeat' first
    | with_reducible assumption
    | ((try lift_lets); intro x; clear_value x)
    | with_reducible apply modArr_keeps
    | with_reducible apply boundary_keeps
    | with_reducible apply Keeps.ite

theorem commandRefresh_keeps {a : Nat} (hk : Keeps s0 s) :
    Keeps s0 (commandRefresh a s) := by
  unfold commandRefresh
  repeat' first
    | with_reducible assumption
    | ((try lift_lets); intro x; clear_value x)
    | with_reducible apply modArr_keeps
    | with_reducible apply boundary_keeps
    | with_reducible apply Keeps.ite

theorem popProduct_keeps {a : Nat} (hk : Keeps s0 s) :
    Keeps s0 (popProduct a s) := by
  unfold popProduct
  repeat' first
    | with_reducible assumption
    | with_reducible apply modArr_keeps

theorem startDigital_keeps {a : Nat} {p : Product} {l : LaunchS} {layer : Nat} (hk : Keeps s0 s) :
    Keeps s0 (startDigital a p l layer s) := by
  unfold startDigital
  repeat' first
    | with_reducible assumption
    | ((try lift_lets);  intro x; apply Keeps.cut (s := s0) x <;> [subst x; (intro hx; clear_value x)])
    | with_reducible apply modArr_keeps
    | with_reducible apply modCtx_keeps
    | with_reducible apply modSeal_keeps
    | with_reducible apply modLayer_keeps
    | with_reducible apply popProduct_keeps
    | with_reducible apply Keeps.ite

theorem startAnalogue_keeps {a : Nat} {p : Product} (hk : Keeps s0 s) :
    Keeps s0 (startAnalogue a p s) := by
  unfold startAnalogue
  repeat' first
    | with_reducible assumption
    | ((try lift_lets);  intro x; apply Keeps.cut (s := s0) x <;> [subst x; (intro hx; clear_value x)])
    | ((try lift_lets); intro x; clear_value x)
    | with_reducible apply modArr_keeps
    | with_reducible apply modCore_keeps
    | with_reducible apply gatherResult_keeps
    | with_reducible apply popProduct_keeps
    | with_reducible apply Keeps.ite

theorem issueProduct_keeps {a : Nat} (hk : Keeps s0 s) :
    Keeps s0 (issueProduct a s) := by
  unfold issueProduct
  repeat' first
    | with_reducible assumption
    | ((try lift_lets); intro x; clear_value x)
    | with_reducible apply startDigital_keeps
    | with_reducible apply startAnalogue_keeps
    | with_reducible apply Keeps.ite
    | split

theorem driveRead_keeps {a : Nat} {dev : List (Nat × Dy)} (hk : Keeps s0 s) :
    Keeps s0 (driveRead a dev s) := by
  unfold driveRead
  repeat' first
    | with_reducible assumption
    | with_reducible apply modArr_keeps

theorem compareOldest_keeps {a : Nat} (hk : Keeps s0 s) :
    Keeps s0 (compareOldest a s) := by
  unfold compareOldest
  repeat' first
    | with_reducible assumption
    | with_reducible apply modArr_keeps

theorem reReadArray_keeps {a : Nat} {dev : List (Nat × Dy)} (hk : Keeps s0 s) :
    Keeps s0 (reReadArray a dev s) := by
  unfold reReadArray
  repeat' first
    | with_reducible assumption
    | ((try lift_lets);  intro x; apply Keeps.cut (s := s0) x <;> [subst x; (intro hx; clear_value x)])
    | ((try lift_lets); intro x; clear_value x)
    | with_reducible apply modArr_keeps
    | with_reducible apply arrayChecksumEvent_keeps
    | with_reducible apply enterCal_keeps
    | with_reducible apply Keeps.ite
    | split

theorem endProduct_keeps {a : Nat} (hk : Keeps s0 s) :
    Keeps s0 (endProduct a s) := by
  unfold endProduct
  repeat' first
    | with_reducible assumption
    | ((try lift_lets);  intro x; apply Keeps.cut (s := s0) x <;> [subst x; (intro hx; clear_value x)])
    | ((try lift_lets); intro x; clear_value x)
    | with_reducible apply modArr_keeps
    | with_reducible apply gatherResult_keeps
    | with_reducible apply boundary_keeps
    | with_reducible apply Keeps.ite
    | split

theorem readsExpiry_keeps {a : Nat} (hk : Keeps s0 s) :
    Keeps s0 (readsExpiry a s) := by
  unfold readsExpiry
  repeat' first
    | with_reducible assumption
    | with_reducible apply periodicTrigger_keeps
    | with_reducible apply Keeps.ite

theorem heatTrigger_keeps {a : Nat} {tj : Nat} (hk : Keeps s0 s) :
    Keeps s0 (heatTrigger a tj s) := by
  unfold heatTrigger
  repeat' first
    | with_reducible assumption
    | ((try lift_lets); intro x; clear_value x)
    | with_reducible apply pendTrigger_keeps
    | with_reducible apply periodicTrigger_keeps
    | with_reducible apply Keeps.ite
    | split

theorem sampleTj_keeps {c : Nat} {t : Dy} (hk : Keeps s0 s) :
    Keeps s0 (sampleTj c t s) := by
  unfold sampleTj
  repeat' first
    | with_reducible assumption
    | ((try lift_lets);  intro x; apply Keeps.cut (s := s0) x <;> [subst x; (intro hx; clear_value x)])
    | ((try lift_lets); intro x; clear_value x)
    | with_reducible apply modClus_keeps
    | with_reducible apply modPwr_keeps
    | with_reducible apply heatTrigger_keeps
    | with_reducible apply Keeps.ite
    | (with_reducible apply Keeps.foldl; rotate_left; intro x y hx)

theorem giveSlot_keeps {c : Nat} (hk : Keeps s0 s) :
    Keeps s0 (giveSlot c s) := by
  unfold giveSlot
  repeat' first
    | with_reducible assumption
    | ((try lift_lets);  intro x; apply Keeps.cut (s := s0) x <;> [subst x; (intro hx; clear_value x)])
    | with_reducible apply modArr_keeps
    | with_reducible apply boundary_keeps
    | with_reducible apply Keeps.ite
    | split

theorem replaceColumn_keeps {a p : Nat} {r : Nat × Bool × State} (hk : Keeps s0 r.2.2) :
    Keeps s0 (replaceColumn a p r).2.2 := by
  obtain ⟨n, ok, s⟩ := r
  unfold replaceColumn
  dsimp only at hk ⊢
  split
  · exact setPermanent_keeps (addEvent_keeps (modArr_keeps hk))
  · exact hk

theorem withdrawSpare_keeps {a i : Nat} {r : Nat × Bool × State} (hk : Keeps s0 r.2.2) :
    Keeps s0 (withdrawSpare a i r).2.2 := by
  obtain ⟨n, ok, s⟩ := r
  unfold withdrawSpare
  dsimp only at hk ⊢
  have hs : ∀ v f k x, Keeps s0 (setPermanent k v (addEvent k v (modArr s x f))) :=
    fun v f k x => setPermanent_keeps (addEvent_keeps (modArr_keeps hk))
  split
  · exact hk
  · split
    · exact hs _ _ _ _
    · exact replaceColumn_keeps (hs _ _ _ _)

theorem rotate_keeps {a : Nat} {fit : CalFit} {scale : Nat} (hk : Keeps s0 s) :
    Keeps s0 (rotate a fit scale s).2.2 := by
  unfold rotate
  split
  · exact hk
  · dsimp only
    have h1 : ∀ is : List Nat, Keeps s0 (is.foldl (fun (r : Nat × Bool × State) i =>
        if testFails fit scale (528 + i) (arr r.2.2 a) then withdrawSpare a i r
        else (r.1, r.2.1, modArr r.2.2 a (takeTest fit scale (528 + i)))) (0, true, s)).2.2 := fun is =>
      Keeps.foldlOn (fun r : Nat × Bool × State => r.2.2) hk fun r i hr => by
        split
        · exact withdrawSpare_keeps hr
        · exact modArr_keeps hr
    specialize h1 ([0, 1].filter fun i => spareField (arr s a) i != 0xFFFE)
    split
    · exact h1
    · refine Keeps.foldlOn (fun r : Nat × Bool × State => r.2.2) h1 fun r p hr => ?_
      split
      · exact hr
      · split
        · exact replaceColumn_keeps hr
        · exact modArr_keeps hr

theorem calibrate_keeps {a : Nat} {fit : CalFit} (hk : Keeps s0 s) : Keeps s0 (calibrate a fit s).2 := by
  have h : ∀ scale, Keeps s0 (rotate a fit scale s).2.2 := fun scale => rotate_keeps hk
  unfold calibrate
  dsimp only
  split <;>
  · split
    · exact modArr_keeps (h _)
    · exact h _

theorem freeTestPoint_keeps {a : Nat} (hk : Keeps s0 s) :
    Keeps s0 (freeTestPoint a s) := by
  unfold freeTestPoint
  repeat' first
    | with_reducible assumption
    | ((try lift_lets); intro x; clear_value x)
    | with_reducible apply modMon_keeps

theorem dropTrace_keeps {a : Nat} (hk : Keeps s0 s) :
    Keeps s0 (dropTrace a s) := by
  unfold dropTrace
  repeat' first
    | with_reducible assumption
    | with_reducible apply modMon_keeps
    | with_reducible apply freeTestPoint_keeps
    | with_reducible apply Keeps.ite

theorem passTrace_keeps {a : Nat} (hk : Keeps s0 s) :
    Keeps s0 (passTrace a s) := by
  unfold passTrace
  repeat' first
    | with_reducible assumption
    | with_reducible apply modMon_keeps
    | with_reducible apply Keeps.ite

theorem endCalibration_keeps {a : Nat} {fit : CalFit} (hk : Keeps s0 s) : Keeps s0 (endCalibration a fit s) := by
  unfold endCalibration
  apply Keeps.ite hk
  have h1 : Keeps s0 (calibrate a fit s).2 := calibrate_keeps hk
  generalize calibrate a fit s = x at h1 ⊢
  obtain ⟨r, t⟩ := x
  dsimp only at h1 ⊢
  have h2 : ∀ f, Keeps s0 (modArr t a f) := fun f => modArr_keeps h1
  apply Keeps.ite
  · apply arrayDone_keeps
    apply exitRule_keeps
    have h3 : ∀ v : State, Keeps s0 v →
        Keeps s0 (if (arr v a).retest && !bit (arr v a).state 16 then passArrayRetest a v else v) :=
      fun v hv => Keeps.ite (passArrayRetest_keeps hv) hv
    exact h3 _ (passTrace_keeps (h2 _))
  · have h4 : ∀ v : State, Keeps s0 v → Keeps s0 (if (arr v a).recovered then
          if (arr v a).retest then failArrayRetest a v else fenceArray a v
        else enterRefresh a 5 v) :=
      fun v hv => Keeps.ite (Keeps.ite (failArrayRetest_keeps hv) (fenceArray_keeps hv)) (enterRefresh_keeps hv)
    exact h4 _ (addEvent_keeps (dropTrace_keeps (modArr_keeps (h2 _))))

end Sys2Proof.Laws
end

