-- ==== Sys2Proof/Laws/State.lean ====
section
/-! SUPPORT. What each record update of the state changes: one lemma per field and update, so that no proof unfolds one. -/

namespace Sys2Proof.Laws

open Sys2Proof.Machine

variable (s : State)

@[simp] theorem modArr_pending (a : Nat) (f : ArrU → ArrU) : (modArr s a f).pending = s.pending := rfl
@[simp] theorem modArr_host (a : Nat) (f : ArrU → ArrU) : (modArr s a f).host = s.host := rfl
@[simp] theorem modArr_deviceId (a : Nat) (f : ArrU → ArrU) : (modArr s a f).deviceId = s.deviceId := rfl
@[simp] theorem modArr_topology (a : Nat) (f : ArrU → ArrU) : (modArr s a f).topology = s.topology := rfl
@[simp] theorem modArr_avail (a : Nat) (f : ArrU → ArrU) : (modArr s a f).avail = s.avail := rfl
@[simp] theorem modArr_wbCfg (a : Nat) (f : ArrU → ArrU) : (modArr s a f).wbCfg = s.wbCfg := rfl
@[simp] theorem modArr_wbStat (a : Nat) (f : ArrU → ArrU) : (modArr s a f).wbStat = s.wbStat := rfl
@[simp] theorem modArr_arrays (a : Nat) (f : ArrU → ArrU) : (modArr s a f).arrays = tmod ArrU.reset s.arrays a f := rfl
@[simp] theorem modArr_cores (a : Nat) (f : ArrU → ArrU) : (modArr s a f).cores = s.cores := rfl
@[simp] theorem modArr_clusters (a : Nat) (f : ArrU → ArrU) : (modArr s a f).clusters = s.clusters := rfl
@[simp] theorem modArr_ports (a : Nat) (f : ArrU → ArrU) : (modArr s a f).ports = s.ports := rfl
@[simp] theorem modArr_ctxs (a : Nat) (f : ArrU → ArrU) : (modArr s a f).ctxs = s.ctxs := rfl
@[simp] theorem modArr_launches (a : Nat) (f : ArrU → ArrU) : (modArr s a f).launches = s.launches := rfl
@[simp] theorem modArr_mem (a : Nat) (f : ArrU → ArrU) : (modArr s a f).mem = s.mem := rfl
@[simp] theorem modArr_poison (a : Nat) (f : ArrU → ArrU) : (modArr s a f).poison = s.poison := rfl
@[simp] theorem modArr_planes (a : Nat) (f : ArrU → ArrU) : (modArr s a f).planes = s.planes := rfl
@[simp] theorem modArr_stacksIn (a : Nat) (f : ArrU → ArrU) : (modArr s a f).stacksIn = s.stacksIn := rfl
@[simp] theorem modArr_fab (a : Nat) (f : ArrU → ArrU) : (modArr s a f).fab = s.fab := rfl
@[simp] theorem modArr_rel (a : Nat) (f : ArrU → ArrU) : (modArr s a f).rel = s.rel := rfl
@[simp] theorem modArr_pwr (a : Nat) (f : ArrU → ArrU) : (modArr s a f).pwr = s.pwr := rfl
@[simp] theorem modArr_sec (a : Nat) (f : ArrU → ArrU) : (modArr s a f).sec = s.sec := rfl
@[simp] theorem modArr_mon (a : Nat) (f : ArrU → ArrU) : (modArr s a f).mon = s.mon := rfl
@[simp] theorem modArr_rack (a : Nat) (f : ArrU → ArrU) : (modArr s a f).rack = s.rack := rfl
@[simp] theorem modArr_watchPhase (a : Nat) (f : ArrU → ArrU) : (modArr s a f).watchPhase = s.watchPhase := rfl
@[simp] theorem modArr_nextUid (a : Nat) (f : ArrU → ArrU) : (modArr s a f).nextUid = s.nextUid := rfl
@[simp] theorem modArr_commits (a : Nat) (f : ArrU → ArrU) : (modArr s a f).commits = s.commits := rfl
@[simp] theorem modArr_dueSeq (a : Nat) (f : ArrU → ArrU) : (modArr s a f).dueSeq = s.dueSeq := rfl
@[simp] theorem modArr_free (a : Nat) (f : ArrU → ArrU) : (modArr s a f).free = s.free := rfl
@[simp] theorem modArr_out (a : Nat) (f : ArrU → ArrU) : (modArr s a f).out = s.out := rfl

@[simp] theorem modCore_pending (k : Nat) (f : CoreU → CoreU) : (modCore s k f).pending = s.pending := rfl
@[simp] theorem modCore_host (k : Nat) (f : CoreU → CoreU) : (modCore s k f).host = s.host := rfl
@[simp] theorem modCore_deviceId (k : Nat) (f : CoreU → CoreU) : (modCore s k f).deviceId = s.deviceId := rfl
@[simp] theorem modCore_topology (k : Nat) (f : CoreU → CoreU) : (modCore s k f).topology = s.topology := rfl
@[simp] theorem modCore_avail (k : Nat) (f : CoreU → CoreU) : (modCore s k f).avail = s.avail := rfl
@[simp] theorem modCore_wbCfg (k : Nat) (f : CoreU → CoreU) : (modCore s k f).wbCfg = s.wbCfg := rfl
@[simp] theorem modCore_wbStat (k : Nat) (f : CoreU → CoreU) : (modCore s k f).wbStat = s.wbStat := rfl
@[simp] theorem modCore_arrays (k : Nat) (f : CoreU → CoreU) : (modCore s k f).arrays = s.arrays := rfl
@[simp] theorem modCore_cores (k : Nat) (f : CoreU → CoreU) : (modCore s k f).cores = tmod CoreU.reset s.cores k f := rfl
@[simp] theorem modCore_clusters (k : Nat) (f : CoreU → CoreU) : (modCore s k f).clusters = s.clusters := rfl
@[simp] theorem modCore_ports (k : Nat) (f : CoreU → CoreU) : (modCore s k f).ports = s.ports := rfl
@[simp] theorem modCore_ctxs (k : Nat) (f : CoreU → CoreU) : (modCore s k f).ctxs = s.ctxs := rfl
@[simp] theorem modCore_launches (k : Nat) (f : CoreU → CoreU) : (modCore s k f).launches = s.launches := rfl
@[simp] theorem modCore_mem (k : Nat) (f : CoreU → CoreU) : (modCore s k f).mem = s.mem := rfl
@[simp] theorem modCore_poison (k : Nat) (f : CoreU → CoreU) : (modCore s k f).poison = s.poison := rfl
@[simp] theorem modCore_planes (k : Nat) (f : CoreU → CoreU) : (modCore s k f).planes = s.planes := rfl
@[simp] theorem modCore_stacksIn (k : Nat) (f : CoreU → CoreU) : (modCore s k f).stacksIn = s.stacksIn := rfl
@[simp] theorem modCore_fab (k : Nat) (f : CoreU → CoreU) : (modCore s k f).fab = s.fab := rfl
@[simp] theorem modCore_rel (k : Nat) (f : CoreU → CoreU) : (modCore s k f).rel = s.rel := rfl
@[simp] theorem modCore_pwr (k : Nat) (f : CoreU → CoreU) : (modCore s k f).pwr = s.pwr := rfl
@[simp] theorem modCore_sec (k : Nat) (f : CoreU → CoreU) : (modCore s k f).sec = s.sec := rfl
@[simp] theorem modCore_mon (k : Nat) (f : CoreU → CoreU) : (modCore s k f).mon = s.mon := rfl
@[simp] theorem modCore_rack (k : Nat) (f : CoreU → CoreU) : (modCore s k f).rack = s.rack := rfl
@[simp] theorem modCore_watchPhase (k : Nat) (f : CoreU → CoreU) : (modCore s k f).watchPhase = s.watchPhase := rfl
@[simp] theorem modCore_nextUid (k : Nat) (f : CoreU → CoreU) : (modCore s k f).nextUid = s.nextUid := rfl
@[simp] theorem modCore_commits (k : Nat) (f : CoreU → CoreU) : (modCore s k f).commits = s.commits := rfl
@[simp] theorem modCore_dueSeq (k : Nat) (f : CoreU → CoreU) : (modCore s k f).dueSeq = s.dueSeq := rfl
@[simp] theorem modCore_free (k : Nat) (f : CoreU → CoreU) : (modCore s k f).free = s.free := rfl
@[simp] theorem modCore_out (k : Nat) (f : CoreU → CoreU) : (modCore s k f).out = s.out := rfl

@[simp] theorem modClus_pending (c : Nat) (f : ClusterU → ClusterU) : (modClus s c f).pending = s.pending := rfl
@[simp] theorem modClus_host (c : Nat) (f : ClusterU → ClusterU) : (modClus s c f).host = s.host := rfl
@[simp] theorem modClus_deviceId (c : Nat) (f : ClusterU → ClusterU) : (modClus s c f).deviceId = s.deviceId := rfl
@[simp] theorem modClus_topology (c : Nat) (f : ClusterU → ClusterU) : (modClus s c f).topology = s.topology := rfl
@[simp] theorem modClus_avail (c : Nat) (f : ClusterU → ClusterU) : (modClus s c f).avail = s.avail := rfl
@[simp] theorem modClus_wbCfg (c : Nat) (f : ClusterU → ClusterU) : (modClus s c f).wbCfg = s.wbCfg := rfl
@[simp] theorem modClus_wbStat (c : Nat) (f : ClusterU → ClusterU) : (modClus s c f).wbStat = s.wbStat := rfl
@[simp] theorem modClus_arrays (c : Nat) (f : ClusterU → ClusterU) : (modClus s c f).arrays = s.arrays := rfl
@[simp] theorem modClus_cores (c : Nat) (f : ClusterU → ClusterU) : (modClus s c f).cores = s.cores := rfl
@[simp] theorem modClus_clusters (c : Nat) (f : ClusterU → ClusterU) : (modClus s c f).clusters = tmod ClusterU.reset s.clusters c f := rfl
@[simp] theorem modClus_ports (c : Nat) (f : ClusterU → ClusterU) : (modClus s c f).ports = s.ports := rfl
@[simp] theorem modClus_ctxs (c : Nat) (f : ClusterU → ClusterU) : (modClus s c f).ctxs = s.ctxs := rfl
@[simp] theorem modClus_launches (c : Nat) (f : ClusterU → ClusterU) : (modClus s c f).launches = s.launches := rfl
@[simp] theorem modClus_mem (c : Nat) (f : ClusterU → ClusterU) : (modClus s c f).mem = s.mem := rfl
@[simp] theorem modClus_poison (c : Nat) (f : ClusterU → ClusterU) : (modClus s c f).poison = s.poison := rfl
@[simp] theorem modClus_planes (c : Nat) (f : ClusterU → ClusterU) : (modClus s c f).planes = s.planes := rfl
@[simp] theorem modClus_stacksIn (c : Nat) (f : ClusterU → ClusterU) : (modClus s c f).stacksIn = s.stacksIn := rfl
@[simp] theorem modClus_fab (c : Nat) (f : ClusterU → ClusterU) : (modClus s c f).fab = s.fab := rfl
@[simp] theorem modClus_rel (c : Nat) (f : ClusterU → ClusterU) : (modClus s c f).rel = s.rel := rfl
@[simp] theorem modClus_pwr (c : Nat) (f : ClusterU → ClusterU) : (modClus s c f).pwr = s.pwr := rfl
@[simp] theorem modClus_sec (c : Nat) (f : ClusterU → ClusterU) : (modClus s c f).sec = s.sec := rfl
@[simp] theorem modClus_mon (c : Nat) (f : ClusterU → ClusterU) : (modClus s c f).mon = s.mon := rfl
@[simp] theorem modClus_rack (c : Nat) (f : ClusterU → ClusterU) : (modClus s c f).rack = s.rack := rfl
@[simp] theorem modClus_watchPhase (c : Nat) (f : ClusterU → ClusterU) : (modClus s c f).watchPhase = s.watchPhase := rfl
@[simp] theorem modClus_nextUid (c : Nat) (f : ClusterU → ClusterU) : (modClus s c f).nextUid = s.nextUid := rfl
@[simp] theorem modClus_commits (c : Nat) (f : ClusterU → ClusterU) : (modClus s c f).commits = s.commits := rfl
@[simp] theorem modClus_dueSeq (c : Nat) (f : ClusterU → ClusterU) : (modClus s c f).dueSeq = s.dueSeq := rfl
@[simp] theorem modClus_free (c : Nat) (f : ClusterU → ClusterU) : (modClus s c f).free = s.free := rfl
@[simp] theorem modClus_out (c : Nat) (f : ClusterU → ClusterU) : (modClus s c f).out = s.out := rfl

@[simp] theorem modPort_pending (p : Nat) (f : PortU → PortU) : (modPort s p f).pending = s.pending := rfl
@[simp] theorem modPort_host (p : Nat) (f : PortU → PortU) : (modPort s p f).host = s.host := rfl
@[simp] theorem modPort_deviceId (p : Nat) (f : PortU → PortU) : (modPort s p f).deviceId = s.deviceId := rfl
@[simp] theorem modPort_topology (p : Nat) (f : PortU → PortU) : (modPort s p f).topology = s.topology := rfl
@[simp] theorem modPort_avail (p : Nat) (f : PortU → PortU) : (modPort s p f).avail = s.avail := rfl
@[simp] theorem modPort_wbCfg (p : Nat) (f : PortU → PortU) : (modPort s p f).wbCfg = s.wbCfg := rfl
@[simp] theorem modPort_wbStat (p : Nat) (f : PortU → PortU) : (modPort s p f).wbStat = s.wbStat := rfl
@[simp] theorem modPort_arrays (p : Nat) (f : PortU → PortU) : (modPort s p f).arrays = s.arrays := rfl
@[simp] theorem modPort_cores (p : Nat) (f : PortU → PortU) : (modPort s p f).cores = s.cores := rfl
@[simp] theorem modPort_clusters (p : Nat) (f : PortU → PortU) : (modPort s p f).clusters = s.clusters := rfl
@[simp] theorem modPort_ports (p : Nat) (f : PortU → PortU) : (modPort s p f).ports = tmod PortU.reset s.ports p f := rfl
@[simp] theorem modPort_ctxs (p : Nat) (f : PortU → PortU) : (modPort s p f).ctxs = s.ctxs := rfl
@[simp] theorem modPort_launches (p : Nat) (f : PortU → PortU) : (modPort s p f).launches = s.launches := rfl
@[simp] theorem modPort_mem (p : Nat) (f : PortU → PortU) : (modPort s p f).mem = s.mem := rfl
@[simp] theorem modPort_poison (p : Nat) (f : PortU → PortU) : (modPort s p f).poison = s.poison := rfl
@[simp] theorem modPort_planes (p : Nat) (f : PortU → PortU) : (modPort s p f).planes = s.planes := rfl
@[simp] theorem modPort_stacksIn (p : Nat) (f : PortU → PortU) : (modPort s p f).stacksIn = s.stacksIn := rfl
@[simp] theorem modPort_fab (p : Nat) (f : PortU → PortU) : (modPort s p f).fab = s.fab := rfl
@[simp] theorem modPort_rel (p : Nat) (f : PortU → PortU) : (modPort s p f).rel = s.rel := rfl
@[simp] theorem modPort_pwr (p : Nat) (f : PortU → PortU) : (modPort s p f).pwr = s.pwr := rfl
@[simp] theorem modPort_sec (p : Nat) (f : PortU → PortU) : (modPort s p f).sec = s.sec := rfl
@[simp] theorem modPort_mon (p : Nat) (f : PortU → PortU) : (modPort s p f).mon = s.mon := rfl
@[simp] theorem modPort_rack (p : Nat) (f : PortU → PortU) : (modPort s p f).rack = s.rack := rfl
@[simp] theorem modPort_watchPhase (p : Nat) (f : PortU → PortU) : (modPort s p f).watchPhase = s.watchPhase := rfl
@[simp] theorem modPort_nextUid (p : Nat) (f : PortU → PortU) : (modPort s p f).nextUid = s.nextUid := rfl
@[simp] theorem modPort_commits (p : Nat) (f : PortU → PortU) : (modPort s p f).commits = s.commits := rfl
@[simp] theorem modPort_dueSeq (p : Nat) (f : PortU → PortU) : (modPort s p f).dueSeq = s.dueSeq := rfl
@[simp] theorem modPort_free (p : Nat) (f : PortU → PortU) : (modPort s p f).free = s.free := rfl
@[simp] theorem modPort_out (p : Nat) (f : PortU → PortU) : (modPort s p f).out = s.out := rfl

@[simp] theorem modCtx_pending (c : BitVec 4) (f : CtxU → CtxU) : (modCtx s c f).pending = s.pending := rfl
@[simp] theorem modCtx_host (c : BitVec 4) (f : CtxU → CtxU) : (modCtx s c f).host = s.host := rfl
@[simp] theorem modCtx_deviceId (c : BitVec 4) (f : CtxU → CtxU) : (modCtx s c f).deviceId = s.deviceId := rfl
@[simp] theorem modCtx_topology (c : BitVec 4) (f : CtxU → CtxU) : (modCtx s c f).topology = s.topology := rfl
@[simp] theorem modCtx_avail (c : BitVec 4) (f : CtxU → CtxU) : (modCtx s c f).avail = s.avail := rfl
@[simp] theorem modCtx_wbCfg (c : BitVec 4) (f : CtxU → CtxU) : (modCtx s c f).wbCfg = s.wbCfg := rfl
@[simp] theorem modCtx_wbStat (c : BitVec 4) (f : CtxU → CtxU) : (modCtx s c f).wbStat = s.wbStat := rfl
@[simp] theorem modCtx_arrays (c : BitVec 4) (f : CtxU → CtxU) : (modCtx s c f).arrays = s.arrays := rfl
@[simp] theorem modCtx_cores (c : BitVec 4) (f : CtxU → CtxU) : (modCtx s c f).cores = s.cores := rfl
@[simp] theorem modCtx_clusters (c : BitVec 4) (f : CtxU → CtxU) : (modCtx s c f).clusters = s.clusters := rfl
@[simp] theorem modCtx_ports (c : BitVec 4) (f : CtxU → CtxU) : (modCtx s c f).ports = s.ports := rfl
@[simp] theorem modCtx_ctxs (c : BitVec 4) (f : CtxU → CtxU) : (modCtx s c f).ctxs = tmod CtxU.reset s.ctxs c.toNat f := rfl
@[simp] theorem modCtx_launches (c : BitVec 4) (f : CtxU → CtxU) : (modCtx s c f).launches = s.launches := rfl
@[simp] theorem modCtx_mem (c : BitVec 4) (f : CtxU → CtxU) : (modCtx s c f).mem = s.mem := rfl
@[simp] theorem modCtx_poison (c : BitVec 4) (f : CtxU → CtxU) : (modCtx s c f).poison = s.poison := rfl
@[simp] theorem modCtx_planes (c : BitVec 4) (f : CtxU → CtxU) : (modCtx s c f).planes = s.planes := rfl
@[simp] theorem modCtx_stacksIn (c : BitVec 4) (f : CtxU → CtxU) : (modCtx s c f).stacksIn = s.stacksIn := rfl
@[simp] theorem modCtx_fab (c : BitVec 4) (f : CtxU → CtxU) : (modCtx s c f).fab = s.fab := rfl
@[simp] theorem modCtx_rel (c : BitVec 4) (f : CtxU → CtxU) : (modCtx s c f).rel = s.rel := rfl
@[simp] theorem modCtx_pwr (c : BitVec 4) (f : CtxU → CtxU) : (modCtx s c f).pwr = s.pwr := rfl
@[simp] theorem modCtx_sec (c : BitVec 4) (f : CtxU → CtxU) : (modCtx s c f).sec = s.sec := rfl
@[simp] theorem modCtx_mon (c : BitVec 4) (f : CtxU → CtxU) : (modCtx s c f).mon = s.mon := rfl
@[simp] theorem modCtx_rack (c : BitVec 4) (f : CtxU → CtxU) : (modCtx s c f).rack = s.rack := rfl
@[simp] theorem modCtx_watchPhase (c : BitVec 4) (f : CtxU → CtxU) : (modCtx s c f).watchPhase = s.watchPhase := rfl
@[simp] theorem modCtx_nextUid (c : BitVec 4) (f : CtxU → CtxU) : (modCtx s c f).nextUid = s.nextUid := rfl
@[simp] theorem modCtx_commits (c : BitVec 4) (f : CtxU → CtxU) : (modCtx s c f).commits = s.commits := rfl
@[simp] theorem modCtx_dueSeq (c : BitVec 4) (f : CtxU → CtxU) : (modCtx s c f).dueSeq = s.dueSeq := rfl
@[simp] theorem modCtx_free (c : BitVec 4) (f : CtxU → CtxU) : (modCtx s c f).free = s.free := rfl
@[simp] theorem modCtx_out (c : BitVec 4) (f : CtxU → CtxU) : (modCtx s c f).out = s.out := rfl

@[simp] theorem modSeal_pending (c : BitVec 4) (f : SealS → SealS) : (modSeal s c f).pending = s.pending := rfl
@[simp] theorem modSeal_host (c : BitVec 4) (f : SealS → SealS) : (modSeal s c f).host = s.host := rfl
@[simp] theorem modSeal_deviceId (c : BitVec 4) (f : SealS → SealS) : (modSeal s c f).deviceId = s.deviceId := rfl
@[simp] theorem modSeal_topology (c : BitVec 4) (f : SealS → SealS) : (modSeal s c f).topology = s.topology := rfl
@[simp] theorem modSeal_avail (c : BitVec 4) (f : SealS → SealS) : (modSeal s c f).avail = s.avail := rfl
@[simp] theorem modSeal_wbCfg (c : BitVec 4) (f : SealS → SealS) : (modSeal s c f).wbCfg = s.wbCfg := rfl
@[simp] theorem modSeal_wbStat (c : BitVec 4) (f : SealS → SealS) : (modSeal s c f).wbStat = s.wbStat := rfl
@[simp] theorem modSeal_arrays (c : BitVec 4) (f : SealS → SealS) : (modSeal s c f).arrays = s.arrays := rfl
@[simp] theorem modSeal_cores (c : BitVec 4) (f : SealS → SealS) : (modSeal s c f).cores = s.cores := rfl
@[simp] theorem modSeal_clusters (c : BitVec 4) (f : SealS → SealS) : (modSeal s c f).clusters = s.clusters := rfl
@[simp] theorem modSeal_ports (c : BitVec 4) (f : SealS → SealS) : (modSeal s c f).ports = s.ports := rfl
@[simp] theorem modSeal_launches (c : BitVec 4) (f : SealS → SealS) : (modSeal s c f).launches = s.launches := rfl
@[simp] theorem modSeal_mem (c : BitVec 4) (f : SealS → SealS) : (modSeal s c f).mem = s.mem := rfl
@[simp] theorem modSeal_poison (c : BitVec 4) (f : SealS → SealS) : (modSeal s c f).poison = s.poison := rfl
@[simp] theorem modSeal_planes (c : BitVec 4) (f : SealS → SealS) : (modSeal s c f).planes = s.planes := rfl
@[simp] theorem modSeal_stacksIn (c : BitVec 4) (f : SealS → SealS) : (modSeal s c f).stacksIn = s.stacksIn := rfl
@[simp] theorem modSeal_fab (c : BitVec 4) (f : SealS → SealS) : (modSeal s c f).fab = s.fab := rfl
@[simp] theorem modSeal_rel (c : BitVec 4) (f : SealS → SealS) : (modSeal s c f).rel = s.rel := rfl
@[simp] theorem modSeal_pwr (c : BitVec 4) (f : SealS → SealS) : (modSeal s c f).pwr = s.pwr := rfl
@[simp] theorem modSeal_sec (c : BitVec 4) (f : SealS → SealS) : (modSeal s c f).sec = s.sec := rfl
@[simp] theorem modSeal_mon (c : BitVec 4) (f : SealS → SealS) : (modSeal s c f).mon = s.mon := rfl
@[simp] theorem modSeal_rack (c : BitVec 4) (f : SealS → SealS) : (modSeal s c f).rack = s.rack := rfl
@[simp] theorem modSeal_watchPhase (c : BitVec 4) (f : SealS → SealS) : (modSeal s c f).watchPhase = s.watchPhase := rfl
@[simp] theorem modSeal_nextUid (c : BitVec 4) (f : SealS → SealS) : (modSeal s c f).nextUid = s.nextUid := rfl
@[simp] theorem modSeal_commits (c : BitVec 4) (f : SealS → SealS) : (modSeal s c f).commits = s.commits := rfl
@[simp] theorem modSeal_dueSeq (c : BitVec 4) (f : SealS → SealS) : (modSeal s c f).dueSeq = s.dueSeq := rfl
@[simp] theorem modSeal_free (c : BitVec 4) (f : SealS → SealS) : (modSeal s c f).free = s.free := rfl
@[simp] theorem modSeal_out (c : BitVec 4) (f : SealS → SealS) : (modSeal s c f).out = s.out := rfl

@[simp] theorem modLaunch_pending (uid : Nat) (f : LaunchS → LaunchS) : (modLaunch s uid f).pending = s.pending := rfl
@[simp] theorem modLaunch_host (uid : Nat) (f : LaunchS → LaunchS) : (modLaunch s uid f).host = s.host := rfl
@[simp] theorem modLaunch_deviceId (uid : Nat) (f : LaunchS → LaunchS) : (modLaunch s uid f).deviceId = s.deviceId := rfl
@[simp] theorem modLaunch_topology (uid : Nat) (f : LaunchS → LaunchS) : (modLaunch s uid f).topology = s.topology := rfl
@[simp] theorem modLaunch_avail (uid : Nat) (f : LaunchS → LaunchS) : (modLaunch s uid f).avail = s.avail := rfl
@[simp] theorem modLaunch_wbCfg (uid : Nat) (f : LaunchS → LaunchS) : (modLaunch s uid f).wbCfg = s.wbCfg := rfl
@[simp] theorem modLaunch_wbStat (uid : Nat) (f : LaunchS → LaunchS) : (modLaunch s uid f).wbStat = s.wbStat := rfl
@[simp] theorem modLaunch_arrays (uid : Nat) (f : LaunchS → LaunchS) : (modLaunch s uid f).arrays = s.arrays := rfl
@[simp] theorem modLaunch_cores (uid : Nat) (f : LaunchS → LaunchS) : (modLaunch s uid f).cores = s.cores := rfl
@[simp] theorem modLaunch_clusters (uid : Nat) (f : LaunchS → LaunchS) : (modLaunch s uid f).clusters = s.clusters := rfl
@[simp] theorem modLaunch_ports (uid : Nat) (f : LaunchS → LaunchS) : (modLaunch s uid f).ports = s.ports := rfl
@[simp] theorem modLaunch_ctxs (uid : Nat) (f : LaunchS → LaunchS) : (modLaunch s uid f).ctxs = s.ctxs := rfl
@[simp] theorem modLaunch_mem (uid : Nat) (f : LaunchS → LaunchS) : (modLaunch s uid f).mem = s.mem := rfl
@[simp] theorem modLaunch_poison (uid : Nat) (f : LaunchS → LaunchS) : (modLaunch s uid f).poison = s.poison := rfl
@[simp] theorem modLaunch_planes (uid : Nat) (f : LaunchS → LaunchS) : (modLaunch s uid f).planes = s.planes := rfl
@[simp] theorem modLaunch_stacksIn (uid : Nat) (f : LaunchS → LaunchS) : (modLaunch s uid f).stacksIn = s.stacksIn := rfl
@[simp] theorem modLaunch_fab (uid : Nat) (f : LaunchS → LaunchS) : (modLaunch s uid f).fab = s.fab := rfl
@[simp] theorem modLaunch_rel (uid : Nat) (f : LaunchS → LaunchS) : (modLaunch s uid f).rel = s.rel := rfl
@[simp] theorem modLaunch_pwr (uid : Nat) (f : LaunchS → LaunchS) : (modLaunch s uid f).pwr = s.pwr := rfl
@[simp] theorem modLaunch_sec (uid : Nat) (f : LaunchS → LaunchS) : (modLaunch s uid f).sec = s.sec := rfl
@[simp] theorem modLaunch_mon (uid : Nat) (f : LaunchS → LaunchS) : (modLaunch s uid f).mon = s.mon := rfl
@[simp] theorem modLaunch_rack (uid : Nat) (f : LaunchS → LaunchS) : (modLaunch s uid f).rack = s.rack := rfl
@[simp] theorem modLaunch_watchPhase (uid : Nat) (f : LaunchS → LaunchS) : (modLaunch s uid f).watchPhase = s.watchPhase := rfl
@[simp] theorem modLaunch_nextUid (uid : Nat) (f : LaunchS → LaunchS) : (modLaunch s uid f).nextUid = s.nextUid := rfl
@[simp] theorem modLaunch_commits (uid : Nat) (f : LaunchS → LaunchS) : (modLaunch s uid f).commits = s.commits := rfl
@[simp] theorem modLaunch_dueSeq (uid : Nat) (f : LaunchS → LaunchS) : (modLaunch s uid f).dueSeq = s.dueSeq := rfl
@[simp] theorem modLaunch_free (uid : Nat) (f : LaunchS → LaunchS) : (modLaunch s uid f).free = s.free := rfl
@[simp] theorem modLaunch_out (uid : Nat) (f : LaunchS → LaunchS) : (modLaunch s uid f).out = s.out := rfl

@[simp] theorem modHost_pending (f : HostIf → HostIf) : (modHost s f).pending = s.pending := rfl
@[simp] theorem modHost_host (f : HostIf → HostIf) : (modHost s f).host = f s.host := rfl
@[simp] theorem modHost_deviceId (f : HostIf → HostIf) : (modHost s f).deviceId = s.deviceId := rfl
@[simp] theorem modHost_topology (f : HostIf → HostIf) : (modHost s f).topology = s.topology := rfl
@[simp] theorem modHost_avail (f : HostIf → HostIf) : (modHost s f).avail = s.avail := rfl
@[simp] theorem modHost_wbCfg (f : HostIf → HostIf) : (modHost s f).wbCfg = s.wbCfg := rfl
@[simp] theorem modHost_wbStat (f : HostIf → HostIf) : (modHost s f).wbStat = s.wbStat := rfl
@[simp] theorem modHost_arrays (f : HostIf → HostIf) : (modHost s f).arrays = s.arrays := rfl
@[simp] theorem modHost_cores (f : HostIf → HostIf) : (modHost s f).cores = s.cores := rfl
@[simp] theorem modHost_clusters (f : HostIf → HostIf) : (modHost s f).clusters = s.clusters := rfl
@[simp] theorem modHost_ports (f : HostIf → HostIf) : (modHost s f).ports = s.ports := rfl
@[simp] theorem modHost_ctxs (f : HostIf → HostIf) : (modHost s f).ctxs = s.ctxs := rfl
@[simp] theorem modHost_launches (f : HostIf → HostIf) : (modHost s f).launches = s.launches := rfl
@[simp] theorem modHost_mem (f : HostIf → HostIf) : (modHost s f).mem = s.mem := rfl
@[simp] theorem modHost_poison (f : HostIf → HostIf) : (modHost s f).poison = s.poison := rfl
@[simp] theorem modHost_planes (f : HostIf → HostIf) : (modHost s f).planes = s.planes := rfl
@[simp] theorem modHost_stacksIn (f : HostIf → HostIf) : (modHost s f).stacksIn = s.stacksIn := rfl
@[simp] theorem modHost_fab (f : HostIf → HostIf) : (modHost s f).fab = s.fab := rfl
@[simp] theorem modHost_rel (f : HostIf → HostIf) : (modHost s f).rel = s.rel := rfl
@[simp] theorem modHost_pwr (f : HostIf → HostIf) : (modHost s f).pwr = s.pwr := rfl
@[simp] theorem modHost_sec (f : HostIf → HostIf) : (modHost s f).sec = s.sec := rfl
@[simp] theorem modHost_mon (f : HostIf → HostIf) : (modHost s f).mon = s.mon := rfl
@[simp] theorem modHost_rack (f : HostIf → HostIf) : (modHost s f).rack = s.rack := rfl
@[simp] theorem modHost_watchPhase (f : HostIf → HostIf) : (modHost s f).watchPhase = s.watchPhase := rfl
@[simp] theorem modHost_nextUid (f : HostIf → HostIf) : (modHost s f).nextUid = s.nextUid := rfl
@[simp] theorem modHost_commits (f : HostIf → HostIf) : (modHost s f).commits = s.commits := rfl
@[simp] theorem modHost_dueSeq (f : HostIf → HostIf) : (modHost s f).dueSeq = s.dueSeq := rfl
@[simp] theorem modHost_free (f : HostIf → HostIf) : (modHost s f).free = s.free := rfl
@[simp] theorem modHost_out (f : HostIf → HostIf) : (modHost s f).out = s.out := rfl

@[simp] theorem modFab_pending (f : FabU → FabU) : (modFab s f).pending = s.pending := rfl
@[simp] theorem modFab_host (f : FabU → FabU) : (modFab s f).host = s.host := rfl
@[simp] theorem modFab_deviceId (f : FabU → FabU) : (modFab s f).deviceId = s.deviceId := rfl
@[simp] theorem modFab_topology (f : FabU → FabU) : (modFab s f).topology = s.topology := rfl
@[simp] theorem modFab_avail (f : FabU → FabU) : (modFab s f).avail = s.avail := rfl
@[simp] theorem modFab_wbCfg (f : FabU → FabU) : (modFab s f).wbCfg = s.wbCfg := rfl
@[simp] theorem modFab_wbStat (f : FabU → FabU) : (modFab s f).wbStat = s.wbStat := rfl
@[simp] theorem modFab_arrays (f : FabU → FabU) : (modFab s f).arrays = s.arrays := rfl
@[simp] theorem modFab_cores (f : FabU → FabU) : (modFab s f).cores = s.cores := rfl
@[simp] theorem modFab_clusters (f : FabU → FabU) : (modFab s f).clusters = s.clusters := rfl
@[simp] theorem modFab_ports (f : FabU → FabU) : (modFab s f).ports = s.ports := rfl
@[simp] theorem modFab_ctxs (f : FabU → FabU) : (modFab s f).ctxs = s.ctxs := rfl
@[simp] theorem modFab_launches (f : FabU → FabU) : (modFab s f).launches = s.launches := rfl
@[simp] theorem modFab_mem (f : FabU → FabU) : (modFab s f).mem = s.mem := rfl
@[simp] theorem modFab_poison (f : FabU → FabU) : (modFab s f).poison = s.poison := rfl
@[simp] theorem modFab_planes (f : FabU → FabU) : (modFab s f).planes = s.planes := rfl
@[simp] theorem modFab_stacksIn (f : FabU → FabU) : (modFab s f).stacksIn = s.stacksIn := rfl
@[simp] theorem modFab_fab (f : FabU → FabU) : (modFab s f).fab = f s.fab := rfl
@[simp] theorem modFab_rel (f : FabU → FabU) : (modFab s f).rel = s.rel := rfl
@[simp] theorem modFab_pwr (f : FabU → FabU) : (modFab s f).pwr = s.pwr := rfl
@[simp] theorem modFab_sec (f : FabU → FabU) : (modFab s f).sec = s.sec := rfl
@[simp] theorem modFab_mon (f : FabU → FabU) : (modFab s f).mon = s.mon := rfl
@[simp] theorem modFab_rack (f : FabU → FabU) : (modFab s f).rack = s.rack := rfl
@[simp] theorem modFab_watchPhase (f : FabU → FabU) : (modFab s f).watchPhase = s.watchPhase := rfl
@[simp] theorem modFab_nextUid (f : FabU → FabU) : (modFab s f).nextUid = s.nextUid := rfl
@[simp] theorem modFab_commits (f : FabU → FabU) : (modFab s f).commits = s.commits := rfl
@[simp] theorem modFab_dueSeq (f : FabU → FabU) : (modFab s f).dueSeq = s.dueSeq := rfl
@[simp] theorem modFab_free (f : FabU → FabU) : (modFab s f).free = s.free := rfl
@[simp] theorem modFab_out (f : FabU → FabU) : (modFab s f).out = s.out := rfl

@[simp] theorem modRel_pending (f : RelU → RelU) : (modRel s f).pending = s.pending := rfl
@[simp] theorem modRel_host (f : RelU → RelU) : (modRel s f).host = s.host := rfl
@[simp] theorem modRel_deviceId (f : RelU → RelU) : (modRel s f).deviceId = s.deviceId := rfl
@[simp] theorem modRel_topology (f : RelU → RelU) : (modRel s f).topology = s.topology := rfl
@[simp] theorem modRel_avail (f : RelU → RelU) : (modRel s f).avail = s.avail := rfl
@[simp] theorem modRel_wbCfg (f : RelU → RelU) : (modRel s f).wbCfg = s.wbCfg := rfl
@[simp] theorem modRel_wbStat (f : RelU → RelU) : (modRel s f).wbStat = s.wbStat := rfl
@[simp] theorem modRel_arrays (f : RelU → RelU) : (modRel s f).arrays = s.arrays := rfl
@[simp] theorem modRel_cores (f : RelU → RelU) : (modRel s f).cores = s.cores := rfl
@[simp] theorem modRel_clusters (f : RelU → RelU) : (modRel s f).clusters = s.clusters := rfl
@[simp] theorem modRel_ports (f : RelU → RelU) : (modRel s f).ports = s.ports := rfl
@[simp] theorem modRel_ctxs (f : RelU → RelU) : (modRel s f).ctxs = s.ctxs := rfl
@[simp] theorem modRel_launches (f : RelU → RelU) : (modRel s f).launches = s.launches := rfl
@[simp] theorem modRel_mem (f : RelU → RelU) : (modRel s f).mem = s.mem := rfl
@[simp] theorem modRel_poison (f : RelU → RelU) : (modRel s f).poison = s.poison := rfl
@[simp] theorem modRel_planes (f : RelU → RelU) : (modRel s f).planes = s.planes := rfl
@[simp] theorem modRel_stacksIn (f : RelU → RelU) : (modRel s f).stacksIn = s.stacksIn := rfl
@[simp] theorem modRel_fab (f : RelU → RelU) : (modRel s f).fab = s.fab := rfl
@[simp] theorem modRel_rel (f : RelU → RelU) : (modRel s f).rel = f s.rel := rfl
@[simp] theorem modRel_pwr (f : RelU → RelU) : (modRel s f).pwr = s.pwr := rfl
@[simp] theorem modRel_sec (f : RelU → RelU) : (modRel s f).sec = s.sec := rfl
@[simp] theorem modRel_mon (f : RelU → RelU) : (modRel s f).mon = s.mon := rfl
@[simp] theorem modRel_rack (f : RelU → RelU) : (modRel s f).rack = s.rack := rfl
@[simp] theorem modRel_watchPhase (f : RelU → RelU) : (modRel s f).watchPhase = s.watchPhase := rfl
@[simp] theorem modRel_nextUid (f : RelU → RelU) : (modRel s f).nextUid = s.nextUid := rfl
@[simp] theorem modRel_commits (f : RelU → RelU) : (modRel s f).commits = s.commits := rfl
@[simp] theorem modRel_dueSeq (f : RelU → RelU) : (modRel s f).dueSeq = s.dueSeq := rfl
@[simp] theorem modRel_free (f : RelU → RelU) : (modRel s f).free = s.free := rfl
@[simp] theorem modRel_out (f : RelU → RelU) : (modRel s f).out = s.out := rfl

@[simp] theorem modPwr_pending (f : PwrU → PwrU) : (modPwr s f).pending = s.pending := rfl
@[simp] theorem modPwr_host (f : PwrU → PwrU) : (modPwr s f).host = s.host := rfl
@[simp] theorem modPwr_deviceId (f : PwrU → PwrU) : (modPwr s f).deviceId = s.deviceId := rfl
@[simp] theorem modPwr_topology (f : PwrU → PwrU) : (modPwr s f).topology = s.topology := rfl
@[simp] theorem modPwr_avail (f : PwrU → PwrU) : (modPwr s f).avail = s.avail := rfl
@[simp] theorem modPwr_wbCfg (f : PwrU → PwrU) : (modPwr s f).wbCfg = s.wbCfg := rfl
@[simp] theorem modPwr_wbStat (f : PwrU → PwrU) : (modPwr s f).wbStat = s.wbStat := rfl
@[simp] theorem modPwr_arrays (f : PwrU → PwrU) : (modPwr s f).arrays = s.arrays := rfl
@[simp] theorem modPwr_cores (f : PwrU → PwrU) : (modPwr s f).cores = s.cores := rfl
@[simp] theorem modPwr_clusters (f : PwrU → PwrU) : (modPwr s f).clusters = s.clusters := rfl
@[simp] theorem modPwr_ports (f : PwrU → PwrU) : (modPwr s f).ports = s.ports := rfl
@[simp] theorem modPwr_ctxs (f : PwrU → PwrU) : (modPwr s f).ctxs = s.ctxs := rfl
@[simp] theorem modPwr_launches (f : PwrU → PwrU) : (modPwr s f).launches = s.launches := rfl
@[simp] theorem modPwr_mem (f : PwrU → PwrU) : (modPwr s f).mem = s.mem := rfl
@[simp] theorem modPwr_poison (f : PwrU → PwrU) : (modPwr s f).poison = s.poison := rfl
@[simp] theorem modPwr_planes (f : PwrU → PwrU) : (modPwr s f).planes = s.planes := rfl
@[simp] theorem modPwr_stacksIn (f : PwrU → PwrU) : (modPwr s f).stacksIn = s.stacksIn := rfl
@[simp] theorem modPwr_fab (f : PwrU → PwrU) : (modPwr s f).fab = s.fab := rfl
@[simp] theorem modPwr_rel (f : PwrU → PwrU) : (modPwr s f).rel = s.rel := rfl
@[simp] theorem modPwr_pwr (f : PwrU → PwrU) : (modPwr s f).pwr = f s.pwr := rfl
@[simp] theorem modPwr_sec (f : PwrU → PwrU) : (modPwr s f).sec = s.sec := rfl
@[simp] theorem modPwr_mon (f : PwrU → PwrU) : (modPwr s f).mon = s.mon := rfl
@[simp] theorem modPwr_rack (f : PwrU → PwrU) : (modPwr s f).rack = s.rack := rfl
@[simp] theorem modPwr_watchPhase (f : PwrU → PwrU) : (modPwr s f).watchPhase = s.watchPhase := rfl
@[simp] theorem modPwr_nextUid (f : PwrU → PwrU) : (modPwr s f).nextUid = s.nextUid := rfl
@[simp] theorem modPwr_commits (f : PwrU → PwrU) : (modPwr s f).commits = s.commits := rfl
@[simp] theorem modPwr_dueSeq (f : PwrU → PwrU) : (modPwr s f).dueSeq = s.dueSeq := rfl
@[simp] theorem modPwr_free (f : PwrU → PwrU) : (modPwr s f).free = s.free := rfl
@[simp] theorem modPwr_out (f : PwrU → PwrU) : (modPwr s f).out = s.out := rfl

@[simp] theorem modSec_pending (f : SecU → SecU) : (modSec s f).pending = s.pending := rfl
@[simp] theorem modSec_host (f : SecU → SecU) : (modSec s f).host = s.host := rfl
@[simp] theorem modSec_deviceId (f : SecU → SecU) : (modSec s f).deviceId = s.deviceId := rfl
@[simp] theorem modSec_topology (f : SecU → SecU) : (modSec s f).topology = s.topology := rfl
@[simp] theorem modSec_avail (f : SecU → SecU) : (modSec s f).avail = s.avail := rfl
@[simp] theorem modSec_wbCfg (f : SecU → SecU) : (modSec s f).wbCfg = s.wbCfg := rfl
@[simp] theorem modSec_wbStat (f : SecU → SecU) : (modSec s f).wbStat = s.wbStat := rfl
@[simp] theorem modSec_arrays (f : SecU → SecU) : (modSec s f).arrays = s.arrays := rfl
@[simp] theorem modSec_cores (f : SecU → SecU) : (modSec s f).cores = s.cores := rfl
@[simp] theorem modSec_clusters (f : SecU → SecU) : (modSec s f).clusters = s.clusters := rfl
@[simp] theorem modSec_ports (f : SecU → SecU) : (modSec s f).ports = s.ports := rfl
@[simp] theorem modSec_ctxs (f : SecU → SecU) : (modSec s f).ctxs = s.ctxs := rfl
@[simp] theorem modSec_launches (f : SecU → SecU) : (modSec s f).launches = s.launches := rfl
@[simp] theorem modSec_mem (f : SecU → SecU) : (modSec s f).mem = s.mem := rfl
@[simp] theorem modSec_poison (f : SecU → SecU) : (modSec s f).poison = s.poison := rfl
@[simp] theorem modSec_planes (f : SecU → SecU) : (modSec s f).planes = s.planes := rfl
@[simp] theorem modSec_stacksIn (f : SecU → SecU) : (modSec s f).stacksIn = s.stacksIn := rfl
@[simp] theorem modSec_fab (f : SecU → SecU) : (modSec s f).fab = s.fab := rfl
@[simp] theorem modSec_rel (f : SecU → SecU) : (modSec s f).rel = s.rel := rfl
@[simp] theorem modSec_pwr (f : SecU → SecU) : (modSec s f).pwr = s.pwr := rfl
@[simp] theorem modSec_sec (f : SecU → SecU) : (modSec s f).sec = f s.sec := rfl
@[simp] theorem modSec_mon (f : SecU → SecU) : (modSec s f).mon = s.mon := rfl
@[simp] theorem modSec_rack (f : SecU → SecU) : (modSec s f).rack = s.rack := rfl
@[simp] theorem modSec_watchPhase (f : SecU → SecU) : (modSec s f).watchPhase = s.watchPhase := rfl
@[simp] theorem modSec_nextUid (f : SecU → SecU) : (modSec s f).nextUid = s.nextUid := rfl
@[simp] theorem modSec_commits (f : SecU → SecU) : (modSec s f).commits = s.commits := rfl
@[simp] theorem modSec_dueSeq (f : SecU → SecU) : (modSec s f).dueSeq = s.dueSeq := rfl
@[simp] theorem modSec_free (f : SecU → SecU) : (modSec s f).free = s.free := rfl
@[simp] theorem modSec_out (f : SecU → SecU) : (modSec s f).out = s.out := rfl

@[simp] theorem modMon_pending (f : MonU → MonU) : (modMon s f).pending = s.pending := rfl
@[simp] theorem modMon_host (f : MonU → MonU) : (modMon s f).host = s.host := rfl
@[simp] theorem modMon_deviceId (f : MonU → MonU) : (modMon s f).deviceId = s.deviceId := rfl
@[simp] theorem modMon_topology (f : MonU → MonU) : (modMon s f).topology = s.topology := rfl
@[simp] theorem modMon_avail (f : MonU → MonU) : (modMon s f).avail = s.avail := rfl
@[simp] theorem modMon_wbCfg (f : MonU → MonU) : (modMon s f).wbCfg = s.wbCfg := rfl
@[simp] theorem modMon_wbStat (f : MonU → MonU) : (modMon s f).wbStat = s.wbStat := rfl
@[simp] theorem modMon_arrays (f : MonU → MonU) : (modMon s f).arrays = s.arrays := rfl
@[simp] theorem modMon_cores (f : MonU → MonU) : (modMon s f).cores = s.cores := rfl
@[simp] theorem modMon_clusters (f : MonU → MonU) : (modMon s f).clusters = s.clusters := rfl
@[simp] theorem modMon_ports (f : MonU → MonU) : (modMon s f).ports = s.ports := rfl
@[simp] theorem modMon_ctxs (f : MonU → MonU) : (modMon s f).ctxs = s.ctxs := rfl
@[simp] theorem modMon_launches (f : MonU → MonU) : (modMon s f).launches = s.launches := rfl
@[simp] theorem modMon_mem (f : MonU → MonU) : (modMon s f).mem = s.mem := rfl
@[simp] theorem modMon_poison (f : MonU → MonU) : (modMon s f).poison = s.poison := rfl
@[simp] theorem modMon_planes (f : MonU → MonU) : (modMon s f).planes = s.planes := rfl
@[simp] theorem modMon_stacksIn (f : MonU → MonU) : (modMon s f).stacksIn = s.stacksIn := rfl
@[simp] theorem modMon_fab (f : MonU → MonU) : (modMon s f).fab = s.fab := rfl
@[simp] theorem modMon_rel (f : MonU → MonU) : (modMon s f).rel = s.rel := rfl
@[simp] theorem modMon_pwr (f : MonU → MonU) : (modMon s f).pwr = s.pwr := rfl
@[simp] theorem modMon_sec (f : MonU → MonU) : (modMon s f).sec = s.sec := rfl
@[simp] theorem modMon_mon (f : MonU → MonU) : (modMon s f).mon = f s.mon := rfl
@[simp] theorem modMon_rack (f : MonU → MonU) : (modMon s f).rack = s.rack := rfl
@[simp] theorem modMon_watchPhase (f : MonU → MonU) : (modMon s f).watchPhase = s.watchPhase := rfl
@[simp] theorem modMon_nextUid (f : MonU → MonU) : (modMon s f).nextUid = s.nextUid := rfl
@[simp] theorem modMon_commits (f : MonU → MonU) : (modMon s f).commits = s.commits := rfl
@[simp] theorem modMon_dueSeq (f : MonU → MonU) : (modMon s f).dueSeq = s.dueSeq := rfl
@[simp] theorem modMon_free (f : MonU → MonU) : (modMon s f).free = s.free := rfl
@[simp] theorem modMon_out (f : MonU → MonU) : (modMon s f).out = s.out := rfl

end Sys2Proof.Laws
end

