-- ==== Sys2Proof/Tests/Slice0.lean ====
section
/-! SUPPORT. The tests of the model: an ill-formed term refused by each check of WellFormed, for every statement with
hypotheses concrete states and operands that meet them, and single commands on small states. -/
set_option Elab.async false
open Sys2Proof Sys2Proof.Machine Sys2Proof.Safety
namespace Sys2Proof.Tests.W
/-- The state that a command leaves. -/
def getNext (o : Host.Outcome State Fault Refusal) : State :=
  match o with
  | .next t => t
  | _ => State.reset
/-- Nothing is poisoned where the list of poisoned granules is empty. -/
theorem unpoisoned_clean (s : State) (h : s.poison = []) (a n : Nat) : Safety.unpoisoned s a n = true :=
  List.all_eq_true.2 fun g _ => by simp only [isPoisoned, h]; rfl
def isNext (o : Host.Outcome State Fault Refusal) : Bool :=
  match o with
  | .next _ => true
  | _ => false
/-- A header of context 0. -/
def h0 : Hdr := ⟨1#16, 0#4, false, false, 7#64⟩
/-- Reported ready, with all stacks. -/
def s0 : State := { State.reset with
  host := { HostIf.reset with ready := true }, sec := { SecU.reset with boot := 8#32 }, stacksIn := 0xFF#8 }
/-- An array in service that idles. -/
def act : ArrU := { ArrU.reset with state := 0#32 }
def putMem (a : Nat) (bs : List Byte) (s : State) : State := { s with mem := memPut s.mem a bs }
def onHost (f : HostIf → HostIf) (s : State) : State := { s with host := f s.host }
def onPwr (f : PwrU → PwrU) (s : State) : State := { s with pwr := f s.pwr }
def onSec (f : SecU → SecU) (s : State) : State := { s with sec := f s.sec }
def onRel (f : RelU → RelU) (s : State) : State := { s with rel := f s.rel }
def onFab (f : FabU → FabU) (s : State) : State := { s with fab := f s.fab }
def onMon (f : MonU → MonU) (s : State) : State := { s with mon := f s.mon }
def withArr (a : Nat) (u : ArrU) (s : State) : State := { s with arrays := tput (s.arrays.filter fun e => e.1 != a) a u }
def withCore (k : Nat) (u : CoreU) (s : State) : State := { s with cores := tput (s.cores.filter fun e => e.1 != k) k u }
def withClus (k : Nat) (u : ClusterU) (s : State) : State := { s with clusters := tput (s.clusters.filter fun e => e.1 != k) k u }
def withPort (k : Nat) (u : PortU) (s : State) : State := { s with ports := tput (s.ports.filter fun e => e.1 != k) k u }
def withCtx (k : Nat) (u : CtxU) (s : State) : State := { s with ctxs := tput (s.ctxs.filter fun e => e.1 != k) k u }
def withLaunch (l : LaunchS) (s : State) : State := { s with launches := s.launches ++ [l] }
/-- A port up with all lanes. -/
def up : PortU := { PortU.reset with stat := 0x3FFFF7FE#32 }
def hi (a : Nat) : List Word := [BitVec.ofNat 32 a, BitVec.ofNat 32 (a / 2 ^ 32)]
/-- A layer: flags are POLICY, SLICE, trained. -/
def mkLayer (num width dw rank8 : Nat) (pol sl tr : Bool) (first count inn out : Nat) : Layer :=
  ⟨[BitVec.ofNat 32 (num * 2 ^ 20 + width * 2 ^ 16 + dw * 2 ^ 12 + rank8 * 2 ^ 8 + (if pol then 128 else 0) + (if sl then 64 else 0)
      + 10 + if tr then 1 else 0),
    BitVec.ofNat 32 (120 * 2 ^ 24 + 8 * 2 ^ 18), BitVec.ofNat 32 first, BitVec.ofNat 32 count, BitVec.ofNat 32 inn, BitVec.ofNat 32 out]
    ++ hi 0x100000 ++ hi 0x1000 ++ hi 0x200000 ++ hi 0x300000 ++ hi 0x400000 ++ hi 0x500000
    ++ hi (if rank8 = 0 then noAddr else 0x700000) ++ hi (if rank8 = 0 then noAddr else 0x780000) ++ hi noAddr ++ hi noAddr ++ hi 0x600000 ++ [0#32, 0#32, 0#32, 0#32], LayerSt.fresh⟩
def ly : Layer := mkLayer 1 8 8 0 false false true 0 1 3 2
def mkLaunch (uid kind : Nat) : LaunchS where
  uid := uid
  ctx := 0
  number := 9
  epoch := 6
  kind := BitVec.ofNat 4 kind
  slot := 0
  fbCap := 16
  clusters := 1
  layers := [1]
  recs := []
  prog := []
  pc := 0
  mb := 0
  state := .running
  recalls := 0
  awaits := []
  signals := []
  waits := []
  told := []
  sealHdr := none
  asked := false
  tableSlot := none
  gather := []
  due := 0
  update := none
  updated := []
  verify := []
  groups := []
  readCv := []
  status := 0
  pending := []
  placed := 0
/-- A context in its epoch 6. -/
def cx : CtxU := { CtxU.reset with live := true, begun := true, epoch := 5, job := 77, sealW := 0x1000#32, milestone := 3 }
def aPkt (op : Nat) (ws : List Word) : Packet := pktW op ws where
  pktW (op : Nat) (ws : List Word) : Packet :=
    { opcode := BitVec.ofNat 16 op, hdr := h0, length := BitVec.ofNat 16 (4 * ws.length), resvOk := true, words := ws, muted := false, seq := 3 }
def lp : Packet := aPkt 0x3030 []
/-- The launch's command runs. -/
def running (uid : Nat) (s : State) : State := onHost (fun h => { h with running := [⟨lp, .launch uid⟩] }) s
def dummyCv : Caravan where
  ctx := 0
  n := 4
  epoch := 6
  ring := 3
  s := 0
  slices := []
  layer := 1
  result := 0x10000
  contrib := none
  bitmap := 0x20000
  rows := 8
  cols := 32
  state := 1
  gen := 0
  restarted := false
  interval := false
  sent := 0
  recv := 0
  halves := []
  final := []
  satBlocks := 0
  maxBump := 0
  bump4 := 0
  invalid := 0
  poison := false
  digital := false
  sat := false
  exact := []
  counts := []
  marks := []
  rowsOf := []
  started := []
  ops := []
/-- Twin set up, its caravanserai in the stacks. -/
def twinS : State := onRel (fun r => { r with twinCfg := 0x80040005, twinBase := 0x00100001 }) s0
def sealL (l : Layer) (s : State) : State := (layerPlanes l).foldl (fun s x => (sealEntriesOf x.plane 0 (sealGroups x.data x.rows x.rowBytes x.group) s).2.2) s
end Sys2Proof.Tests.W
namespace Sys2Proof.Tests
open Sys2Proof.Tests.W

/-! ## Ill-formed commands, one for each check of WellFormed -/

def vop0 : VOp := ⟨0, .drain, .fp32, 0, 0⟩
def flit0 : Flit := ⟨0, List.replicate 224 0, 0, List.replicate 16 0⟩
def pkt0 : Pkt := ⟨0, 0, 0, 0, 0, 0, 0, false, 0, 0, false, []⟩
def cv0 : CvPkt := ⟨0, 0, 0, 0, 0, false, 0, false, false, false, 0, 0, 0, 0, []⟩
theorem test_illformed_refused_1 : (([
    .coefWrite h0 0 0 [],
    .twinTakeover h0 1 [],
    .attest h0 [],
    .commandWindowWrite 4095 [0, 0],
    .replyWindowWrite 4095 [0, 0],
    .windowARead 0x3FFF 2,
    .retrain 18,
    .portDisable 18,
    .arrCfgWrite 4096 .cfg 0,
    .arrTrimWrite 4096 0 0,
    .arrTrimWrite 0 530 0,
    .fmtConfigWrite 512 0 .tcfg 0,
    .fmtConfigWrite 0 256 .tcfg 0,
    .tableSlotWrite 512 0 0 0,
    .tableSlotWrite 0 4 0 0,
    .tableSumReady 512 0,
    .tableSumReady 0 4,
    .coefRowWrite 32 0 0 0,
    .coefRowWrite 0 64 0 0,
    .coefRowWrite 0 0 64 0,
    .coefSumReady 32 0,
    .coefSumReady 0 64,
    .passqHostWrite 512 0 0,
    .ringCfgWrite 16 .cfg 0,
    .regionWrite 32 0,
    .regionSwitchOff 32 .digital] : List Instr).all fun c => !c.wf) = true := by
  decide +kernel
theorem test_illformed_refused_2 : (([
    .regionPowerOn 32 .digital (List.replicate 12 0),
    .regionPowerOn 0 .digital [],
    .regionPowerOnDone 32 .digital,
    .ctiScaleWrite 32 0,
    .productIssue 4096,
    .arrayRead 4096 [],
    .readCompare 4096,
    .reRead 4096 [],
    .productBoundary 4096,
    .calReadCountExpiry 4096,
    .calTimerExpiry 4096,
    .tjSample 32 ⟨0, 0⟩,
    .calSlotFree 32,
    .calibrationEnd 4096 ⟨[], [], []⟩,
    .writeFirstRow 4096 .good,
    .writeIterationEnd 4096 [],
    .writeRowEnd 4096 .good,
    .writeEnd 4096 0,
    .wearCopy 32,
    .productPass 512 0,
    .imageBuild 512,
    .descriptorEnqueue 0 512 [],
    .passIssue 512 .good,
    .drainRowTake 512 false,
    .engineIdle 512,
    .engineWake 512] : List Instr).all fun c => !c.wf) = true := by
  decide +kernel
theorem test_illformed_refused_3 : (([
    .groupReread 512 .good,
    .add { vop0 with core := 512 } ⟨.fp32, []⟩ ⟨.fp32, []⟩,
    .sub { vop0 with core := 512 } ⟨.fp32, []⟩ ⟨.fp32, []⟩,
    .mul { vop0 with core := 512 } ⟨.fp32, []⟩ ⟨.fp32, []⟩,
    .fma { vop0 with core := 512 } ⟨.fp32, []⟩ ⟨.fp32, []⟩ ⟨.fp32, []⟩,
    .max { vop0 with core := 512 } ⟨.fp32, []⟩ ⟨.fp32, []⟩,
    .min { vop0 with core := 512 } ⟨.fp32, []⟩ ⟨.fp32, []⟩,
    .abs { vop0 with core := 512 } ⟨.fp32, []⟩,
    .cvt { vop0 with core := 512 } ⟨.fp32, []⟩,
    .recip { vop0 with core := 512 } ⟨.fp32, []⟩,
    .rsqrt { vop0 with core := 512 } ⟨.fp32, []⟩,
    .sum { vop0 with core := 512 } ⟨.fp32, []⟩,
    .amax { vop0 with core := 512 } ⟨.fp32, []⟩,
    .table { vop0 with core := 512 } 0 ⟨.fp32, []⟩,
    .tableD { vop0 with core := 512 } 0 ⟨.fp32, []⟩ ⟨.fp32, []⟩,
    .wadd 512 0 0 [] [] 0,
    .wadd 0 0 0 [0] [] 0,
    .vectorOpReserved 512 0 0,
    .caravanPacket 18 cv0,
    .waystationSlotFree 32,
    .droopAlarm 32,
    .droopClear 32,
    .stackFail 8,
    .coreSelfTest 512,
    .coreSelfTestEnd 512 false,
    .twinHeartbeat 18] : List Instr).all fun c => !c.wf) = true := by
  decide +kernel
theorem test_illformed_refused_4 : (([
    .stallNotice 0 18,
    .flitReceive 18 flit0,
    .flitReceive 0 { flit0 with slot := [] },
    .flitReceive 0 { flit0 with parity := [] },
    .replayRequest 18 0,
    .packetReceive 18 0 pkt0 0,
    .packetReceive 0 16 pkt0 0,
    .flitTransmit 18,
    .stallTimerExpiry 18 0,
    .courierAdmit 18,
    .laneFail 18 0,
    .laneFail 0 8,
    .portTrainEnd 18 0 (List.replicate 8 0),
    .portTrainEnd 0 0 [],
    .eyeWidthMeasure 18 (List.replicate 8 0),
    .eyeWidthMeasure 0 [],
    .phaseFault 32 0,
    .phaseFault 0 6,
    .uncorePhaseFault 24,
    .fitEnd (4096 * 4095 + 1) 0 (List.replicate 64 0) false,
    .fitEnd 0 (4096 * 4095 + 1) (List.replicate 64 0) false,
    .fitEnd 0 0 [] false,
    .traceResult 4096,
    .traceDeadline 4096] : List Instr).all fun c => !c.wf) = true := by
  decide +kernel

/-! ## Codes: the published check values of CRC-32 and CRC-64 over the digits 1 to 9, CRC-32C of R272 worked bit by bit (initial
value 0, no inversion), and the SHA-256 of "abc" (FIPS 180-4) -/

def digits : List Byte := (List.range 9).map fun i => BitVec.ofNat 8 (0x31 + i)
theorem test_crc32c : crc32c digits = 0x58E3FA20#32 := by decide +kernel
theorem test_crc32 : crc32 digits = 0xCBF43926#32 := by decide +kernel
theorem test_crc64 : crc64 0 digits = 0x6C40DF5F0B497347#64 := by decide +kernel
theorem test_sha256 : (sha256 [0x61, 0x62, 0x63]).take 4 = [0xBA, 0x78, 0x16, 0xBF] := by decide +kernel

/-! ## Single commands -/

/-- NOP is answered OK with no words (Table 11-9). -/
theorem test_nop_answers_ok : ((getNext (exec (.nop h0) s0)).host.replied.map fun r => (r.status, r.res)) = [(0#16, [])] := by
  decide +kernel
/-- BF16 1.5 times 2 in FP32 (R118). -/
theorem test_f32_product : f32Mul 0x3FC00000#32 0x40000000#32 = 0x40400000#32 := by decide +kernel
/-- One rounding to nearest even: 1 + 2^-24 is a tie and stays 1, and 1 + 3 · 2^-24 goes to 1 + 2^-22 (R118). -/
theorem test_f32_tie : f32Add 0x3F800000#32 0x33800000#32 = 0x3F800000#32
    ∧ f32Add 0x3F800000#32 0x34400000#32 = 0x3F800002#32 := by decide +kernel
/-- HST_DEVICE_ID at reset: module 0xD960, stepping B1 (Table 11-14; log entry 7). -/
theorem test_device_id : State.reset.deviceId = 0xD9600002#32 := by decide +kernel
/-- A row that names a unit which the module does not have stops by name (R17). -/
theorem test_missing_unit : isNext (exec (.retrain 18) s0) = false ∧ isNext (exec (.retrain 17) s0) = true := by decide +kernel
/-- The model's own numbers of launches differ while two run. -/
theorem test_launches_distinct : launchesDistinct { withLaunch (mkLaunch 1 4) (withLaunch (mkLaunch 0 1) s0) with nextUid := 2 } := by
  decide +kernel

end Sys2Proof.Tests

namespace Sys2Proof.Tests.W01
open Sys2Proof.Tests.W

def v1 : State := { s0 with pending := [.nop h0, .kick] }
def v2 : State := { s0 with pending := [.memFill h0 64 64 1] }
def v3 : State := (getNext (step { s0 with pending := [.memFill h0 64 64 1] }))
def v4 : State := { s0 with pending := [.kick, .resync] }
def v5 : State := (getNext (step { s0 with pending := [.kick, .resync] }))
def v6 : Instr := (.regWrite h0 0xC0A0000000 5)
def v7 : State := (onSec (fun x => { x with boot := 3 }) s0)
def v8 : List Word := (two 0xC0A0000000 ++ [5])
def v9 : State := (withCtx 0 { cx with dead := true } s0)
theorem next_getNext (o : Host.Outcome State Fault Refusal) (h : isNext o = true) : o = .next (getNext o) := by
  cases o with
  | next t => rfl
  | fault f => cases h
  | refused r => cases h
theorem test_witness_StepRunsTheFrontCommand_01 :
    v1.pending = ((.nop h0) : Instr) :: ([.kick] : List Instr) := 
  by decide +kernel
theorem test_witness_IdleStepPassesOneTick_01 :
    s0.pending = [] ∧ s0.watchPhase < 9765625 := 
  by and_intros <;> decide +kernel
theorem test_witness_WellFormedCommandsRun_01 :
    ((.engineIdle 511) : Instr).wf = true := 
  by decide +kernel
theorem test_witness_OnlyMissingUnitsStop_01 :
    exec ((.engineIdle 512) : Instr) s0 = Host.Outcome.fault ((.noSuchUnit 512) : Fault)
    ∧ 4096 ≤ 4096
    ∧ 512 ≤ 512
    ∧ 18 ≤ 18 := 
  ⟨rfl,
    by decide +kernel,
    by decide +kernel,
    by decide +kernel⟩
theorem test_witness_EveryStepKeepsTheInvariant_01 :
    Safety.Inv v2 ∧ step v2 = Host.Outcome.next v3 := 
  ⟨by decide +kernel, next_getNext _ (by decide +kernel)⟩
theorem test_witness_StepTakesOneCommand_01 :
    step v4 = Host.Outcome.next v5 := 
  next_getNext _ (by decide +kernel)
theorem test_witness_PacketsAreDiscardedWhileNotReady_01 :
    ((commandOf ((.logInfo h0) : Instr)).isSome = true ∧ State.reset.host.ready = false)
    ∧ (([1] : List Byte) ≠ [] ∧ State.reset.host.ready = false) := by
  and_intros <;> decide +kernel
theorem test_witness_TakenPacketsAreCheckedInOrder_01 :
    (commandOf v6 = some (0x1060, h0, v8) ∧ v7.host.ready = true ∧ v7.host.taken = [] ∧ (¬(bootPhase v7 = 8 ∧ v7.host.shutdown = false)) ∧ 0x1060 / 4096 ≠ 0 ∧ 0x1060 / 4096 ≠ 8 ∧ v8.length ≤ 1016)
    ∧ (commandOf ((.epochAbandon h0) : Instr) = some (0x6010, h0, ([] : List Word)) ∧ s0.host.ready = true ∧ s0.host.taken = [] ∧ (bootPhase s0 = 8 ∧ s0.host.shutdown = false) ∧ 0x6010 ∈ [8208, 8272, 12320, 12336, 12352, 20496, 24592] ∧ (ctxU s0 h0.ctx).live = false)
    ∧ (commandOf ((.epochAbandon h0) : Instr) = some (0x6010, h0, ([] : List Word)) ∧ v9.host.ready = true ∧ v9.host.taken = [] ∧ (bootPhase v9 = 8 ∧ v9.host.shutdown = false) ∧ 0x6010 ∈ [8208, 8272, 12320, 12336, 12352, 20496, 24592] ∧ 0x6010 ≠ 12320 ∧ 0x6010 ≠ 12352 ∧ (ctxU v9 h0.ctx).live = true ∧ (ctxU v9 h0.ctx).dead = true)
    ∧ (commandOf ((.devReset h0 3) : Instr) = some (0x0030, h0, ([3] : List Word)) ∧ s0.host.ready = true ∧ s0.host.taken = [] ∧ (bootPhase s0 = 8 ∧ s0.host.shutdown = false) ∧ ((∃ kind, ((.devReset h0 3) : Instr) = Instr.devReset h0 kind ∧ kind ≠ 1 ∧ kind ≠ 2) ∨ (∃ wake, ((.devReset h0 3) : Instr) = Instr.devSleep h0 wake ∧ 64 ≤ BitVec.toNat wake) ∨ (∃ a n, ((.devReset h0 3) : Instr) = Instr.arrayFence h0 a n ∧ 4096 < BitVec.toNat a + BitVec.toNat n) ∨ (∃ ports, ((.devReset h0 3) : Instr) = Instr.portRetrain h0 ports ∧ 2 ^ 18 ≤ BitVec.toNat ports) ∨ (∃ twin, ((.devReset h0 3) : Instr) = Instr.twinPull h0 twin ∧ 2 ^ 18 ≤ BitVec.toNat twin) ∨ (∃ k u, ((.devReset h0 3) : Instr) = Instr.unitFence h0 k u ∧ k ≠ 1 ∧ k ≠ 4) ∨ (∃ w, ((.devReset h0 3) : Instr) = Instr.pwrLimit h0 w ∧ (BitVec.toNat w < 600 ∨ 2400 < BitVec.toNat w)) ∨ (∃ a n, ((.devReset h0 3) : Instr) = Instr.regRead h0 a n ∧ (n = 0 ∨ 12 < BitVec.toNat n ∨ BitVec.toNat a % 4 ≠ 0 ∨ BitVec.toNat a < 827318075392)) ∨ (∃ k n, ((.devReset h0 3) : Instr) = Instr.imageLoad h0 k n ∧ k ≠ 1 ∧ k ≠ 2) ∨ ∃ q n, ((.devReset h0 3) : Instr) = Instr.logRead h0 q n ∧ (n = 0 ∨ 65536 < BitVec.toNat n))) := 
  ⟨by and_intros <;> decide +kernel,
    by and_intros <;> decide +kernel,
    by and_intros <;> decide +kernel,
    ⟨by decide +kernel, by decide +kernel, by decide +kernel, by decide +kernel, .inl ⟨3, rfl, by decide, by decide⟩⟩⟩
theorem test_witness_DeviceCommandsComplete_01 :
    (legal (Instr.nop h0) s0 = true ∧ legal (Instr.devInfo h0) s0 = true ∧ legal (Instr.devStatus h0) s0 = true ∧ (¬(2 ≤ bootPhase s0 ∧ bootPhase s0 ≤ 7)) ∧ anyCtx s0 = false ∧ legal (Instr.devShutdown h0) s0 = true)
    ∧ (legal (Instr.devReset h0 (1#32)) s0 = true ∧ s0.pwr.state = PowerState.awake ∧ s0.pwr.resetReq = none)
    ∧ ((¬(2 ≤ bootPhase ((withCtx 3 cx s0) : State) ∧ bootPhase ((withCtx 3 cx s0) : State) ≤ 7)) ∧ anyCtx ((withCtx 3 cx s0) : State) = true ∧ legal (Instr.devSleep h0 (63#32)) ((withCtx 3 cx s0) : State) = true) := by
  and_intros <;> decide +kernel
end Sys2Proof.Tests.W01

namespace Sys2Proof.Tests.W02
open Sys2Proof.Tests.W

def v1 : State := (putMem 0x1000 [1,2,3,4,5,6,7,8] s0)
def v2 : State := (withArr 5 { act with evcnt := 77 } s0)
def v3 : State := (withCtx 0 { cx with layers := [(1, ly)] } (withArr 0 act s0))
def v4 : State := (withCtx 0 { cx with layers := [(1, ly)] } (withArr 0 { act with state := 0x20000 } s0))
def v5 : State := (withArr 3 act (withArr 4 act s0))
def v6 : State := (withCtx 0 { cx with layers := [(1, ly)] } (withArr 0 { act with cfg := 0x00018001, wrstat := 1 } s0))
def v7 : State := (withLaunch (mkLaunch 0 0) (withCtx 0 { cx with layers := [(1, ly)] } (withArr 0 act s0)))
def v8 : State := (withCtx 0 cx (withLaunch (mkLaunch 0 0) s0))
def v9 : State := (withCtx 0 { cx with dead := true, layers := [(1, ly)] } (withLaunch (mkLaunch 0 0) (onRel (fun r => { r with term := 0xFF }) s0)))
def v10 : State := (withCtx 1 cx (withCtx 0 cx s0))
def v11 : State := (withCtx 0 { cx with sealW := 0 } s0)
/-- No array writes where no array in the table does. -/
theorem not_writing (s : State) (h : (s.arrays.all fun e =>
    !(fld e.2.state 1 0 == 1 && !(bit e.2.state 17 && !e.2.retest))) = true) (a : Nat) : arrayWriting s a = false := by
  have h0 : ∀ t : Tab ArrU, (t.all fun e => !(fld e.2.state 1 0 == 1 && !(bit e.2.state 17 && !e.2.retest))) = true →
      (!(fld (tget ArrU.reset t a).state 1 0 == 1
        && !(bit (tget ArrU.reset t a).state 17 && !(tget ArrU.reset t a).retest))) = true := by
    intro t ht
    induction t with
    | nil =>
      show (!(fld ArrU.reset.state 1 0 == 1 && !(bit ArrU.reset.state 17 && !ArrU.reset.retest))) = true
      decide
    | cons e t ih =>
      simp only [List.all_cons, Bool.and_eq_true] at ht
      simp only [tget]
      split
      · exact ht.1
      · exact ih ht.2
  exact cast (Bool.not_eq_true' _) (h0 s.arrays h)
theorem test_witness_MemoryCommandsComplete_02 :
    legal (Instr.memWrite h0 (0x1000#64) (64#64)) s0 = true
    ∧ (legal (Instr.memRead h0 (0x1000#64) (64#32)) v1 = true ∧ v1.host.outBound = false ∧ v1.host.running.any isOutbound = false ∧ ownStacks v1 (0x1000#64) (BitVec.toNat (64#32)) = true ∧ unawaited v1 (0x1000#64) (BitVec.toNat (64#32)) = true ∧ unpoisoned v1 (localOf (0x1000#64)) (BitVec.toNat (64#32)) = true ∧ intact v1 (localOf (0x1000#64)) (BitVec.toNat (64#32)) = true)
    ∧ (legal (Instr.memCopy h0 (0x1000#64) (0x2000#64) (64#64)) v1 = true ∧ ownStacks v1 (0x1000#64) (BitVec.toNat (64#64)) = true ∧ ownStacks v1 (0x2000#64) (BitVec.toNat (64#64)) = true ∧ unawaited v1 (0x1000#64) (BitVec.toNat (64#64)) = true ∧ unawaited v1 (0x2000#64) (BitVec.toNat (64#64)) = true ∧ unpoisoned v1 (localOf (0x1000#64)) (BitVec.toNat (64#64)) = true ∧ rangesMeet (localOf (0x1000#64)) (BitVec.toNat (64#64)) (localOf (0x2000#64)) (BitVec.toNat (64#64)) = false ∧ (groupsMet v1 (localOf (0x1000#64)) (BitVec.toNat (64#64)) = [] ∨ intact v1 (localOf (0x1000#64)) (BitVec.toNat (64#64)) = true ∧ BitVec.toNat (64#64) ≤ toBoundary (localOf (0x1000#64)) ∧ BitVec.toNat (64#64) ≤ toBoundary (localOf (0x2000#64))) ∧ aloof v1 (localOf (0x2000#64)) (BitVec.toNat (64#64)) (localOf (0x1000#64)) (BitVec.toNat (64#64)) ∧ aloof v1 (localOf (0x2000#64)) (BitVec.toNat (64#64)) (localOf (0x2000#64)) (BitVec.toNat (64#64)))
    ∧ (legal (Instr.memFill h0 (0x2000#64) (64#64) (0x1122334455667788#64)) v1 = true ∧ ownStacks v1 (0x2000#64) (BitVec.toNat (64#64)) = true ∧ unawaited v1 (0x2000#64) (BitVec.toNat (64#64)) = true ∧ aloof v1 (localOf (0x2000#64)) (BitVec.toNat (64#64)) (localOf (0x2000#64)) (BitVec.toNat (64#64)))
    ∧ (legal (Instr.checkSeal h0 (0x1000#64) (0x4000#64) 1 (4#32) (0x10#32)) v1 = true ∧ 0 < BitVec.toNat (4#32) ∧ BitVec.toNat (4#32) ≤ sealGroupBytes (0x10#32) ∧ inStacks v1 (BitVec.toNat (0x1000#64)) (BitVec.toNat (4#32)) = true ∧ inStacks v1 (BitVec.toNat (0x4000#64)) 8 = true ∧ unpoisoned v1 (BitVec.toNat (0x1000#64)) (BitVec.toNat (4#32)) = true) := by
  and_intros <;> decide +kernel
theorem test_witness_RegisterCommandsComplete_02 :
    legal (Instr.regRead h0 (0xC0A0000000#64) (12#32)) s0 = true
    ∧ legal (Instr.regRead h0 827318075392 1) s0 = true
    ∧ (5 < 4096 ∧ BitVec.toNat (0xC0A4005018#64) = 827385184280 + 4096 * 5 ∧ legal (Instr.regRead h0 (0xC0A4005018#64) 1) v2 = true)
    ∧ (legal (Instr.regWrite h0 (0xC0A000200C#64) (100#32)) s0 = true ∧ BitVec.toNat (0xC0A000200C#64) / 4 * 4 ≠ 827318084096 ∧ BitVec.toNat (0xC0A000200C#64) / 4 * 4 ≠ 827318084100)
    ∧ legal (Instr.regWrite h0 827318084096 (7#32)) s0 = true := by
  and_intros <;> decide +kernel
theorem test_witness_RegisterWritesFollowTheirAccessCodes_02 :
    BitVec.toNat (0xC0A0000120 : Addr) = 827318075680
    ∧ BitVec.toNat (0xC0A0001008 : Addr) = 827318079496
    ∧ BitVec.toNat (0xC0A0002010 : Addr) = 827318083600
    ∧ (4095 < 4096 ∧ BitVec.toNat (0xC0A4FFF014 : Addr) = 827385184276 + 4096 * 4095)
    ∧ BitVec.toNat (0xC0A000200C : Addr) = 827318083596
    ∧ (BitVec.toNat (0xC0A0000000 : Addr) = 827318075392 ∨ BitVec.toNat (0xC0A0000000 : Addr) = 827318075408 ∨ BitVec.toNat (0xC0A0000000 : Addr) = 827333804032) := by
  and_intros <;> decide +kernel
theorem test_witness_RegisterReadsHandOutClearAndLatch_02 :
    (511 < 512 ∧ BitVec.toNat (0xC0A3FF0010 : Addr) = 827351629840 + 65536 * 511)
    ∧ BitVec.toNat (0xC0A000100C : Addr) = 827318079500 := by
  and_intros <;> decide +kernel
theorem test_witness_ArrayCommandsComplete_02 :
    (legal (Instr.arrayWrite h0 (1#32)) v3 = true ∧ layerRec v3 h0.ctx (fld (1#32) 11 0) = some ly ∧ (List.filter (fun a => !arrFenced v3 a) (lArrays ly) ≠ []))
    ∧ (legal (Instr.arrayWrite h0 (1#32)) v4 = true ∧ layerRec v4 h0.ctx (fld (1#32) 11 0) = some ly ∧ (List.filter (fun a => !arrFenced v4 a) (lArrays ly) = []))
    ∧ (legal (Instr.arrayCalibrate h0 (3#32) (2#32)) v5 = true ∧ (List.filter (fun a => !arrFenced v5 a) (List.map (fun x => BitVec.toNat (3#32) + x) (List.range (BitVec.toNat (2#32)))) ≠ []) ∧ legal (Instr.arrayRefresh h0 (3#32) (2#32)) v5 = true)
    ∧ (legal (Instr.arrayCalibrate h0 (2#32) (0#32)) s0 = true ∧ legal (Instr.arrayRefresh h0 (2#32) (0#32)) s0 = true ∧ (List.filter (fun a => !arrFenced s0 a) (List.map (fun x => BitVec.toNat (2#32) + x) (List.range (BitVec.toNat (0#32)))) = []))
    ∧ (legal (Instr.arrayFence h0 (4095#32) 1) ((withArr 4095 act s0) : State) = true ∧ bit (arr ((withArr 4095 act s0) : State) (BitVec.toNat (4095#32))).state 17 = false ∧ ((withArr 4095 act s0) : State).launches = [] ∧ ((withArr 4095 act s0) : State).host.running = [])
    ∧ (legal (Instr.arrayFence h0 (4#32) (0#32)) s0 = true ∧ (∀ i < BitVec.toNat (0#32), bit (arr s0 (BitVec.toNat (4#32) + i)).state 17 = true)) := by
  and_intros <;> decide +kernel
theorem test_witness_LayerRemoveClearsTheArrays_02 :
    (legal (Instr.layerRemove h0 (1#32)) v6 = true ∧ layerRec v6 h0.ctx (BitVec.toNat (1#32)) = some ly ∧ layerInUse v6 h0.ctx (BitVec.toNat (1#32)) = false ∧ layerWriting v6 ly = false)
    ∧ (legal (Instr.layerRemove h0 (1#32)) v7 = true ∧ layerRec v7 h0.ctx (BitVec.toNat (1#32)) = some ly ∧ (layerInUse v7 h0.ctx (BitVec.toNat (1#32)) = true ∨ layerWriting v7 ly = true)) := by
  and_intros <;> decide +kernel
theorem test_witness_ContextCommandsComplete_02 :
    legal (Instr.ctxCreate h0 (1#32) (0#32) (5#64)) s0 = true
    ∧ legal (Instr.ctxStatus h0) v8 = true
    ∧ (legal (Instr.ctxDestroy h0) v9 = true ∧ (∀ (a : ℕ), arrayWriting v9 a = false))
    ∧ (legal (Instr.ctxDestroy h0) v10 = true ∧ ctxLaunches v10 h0.ctx = [] ∧ (ctxU v10 h0.ctx).layers = [] ∧ (∀ v ∈ v10.fab.caravans, v.ctx ≠ h0.ctx)) := 
  ⟨by decide +kernel,
    by decide +kernel,
    ⟨by decide +kernel, not_writing _ (by decide +kernel)⟩,
    by and_intros <;> decide +kernel⟩
theorem test_witness_EpochAbandonDropsTheOpenEpoch_02 :
    (legal (Instr.epochAbandon h0) v11 = true ∧ launchesDistinct v11 ∧ sealState (ctxU v11 h0.ctx) = 0)
    ∧ (legal (Instr.epochAbandon h0) ((withCtx 0 cx s0) : State) = true ∧ launchesDistinct ((withCtx 0 cx s0) : State) ∧ sealState (ctxU ((withCtx 0 cx s0) : State) h0.ctx) ≠ 0) := by
  and_intros <;> decide +kernel
end Sys2Proof.Tests.W02

namespace Sys2Proof.Tests.W03
open Sys2Proof.Tests.W

def v1 : List Word := ([0x3F800000#32] ++ List.replicate 12 0 ++ [0x8] ++ [0,0])
def v2 : State := (withPort 3 up (withPort 17 { up with stat := 0x3FFFF03D } s0))
def v3 : State := (withPort 3 up (withPort 17 up s0))
def v4 : State := (onSec (fun x => { x with events := [(1,511,0),(2,511,0),(1,3,5)], permanent := [(1,511),(2,511)] }) s0)
def v5 : State := (onSec (fun x => { x with events := [(3,1029,0),(2,511,0),(1,3,5)], permanent := [(3,1029),(2,511)] }) s0)
def v6 : State := (onRel (fun r => { r with twinCfg := 0x80000005 }) s0)
def v7 : State := (putMem (ownTwinBase twinS + 0x44 + 64) [9,0,0,0,2,0,0,0] twinS)
def v8 : State := (withPort 8 up (withPort 0 up (withPort 1 up (withPort 2 up (withPort 9 up s0)))))
def v9 : State := (onRel (fun r => { r with twinStat := 0x80000000, mirror := [(3,1)] }) s0)
def v10 : State := (onRel (fun r => { r with twinStat := 0x80000000 }) s0)
def v11 : State := (onRel (fun r => { r with twinStat := 0x40000000 }) (onHost (fun h => { h with running := [⟨lp, .twinPair⟩] }) s0))
def v12 : State := (onMon (fun m => { m with fit := 1 }) s0)
def v13 : State := (onMon (fun m => { m with owner := 1 }) s0)
def v14 : State := (onSec (fun x => { x with boot := 0x80008 }) s0)
/-- With no range of the partner's in the way. The partner's ranges are opaque (log entry 18). -/
theorem pair_not_refused (h : Config.partnerRanges (partner twinS) = []) : pairRefused twinS = false := by
  simp only [pairRefused, h, List.append_nil]
  decide +kernel
theorem test_witness_CoefficientAndRingCommandsComplete_03 :
    legal (Instr.coefWrite h0 (5#32) (63#32) v1) s0 = true ∧ (∀ c < 32, bit (5#32) c = true → clusterOut s0 c = false) ∧ (∀ f < 16, if f = 13 then ctrlBad (v1.getD f 0) = false else isFiniteF32 (v1.getD f 0) = true) := 
  by and_intros <;> decide +kernel
theorem test_witness_LinkCommandsComplete_03 :
    legal (Instr.linkStatus h0) v2 = true
    ∧ (legal (Instr.portRetrain h0 (0x20008#32)) v3 = true ∧ (∀ q ∈ List.filter (fun q => bit (0x20008#32) q) (List.range 18), bit (port v3 q).ctl 2 = false ∧ (port v3 q).queue = []) ∧ (List.filter (fun q => bit (0x20008#32) q) (List.range 18) ≠ []))
    ∧ (legal (Instr.portRetrain h0 (0#32)) s0 = true ∧ (∀ q ∈ List.filter (fun q => bit (0#32) q) (List.range 18), bit (port s0 q).ctl 2 = false ∧ (port s0 q).queue = []) ∧ (List.filter (fun q => bit (0#32) q) (List.range 18) = [])) := by
  and_intros <;> decide +kernel
theorem test_witness_UnitCommandsComplete_03 :
    (legal (Instr.unitClear h0 1 (511#32) (0#32)) v4 = true ∧ clusterOut v4 (BitVec.toNat (511#32) / 16) = false)
    ∧ (legal (Instr.unitClear h0 2 (511#32) (0#32)) v4 = true ∧ coreFenced v4 (BitVec.toNat (511#32) / 8) = false)
    ∧ (((3#32) = 3 ∨ (3#32) = 4 ∨ (3#32) = 5) ∧ legal (Instr.unitClear h0 (3#32) (1#32) (5#32)) v5 = true)
    ∧ (legal (Instr.unitFence h0 1 (0#32)) s0 = true ∧ bit s0.rel.coreFence (BitVec.toNat (0#32)) = false ∧ s0.launches = [] ∧ s0.host.running = [])
    ∧ (legal (Instr.unitFence h0 4 (143#32)) s0 = true ∧ bit (port s0 (BitVec.toNat (143#32) / 8)).stat (2 + BitVec.toNat (143#32) % 8) = false) := by
  and_intros <;> decide +kernel
theorem test_witness_TwinCommandsComplete_03_1 :
    (legal (Instr.twinPair h0) s0 = true ∧ (twinState s0 ≠ 0 ∨ bit s0.rel.twinCfg 31 = false))
    ∧ (legal (Instr.twinPair h0) v6 = true ∧ twinState v6 = 0 ∧ bit v6.rel.twinCfg 31 = true ∧ pairRefused v6 = true)
    ∧ (legal (Instr.twinPair h0) twinS = true ∧ twinState twinS = 0 ∧ bit twinS.rel.twinCfg 31 = true ∧ (Config.partnerRanges (partner twinS) = [] → pairRefused twinS = false))
    ∧ (legal (Instr.twinTakeover h0 1 [((2#32), (9#32))]) twinS = true ∧ takeoverCase twinS (BitVec.toNat (2#32)) (BitVec.toNat (9#32)) = none)
    ∧ (legal (Instr.twinTakeover h0 1 [((2#32), (9#32))]) v7 = true ∧ takeoverCase v7 (BitVec.toNat (2#32)) (BitVec.toNat (9#32)) = some false)
    ∧ (legal (Instr.twinPull h0 (5#32)) ((withCtx 3 cx twinS) : State) = true ∧ anyCtx ((withCtx 3 cx twinS) : State) = true)
    ∧ (legal (Instr.twinPull h0 (5#32)) v8 = true ∧ anyCtx v8 = false ∧ BitVec.ofNat 18 (BitVec.toNat (5#32)) ≠ ownId v8 ∧ (∀ i < 16, (route v8 false (BitVec.ofNat 18 (BitVec.toNat (5#32))) i).isSome = true))
    ∧ (legal (Instr.twinPull h0 (5#32)) s0 = true ∧ anyCtx s0 = false ∧ BitVec.ofNat 18 (BitVec.toNat (5#32)) ≠ ownId s0 ∧ (∀ i < 16, route s0 false (BitVec.ofNat 18 (BitVec.toNat (5#32))) i = none))
    ∧ (legal (Instr.twinUnpair h0) v9 = true ∧ twinState v9 ≠ 0 ∧ v9.rel.mirror ≠ []) := 
  ⟨by and_intros <;> decide +kernel,
    by and_intros <;> decide +kernel,
    ⟨by decide +kernel, by decide +kernel, by decide +kernel, pair_not_refused⟩,
    by and_intros <;> decide +kernel,
    by and_intros <;> decide +kernel,
    by and_intros <;> decide +kernel,
    by and_intros <;> decide +kernel,
    by and_intros <;> decide +kernel,
    by and_intros <;> decide +kernel⟩
theorem test_witness_TwinCommandsComplete_03_2 :
    legal (Instr.twinUnpair h0) v10 = true ∧ twinState v10 ≠ 0 ∧ v10.rel.mirror = [] ∧ v10.host.running = [] := 
  by and_intros <;> decide +kernel
theorem test_witness_TwinEventsTakeEffect_03 :
    (twinState s0 = 0 ∧ (twinState s0 = 0 ∨ twinState s0 = 3))
    ∧ (twinState v11 ≠ 0 ∧ v11.rel.mirrorHeld = [] ∧ (twinState v11 = 1 ∨ twinState v11 = 2) ∧ (∀ r ∈ v11.host.running, r.task ≠ Task.twinUnpair) ∧ bit v11.rel.twinCfg 30 = false)
    ∧ twinState v11 = 1
    ∧ (twinState v10 ≠ 0 ∧ inStacks v10 (ownTwinBase v10) 576 = true ∧ aloof v10 (ownTwinBase v10 + 80 + 32 * (3#4).toNat) 8 (ownTwinBase v10 + 68 + 32 * (3#4).toNat) 4) := by
  and_intros <;> decide +kernel
theorem test_witness_PowerAndCalibrationCommandsComplete_03 :
    legal (Instr.pwrLimit h0 (600#32)) s0 = true
    ∧ (legal (Instr.calSystem h0) v12 = true ∧ v12.mon.fit ≠ 0#2)
    ∧ (legal (Instr.calSave h0 (0#64) (4554943#32)) s0 = true ∧ BitVec.toNat (4554943#32) < 4554944)
    ∧ (legal (Instr.calRestore h0 (0#64) (4554944#32)) s0 = true ∧ s0.mon.fit = 0#2 ∧ s0.host.running = [] ∧ inStacks s0 (BitVec.toNat (0#64)) (BitVec.toNat (4554944#32)) = true ∧ unpoisoned s0 (BitVec.toNat (0#64)) (BitVec.toNat (4554944#32)) = true ∧ memGet s0 (BitVec.toNat (0#64)) 4 ≠ leBytes 4 1)
    ∧ (legal (Instr.monSample h0 (5#32) (9#32) (0x1000#64)) s0 = true ∧ s0.mon.owner = 0#3 ∧ s0.mon.waiting = [] ∧ s0.host.running = [])
    ∧ (legal (Instr.monSample h0 (5#32) (9#32) (0x1000#64)) v13 = true ∧ v13.mon.owner ≠ 0#3) := 
  ⟨by decide +kernel,
    by and_intros <;> decide +kernel,
    by and_intros <;> decide +kernel,
    ⟨by decide +kernel, by decide +kernel, by decide +kernel, by decide +kernel, unpoisoned_clean _ rfl _ _, by decide +kernel⟩,
    by and_intros <;> decide +kernel,
    by and_intros <;> decide +kernel⟩
theorem test_witness_RecordCommandsComplete_03 :
    (legal (Instr.attest h0 ((List.replicate 8 7) : List Word)) v14 = true ∧ bit v14.sec.boot 19 = true)
    ∧ (legal (Instr.attest h0 ((List.replicate 8 7) : List Word)) s0 = true ∧ bit s0.sec.boot 19 = false ∧ s0.host.outBound = false ∧ s0.host.running.any isOutbound = false)
    ∧ legal (Instr.imageLoad h0 (2#32) (131072#32)) s0 = true
    ∧ (legal (Instr.logRead h0 (0#64) (65536#32)) s0 = true ∧ s0.host.outBound = false ∧ s0.host.running.any isOutbound = false ∧ (List.filter (fun r => decide (BitVec.toNat (0#64) ≤ BitVec.toNat r.seq)) (shownRecords s0) = [])) := by
  and_intros <;> decide +kernel
end Sys2Proof.Tests.W03

namespace Sys2Proof.Tests.W04
open Sys2Proof.Tests.W
def lg : State := (logAdd 0x07 [1,2,3] (logAdd 0x07 [1,2,3,4] s0))
def hd (l : List LogRec) : LogRec := match l with | a :: _ => a | [] => ⟨0,false,0,0,0,0,[]⟩
def v1 : State := (putMem (ownTwinBase twinS + 0x44 + 64) [8,0,0,0,2,0,0,0] twinS)
theorem test_witness_CoefficientAndRingCommandsComplete_04 :
    legal (Instr.ringSet h0 (0x1C#32) (8#32) (7#32) (0#32) (0x1000#64)) ((withCtx 0 cx s0) : State) = true := 
  by decide +kernel
theorem test_witness_TwinCommandsComplete_04 :
    legal (Instr.twinTakeover h0 1 [((2#32), (9#32))]) v1 = true ∧ takeoverCase v1 (BitVec.toNat (2#32)) (BitVec.toNat (9#32)) = some true ∧ inStacks v1 (ownTwinBase v1) 576 = true ∧ aloof v1 (ownTwinBase v1 + 80 + 32 * BitVec.toNat (2#32)) 8 (ownTwinBase v1 + 68 + 32 * BitVec.toNat (2#32)) 4 := 
  by and_intros <;> decide +kernel
theorem test_witness_RecordCommandsComplete_04 :
    (legal (Instr.logRead h0 (0#64) (65536#32)) lg = true ∧ lg.host.outBound = false ∧ lg.host.running.any isOutbound = false ∧ (List.filter (fun r => decide (BitVec.toNat (0#64) ≤ BitVec.toNat r.seq)) (shownRecords lg) = ((hd (shownRecords lg)) : LogRec) :: ((shownRecords lg).tail : List LogRec)) ∧ (recordBytes ((hd (shownRecords lg)) : LogRec)).length ≤ BitVec.toNat (65536#32))
    ∧ legal (Instr.logInfo h0) lg = true := by
  and_intros <;> decide +kernel
end Sys2Proof.Tests.W04

namespace Sys2Proof.Tests.W05
open Sys2Proof.Tests.W
def pk0 : List Byte := [0x10,0,1,0,0,0,0,0, 7,0,0,0,0,0,0,0] ++ List.replicate 16 0
def mwR : Run := ⟨aPkt 0x1010 [0x1000,0,3,0], .memWrite 0x1000 3 0 [] []⟩
def mwS : State := onHost (fun h => { h with running := [mwR, ⟨lp, .twinPair⟩] }) s0
def v1 : State := (onHost (fun h => { h with taken := [aPkt 0x10 []] }) s0)
def v2 : State := (onHost (fun h => { h with taken := [aPkt 0x3030 [0,0,64]] }) s0)
def v3 : State := (onHost (fun h => { h with tail := 0x7F, head := 0x40, replied := [⟨0, { h0 with irq := true }, 0x10, [1,2,3], 0⟩] }) s0)
def v4 : Reply := (⟨0, { h0 with irq := true }, 0x10, [1,2,3], 0⟩)
def v5 : State := (onHost (fun h => { h with tail := 0x3F, head := 0x7F, replied := [⟨0, h0, 0x10, [1,2,3], 0⟩] }) s0)
def v6 : List (Option Byte) := [some 1, none, some 2, some 3]
def v7 : State := (onHost (fun h => { h with outBound := true, outBuf := [1,2,3] }) s0)
def v8 : State := (onHost (fun h => { h with taken := [aPkt 0x10 []], ready := false, full := true, replied := [⟨0, h0, 0x10, [1,2,3], 0⟩], err := 0xFF, head := 5, outBuf := [1], tail := 6, irqCause := 5, linkUp := true, draining := true }) s0)
def v9 : State := (withArr 9 { act with cur := some ⟨1,1,1,1,[],[],false,[],0,0,[]⟩ } s0)
def v10 : State := (withArr 4095 { act with state := 2 } s0)
def v11 : State := (withCore 511 { CoreU.reset with entries := [(255, { Entry.reset with town := 0x80000009 })] } s0)
theorem test_witness_HostWindowsComplete_05 :
    (pk0 ≠ [] ∧ s0.host.ready = true ∧ covers (0#12).toNat (min pk0.length (4096 - (0#12).toNat)) (packetSize (have __src := s0.host; { window := putBytes s0.host.window (0#12).toNat (List.take (min pk0.length (4096 - (0#12).toNat)) pk0), replies := __src.replies, msixTab := __src.msixTab, msixPba := __src.msixPba, ready := __src.ready, full := __src.full, taken := __src.taken, running := __src.running, replied := __src.replied, head := __src.head, tail := __src.tail, dpCtl := __src.dpCtl, orphan := __src.orphan, irqCause := __src.irqCause, err := __src.err, linkStat := __src.linkStat, draining := __src.draining, outBuf := __src.outBuf, outBound := __src.outBound, linkUp := __src.linkUp, perst := __src.perst, config := __src.config, shutdown := __src.shutdown, nextSeq := __src.nextSeq : HostIf }) - 1) = true)
    ∧ (((pk0.take 20) : List Byte) ≠ [] ∧ s0.host.ready = true ∧ covers (0#12).toNat (min ((pk0.take 20) : List Byte).length (4096 - (0#12).toNat)) (packetSize (have __src := s0.host; { window := putBytes s0.host.window (0#12).toNat (List.take (min ((pk0.take 20) : List Byte).length (4096 - (0#12).toNat)) ((pk0.take 20) : List Byte)), replies := __src.replies, msixTab := __src.msixTab, msixPba := __src.msixPba, ready := __src.ready, full := __src.full, taken := __src.taken, running := __src.running, replied := __src.replied, head := __src.head, tail := __src.tail, dpCtl := __src.dpCtl, orphan := __src.orphan, irqCause := __src.irqCause, err := __src.err, linkStat := __src.linkStat, draining := __src.draining, outBuf := __src.outBuf, outBound := __src.outBound, linkUp := __src.linkUp, perst := __src.perst, config := __src.config, shutdown := __src.shutdown, nextSeq := __src.nextSeq : HostIf }) - 1) = false)
    ∧ (v1.host.taken = ((aPkt 0x10 []) : Packet) :: ([] : List Packet) ∧ mayStart ((aPkt 0x10 []) : Packet) v1 = true ∧ startStatus ((aPkt 0x10 []) : Packet) { pending := v1.pending, host := have __src := v1.host; { window := __src.window, replies := __src.replies, msixTab := __src.msixTab, msixPba := __src.msixPba, ready := __src.ready, full := __src.full, taken := ([] : List Packet), running := __src.running, replied := __src.replied, head := __src.head, tail := __src.tail, dpCtl := __src.dpCtl, orphan := __src.orphan, irqCause := __src.irqCause, err := __src.err, linkStat := __src.linkStat, draining := __src.draining, outBuf := __src.outBuf, outBound := __src.outBound, linkUp := __src.linkUp, perst := __src.perst, config := __src.config, shutdown := __src.shutdown, nextSeq := __src.nextSeq : HostIf }, deviceId := v1.deviceId, topology := v1.topology, avail := v1.avail, wbCfg := v1.wbCfg, wbStat := v1.wbStat, arrays := v1.arrays, cores := v1.cores, clusters := v1.clusters, ports := v1.ports, ctxs := v1.ctxs, launches := v1.launches, mem := v1.mem, poison := v1.poison, planes := v1.planes, stacksIn := v1.stacksIn, fab := v1.fab, rel := v1.rel, pwr := v1.pwr, sec := v1.sec, mon := v1.mon, rack := v1.rack, watchPhase := v1.watchPhase, nextUid := v1.nextUid, commits := v1.commits, dueSeq := v1.dueSeq, free := v1.free, out := v1.out : State } = 0)
    ∧ (v2.host.taken = ((aPkt 0x3030 [0,0,64]) : Packet) :: ([] : List Packet) ∧ mayStart ((aPkt 0x3030 [0,0,64]) : Packet) v2 = true ∧ startStatus ((aPkt 0x3030 [0,0,64]) : Packet) { pending := v2.pending, host := have __src := v2.host; { window := __src.window, replies := __src.replies, msixTab := __src.msixTab, msixPba := __src.msixPba, ready := __src.ready, full := __src.full, taken := ([] : List Packet), running := __src.running, replied := __src.replied, head := __src.head, tail := __src.tail, dpCtl := __src.dpCtl, orphan := __src.orphan, irqCause := __src.irqCause, err := __src.err, linkStat := __src.linkStat, draining := __src.draining, outBuf := __src.outBuf, outBound := __src.outBound, linkUp := __src.linkUp, perst := __src.perst, config := __src.config, shutdown := __src.shutdown, nextSeq := __src.nextSeq : HostIf }, deviceId := v2.deviceId, topology := v2.topology, avail := v2.avail, wbCfg := v2.wbCfg, wbStat := v2.wbStat, arrays := v2.arrays, cores := v2.cores, clusters := v2.clusters, ports := v2.ports, ctxs := v2.ctxs, launches := v2.launches, mem := v2.mem, poison := v2.poison, planes := v2.planes, stacksIn := v2.stacksIn, fab := v2.fab, rel := v2.rel, pwr := v2.pwr, sec := v2.sec, mon := v2.mon, rack := v2.rack, watchPhase := v2.watchPhase, nextUid := v2.nextUid, commits := v2.commits, dueSeq := v2.dueSeq, free := v2.free, out := v2.out : State } ≠ 0)
    ∧ (v3.host.replied = v4 :: ([] : List Reply) ∧ ringUsed v3 < 64 ∧ v3.host.full = false ∧ v3.pwr.sleepDue = false ∧ v4.status ≠ 240#16)
    ∧ ringUsed v5 = 64 := by
  and_intros <;> decide +kernel
theorem test_witness_HostStreamsComplete_05 :
    (inbound s0 = none ∧ List.filterMap id ([some 1, none, some 2] : List (Option Byte)) ≠ [])
    ∧ (inbound mwS = some mwR ∧ mwR.pkt.muted = false ∧ mwR.task = Task.memWrite (0x1000#64) (List.filterMap id v6).length 0 [] [] ∧ ownStacks mwS (0x1000#64) (List.filterMap id v6).length = true ∧ unawaited mwS (0x1000#64) (List.filterMap id v6).length = true ∧ aloof mwS (localOf (0x1000#64)) (List.filterMap id v6).length (localOf (0x1000#64)) (List.filterMap id v6).length)
    ∧ (inbound mwS = some mwR ∧ mwR.pkt.muted = false ∧ mwR.task = Task.memWrite (0x1000#64) 3 0 [] [])
    ∧ 2 < v7.host.outBuf.length
    ∧ (v7.host.outBuf.length = 3 ∧ v7.host.outBound = true ∧ v7.host.running.any isOutbound = false)
    ∧ (s0.host.outBuf = [] ∧ s0.host.outBound = false ∧ 0 < 3) := by
  and_intros <;> decide +kernel
theorem test_witness_HostLinkCommandsComplete_05 :
    ((8 = 1 ∨ 8 = 2 ∨ 8 = 4 ∨ 8 = 8) ∧ (0#14).toNat % 8 = 0 ∧ (0#14).toNat < 8192)
    ∧ ((0x2fff#14).toNat < 12288 ∧ (3 = 3 ∨ 3 = 16 ∨ 3 = 4 ∧ (0x2fff#14).toNat % 4 ≠ 0))
    ∧ 12288 ≤ (0x3000#14).toNat
    ∧ v8.host.running = []
    ∧ (s0.host.perst = false ∧ (6#3) ≠ 0 ∧ (2#2) ≠ 3) := by
  and_intros <;> decide +kernel
theorem test_witness_HeldRegisterWritesComplete_05 :
    (9 < 4096 ∧ idleActive ((withArr 9 act s0) : State) 9 = true ∧ (arr ((withArr 9 act s0) : State) 9).cfgHeld = none ∧ (arr ((withArr 9 act s0) : State) 9).chkHeld = none)
    ∧ (9 < 4096 ∧ (arr v9 9).cur.isSome = true)
    ∧ (4095 < 4096 ∧ 529 < 530 ∧ arrMode (arr s0 4095) ≠ 2)
    ∧ (4095 < 4096 ∧ 0 < 530 ∧ arrMode (arr v10 4095) = 2)
    ∧ (511 < 512 ∧ 255 < 256 ∧ bit (entryOf s0 511 255).town 31 = false ∧ fld (0x01FF00FE#32) 13 12 ≤ 1 ∧ 1 ≤ fld (0x01FF00FE#32) 8 5 ∧ fld (0x01FF00FE#32) 1 0 ≤ 2)
    ∧ (511 < 512 ∧ 255 < 256 ∧ 15 < 16 ∧ bit (entryOf s0 511 255).town 31 = false ∧ fld (277#32) 8 0 ≤ 277)
    ∧ (511 < 512 ∧ 255 < 256 ∧ bit (entryOf v11 511 255).town 31 = true) := by
  and_intros <;> decide +kernel
end Sys2Proof.Tests.W05

namespace Sys2Proof.Tests.W06
open Sys2Proof.Tests.W
def it1 : QItem := ⟨0, 5, 1, .msg .heartbeat, none, true, 0, false, 0⟩
def psn : State := withPort 3 { up with queue := [it1] } (withPort 4 up (withPort 0 up s0))
def ost : Outst := ⟨9, requestPkt 0 0x0000050000001000 0 0 77 6 9 false 64 [], 4, 0, false⟩
def v1 : State := (onHost (fun h => { h with taken := [{ aPkt 0x10 [] with hdr := { h0 with ordered := true } }], running := [⟨{W.lp with seq := 1}, .twinPair⟩] }) s0)
def v2 : Packet := ({ aPkt 0x10 [] with hdr := { h0 with ordered := true } })
def v3 : State := (onFab (fun f => { f with caravans := [{ dummyCv with ring := 3 }] }) s0)
def v4 : State := (onMon (fun m => { m with owner := 1 }) s0)
def v5 : State := (withPort 17 { up with ctl := 4 } s0)
def v6 : State := (onFab (fun f => { f with outst := [ost] }) psn)
def v7 : State := (withPort 17 { up with stat := 0x3FFFF006 } s0)
def v8 : State := (withPort 17 { up with stat := 0x3FFFF001, good := 0xFF } s0)
def v9 : State := (withPort 1 { up with stat := 0x3FFFF001, narrow := [(3,1)] } s0)
theorem test_witness_HostWindowsComplete_06 :
    v1.host.taken = v2 :: ([] : List Packet) ∧ mayStart v2 v1 = false := 
  by and_intros <;> decide +kernel
theorem test_witness_UnitRegisterRowsComplete_06_1 :
    (511 < 512 ∧ 3 < 4 ∧ 0xBFF < 3072 ∧ slotBusy s0 511 3 = false)
    ∧ (511 < 512 ∧ 3 < 4 ∧ slotBusy s0 511 3 = false ∧ 7 < fld (239#32) 7 0 ∧ fld (239#32) 7 0 < 240)
    ∧ (31 < 32 ∧ 63 < 64 ∧ 51 < 52 ∧ isFiniteF32 (0x3F800000#32) = true)
    ∧ (31 < 32 ∧ 63 < 64 ∧ 50 < 52 ∧ isFiniteF32 (0x7F800000#32) = false)
    ∧ fld (0x7F800002#32) 1 0 ≠ 3
    ∧ fld (0x7F800003#32) 1 0 = 3
    ∧ (1 ≤ 12 ∧ 12 ≤ 12 ∧ ringRuns s0 12 = false ∧ 1 ≤ fld (0xFFFFFFFF#32) 25 13)
    ∧ (1 ≤ 3 ∧ 3 ≤ 12 ∧ ringRuns v3 3 = true) := by
  and_intros <;> decide +kernel
theorem test_witness_UnitRegisterRowsComplete_06_2 :
    (fld (0x58400001#32) 31 30 ≤ 1 ∧ 6 ≤ fld (0x58400001#32) 29 26 ∧ fld (0x58400001#32) 29 26 ≤ 10 ∧ 1 ≤ fld (0x58400001#32) 25 22 ∧ 1 ≤ fld (0x58400001#32) 15 0)
    ∧ (1 ≤ fld (0x00010101#32) 23 16 ∧ 1 ≤ fld (0x00010101#32) 15 8 ∧ 1 ≤ fld (0x00010101#32) 7 0 ∧ anyCtx s0 = false ∧ s0.rel.histIn = none)
    ∧ anyCtx ((withCtx 2 cx s0) : State) = true
    ∧ s0.mon.owner = 0#3
    ∧ v4.mon.owner ≠ 0#3
    ∧ (31 < 32 ∧ 29491 ≤ fld (29491#32) 15 0 ∧ fld (29491#32) 15 0 ≤ 36045)
    ∧ (31 < 32 ∧ (fld (29490#32) 15 0 < 29491 ∨ 36045 < fld (29490#32) 15 0)) := by
  and_intros <;> decide +kernel
theorem test_witness_PortRowsComplete_06_1 :
    (3 < 18 ∧ bit (port psn 3).ctl 2 = false ∧ (port psn 3).queue = [it1] ∧ it1.sent = 0 ∧ it1.body = Body.msg Msg.heartbeat ∧ 0 ≠ 3 ∧ (route (modPort psn 3 fun x => setPortState 1 { ctl := x.ctl, stat := x.stat, err := x.err, toll := x.toll, tollStat := x.tollStat, replays := x.replays, stalls := x.stalls, stales := x.stales, lanes := x.lanes, redTx := x.redTx, redRx := x.redRx, rate := x.rate, queue := [], retry := x.retry, replay := x.replay, lseq := x.lseq, psnOut := x.psnOut, psnIn := x.psnIn, part := x.part, credits := x.credits, owed := x.owed, mgmtGap := x.mgmtGap, bulkGap := x.bulkGap, robin := x.robin, badLanes := x.badLanes, narrow := x.narrow, good := x.good, wasUsed := x.wasUsed : PortU }) it1.die it1.dst (itemIndex (modPort psn 3 fun x => setPortState 1 { ctl := x.ctl, stat := x.stat, err := x.err, toll := x.toll, tollStat := x.tollStat, replays := x.replays, stalls := x.stalls, stales := x.stales, lanes := x.lanes, redTx := x.redTx, redRx := x.redRx, rate := x.rate, queue := [], retry := x.retry, replay := x.replay, lseq := x.lseq, psnOut := x.psnOut, psnIn := x.psnIn, part := x.part, credits := x.credits, owed := x.owed, mgmtGap := x.mgmtGap, bulkGap := x.bulkGap, robin := x.robin, badLanes := x.badLanes, narrow := x.narrow, good := x.good, wasUsed := x.wasUsed : PortU }) it1) = some 0))
    ∧ (17 < 18 ∧ bit (port v5 17).ctl 2 = true)
    ∧ (4 < 18 ∧ (List.filter (fun i => i.sent == 0) (port v6 4).queue = []) ∧ v6.fab.outst = [ost] ∧ ost.port = 4 ∧ v6.fab.held = [] ∧ v6.host.running = [] ∧ v6.launches = [] ∧ v6.rel.mirror = [])
    ∧ (4 < 18 ∧ 0 < 8 ∧ bit (port psn 4).stat (2 + 0) = true ∧ (List.filter (fun i => i.sent == 0) (port psn 4).queue = []) ∧ (List.filter (fun o => o.port == 4) psn.fab.outst = []))
    ∧ (17 < 18 ∧ 1 < 8 ∧ bit (port v7 17).stat (2 + 1) = false)
    ∧ (17 < 18 ∧ 8 ≤ 8) := by
  and_intros <;> decide +kernel
theorem test_witness_PortRowsComplete_06_2 :
    (17 < 18 ∧ fld (port v8 17).stat 1 0 = 1 ∧ (port v8 17).good = 255#8 ∧ (port v8 17).badLanes = 0#8 ∧ fld (port v8 17).ctl 1 0 ≤ 2 ∧ v8.host.running = [] ∧ (∀ l < 8, 32 ≤ BitVec.toNat (((List.replicate 8 32) : List Byte).getD l 0#8)))
    ∧ (1 < 18 ∧ fld (port v9 1).stat 1 0 = 1 ∧ (List.filter (fun i => i.sent == 0) (port v9 1).queue = []) ∧ (List.filter (fun o => o.port == 1) v9.fab.outst = []) ∧ v9.host.running = [] ∧ (∀ l < 8, bit (0x01#8) l = false ∨ BitVec.toNat (([31,0,0,0,0,0,0,0] : List Byte).getD l 0#8) < 32))
    ∧ (4 < 18 ∧ fld (port psn 4).stat 1 0 = 2) := by
  and_intros <;> decide +kernel
end Sys2Proof.Tests.W06

namespace Sys2Proof.Tests.W07
open Sys2Proof.Tests.W
def foff : State := withClus 3 { ClusterU.reset with region := 0x00FC0000 } s0
def vs : State := onPwr (fun p => { p with vaon := true, sbEvent := 0xFF }) s0
def v1 : State := { s0 with pending := [.table ⟨5, .drain, .fp32, 0, 0⟩ 0 ⟨.fp32, []⟩] }
def v2 : State := (withClus 3 { ClusterU.reset with region := 0x00FD0000 } s0)
def v3 : State := (withCore 0 { CoreU.reset with passq := [⟨1, [], false⟩] } s0)
def v4 : State := (withClus 3 { ClusterU.reset with region := 0x00FC0143 } s0)
def v5 : State := (putMem 0xC003000000 [1,2] (withClus 3 { ClusterU.reset with region := 0x00FC0143, upDig := true } s0))
def v6 : State := (withArr 400 { ArrU.reset with state := 0, dueOrder := some 3 } (withClus 3 { ClusterU.reset with region := 0x00FC0143, upArr := true } s0))
def v7 : State := (onPwr (fun p => { p with dvfs := 3 }) s0)
def v8 : State := (onPwr (fun p => { p with noticeAt := some 0 }) { s0 with rack := 312 })
def v9 : State := (onPwr (fun p => { p with notices := [⟨4, 0, 0x00600000, false, false⟩] }) s0)
def v10 : State := (onPwr (fun p => { p with notices := [⟨4, 0, 0x10600000, false, false⟩] }) s0)
def v11 : State := (onPwr (fun p => { p with watchQ := [(.ctl, 0xFFFFFFFF, false), (.stat, 3, true)] }) s0)
def v12 : State := (onPwr (fun p => { p with watchStat := 0xFF, watchQ := [(.stat, 0x3, false), (.stat, 3, true)] }) s0)
def v13 : State := (onHost (fun h => { h with running := [⟨W.lp, .watch .ctl⟩] }) (onPwr (fun p => { p with watchQ := [(.ctl, 0xFFFFFFFF, true), (.stat, 3, false)] }) s0))
def v14 : State := (onPwr (fun p => { p with wdogArmed := true, wdog := 2, wdogKick := 7 }) s0)
def v15 : State := (onPwr (fun p => { p with sbCtl := 0 }) vs)
def v16 : State := (onPwr (fun p => { p with state := .asleep }) vs)
def v17 : State := (onPwr (fun p => { p with vaon := false }) vs)
def v18 : State := (onPwr (fun p => { p with ibiUnacked := [3,4] }) vs)
theorem test_witness_UnitRegisterRowsComplete_07 :
    5 < 512 ∧ 0 < 4 ∧ 0xC17 < 3096 ∧ slotBusy v1 5 0 = true := 
  by and_intros <;> decide +kernel
theorem test_witness_RegionAndPointRowsComplete_07_1 :
    (3 < 32 ∧ bit (clus v2 3).region 16 = true)
    ∧ (3 < 32 ∧ bit (clus foff 3).region 16 = false ∧ fld (clus foff 3).region 9 6 = 0)
    ∧ (31 < 32 ∧ bit (clus s0 31).region 16 = false ∧ fld (clus s0 31).region 9 6 = 10 ∧ fld (clus s0 31).region 1 0 = 3)
    ∧ (0 < 32 ∧ regionHeld v3 0 = true)
    ∧ (3 < 32 ∧ regState Region.digital (clus v4 3).region = 1 ∧ begun Region.digital (clus v4 3) = false ∧ bit (clus v4 3).region 16 = false)
    ∧ (3 < 32 ∧ regState Region.array (clus v4 3).region = 1 ∧ begun Region.array (clus v4 3) = false ∧ bit (clus v4 3).region 16 = false)
    ∧ (3 < 32 ∧ regState Region.digital (clus v5 3).region = 1 ∧ begun Region.digital (clus v5 3) = true ∧ bit (clus v5 3).region (onBit Region.digital) = true ∧ (noticeUnsent v5 (if Region.digital = Region.digital then 0 else 2) 3 = false)) := by
  and_intros <;> decide +kernel
theorem test_witness_RegionAndPointRowsComplete_07_2 :
    (3 < 32 ∧ regState Region.array (clus v6 3).region = 1 ∧ begun Region.array (clus v6 3) = true ∧ bit (clus v6 3).region (onBit Region.array) = true ∧ (noticeUnsent v6 (if Region.array = Region.digital then 0 else 2) 3 = false))
    ∧ fld (4#32) 2 0 ≤ 4
    ∧ 4 < fld (7#32) 2 0
    ∧ (slewing v7 = false ∧ requiredPoint v7 ≠ activePoint v7 ∧ (noticeLately v7 = false ∧ movedLately v7 = false ∨ protectiveFloor v7 = true ∧ activePoint v7 < requiredPoint v7))
    ∧ (slewing s0 = true ∨ requiredPoint s0 = activePoint s0)
    ∧ ((noticeLately v8 = true ∨ movedLately v8 = true) ∧ (¬(protectiveFloor v8 = true ∧ activePoint v8 < requiredPoint v8)))
    ∧ (3 < 32 ∧ (noticeUnsent v9 (if Region.digital = Region.digital then 0 else 2) 3 = true))
    ∧ (3 < 32 ∧ (noticeUnsent v10 (if Region.array = Region.digital then 0 else 2) 3 = true)) := by
  and_intros <;> decide +kernel
theorem test_witness_WatchAndSidebandRowsComplete_07 :
    (v11.pwr.sleepDue = false ∧ v11.pwr.watchQ = (WatchReg.ctl, (0xFFFFFFFF#32), false) :: ([(.stat, 3, true)] : List (WatchReg × Word × Bool)))
    ∧ (v12.pwr.sleepDue = false ∧ v12.pwr.watchQ = (WatchReg.stat, (3#32), false) :: ([(.stat, 3, true)] : List (WatchReg × Word × Bool)))
    ∧ (v13.pwr.sleepDue = false ∧ v13.pwr.watchQ = (WatchReg.ctl, (0xFFFFFFFF#32), true) :: ([(.stat, 3, false)] : List (WatchReg × Word × Bool)) ∧ v13.host.running = [{ pkt := W.lp, task := Task.watch WatchReg.ctl : Run }] ∧ W.lp.muted = false)
    ∧ (v14.pwr.wdogArmed = true ∧ v14.pwr.state = PowerState.awake ∧ v14.pwr.resetReq = none ∧ v14.sec.ring.length < 128 ∧ BitVec.toNat v14.pwr.wdogKick + 156250 * fld v14.pwr.wdog 7 0 < 2 ^ 64)
    ∧ s0.pwr.wdogArmed = false
    ∧ (vs.pwr.vaon = true ∧ vs.pwr.ibiQueue = [] ∧ vs.pwr.ibiUnacked = [])
    ∧ (vs.pwr.vaon = true ∧ vs.pwr.ibiQueue = [] ∧ bit vs.pwr.sbCtl (7#3).toNat = true)
    ∧ (v15.pwr.vaon = true ∧ v15.pwr.ibiQueue = [] ∧ bit v15.pwr.sbCtl (7#3).toNat = false)
    ∧ (v16.pwr.vaon = true ∧ v16.pwr.state ≠ PowerState.awake)
    ∧ v17.pwr.vaon = false
    ∧ v18.pwr.ibiUnacked = (3#3) :: ([4] : List (BitVec 3)) := by
  and_intros <;> decide +kernel
end Sys2Proof.Tests.W07

namespace Sys2Proof.Tests.W08
open Sys2Proof.Tests.W
def idleC : State := (List.range 128).foldl (fun s i => withArr i act s) (putMem 0xC000000000 [1,2] (putMem 0xC001FFFFFF [1,2,3] (putMem 0xC040000000 [1,2] (putMem 0xC0401FFFFFF [1,2] (putMem 0xC041FFFFFF [1,2,3] (withClus 0 { ClusterU.reset with region := 0x00FC03FF } s0))))))
theorem test_witness_RegionAndPointRowsComplete_08 :
    (0 < 32 ∧ regState Region.digital (clus idleC 0).region = 3 ∧ regionHeld idleC 0 = false)
    ∧ (0 < 32 ∧ regState Region.array (clus idleC 0).region = 3 ∧ regionHeld idleC 0 = false) := by
  and_intros <;> decide +kernel
end Sys2Proof.Tests.W08

namespace Sys2Proof.Tests.W09
open Sys2Proof.Tests.W
def rq (g : W64) (len : Nat) (pay : List Byte) : Req := { gaddr := g, length := len, payload := pay, tag := 9, ctx := 0, job := 77, epoch := 6, poison := false, inbound := none, src := 0, die := false }
def rqt : Req := (rq 0xC0B0000040 0 [7,8,0,9,1,2,3,0xFF])
def fs : State := withCtx 0 cx (withPort 0 up (withPort 5 up s0))
def ri (pay : List Byte) (len : Nat) : Req := { rq 0x0000000000001100 len pay with inbound := some 3, src := 5 }
def pk : Pkt := { requestPkt 0 0x0000050000001000 0 0 77 6 9 false 64 [] with kind := 1, resp := 0, payload := [1,2] }
def os : Outst := ⟨9, requestPkt 0 0x0000050000001000 0 0 77 6 9 false 64 [], 4, 0, false⟩
def osm : Outst := ⟨9, requestPkt 0x20 0x0000050000001000 0 0 77 6 9 false 64 [], 4, 0, false⟩
def osmS : State := (onFab (fun f => { f with outst := [osm] }) fs)
def own1 : Outst := ⟨8, requestPkt 1 0x0000000000001000 0 0 77 6 9 false 64 [1], 3, 0, false⟩
def osS : State := (onFab (fun f => { f with outst := [os] }) fs)
def v1 : State := (putMem 0x1000 [1,2,3,4] s0)
def v2 : Req := (rq 0x1002 1 [7,8,0,9])
def v3 : Instr := (.store (rq 0x1002 1 [7,8,0,9]))
def v4 : State := (putMem 0xC0B0000040 [1,2,3,4,5,6,7,8] s0)
def v5 : Req := (rq 0xF000000000001000 0 [])
def v6 : State := { s0 with stacksIn := 1 }
def v7 : Req := (rq 0x1900000000 0 [1])
def v8 : Instr := (.store (rq 0x1900000000 0 [1]))
def v9 : Req := (rq 0x1800 0 (List.replicate 2049 1))
def v10 : State := (onFab (fun f => { f with outst := [own1] }) s0)
def v11 : Instr := (.load (rq 0x1000 64 [1]))
def v12 : Req := (rq 0x0000050000001000 64 [])
def v13 : Req := (rq 0x0000050000001000 64 [1])
def v14 : Req := { ri [] 64 with job := 1 }
def v15 : State := (onHost (fun h => { h with running := [⟨W.lp, .memWrite 0 0 5 [] [(9,6)]⟩] }) osS)
theorem test_witness_OwnRequestsAreServed_09_1 :
    (((rq 0x1000 4096 []) : Req).inbound = none ∧ devOf ((rq 0x1000 4096 []) : Req).gaddr = ownId v1 ∧ v1.host.running.any (awaitsTag ((rq 0x1000 4096 []) : Req).tag) = false ∧ ((v1.launches.any fun l => l.pending.contains ((rq 0x1000 4096 []) : Req).tag) = false) ∧ ((v1.rel.mirror.any fun m => m.1 == ((rq 0x1000 4096 []) : Req).tag) = false) ∧ ((fun ty => mustWait v1 ((rq 0x1000 4096 []) : Req).die ((fun ty => requestPkt ty ((rq 0x1000 4096 []) : Req).gaddr (ownId v1) ((rq 0x1000 4096 []) : Req).ctx ((rq 0x1000 4096 []) : Req).job ((rq 0x1000 4096 []) : Req).epoch ((rq 0x1000 4096 []) : Req).tag ((rq 0x1000 4096 []) : Req).poison ((rq 0x1000 4096 []) : Req).length ((rq 0x1000 4096 []) : Req).payload) ty) 0) 0 = false) ∧ 1 ≤ ((rq 0x1000 4096 []) : Req).length ∧ ((rq 0x1000 4096 []) : Req).length ≤ 4096 ∧ ((rq 0x1000 4096 []) : Req).payload = [] ∧ localOf ((rq 0x1000 4096 []) : Req).gaddr % 4096 + ((rq 0x1000 4096 []) : Req).length ≤ 4096 ∧ inStacks v1 (localOf ((rq 0x1000 4096 []) : Req).gaddr) ((rq 0x1000 4096 []) : Req).length = true ∧ unpoisoned v1 (localOf ((rq 0x1000 4096 []) : Req).gaddr) ((rq 0x1000 4096 []) : Req).length = true)
    ∧ (v2.inbound = none ∧ devOf v2.gaddr = ownId v1 ∧ v1.host.running.any (awaitsTag v2.tag) = false ∧ ((v1.launches.any fun l => l.pending.contains v2.tag) = false) ∧ ((v1.rel.mirror.any fun m => m.1 == v2.tag) = false) ∧ (v3 = Instr.store v2 ∨ v3 = Instr.storeRelease v2 ∨ v3 = Instr.courierStore v2 ∧ v2.payload.length ≤ 224) ∧ ((fun ty => mustWait v1 v2.die ((fun ty => requestPkt ty v2.gaddr (ownId v1) v2.ctx v2.job v2.epoch v2.tag v2.poison v2.length v2.payload) ty) 0) (if v3 = Instr.storeRelease v2 then 2 else 1) = false) ∧ 1 ≤ v2.payload.length ∧ localOf v2.gaddr % 4096 + v2.payload.length ≤ 4096 ∧ inStacks v1 (localOf v2.gaddr) v2.payload.length = true) := by
  and_intros <;> decide +kernel
theorem test_witness_OwnRequestsAreServed_09_2 :
    (rqt.inbound = none ∧ devOf rqt.gaddr = ownId v4 ∧ v4.host.running.any (awaitsTag rqt.tag) = false ∧ ((v4.launches.any fun l => l.pending.contains rqt.tag) = false) ∧ ((v4.rel.mirror.any fun m => m.1 == rqt.tag) = false) ∧ ((fun ty => mustWait v4 rqt.die ((fun ty => requestPkt ty rqt.gaddr (ownId v4) rqt.ctx rqt.job rqt.epoch rqt.tag rqt.poison rqt.length rqt.payload) ty) 0) 1 = false) ∧ areaOf (localOf rqt.gaddr) = Area.tally 1 ∧ localOf rqt.gaddr % 64 = 0 ∧ rqt.payload.length = 8 ∧ v4.poison = [] ∧ aloof v4 (localOf rqt.gaddr) 8 (localOf rqt.gaddr + 48) 8)
    ∧ (v5.inbound = none ∧ devOf v5.gaddr = ownId s0 ∧ s0.host.running.any (awaitsTag v5.tag) = false ∧ ((s0.launches.any fun l => l.pending.contains v5.tag) = false) ∧ ((s0.rel.mirror.any fun m => m.1 == v5.tag) = false) ∧ ((fun ty => mustWait s0 v5.die ((fun ty => requestPkt ty v5.gaddr (ownId s0) v5.ctx v5.job v5.epoch v5.tag v5.poison v5.length v5.payload) ty) 0) 1 = false) ∧ isListed (typeOf v5.gaddr) = false) := by
  and_intros <;> decide +kernel
theorem test_witness_OwnRequestsAreServed_09_3 :
    (v7.inbound = none ∧ devOf v7.gaddr = ownId v6 ∧ v6.host.running.any (awaitsTag v7.tag) = false ∧ ((v6.launches.any fun l => l.pending.contains v7.tag) = false) ∧ ((v6.rel.mirror.any fun m => m.1 == v7.tag) = false) ∧ (v8 = Instr.store v7 ∨ v8 = Instr.storeRelease v7) ∧ ((fun ty => mustWait v6 v7.die ((fun ty => requestPkt ty v7.gaddr (ownId v6) v7.ctx v7.job v7.epoch v7.tag v7.poison v7.length v7.payload) ty) 0) (if v8 = Instr.storeRelease v7 then 2 else 1) = false) ∧ stackBytes v6 ≤ localOf v7.gaddr ∧ localOf v7.gaddr + v7.payload.length ≤ 824633720832 ∧ 1 ≤ v7.payload.length ∧ localOf v7.gaddr % 4096 + v7.payload.length ≤ 4096)
    ∧ (v9.inbound = none ∧ devOf v9.gaddr = ownId s0 ∧ s0.host.running.any (awaitsTag v9.tag) = false ∧ ((s0.launches.any fun l => l.pending.contains v9.tag) = false) ∧ ((s0.rel.mirror.any fun m => m.1 == v9.tag) = false) ∧ ((fun ty => mustWait s0 v9.die ((fun ty => requestPkt ty v9.gaddr (ownId s0) v9.ctx v9.job v9.epoch v9.tag v9.poison v9.length v9.payload) ty) 0) 1 = false) ∧ 4096 < localOf v9.gaddr % 4096 + v9.payload.length)
    ∧ (((rq 0x1000 64 [1]) : Req).inbound = none ∧ devOf ((rq 0x1000 64 [1]) : Req).gaddr = ownId v10 ∧ v10.host.running.any (awaitsTag ((rq 0x1000 64 [1]) : Req).tag) = false ∧ ((v10.launches.any fun l => l.pending.contains ((rq 0x1000 64 [1]) : Req).tag) = false) ∧ ((v10.rel.mirror.any fun m => m.1 == ((rq 0x1000 64 [1]) : Req).tag) = false) ∧ (v11, 0) ∈ [(Instr.load ((rq 0x1000 64 [1]) : Req), 0), (Instr.store ((rq 0x1000 64 [1]) : Req), 1), (Instr.storeRelease ((rq 0x1000 64 [1]) : Req), 2)] ∧ ((fun ty => mustWait v10 ((rq 0x1000 64 [1]) : Req).die ((fun ty => requestPkt ty ((rq 0x1000 64 [1]) : Req).gaddr (ownId v10) ((rq 0x1000 64 [1]) : Req).ctx ((rq 0x1000 64 [1]) : Req).job ((rq 0x1000 64 [1]) : Req).epoch ((rq 0x1000 64 [1]) : Req).tag ((rq 0x1000 64 [1]) : Req).poison ((rq 0x1000 64 [1]) : Req).length ((rq 0x1000 64 [1]) : Req).payload) ty) 0) 0 = true)) := by
  and_intros <;> decide +kernel
theorem test_witness_FabricRequestsAndAnswersComplete_09_1 :
    (v12.inbound = none ∧ devOf v12.gaddr ≠ ownId fs ∧ v12.payload = [] ∧ route fs v12.die (devOf v12.gaddr) (bulkIndex (requestPkt 0 v12.gaddr (ownId fs) v12.ctx v12.job v12.epoch v12.tag v12.poison v12.length []).gaddr) = some 0 ∧ mustWait fs v12.die (requestPkt 0 v12.gaddr (ownId fs) v12.ctx v12.job v12.epoch v12.tag v12.poison v12.length []) 0 = false)
    ∧ (v13.inbound = none ∧ devOf v13.gaddr ≠ ownId s0 ∧ s0.host.running = [] ∧ s0.launches = [] ∧ s0.rel.mirror = [] ∧ (((List.range 18).all fun q => !portUp s0 q) = true))
    ∧ (v14.inbound = some 3 ∧ route fs (decide (9 ≤ 3)) v14.src ((slotOf v14.src + fld v14.gaddr 15 12) % 16) = some 0 ∧ ctxOfJob fs v14.job = none ∧ forTwin fs (requestPkt 0 v14.gaddr v14.src v14.ctx v14.job v14.epoch v14.tag v14.poison v14.length v14.payload) v14.length = false)
    ∧ (((ri [] 64) : Req).inbound = some 3 ∧ route fs (decide (9 ≤ 3)) ((ri [] 64) : Req).src ((slotOf ((ri [] 64) : Req).src + fld ((ri [] 64) : Req).gaddr 15 12) % 16) = some 0 ∧ (ctxOfJob fs ((ri [] 64) : Req).job).isSome = true ∧ ((ri [] 64) : Req).payload = [] ∧ 1 ≤ ((ri [] 64) : Req).length ∧ ((ri [] 64) : Req).length ≤ 4096 ∧ localOf ((ri [] 64) : Req).gaddr % 4096 + ((ri [] 64) : Req).length ≤ 4096 ∧ inStacks fs (localOf ((ri [] 64) : Req).gaddr) ((ri [] 64) : Req).length = true ∧ unpoisoned fs (localOf ((ri [] 64) : Req).gaddr) ((ri [] 64) : Req).length = true) := by
  and_intros <;> decide +kernel
theorem test_witness_FabricRequestsAndAnswersComplete_09_2 :
    (((ri [1,2,3] 3) : Req).inbound = some 3 ∧ route fs (decide (9 ≤ 3)) ((ri [1,2,3] 3) : Req).src ((slotOf ((ri [1,2,3] 3) : Req).src + fld ((ri [1,2,3] 3) : Req).gaddr 15 12) % 16) = some 0 ∧ (ctxOfJob fs ((ri [1,2,3] 3) : Req).job).isSome = true ∧ 1 ≤ ((ri [1,2,3] 3) : Req).payload.length ∧ localOf ((ri [1,2,3] 3) : Req).gaddr % 4096 + ((ri [1,2,3] 3) : Req).payload.length ≤ 4096 ∧ inStacks fs (localOf ((ri [1,2,3] 3) : Req).gaddr) ((ri [1,2,3] 3) : Req).payload.length = true)
    ∧ (osmS.fab.outst = [osm] ∧ osm.tag = pk.tag ∧ isMessage osm.pkt = true ∧ osmS.fab.held = [] ∧ pk.resp.toNat ≤ 7)
    ∧ (osS.fab.outst = [os] ∧ os.tag = ({ pk with resp := 8 } : Pkt).tag ∧ isMessage os.pkt = false ∧ osS.fab.held = [] ∧ osS.launches = [] ∧ osS.rel.mirror = [] ∧ osS.host.running = [] ∧ 7 < ({ pk with resp := 8 } : Pkt).resp.toNat)
    ∧ (v15.fab.outst = [os] ∧ os.tag = pk.tag ∧ isMessage os.pkt = false ∧ v15.fab.held = [] ∧ v15.launches = [] ∧ v15.rel.mirror = [] ∧ v15.host.running = [{ pkt := W.lp, task := Task.memWrite (0#64) 0 5 [] [(pk.tag, 6)] : Run }] ∧ W.lp.muted = false ∧ pk.resp = 0#4) := by
  and_intros <;> decide +kernel
theorem test_witness_FabricRequestsAndAnswersComplete_09_3 :
    ((fs.fab.outst.any fun o => o.tag == pk.tag) = false) := 
  by decide +kernel
end Sys2Proof.Tests.W09

namespace Sys2Proof.Tests.W10
open Sys2Proof.Tests.W
def crcd (f : Flit) : Flit := { f with crc := flitCrc f }
def flt (vc ty fill psn : Nat) : Flit := crcd ⟨flitHeader 7 3 5 psn vc ty fill, (List.range 224).map (BitVec.ofNat 8), 0, List.replicate 16 0⟩
def fps : State := withPort 4 { up with part := [(13, [1,2,3]), (2, [9])], psnIn := [(13, 100)], credits := [(3,1)] } (withPort 0 up s0)
def longPart : List Byte := [0,0,0x10,0,0,0,0,0] ++ [5,0,0,0] ++ [77,0,0,0,6,0,0,0] ++ [9,0] ++ List.replicate 10 1
def pk : Pkt := { requestPkt 0 0x0000000000001000 5 0 77 6 9 false 64 [] with kind := 1, resp := 0, length := 2, payload := [1,2] }
def ci : QItem := ⟨0, 5, 2, .msg .heartbeat, some 150, false, 0, false, 0⟩
def os : Outst := ⟨9, requestPkt 0 0x0000050000001000 0 0 77 6 9 false 64 [], 4, 0, false⟩
def osS (n : Nat) : State := (onFab (fun f => { f with outst := [{ os with resends := n }] }) (withPort 5 up (withPort 4 up s0)))
def v1 : Flit := { flt 13 2 224 100 with crc := 12345 }
def v2 : State := (withPort 17 { up with replay := [(6, flt 2 2 2 2), (7, flt 1 1 1 1)], lseq := 8 } s0)
def v3 : State := (withPort 17 { up with queue := [⟨0, 5, 1, .msg .heartbeat, none, true, 0, false, 0⟩], lseq := 8, credits := [(0,5)] } s0)
def v4 : QItem := ⟨0, 5, 1, .msg .heartbeat, none, true, 0, false, 0⟩
def v5 : State := (withPort 17 { up with queue := [⟨3, 5, 1, .msg .heartbeat, none, true, 0, false, 0⟩], lseq := 8 } s0)
def v6 : QItem := ⟨3, 5, 1, .msg .heartbeat, none, true, 0, false, 0⟩
def v7 : State := (withPort 17 { PortU.reset with lseq := 8 } s0)
def v8 : State := (withPort 4 { up with part := [(13, longPart)] } (withPort 0 up s0))
def v9 : State := (withPort 4 { up with part := [(13, longPart)], stat := 0 } s0)
def v10 : State := (withPort 4 { up with part := [(13, longPart)] } s0)
def v11 : Pkt := { pk with kind := 0, payload := [], length := 64 }
def v12 : Pkt := { pk with gaddr := setFld 0x1000 63 58 0x20, kind := 0, job := 0, payload := [1], length := 1 }
def v13 : State := { withPort 4 { up with tollStat := 0xFFFF0002, queue := [ci, ci] } s0 with rack := 399 }
def v14 : State := { withPort 4 { up with tollStat := 0x00010001, queue := [ci, ci] } s0 with rack := 399 }
def v15 : Outst := { os with resends := 1 }
def v16 : State := (onFab (fun f => { f with timeCfg := 3, beacon := some 5 }) s0)
def v17 : State := { onFab (fun f => { f with timeStat := 1, timeCfg := 5 }) s0 with rack := 0x100000 }
def v18 : State := { onFab (fun f => { f with timeStat := 1, timeCfg := 5 }) s0 with rack := 0x100001 }
def v19 : State := (onFab (fun f => { f with timeStat := 9, timeCfg := 5, refGone := true }) s0)
def v20 : State := (onFab (fun f => { f with timeStat := 9, timeCfg := 5, refGone := true }) (withCtx 4 cx s0))
/-- The flit with the parity that its bytes have. -/
def par (f : Flit) : Flit := { f with parity := parityOf ((flitBytes f).take 240) }
theorem par_kept (f : Flit) (h : (flitBody f).length = 232) : parityOf ((flitBytes (par f)).take 240) = (par f).parity := by
  have e : ∀ p, (flitBytes { f with parity := p }).take 240 = flitBody f ++ leBytes 8 f.crc.toNat := fun p =>
    List.take_left' (by rw [List.length_append]; show (flitBody f).length + 8 = 240; omega)
  exact congrArg parityOf ((e _).trans (e f.parity).symm)
theorem correct_par (f : Flit) (h : (flitBody f).length = 232) : correctFlit (par f) = (par f, []) := by
  simp only [correctFlit]
  rw [if_pos (par_kept f h)]
theorem test_witness_FlitRowsComplete_10_1 :
    (4 < 18 ∧ flitCrc (correctFlit (par (flt 13 2 224 100))).1 = (correctFlit (par (flt 13 2 224 100))).1.crc ∧ flitBad (correctFlit (par (flt 13 2 224 100))).1 = false)
    ∧ (4 < 18 ∧ flitCrc (correctFlit (par (flt 13 7 0 100))).1 = (correctFlit (par (flt 13 7 0 100))).1.crc ∧ flitBad (correctFlit (par (flt 13 7 0 100))).1 = true)
    ∧ (4 < 18 ∧ flitCrc (correctFlit (par v1)).1 ≠ (correctFlit (par v1)).1.crc ∧ (port fps 4).owed = [])
    ∧ (17 < 18 ∧ fld (port v2 17).stat 1 0 = 2 ∧ (port v2 17).replay = ((6#12), ((flt 2 2 2 2) : Flit)) :: ([(7, flt 1 1 1 1)] : List (BitVec 12 × Flit)))
    ∧ (17 < 18 ∧ fld (port v3 17).stat 1 0 = 2 ∧ (port v3 17).replay = [] ∧ (port v3 17).queue = [v4] ∧ v4.vc = 0 ∧ v4.admitted = true ∧ v4.flits ≤ 1 ∧ v4.sent = 0 ∧ 0 < tget 0 (port v3 17).credits 0)
    ∧ (4 < 18 ∧ parityOf (List.take 240 (flitBytes (par (flt 13 2 224 100)))) = (par (flt 13 2 224 100)).parity) := 
  ⟨⟨by decide +kernel, by rw [correct_par _ (by decide +kernel)]; decide +kernel, by rw [correct_par _ (by decide +kernel)]; decide +kernel⟩,
    ⟨by decide +kernel, by rw [correct_par _ (by decide +kernel)]; decide +kernel, by rw [correct_par _ (by decide +kernel)]; decide +kernel⟩,
    ⟨by decide +kernel, by rw [correct_par _ (by decide +kernel)]; decide +kernel, by decide +kernel⟩,
    by and_intros <;> decide +kernel,
    by and_intros <;> decide +kernel,
    ⟨by decide +kernel, par_kept _ (by decide +kernel)⟩⟩
theorem test_witness_FlitRowsComplete_10_2 :
    (17 < 18 ∧ fld (port v5 17).stat 1 0 = 2 ∧ (port v5 17).replay = [] ∧ (port v5 17).queue = [v6] ∧ tget 0 (port v5 17).credits v6.vc = 0 ∧ owedCredits v5 17 = none)
    ∧ (17 < 18 ∧ fld (port v7 17).stat 1 0 ≠ 2)
    ∧ (4 < 18 ∧ tget [] (port v8 4).part (13#4).toNat ≠ [] ∧ 0 ≠ 4 ∧ (route (modPort v8 4 fun x => portErr 1 { ctl := x.ctl, stat := x.stat, err := x.err, toll := x.toll, tollStat := x.tollStat, replays := x.replays, stalls := satWord x.stalls 1, stales := x.stales, lanes := x.lanes, redTx := x.redTx, redRx := x.redRx, rate := x.rate, queue := x.queue, retry := x.retry, replay := x.replay, lseq := x.lseq, psnOut := x.psnOut, psnIn := tmod (0#16) x.psnIn (13#4).toNat fun x => x + 1, part := tset [] x.part (13#4).toNat [], credits := x.credits, owed := x.owed, mgmtGap := x.mgmtGap, bulkGap := x.bulkGap, robin := x.robin, badLanes := x.badLanes, narrow := x.narrow, good := x.good, wasUsed := x.wasUsed : PortU }) false (BitVec.ofNat 18 (leNat (List.take 4 (List.drop 8 (tget [] (port v8 4).part (13#4).toNat))))) (courierIndex (modPort v8 4 fun x => portErr 1 { ctl := x.ctl, stat := x.stat, err := x.err, toll := x.toll, tollStat := x.tollStat, replays := x.replays, stalls := satWord x.stalls 1, stales := x.stales, lanes := x.lanes, redTx := x.redTx, redRx := x.redRx, rate := x.rate, queue := x.queue, retry := x.retry, replay := x.replay, lseq := x.lseq, psnOut := x.psnOut, psnIn := tmod (0#16) x.psnIn (13#4).toNat fun x => x + 1, part := tset [] x.part (13#4).toNat [], credits := x.credits, owed := x.owed, mgmtGap := x.mgmtGap, bulkGap := x.bulkGap, robin := x.robin, badLanes := x.badLanes, narrow := x.narrow, good := x.good, wasUsed := x.wasUsed : PortU }) (BitVec.ofNat 18 (leNat (List.take 4 (List.drop 8 (tget [] (port v8 4).part (13#4).toNat)))))) = some 0))
    ∧ (4 < 18 ∧ tget [] (port v9 4).part (13#4).toNat ≠ [] ∧ (route (modPort v9 4 fun x => portErr 1 { ctl := x.ctl, stat := x.stat, err := x.err, toll := x.toll, tollStat := x.tollStat, replays := x.replays, stalls := satWord x.stalls 1, stales := x.stales, lanes := x.lanes, redTx := x.redTx, redRx := x.redRx, rate := x.rate, queue := x.queue, retry := x.retry, replay := x.replay, lseq := x.lseq, psnOut := x.psnOut, psnIn := tmod (0#16) x.psnIn (13#4).toNat fun x => x + 1, part := tset [] x.part (13#4).toNat [], credits := x.credits, owed := x.owed, mgmtGap := x.mgmtGap, bulkGap := x.bulkGap, robin := x.robin, badLanes := x.badLanes, narrow := x.narrow, good := x.good, wasUsed := x.wasUsed : PortU }) false (BitVec.ofNat 18 (leNat (List.take 4 (List.drop 8 (tget [] (port v9 4).part (13#4).toNat))))) (courierIndex (modPort v9 4 fun x => portErr 1 { ctl := x.ctl, stat := x.stat, err := x.err, toll := x.toll, tollStat := x.tollStat, replays := x.replays, stalls := satWord x.stalls 1, stales := x.stales, lanes := x.lanes, redTx := x.redTx, redRx := x.redRx, rate := x.rate, queue := x.queue, retry := x.retry, replay := x.replay, lseq := x.lseq, psnOut := x.psnOut, psnIn := tmod (0#16) x.psnIn (13#4).toNat fun x => x + 1, part := tset [] x.part (13#4).toNat [], credits := x.credits, owed := x.owed, mgmtGap := x.mgmtGap, bulkGap := x.bulkGap, robin := x.robin, badLanes := x.badLanes, narrow := x.narrow, good := x.good, wasUsed := x.wasUsed : PortU }) (BitVec.ofNat 18 (leNat (List.take 4 (List.drop 8 (tget [] (port v9 4).part (13#4).toNat)))))) = none))
    ∧ (4 < 18 ∧ tget [] (port v10 4).part (12#4).toNat = [])
    ∧ (4 < 18 ∧ pktBad ({ pk with kind := 3 } : Pkt) 1 = true)
    ∧ (4 < 18 ∧ pktBad pk 1 = false ∧ pk.kind = 1#2) := by
  and_intros <;> decide +kernel
theorem test_witness_FlitRowsComplete_10_3 :
    (4 < 18 ∧ pktBad v11 1 = false ∧ v11.kind ≠ 1#2 ∧ fld v11.gaddr 63 58 = 0 ∧ v11.payload = [] ∧ (ctxOfJob ((withCtx 0 cx fps) : State) v11.job).isSome = true ∧ 1 ≤ v11.length.toNat ∧ v11.length.toNat ≤ 4096 ∧ localOf v11.gaddr % 4096 + v11.length.toNat ≤ 4096 ∧ inStacks ((withCtx 0 cx fps) : State) (localOf v11.gaddr) v11.length.toNat = true ∧ unpoisoned ((withCtx 0 cx fps) : State) (localOf v11.gaddr) v11.length.toNat = true ∧ route ((withCtx 0 cx fps) : State) (decide (9 ≤ 4)) v11.src ((slotOf v11.src + fld v11.gaddr 15 12) % 16) = some 0)
    ∧ (4 < 18 ∧ pktBad v12 1 = false ∧ v12.kind ≠ 1#2 ∧ isMessage v12 = true ∧ (15 = 0 ∨ 15 = 15) ∧ v12.job = 0#32 ∧ route ((withCtx 0 cx fps) : State) (decide (9 ≤ 4)) v12.src (courierIndex ((withCtx 0 cx fps) : State) v12.src) = some 0)
    ∧ (4 < 18 ∧ pktBad v12 1 = false ∧ v12.kind ≠ 1#2 ∧ isMessage v12 = true ∧ 1 ≤ 1 ∧ 1 ≤ 12) := by
  and_intros <;> decide +kernel
theorem test_witness_TollAndTimeRowsComplete_10_1 :
    (4 < 18 ∧ (port v13 4).queue = ci :: ([ci] : List QItem) ∧ ci.vc = 0 ∧ ci.admitted = false ∧ ci.stamp = some (150#64) ∧ ci.flits ≤ fld (port v13 4).tollStat 6 0)
    ∧ (4 < 18 ∧ courierHead (port v14 4) = some ci ∧ fld (port v14 4).tollStat 6 0 < ci.flits)
    ∧ (findOutst ((osS 0) : State) (9#16) = some os ∧ ((osS 0) : State).fab.outst = [os] ∧ os.resends < fld ((osS 0) : State).fab.stallCfg 13 12 ∧ nextRackPort ((osS 0) : State) os.port = some 5 ∧ typeOf os.pkt.gaddr = 0)
    ∧ (((osS 1) : State).fab.outst = [v15] ∧ v15.tag = (9#16) ∧ fld ((osS 1) : State).fab.stallCfg 13 12 ≤ v15.resends ∧ ((osS 1) : State).fab.held = [] ∧ ((osS 1) : State).host.running = [] ∧ ((osS 1) : State).launches = [] ∧ ((osS 1) : State).rel.mirror = [])
    ∧ (bit v16.fab.timeStat 0 = false ∧ v16.fab.beacon = some (5#44) ∧ isMaster v16 = false)
    ∧ (bit s0.fab.timeStat 0 = false ∧ s0.fab.beacon = none ∧ isMaster s0 = true) := by
  and_intros <;> decide +kernel
theorem test_witness_TollAndTimeRowsComplete_10_2 :
    (bit v17.fab.timeStat 0 = true ∧ isMaster v17 = false ∧ BitVec.toNat v17.rack % 2 ^ 20 = 0)
    ∧ (bit v18.fab.timeStat 0 = true ∧ isMaster v18 = false ∧ BitVec.toNat v18.rack % 2 ^ 20 ≠ 0)
    ∧ (v19.fab.refGone = true ∧ anyCtx v19 = false)
    ∧ (v20.fab.refGone = true ∧ anyCtx v20 = true) := by
  and_intros <;> decide +kernel
end Sys2Proof.Tests.W10

namespace Sys2Proof.Tests.W11
open Sys2Proof.Tests.W
def blk (e : Nat) (v : Int) : ZqBlock := ⟨e, List.replicate 32 (some v)⟩
def pr : Product := ⟨0, 4, 8, 0, [blk 100 5], [], false, [], 0, 0, []⟩
def arrL : ArrU := { act with cfg := 0x00018028, wrstat := 1 }
def prS (u : ArrU) : State := withLaunch (mkLaunch 0 0) (withCtx 0 { cx with layers := [(1, ly)] } (withArr 0 u s0))
def lyPol : Layer := { mkLayer 1 8 8 0 true false true 0 1 3 2 with st := { LayerSt.fresh with fwdEpoch := some 5 } }
def prP (u : ArrU) : State := withLaunch (mkLaunch 0 0) (withCtx 0 { cx with layers := [(1, lyPol)] } (withArr 0 u s0))
def prR : Product := { pr with spans := [⟨100, [5, -3, 7]⟩], acc := [[0,0]] }
def rr0 : ReadRes := ⟨2, 0, List.replicate 528 0⟩
def rr1 : ReadRes := ⟨2, 0, List.replicate 528 1⟩
def bl : List ZqBlock := [blk 100 5, ⟨98, (List.range 32).map fun i => if i = 3 then none else some (Int.ofNat i - 9)⟩, ⟨255, List.replicate 32 (some 3)⟩]
def ca : State := withArr 9 { act with reads := 0xFFFFFFFF, image := [(1,2)] } s0
def cf : State := (List.range 16).foldl (fun s i => withArr (20 + i) { act with state := 2, cal := some ⟨true, 32768, 300⟩ } s) ca
def ce : State := withArr 9 { act with state := 0x1802, cal := some ⟨true, 32768, 300⟩, reads := 5 } s0
def fitG : CalFit := ⟨[], [], []⟩
def fitB : CalFit := ⟨[(0, 3, ⟨4096, 0⟩)], [], []⟩
def ceR : State := withArr 9 { act with state := 0x1802, cal := some ⟨true, 32768, 300⟩, reads := 5, recovered := true } s0
def v1 : State := (prS { arrL with queue := [pr] })
def v2 : State := (prP { arrL with queue := [pr], wrstat := 0 })
def v3 : State := (prS { arrL with queue := [pr], wrstat := 0 })
def v4 : State := (prS { arrL with queue := [pr], cur := some pr })
def v5 : State := (prS { arrL with cur := some prR, image := [(0,3),(1,2),(528,1)] })
def v6 : State := (prS { arrL with cur := some prR, flight := [rr1], failed := some rr0 })
def v7 : State := (prS { arrL with cur := some { prR with plane := 8 } })
def v8 : Product := { prR with plane := 8 }
def v9 : State := (prS { arrL with dig := some prR })
def v10 : State := (withArr 9 { act with state := 0x4000, dueOrder := some 3, pendCause := 2, pendPeriodic := true } s0)
def v11 : CalFit := ⟨[], [], [(7, [(0, 63), (20, 0), (40, 63)])]⟩
def v12 : List (ℕ × ℕ) := [(0, 63), (20, 0), (40, 63)]
theorem getD_rep (n i : Nat) : (List.replicate n 0).getD i 0 = 0 := by
  simp only [List.getD_eq_getElem?_getD, List.getElem?_replicate]
  split <;> rfl
theorem foldl_still (f : Nat → Nat) (h : ∀ i, f i = 0) (l : List Nat) (n : Nat) : l.foldl (fun n i => n + f i) n = n := by
  induction l generalizing n with
  | nil => rfl
  | cons i t ih => rw [List.foldl_cons, h, Nat.add_zero, ih]
theorem recombine_rep (m n : Nat) (cols : List Nat) : recombine m (List.replicate n 0) cols = 0 :=
  foldl_still _ (fun d => by rw [getD_rep, Nat.mul_zero]) _ _
/-- An array with no level and no trim reads zeros. -/
theorem codes_zero (u : ArrU) (p : Product) (plane i : Nat) (hu : u.image = []) (ht : u.trims = []) (hr : arrRange u = 5) :
    readCodes u p plane i [] = List.replicate 528 0 := by
  have hs : ∀ rows c, columnSum u rows c = 0 := fun rows c => foldl_still _ (fun r => by simp only [cellLevel, hu]; rfl) _ _
  simp only [readCodes, hs, hr, convert, ht, tget, deviation, List.find?_nil]
  exact List.eq_replicate_iff.2 ⟨by rw [List.length_map, List.length_range], fun x hx => by
    obtain ⟨_, _, rfl⟩ := List.mem_map.1 hx
    decide⟩
/-- Where no cell holds a level and no deviation is listed, no column shows anything. -/
theorem blank_column (u : ArrU) (hu : u.image = []) (p : Nat) : blankColumn (calPlan u) [] p = true := by
  have e : (calPlan u).cells.getD p [] = [] := by
    simp only [calPlan, List.getD_eq_getElem?_getD, List.getElem?_map]
    cases (List.range 528)[p]? <;> simp [columnCells, hu]
  simp only [blankColumn, e]
  rfl
/-- There no trim is solved. -/
theorem fit_blank (u : ArrU) (free : Nat) (hu : u.image = []) : fitColumns u (calPlan u) ⟨[], [], []⟩ free = [] := by
  refine List.filterMap_eq_nil_iff.2 fun p _ => ?_
  have e : patternSamples u (calPlan u) ⟨[], [], []⟩ free p = [] := by simp only [patternSamples, blank_column u hu, if_true]
  rw [e]
  rfl
/-- One column that shows a trim beyond the limits makes the fit fail. -/
theorem fit_bad (u : ArrU) (plan : CalPlan) (fit : CalFit) (free p : Nat) (hp : p ∈ fittedColumns)
    (h : ((fitTrim (tget 0#16 u.trims (converterOf u p)) (patternSamples u plan fit free p)).any fun x => !trimFits x) = true) :
    ((fitColumns u plan fit free).all fun y => trimFits y.2) = false := by
  obtain ⟨x, e, hx⟩ := (Option.any_eq_true _ _).1 h
  refine List.all_eq_false.2 ⟨(converterOf u p, x), List.mem_filterMap.2 ⟨p, hp, by rw [e]; rfl⟩, ?_⟩
  simpa using hx
/-- The verify of such an array, with every trim 0, shows no error. -/
theorem verify_blank (u v : ArrU) (hu : u.image = []) (ht : v.trims = []) : verifyError v (calPlan u) [] = 0 := by
  have e : ∀ p, columnError v (calPlan u) [] p = 0 := fun p => by
    have hv : convert v p ⟨0, 0⟩ = 0 := by
      simp only [convert, ht, tget]
      decide
    simp only [columnError, blank_column u hu, if_true, hv]
    rfl
  have f : ∀ (l : List Nat) (n : Int), l.foldl (fun n d => n + columnError v (calPlan u) [] (dataCol d)) n = n := by
    intro l
    induction l with
    | nil => exact fun _ => rfl
    | cons d t ih =>
      intro n
      rw [List.foldl_cons, e, Int.add_zero]
      exact ih n
  unfold verifyError
  rw [f]
  rfl
theorem test_witness_ForwardProductRowsComplete_11_1 :
    (0 < 4096 ∧ (arr v1 0).queue = pr :: ([] : List Product) ∧ findLaunch v1 pr.launch = some ((mkLaunch 0 0) : LaunchS) ∧ layerOfArray v1 0 = some ((0#4), ly) ∧ arrFenced v1 0 = false ∧ serves v1 0 = true ∧ ((lSlice ly && lPolicy ly) = false ∨ ((lArrays ly).all fun b => coreOfArray b != coreOfArray 0 || arrFenced v1 b || serves v1 b) = true) ∧ (arr v1 0).cur = none ∧ regionOn (arrRegState v1 (clusterOfArray 0)) = true ∧ pr.inN ≠ 1)
    ∧ (0 < 4096 ∧ (arr v2 0).queue = pr :: ([] : List Product) ∧ findLaunch v2 pr.launch = some ((mkLaunch 0 0) : LaunchS) ∧ layerOfArray v2 0 = some ((0#4), lyPol) ∧ arrFenced v2 0 = false ∧ serves v2 0 = false ∧ lPolicy lyPol = true ∧ lyPol.st.fwdEpoch = some (ctxU v2 (0#4)).epoch ∧ capAllows v2 ((mkLaunch 0 0) : LaunchS) 0 = true ∧ (arr v2 0).dig = none ∧ regionOn (digState v2 (clusterOfCore (coreFor v2 0))) = true)
    ∧ (0 < 4096 ∧ (arr v3 0).queue = pr :: ([] : List Product) ∧ findLaunch v3 pr.launch = some ((mkLaunch 0 0) : LaunchS) ∧ layerOfArray v3 0 = some ((0#4), ly) ∧ arrFenced v3 0 = false ∧ serves v3 0 = false ∧ lPolicy ly = false) := by
  and_intros <;> decide +kernel
theorem test_witness_ForwardProductRowsComplete_11_2 :
    (0 < 4096 ∧ (arr v4 0).queue = pr :: ([] : List Product) ∧ findLaunch v4 pr.launch = some ((mkLaunch 0 0) : LaunchS) ∧ layerOfArray v4 0 = some ((0#4), ly) ∧ arrFenced v4 0 = false ∧ serves v4 0 = true ∧ ((lSlice ly && lPolicy ly) = false ∨ ((lArrays ly).all fun b => coreOfArray b != coreOfArray 0 || arrFenced v4 b || serves v4 b) = true) ∧ ((arr v4 0).cur ≠ none ∨ regionOn (arrRegState v4 (clusterOfArray 0)) = false))
    ∧ (4095 < 4096 ∧ (arr s0 4095).queue = [])
    ∧ (0 < 4096 ∧ (arr v5 0).cur = some prR ∧ prR.plane < planeCount prR.inN ∧ (arr v5 0).failed = none ∧ arrMode (arr v5 0) = 0 ∧ (arr v5 0).trimHeld = [])
    ∧ (0 < 4096 ∧ (arr v6 0).cur = some prR ∧ (arr v6 0).flight = rr1 :: ([] : List ReadRes) ∧ (arr v6 0).failed = some rr0 ∧ (arr v6 0).behind.length < 2)
    ∧ (0 < 4096 ∧ (arr v6 0).cur = some prR ∧ (arr v6 0).failed = some rr0 ∧ (compareRead (applyTrims (arr v6 0)) (readCodes (applyTrims (arr v6 0)) prR rr0.plane rr0.span ([] : List (ℕ × Dy)))).pass = true) := 
  ⟨by and_intros <;> decide +kernel,
    by and_intros <;> decide +kernel,
    by and_intros <;> decide +kernel,
    by and_intros <;> decide +kernel,
    ⟨by decide +kernel, by decide +kernel, by decide +kernel, by
      rw [codes_zero _ _ _ _ rfl rfl (by decide)]
      simp only [compareRead, recombine_rep, getD_rep]
      decide +kernel⟩⟩
theorem test_witness_ForwardProductRowsComplete_11_3 :
    (0 < 4096 ∧ arrMode (arr v7 0) = 0 ∧ bit (arr v7 0).state 16 = false ∧ (arr v7 0).wantRefresh = false ∧ (arr v7 0).wantCal = false ∧ (arr v7 0).granted = false ∧ (arr v7 0).dueOrder = none ∧ bit (arr v7 0).state 17 = false ∧ regionOn (arrRegState v7 (clusterOfArray 0)) = true ∧ (arr v7 0).cur = some v8 ∧ (arr v7 0).dig = none ∧ productDone (arr v7 0) v8 = true)
    ∧ (0 < 4096 ∧ arrMode (arr v9 0) = 0 ∧ bit (arr v9 0).state 16 = false ∧ (arr v9 0).wantRefresh = false ∧ (arr v9 0).wantCal = false ∧ (arr v9 0).granted = false ∧ (arr v9 0).dueOrder = none ∧ bit (arr v9 0).state 17 = false ∧ regionOn (arrRegState v9 (clusterOfArray 0)) = true ∧ (arr v9 0).cur = none ∧ (arr v9 0).dig = some prR) := by
  and_intros <;> decide +kernel
theorem test_witness_AlignmentAndCompare_11 :
    (8 ≠ 1 ∧ (List.filter (fun b => b.e != 255) (List.take ((32 + 31) / 32) (List.drop (64 / 32) bl)) = []))
    ∧ (((((List.range 8).any fun g => decide (checkDigits (arrWidth arrL) ≤ g) && decide (fld arrL.chkcfg 11 8 < ((List.replicate 528 0) : List ℕ).getD (checkCol g) 0)) || (List.range 512).any fun d => decide (usedCols (arrWidth arrL) ≤ d) && decide (fld arrL.chkcfg 11 8 < ((List.replicate 528 0) : List ℕ).getD (dataCol d) 0)) = false) ∧ (recombine (max 1 (colsPerWeight (arrWidth arrL))) ((List.replicate 528 0) : List ℕ) (List.range (usedCols (arrWidth arrL))) = List.foldl (fun n g => n + 4 ^ g * ((List.replicate 528 0) : List ℕ).getD (checkCol g) 0) 0 (List.range (checkDigits (arrWidth arrL))))) := 
  ⟨by and_intros <;> decide +kernel,
    ⟨by
      simp only [getD_rep, Nat.not_lt_zero, decide_false, Bool.and_false]
      decide +kernel, by
      simp only [recombine_rep, getD_rep]
      decide +kernel⟩⟩
theorem test_witness_CalibrationRowsComplete_11_1 :
    (9 < 4096 ∧ idleActive ca 9 = true ∧ slotFree ca (9 / 128) = true ∧ 2 ^ fld (arr ca 9).calp 23 19 ≤ BitVec.toNat (arr ca 9).reads)
    ∧ (9 < 4096 ∧ idleActive cf 9 = true ∧ slotFree cf (9 / 128) = false ∧ ((List.map (fun x => x.1) cf.arrays).Nodup))
    ∧ (9 < 4096 ∧ BitVec.toNat (arr s0 9).reads < 2 ^ fld (arr s0 9).calp 23 19)
    ∧ (9 < 4096 ∧ -256 ≤ ((-256) : ℤ) ∧ ((-256) : ℤ) ≤ 767)
    ∧ (9 < 4096 ∧ firstDue v10 (9 / 128) = some 9 ∧ slotFree v10 (9 / 128) = true ∧ arrMode (arr v10 9) = 0 ∧ bit (arr v10 9).state 17 = false ∧ (arr v10 9).cur = none ∧ regionOn (arrRegState v10 (9 / 128)) = true ∧ bit (arr v10 9).state 16 = false ∧ (arr v10 9).wantRefresh = false ∧ (arr v10 9).wantCal = false ∧ (arr v10 9).granted = false)
    ∧ (9 < 4096 ∧ firstDue s0 (9 / 128) = none) := by
  and_intros <;> decide +kernel
theorem test_witness_CalibrationRowsComplete_11_2 :
    9 < 4096 ∧ arrMode (arr ce 9) = 2 ∧ outOfWork (arr ce 9) = false ∧ ce.host.running = [] ∧ fitG.test = [] ∧ (arr ce 9).cal = some (⟨true, 32768, 300⟩ : CalOp) ∧ (((fitColumns (arr ce 9) (calPlan (arr ce 9)) fitG (freeSpares (arr ce 9)).length).all fun y => trimFits y.2) = true) ∧ (verifyError { state := (arr ce 9).state, cfg := (arr ce 9).cfg, chkcfg := (arr ce 9).chkcfg, calp := (arr ce 9).calp, qual := (arr ce 9).qual, err := (arr ce 9).err, evcnt := (arr ce 9).evcnt, clipCnt := (arr ce 9).clipCnt, reads := (arr ce 9).reads, wrcfg := (arr ce 9).wrcfg, wrstat := (arr ce 9).wrstat, wrtime := (arr ce 9).wrtime, wrerr := (arr ce 9).wrerr, spareMap := (arr ce 9).spareMap, image := (arr ce 9).image, trims := List.foldl (fun t y => tset (0#16) t y.1 (trimWord y.2)) (arr ce 9).trims (fitColumns (arr ce 9) (calPlan (arr ce 9)) fitG (freeSpares (arr ce 9)).length), trimHeld := (arr ce 9).trimHeld, cfgHeld := (arr ce 9).cfgHeld, chkHeld := (arr ce 9).chkHeld, dirty := (arr ce 9).dirty, writes := (arr ce 9).writes, refreshes := (arr ce 9).refreshes, pulses := (arr ce 9).pulses, stuck := (arr ce 9).stuck, hours := (arr ce 9).hours, groups := (arr ce 9).groups, traceRef := (arr ce 9).traceRef, traceLast := (arr ce 9).traceLast, traceTj := (arr ce 9).traceTj, traces := (arr ce 9).traces, request := (arr ce 9).request, refreshOrder := (arr ce 9).refreshOrder, granted := (arr ce 9).granted, stamp := (arr ce 9).stamp, byCommand := (arr ce 9).byCommand, write := (arr ce 9).write, cal := (arr ce 9).cal, pendCause := (arr ce 9).pendCause, pendPeriodic := (arr ce 9).pendPeriodic, refreshCause := (arr ce 9).refreshCause, dueOrder := (arr ce 9).dueOrder, yielded := (arr ce 9).yielded, slotKept := (arr ce 9).slotKept, wantCal := (arr ce 9).wantCal, wantRefresh := (arr ce 9).wantRefresh, recovered := (arr ce 9).recovered, queue := (arr ce 9).queue, cur := (arr ce 9).cur, dig := (arr ce 9).dig, flight := (arr ce 9).flight, failed := (arr ce 9).failed, behind := (arr ce 9).behind, retest := (arr ce 9).retest : ArrU } (calPlan (arr ce 9)) fitG.verify ≤ 2 ^ 51 * fld (arr ce 9).calp 3 0 * fld (arr ce 9).calp 3 0) ∧ fld (arr ce 9).state 16 14 = 0 ∧ (arr ce 9).retest = false := 
  ⟨by decide +kernel, by decide +kernel, by decide +kernel, by decide +kernel, by decide +kernel, by decide +kernel, by
      rw [show fitG = ⟨[], [], []⟩ from rfl, fit_blank _ _ rfl]
      rfl, by
      refine (verify_blank (arr ce 9) _ rfl ?_).le.trans (Nat.zero_le _)
      rw [show fitG = ⟨[], [], []⟩ from rfl, fit_blank _ _ rfl]
      rfl, by decide +kernel, by decide +kernel⟩
theorem test_witness_CalibrationRowsComplete_11_3 :
    9 < 4096 ∧ arrMode (arr ce 9) = 2 ∧ outOfWork (arr ce 9) = false ∧ ce.host.running = [] ∧ fitB.test = [] ∧ (arr ce 9).cal = some (⟨true, 32768, 300⟩ : CalOp) ∧ (((fitColumns (arr ce 9) (calPlan (arr ce 9)) fitB (freeSpares (arr ce 9)).length).all fun y => trimFits y.2) = false ∨ 2 ^ 51 * fld (arr ce 9).calp 3 0 * fld (arr ce 9).calp 3 0 < verifyError { state := (arr ce 9).state, cfg := (arr ce 9).cfg, chkcfg := (arr ce 9).chkcfg, calp := (arr ce 9).calp, qual := (arr ce 9).qual, err := (arr ce 9).err, evcnt := (arr ce 9).evcnt, clipCnt := (arr ce 9).clipCnt, reads := (arr ce 9).reads, wrcfg := (arr ce 9).wrcfg, wrstat := (arr ce 9).wrstat, wrtime := (arr ce 9).wrtime, wrerr := (arr ce 9).wrerr, spareMap := (arr ce 9).spareMap, image := (arr ce 9).image, trims := List.foldl (fun t y => tset (0#16) t y.1 (trimWord y.2)) (arr ce 9).trims (fitColumns (arr ce 9) (calPlan (arr ce 9)) fitB (freeSpares (arr ce 9)).length), trimHeld := (arr ce 9).trimHeld, cfgHeld := (arr ce 9).cfgHeld, chkHeld := (arr ce 9).chkHeld, dirty := (arr ce 9).dirty, writes := (arr ce 9).writes, refreshes := (arr ce 9).refreshes, pulses := (arr ce 9).pulses, stuck := (arr ce 9).stuck, hours := (arr ce 9).hours, groups := (arr ce 9).groups, traceRef := (arr ce 9).traceRef, traceLast := (arr ce 9).traceLast, traceTj := (arr ce 9).traceTj, traces := (arr ce 9).traces, request := (arr ce 9).request, refreshOrder := (arr ce 9).refreshOrder, granted := (arr ce 9).granted, stamp := (arr ce 9).stamp, byCommand := (arr ce 9).byCommand, write := (arr ce 9).write, cal := (arr ce 9).cal, pendCause := (arr ce 9).pendCause, pendPeriodic := (arr ce 9).pendPeriodic, refreshCause := (arr ce 9).refreshCause, dueOrder := (arr ce 9).dueOrder, yielded := (arr ce 9).yielded, slotKept := (arr ce 9).slotKept, wantCal := (arr ce 9).wantCal, wantRefresh := (arr ce 9).wantRefresh, recovered := (arr ce 9).recovered, queue := (arr ce 9).queue, cur := (arr ce 9).cur, dig := (arr ce 9).dig, flight := (arr ce 9).flight, failed := (arr ce 9).failed, behind := (arr ce 9).behind, retest := (arr ce 9).retest : ArrU } (calPlan (arr ce 9)) fitB.verify) ∧ (arr ce 9).recovered = false := 
  ⟨by decide +kernel, by decide +kernel, by decide +kernel, by decide +kernel, by decide +kernel, by decide +kernel, .inl (fit_bad _ _ _ _ 3 (by decide +kernel) (by decide +kernel)), by decide +kernel⟩
theorem test_witness_CalibrationRowsComplete_11_4 :
    9 < 4096 ∧ arrMode (arr ceR 9) = 2 ∧ outOfWork (arr ceR 9) = false ∧ ceR.host.running = [] ∧ fitB.test = [] ∧ (arr ceR 9).cal = some (⟨true, 32768, 300⟩ : CalOp) ∧ (((fitColumns (arr ceR 9) (calPlan (arr ceR 9)) fitB (freeSpares (arr ceR 9)).length).all fun y => trimFits y.2) = false ∨ 2 ^ 51 * fld (arr ceR 9).calp 3 0 * fld (arr ceR 9).calp 3 0 < verifyError { state := (arr ceR 9).state, cfg := (arr ceR 9).cfg, chkcfg := (arr ceR 9).chkcfg, calp := (arr ceR 9).calp, qual := (arr ceR 9).qual, err := (arr ceR 9).err, evcnt := (arr ceR 9).evcnt, clipCnt := (arr ceR 9).clipCnt, reads := (arr ceR 9).reads, wrcfg := (arr ceR 9).wrcfg, wrstat := (arr ceR 9).wrstat, wrtime := (arr ceR 9).wrtime, wrerr := (arr ceR 9).wrerr, spareMap := (arr ceR 9).spareMap, image := (arr ceR 9).image, trims := List.foldl (fun t y => tset (0#16) t y.1 (trimWord y.2)) (arr ceR 9).trims (fitColumns (arr ceR 9) (calPlan (arr ceR 9)) fitB (freeSpares (arr ceR 9)).length), trimHeld := (arr ceR 9).trimHeld, cfgHeld := (arr ceR 9).cfgHeld, chkHeld := (arr ceR 9).chkHeld, dirty := (arr ceR 9).dirty, writes := (arr ceR 9).writes, refreshes := (arr ceR 9).refreshes, pulses := (arr ceR 9).pulses, stuck := (arr ceR 9).stuck, hours := (arr ceR 9).hours, groups := (arr ceR 9).groups, traceRef := (arr ceR 9).traceRef, traceLast := (arr ceR 9).traceLast, traceTj := (arr ceR 9).traceTj, traces := (arr ceR 9).traces, request := (arr ceR 9).request, refreshOrder := (arr ceR 9).refreshOrder, granted := (arr ceR 9).granted, stamp := (arr ceR 9).stamp, byCommand := (arr ceR 9).byCommand, write := (arr ceR 9).write, cal := (arr ceR 9).cal, pendCause := (arr ceR 9).pendCause, pendPeriodic := (arr ceR 9).pendPeriodic, refreshCause := (arr ceR 9).refreshCause, dueOrder := (arr ceR 9).dueOrder, yielded := (arr ceR 9).yielded, slotKept := (arr ceR 9).slotKept, wantCal := (arr ceR 9).wantCal, wantRefresh := (arr ceR 9).wantRefresh, recovered := (arr ceR 9).recovered, queue := (arr ceR 9).queue, cur := (arr ceR 9).cur, dig := (arr ceR 9).dig, flight := (arr ceR 9).flight, failed := (arr ceR 9).failed, behind := (arr ceR 9).behind, retest := (arr ceR 9).retest : ArrU } (calPlan (arr ceR 9)) fitB.verify) ∧ (arr ceR 9).recovered = true ∧ (arr ceR 9).retest = false ∧ ceR.launches = [] := 
  ⟨by decide +kernel, by decide +kernel, by decide +kernel, by decide +kernel, by decide +kernel, by decide +kernel, .inl (fit_bad _ _ _ _ 3 (by decide +kernel) (by decide +kernel)), by decide +kernel, by decide +kernel, by decide +kernel⟩
theorem test_witness_CalibrationRowsComplete_11_5 :
    (9 < 4096 ∧ arrMode (arr ce 9) = 2 ∧ outOfWork (arr ce 9) = false ∧ ce.host.running = [] ∧ v11.test = [(7, v12)] ∧ 7 < 528 ∧ converterOf (arr ce 9) 7 = 7 ∧ freeSpare (arr ce 9) = some 0 ∧ (arr ce 9).cal = some (⟨true, 32768, 300⟩ : CalOp) ∧ testFails v11 (⟨true, 32768, 300⟩ : CalOp).cti.toNat 7 (arr ce 9) = true)
    ∧ (9 < 4096 ∧ arrMode (arr s0 9) ≠ 2 ∧ s0.host.running = []) := by
  and_intros <;> decide +kernel
end Sys2Proof.Tests.W11

namespace Sys2Proof.Tests.W12
open Sys2Proof.Tests.W
def b5 (s : State) : State := onPwr (fun p => { p with powerLimit := 10 }) (onSec (fun x => { x with boot := 5 }) s)
def gw : WriteOp := { refresh := false, startup := false, command := false, rows := [3, 5], row := none, target := [], iter := 0, low := [], high := [], rowEnded := false, setMv := [], resetMv := [], vband := 1, groups := [], stuck := 0, rowsDone := 0, mismatch := 0, closing := false }
def arrL : ArrU := { act with cfg := 0x00018028, wrstat := 1, state := 1, granted := true, image := [(1,1),(528*3+4,2)] }
def lyW : Layer := mkLayer 1 8 8 0 false false true 0 1 512 64
def wrS (w : WriteOp) : State := putMem (lShadow lyW) (List.replicate 100 7) (withLaunch (mkLaunch 0 0) (withCtx 0 { cx with layers := [(1, lyW)] } (withArr 0 { arrL with write := some w } s0)))
def gi : WriteOp := { gw with row := some 3, rows := [5], target := [(0,3),(4,1),(6,2)], iter := 2, low := [0], high := [4] }
def ge : WriteOp := { gi with rowEnded := true, rows := [] }
def gc : WriteOp := { gw with closing := true, rows := [], rowsDone := 1025 }
def v1 : State := (onPwr (fun p => { p with powerLimit := 0 }) s0)
def v2 : State := (b5 (withArr 9 { act with state := 0x0803, image := [(1,1)] } s0))
def v3 : State := (b5 (withArr 4095 { act with request := some ⟨none, 5⟩, dirty := 5, wrcfg := 1, wrstat := 1, image := [(1,1)] } s0))
def v4 : State := (onPwr (fun p => { p with notices := [⟨3, 0, 0x0FE00200, false, false⟩] }) (wrS gw))
def v5 : State := (wrS { gc with command := true })
def v6 : WriteOp := { gc with command := true }
def v7 : State := (wrS { gc with refresh := true, stuck := 2 })
def v8 : State := (withArr 9 { act with groups := [(1, 1025)] } s0)
theorem test_witness_ArrayWriteRowsComplete_12_1 :
    (9 < 4096 ∧ waitingRequests ((b5 s0) : State) = [])
    ∧ (9 < 4096 ∧ wbEffective v1 ≤ grantsHeld v1)
    ∧ (9 < 4096 ∧ grantsHeld v2 < wbEffective v2 ∧ grantsIn v2 (9 / 128) < fld v2.wbCfg 20 16 ∧ waitingRequests v2 = [{ refresh := true, array := 9 : Waiting }])
    ∧ (4095 < 4096 ∧ grantsHeld v3 < wbEffective v3 ∧ grantsIn v3 (4095 / 128) < fld v3.wbCfg 20 16 ∧ waitingRequests v3 = [{ refresh := false, array := 4095 : Waiting }] ∧ idleActive v3 4095 = true ∧ (arr v3 4095).byCommand = none)
    ∧ (0 < 4096 ∧ (arr v4 0).write = some gw ∧ noticeUnsent v4 1 63 = true)
    ∧ (0 < 4096 ∧ (arr ((wrS gw) : State) 0).write = some gw ∧ gw.row = none ∧ gw.rowsDone = 0 ∧ gw.closing = false ∧ noticeUnsent ((wrS gw) : State) 1 63 = false ∧ gw.rows = 3 :: ([5] : List ℕ) ∧ gw.refresh = false ∧ layerOfArray ((wrS gw) : State) 0 = some ((0#4), lyW) ∧ ((fun l r => ((shadowBytes l 0 r).all fun x => accessible ((wrS gw) : State) false x && !rangePoisoned ((wrS gw) : State) x 1 && !(seen ((wrS gw) : State) x 1).mismatch) = true) lyW 3) ∧ ((wrS gw) : State).host.running = []) := by
  and_intros <;> decide +kernel
theorem test_witness_ArrayWriteRowsComplete_12_2 :
    (0 < 4096 ∧ (arr ((wrS gi) : State) 0).write = some gi ∧ gi.row = some 3 ∧ gi.rowEnded = false ∧ gi.startup = false)
    ∧ (0 < 4096 ∧ (arr ((wrS ge) : State) 0).write = some ge ∧ ge.row = some 3 ∧ ge.rowEnded = true ∧ ge.rows = [] ∧ ((List.map (fun x => x.1) ge.target).Nodup) ∧ (∀ e ∈ ge.target, e.1 < 528))
    ∧ (0 < 4096 ∧ (arr v5 0).write = some v6 ∧ v6.closing = true ∧ v6.stuck = 0 ∧ v6.refresh = false ∧ v6.startup = false ∧ v5.host.running = [] ∧ (arr v5 0).dirty = 0#512 ∧ fld (arr v5 0).state 16 14 = 0)
    ∧ (9 < 4096 ∧ (arr v7 9).write = none)
    ∧ (9 < 4096 ∧ wearDue (9 / 128) v8 = false) := by
  and_intros <;> decide +kernel
end Sys2Proof.Tests.W12

namespace Sys2Proof.Tests.W13
open Sys2Proof.Tests.W
def gw : WriteOp := { refresh := false, startup := false, command := false, rows := [3, 5], row := none, target := [], iter := 0, low := [], high := [], rowEnded := false, setMv := [], resetMv := [], vband := 1, groups := [], stuck := 0, rowsDone := 0, mismatch := 0, closing := false }
def arrL : ArrU := { act with cfg := 0x00018028, wrstat := 1, state := 1, granted := true, image := [(1,1),(528*3+4,2)] }
def gc : WriteOp := { gw with closing := true, rows := [], rowsDone := 1025 }
def lyW : Layer := mkLayer 1 8 8 0 false false true 0 1 512 64
def wrS (w : WriteOp) : State := putMem (lShadow lyW) (List.replicate 100 7) ( (withCtx 0 { cx with layers := [(1, lyW)] } (withArr 0 { arrL with write := some w } s0)))
def qm : Queued := ⟨0, [0x10000000#32 ||| (7 <<< 21) ||| (7 <<< 18), 1, 0x40000000, 0xC0, 0x40001000, 0xC0, 0x1000, 0, 0xFFFFFFFF, 0xFFFFFFFF, BitVec.ofNat 32 (4 + 128 * 8), 0], false⟩
def lz : LaunchS := mkLaunch 0 0
def es (c : CoreU) : State := withLaunch lz (withCore 0 c (withCtx 0 cx s0))
def cr : CoreU := CoreU.reset
def cp (p : BitVec 2) : CoreU := { cr with passq := [qm], power := p }
def ps : Pass := ⟨qm, [], [], -160, false, 0, false⟩
def qb : Queued := ⟨0, [0x20000000#32 ||| (15 <<< 12), 1, 0x2000, 0, 0, 0, 0x1000, 0, 0, 0, BitVec.ofNat 32 4, 0], false⟩
def ac (v : Int) : Acc := ⟨v, false, false, false, false⟩
def hold4 : List (List Acc) := List.replicate 4 ((List.range 8).map fun i => ac (Int.ofNat i * 1000))
def pd : Pass := { ps with acc := List.replicate 4 ((List.range 8).map fun i => ac (Int.ofNat i * 1000)) }
def rtS : State := onSec (fun x => { x with permanent := [(2, 3)] }) (onHost (fun h => { h with running := [⟨W.lp, .retest 1 0⟩] }) (onRel (fun r => { r with coreFence := 5 }) ((List.range 8).foldl (fun s i => withArr i { act with state := 0x20000 } s) (withCore 0 { cr with testing := true } s0))))
def v1 : State := (withArr 10 { act with writes := 5 } (withArr 9 { act with groups := [(1, 1024)] } s0))
def v2 : State := (wrS { gc with refresh := true, stuck := 2 })
def v3 : WriteOp := { gc with refresh := true, stuck := 2 }
def v4 : State := (es { cr with passq := List.replicate 8 qm })
def v5 : State := { es (cp 2) with stacksIn := 0, rel := { RelU.reset with badStacks := 0xFF } }
def v6 : State := (putMem 0xC040000000 [120,1,2,3,4,5,6] (es { cr with stream := some ps, power := 2 }))
def v7 : State := (putMem 0x2000 [120,1,2,3,4,5,6] (es { cr with stream := some { ps with job := qb }, power := 2 }))
def v8 : State := (es { cp 2 with drain := [{ ps with acc := hold4 }, { ps with acc := hold4 }] })
def v9 : State := (es { cr with drain := [pd, ps], power := 2 })
def v10 : State := (es { cr with stream := some ps })
def v11 : State := (es { cr with retry := some qm, passq := [qm] })
def v12 : State := (es { cr with testDue := true })
def v13 : State := (es { cr with testDue := false })
def v14 : State := (withCore 511 { cr with testing := true, passq := [qm] } s0)
theorem test_witness_ArrayWriteRowsComplete_13 :
    (10 < 4096 ∧ wearDue (10 / 128) v1 = true ∧ v1.sec.full = false ∧ journalFits v1.sec.journal 32768 = true)
    ∧ (0 < 4096 ∧ (arr v2 0).write = some v3 ∧ v3.closing = true ∧ v3.stuck ≠ 0 ∧ v3.refresh = true ∧ (arr v2 0).retest = false ∧ bit (arr v2 0).state 17 = false ∧ v2.host.running = [] ∧ v2.launches = []) := by
  and_intros <;> decide +kernel
theorem test_witness_EngineRowsComplete_13_1 :
    (0 < 512 ∧ coreFenced ((es cr) : State) 0 = false ∧ findLaunch ((es cr) : State) 0 = some lz ∧ lz.state = LState.running ∧ ((fun q => formBad q = false ∧ rangesBad ((es cr) : State) 0 q = false ∧ guarded ((es cr) : State) (dDest q) (outBytes q) = false) { launch := 0, words := (qm.words : List Word), retried := false : Queued }) ∧ (Sys2Proof.Machine.core ((es cr) : State) 0).passq.length + (Sys2Proof.Machine.core ((es cr) : State) 0).retry.isSome.toNat < 8)
    ∧ (0 < 512 ∧ coreFenced v4 0 = false ∧ findLaunch v4 0 = some lz ∧ lz.state = LState.running ∧ ((fun q => formBad q = false ∧ rangesBad v4 0 q = false ∧ guarded v4 (dDest q) (outBytes q) = false) { launch := 0, words := (qm.words : List Word), retried := false : Queued }) ∧ 8 ≤ (Sys2Proof.Machine.core v4 0).passq.length + (Sys2Proof.Machine.core v4 0).retry.isSome.toNat)
    ∧ (0 < 512 ∧ coreFenced ((running 0 (es cr)) : State) 0 = false ∧ findLaunch ((running 0 (es cr)) : State) 0 = some lz ∧ lz.state = LState.running ∧ (¬(fun q => formBad q = false ∧ rangesBad ((running 0 (es cr)) : State) 0 q = false ∧ guarded ((running 0 (es cr)) : State) (dDest q) (outBytes q) = false) { launch := 0, words := ([] : List Word), retried := false : Queued }) ∧ lz.kind ≠ 4#4 ∧ ((running 0 (es cr)) : State).host.running = [{ pkt := W.lp, task := Task.launch 0 : Run }] ∧ W.lp.muted = false) := by
  and_intros <;> decide +kernel
theorem test_witness_EngineRowsComplete_13_2 :
    (0 < 512 ∧ coreFenced ((es (cp 2)) : State) 0 = false ∧ (Sys2Proof.Machine.core ((es (cp 2)) : State) 0).passq = qm :: ([] : List Queued) ∧ findLaunch ((es (cp 2)) : State) qm.launch = some lz ∧ (Sys2Proof.Machine.core ((es (cp 2)) : State) 0).stream = none ∧ engineAwake ((es (cp 2)) : State) 0 = true ∧ accHeld (Sys2Proof.Machine.core ((es (cp 2)) : State) 0) = false ∧ regionOn (digState ((es (cp 2)) : State) (0 / 16)) = true ∧ dOut qm ≠ 2 ∧ ((fun q => formBad q = false ∧ rangesBad ((es (cp 2)) : State) 0 q = false ∧ guarded ((es (cp 2)) : State) (dDest q) (outBytes q) = false) qm) ∧ rangesLive ((es (cp 2)) : State) qm = true ∧ qm.retried = false ∧ (CheckSeen.mismatch = CheckSeen.mismatch ∨ CheckSeen.mismatch = CheckSeen.atRest ∨ CheckSeen.mismatch = CheckSeen.good ∧ checkRanges ((es (cp 2)) : State) CheckSeen.good (readRanges qm) = Checked.rest))
    ∧ (0 < 512 ∧ coreFenced ((es (cp 2)) : State) 0 = false ∧ (Sys2Proof.Machine.core ((es (cp 2)) : State) 0).passq = qm :: ([] : List Queued) ∧ findLaunch ((es (cp 2)) : State) qm.launch = some lz ∧ (Sys2Proof.Machine.core ((es (cp 2)) : State) 0).stream = none ∧ engineAwake ((es (cp 2)) : State) 0 = true ∧ accHeld (Sys2Proof.Machine.core ((es (cp 2)) : State) 0) = false ∧ regionOn (digState ((es (cp 2)) : State) (0 / 16)) = true ∧ dOut qm ≠ 2 ∧ ((fun q => formBad q = false ∧ rangesBad ((es (cp 2)) : State) 0 q = false ∧ guarded ((es (cp 2)) : State) (dDest q) (outBytes q) = false) qm) ∧ rangesLive ((es (cp 2)) : State) qm = true ∧ qm.retried = false ∧ (CheckSeen.atRest = CheckSeen.mismatch ∨ CheckSeen.atRest = CheckSeen.atRest ∨ CheckSeen.atRest = CheckSeen.good ∧ checkRanges ((es (cp 2)) : State) CheckSeen.good (readRanges qm) = Checked.rest)) := by
  and_intros <;> decide +kernel
theorem test_witness_EngineRowsComplete_13_3 :
    (0 < 512 ∧ coreFenced v5 0 = false ∧ (Sys2Proof.Machine.core v5 0).passq = qm :: ([] : List Queued) ∧ findLaunch v5 qm.launch = some lz ∧ (Sys2Proof.Machine.core v5 0).stream = none ∧ engineAwake v5 0 = true ∧ accHeld (Sys2Proof.Machine.core v5 0) = false ∧ regionOn (digState v5 (0 / 16)) = true ∧ dOut qm ≠ 2 ∧ ((fun q => formBad q = false ∧ rangesBad v5 0 q = false ∧ guarded v5 (dDest q) (outBytes q) = false) qm) ∧ rangesLive v5 qm = false)
    ∧ (0 < 512 ∧ coreFenced ((es (cp 0)) : State) 0 = false ∧ (Sys2Proof.Machine.core ((es (cp 0)) : State) 0).passq = qm :: ([] : List Queued) ∧ findLaunch ((es (cp 0)) : State) qm.launch = some lz ∧ engineAwake ((es (cp 0)) : State) 0 = false)
    ∧ (0 < 512 ∧ coreFenced v6 0 = false ∧ (Sys2Proof.Machine.core v6 0).stream = some ps ∧ findLaunch v6 ps.job.launch = some lz ∧ rangesLive v6 ps.job = true ∧ dKind ps.job = 1 ∧ v6.poison = [] ∧ v6.rel.badStacks = 0#8) := by
  and_intros <;> decide +kernel
theorem test_witness_EngineRowsComplete_13_4 :
    (0 < 512 ∧ coreFenced v7 0 = false ∧ (Sys2Proof.Machine.core v7 0).stream = some ({ ps with job := qb } : Pass) ∧ findLaunch v7 ({ ps with job := qb } : Pass).job.launch = some lz ∧ rangesLive v7 ({ ps with job := qb } : Pass).job = true ∧ dKind ({ ps with job := qb } : Pass).job = 2 ∧ mayWrite (entryOf v7 0 (dTensor ({ ps with job := qb } : Pass).job)) lz = true ∧ v7.poison = [] ∧ (inStacks v7 (dDest ({ ps with job := qb } : Pass).job) (List.flatMap (fun b => zqBytes (dOut ({ ps with job := qb } : Pass).job - 7) (encodeBlock (dOut ({ ps with job := qb } : Pass).job - 7) none (dTag ({ ps with job := qb } : Pass).job) b.vals).1) (buildOutput v7 ({ ps with job := qb } : Pass).job ({ ps with job := qb } : Pass).bad)).length = true) ∧ (aloof v7 (dDest ({ ps with job := qb } : Pass).job) (List.flatMap (fun b => zqBytes (dOut ({ ps with job := qb } : Pass).job - 7) (encodeBlock (dOut ({ ps with job := qb } : Pass).job - 7) none (dTag ({ ps with job := qb } : Pass).job) b.vals).1) (buildOutput v7 ({ ps with job := qb } : Pass).job ({ ps with job := qb } : Pass).bad)).length (dDest ({ ps with job := qb } : Pass).job) (List.flatMap (fun b => zqBytes (dOut ({ ps with job := qb } : Pass).job - 7) (encodeBlock (dOut ({ ps with job := qb } : Pass).job - 7) none (dTag ({ ps with job := qb } : Pass).job) b.vals).1) (buildOutput v7 ({ ps with job := qb } : Pass).job ({ ps with job := qb } : Pass).bad)).length))
    ∧ (0 < 512 ∧ coreFenced v8 0 = false ∧ (Sys2Proof.Machine.core v8 0).passq = qm :: ([] : List Queued) ∧ findLaunch v8 qm.launch = some lz ∧ accHeld (Sys2Proof.Machine.core v8 0) = true ∧ (Sys2Proof.Machine.core v8 0).stream = none ∧ engineAwake v8 0 = true ∧ regionOn (digState v8 (0 / 16)) = true) := by
  and_intros <;> decide +kernel
theorem test_witness_EngineRowsComplete_13_5 :
    (0 < 512 ∧ coreFenced v9 0 = false ∧ (Sys2Proof.Machine.core v9 0).drain = pd :: ([ps] : List Pass) ∧ findLaunch v9 pd.job.launch = some lz ∧ pd.row < 63 ∧ dOut pd.job ≠ 2 ∧ pd.acc.getD pd.row [] ≠ [] ∧ (((pd.acc.getD pd.row []).all fun x => !x.poison) = true) ∧ (pd.acc.getD pd.row []).length = dCols pd.job ∧ mayWrite (entryOf v9 0 (dTensor pd.job)) lz = true ∧ guarded v9 (dDest pd.job + pd.row * outRowBytes pd.job) (outRowBytes pd.job) = false ∧ inStacks v9 (dDest pd.job + pd.row * outRowBytes pd.job) (outRowBytes pd.job) = true ∧ (aloof v9 (dDest pd.job + pd.row * outRowBytes pd.job) (List.flatMap (fun v => (writeThrough (entryOf v9 0 (dTensor pd.job)) (fmtEpoch v9 lz) (dFmt pd.job) (dTag pd.job) v).1) (chunks 32 (List.map (Acc.present pd.base false) (pd.acc.getD pd.row [])))).length (dDest pd.job + pd.row * outRowBytes pd.job) (List.flatMap (fun v => (writeThrough (entryOf v9 0 (dTensor pd.job)) (fmtEpoch v9 lz) (dFmt pd.job) (dTag pd.job) v).1) (chunks 32 (List.map (Acc.present pd.base false) (pd.acc.getD pd.row [])))).length))
    ∧ (0 < 512 ∧ coreFenced v10 0 = false ∧ (Sys2Proof.Machine.core v10 0).stream ≠ none)
    ∧ (0 < 512 ∧ coreFenced ((es (cp 0)) : State) 0 = false ∧ (Sys2Proof.Machine.core ((es (cp 0)) : State) 0).power = 0#2 ∧ (Sys2Proof.Machine.core ((es (cp 0)) : State) 0).passq ≠ [] ∧ ((es (cp 0)) : State).pwr.notices = [])
    ∧ (0 < 512 ∧ coreFenced v11 0 = false ∧ (Sys2Proof.Machine.core v11 0).retry = some qm ∧ checkRanges v11 CheckSeen.good (readRanges qm) = Checked.clean ∧ eventsWithin v11 (1#4) 0 day + 1 < fld (histCfg v11) 23 16) := by
  and_intros <;> decide +kernel
theorem test_witness_EngineRowsComplete_13_6 :
    (0 < 512 ∧ coreFenced v12 0 = false ∧ (Sys2Proof.Machine.core v12 0).testDue = true ∧ (Sys2Proof.Machine.core v12 0).stream = none ∧ (Sys2Proof.Machine.core v12 0).passq = [] ∧ (Sys2Proof.Machine.core v12 0).drain = [])
    ∧ (0 < 512 ∧ coreFenced v13 0 = false ∧ ((Sys2Proof.Machine.core v13 0).testDue = false ∨ (Sys2Proof.Machine.core v13 0).passq ≠ []))
    ∧ (511 < 512 ∧ coreFenced v14 511 = false ∧ (Sys2Proof.Machine.core v14 511).testing = true ∧ v14.host.running = [] ∧ bit v14.rel.coreFence 511 = false ∧ v14.launches = []) := by
  and_intros <;> decide +kernel
theorem test_witness_CoreRetestReturnsTheCore_13 :
    0 < 512 ∧ (Sys2Proof.Machine.core rtS 0).testing = true ∧ clusterOut rtS (0 / 16) = false ∧ bit rtS.rel.coreFence 0 = true ∧ rtS.host.running = [{ pkt := W.lp, task := Task.retest (1#4) 0 : Run }] ∧ W.lp.muted = false ∧ (∀ i < 8, (arr rtS (8 * 0 + i)).write = none ∧ arrMode (arr rtS (8 * 0 + i)) = 0 ∧ bit (arr rtS (8 * 0 + i)).wrstat 1 = false ∧ (arr rtS (8 * 0 + i)).granted = false ∧ (arr rtS (8 * 0 + i)).request = none) := 
  by and_intros <;> decide +kernel
end Sys2Proof.Tests.W13

namespace Sys2Proof.Tests.W14
open Sys2Proof.Tests.W
def lz : LaunchS := mkLaunch 0 1
def vo (d : VFmt) : VOp := { core := 0, queue := .update, dst := d, entry := 3, launch := 0 }
def vs : State := withLaunch lz (withCore 0 { CoreU.reset with tables := [(0xC03, 0x3F),(0xC08,1)] } (withCtx 0 cx s0))
def ws : List Word := [0, 0x80000000, 1, 0x80000001, 0x3F800000, 0xBF800000, 0x7F800000, 0xFF800000, 0x7FC00000, 0xFFC00001, 0x7F800001, 0x40490FDB, 0x7F7FFFFF]
def fm : FwdForm := ⟨7, 7, .fp32, none, 0, 2, .good⟩
def awk (s : State) : State := (List.range 2).foldl (fun s k => withCore k { CoreU.reset with power := 2 } s) s
def en (ph : Nat) (mb : Nat) (i o : W64) : Prog := { phase := BitVec.ofNat 4 ph, layer := 1, mbFirst := 0, mbCount := BitVec.ofNat 16 mb, tIn := 1, tOut := 2, inAddr := i, outAddr := o, tally := 0, length := 0 }
def fl (k : Nat) (e : Prog) : LaunchS := { mkLaunch 0 k with prog := [e], epoch := 6 }
def lyF : Layer := { mkLayer 1 8 8 0 false false true 0 1 3 2 with st := { LayerSt.fresh with fwdEpoch := some 5, tEpoch := some 5 } }
def fS (k : Nat) (e : Prog) (f : LaunchS → LaunchS) (c : CtxU → CtxU) : State := withArr 0 { act with cfg := 0x00018028, wrstat := 1 } (withLaunch (f (fl k e)) (withCtx 0 (c { cx with layers := [(1, lyF)] }) (putMem 0x8000 ([120,0,0,0] ++ List.range 40 |>.map (fun i => BitVec.ofNat 8 i)) s0)))
def e1 := en 1 2 0x8000 0x9000
def cx0 (c : CtxU) : CtxU := { c with slots := [(0, (0x20000, 8, 4))], resv := [] }
def ga (t : Nat) : ProdRes := ⟨0, t, [(120, List.replicate 66 5)], [], false, false, true⟩
def fg (k : Nat) : LaunchS := { fl k e1 with asked := true, due := 2, gather := [ga 0, ga 1] }
def gd (t : Nat) : ProdRes := ⟨0, t, [], [], false, true, true⟩
def fd (k : Nat) : LaunchS := { fl k e1 with asked := true, due := 2, gather := [gd 0, gd 1] }
def e2 := en 2 2 0x8000 0x9000
def v1 : State := (running 0 (withLaunch (mkLaunch 0 0) (withCore 0 { CoreU.reset with tables := [(0xC03, 0x3F),(0xC08,1)] } (withCtx 0 cx s0))))
def v2 : CoreU := { CoreU.reset with tables := [(0xC03, 0x3F),(0xC0C,1)] }
def v3 : CoreU := { CoreU.reset with tables := [(0xC03, 0xBF),(0xC14,1)] }
def v4 : State := (fS 2 (en 1 0 0x8000 0x9000) id id)
def v5 : LaunchS := (fl 2 (en 1 0 0x8000 0x9000))
def v6 : State := (fS 2 e1 (fun l => { l with asked := true, due := 2 }) id)
def v7 : LaunchS := { fl 2 e1 with asked := true, due := 2 }
def v8 : State := (fS 2 e1 (fun _ => fg 2) id)
def v9 : State := (fS 2 e1 (fun _ => fd 2) id)
def v10 : State := (awk (fS 2 e1 (fun _ => fd 2) id))
def v11 : FwdForm := { fm with check := .atRest }
def v12 : State := (fS 2 e2 id (fun c => { c with epoch := 9 }))
theorem test_witness_VectorOperationsComplete_14 :
    (((vo .fp32) : VOp).core < 512 ∧ coreFenced vs ((vo .fp32) : VOp).core = false ∧ findLaunch vs ((vo .fp32) : VOp).launch = some lz ∧ mayWrite (entryOf vs ((vo .fp32) : VOp).core ((vo .fp32) : VOp).entry.toNat) lz = true)
    ∧ (((vo .bf16) : VOp).core < 512 ∧ coreFenced v1 ((vo .bf16) : VOp).core = false ∧ findLaunch v1 0 = some ((mkLaunch 0 0) : LaunchS) ∧ ((16#6) = 0#6 ∨ 16 ≤ (16#6).toNat) ∧ ((mkLaunch 0 0) : LaunchS).kind ≠ 4#4 ∧ v1.host.running = [{ pkt := W.lp, task := Task.launch 0 : Run }] ∧ W.lp.muted = false ∧ (16#6) ≠ 0#6)
    ∧ (((vo .bf16) : VOp).core < 512 ∧ coreFenced v1 ((vo .bf16) : VOp).core = false ∧ findLaunch v1 0 = some ((mkLaunch 0 0) : LaunchS) ∧ (15#6) ≠ 0#6 ∧ (15#6).toNat < 16) := by
  and_intros <;> decide +kernel
theorem test_witness_VectorCornersAreFixed_14 :
    (isNanF32 (0#32) = false ∧ isNanF32 (1#32) = false)
    ∧ ws.any isNanF32 = true
    ∧ isNanF32 (0xFFC00001#32) = true
    ∧ (slotWord CoreU.reset 0 3080 = 0#32 ∧ isFiniteF32 (slotWord CoreU.reset 0 3072) = true)
    ∧ (slotWord CoreU.reset 0 3088 = 0#32 ∧ isFiniteF32 (slotWord CoreU.reset 0 3072) = true)
    ∧ (slotWord v2 0 3080 = 0#32 ∧ isFiniteF32 (slotWord v2 0 3072) = true)
    ∧ (slotWord v3 0 3088 = 0#32 ∧ isFiniteF32 (slotWord v3 0 3072) = true) := by
  and_intros <;> decide +kernel
theorem test_witness_ForwardAndBackwardRowsComplete_14_1 :
    (atEntry v4 0 1 v5 ((en 1 0 0x8000 0x9000) : Prog) ∧ ((en 1 0 0x8000 0x9000) : Prog).mbCount = 0#16)
    ∧ (atEntry ((fS 1 e1 id cx0) : State) 0 1 ((fl 1 e1) : LaunchS) e1 ∧ e1.mbCount ≠ 0#16 ∧ layerRec ((fS 1 e1 id cx0) : State) ((fl 1 e1) : LaunchS).ctx e1.layer.toNat = some lyF ∧ lyF.st.applying = false ∧ (outranked ((fS 1 e1 id cx0) : State) ((fl 1 e1) : LaunchS) e1 = true ∨ ((fl 1 e1) : LaunchS).kind = 1#4 ∧ holdsStash ((fS 1 e1 id cx0) : State) ((fl 1 e1) : LaunchS) (batchOf ((fl 1 e1) : LaunchS) e1) = false))
    ∧ (atEntry ((fS 2 e1 id id) : State) 0 1 ((fl 2 e1) : LaunchS) e1 ∧ e1.mbCount ≠ 0#16 ∧ layerRec ((fS 2 e1 id id) : State) ((fl 2 e1) : LaunchS).ctx e1.layer.toNat = some lyF ∧ lyF.st.applying = false ∧ outranked ((fS 2 e1 id id) : State) ((fl 2 e1) : LaunchS) e1 = false ∧ (((fl 2 e1) : LaunchS).kind = 1#4 → holdsStash ((fS 2 e1 id id) : State) ((fl 2 e1) : LaunchS) (batchOf ((fl 2 e1) : LaunchS) e1) = true) ∧ ((fl 2 e1) : LaunchS).asked = false ∧ (rangesOk ((fS 2 e1 id id) : State) [((fun k => tokenAddr (BitVec.toNat e1.inAddr) ((fl 2 e1) : LaunchS) fm k (rowBytes (fm.inN.toNat + 1) (lIn lyF))) 0, fm.tokens * rowBytes (fm.inN.toNat + 1) (lIn lyF))] = true))
    ∧ (atEntry v6 0 1 v7 e1 ∧ e1.mbCount ≠ 0#16 ∧ layerRec v6 v7.ctx e1.layer.toNat = some lyF ∧ lyF.st.applying = false ∧ outranked v6 v7 e1 = false ∧ (v7.kind = 1#4 → holdsStash v6 v7 (batchOf v7 e1) = true) ∧ v7.asked = true ∧ v7.gather.length ≠ v7.due) := by
  and_intros <;> decide +kernel
theorem test_witness_ForwardAndBackwardRowsComplete_14_2 :
    (atEntry v8 0 1 ((fg 2) : LaunchS) e1 ∧ e1.mbCount ≠ 0#16 ∧ layerRec v8 ((fg 2) : LaunchS).ctx e1.layer.toNat = some lyF ∧ lyF.st.applying = false ∧ outranked v8 ((fg 2) : LaunchS) e1 = false ∧ (((fg 2) : LaunchS).kind = 1#4 → holdsStash v8 ((fg 2) : LaunchS) (batchOf ((fg 2) : LaunchS) e1) = true) ∧ ((fg 2) : LaunchS).asked = true ∧ ((fg 2) : LaunchS).gather.length = ((fg 2) : LaunchS).due ∧ (enginesAwake v8 (List.map (fun x => x.1) (forwardSlots v8 ((fg 2) : LaunchS) lyF fm)) = true) ∧ (rangesOk v8 (((fun k => tokenAddr (BitVec.toNat e1.inAddr) ((fg 2) : LaunchS) fm k (rowBytes (fm.inN.toNat + 1) (lIn lyF))) 0, fm.tokens * rowBytes (fm.inN.toNat + 1) (lIn lyF)) :: forwardReads v8 ((fg 2) : LaunchS) lyF ((fun k => tokenAddr (BitVec.toNat e1.inAddr) ((fg 2) : LaunchS) fm k (rowBytes (fm.inN.toNat + 1) (lIn lyF))) 0) (fm.tokens * rowBytes (fm.inN.toNat + 1) (lIn lyF))) = true) ∧ ((consume ((fg 2) : LaunchS) fm.check (((fun k => tokenAddr (BitVec.toNat e1.inAddr) ((fg 2) : LaunchS) fm k (rowBytes (fm.inN.toNat + 1) (lIn lyF))) 0, fm.tokens * rowBytes (fm.inN.toNat + 1) (lIn lyF)) :: forwardReads v8 ((fg 2) : LaunchS) lyF ((fun k => tokenAddr (BitVec.toNat e1.inAddr) ((fg 2) : LaunchS) fm k (rowBytes (fm.inN.toNat + 1) (lIn lyF))) 0) (fm.tokens * rowBytes (fm.inN.toNat + 1) (lIn lyF))).tail v8).1 = true) ∧ (rangesPoisoned (consume ((fg 2) : LaunchS) fm.check (((fun k => tokenAddr (BitVec.toNat e1.inAddr) ((fg 2) : LaunchS) fm k (rowBytes (fm.inN.toNat + 1) (lIn lyF))) 0, fm.tokens * rowBytes (fm.inN.toNat + 1) (lIn lyF)) :: forwardReads v8 ((fg 2) : LaunchS) lyF ((fun k => tokenAddr (BitVec.toNat e1.inAddr) ((fg 2) : LaunchS) fm k (rowBytes (fm.inN.toNat + 1) (lIn lyF))) 0) (fm.tokens * rowBytes (fm.inN.toNat + 1) (lIn lyF))).tail v8).2 (((fun k => tokenAddr (BitVec.toNat e1.inAddr) ((fg 2) : LaunchS) fm k (rowBytes (fm.inN.toNat + 1) (lIn lyF))) 0, fm.tokens * rowBytes (fm.inN.toNat + 1) (lIn lyF)) :: forwardReads v8 ((fg 2) : LaunchS) lyF ((fun k => tokenAddr (BitVec.toNat e1.inAddr) ((fg 2) : LaunchS) fm k (rowBytes (fm.inN.toNat + 1) (lIn lyF))) 0) (fm.tokens * rowBytes (fm.inN.toNat + 1) (lIn lyF))) = false) ∧ (lRank lyF ≠ 0 → mayWrite (entryOf v8 (zCore v8 lyF) (BitVec.toNat fm.zEntry)) ((fg 2) : LaunchS) = true) ∧ (∀ o < lOut lyF, mayWrite (entryOf v8 ((fun o => coreFor v8 (lFirst lyF + o / max 1 (weightsPerRow (lWidth lyF)) * lTin lyF)) o) (BitVec.toNat e1.tOut)) ((fg 2) : LaunchS) = true) ∧ (storable v8 ((fun k => tokenAddr (BitVec.toNat e1.outAddr) ((fg 2) : LaunchS) fm k (outBytesOf fm (lOut lyF))) 0) (fm.tokens * outBytesOf fm (lOut lyF)) = true) ∧ (aloof v8 ((fun k => tokenAddr (BitVec.toNat e1.outAddr) ((fg 2) : LaunchS) fm k (outBytesOf fm (lOut lyF))) 0) (fm.tokens * outBytesOf fm (lOut lyF)) ((fun k => tokenAddr (BitVec.toNat e1.outAddr) ((fg 2) : LaunchS) fm k (outBytesOf fm (lOut lyF))) 0) (fm.tokens * outBytesOf fm (lOut lyF))) ∧ (∀ y ∈ ((fun k => tokenAddr (BitVec.toNat e1.inAddr) ((fg 2) : LaunchS) fm k (rowBytes (fm.inN.toNat + 1) (lIn lyF))) 0, fm.tokens * rowBytes (fm.inN.toNat + 1) (lIn lyF)) :: forwardReads v8 ((fg 2) : LaunchS) lyF ((fun k => tokenAddr (BitVec.toNat e1.inAddr) ((fg 2) : LaunchS) fm k (rowBytes (fm.inN.toNat + 1) (lIn lyF))) 0) (fm.tokens * rowBytes (fm.inN.toNat + 1) (lIn lyF)), apart ((fun k => tokenAddr (BitVec.toNat e1.outAddr) ((fg 2) : LaunchS) fm k (outBytesOf fm (lOut lyF))) 0) (fm.tokens * outBytesOf fm (lOut lyF)) y.1 y.2 ∧ aloof v8 ((fun k => tokenAddr (BitVec.toNat e1.outAddr) ((fg 2) : LaunchS) fm k (outBytesOf fm (lOut lyF))) 0) (fm.tokens * outBytesOf fm (lOut lyF)) y.1 y.2) ∧ (((fg 2) : LaunchS).kind = 1#4 ∧ stashKib v8 ((fg 2) : LaunchS) ≠ 0 → storable v8 (stashAddr v8 ((fg 2) : LaunchS) (lNum lyF) (batchOf ((fg 2) : LaunchS) e1) { inN := fm.inN, stashN := fm.inN, out := fm.out, slot := fm.slot, zEntry := fm.zEntry, tokens := fm.tokens, check := fm.check : FwdForm }) (fm.tokens * rowBytes (fm.inN.toNat + 1) (lIn lyF)) = true ∧ apart (stashAddr v8 ((fg 2) : LaunchS) (lNum lyF) (batchOf ((fg 2) : LaunchS) e1) { inN := fm.inN, stashN := fm.inN, out := fm.out, slot := fm.slot, zEntry := fm.zEntry, tokens := fm.tokens, check := fm.check : FwdForm }) (fm.tokens * rowBytes (fm.inN.toNat + 1) (lIn lyF)) ((fun k => tokenAddr (BitVec.toNat e1.outAddr) ((fg 2) : LaunchS) fm k (outBytesOf fm (lOut lyF))) 0) (fm.tokens * outBytesOf fm (lOut lyF)) ∧ aloof v8 (stashAddr v8 ((fg 2) : LaunchS) (lNum lyF) (batchOf ((fg 2) : LaunchS) e1) { inN := fm.inN, stashN := fm.inN, out := fm.out, slot := fm.slot, zEntry := fm.zEntry, tokens := fm.tokens, check := fm.check : FwdForm }) (fm.tokens * rowBytes (fm.inN.toNat + 1) (lIn lyF)) (stashAddr v8 ((fg 2) : LaunchS) (lNum lyF) (batchOf ((fg 2) : LaunchS) e1) { inN := fm.inN, stashN := fm.inN, out := fm.out, slot := fm.slot, zEntry := fm.zEntry, tokens := fm.tokens, check := fm.check : FwdForm }) (fm.tokens * rowBytes (fm.inN.toNat + 1) (lIn lyF)) ∧ aloof v8 (stashAddr v8 ((fg 2) : LaunchS) (lNum lyF) (batchOf ((fg 2) : LaunchS) e1) { inN := fm.inN, stashN := fm.inN, out := fm.out, slot := fm.slot, zEntry := fm.zEntry, tokens := fm.tokens, check := fm.check : FwdForm }) (fm.tokens * rowBytes (fm.inN.toNat + 1) (lIn lyF)) ((fun k => tokenAddr (BitVec.toNat e1.outAddr) ((fg 2) : LaunchS) fm k (outBytesOf fm (lOut lyF))) 0) (fm.tokens * outBytesOf fm (lOut lyF)) ∧ aloof v8 ((fun k => tokenAddr (BitVec.toNat e1.outAddr) ((fg 2) : LaunchS) fm k (outBytesOf fm (lOut lyF))) 0) (fm.tokens * outBytesOf fm (lOut lyF)) (stashAddr v8 ((fg 2) : LaunchS) (lNum lyF) (batchOf ((fg 2) : LaunchS) e1) { inN := fm.inN, stashN := fm.inN, out := fm.out, slot := fm.slot, zEntry := fm.zEntry, tokens := fm.tokens, check := fm.check : FwdForm }) (fm.tokens * rowBytes (fm.inN.toNat + 1) (lIn lyF)) ∧ ∀ y ∈ ((fun k => tokenAddr (BitVec.toNat e1.inAddr) ((fg 2) : LaunchS) fm k (rowBytes (fm.inN.toNat + 1) (lIn lyF))) 0, fm.tokens * rowBytes (fm.inN.toNat + 1) (lIn lyF)) :: forwardReads v8 ((fg 2) : LaunchS) lyF ((fun k => tokenAddr (BitVec.toNat e1.inAddr) ((fg 2) : LaunchS) fm k (rowBytes (fm.inN.toNat + 1) (lIn lyF))) 0) (fm.tokens * rowBytes (fm.inN.toNat + 1) (lIn lyF)), apart (stashAddr v8 ((fg 2) : LaunchS) (lNum lyF) (batchOf ((fg 2) : LaunchS) e1) { inN := fm.inN, stashN := fm.inN, out := fm.out, slot := fm.slot, zEntry := fm.zEntry, tokens := fm.tokens, check := fm.check : FwdForm }) (fm.tokens * rowBytes (fm.inN.toNat + 1) (lIn lyF)) y.1 y.2 ∧ aloof v8 (stashAddr v8 ((fg 2) : LaunchS) (lNum lyF) (batchOf ((fg 2) : LaunchS) e1) { inN := fm.inN, stashN := fm.inN, out := fm.out, slot := fm.slot, zEntry := fm.zEntry, tokens := fm.tokens, check := fm.check : FwdForm }) (fm.tokens * rowBytes (fm.inN.toNat + 1) (lIn lyF)) y.1 y.2))
    ∧ (atEntry v9 0 1 ((fd 2) : LaunchS) e1 ∧ e1.mbCount ≠ 0#16 ∧ layerRec v9 ((fd 2) : LaunchS).ctx e1.layer.toNat = some lyF ∧ lyF.st.applying = false ∧ outranked v9 ((fd 2) : LaunchS) e1 = false ∧ (((fd 2) : LaunchS).kind = 1#4 → holdsStash v9 ((fd 2) : LaunchS) (batchOf ((fd 2) : LaunchS) e1) = true) ∧ ((fd 2) : LaunchS).asked = true ∧ ((fd 2) : LaunchS).gather.length = ((fd 2) : LaunchS).due ∧ (enginesAwake v9 (List.map (fun x => x.1) (forwardSlots v9 ((fd 2) : LaunchS) lyF fm)) = false)) := by
  and_intros <;> decide +kernel
theorem test_witness_ForwardAndBackwardRowsComplete_14_3 :
    (atEntry v10 0 1 ((fd 2) : LaunchS) e1 ∧ e1.mbCount ≠ 0#16 ∧ layerRec v10 ((fd 2) : LaunchS).ctx e1.layer.toNat = some lyF ∧ lyF.st.applying = false ∧ outranked v10 ((fd 2) : LaunchS) e1 = false ∧ (((fd 2) : LaunchS).kind = 1#4 → holdsStash v10 ((fd 2) : LaunchS) (batchOf ((fd 2) : LaunchS) e1) = true) ∧ ((fd 2) : LaunchS).asked = true ∧ ((fd 2) : LaunchS).gather.length = ((fd 2) : LaunchS).due ∧ (enginesAwake v10 (List.map (fun x => x.1) (forwardSlots v10 ((fd 2) : LaunchS) lyF v11)) = true) ∧ (rangesOk v10 (((fun k => tokenAddr (BitVec.toNat e1.inAddr) ((fd 2) : LaunchS) v11 k (rowBytes (v11.inN.toNat + 1) (lIn lyF))) 0, v11.tokens * rowBytes (v11.inN.toNat + 1) (lIn lyF)) :: forwardReads v10 ((fd 2) : LaunchS) lyF ((fun k => tokenAddr (BitVec.toNat e1.inAddr) ((fd 2) : LaunchS) v11 k (rowBytes (v11.inN.toNat + 1) (lIn lyF))) 0) (v11.tokens * rowBytes (v11.inN.toNat + 1) (lIn lyF))) = true) ∧ ((consume ((fd 2) : LaunchS) v11.check (((fun k => tokenAddr (BitVec.toNat e1.inAddr) ((fd 2) : LaunchS) v11 k (rowBytes (v11.inN.toNat + 1) (lIn lyF))) 0, v11.tokens * rowBytes (v11.inN.toNat + 1) (lIn lyF)) :: forwardReads v10 ((fd 2) : LaunchS) lyF ((fun k => tokenAddr (BitVec.toNat e1.inAddr) ((fd 2) : LaunchS) v11 k (rowBytes (v11.inN.toNat + 1) (lIn lyF))) 0) (v11.tokens * rowBytes (v11.inN.toNat + 1) (lIn lyF))).tail v10).1 = false))
    ∧ (atEntry ((fS 2 e2 id id) : State) 0 2 ((fl 2 e2) : LaunchS) e2 ∧ e2.mbCount ≠ 0#16 ∧ layerRec ((fS 2 e2 id id) : State) ((fl 2 e2) : LaunchS).ctx e2.layer.toNat = some lyF ∧ lyF.st.applying = false ∧ lyF.st.tEpoch = some (ctxU ((fS 2 e2 id id) : State) ((fl 2 e2) : LaunchS).ctx).epoch ∧ forwardLeft ((fS 2 e2 id id) : State) ((fl 2 e2) : LaunchS) e2.layer (batchOf ((fl 2 e2) : LaunchS) e2) = false ∧ outranked ((fS 2 e2 id id) : State) ((fl 2 e2) : LaunchS) e2 = false ∧ (enginesAwake ((fS 2 e2 id id) : State) (List.map (fun x => x.1) (columnCores ((fS 2 e2 id id) : State) lyF)) = false)) := by
  and_intros <;> decide +kernel
theorem test_witness_ForwardAndBackwardRowsComplete_14_4 :
    (atEntry ((awk (fS 2 e2 id id)) : State) 0 2 ((fl 2 e2) : LaunchS) e2 ∧ e2.mbCount ≠ 0#16 ∧ layerRec ((awk (fS 2 e2 id id)) : State) ((fl 2 e2) : LaunchS).ctx e2.layer.toNat = some lyF ∧ lyF.st.applying = false ∧ lyF.st.tEpoch = some (ctxU ((awk (fS 2 e2 id id)) : State) ((fl 2 e2) : LaunchS).ctx).epoch ∧ forwardLeft ((awk (fS 2 e2 id id)) : State) ((fl 2 e2) : LaunchS) e2.layer (batchOf ((fl 2 e2) : LaunchS) e2) = false ∧ outranked ((awk (fS 2 e2 id id)) : State) ((fl 2 e2) : LaunchS) e2 = false ∧ (enginesAwake ((awk (fS 2 e2 id id)) : State) (List.map (fun x => x.1) (columnCores ((awk (fS 2 e2 id id)) : State) lyF)) = true) ∧ (rangesOk ((awk (fS 2 e2 id id)) : State) ([((fun k => tokenAddr (BitVec.toNat e2.inAddr) ((fl 2 e2) : LaunchS) fm k (rowBytes (fm.inN.toNat + 1) (lOut lyF))) 0, fm.tokens * rowBytes (fm.inN.toNat + 1) (lOut lyF)), (lT lyF, lIn lyF * rowBytes (lDWidth lyF) (lOut lyF))] ++ if fm.slot.isSome = true then [(stashAddr ((awk (fS 2 e2 id id)) : State) ((fl 2 e2) : LaunchS) (lNum lyF) (batchOf ((fl 2 e2) : LaunchS) e2) fm, fm.tokens * rowBytes (fm.stashN.toNat + 1) (lIn lyF))] else []) = true) ∧ ((consume ((fl 2 e2) : LaunchS) fm.check ([((fun k => tokenAddr (BitVec.toNat e2.inAddr) ((fl 2 e2) : LaunchS) fm k (rowBytes (fm.inN.toNat + 1) (lOut lyF))) 0, fm.tokens * rowBytes (fm.inN.toNat + 1) (lOut lyF)), (lT lyF, lIn lyF * rowBytes (lDWidth lyF) (lOut lyF))] ++ if fm.slot.isSome = true then [(stashAddr ((awk (fS 2 e2 id id)) : State) ((fl 2 e2) : LaunchS) (lNum lyF) (batchOf ((fl 2 e2) : LaunchS) e2) fm, fm.tokens * rowBytes (fm.stashN.toNat + 1) (lIn lyF))] else []) ((awk (fS 2 e2 id id)) : State)).1 = true) ∧ (rangesPoisoned (consume ((fl 2 e2) : LaunchS) fm.check ([((fun k => tokenAddr (BitVec.toNat e2.inAddr) ((fl 2 e2) : LaunchS) fm k (rowBytes (fm.inN.toNat + 1) (lOut lyF))) 0, fm.tokens * rowBytes (fm.inN.toNat + 1) (lOut lyF)), (lT lyF, lIn lyF * rowBytes (lDWidth lyF) (lOut lyF))] ++ if fm.slot.isSome = true then [(stashAddr ((awk (fS 2 e2 id id)) : State) ((fl 2 e2) : LaunchS) (lNum lyF) (batchOf ((fl 2 e2) : LaunchS) e2) fm, fm.tokens * rowBytes (fm.stashN.toNat + 1) (lIn lyF))] else []) ((awk (fS 2 e2 id id)) : State)).2 ([((fun k => tokenAddr (BitVec.toNat e2.inAddr) ((fl 2 e2) : LaunchS) fm k (rowBytes (fm.inN.toNat + 1) (lOut lyF))) 0, fm.tokens * rowBytes (fm.inN.toNat + 1) (lOut lyF)), (lT lyF, lIn lyF * rowBytes (lDWidth lyF) (lOut lyF))] ++ if fm.slot.isSome = true then [(stashAddr ((awk (fS 2 e2 id id)) : State) ((fl 2 e2) : LaunchS) (lNum lyF) (batchOf ((fl 2 e2) : LaunchS) e2) fm, fm.tokens * rowBytes (fm.stashN.toNat + 1) (lIn lyF))] else []) = false) ∧ (∀ i < lIn lyF, mayWrite (entryOf ((awk (fS 2 e2 id id)) : State) ((fun i => coreFor ((awk (fS 2 e2 id id)) : State) (lFirst lyF + i / 512)) i) (BitVec.toNat e2.tOut)) ((fl 2 e2) : LaunchS) = true) ∧ (storable ((awk (fS 2 e2 id id)) : State) ((fun k => tokenAddr (BitVec.toNat e2.outAddr) ((fl 2 e2) : LaunchS) fm k (outBytesOf fm (lIn lyF))) 0) (fm.tokens * outBytesOf fm (lIn lyF)) = true) ∧ (aloof ((awk (fS 2 e2 id id)) : State) ((fun k => tokenAddr (BitVec.toNat e2.outAddr) ((fl 2 e2) : LaunchS) fm k (outBytesOf fm (lIn lyF))) 0) (fm.tokens * outBytesOf fm (lIn lyF)) ((fun k => tokenAddr (BitVec.toNat e2.outAddr) ((fl 2 e2) : LaunchS) fm k (outBytesOf fm (lIn lyF))) 0) (fm.tokens * outBytesOf fm (lIn lyF))) ∧ (∀ y ∈ [((fun k => tokenAddr (BitVec.toNat e2.inAddr) ((fl 2 e2) : LaunchS) fm k (rowBytes (fm.inN.toNat + 1) (lOut lyF))) 0, fm.tokens * rowBytes (fm.inN.toNat + 1) (lOut lyF)), (lT lyF, lIn lyF * rowBytes (lDWidth lyF) (lOut lyF))] ++ if fm.slot.isSome = true then [(stashAddr ((awk (fS 2 e2 id id)) : State) ((fl 2 e2) : LaunchS) (lNum lyF) (batchOf ((fl 2 e2) : LaunchS) e2) fm, fm.tokens * rowBytes (fm.stashN.toNat + 1) (lIn lyF))] else [], apart ((fun k => tokenAddr (BitVec.toNat e2.outAddr) ((fl 2 e2) : LaunchS) fm k (outBytesOf fm (lIn lyF))) 0) (fm.tokens * outBytesOf fm (lIn lyF)) y.1 y.2 ∧ aloof ((awk (fS 2 e2 id id)) : State) ((fun k => tokenAddr (BitVec.toNat e2.outAddr) ((fl 2 e2) : LaunchS) fm k (outBytesOf fm (lIn lyF))) 0) (fm.tokens * outBytesOf fm (lIn lyF)) y.1 y.2))
    ∧ (atEntry v12 0 2 ((fl 2 e2) : LaunchS) e2 ∧ e2.mbCount ≠ 0#16 ∧ layerRec v12 ((fl 2 e2) : LaunchS).ctx e2.layer.toNat = some lyF ∧ lyF.st.applying = false ∧ (lyF.st.tEpoch ≠ some (ctxU v12 ((fl 2 e2) : LaunchS).ctx).epoch ∨ forwardLeft v12 ((fl 2 e2) : LaunchS) e2.layer (batchOf ((fl 2 e2) : LaunchS) e2) = true ∨ outranked v12 ((fl 2 e2) : LaunchS) e2 = true)) := by
  and_intros <;> decide +kernel
end Sys2Proof.Tests.W14

namespace Sys2Proof.Tests.W15
open Sys2Proof.Tests.W
def fm : FwdForm := ⟨7, 7, .fp32, none, 0, 2, .good⟩
def awk (s : State) : State := (List.range 2).foldl (fun s k => withCore k { CoreU.reset with power := 2 } s) s
def en (ph : Nat) (mb : Nat) (i o : W64) : Prog := { phase := BitVec.ofNat 4 ph, layer := 1, mbFirst := 0, mbCount := BitVec.ofNat 16 mb, tIn := 1, tOut := 2, inAddr := i, outAddr := o, tally := 0, length := 0 }
def fl (k : Nat) (e : Prog) : LaunchS := { mkLaunch 0 k with prog := [e], epoch := 6 }
def lyF : Layer := { mkLayer 1 8 8 0 false false true 0 1 3 2 with st := { LayerSt.fresh with fwdEpoch := some 5, tEpoch := some 5 } }
def lyN : Layer := { mkLayer 1 8 8 0 false false true 0 1 3 2 with st := { LayerSt.fresh with fwdEpoch := some 3, tEpoch := none } }
def cxs (c : CtxU) : CtxU := { c with slots := [(0, (0x20000, 8, 4))], resv := [⟨0, 0, 0⟩] }
def fS (r : Layer) (e : Prog) : State := withArr 0 { act with cfg := 0x00018028, wrstat := 1 } (withLaunch (fl 1 e) (withCtx 0 (cxs { cx with layers := [(1, r)] }) (putMem 0x20000 ([121,0,0,0] ++ List.range 40 |>.map (fun i => BitVec.ofNat 8 (3*i))) (putMem 0x8000 ([120,0,0,0] ++ List.range 40 |>.map (fun i => BitVec.ofNat 8 i)) s0))))
def e0 := en 3 0 0x8000 0x0400000000
def e3 := en 3 2 0x8000 0x0400000000
def cv : Caravan := { dummyCv with layer := 1, rows := 2, cols := 3, slices := [(9, 1)], state := 1 }
def cv2 : Caravan := { dummyCv with layer := 1, rows := 2, cols := 3, slices := [(8,1),(9, 2)], state := 1, contrib := some 0x40000, counts := [(0, 3)] }
def rival : LaunchS := { fl 1 (en 3 1 0x8000 0x9000) with uid := 1, slot := 1, epoch := 5 }
def e5 := en 5 2 0x8000 0x0400000000
def e6 := en 6 2 0x8000 0x0400000000
def ns (e : Prog) : State := sealL lyN (putMem (lState lyN + 64) [0,0x3F,1,0x40,0x80,0xBF] (fS lyN e))
def v1 : State := (onFab (fun f => { f with caravans := [cv] }) (fS lyF e3))
def v2 : State := (awk (onFab (fun f => { f with caravans := [cv] }) (fS lyF e3)))
def v3 : FwdForm := { fm with check := .atRest }
def v4 : State := (awk (onFab (fun f => { f with caravans := [cv2] }) (fS lyF e3)))
def v5 : State := (withLaunch rival (fS lyF e3))
def v6 : State := (fS { lyF with st := { lyF.st with fwdEpoch := some 5 } } e5)
def v7 : State := (awk (putMem (lState lyN + 64) [9] (ns e5)))
theorem test_witness_GradientAndImageRowsComplete_15_1 :
    (layerRec ((fS lyF e0) : State) ((fl 1 e0) : LaunchS).ctx e0.layer.toNat = some lyF ∧ lyF.st.applying = false ∧ lNum lyF = e0.layer.toNat ∧ atEntry ((fS lyF e0) : State) 0 3 ((fl 1 e0) : LaunchS) e0 ∧ e0.mbCount = 0#16)
    ∧ (layerRec v1 ((fl 1 e3) : LaunchS).ctx e3.layer.toNat = some lyF ∧ lyF.st.applying = false ∧ lNum lyF = e3.layer.toNat ∧ atEntry v1 0 3 ((fl 1 e3) : LaunchS) e3 ∧ e3.mbCount ≠ 0#16 ∧ outranked v1 ((fl 1 e3) : LaunchS) e3 = false ∧ rangesOk v1 [(cvEntry v1 (gradCaravan e3) ((fl 1 e3) : LaunchS).epoch, 128), (tokenAddr (BitVec.toNat e3.inAddr) ((fl 1 e3) : LaunchS) fm 0 (rowBytes (fm.inN.toNat + 1) (lOut lyF)), fm.tokens * rowBytes (fm.inN.toNat + 1) (lOut lyF)), (stashAddr v1 ((fl 1 e3) : LaunchS) (lNum lyF) (batchOf ((fl 1 e3) : LaunchS) e3) fm, fm.tokens * rowBytes (fm.stashN.toNat + 1) (lIn lyF))] = true ∧ findCv (startCaravan ((fl 1 e3) : LaunchS).ctx (gradCaravan e3) ((fl 1 e3) : LaunchS).epoch v1) ((fl 1 e3) : LaunchS).ctx (gradCaravan e3) ((fl 1 e3) : LaunchS).epoch = some cv ∧ sliceOf cv ((fl 1 e3) : LaunchS).number = some 0 ∧ cv.state ≠ 3#3 ∧ cv.layer = e3.layer ∧ (enginesAwake (startCaravan ((fl 1 e3) : LaunchS).ctx (gradCaravan e3) ((fl 1 e3) : LaunchS).epoch v1) (List.map (homeExec (startCaravan ((fl 1 e3) : LaunchS).ctx (gradCaravan e3) ((fl 1 e3) : LaunchS).epoch v1) lyF cv) (List.filter (fun k => !tileMasked (startCaravan ((fl 1 e3) : LaunchS).ctx (gradCaravan e3) ((fl 1 e3) : LaunchS).epoch v1) cv k) (List.range (tileCount cv)))).dedup = false)) := by
  and_intros <;> decide +kernel
theorem test_witness_GradientAndImageRowsComplete_15_2 :
    layerRec v2 ((fl 1 e3) : LaunchS).ctx e3.layer.toNat = some lyF ∧ lyF.st.applying = false ∧ lNum lyF = e3.layer.toNat ∧ atEntry v2 0 3 ((fl 1 e3) : LaunchS) e3 ∧ e3.mbCount ≠ 0#16 ∧ outranked v2 ((fl 1 e3) : LaunchS) e3 = false ∧ rangesOk v2 [(cvEntry v2 (gradCaravan e3) ((fl 1 e3) : LaunchS).epoch, 128), (tokenAddr (BitVec.toNat e3.inAddr) ((fl 1 e3) : LaunchS) fm 0 (rowBytes (fm.inN.toNat + 1) (lOut lyF)), fm.tokens * rowBytes (fm.inN.toNat + 1) (lOut lyF)), (stashAddr v2 ((fl 1 e3) : LaunchS) (lNum lyF) (batchOf ((fl 1 e3) : LaunchS) e3) fm, fm.tokens * rowBytes (fm.stashN.toNat + 1) (lIn lyF))] = true ∧ findCv (startCaravan ((fl 1 e3) : LaunchS).ctx (gradCaravan e3) ((fl 1 e3) : LaunchS).epoch v2) ((fl 1 e3) : LaunchS).ctx (gradCaravan e3) ((fl 1 e3) : LaunchS).epoch = some cv ∧ sliceOf cv ((fl 1 e3) : LaunchS).number = some 0 ∧ cv.state ≠ 3#3 ∧ cv.layer = e3.layer ∧ (enginesAwake (startCaravan ((fl 1 e3) : LaunchS).ctx (gradCaravan e3) ((fl 1 e3) : LaunchS).epoch v2) (List.map (homeExec (startCaravan ((fl 1 e3) : LaunchS).ctx (gradCaravan e3) ((fl 1 e3) : LaunchS).epoch v2) lyF cv) (List.filter (fun k => !tileMasked (startCaravan ((fl 1 e3) : LaunchS).ctx (gradCaravan e3) ((fl 1 e3) : LaunchS).epoch v2) cv k) (List.range (tileCount cv)))).dedup = true) ∧ (consume ((fl 1 e3) : LaunchS) fm.check [(tokenAddr (BitVec.toNat e3.inAddr) ((fl 1 e3) : LaunchS) fm 0 (rowBytes (fm.inN.toNat + 1) (lOut lyF)), fm.tokens * rowBytes (fm.inN.toNat + 1) (lOut lyF)), (stashAddr v2 ((fl 1 e3) : LaunchS) (lNum lyF) (batchOf ((fl 1 e3) : LaunchS) e3) fm, fm.tokens * rowBytes (fm.stashN.toNat + 1) (lIn lyF))] (startCaravan ((fl 1 e3) : LaunchS).ctx (gradCaravan e3) ((fl 1 e3) : LaunchS).epoch v2)).1 = true ∧ rangesPoisoned (consume ((fl 1 e3) : LaunchS) fm.check [(tokenAddr (BitVec.toNat e3.inAddr) ((fl 1 e3) : LaunchS) fm 0 (rowBytes (fm.inN.toNat + 1) (lOut lyF)), fm.tokens * rowBytes (fm.inN.toNat + 1) (lOut lyF)), (stashAddr v2 ((fl 1 e3) : LaunchS) (lNum lyF) (batchOf ((fl 1 e3) : LaunchS) e3) fm, fm.tokens * rowBytes (fm.stashN.toNat + 1) (lIn lyF))] (startCaravan ((fl 1 e3) : LaunchS).ctx (gradCaravan e3) ((fl 1 e3) : LaunchS).epoch v2)).2 [(tokenAddr (BitVec.toNat e3.inAddr) ((fl 1 e3) : LaunchS) fm 0 (rowBytes (fm.inN.toNat + 1) (lOut lyF)), fm.tokens * rowBytes (fm.inN.toNat + 1) (lOut lyF)), (stashAddr v2 ((fl 1 e3) : LaunchS) (lNum lyF) (batchOf ((fl 1 e3) : LaunchS) e3) fm, fm.tokens * rowBytes (fm.stashN.toNat + 1) (lIn lyF))] = false ∧ isExact cv = true ∧ (∀ base ∈ cv.contrib, inStacks (consume ((fl 1 e3) : LaunchS) fm.check [(tokenAddr (BitVec.toNat e3.inAddr) ((fl 1 e3) : LaunchS) fm 0 (rowBytes (fm.inN.toNat + 1) (lOut lyF)), fm.tokens * rowBytes (fm.inN.toNat + 1) (lOut lyF)), (stashAddr v2 ((fl 1 e3) : LaunchS) (lNum lyF) (batchOf ((fl 1 e3) : LaunchS) e3) fm, fm.tokens * rowBytes (fm.stashN.toNat + 1) (lIn lyF))] (startCaravan ((fl 1 e3) : LaunchS).ctx (gradCaravan e3) ((fl 1 e3) : LaunchS).epoch v2)).2 base (4 * cv.slices.length * cv.rows * padCols cv.cols + 2 * cv.slices.length * tileCount cv) = true ∧ (fun base => ∀ m ∈ [(lRowMask lyF, (cv.rows + 7) / 8), (lBlockMask lyF, (tileCount cv + 7) / 8)], m.1 = noAddr ∨ apart m.1 m.2 base (4 * cv.slices.length * cv.rows * padCols cv.cols + 2 * cv.slices.length * tileCount cv) ∧ aloof (consume ((fl 1 e3) : LaunchS) fm.check [(tokenAddr (BitVec.toNat e3.inAddr) ((fl 1 e3) : LaunchS) fm 0 (rowBytes (fm.inN.toNat + 1) (lOut lyF)), fm.tokens * rowBytes (fm.inN.toNat + 1) (lOut lyF)), (stashAddr v2 ((fl 1 e3) : LaunchS) (lNum lyF) (batchOf ((fl 1 e3) : LaunchS) e3) fm, fm.tokens * rowBytes (fm.stashN.toNat + 1) (lIn lyF))] (startCaravan ((fl 1 e3) : LaunchS).ctx (gradCaravan e3) ((fl 1 e3) : LaunchS).epoch v2)).2 base (4 * cv.slices.length * cv.rows * padCols cv.cols + 2 * cv.slices.length * tileCount cv) m.1 m.2) base) := 
  by and_intros <;> decide +kernel
theorem test_witness_GradientAndImageRowsComplete_15_3 :
    layerRec v2 ((fl 1 e3) : LaunchS).ctx e3.layer.toNat = some lyF ∧ lyF.st.applying = false ∧ lNum lyF = e3.layer.toNat ∧ atEntry v2 0 3 ((fl 1 e3) : LaunchS) e3 ∧ e3.mbCount ≠ 0#16 ∧ outranked v2 ((fl 1 e3) : LaunchS) e3 = false ∧ rangesOk v2 [(cvEntry v2 (gradCaravan e3) ((fl 1 e3) : LaunchS).epoch, 128), (tokenAddr (BitVec.toNat e3.inAddr) ((fl 1 e3) : LaunchS) v3 0 (rowBytes (v3.inN.toNat + 1) (lOut lyF)), v3.tokens * rowBytes (v3.inN.toNat + 1) (lOut lyF)), (stashAddr v2 ((fl 1 e3) : LaunchS) (lNum lyF) (batchOf ((fl 1 e3) : LaunchS) e3) v3, v3.tokens * rowBytes (v3.stashN.toNat + 1) (lIn lyF))] = true ∧ findCv (startCaravan ((fl 1 e3) : LaunchS).ctx (gradCaravan e3) ((fl 1 e3) : LaunchS).epoch v2) ((fl 1 e3) : LaunchS).ctx (gradCaravan e3) ((fl 1 e3) : LaunchS).epoch = some cv ∧ sliceOf cv ((fl 1 e3) : LaunchS).number = some 0 ∧ cv.state ≠ 3#3 ∧ cv.layer = e3.layer ∧ (enginesAwake (startCaravan ((fl 1 e3) : LaunchS).ctx (gradCaravan e3) ((fl 1 e3) : LaunchS).epoch v2) (List.map (homeExec (startCaravan ((fl 1 e3) : LaunchS).ctx (gradCaravan e3) ((fl 1 e3) : LaunchS).epoch v2) lyF cv) (List.filter (fun k => !tileMasked (startCaravan ((fl 1 e3) : LaunchS).ctx (gradCaravan e3) ((fl 1 e3) : LaunchS).epoch v2) cv k) (List.range (tileCount cv)))).dedup = true) ∧ (consume ((fl 1 e3) : LaunchS) v3.check [(tokenAddr (BitVec.toNat e3.inAddr) ((fl 1 e3) : LaunchS) v3 0 (rowBytes (v3.inN.toNat + 1) (lOut lyF)), v3.tokens * rowBytes (v3.inN.toNat + 1) (lOut lyF)), (stashAddr v2 ((fl 1 e3) : LaunchS) (lNum lyF) (batchOf ((fl 1 e3) : LaunchS) e3) v3, v3.tokens * rowBytes (v3.stashN.toNat + 1) (lIn lyF))] (startCaravan ((fl 1 e3) : LaunchS).ctx (gradCaravan e3) ((fl 1 e3) : LaunchS).epoch v2)).1 = false := 
  by and_intros <;> decide +kernel
theorem test_witness_GradientAndImageRowsComplete_15_4 :
    (layerRec v4 ((fl 1 e3) : LaunchS).ctx e3.layer.toNat = some lyF ∧ lyF.st.applying = false ∧ lNum lyF = e3.layer.toNat ∧ atEntry v4 0 3 ((fl 1 e3) : LaunchS) e3 ∧ e3.mbCount ≠ 0#16 ∧ outranked v4 ((fl 1 e3) : LaunchS) e3 = false ∧ rangesOk v4 [(cvEntry v4 (gradCaravan e3) ((fl 1 e3) : LaunchS).epoch, 128), (tokenAddr (BitVec.toNat e3.inAddr) ((fl 1 e3) : LaunchS) fm 0 (rowBytes (fm.inN.toNat + 1) (lOut lyF)), fm.tokens * rowBytes (fm.inN.toNat + 1) (lOut lyF)), (stashAddr v4 ((fl 1 e3) : LaunchS) (lNum lyF) (batchOf ((fl 1 e3) : LaunchS) e3) fm, fm.tokens * rowBytes (fm.stashN.toNat + 1) (lIn lyF))] = true ∧ findCv (startCaravan ((fl 1 e3) : LaunchS).ctx (gradCaravan e3) ((fl 1 e3) : LaunchS).epoch v4) ((fl 1 e3) : LaunchS).ctx (gradCaravan e3) ((fl 1 e3) : LaunchS).epoch = some cv2 ∧ sliceOf cv2 ((fl 1 e3) : LaunchS).number = some 1 ∧ cv2.state ≠ 3#3 ∧ cv2.layer = e3.layer ∧ (enginesAwake (startCaravan ((fl 1 e3) : LaunchS).ctx (gradCaravan e3) ((fl 1 e3) : LaunchS).epoch v4) (List.map (homeExec (startCaravan ((fl 1 e3) : LaunchS).ctx (gradCaravan e3) ((fl 1 e3) : LaunchS).epoch v4) lyF cv2) (List.filter (fun k => !tileMasked (startCaravan ((fl 1 e3) : LaunchS).ctx (gradCaravan e3) ((fl 1 e3) : LaunchS).epoch v4) cv2 k) (List.range (tileCount cv2)))).dedup = true) ∧ (consume ((fl 1 e3) : LaunchS) fm.check [(tokenAddr (BitVec.toNat e3.inAddr) ((fl 1 e3) : LaunchS) fm 0 (rowBytes (fm.inN.toNat + 1) (lOut lyF)), fm.tokens * rowBytes (fm.inN.toNat + 1) (lOut lyF)), (stashAddr v4 ((fl 1 e3) : LaunchS) (lNum lyF) (batchOf ((fl 1 e3) : LaunchS) e3) fm, fm.tokens * rowBytes (fm.stashN.toNat + 1) (lIn lyF))] (startCaravan ((fl 1 e3) : LaunchS).ctx (gradCaravan e3) ((fl 1 e3) : LaunchS).epoch v4)).1 = true ∧ rangesPoisoned (consume ((fl 1 e3) : LaunchS) fm.check [(tokenAddr (BitVec.toNat e3.inAddr) ((fl 1 e3) : LaunchS) fm 0 (rowBytes (fm.inN.toNat + 1) (lOut lyF)), fm.tokens * rowBytes (fm.inN.toNat + 1) (lOut lyF)), (stashAddr v4 ((fl 1 e3) : LaunchS) (lNum lyF) (batchOf ((fl 1 e3) : LaunchS) e3) fm, fm.tokens * rowBytes (fm.stashN.toNat + 1) (lIn lyF))] (startCaravan ((fl 1 e3) : LaunchS).ctx (gradCaravan e3) ((fl 1 e3) : LaunchS).epoch v4)).2 [(tokenAddr (BitVec.toNat e3.inAddr) ((fl 1 e3) : LaunchS) fm 0 (rowBytes (fm.inN.toNat + 1) (lOut lyF)), fm.tokens * rowBytes (fm.inN.toNat + 1) (lOut lyF)), (stashAddr v4 ((fl 1 e3) : LaunchS) (lNum lyF) (batchOf ((fl 1 e3) : LaunchS) e3) fm, fm.tokens * rowBytes (fm.stashN.toNat + 1) (lIn lyF))] = false ∧ cv2.contrib = some 0x40000 ∧ isExact cv2 = false ∧ storable (consume ((fl 1 e3) : LaunchS) fm.check [(tokenAddr (BitVec.toNat e3.inAddr) ((fl 1 e3) : LaunchS) fm 0 (rowBytes (fm.inN.toNat + 1) (lOut lyF)), fm.tokens * rowBytes (fm.inN.toNat + 1) (lOut lyF)), (stashAddr v4 ((fl 1 e3) : LaunchS) (lNum lyF) (batchOf ((fl 1 e3) : LaunchS) e3) fm, fm.tokens * rowBytes (fm.stashN.toNat + 1) (lIn lyF))] (startCaravan ((fl 1 e3) : LaunchS).ctx (gradCaravan e3) ((fl 1 e3) : LaunchS).epoch v4)).2 0x40000 (4 * cv2.slices.length * cv2.rows * padCols cv2.cols + 2 * cv2.slices.length * tileCount cv2) = true ∧ aloof (consume ((fl 1 e3) : LaunchS) fm.check [(tokenAddr (BitVec.toNat e3.inAddr) ((fl 1 e3) : LaunchS) fm 0 (rowBytes (fm.inN.toNat + 1) (lOut lyF)), fm.tokens * rowBytes (fm.inN.toNat + 1) (lOut lyF)), (stashAddr v4 ((fl 1 e3) : LaunchS) (lNum lyF) (batchOf ((fl 1 e3) : LaunchS) e3) fm, fm.tokens * rowBytes (fm.stashN.toNat + 1) (lIn lyF))] (startCaravan ((fl 1 e3) : LaunchS).ctx (gradCaravan e3) ((fl 1 e3) : LaunchS).epoch v4)).2 0x40000 (4 * cv2.slices.length * cv2.rows * padCols cv2.cols + 2 * cv2.slices.length * tileCount cv2) 0x40000 (4 * cv2.slices.length * cv2.rows * padCols cv2.cols + 2 * cv2.slices.length * tileCount cv2) ∧ ((fun base => ∀ m ∈ [(lRowMask lyF, (cv2.rows + 7) / 8), (lBlockMask lyF, (tileCount cv2 + 7) / 8)], m.1 = noAddr ∨ apart m.1 m.2 base (4 * cv2.slices.length * cv2.rows * padCols cv2.cols + 2 * cv2.slices.length * tileCount cv2) ∧ aloof (consume ((fl 1 e3) : LaunchS) fm.check [(tokenAddr (BitVec.toNat e3.inAddr) ((fl 1 e3) : LaunchS) fm 0 (rowBytes (fm.inN.toNat + 1) (lOut lyF)), fm.tokens * rowBytes (fm.inN.toNat + 1) (lOut lyF)), (stashAddr v4 ((fl 1 e3) : LaunchS) (lNum lyF) (batchOf ((fl 1 e3) : LaunchS) e3) fm, fm.tokens * rowBytes (fm.stashN.toNat + 1) (lIn lyF))] (startCaravan ((fl 1 e3) : LaunchS).ctx (gradCaravan e3) ((fl 1 e3) : LaunchS).epoch v4)).2 base (4 * cv2.slices.length * cv2.rows * padCols cv2.cols + 2 * cv2.slices.length * tileCount cv2) m.1 m.2) 0x40000))
    ∧ (layerRec v5 ((fl 1 e3) : LaunchS).ctx e3.layer.toNat = some lyF ∧ lyF.st.applying = false ∧ lNum lyF = e3.layer.toNat ∧ atEntry v5 0 3 ((fl 1 e3) : LaunchS) e3 ∧ e3.mbCount ≠ 0#16 ∧ outranked v5 ((fl 1 e3) : LaunchS) e3 = true) := by
  and_intros <;> decide +kernel
theorem test_witness_GradientAndImageRowsComplete_15_5 :
    (layerRec v6 ((fl 1 e5) : LaunchS).ctx e5.layer.toNat = some lyF ∧ lyF.st.applying = false ∧ lNum lyF = e5.layer.toNat ∧ (atEntry v6 0 (if false = true then 6 else 5) ((fl 1 e5) : LaunchS) e5) ∧ ((if false = true then lyF.st.tEpoch else lyF.st.fwdEpoch) = some (ctxU v6 ((fl 1 e5) : LaunchS).ctx).epoch))
    ∧ (layerRec ((fS lyF e6) : State) ((fl 1 e6) : LaunchS).ctx e6.layer.toNat = some lyF ∧ lyF.st.applying = false ∧ lNum lyF = e6.layer.toNat ∧ (atEntry ((fS lyF e6) : State) 0 (if true = true then 6 else 5) ((fl 1 e6) : LaunchS) e6) ∧ ((if true = true then lyF.st.tEpoch else lyF.st.fwdEpoch) = some (ctxU ((fS lyF e6) : State) ((fl 1 e6) : LaunchS).ctx).epoch))
    ∧ (layerRec ((ns e6) : State) ((fl 1 e6) : LaunchS).ctx e6.layer.toNat = some lyN ∧ lyN.st.applying = false ∧ lNum lyN = e6.layer.toNat ∧ (atEntry ((ns e6) : State) 0 (if true = true then 6 else 5) ((fl 1 e6) : LaunchS) e6) ∧ ((if true = true then lyN.st.tEpoch else lyN.st.fwdEpoch) ≠ some (ctxU ((ns e6) : State) ((fl 1 e6) : LaunchS).ctx).epoch) ∧ outranked ((ns e6) : State) ((fl 1 e6) : LaunchS) e6 = false ∧ enginesAwake ((ns e6) : State) (List.map (coreFor ((ns e6) : State)) (lArrays lyN)).dedup = false) := by
  and_intros <;> decide +kernel
theorem test_witness_GradientAndImageRowsComplete_15_6 :
    (layerRec ((awk (ns e5)) : State) ((fl 1 e5) : LaunchS).ctx e5.layer.toNat = some lyN ∧ lyN.st.applying = false ∧ lNum lyN = e5.layer.toNat ∧ (atEntry ((awk (ns e5)) : State) 0 (if false = true then 6 else 5) ((fl 1 e5) : LaunchS) e5) ∧ ((if false = true then lyN.st.tEpoch else lyN.st.fwdEpoch) ≠ some (ctxU ((awk (ns e5)) : State) ((fl 1 e5) : LaunchS).ctx).epoch) ∧ outranked ((awk (ns e5)) : State) ((fl 1 e5) : LaunchS) e5 = false ∧ enginesAwake ((awk (ns e5)) : State) (List.map (coreFor ((awk (ns e5)) : State)) (lArrays lyN)).dedup = true ∧ (storable ((awk (ns e5)) : State) (if false = true then lT lyN else lFwd lyN) ((if false = true then lIn lyN else lOut lyN) * rowBytes (lDWidth lyN) (if false = true then lOut lyN else lIn lyN)) = true) ∧ (∀ k ∈ (List.map (coreFor ((awk (ns e5)) : State)) (lArrays lyN)).dedup, mayWrite (entryOf ((awk (ns e5)) : State) k (BitVec.toNat e5.tOut)) ((fl 1 e5) : LaunchS) = true) ∧ (rangesOk ((awk (ns e5)) : State) [(lState lyN + 64, 2 * lOut lyN * colsPad lyN), (if false = true then lT lyN else lFwd lyN, (if false = true then lIn lyN else lOut lyN) * rowBytes (lDWidth lyN) (if false = true then lOut lyN else lIn lyN))] = true) ∧ (consume ((fl 1 e5) : LaunchS) CheckSeen.good [(lState lyN + 64, 2 * lOut lyN * colsPad lyN)] ((awk (ns e5)) : State)).1 = true ∧ rangesPoisoned (consume ((fl 1 e5) : LaunchS) CheckSeen.good [(lState lyN + 64, 2 * lOut lyN * colsPad lyN)] ((awk (ns e5)) : State)).2 [(lState lyN + 64, 2 * lOut lyN * colsPad lyN)] = false ∧ (aloof ((awk (ns e5)) : State) (if false = true then lT lyN else lFwd lyN) ((if false = true then lIn lyN else lOut lyN) * rowBytes (lDWidth lyN) (if false = true then lOut lyN else lIn lyN)) (if false = true then lT lyN else lFwd lyN) ((if false = true then lIn lyN else lOut lyN) * rowBytes (lDWidth lyN) (if false = true then lOut lyN else lIn lyN))))
    ∧ (layerRec ((awk (ns e6)) : State) ((fl 1 e6) : LaunchS).ctx e6.layer.toNat = some lyN ∧ lyN.st.applying = false ∧ lNum lyN = e6.layer.toNat ∧ (atEntry ((awk (ns e6)) : State) 0 (if true = true then 6 else 5) ((fl 1 e6) : LaunchS) e6) ∧ ((if true = true then lyN.st.tEpoch else lyN.st.fwdEpoch) ≠ some (ctxU ((awk (ns e6)) : State) ((fl 1 e6) : LaunchS).ctx).epoch) ∧ outranked ((awk (ns e6)) : State) ((fl 1 e6) : LaunchS) e6 = false ∧ enginesAwake ((awk (ns e6)) : State) (List.map (coreFor ((awk (ns e6)) : State)) (lArrays lyN)).dedup = true ∧ (storable ((awk (ns e6)) : State) (if true = true then lT lyN else lFwd lyN) ((if true = true then lIn lyN else lOut lyN) * rowBytes (lDWidth lyN) (if true = true then lOut lyN else lIn lyN)) = true) ∧ (∀ k ∈ (List.map (coreFor ((awk (ns e6)) : State)) (lArrays lyN)).dedup, mayWrite (entryOf ((awk (ns e6)) : State) k (BitVec.toNat e6.tOut)) ((fl 1 e6) : LaunchS) = true) ∧ (rangesOk ((awk (ns e6)) : State) [(lState lyN + 64, 2 * lOut lyN * colsPad lyN), (if true = true then lT lyN else lFwd lyN, (if true = true then lIn lyN else lOut lyN) * rowBytes (lDWidth lyN) (if true = true then lOut lyN else lIn lyN))] = true) ∧ (consume ((fl 1 e6) : LaunchS) ((.hdrBad false 1) : CheckSeen) [(lState lyN + 64, 2 * lOut lyN * colsPad lyN)] ((awk (ns e6)) : State)).1 = true ∧ rangesPoisoned (consume ((fl 1 e6) : LaunchS) ((.hdrBad false 1) : CheckSeen) [(lState lyN + 64, 2 * lOut lyN * colsPad lyN)] ((awk (ns e6)) : State)).2 [(lState lyN + 64, 2 * lOut lyN * colsPad lyN)] = false ∧ (aloof ((awk (ns e6)) : State) (if true = true then lT lyN else lFwd lyN) ((if true = true then lIn lyN else lOut lyN) * rowBytes (lDWidth lyN) (if true = true then lOut lyN else lIn lyN)) (if true = true then lT lyN else lFwd lyN) ((if true = true then lIn lyN else lOut lyN) * rowBytes (lDWidth lyN) (if true = true then lOut lyN else lIn lyN)))) := by
  and_intros <;> decide +kernel
theorem test_witness_GradientAndImageRowsComplete_15_7 :
    (layerRec ((awk (ns e6)) : State) ((fl 1 e6) : LaunchS).ctx e6.layer.toNat = some lyN ∧ lyN.st.applying = false ∧ lNum lyN = e6.layer.toNat ∧ (atEntry ((awk (ns e6)) : State) 0 (if true = true then 6 else 5) ((fl 1 e6) : LaunchS) e6) ∧ ((if true = true then lyN.st.tEpoch else lyN.st.fwdEpoch) ≠ some (ctxU ((awk (ns e6)) : State) ((fl 1 e6) : LaunchS).ctx).epoch) ∧ outranked ((awk (ns e6)) : State) ((fl 1 e6) : LaunchS) e6 = false ∧ enginesAwake ((awk (ns e6)) : State) (List.map (coreFor ((awk (ns e6)) : State)) (lArrays lyN)).dedup = true ∧ (storable ((awk (ns e6)) : State) (if true = true then lT lyN else lFwd lyN) ((if true = true then lIn lyN else lOut lyN) * rowBytes (lDWidth lyN) (if true = true then lOut lyN else lIn lyN)) = true) ∧ (∀ k ∈ (List.map (coreFor ((awk (ns e6)) : State)) (lArrays lyN)).dedup, mayWrite (entryOf ((awk (ns e6)) : State) k (BitVec.toNat e6.tOut)) ((fl 1 e6) : LaunchS) = true) ∧ (rangesOk ((awk (ns e6)) : State) [(lState lyN + 64, 2 * lOut lyN * colsPad lyN), (if true = true then lT lyN else lFwd lyN, (if true = true then lIn lyN else lOut lyN) * rowBytes (lDWidth lyN) (if true = true then lOut lyN else lIn lyN))] = true) ∧ (consume ((fl 1 e6) : LaunchS) CheckSeen.atRest [(lState lyN + 64, 2 * lOut lyN * colsPad lyN)] ((awk (ns e6)) : State)).1 = false)
    ∧ (layerRec v7 ((fl 1 e5) : LaunchS).ctx e5.layer.toNat = some lyN ∧ lyN.st.applying = false ∧ lNum lyN = e5.layer.toNat ∧ (atEntry v7 0 (if false = true then 6 else 5) ((fl 1 e5) : LaunchS) e5) ∧ ((if false = true then lyN.st.tEpoch else lyN.st.fwdEpoch) ≠ some (ctxU v7 ((fl 1 e5) : LaunchS).ctx).epoch) ∧ outranked v7 ((fl 1 e5) : LaunchS) e5 = false ∧ enginesAwake v7 (List.map (coreFor v7) (lArrays lyN)).dedup = true ∧ (storable v7 (if false = true then lT lyN else lFwd lyN) ((if false = true then lIn lyN else lOut lyN) * rowBytes (lDWidth lyN) (if false = true then lOut lyN else lIn lyN)) = true) ∧ (∀ k ∈ (List.map (coreFor v7) (lArrays lyN)).dedup, mayWrite (entryOf v7 k (BitVec.toNat e5.tOut)) ((fl 1 e5) : LaunchS) = true) ∧ (rangesOk v7 [(lState lyN + 64, 2 * lOut lyN * colsPad lyN), (if false = true then lT lyN else lFwd lyN, (if false = true then lIn lyN else lOut lyN) * rowBytes (lDWidth lyN) (if false = true then lOut lyN else lIn lyN))] = true) ∧ (consume ((fl 1 e5) : LaunchS) CheckSeen.good [(lState lyN + 64, 2 * lOut lyN * colsPad lyN)] v7).1 = false) := by
  and_intros <;> decide +kernel
end Sys2Proof.Tests.W15

namespace Sys2Proof.Tests.W16
open Sys2Proof.Tests.W
def en (ph : Nat) (mb : Nat) (i o : W64) : Prog := { phase := BitVec.ofNat 4 ph, layer := 1, mbFirst := 0, mbCount := BitVec.ofNat 16 mb, tIn := 1, tOut := 2, inAddr := i, outAddr := o, tally := 0, length := 0 }
def e4 := en 4 1 0x9000 0
def fl (e : Prog) : LaunchS := { mkLaunch 0 3 with prog := [e], epoch := 6 }
def lb : Layer := mkLayer 1 8 8 0 false false true 0 1 3 2
def lu : Layer := { lb with words := lb.words.set 8 (BitVec.ofNat 32 (stateEnd lb)) }
def w4 (n : Nat) : List Byte := leBytes 4 n
def header (step : Nat) : List Byte := w4 (1 * 2^20 + 1 * 2^16) ++ w4 step ++ w4 0 ++ w4 2 ++ w4 3 ++ w4 0 ++ w4 0 ++ w4 0 ++ leBytes 8 (offRem lu) ++ leBytes 8 (offM1 lu) ++ leBytes 8 (offM2 lu)
def descW : List Word := [4, 1 <<< 26 ||| 1 <<< 24, 0x3F800000, 0x3F800000, 0x8000, 0, 0x8800, 0, 0x20000, 0, 0x10000, 0, 0, 0, 0, 0]
def coefT (clip iters ctl : Word) : Tab Word := ((List.range 16).map fun i => (16 + i, if i = 5 then clip else if i = 13 then ctl ||| iters else if i = 0 then 0x3DCCCCCD else if i = 1 then 0x3F666666 else if i = 2 then 0x3F7FBE77 else if i = 3 then 0x322BCC77 else 0)).filter (·.2 != 0)
def us (r : Layer) (h d : List Byte) (cf : Tab Word) (l : LaunchS) : State :=
  sealL r <| withClus 0 { ClusterU.reset with coef := cf } (withLaunch l (withCtx 0 { cx with layers := [(1, r)] }
   (putMem (lState r) h (putMem 0x9000 d (putMem 0x8000 [0x80,0x3F,0,0x40,0x40,0xC0] (putMem 0x8040 [1,0x3E,3,0x40,5,0xC0] (putMem 0x8800 [3] (putMem (lState r + 64) [0,0x3F,1,0x40,0x80,0xBF] s0))))))))
def dB (ws : List Word) : List Byte := ws.flatMap bytesOfWord
def lup (op : UpdOp) : LaunchS := { fl e4 with update := some op, updated := [1] }
def cfL (clip iters ctl : Word) : List Word := (List.range 16).map fun f => tget 0#32 (coefT clip iters ctl) (16 + f)
def luS : Layer := { lu with st := { LayerSt.fresh with named := true, started := true } }
def op1 (p : BitVec 3) (clip it ctl : Word) : UpdOp := ⟨1, 0, p, descW, cfL clip it ctl, 4, 0, 0x3F800000, [], [], []⟩
def uo (op : UpdOp) : State := us luS (header 4) (dB descW) (coefT 0x3F800000 0 0) (lup op)
def ds : List (Nat × List Word) := [(0, [0x3F800000, 0x3F000000, 0xBF800000]), (1, [0x3F800000, 0x3E000000, 0x3F800000])]
def o4 : UpdOp := { op1 4 0x3F800000 0x0000 3 with dirs := ds, m1 := [(0, List.replicate 33 3), (1, List.replicate 33 4)], m2 := [(0, List.replicate 33 3), (1, List.replicate 33 4)] }
def o3 : UpdOp := { op1 3 0x3F800000 0x3000 3 with dirs := ds }
def v1 : State := (us { lu with words := lu.words.set 0 ((lu.words.getD 0 0) &&& ~~~1#32) } (header 4) (dB descW) (coefT 0 0 0x0) (fl e4))
def v2 : Layer := { lu with words := lu.words.set 0 ((lu.words.getD 0 0) &&& ~~~1#32) }
def v3 : State := (us { lu with st := { LayerSt.fresh with started := true } } (header 4) (dB descW) (coefT 0 0 0x0) (fl e4))
def v4 : Layer := { lu with st := { LayerSt.fresh with started := true } }
def v5 : State := (us lu (header 4) (dB descW) (coefT 0 0 0x0) (fl e4))
def v6 : State := (us lu (header 5) (dB descW) (coefT 0 0 0x0) (fl e4))
def v7 : State := (us lu (header 4) (dB (descW.set 12 1)) (coefT 0 0 0x0) (fl e4))
def v8 : State := (us lu (w4 0 ++ (header 4).drop 4) (dB descW) (coefT 0 0 0x0) (fl e4))
def v9 : State := (us lu (header 4) (dB descW) (coefT 0 0 0x0) (lup ⟨1, 0, 1, descW, [], 0, 0, 0, [], [], []⟩))
def v10 : LaunchS := (lup ⟨1, 0, 1, descW, [], 0, 0, 0, [], [], []⟩)
def v11 : State := (uo (op1 1 0x3F800000 0 0))
def v12 : LaunchS := (lup (op1 1 0x3F800000 0 0))
def v13 : State := (putMem 0x8000 [0x80,0x7F] (uo (op1 1 0x3F800000 0 0)))
def v14 : State := (uo (op1 2 0x3F800000 0 3))
def v15 : LaunchS := (lup (op1 2 0x3F800000 0 3))
def v16 : State := (putMem (lState luS + 64) [0x80,0x7F] (uo (op1 2 0x3F800000 0 3)) |> sealL luS)
def v17 : State := (uo (op1 2 0x3F800000 0x3000 3))
def v18 : LaunchS := (lup (op1 2 0x3F800000 0x3000 3))
def v19 : UpdOp := (op1 2 0x3F800000 0x3000 3)
def v20 : State := (putMem 0x10000 (ds.flatMap fun x => x.2.flatMap bytesOfWord) (uo o3))
theorem test_witness_UpdateRowsComplete_16_1 :
    (atEntry v1 0 4 ((fl e4) : LaunchS) e4 ∧ layerRec v1 ((fl e4) : LaunchS).ctx e4.layer.toNat = some v2 ∧ v2.st.applying = false ∧ lNum v2 = e4.layer.toNat ∧ ((fl e4) : LaunchS).update = none ∧ reductionDone v1 ((fl e4) : LaunchS) e4.layer = true ∧ lTrained v2 = false)
    ∧ (atEntry v3 0 4 ((fl e4) : LaunchS) e4 ∧ layerRec v3 ((fl e4) : LaunchS).ctx e4.layer.toNat = some v4 ∧ v4.st.applying = false ∧ lNum v4 = e4.layer.toNat ∧ ((fl e4) : LaunchS).update = none ∧ reductionDone v3 ((fl e4) : LaunchS) e4.layer = true ∧ lTrained v4 = true ∧ v4.st.started = true) := by
  and_intros <;> decide +kernel
theorem test_witness_UpdateRowsComplete_16_2 :
    atEntry v5 0 4 ((fl e4) : LaunchS) e4 ∧ layerRec v5 ((fl e4) : LaunchS).ctx e4.layer.toNat = some lu ∧ lu.st.applying = false ∧ lNum lu = e4.layer.toNat ∧ ((fl e4) : LaunchS).update = none ∧ reductionDone v5 ((fl e4) : LaunchS) e4.layer = true ∧ lTrained lu = true ∧ lu.st.started = false ∧ rangesOk v5 [(lState lu, lStateLen lu), (BitVec.toNat e4.inAddr, 64)] = true ∧ rangesPoisoned v5 [(lState lu, 64), (BitVec.toNat e4.inAddr, 64)] = false ∧ intact v5 (lState lu) 64 = true ∧ intact v5 (BitVec.toNat e4.inAddr) 64 = true ∧ headerBad v5 lu = false ∧ ((updDescBad v5 { layer := e4.layer, lead := clusterOfArray (lFirst lu), pass := firstPass (List.map (fun f => tget (0#32) (clus v5 (clusterOfArray (lFirst lu))).coef (16 * fld ((List.map (fun i => readWord v5 (BitVec.toNat e4.inAddr + 4 * i)) (List.range 16)).getD 1 0#32) 31 26 + f)) (List.range 16)), desc := List.map (fun i => readWord v5 (BitVec.toNat e4.inAddr + 4 * i)) (List.range 16), coef := List.map (fun f => tget (0#32) (clus v5 (clusterOfArray (lFirst lu))).coef (16 * fld ((List.map (fun i => readWord v5 (BitVec.toNat e4.inAddr + 4 * i)) (List.range 16)).getD 1 0#32) 31 26 + f)) (List.range 16), step := headerStep v5 lu, gnorm := 0#32, k := 1065353216#32, dirs := [], m1 := [], m2 := [] : UpdOp } lu || workShort { layer := e4.layer, lead := clusterOfArray (lFirst lu), pass := firstPass (List.map (fun f => tget (0#32) (clus v5 (clusterOfArray (lFirst lu))).coef (16 * fld ((List.map (fun i => readWord v5 (BitVec.toNat e4.inAddr + 4 * i)) (List.range 16)).getD 1 0#32) 31 26 + f)) (List.range 16)), desc := List.map (fun i => readWord v5 (BitVec.toNat e4.inAddr + 4 * i)) (List.range 16), coef := List.map (fun f => tget (0#32) (clus v5 (clusterOfArray (lFirst lu))).coef (16 * fld ((List.map (fun i => readWord v5 (BitVec.toNat e4.inAddr + 4 * i)) (List.range 16)).getD 1 0#32) 31 26 + f)) (List.range 16), step := headerStep v5 lu, gnorm := 0#32, k := 1065353216#32, dirs := [], m1 := [], m2 := [] : UpdOp } lu) = false) ∧ ({ layer := e4.layer, lead := clusterOfArray (lFirst lu), pass := firstPass (List.map (fun f => tget (0#32) (clus v5 (clusterOfArray (lFirst lu))).coef (16 * fld ((List.map (fun i => readWord v5 (BitVec.toNat e4.inAddr + 4 * i)) (List.range 16)).getD 1 0#32) 31 26 + f)) (List.range 16)), desc := List.map (fun i => readWord v5 (BitVec.toNat e4.inAddr + 4 * i)) (List.range 16), coef := List.map (fun f => tget (0#32) (clus v5 (clusterOfArray (lFirst lu))).coef (16 * fld ((List.map (fun i => readWord v5 (BitVec.toNat e4.inAddr + 4 * i)) (List.range 16)).getD 1 0#32) 31 26 + f)) (List.range 16), step := headerStep v5 lu, gnorm := 0#32, k := 1065353216#32, dirs := [], m1 := [], m2 := [] : UpdOp }.step = (List.map (fun i => readWord v5 (BitVec.toNat e4.inAddr + 4 * i)) (List.range 16)).getD 0 0#32) := 
  by and_intros <;> decide +kernel
theorem test_witness_UpdateRowsComplete_16_3 :
    atEntry v6 0 4 ((fl e4) : LaunchS) e4 ∧ layerRec v6 ((fl e4) : LaunchS).ctx e4.layer.toNat = some lu ∧ lu.st.applying = false ∧ lNum lu = e4.layer.toNat ∧ ((fl e4) : LaunchS).update = none ∧ reductionDone v6 ((fl e4) : LaunchS) e4.layer = true ∧ lTrained lu = true ∧ lu.st.started = false ∧ rangesOk v6 [(lState lu, lStateLen lu), (BitVec.toNat e4.inAddr, 64)] = true ∧ rangesPoisoned v6 [(lState lu, 64), (BitVec.toNat e4.inAddr, 64)] = false ∧ intact v6 (lState lu) 64 = true ∧ intact v6 (BitVec.toNat e4.inAddr) 64 = true ∧ headerBad v6 lu = false ∧ ((updDescBad v6 { layer := e4.layer, lead := clusterOfArray (lFirst lu), pass := firstPass (List.map (fun f => tget (0#32) (clus v6 (clusterOfArray (lFirst lu))).coef (16 * fld ((List.map (fun i => readWord v6 (BitVec.toNat e4.inAddr + 4 * i)) (List.range 16)).getD 1 0#32) 31 26 + f)) (List.range 16)), desc := List.map (fun i => readWord v6 (BitVec.toNat e4.inAddr + 4 * i)) (List.range 16), coef := List.map (fun f => tget (0#32) (clus v6 (clusterOfArray (lFirst lu))).coef (16 * fld ((List.map (fun i => readWord v6 (BitVec.toNat e4.inAddr + 4 * i)) (List.range 16)).getD 1 0#32) 31 26 + f)) (List.range 16), step := headerStep v6 lu, gnorm := 0#32, k := 1065353216#32, dirs := [], m1 := [], m2 := [] : UpdOp } lu || workShort { layer := e4.layer, lead := clusterOfArray (lFirst lu), pass := firstPass (List.map (fun f => tget (0#32) (clus v6 (clusterOfArray (lFirst lu))).coef (16 * fld ((List.map (fun i => readWord v6 (BitVec.toNat e4.inAddr + 4 * i)) (List.range 16)).getD 1 0#32) 31 26 + f)) (List.range 16)), desc := List.map (fun i => readWord v6 (BitVec.toNat e4.inAddr + 4 * i)) (List.range 16), coef := List.map (fun f => tget (0#32) (clus v6 (clusterOfArray (lFirst lu))).coef (16 * fld ((List.map (fun i => readWord v6 (BitVec.toNat e4.inAddr + 4 * i)) (List.range 16)).getD 1 0#32) 31 26 + f)) (List.range 16), step := headerStep v6 lu, gnorm := 0#32, k := 1065353216#32, dirs := [], m1 := [], m2 := [] : UpdOp } lu) = false) ∧ ({ layer := e4.layer, lead := clusterOfArray (lFirst lu), pass := firstPass (List.map (fun f => tget (0#32) (clus v6 (clusterOfArray (lFirst lu))).coef (16 * fld ((List.map (fun i => readWord v6 (BitVec.toNat e4.inAddr + 4 * i)) (List.range 16)).getD 1 0#32) 31 26 + f)) (List.range 16)), desc := List.map (fun i => readWord v6 (BitVec.toNat e4.inAddr + 4 * i)) (List.range 16), coef := List.map (fun f => tget (0#32) (clus v6 (clusterOfArray (lFirst lu))).coef (16 * fld ((List.map (fun i => readWord v6 (BitVec.toNat e4.inAddr + 4 * i)) (List.range 16)).getD 1 0#32) 31 26 + f)) (List.range 16), step := headerStep v6 lu, gnorm := 0#32, k := 1065353216#32, dirs := [], m1 := [], m2 := [] : UpdOp }.step ≠ (List.map (fun i => readWord v6 (BitVec.toNat e4.inAddr + 4 * i)) (List.range 16)).getD 0 0#32) := 
  by and_intros <;> decide +kernel
theorem test_witness_UpdateRowsComplete_16_4 :
    (atEntry v7 0 4 ((fl e4) : LaunchS) e4 ∧ layerRec v7 ((fl e4) : LaunchS).ctx e4.layer.toNat = some lu ∧ lu.st.applying = false ∧ lNum lu = e4.layer.toNat ∧ ((fl e4) : LaunchS).update = none ∧ reductionDone v7 ((fl e4) : LaunchS) e4.layer = true ∧ lTrained lu = true ∧ lu.st.started = false ∧ rangesOk v7 [(lState lu, lStateLen lu), (BitVec.toNat e4.inAddr, 64)] = true ∧ rangesPoisoned v7 [(lState lu, 64), (BitVec.toNat e4.inAddr, 64)] = false ∧ intact v7 (lState lu) 64 = true ∧ intact v7 (BitVec.toNat e4.inAddr) 64 = true ∧ headerBad v7 lu = false ∧ ((updDescBad v7 { layer := e4.layer, lead := clusterOfArray (lFirst lu), pass := firstPass (List.map (fun f => tget (0#32) (clus v7 (clusterOfArray (lFirst lu))).coef (16 * fld ((List.map (fun i => readWord v7 (BitVec.toNat e4.inAddr + 4 * i)) (List.range 16)).getD 1 0#32) 31 26 + f)) (List.range 16)), desc := List.map (fun i => readWord v7 (BitVec.toNat e4.inAddr + 4 * i)) (List.range 16), coef := List.map (fun f => tget (0#32) (clus v7 (clusterOfArray (lFirst lu))).coef (16 * fld ((List.map (fun i => readWord v7 (BitVec.toNat e4.inAddr + 4 * i)) (List.range 16)).getD 1 0#32) 31 26 + f)) (List.range 16), step := headerStep v7 lu, gnorm := 0#32, k := 1065353216#32, dirs := [], m1 := [], m2 := [] : UpdOp } lu || workShort { layer := e4.layer, lead := clusterOfArray (lFirst lu), pass := firstPass (List.map (fun f => tget (0#32) (clus v7 (clusterOfArray (lFirst lu))).coef (16 * fld ((List.map (fun i => readWord v7 (BitVec.toNat e4.inAddr + 4 * i)) (List.range 16)).getD 1 0#32) 31 26 + f)) (List.range 16)), desc := List.map (fun i => readWord v7 (BitVec.toNat e4.inAddr + 4 * i)) (List.range 16), coef := List.map (fun f => tget (0#32) (clus v7 (clusterOfArray (lFirst lu))).coef (16 * fld ((List.map (fun i => readWord v7 (BitVec.toNat e4.inAddr + 4 * i)) (List.range 16)).getD 1 0#32) 31 26 + f)) (List.range 16), step := headerStep v7 lu, gnorm := 0#32, k := 1065353216#32, dirs := [], m1 := [], m2 := [] : UpdOp } lu) = true))
    ∧ (atEntry v8 0 4 ((fl e4) : LaunchS) e4 ∧ layerRec v8 ((fl e4) : LaunchS).ctx e4.layer.toNat = some lu ∧ lu.st.applying = false ∧ lNum lu = e4.layer.toNat ∧ ((fl e4) : LaunchS).update = none ∧ reductionDone v8 ((fl e4) : LaunchS) e4.layer = true ∧ lTrained lu = true ∧ lu.st.started = false ∧ rangesOk v8 [(lState lu, lStateLen lu), (BitVec.toNat e4.inAddr, 64)] = true ∧ rangesPoisoned v8 [(lState lu, 64), (BitVec.toNat e4.inAddr, 64)] = false ∧ intact v8 (lState lu) 64 = true ∧ intact v8 (BitVec.toNat e4.inAddr) 64 = true ∧ headerBad v8 lu = true) := by
  and_intros <;> decide +kernel
theorem row_q0_5_1 : (List.map (fun k => List.map (scaled ((op1 1 0x3F800000 0 0) : UpdOp)) (gradRow (consume v12 CheckSeen.good (passReads ((op1 1 0x3F800000 0 0) : UpdOp) luS (passRows v11 ((op1 1 0x3F800000 0 0) : UpdOp) luS)) (noteLayer luS 0 v11)).2 (phaseBad (consume v12 CheckSeen.good (passReads ((op1 1 0x3F800000 0 0) : UpdOp) luS (passRows v11 ((op1 1 0x3F800000 0 0) : UpdOp) luS)) (noteLayer luS 0 v11)).2 CheckSeen.good (passReads ((op1 1 0x3F800000 0 0) : UpdOp) luS (passRows v11 ((op1 1 0x3F800000 0 0) : UpdOp) luS)) fun b g => if b = true then (masterAt luS g 0, 2 * colsPad luS) else tensorGroup 8 (gradAddr ((op1 1 0x3F800000 0 0) : UpdOp)) (rowBlocks (lIn luS)) g) ((op1 1 0x3F800000 0 0) : UpdOp) luS k)) (passRows v11 ((op1 1 0x3F800000 0 0) : UpdOp) luS)) = [[1065353216#32, 1073741824#32, 3225419776#32], [1040252928#32, 1073938432#32, 3221553152#32]] := by decide +kernel
theorem test_witness_UpdateRowsComplete_16_5 :
    (atEntry v9 0 4 v10 e4 ∧ layerRec v9 v10.ctx e4.layer.toNat = some lu ∧ lu.st.applying = false ∧ lNum lu = e4.layer.toNat ∧ (v10.update ≠ none ∨ reductionDone v9 v10 e4.layer = false))
    ∧ (atEntry v11 0 4 v12 e4 ∧ layerRec v11 v12.ctx e4.layer.toNat = some luS ∧ luS.st.applying = false ∧ lNum luS = e4.layer.toNat ∧ v12.update = some ((op1 1 0x3F800000 0 0) : UpdOp) ∧ ((op1 1 0x3F800000 0 0) : UpdOp).layer = e4.layer ∧ rangesOk v11 (passReads ((op1 1 0x3F800000 0 0) : UpdOp) luS (passRows v11 ((op1 1 0x3F800000 0 0) : UpdOp) luS)) = true ∧ (consume v12 CheckSeen.good (passReads ((op1 1 0x3F800000 0 0) : UpdOp) luS (passRows v11 ((op1 1 0x3F800000 0 0) : UpdOp) luS)) (noteLayer luS 0 v11)).1 = true ∧ rangesPoisoned (consume v12 CheckSeen.good (passReads ((op1 1 0x3F800000 0 0) : UpdOp) luS (passRows v11 ((op1 1 0x3F800000 0 0) : UpdOp) luS)) (noteLayer luS 0 v11)).2 (passReads ((op1 1 0x3F800000 0 0) : UpdOp) luS (passRows v11 ((op1 1 0x3F800000 0 0) : UpdOp) luS)) = false ∧ inStacks v11 (lStaging luS) (stgEnd luS - lStaging luS) = true ∧ aloof v11 (rowListAddr luS) (rowListBytes luS) (tailAddr luS + 4) 4 ∧ (((op1 1 0x3F800000 0 0) : UpdOp).pass = 1#3 ∨ ((op1 1 0x3F800000 0 0) : UpdOp).pass = 2#3 → ∀ k ∈ passRows v11 ((op1 1 0x3F800000 0 0) : UpdOp) luS, gradPoison (consume v12 CheckSeen.good (passReads ((op1 1 0x3F800000 0 0) : UpdOp) luS (passRows v11 ((op1 1 0x3F800000 0 0) : UpdOp) luS)) (noteLayer luS 0 v11)).2 ((op1 1 0x3F800000 0 0) : UpdOp) luS k = false) ∧ ((op1 1 0x3F800000 0 0) : UpdOp).pass = 1#3 ∧ (¬((((op1 1 0x3F800000 0 0) : UpdOp).pass = 1#3 ∨ ((op1 1 0x3F800000 0 0) : UpdOp).pass = 2#3) ∧ policyOf v11 v12.ctx = 0 ∧ ∃ k ∈ passRows v11 ((op1 1 0x3F800000 0 0) : UpdOp) luS, none ∈ gradRow (consume v12 CheckSeen.good (passReads ((op1 1 0x3F800000 0 0) : UpdOp) luS (passRows v11 ((op1 1 0x3F800000 0 0) : UpdOp) luS)) (noteLayer luS 0 v11)).2 (phaseBad (consume v12 CheckSeen.good (passReads ((op1 1 0x3F800000 0 0) : UpdOp) luS (passRows v11 ((op1 1 0x3F800000 0 0) : UpdOp) luS)) (noteLayer luS 0 v11)).2 CheckSeen.good (passReads ((op1 1 0x3F800000 0 0) : UpdOp) luS (passRows v11 ((op1 1 0x3F800000 0 0) : UpdOp) luS)) fun b g => if b = true then (masterAt luS g 0, 2 * colsPad luS) else tensorGroup 8 (gradAddr ((op1 1 0x3F800000 0 0) : UpdOp)) (rowBlocks (lIn luS)) g) ((op1 1 0x3F800000 0 0) : UpdOp) luS k)) ∧ (∀ g ∈ List.map (fun k => List.map (scaled ((op1 1 0x3F800000 0 0) : UpdOp)) (gradRow (consume v12 CheckSeen.good (passReads ((op1 1 0x3F800000 0 0) : UpdOp) luS (passRows v11 ((op1 1 0x3F800000 0 0) : UpdOp) luS)) (noteLayer luS 0 v11)).2 (phaseBad (consume v12 CheckSeen.good (passReads ((op1 1 0x3F800000 0 0) : UpdOp) luS (passRows v11 ((op1 1 0x3F800000 0 0) : UpdOp) luS)) (noteLayer luS 0 v11)).2 CheckSeen.good (passReads ((op1 1 0x3F800000 0 0) : UpdOp) luS (passRows v11 ((op1 1 0x3F800000 0 0) : UpdOp) luS)) fun b g => if b = true then (masterAt luS g 0, 2 * colsPad luS) else tensorGroup 8 (gradAddr ((op1 1 0x3F800000 0 0) : UpdOp)) (rowBlocks (lIn luS)) g) ((op1 1 0x3F800000 0 0) : UpdOp) luS k)) (passRows v11 ((op1 1 0x3F800000 0 0) : UpdOp) luS), ∀ w ∈ g, isFiniteF32 w = true)) := 
  ⟨by and_intros <;> decide +kernel,
    ⟨by decide +kernel, by decide +kernel, by decide +kernel, by decide +kernel, by decide +kernel, by decide +kernel, by decide +kernel, by decide +kernel, by decide +kernel, by decide +kernel, by decide +kernel, by decide +kernel, by decide +kernel, by decide +kernel, by
      rw [row_q0_5_1]
      simp only [List.forall_mem_cons, List.not_mem_nil, false_imp_iff, implies_true, and_true]
      decide +kernel⟩⟩
theorem row_q1_6_0 : (List.map (fun k => List.map (scaled ((op1 1 0x3F800000 0 0) : UpdOp)) (gradRow (consume v12 CheckSeen.good (passReads ((op1 1 0x3F800000 0 0) : UpdOp) luS (passRows v13 ((op1 1 0x3F800000 0 0) : UpdOp) luS)) (noteLayer luS 0 v13)).2 (phaseBad (consume v12 CheckSeen.good (passReads ((op1 1 0x3F800000 0 0) : UpdOp) luS (passRows v13 ((op1 1 0x3F800000 0 0) : UpdOp) luS)) (noteLayer luS 0 v13)).2 CheckSeen.good (passReads ((op1 1 0x3F800000 0 0) : UpdOp) luS (passRows v13 ((op1 1 0x3F800000 0 0) : UpdOp) luS)) fun b g => if b = true then (masterAt luS g 0, 2 * colsPad luS) else tensorGroup 8 (gradAddr ((op1 1 0x3F800000 0 0) : UpdOp)) (rowBlocks (lIn luS)) g) ((op1 1 0x3F800000 0 0) : UpdOp) luS k)) (passRows v13 ((op1 1 0x3F800000 0 0) : UpdOp) luS)) = [[2139095040#32, 1073741824#32, 3225419776#32], [1040252928#32, 1073938432#32, 3221553152#32]] := by decide +kernel
theorem test_witness_UpdateRowsComplete_16_6 :
    (atEntry v13 0 4 v12 e4 ∧ layerRec v13 v12.ctx e4.layer.toNat = some luS ∧ luS.st.applying = false ∧ lNum luS = e4.layer.toNat ∧ v12.update = some ((op1 1 0x3F800000 0 0) : UpdOp) ∧ ((op1 1 0x3F800000 0 0) : UpdOp).layer = e4.layer ∧ rangesOk v13 (passReads ((op1 1 0x3F800000 0 0) : UpdOp) luS (passRows v13 ((op1 1 0x3F800000 0 0) : UpdOp) luS)) = true ∧ (consume v12 CheckSeen.good (passReads ((op1 1 0x3F800000 0 0) : UpdOp) luS (passRows v13 ((op1 1 0x3F800000 0 0) : UpdOp) luS)) (noteLayer luS 0 v13)).1 = true ∧ rangesPoisoned (consume v12 CheckSeen.good (passReads ((op1 1 0x3F800000 0 0) : UpdOp) luS (passRows v13 ((op1 1 0x3F800000 0 0) : UpdOp) luS)) (noteLayer luS 0 v13)).2 (passReads ((op1 1 0x3F800000 0 0) : UpdOp) luS (passRows v13 ((op1 1 0x3F800000 0 0) : UpdOp) luS)) = false ∧ inStacks v13 (lStaging luS) (stgEnd luS - lStaging luS) = true ∧ aloof v13 (rowListAddr luS) (rowListBytes luS) (tailAddr luS + 4) 4 ∧ (((op1 1 0x3F800000 0 0) : UpdOp).pass = 1#3 ∨ ((op1 1 0x3F800000 0 0) : UpdOp).pass = 2#3 → ∀ k ∈ passRows v13 ((op1 1 0x3F800000 0 0) : UpdOp) luS, gradPoison (consume v12 CheckSeen.good (passReads ((op1 1 0x3F800000 0 0) : UpdOp) luS (passRows v13 ((op1 1 0x3F800000 0 0) : UpdOp) luS)) (noteLayer luS 0 v13)).2 ((op1 1 0x3F800000 0 0) : UpdOp) luS k = false) ∧ ((op1 1 0x3F800000 0 0) : UpdOp).pass = 1#3 ∧ (((((op1 1 0x3F800000 0 0) : UpdOp).pass = 1#3 ∨ ((op1 1 0x3F800000 0 0) : UpdOp).pass = 2#3) ∧ policyOf v13 v12.ctx = 0 ∧ ∃ k ∈ passRows v13 ((op1 1 0x3F800000 0 0) : UpdOp) luS, none ∈ gradRow (consume v12 CheckSeen.good (passReads ((op1 1 0x3F800000 0 0) : UpdOp) luS (passRows v13 ((op1 1 0x3F800000 0 0) : UpdOp) luS)) (noteLayer luS 0 v13)).2 (phaseBad (consume v12 CheckSeen.good (passReads ((op1 1 0x3F800000 0 0) : UpdOp) luS (passRows v13 ((op1 1 0x3F800000 0 0) : UpdOp) luS)) (noteLayer luS 0 v13)).2 CheckSeen.good (passReads ((op1 1 0x3F800000 0 0) : UpdOp) luS (passRows v13 ((op1 1 0x3F800000 0 0) : UpdOp) luS)) fun b g => if b = true then (masterAt luS g 0, 2 * colsPad luS) else tensorGroup 8 (gradAddr ((op1 1 0x3F800000 0 0) : UpdOp)) (rowBlocks (lIn luS)) g) ((op1 1 0x3F800000 0 0) : UpdOp) luS k) ∨ ¬∀ g ∈ List.map (fun k => List.map (scaled ((op1 1 0x3F800000 0 0) : UpdOp)) (gradRow (consume v12 CheckSeen.good (passReads ((op1 1 0x3F800000 0 0) : UpdOp) luS (passRows v13 ((op1 1 0x3F800000 0 0) : UpdOp) luS)) (noteLayer luS 0 v13)).2 (phaseBad (consume v12 CheckSeen.good (passReads ((op1 1 0x3F800000 0 0) : UpdOp) luS (passRows v13 ((op1 1 0x3F800000 0 0) : UpdOp) luS)) (noteLayer luS 0 v13)).2 CheckSeen.good (passReads ((op1 1 0x3F800000 0 0) : UpdOp) luS (passRows v13 ((op1 1 0x3F800000 0 0) : UpdOp) luS)) fun b g => if b = true then (masterAt luS g 0, 2 * colsPad luS) else tensorGroup 8 (gradAddr ((op1 1 0x3F800000 0 0) : UpdOp)) (rowBlocks (lIn luS)) g) ((op1 1 0x3F800000 0 0) : UpdOp) luS k)) (passRows v13 ((op1 1 0x3F800000 0 0) : UpdOp) luS), ∀ w ∈ g, isFiniteF32 w = true))
    ∧ (atEntry v11 0 4 v12 e4 ∧ layerRec v11 v12.ctx e4.layer.toNat = some luS ∧ luS.st.applying = false ∧ lNum luS = e4.layer.toNat ∧ v12.update = some ((op1 1 0x3F800000 0 0) : UpdOp) ∧ ((op1 1 0x3F800000 0 0) : UpdOp).layer = e4.layer ∧ rangesOk v11 (passReads ((op1 1 0x3F800000 0 0) : UpdOp) luS (passRows v11 ((op1 1 0x3F800000 0 0) : UpdOp) luS)) = true ∧ (consume v12 CheckSeen.atRest (passReads ((op1 1 0x3F800000 0 0) : UpdOp) luS (passRows v11 ((op1 1 0x3F800000 0 0) : UpdOp) luS)) (noteLayer luS 0 v11)).1 = false) := 
  ⟨⟨by decide +kernel, by decide +kernel, by decide +kernel, by decide +kernel, by decide +kernel, by decide +kernel, by decide +kernel, by decide +kernel, by decide +kernel, by decide +kernel, by decide +kernel, by decide +kernel, by decide +kernel, by
      refine .inr ?_
      rw [row_q1_6_0]
      exact fun h => absurd (h _ (List.mem_cons_self ..) _ (List.mem_cons_self ..)) (by decide)⟩,
    by and_intros <;> decide +kernel⟩
theorem test_witness_UpdateRowsComplete_16_7 :
    atEntry v14 0 4 v15 e4 ∧ layerRec v14 v15.ctx e4.layer.toNat = some luS ∧ luS.st.applying = false ∧ lNum luS = e4.layer.toNat ∧ v15.update = some ((op1 2 0x3F800000 0 3) : UpdOp) ∧ ((op1 2 0x3F800000 0 3) : UpdOp).layer = e4.layer ∧ rangesOk v14 (passReads ((op1 2 0x3F800000 0 3) : UpdOp) luS (passRows v14 ((op1 2 0x3F800000 0 3) : UpdOp) luS)) = true ∧ (consume v15 CheckSeen.good (passReads ((op1 2 0x3F800000 0 3) : UpdOp) luS (passRows v14 ((op1 2 0x3F800000 0 3) : UpdOp) luS)) (noteLayer luS 0 v14)).1 = true ∧ rangesPoisoned (consume v15 CheckSeen.good (passReads ((op1 2 0x3F800000 0 3) : UpdOp) luS (passRows v14 ((op1 2 0x3F800000 0 3) : UpdOp) luS)) (noteLayer luS 0 v14)).2 (passReads ((op1 2 0x3F800000 0 3) : UpdOp) luS (passRows v14 ((op1 2 0x3F800000 0 3) : UpdOp) luS)) = false ∧ inStacks v14 (lStaging luS) (stgEnd luS - lStaging luS) = true ∧ aloof v14 (rowListAddr luS) (rowListBytes luS) (tailAddr luS + 4) 4 ∧ (((op1 2 0x3F800000 0 3) : UpdOp).pass = 1#3 ∨ ((op1 2 0x3F800000 0 3) : UpdOp).pass = 2#3 → ∀ k ∈ passRows v14 ((op1 2 0x3F800000 0 3) : UpdOp) luS, gradPoison (consume v15 CheckSeen.good (passReads ((op1 2 0x3F800000 0 3) : UpdOp) luS (passRows v14 ((op1 2 0x3F800000 0 3) : UpdOp) luS)) (noteLayer luS 0 v14)).2 ((op1 2 0x3F800000 0 3) : UpdOp) luS k = false) ∧ ((op1 2 0x3F800000 0 3) : UpdOp).pass = 2#3 ∧ (¬((((op1 2 0x3F800000 0 3) : UpdOp).pass = 1#3 ∨ ((op1 2 0x3F800000 0 3) : UpdOp).pass = 2#3) ∧ policyOf v14 v15.ctx = 0 ∧ ∃ k ∈ passRows v14 ((op1 2 0x3F800000 0 3) : UpdOp) luS, none ∈ gradRow (consume v15 CheckSeen.good (passReads ((op1 2 0x3F800000 0 3) : UpdOp) luS (passRows v14 ((op1 2 0x3F800000 0 3) : UpdOp) luS)) (noteLayer luS 0 v14)).2 (phaseBad (consume v15 CheckSeen.good (passReads ((op1 2 0x3F800000 0 3) : UpdOp) luS (passRows v14 ((op1 2 0x3F800000 0 3) : UpdOp) luS)) (noteLayer luS 0 v14)).2 CheckSeen.good (passReads ((op1 2 0x3F800000 0 3) : UpdOp) luS (passRows v14 ((op1 2 0x3F800000 0 3) : UpdOp) luS)) fun b g => if b = true then (masterAt luS g 0, 2 * colsPad luS) else tensorGroup 8 (gradAddr ((op1 2 0x3F800000 0 3) : UpdOp)) (rowBlocks (lIn luS)) g) ((op1 2 0x3F800000 0 3) : UpdOp) luS k)) ∧ (∀ o ∈ List.map (fun k => (k, momentsRow (consume v15 CheckSeen.good (passReads ((op1 2 0x3F800000 0 3) : UpdOp) luS (passRows v14 ((op1 2 0x3F800000 0 3) : UpdOp) luS)) (noteLayer luS 0 v14)).2 (phaseBad (consume v15 CheckSeen.good (passReads ((op1 2 0x3F800000 0 3) : UpdOp) luS (passRows v14 ((op1 2 0x3F800000 0 3) : UpdOp) luS)) (noteLayer luS 0 v14)).2 CheckSeen.good (passReads ((op1 2 0x3F800000 0 3) : UpdOp) luS (passRows v14 ((op1 2 0x3F800000 0 3) : UpdOp) luS)) fun b g => if b = true then (masterAt luS g 0, 2 * colsPad luS) else tensorGroup 8 (gradAddr ((op1 2 0x3F800000 0 3) : UpdOp)) (rowBlocks (lIn luS)) g) ((op1 2 0x3F800000 0 3) : UpdOp) luS (f32Recip (bias (bit (ctrl ((op1 2 0x3F800000 0 3) : UpdOp)) 4) (cf ((op1 2 0x3F800000 0 3) : UpdOp) 1) (stepT ((op1 2 0x3F800000 0 3) : UpdOp)))) (f32Rsqrt (bias (bit (ctrl ((op1 2 0x3F800000 0 3) : UpdOp)) 5) (cf ((op1 2 0x3F800000 0 3) : UpdOp) 2) (stepT ((op1 2 0x3F800000 0 3) : UpdOp)))) k)) (passRows v14 ((op1 2 0x3F800000 0 3) : UpdOp) luS), o.2.nonfin = []) ∧ orthoIters ((op1 2 0x3F800000 0 3) : UpdOp) = 0 ∧ (∀ m ∈ masterRows (consume v15 CheckSeen.good (passReads ((op1 2 0x3F800000 0 3) : UpdOp) luS (passRows v14 ((op1 2 0x3F800000 0 3) : UpdOp) luS)) (noteLayer luS 0 v14)).2 (phaseBad (consume v15 CheckSeen.good (passReads ((op1 2 0x3F800000 0 3) : UpdOp) luS (passRows v14 ((op1 2 0x3F800000 0 3) : UpdOp) luS)) (noteLayer luS 0 v14)).2 CheckSeen.good (passReads ((op1 2 0x3F800000 0 3) : UpdOp) luS (passRows v14 ((op1 2 0x3F800000 0 3) : UpdOp) luS)) fun b g => if b = true then (masterAt luS g 0, 2 * colsPad luS) else tensorGroup 8 (gradAddr ((op1 2 0x3F800000 0 3) : UpdOp)) (rowBlocks (lIn luS)) g) { layer := ((op1 2 0x3F800000 0 3) : UpdOp).layer, lead := ((op1 2 0x3F800000 0 3) : UpdOp).lead, pass := ((op1 2 0x3F800000 0 3) : UpdOp).pass, desc := ((op1 2 0x3F800000 0 3) : UpdOp).desc, coef := ((op1 2 0x3F800000 0 3) : UpdOp).coef, step := ((op1 2 0x3F800000 0 3) : UpdOp).step, gnorm := ((op1 2 0x3F800000 0 3) : UpdOp).gnorm, k := ((op1 2 0x3F800000 0 3) : UpdOp).k, dirs := List.map (fun o => (o.1, o.2.d)) (List.map (fun k => (k, momentsRow (consume v15 CheckSeen.good (passReads ((op1 2 0x3F800000 0 3) : UpdOp) luS (passRows v14 ((op1 2 0x3F800000 0 3) : UpdOp) luS)) (noteLayer luS 0 v14)).2 (phaseBad (consume v15 CheckSeen.good (passReads ((op1 2 0x3F800000 0 3) : UpdOp) luS (passRows v14 ((op1 2 0x3F800000 0 3) : UpdOp) luS)) (noteLayer luS 0 v14)).2 CheckSeen.good (passReads ((op1 2 0x3F800000 0 3) : UpdOp) luS (passRows v14 ((op1 2 0x3F800000 0 3) : UpdOp) luS)) fun b g => if b = true then (masterAt luS g 0, 2 * colsPad luS) else tensorGroup 8 (gradAddr ((op1 2 0x3F800000 0 3) : UpdOp)) (rowBlocks (lIn luS)) g) ((op1 2 0x3F800000 0 3) : UpdOp) luS (f32Recip (bias (bit (ctrl ((op1 2 0x3F800000 0 3) : UpdOp)) 4) (cf ((op1 2 0x3F800000 0 3) : UpdOp) 1) (stepT ((op1 2 0x3F800000 0 3) : UpdOp)))) (f32Rsqrt (bias (bit (ctrl ((op1 2 0x3F800000 0 3) : UpdOp)) 5) (cf ((op1 2 0x3F800000 0 3) : UpdOp) 2) (stepT ((op1 2 0x3F800000 0 3) : UpdOp)))) k)) (passRows v14 ((op1 2 0x3F800000 0 3) : UpdOp) luS)), m1 := List.map (fun o => (o.1, momentBytes o.2.m1)) (List.map (fun k => (k, momentsRow (consume v15 CheckSeen.good (passReads ((op1 2 0x3F800000 0 3) : UpdOp) luS (passRows v14 ((op1 2 0x3F800000 0 3) : UpdOp) luS)) (noteLayer luS 0 v14)).2 (phaseBad (consume v15 CheckSeen.good (passReads ((op1 2 0x3F800000 0 3) : UpdOp) luS (passRows v14 ((op1 2 0x3F800000 0 3) : UpdOp) luS)) (noteLayer luS 0 v14)).2 CheckSeen.good (passReads ((op1 2 0x3F800000 0 3) : UpdOp) luS (passRows v14 ((op1 2 0x3F800000 0 3) : UpdOp) luS)) fun b g => if b = true then (masterAt luS g 0, 2 * colsPad luS) else tensorGroup 8 (gradAddr ((op1 2 0x3F800000 0 3) : UpdOp)) (rowBlocks (lIn luS)) g) ((op1 2 0x3F800000 0 3) : UpdOp) luS (f32Recip (bias (bit (ctrl ((op1 2 0x3F800000 0 3) : UpdOp)) 4) (cf ((op1 2 0x3F800000 0 3) : UpdOp) 1) (stepT ((op1 2 0x3F800000 0 3) : UpdOp)))) (f32Rsqrt (bias (bit (ctrl ((op1 2 0x3F800000 0 3) : UpdOp)) 5) (cf ((op1 2 0x3F800000 0 3) : UpdOp) 2) (stepT ((op1 2 0x3F800000 0 3) : UpdOp)))) k)) (passRows v14 ((op1 2 0x3F800000 0 3) : UpdOp) luS)), m2 := List.map (fun o => (o.1, momentBytes o.2.q)) (List.map (fun k => (k, momentsRow (consume v15 CheckSeen.good (passReads ((op1 2 0x3F800000 0 3) : UpdOp) luS (passRows v14 ((op1 2 0x3F800000 0 3) : UpdOp) luS)) (noteLayer luS 0 v14)).2 (phaseBad (consume v15 CheckSeen.good (passReads ((op1 2 0x3F800000 0 3) : UpdOp) luS (passRows v14 ((op1 2 0x3F800000 0 3) : UpdOp) luS)) (noteLayer luS 0 v14)).2 CheckSeen.good (passReads ((op1 2 0x3F800000 0 3) : UpdOp) luS (passRows v14 ((op1 2 0x3F800000 0 3) : UpdOp) luS)) fun b g => if b = true then (masterAt luS g 0, 2 * colsPad luS) else tensorGroup 8 (gradAddr ((op1 2 0x3F800000 0 3) : UpdOp)) (rowBlocks (lIn luS)) g) ((op1 2 0x3F800000 0 3) : UpdOp) luS (f32Recip (bias (bit (ctrl ((op1 2 0x3F800000 0 3) : UpdOp)) 4) (cf ((op1 2 0x3F800000 0 3) : UpdOp) 1) (stepT ((op1 2 0x3F800000 0 3) : UpdOp)))) (f32Rsqrt (bias (bit (ctrl ((op1 2 0x3F800000 0 3) : UpdOp)) 5) (cf ((op1 2 0x3F800000 0 3) : UpdOp) 2) (stepT ((op1 2 0x3F800000 0 3) : UpdOp)))) k)) (passRows v14 ((op1 2 0x3F800000 0 3) : UpdOp) luS)) : UpdOp } luS { layer := ((op1 2 0x3F800000 0 3) : UpdOp).layer, lead := ((op1 2 0x3F800000 0 3) : UpdOp).lead, pass := ((op1 2 0x3F800000 0 3) : UpdOp).pass, desc := ((op1 2 0x3F800000 0 3) : UpdOp).desc, coef := ((op1 2 0x3F800000 0 3) : UpdOp).coef, step := ((op1 2 0x3F800000 0 3) : UpdOp).step, gnorm := ((op1 2 0x3F800000 0 3) : UpdOp).gnorm, k := ((op1 2 0x3F800000 0 3) : UpdOp).k, dirs := List.map (fun o => (o.1, o.2.d)) (List.map (fun k => (k, momentsRow (consume v15 CheckSeen.good (passReads ((op1 2 0x3F800000 0 3) : UpdOp) luS (passRows v14 ((op1 2 0x3F800000 0 3) : UpdOp) luS)) (noteLayer luS 0 v14)).2 (phaseBad (consume v15 CheckSeen.good (passReads ((op1 2 0x3F800000 0 3) : UpdOp) luS (passRows v14 ((op1 2 0x3F800000 0 3) : UpdOp) luS)) (noteLayer luS 0 v14)).2 CheckSeen.good (passReads ((op1 2 0x3F800000 0 3) : UpdOp) luS (passRows v14 ((op1 2 0x3F800000 0 3) : UpdOp) luS)) fun b g => if b = true then (masterAt luS g 0, 2 * colsPad luS) else tensorGroup 8 (gradAddr ((op1 2 0x3F800000 0 3) : UpdOp)) (rowBlocks (lIn luS)) g) ((op1 2 0x3F800000 0 3) : UpdOp) luS (f32Recip (bias (bit (ctrl ((op1 2 0x3F800000 0 3) : UpdOp)) 4) (cf ((op1 2 0x3F800000 0 3) : UpdOp) 1) (stepT ((op1 2 0x3F800000 0 3) : UpdOp)))) (f32Rsqrt (bias (bit (ctrl ((op1 2 0x3F800000 0 3) : UpdOp)) 5) (cf ((op1 2 0x3F800000 0 3) : UpdOp) 2) (stepT ((op1 2 0x3F800000 0 3) : UpdOp)))) k)) (passRows v14 ((op1 2 0x3F800000 0 3) : UpdOp) luS)), m1 := List.map (fun o => (o.1, momentBytes o.2.m1)) (List.map (fun k => (k, momentsRow (consume v15 CheckSeen.good (passReads ((op1 2 0x3F800000 0 3) : UpdOp) luS (passRows v14 ((op1 2 0x3F800000 0 3) : UpdOp) luS)) (noteLayer luS 0 v14)).2 (phaseBad (consume v15 CheckSeen.good (passReads ((op1 2 0x3F800000 0 3) : UpdOp) luS (passRows v14 ((op1 2 0x3F800000 0 3) : UpdOp) luS)) (noteLayer luS 0 v14)).2 CheckSeen.good (passReads ((op1 2 0x3F800000 0 3) : UpdOp) luS (passRows v14 ((op1 2 0x3F800000 0 3) : UpdOp) luS)) fun b g => if b = true then (masterAt luS g 0, 2 * colsPad luS) else tensorGroup 8 (gradAddr ((op1 2 0x3F800000 0 3) : UpdOp)) (rowBlocks (lIn luS)) g) ((op1 2 0x3F800000 0 3) : UpdOp) luS (f32Recip (bias (bit (ctrl ((op1 2 0x3F800000 0 3) : UpdOp)) 4) (cf ((op1 2 0x3F800000 0 3) : UpdOp) 1) (stepT ((op1 2 0x3F800000 0 3) : UpdOp)))) (f32Rsqrt (bias (bit (ctrl ((op1 2 0x3F800000 0 3) : UpdOp)) 5) (cf ((op1 2 0x3F800000 0 3) : UpdOp) 2) (stepT ((op1 2 0x3F800000 0 3) : UpdOp)))) k)) (passRows v14 ((op1 2 0x3F800000 0 3) : UpdOp) luS)), m2 := List.map (fun o => (o.1, momentBytes o.2.q)) (List.map (fun k => (k, momentsRow (consume v15 CheckSeen.good (passReads ((op1 2 0x3F800000 0 3) : UpdOp) luS (passRows v14 ((op1 2 0x3F800000 0 3) : UpdOp) luS)) (noteLayer luS 0 v14)).2 (phaseBad (consume v15 CheckSeen.good (passReads ((op1 2 0x3F800000 0 3) : UpdOp) luS (passRows v14 ((op1 2 0x3F800000 0 3) : UpdOp) luS)) (noteLayer luS 0 v14)).2 CheckSeen.good (passReads ((op1 2 0x3F800000 0 3) : UpdOp) luS (passRows v14 ((op1 2 0x3F800000 0 3) : UpdOp) luS)) fun b g => if b = true then (masterAt luS g 0, 2 * colsPad luS) else tensorGroup 8 (gradAddr ((op1 2 0x3F800000 0 3) : UpdOp)) (rowBlocks (lIn luS)) g) ((op1 2 0x3F800000 0 3) : UpdOp) luS (f32Recip (bias (bit (ctrl ((op1 2 0x3F800000 0 3) : UpdOp)) 4) (cf ((op1 2 0x3F800000 0 3) : UpdOp) 1) (stepT ((op1 2 0x3F800000 0 3) : UpdOp)))) (f32Rsqrt (bias (bit (ctrl ((op1 2 0x3F800000 0 3) : UpdOp)) 5) (cf ((op1 2 0x3F800000 0 3) : UpdOp) 2) (stepT ((op1 2 0x3F800000 0 3) : UpdOp)))) k)) (passRows v14 ((op1 2 0x3F800000 0 3) : UpdOp) luS)) : UpdOp }.dirs, m.nonfin = []) ∧ (∀ x ∈ stagingStores (consume v15 CheckSeen.good (passReads ((op1 2 0x3F800000 0 3) : UpdOp) luS (passRows v14 ((op1 2 0x3F800000 0 3) : UpdOp) luS)) (noteLayer luS 0 v14)).2 { layer := ((op1 2 0x3F800000 0 3) : UpdOp).layer, lead := ((op1 2 0x3F800000 0 3) : UpdOp).lead, pass := ((op1 2 0x3F800000 0 3) : UpdOp).pass, desc := ((op1 2 0x3F800000 0 3) : UpdOp).desc, coef := ((op1 2 0x3F800000 0 3) : UpdOp).coef, step := ((op1 2 0x3F800000 0 3) : UpdOp).step, gnorm := ((op1 2 0x3F800000 0 3) : UpdOp).gnorm, k := ((op1 2 0x3F800000 0 3) : UpdOp).k, dirs := List.map (fun o => (o.1, o.2.d)) (List.map (fun k => (k, momentsRow (consume v15 CheckSeen.good (passReads ((op1 2 0x3F800000 0 3) : UpdOp) luS (passRows v14 ((op1 2 0x3F800000 0 3) : UpdOp) luS)) (noteLayer luS 0 v14)).2 (phaseBad (consume v15 CheckSeen.good (passReads ((op1 2 0x3F800000 0 3) : UpdOp) luS (passRows v14 ((op1 2 0x3F800000 0 3) : UpdOp) luS)) (noteLayer luS 0 v14)).2 CheckSeen.good (passReads ((op1 2 0x3F800000 0 3) : UpdOp) luS (passRows v14 ((op1 2 0x3F800000 0 3) : UpdOp) luS)) fun b g => if b = true then (masterAt luS g 0, 2 * colsPad luS) else tensorGroup 8 (gradAddr ((op1 2 0x3F800000 0 3) : UpdOp)) (rowBlocks (lIn luS)) g) ((op1 2 0x3F800000 0 3) : UpdOp) luS (f32Recip (bias (bit (ctrl ((op1 2 0x3F800000 0 3) : UpdOp)) 4) (cf ((op1 2 0x3F800000 0 3) : UpdOp) 1) (stepT ((op1 2 0x3F800000 0 3) : UpdOp)))) (f32Rsqrt (bias (bit (ctrl ((op1 2 0x3F800000 0 3) : UpdOp)) 5) (cf ((op1 2 0x3F800000 0 3) : UpdOp) 2) (stepT ((op1 2 0x3F800000 0 3) : UpdOp)))) k)) (passRows v14 ((op1 2 0x3F800000 0 3) : UpdOp) luS)), m1 := List.map (fun o => (o.1, momentBytes o.2.m1)) (List.map (fun k => (k, momentsRow (consume v15 CheckSeen.good (passReads ((op1 2 0x3F800000 0 3) : UpdOp) luS (passRows v14 ((op1 2 0x3F800000 0 3) : UpdOp) luS)) (noteLayer luS 0 v14)).2 (phaseBad (consume v15 CheckSeen.good (passReads ((op1 2 0x3F800000 0 3) : UpdOp) luS (passRows v14 ((op1 2 0x3F800000 0 3) : UpdOp) luS)) (noteLayer luS 0 v14)).2 CheckSeen.good (passReads ((op1 2 0x3F800000 0 3) : UpdOp) luS (passRows v14 ((op1 2 0x3F800000 0 3) : UpdOp) luS)) fun b g => if b = true then (masterAt luS g 0, 2 * colsPad luS) else tensorGroup 8 (gradAddr ((op1 2 0x3F800000 0 3) : UpdOp)) (rowBlocks (lIn luS)) g) ((op1 2 0x3F800000 0 3) : UpdOp) luS (f32Recip (bias (bit (ctrl ((op1 2 0x3F800000 0 3) : UpdOp)) 4) (cf ((op1 2 0x3F800000 0 3) : UpdOp) 1) (stepT ((op1 2 0x3F800000 0 3) : UpdOp)))) (f32Rsqrt (bias (bit (ctrl ((op1 2 0x3F800000 0 3) : UpdOp)) 5) (cf ((op1 2 0x3F800000 0 3) : UpdOp) 2) (stepT ((op1 2 0x3F800000 0 3) : UpdOp)))) k)) (passRows v14 ((op1 2 0x3F800000 0 3) : UpdOp) luS)), m2 := List.map (fun o => (o.1, momentBytes o.2.q)) (List.map (fun k => (k, momentsRow (consume v15 CheckSeen.good (passReads ((op1 2 0x3F800000 0 3) : UpdOp) luS (passRows v14 ((op1 2 0x3F800000 0 3) : UpdOp) luS)) (noteLayer luS 0 v14)).2 (phaseBad (consume v15 CheckSeen.good (passReads ((op1 2 0x3F800000 0 3) : UpdOp) luS (passRows v14 ((op1 2 0x3F800000 0 3) : UpdOp) luS)) (noteLayer luS 0 v14)).2 CheckSeen.good (passReads ((op1 2 0x3F800000 0 3) : UpdOp) luS (passRows v14 ((op1 2 0x3F800000 0 3) : UpdOp) luS)) fun b g => if b = true then (masterAt luS g 0, 2 * colsPad luS) else tensorGroup 8 (gradAddr ((op1 2 0x3F800000 0 3) : UpdOp)) (rowBlocks (lIn luS)) g) ((op1 2 0x3F800000 0 3) : UpdOp) luS (f32Recip (bias (bit (ctrl ((op1 2 0x3F800000 0 3) : UpdOp)) 4) (cf ((op1 2 0x3F800000 0 3) : UpdOp) 1) (stepT ((op1 2 0x3F800000 0 3) : UpdOp)))) (f32Rsqrt (bias (bit (ctrl ((op1 2 0x3F800000 0 3) : UpdOp)) 5) (cf ((op1 2 0x3F800000 0 3) : UpdOp) 2) (stepT ((op1 2 0x3F800000 0 3) : UpdOp)))) k)) (passRows v14 ((op1 2 0x3F800000 0 3) : UpdOp) luS)) : UpdOp } luS (openEpoch (ctxU v14 v15.ctx)) (ratioOf (layerSum (List.map (fun x => x.dsq) (masterRows (consume v15 CheckSeen.good (passReads ((op1 2 0x3F800000 0 3) : UpdOp) luS (passRows v14 ((op1 2 0x3F800000 0 3) : UpdOp) luS)) (noteLayer luS 0 v14)).2 (phaseBad (consume v15 CheckSeen.good (passReads ((op1 2 0x3F800000 0 3) : UpdOp) luS (passRows v14 ((op1 2 0x3F800000 0 3) : UpdOp) luS)) (noteLayer luS 0 v14)).2 CheckSeen.good (passReads ((op1 2 0x3F800000 0 3) : UpdOp) luS (passRows v14 ((op1 2 0x3F800000 0 3) : UpdOp) luS)) fun b g => if b = true then (masterAt luS g 0, 2 * colsPad luS) else tensorGroup 8 (gradAddr ((op1 2 0x3F800000 0 3) : UpdOp)) (rowBlocks (lIn luS)) g) { layer := ((op1 2 0x3F800000 0 3) : UpdOp).layer, lead := ((op1 2 0x3F800000 0 3) : UpdOp).lead, pass := ((op1 2 0x3F800000 0 3) : UpdOp).pass, desc := ((op1 2 0x3F800000 0 3) : UpdOp).desc, coef := ((op1 2 0x3F800000 0 3) : UpdOp).coef, step := ((op1 2 0x3F800000 0 3) : UpdOp).step, gnorm := ((op1 2 0x3F800000 0 3) : UpdOp).gnorm, k := ((op1 2 0x3F800000 0 3) : UpdOp).k, dirs := List.map (fun o => (o.1, o.2.d)) (List.map (fun k => (k, momentsRow (consume v15 CheckSeen.good (passReads ((op1 2 0x3F800000 0 3) : UpdOp) luS (passRows v14 ((op1 2 0x3F800000 0 3) : UpdOp) luS)) (noteLayer luS 0 v14)).2 (phaseBad (consume v15 CheckSeen.good (passReads ((op1 2 0x3F800000 0 3) : UpdOp) luS (passRows v14 ((op1 2 0x3F800000 0 3) : UpdOp) luS)) (noteLayer luS 0 v14)).2 CheckSeen.good (passReads ((op1 2 0x3F800000 0 3) : UpdOp) luS (passRows v14 ((op1 2 0x3F800000 0 3) : UpdOp) luS)) fun b g => if b = true then (masterAt luS g 0, 2 * colsPad luS) else tensorGroup 8 (gradAddr ((op1 2 0x3F800000 0 3) : UpdOp)) (rowBlocks (lIn luS)) g) ((op1 2 0x3F800000 0 3) : UpdOp) luS (f32Recip (bias (bit (ctrl ((op1 2 0x3F800000 0 3) : UpdOp)) 4) (cf ((op1 2 0x3F800000 0 3) : UpdOp) 1) (stepT ((op1 2 0x3F800000 0 3) : UpdOp)))) (f32Rsqrt (bias (bit (ctrl ((op1 2 0x3F800000 0 3) : UpdOp)) 5) (cf ((op1 2 0x3F800000 0 3) : UpdOp) 2) (stepT ((op1 2 0x3F800000 0 3) : UpdOp)))) k)) (passRows v14 ((op1 2 0x3F800000 0 3) : UpdOp) luS)), m1 := List.map (fun o => (o.1, momentBytes o.2.m1)) (List.map (fun k => (k, momentsRow (consume v15 CheckSeen.good (passReads ((op1 2 0x3F800000 0 3) : UpdOp) luS (passRows v14 ((op1 2 0x3F800000 0 3) : UpdOp) luS)) (noteLayer luS 0 v14)).2 (phaseBad (consume v15 CheckSeen.good (passReads ((op1 2 0x3F800000 0 3) : UpdOp) luS (passRows v14 ((op1 2 0x3F800000 0 3) : UpdOp) luS)) (noteLayer luS 0 v14)).2 CheckSeen.good (passReads ((op1 2 0x3F800000 0 3) : UpdOp) luS (passRows v14 ((op1 2 0x3F800000 0 3) : UpdOp) luS)) fun b g => if b = true then (masterAt luS g 0, 2 * colsPad luS) else tensorGroup 8 (gradAddr ((op1 2 0x3F800000 0 3) : UpdOp)) (rowBlocks (lIn luS)) g) ((op1 2 0x3F800000 0 3) : UpdOp) luS (f32Recip (bias (bit (ctrl ((op1 2 0x3F800000 0 3) : UpdOp)) 4) (cf ((op1 2 0x3F800000 0 3) : UpdOp) 1) (stepT ((op1 2 0x3F800000 0 3) : UpdOp)))) (f32Rsqrt (bias (bit (ctrl ((op1 2 0x3F800000 0 3) : UpdOp)) 5) (cf ((op1 2 0x3F800000 0 3) : UpdOp) 2) (stepT ((op1 2 0x3F800000 0 3) : UpdOp)))) k)) (passRows v14 ((op1 2 0x3F800000 0 3) : UpdOp) luS)), m2 := List.map (fun o => (o.1, momentBytes o.2.q)) (List.map (fun k => (k, momentsRow (consume v15 CheckSeen.good (passReads ((op1 2 0x3F800000 0 3) : UpdOp) luS (passRows v14 ((op1 2 0x3F800000 0 3) : UpdOp) luS)) (noteLayer luS 0 v14)).2 (phaseBad (consume v15 CheckSeen.good (passReads ((op1 2 0x3F800000 0 3) : UpdOp) luS (passRows v14 ((op1 2 0x3F800000 0 3) : UpdOp) luS)) (noteLayer luS 0 v14)).2 CheckSeen.good (passReads ((op1 2 0x3F800000 0 3) : UpdOp) luS (passRows v14 ((op1 2 0x3F800000 0 3) : UpdOp) luS)) fun b g => if b = true then (masterAt luS g 0, 2 * colsPad luS) else tensorGroup 8 (gradAddr ((op1 2 0x3F800000 0 3) : UpdOp)) (rowBlocks (lIn luS)) g) ((op1 2 0x3F800000 0 3) : UpdOp) luS (f32Recip (bias (bit (ctrl ((op1 2 0x3F800000 0 3) : UpdOp)) 4) (cf ((op1 2 0x3F800000 0 3) : UpdOp) 1) (stepT ((op1 2 0x3F800000 0 3) : UpdOp)))) (f32Rsqrt (bias (bit (ctrl ((op1 2 0x3F800000 0 3) : UpdOp)) 5) (cf ((op1 2 0x3F800000 0 3) : UpdOp) 2) (stepT ((op1 2 0x3F800000 0 3) : UpdOp)))) k)) (passRows v14 ((op1 2 0x3F800000 0 3) : UpdOp) luS)) : UpdOp } luS { layer := ((op1 2 0x3F800000 0 3) : UpdOp).layer, lead := ((op1 2 0x3F800000 0 3) : UpdOp).lead, pass := ((op1 2 0x3F800000 0 3) : UpdOp).pass, desc := ((op1 2 0x3F800000 0 3) : UpdOp).desc, coef := ((op1 2 0x3F800000 0 3) : UpdOp).coef, step := ((op1 2 0x3F800000 0 3) : UpdOp).step, gnorm := ((op1 2 0x3F800000 0 3) : UpdOp).gnorm, k := ((op1 2 0x3F800000 0 3) : UpdOp).k, dirs := List.map (fun o => (o.1, o.2.d)) (List.map (fun k => (k, momentsRow (consume v15 CheckSeen.good (passReads ((op1 2 0x3F800000 0 3) : UpdOp) luS (passRows v14 ((op1 2 0x3F800000 0 3) : UpdOp) luS)) (noteLayer luS 0 v14)).2 (phaseBad (consume v15 CheckSeen.good (passReads ((op1 2 0x3F800000 0 3) : UpdOp) luS (passRows v14 ((op1 2 0x3F800000 0 3) : UpdOp) luS)) (noteLayer luS 0 v14)).2 CheckSeen.good (passReads ((op1 2 0x3F800000 0 3) : UpdOp) luS (passRows v14 ((op1 2 0x3F800000 0 3) : UpdOp) luS)) fun b g => if b = true then (masterAt luS g 0, 2 * colsPad luS) else tensorGroup 8 (gradAddr ((op1 2 0x3F800000 0 3) : UpdOp)) (rowBlocks (lIn luS)) g) ((op1 2 0x3F800000 0 3) : UpdOp) luS (f32Recip (bias (bit (ctrl ((op1 2 0x3F800000 0 3) : UpdOp)) 4) (cf ((op1 2 0x3F800000 0 3) : UpdOp) 1) (stepT ((op1 2 0x3F800000 0 3) : UpdOp)))) (f32Rsqrt (bias (bit (ctrl ((op1 2 0x3F800000 0 3) : UpdOp)) 5) (cf ((op1 2 0x3F800000 0 3) : UpdOp) 2) (stepT ((op1 2 0x3F800000 0 3) : UpdOp)))) k)) (passRows v14 ((op1 2 0x3F800000 0 3) : UpdOp) luS)), m1 := List.map (fun o => (o.1, momentBytes o.2.m1)) (List.map (fun k => (k, momentsRow (consume v15 CheckSeen.good (passReads ((op1 2 0x3F800000 0 3) : UpdOp) luS (passRows v14 ((op1 2 0x3F800000 0 3) : UpdOp) luS)) (noteLayer luS 0 v14)).2 (phaseBad (consume v15 CheckSeen.good (passReads ((op1 2 0x3F800000 0 3) : UpdOp) luS (passRows v14 ((op1 2 0x3F800000 0 3) : UpdOp) luS)) (noteLayer luS 0 v14)).2 CheckSeen.good (passReads ((op1 2 0x3F800000 0 3) : UpdOp) luS (passRows v14 ((op1 2 0x3F800000 0 3) : UpdOp) luS)) fun b g => if b = true then (masterAt luS g 0, 2 * colsPad luS) else tensorGroup 8 (gradAddr ((op1 2 0x3F800000 0 3) : UpdOp)) (rowBlocks (lIn luS)) g) ((op1 2 0x3F800000 0 3) : UpdOp) luS (f32Recip (bias (bit (ctrl ((op1 2 0x3F800000 0 3) : UpdOp)) 4) (cf ((op1 2 0x3F800000 0 3) : UpdOp) 1) (stepT ((op1 2 0x3F800000 0 3) : UpdOp)))) (f32Rsqrt (bias (bit (ctrl ((op1 2 0x3F800000 0 3) : UpdOp)) 5) (cf ((op1 2 0x3F800000 0 3) : UpdOp) 2) (stepT ((op1 2 0x3F800000 0 3) : UpdOp)))) k)) (passRows v14 ((op1 2 0x3F800000 0 3) : UpdOp) luS)), m2 := List.map (fun o => (o.1, momentBytes o.2.q)) (List.map (fun k => (k, momentsRow (consume v15 CheckSeen.good (passReads ((op1 2 0x3F800000 0 3) : UpdOp) luS (passRows v14 ((op1 2 0x3F800000 0 3) : UpdOp) luS)) (noteLayer luS 0 v14)).2 (phaseBad (consume v15 CheckSeen.good (passReads ((op1 2 0x3F800000 0 3) : UpdOp) luS (passRows v14 ((op1 2 0x3F800000 0 3) : UpdOp) luS)) (noteLayer luS 0 v14)).2 CheckSeen.good (passReads ((op1 2 0x3F800000 0 3) : UpdOp) luS (passRows v14 ((op1 2 0x3F800000 0 3) : UpdOp) luS)) fun b g => if b = true then (masterAt luS g 0, 2 * colsPad luS) else tensorGroup 8 (gradAddr ((op1 2 0x3F800000 0 3) : UpdOp)) (rowBlocks (lIn luS)) g) ((op1 2 0x3F800000 0 3) : UpdOp) luS (f32Recip (bias (bit (ctrl ((op1 2 0x3F800000 0 3) : UpdOp)) 4) (cf ((op1 2 0x3F800000 0 3) : UpdOp) 1) (stepT ((op1 2 0x3F800000 0 3) : UpdOp)))) (f32Rsqrt (bias (bit (ctrl ((op1 2 0x3F800000 0 3) : UpdOp)) 5) (cf ((op1 2 0x3F800000 0 3) : UpdOp) 2) (stepT ((op1 2 0x3F800000 0 3) : UpdOp)))) k)) (passRows v14 ((op1 2 0x3F800000 0 3) : UpdOp) luS)) : UpdOp }.dirs)) (consume v15 CheckSeen.good (passReads ((op1 2 0x3F800000 0 3) : UpdOp) luS (passRows v14 ((op1 2 0x3F800000 0 3) : UpdOp) luS)) (noteLayer luS 0 v14)).2).1 (layerSum (List.map (fun x => x.wsq) (masterRows (consume v15 CheckSeen.good (passReads ((op1 2 0x3F800000 0 3) : UpdOp) luS (passRows v14 ((op1 2 0x3F800000 0 3) : UpdOp) luS)) (noteLayer luS 0 v14)).2 (phaseBad (consume v15 CheckSeen.good (passReads ((op1 2 0x3F800000 0 3) : UpdOp) luS (passRows v14 ((op1 2 0x3F800000 0 3) : UpdOp) luS)) (noteLayer luS 0 v14)).2 CheckSeen.good (passReads ((op1 2 0x3F800000 0 3) : UpdOp) luS (passRows v14 ((op1 2 0x3F800000 0 3) : UpdOp) luS)) fun b g => if b = true then (masterAt luS g 0, 2 * colsPad luS) else tensorGroup 8 (gradAddr ((op1 2 0x3F800000 0 3) : UpdOp)) (rowBlocks (lIn luS)) g) { layer := ((op1 2 0x3F800000 0 3) : UpdOp).layer, lead := ((op1 2 0x3F800000 0 3) : UpdOp).lead, pass := ((op1 2 0x3F800000 0 3) : UpdOp).pass, desc := ((op1 2 0x3F800000 0 3) : UpdOp).desc, coef := ((op1 2 0x3F800000 0 3) : UpdOp).coef, step := ((op1 2 0x3F800000 0 3) : UpdOp).step, gnorm := ((op1 2 0x3F800000 0 3) : UpdOp).gnorm, k := ((op1 2 0x3F800000 0 3) : UpdOp).k, dirs := List.map (fun o => (o.1, o.2.d)) (List.map (fun k => (k, momentsRow (consume v15 CheckSeen.good (passReads ((op1 2 0x3F800000 0 3) : UpdOp) luS (passRows v14 ((op1 2 0x3F800000 0 3) : UpdOp) luS)) (noteLayer luS 0 v14)).2 (phaseBad (consume v15 CheckSeen.good (passReads ((op1 2 0x3F800000 0 3) : UpdOp) luS (passRows v14 ((op1 2 0x3F800000 0 3) : UpdOp) luS)) (noteLayer luS 0 v14)).2 CheckSeen.good (passReads ((op1 2 0x3F800000 0 3) : UpdOp) luS (passRows v14 ((op1 2 0x3F800000 0 3) : UpdOp) luS)) fun b g => if b = true then (masterAt luS g 0, 2 * colsPad luS) else tensorGroup 8 (gradAddr ((op1 2 0x3F800000 0 3) : UpdOp)) (rowBlocks (lIn luS)) g) ((op1 2 0x3F800000 0 3) : UpdOp) luS (f32Recip (bias (bit (ctrl ((op1 2 0x3F800000 0 3) : UpdOp)) 4) (cf ((op1 2 0x3F800000 0 3) : UpdOp) 1) (stepT ((op1 2 0x3F800000 0 3) : UpdOp)))) (f32Rsqrt (bias (bit (ctrl ((op1 2 0x3F800000 0 3) : UpdOp)) 5) (cf ((op1 2 0x3F800000 0 3) : UpdOp) 2) (stepT ((op1 2 0x3F800000 0 3) : UpdOp)))) k)) (passRows v14 ((op1 2 0x3F800000 0 3) : UpdOp) luS)), m1 := List.map (fun o => (o.1, momentBytes o.2.m1)) (List.map (fun k => (k, momentsRow (consume v15 CheckSeen.good (passReads ((op1 2 0x3F800000 0 3) : UpdOp) luS (passRows v14 ((op1 2 0x3F800000 0 3) : UpdOp) luS)) (noteLayer luS 0 v14)).2 (phaseBad (consume v15 CheckSeen.good (passReads ((op1 2 0x3F800000 0 3) : UpdOp) luS (passRows v14 ((op1 2 0x3F800000 0 3) : UpdOp) luS)) (noteLayer luS 0 v14)).2 CheckSeen.good (passReads ((op1 2 0x3F800000 0 3) : UpdOp) luS (passRows v14 ((op1 2 0x3F800000 0 3) : UpdOp) luS)) fun b g => if b = true then (masterAt luS g 0, 2 * colsPad luS) else tensorGroup 8 (gradAddr ((op1 2 0x3F800000 0 3) : UpdOp)) (rowBlocks (lIn luS)) g) ((op1 2 0x3F800000 0 3) : UpdOp) luS (f32Recip (bias (bit (ctrl ((op1 2 0x3F800000 0 3) : UpdOp)) 4) (cf ((op1 2 0x3F800000 0 3) : UpdOp) 1) (stepT ((op1 2 0x3F800000 0 3) : UpdOp)))) (f32Rsqrt (bias (bit (ctrl ((op1 2 0x3F800000 0 3) : UpdOp)) 5) (cf ((op1 2 0x3F800000 0 3) : UpdOp) 2) (stepT ((op1 2 0x3F800000 0 3) : UpdOp)))) k)) (passRows v14 ((op1 2 0x3F800000 0 3) : UpdOp) luS)), m2 := List.map (fun o => (o.1, momentBytes o.2.q)) (List.map (fun k => (k, momentsRow (consume v15 CheckSeen.good (passReads ((op1 2 0x3F800000 0 3) : UpdOp) luS (passRows v14 ((op1 2 0x3F800000 0 3) : UpdOp) luS)) (noteLayer luS 0 v14)).2 (phaseBad (consume v15 CheckSeen.good (passReads ((op1 2 0x3F800000 0 3) : UpdOp) luS (passRows v14 ((op1 2 0x3F800000 0 3) : UpdOp) luS)) (noteLayer luS 0 v14)).2 CheckSeen.good (passReads ((op1 2 0x3F800000 0 3) : UpdOp) luS (passRows v14 ((op1 2 0x3F800000 0 3) : UpdOp) luS)) fun b g => if b = true then (masterAt luS g 0, 2 * colsPad luS) else tensorGroup 8 (gradAddr ((op1 2 0x3F800000 0 3) : UpdOp)) (rowBlocks (lIn luS)) g) ((op1 2 0x3F800000 0 3) : UpdOp) luS (f32Recip (bias (bit (ctrl ((op1 2 0x3F800000 0 3) : UpdOp)) 4) (cf ((op1 2 0x3F800000 0 3) : UpdOp) 1) (stepT ((op1 2 0x3F800000 0 3) : UpdOp)))) (f32Rsqrt (bias (bit (ctrl ((op1 2 0x3F800000 0 3) : UpdOp)) 5) (cf ((op1 2 0x3F800000 0 3) : UpdOp) 2) (stepT ((op1 2 0x3F800000 0 3) : UpdOp)))) k)) (passRows v14 ((op1 2 0x3F800000 0 3) : UpdOp) luS)) : UpdOp } luS { layer := ((op1 2 0x3F800000 0 3) : UpdOp).layer, lead := ((op1 2 0x3F800000 0 3) : UpdOp).lead, pass := ((op1 2 0x3F800000 0 3) : UpdOp).pass, desc := ((op1 2 0x3F800000 0 3) : UpdOp).desc, coef := ((op1 2 0x3F800000 0 3) : UpdOp).coef, step := ((op1 2 0x3F800000 0 3) : UpdOp).step, gnorm := ((op1 2 0x3F800000 0 3) : UpdOp).gnorm, k := ((op1 2 0x3F800000 0 3) : UpdOp).k, dirs := List.map (fun o => (o.1, o.2.d)) (List.map (fun k => (k, momentsRow (consume v15 CheckSeen.good (passReads ((op1 2 0x3F800000 0 3) : UpdOp) luS (passRows v14 ((op1 2 0x3F800000 0 3) : UpdOp) luS)) (noteLayer luS 0 v14)).2 (phaseBad (consume v15 CheckSeen.good (passReads ((op1 2 0x3F800000 0 3) : UpdOp) luS (passRows v14 ((op1 2 0x3F800000 0 3) : UpdOp) luS)) (noteLayer luS 0 v14)).2 CheckSeen.good (passReads ((op1 2 0x3F800000 0 3) : UpdOp) luS (passRows v14 ((op1 2 0x3F800000 0 3) : UpdOp) luS)) fun b g => if b = true then (masterAt luS g 0, 2 * colsPad luS) else tensorGroup 8 (gradAddr ((op1 2 0x3F800000 0 3) : UpdOp)) (rowBlocks (lIn luS)) g) ((op1 2 0x3F800000 0 3) : UpdOp) luS (f32Recip (bias (bit (ctrl ((op1 2 0x3F800000 0 3) : UpdOp)) 4) (cf ((op1 2 0x3F800000 0 3) : UpdOp) 1) (stepT ((op1 2 0x3F800000 0 3) : UpdOp)))) (f32Rsqrt (bias (bit (ctrl ((op1 2 0x3F800000 0 3) : UpdOp)) 5) (cf ((op1 2 0x3F800000 0 3) : UpdOp) 2) (stepT ((op1 2 0x3F800000 0 3) : UpdOp)))) k)) (passRows v14 ((op1 2 0x3F800000 0 3) : UpdOp) luS)), m1 := List.map (fun o => (o.1, momentBytes o.2.m1)) (List.map (fun k => (k, momentsRow (consume v15 CheckSeen.good (passReads ((op1 2 0x3F800000 0 3) : UpdOp) luS (passRows v14 ((op1 2 0x3F800000 0 3) : UpdOp) luS)) (noteLayer luS 0 v14)).2 (phaseBad (consume v15 CheckSeen.good (passReads ((op1 2 0x3F800000 0 3) : UpdOp) luS (passRows v14 ((op1 2 0x3F800000 0 3) : UpdOp) luS)) (noteLayer luS 0 v14)).2 CheckSeen.good (passReads ((op1 2 0x3F800000 0 3) : UpdOp) luS (passRows v14 ((op1 2 0x3F800000 0 3) : UpdOp) luS)) fun b g => if b = true then (masterAt luS g 0, 2 * colsPad luS) else tensorGroup 8 (gradAddr ((op1 2 0x3F800000 0 3) : UpdOp)) (rowBlocks (lIn luS)) g) ((op1 2 0x3F800000 0 3) : UpdOp) luS (f32Recip (bias (bit (ctrl ((op1 2 0x3F800000 0 3) : UpdOp)) 4) (cf ((op1 2 0x3F800000 0 3) : UpdOp) 1) (stepT ((op1 2 0x3F800000 0 3) : UpdOp)))) (f32Rsqrt (bias (bit (ctrl ((op1 2 0x3F800000 0 3) : UpdOp)) 5) (cf ((op1 2 0x3F800000 0 3) : UpdOp) 2) (stepT ((op1 2 0x3F800000 0 3) : UpdOp)))) k)) (passRows v14 ((op1 2 0x3F800000 0 3) : UpdOp) luS)), m2 := List.map (fun o => (o.1, momentBytes o.2.q)) (List.map (fun k => (k, momentsRow (consume v15 CheckSeen.good (passReads ((op1 2 0x3F800000 0 3) : UpdOp) luS (passRows v14 ((op1 2 0x3F800000 0 3) : UpdOp) luS)) (noteLayer luS 0 v14)).2 (phaseBad (consume v15 CheckSeen.good (passReads ((op1 2 0x3F800000 0 3) : UpdOp) luS (passRows v14 ((op1 2 0x3F800000 0 3) : UpdOp) luS)) (noteLayer luS 0 v14)).2 CheckSeen.good (passReads ((op1 2 0x3F800000 0 3) : UpdOp) luS (passRows v14 ((op1 2 0x3F800000 0 3) : UpdOp) luS)) fun b g => if b = true then (masterAt luS g 0, 2 * colsPad luS) else tensorGroup 8 (gradAddr ((op1 2 0x3F800000 0 3) : UpdOp)) (rowBlocks (lIn luS)) g) ((op1 2 0x3F800000 0 3) : UpdOp) luS (f32Recip (bias (bit (ctrl ((op1 2 0x3F800000 0 3) : UpdOp)) 4) (cf ((op1 2 0x3F800000 0 3) : UpdOp) 1) (stepT ((op1 2 0x3F800000 0 3) : UpdOp)))) (f32Rsqrt (bias (bit (ctrl ((op1 2 0x3F800000 0 3) : UpdOp)) 5) (cf ((op1 2 0x3F800000 0 3) : UpdOp) 2) (stepT ((op1 2 0x3F800000 0 3) : UpdOp)))) k)) (passRows v14 ((op1 2 0x3F800000 0 3) : UpdOp) luS)) : UpdOp }.dirs)) (layerSum (List.map (fun x => x.dsq) (masterRows (consume v15 CheckSeen.good (passReads ((op1 2 0x3F800000 0 3) : UpdOp) luS (passRows v14 ((op1 2 0x3F800000 0 3) : UpdOp) luS)) (noteLayer luS 0 v14)).2 (phaseBad (consume v15 CheckSeen.good (passReads ((op1 2 0x3F800000 0 3) : UpdOp) luS (passRows v14 ((op1 2 0x3F800000 0 3) : UpdOp) luS)) (noteLayer luS 0 v14)).2 CheckSeen.good (passReads ((op1 2 0x3F800000 0 3) : UpdOp) luS (passRows v14 ((op1 2 0x3F800000 0 3) : UpdOp) luS)) fun b g => if b = true then (masterAt luS g 0, 2 * colsPad luS) else tensorGroup 8 (gradAddr ((op1 2 0x3F800000 0 3) : UpdOp)) (rowBlocks (lIn luS)) g) { layer := ((op1 2 0x3F800000 0 3) : UpdOp).layer, lead := ((op1 2 0x3F800000 0 3) : UpdOp).lead, pass := ((op1 2 0x3F800000 0 3) : UpdOp).pass, desc := ((op1 2 0x3F800000 0 3) : UpdOp).desc, coef := ((op1 2 0x3F800000 0 3) : UpdOp).coef, step := ((op1 2 0x3F800000 0 3) : UpdOp).step, gnorm := ((op1 2 0x3F800000 0 3) : UpdOp).gnorm, k := ((op1 2 0x3F800000 0 3) : UpdOp).k, dirs := List.map (fun o => (o.1, o.2.d)) (List.map (fun k => (k, momentsRow (consume v15 CheckSeen.good (passReads ((op1 2 0x3F800000 0 3) : UpdOp) luS (passRows v14 ((op1 2 0x3F800000 0 3) : UpdOp) luS)) (noteLayer luS 0 v14)).2 (phaseBad (consume v15 CheckSeen.good (passReads ((op1 2 0x3F800000 0 3) : UpdOp) luS (passRows v14 ((op1 2 0x3F800000 0 3) : UpdOp) luS)) (noteLayer luS 0 v14)).2 CheckSeen.good (passReads ((op1 2 0x3F800000 0 3) : UpdOp) luS (passRows v14 ((op1 2 0x3F800000 0 3) : UpdOp) luS)) fun b g => if b = true then (masterAt luS g 0, 2 * colsPad luS) else tensorGroup 8 (gradAddr ((op1 2 0x3F800000 0 3) : UpdOp)) (rowBlocks (lIn luS)) g) ((op1 2 0x3F800000 0 3) : UpdOp) luS (f32Recip (bias (bit (ctrl ((op1 2 0x3F800000 0 3) : UpdOp)) 4) (cf ((op1 2 0x3F800000 0 3) : UpdOp) 1) (stepT ((op1 2 0x3F800000 0 3) : UpdOp)))) (f32Rsqrt (bias (bit (ctrl ((op1 2 0x3F800000 0 3) : UpdOp)) 5) (cf ((op1 2 0x3F800000 0 3) : UpdOp) 2) (stepT ((op1 2 0x3F800000 0 3) : UpdOp)))) k)) (passRows v14 ((op1 2 0x3F800000 0 3) : UpdOp) luS)), m1 := List.map (fun o => (o.1, momentBytes o.2.m1)) (List.map (fun k => (k, momentsRow (consume v15 CheckSeen.good (passReads ((op1 2 0x3F800000 0 3) : UpdOp) luS (passRows v14 ((op1 2 0x3F800000 0 3) : UpdOp) luS)) (noteLayer luS 0 v14)).2 (phaseBad (consume v15 CheckSeen.good (passReads ((op1 2 0x3F800000 0 3) : UpdOp) luS (passRows v14 ((op1 2 0x3F800000 0 3) : UpdOp) luS)) (noteLayer luS 0 v14)).2 CheckSeen.good (passReads ((op1 2 0x3F800000 0 3) : UpdOp) luS (passRows v14 ((op1 2 0x3F800000 0 3) : UpdOp) luS)) fun b g => if b = true then (masterAt luS g 0, 2 * colsPad luS) else tensorGroup 8 (gradAddr ((op1 2 0x3F800000 0 3) : UpdOp)) (rowBlocks (lIn luS)) g) ((op1 2 0x3F800000 0 3) : UpdOp) luS (f32Recip (bias (bit (ctrl ((op1 2 0x3F800000 0 3) : UpdOp)) 4) (cf ((op1 2 0x3F800000 0 3) : UpdOp) 1) (stepT ((op1 2 0x3F800000 0 3) : UpdOp)))) (f32Rsqrt (bias (bit (ctrl ((op1 2 0x3F800000 0 3) : UpdOp)) 5) (cf ((op1 2 0x3F800000 0 3) : UpdOp) 2) (stepT ((op1 2 0x3F800000 0 3) : UpdOp)))) k)) (passRows v14 ((op1 2 0x3F800000 0 3) : UpdOp) luS)), m2 := List.map (fun o => (o.1, momentBytes o.2.q)) (List.map (fun k => (k, momentsRow (consume v15 CheckSeen.good (passReads ((op1 2 0x3F800000 0 3) : UpdOp) luS (passRows v14 ((op1 2 0x3F800000 0 3) : UpdOp) luS)) (noteLayer luS 0 v14)).2 (phaseBad (consume v15 CheckSeen.good (passReads ((op1 2 0x3F800000 0 3) : UpdOp) luS (passRows v14 ((op1 2 0x3F800000 0 3) : UpdOp) luS)) (noteLayer luS 0 v14)).2 CheckSeen.good (passReads ((op1 2 0x3F800000 0 3) : UpdOp) luS (passRows v14 ((op1 2 0x3F800000 0 3) : UpdOp) luS)) fun b g => if b = true then (masterAt luS g 0, 2 * colsPad luS) else tensorGroup 8 (gradAddr ((op1 2 0x3F800000 0 3) : UpdOp)) (rowBlocks (lIn luS)) g) ((op1 2 0x3F800000 0 3) : UpdOp) luS (f32Recip (bias (bit (ctrl ((op1 2 0x3F800000 0 3) : UpdOp)) 4) (cf ((op1 2 0x3F800000 0 3) : UpdOp) 1) (stepT ((op1 2 0x3F800000 0 3) : UpdOp)))) (f32Rsqrt (bias (bit (ctrl ((op1 2 0x3F800000 0 3) : UpdOp)) 5) (cf ((op1 2 0x3F800000 0 3) : UpdOp) 2) (stepT ((op1 2 0x3F800000 0 3) : UpdOp)))) k)) (passRows v14 ((op1 2 0x3F800000 0 3) : UpdOp) luS)) : UpdOp } luS { layer := ((op1 2 0x3F800000 0 3) : UpdOp).layer, lead := ((op1 2 0x3F800000 0 3) : UpdOp).lead, pass := ((op1 2 0x3F800000 0 3) : UpdOp).pass, desc := ((op1 2 0x3F800000 0 3) : UpdOp).desc, coef := ((op1 2 0x3F800000 0 3) : UpdOp).coef, step := ((op1 2 0x3F800000 0 3) : UpdOp).step, gnorm := ((op1 2 0x3F800000 0 3) : UpdOp).gnorm, k := ((op1 2 0x3F800000 0 3) : UpdOp).k, dirs := List.map (fun o => (o.1, o.2.d)) (List.map (fun k => (k, momentsRow (consume v15 CheckSeen.good (passReads ((op1 2 0x3F800000 0 3) : UpdOp) luS (passRows v14 ((op1 2 0x3F800000 0 3) : UpdOp) luS)) (noteLayer luS 0 v14)).2 (phaseBad (consume v15 CheckSeen.good (passReads ((op1 2 0x3F800000 0 3) : UpdOp) luS (passRows v14 ((op1 2 0x3F800000 0 3) : UpdOp) luS)) (noteLayer luS 0 v14)).2 CheckSeen.good (passReads ((op1 2 0x3F800000 0 3) : UpdOp) luS (passRows v14 ((op1 2 0x3F800000 0 3) : UpdOp) luS)) fun b g => if b = true then (masterAt luS g 0, 2 * colsPad luS) else tensorGroup 8 (gradAddr ((op1 2 0x3F800000 0 3) : UpdOp)) (rowBlocks (lIn luS)) g) ((op1 2 0x3F800000 0 3) : UpdOp) luS (f32Recip (bias (bit (ctrl ((op1 2 0x3F800000 0 3) : UpdOp)) 4) (cf ((op1 2 0x3F800000 0 3) : UpdOp) 1) (stepT ((op1 2 0x3F800000 0 3) : UpdOp)))) (f32Rsqrt (bias (bit (ctrl ((op1 2 0x3F800000 0 3) : UpdOp)) 5) (cf ((op1 2 0x3F800000 0 3) : UpdOp) 2) (stepT ((op1 2 0x3F800000 0 3) : UpdOp)))) k)) (passRows v14 ((op1 2 0x3F800000 0 3) : UpdOp) luS)), m1 := List.map (fun o => (o.1, momentBytes o.2.m1)) (List.map (fun k => (k, momentsRow (consume v15 CheckSeen.good (passReads ((op1 2 0x3F800000 0 3) : UpdOp) luS (passRows v14 ((op1 2 0x3F800000 0 3) : UpdOp) luS)) (noteLayer luS 0 v14)).2 (phaseBad (consume v15 CheckSeen.good (passReads ((op1 2 0x3F800000 0 3) : UpdOp) luS (passRows v14 ((op1 2 0x3F800000 0 3) : UpdOp) luS)) (noteLayer luS 0 v14)).2 CheckSeen.good (passReads ((op1 2 0x3F800000 0 3) : UpdOp) luS (passRows v14 ((op1 2 0x3F800000 0 3) : UpdOp) luS)) fun b g => if b = true then (masterAt luS g 0, 2 * colsPad luS) else tensorGroup 8 (gradAddr ((op1 2 0x3F800000 0 3) : UpdOp)) (rowBlocks (lIn luS)) g) ((op1 2 0x3F800000 0 3) : UpdOp) luS (f32Recip (bias (bit (ctrl ((op1 2 0x3F800000 0 3) : UpdOp)) 4) (cf ((op1 2 0x3F800000 0 3) : UpdOp) 1) (stepT ((op1 2 0x3F800000 0 3) : UpdOp)))) (f32Rsqrt (bias (bit (ctrl ((op1 2 0x3F800000 0 3) : UpdOp)) 5) (cf ((op1 2 0x3F800000 0 3) : UpdOp) 2) (stepT ((op1 2 0x3F800000 0 3) : UpdOp)))) k)) (passRows v14 ((op1 2 0x3F800000 0 3) : UpdOp) luS)), m2 := List.map (fun o => (o.1, momentBytes o.2.q)) (List.map (fun k => (k, momentsRow (consume v15 CheckSeen.good (passReads ((op1 2 0x3F800000 0 3) : UpdOp) luS (passRows v14 ((op1 2 0x3F800000 0 3) : UpdOp) luS)) (noteLayer luS 0 v14)).2 (phaseBad (consume v15 CheckSeen.good (passReads ((op1 2 0x3F800000 0 3) : UpdOp) luS (passRows v14 ((op1 2 0x3F800000 0 3) : UpdOp) luS)) (noteLayer luS 0 v14)).2 CheckSeen.good (passReads ((op1 2 0x3F800000 0 3) : UpdOp) luS (passRows v14 ((op1 2 0x3F800000 0 3) : UpdOp) luS)) fun b g => if b = true then (masterAt luS g 0, 2 * colsPad luS) else tensorGroup 8 (gradAddr ((op1 2 0x3F800000 0 3) : UpdOp)) (rowBlocks (lIn luS)) g) ((op1 2 0x3F800000 0 3) : UpdOp) luS (f32Recip (bias (bit (ctrl ((op1 2 0x3F800000 0 3) : UpdOp)) 4) (cf ((op1 2 0x3F800000 0 3) : UpdOp) 1) (stepT ((op1 2 0x3F800000 0 3) : UpdOp)))) (f32Rsqrt (bias (bit (ctrl ((op1 2 0x3F800000 0 3) : UpdOp)) 5) (cf ((op1 2 0x3F800000 0 3) : UpdOp) 2) (stepT ((op1 2 0x3F800000 0 3) : UpdOp)))) k)) (passRows v14 ((op1 2 0x3F800000 0 3) : UpdOp) luS)) : UpdOp }.dirs)) (consume v15 CheckSeen.good (passReads ((op1 2 0x3F800000 0 3) : UpdOp) luS (passRows v14 ((op1 2 0x3F800000 0 3) : UpdOp) luS)) (noteLayer luS 0 v14)).2).2).1) (masterRows (consume v15 CheckSeen.good (passReads ((op1 2 0x3F800000 0 3) : UpdOp) luS (passRows v14 ((op1 2 0x3F800000 0 3) : UpdOp) luS)) (noteLayer luS 0 v14)).2 (phaseBad (consume v15 CheckSeen.good (passReads ((op1 2 0x3F800000 0 3) : UpdOp) luS (passRows v14 ((op1 2 0x3F800000 0 3) : UpdOp) luS)) (noteLayer luS 0 v14)).2 CheckSeen.good (passReads ((op1 2 0x3F800000 0 3) : UpdOp) luS (passRows v14 ((op1 2 0x3F800000 0 3) : UpdOp) luS)) fun b g => if b = true then (masterAt luS g 0, 2 * colsPad luS) else tensorGroup 8 (gradAddr ((op1 2 0x3F800000 0 3) : UpdOp)) (rowBlocks (lIn luS)) g) { layer := ((op1 2 0x3F800000 0 3) : UpdOp).layer, lead := ((op1 2 0x3F800000 0 3) : UpdOp).lead, pass := ((op1 2 0x3F800000 0 3) : UpdOp).pass, desc := ((op1 2 0x3F800000 0 3) : UpdOp).desc, coef := ((op1 2 0x3F800000 0 3) : UpdOp).coef, step := ((op1 2 0x3F800000 0 3) : UpdOp).step, gnorm := ((op1 2 0x3F800000 0 3) : UpdOp).gnorm, k := ((op1 2 0x3F800000 0 3) : UpdOp).k, dirs := List.map (fun o => (o.1, o.2.d)) (List.map (fun k => (k, momentsRow (consume v15 CheckSeen.good (passReads ((op1 2 0x3F800000 0 3) : UpdOp) luS (passRows v14 ((op1 2 0x3F800000 0 3) : UpdOp) luS)) (noteLayer luS 0 v14)).2 (phaseBad (consume v15 CheckSeen.good (passReads ((op1 2 0x3F800000 0 3) : UpdOp) luS (passRows v14 ((op1 2 0x3F800000 0 3) : UpdOp) luS)) (noteLayer luS 0 v14)).2 CheckSeen.good (passReads ((op1 2 0x3F800000 0 3) : UpdOp) luS (passRows v14 ((op1 2 0x3F800000 0 3) : UpdOp) luS)) fun b g => if b = true then (masterAt luS g 0, 2 * colsPad luS) else tensorGroup 8 (gradAddr ((op1 2 0x3F800000 0 3) : UpdOp)) (rowBlocks (lIn luS)) g) ((op1 2 0x3F800000 0 3) : UpdOp) luS (f32Recip (bias (bit (ctrl ((op1 2 0x3F800000 0 3) : UpdOp)) 4) (cf ((op1 2 0x3F800000 0 3) : UpdOp) 1) (stepT ((op1 2 0x3F800000 0 3) : UpdOp)))) (f32Rsqrt (bias (bit (ctrl ((op1 2 0x3F800000 0 3) : UpdOp)) 5) (cf ((op1 2 0x3F800000 0 3) : UpdOp) 2) (stepT ((op1 2 0x3F800000 0 3) : UpdOp)))) k)) (passRows v14 ((op1 2 0x3F800000 0 3) : UpdOp) luS)), m1 := List.map (fun o => (o.1, momentBytes o.2.m1)) (List.map (fun k => (k, momentsRow (consume v15 CheckSeen.good (passReads ((op1 2 0x3F800000 0 3) : UpdOp) luS (passRows v14 ((op1 2 0x3F800000 0 3) : UpdOp) luS)) (noteLayer luS 0 v14)).2 (phaseBad (consume v15 CheckSeen.good (passReads ((op1 2 0x3F800000 0 3) : UpdOp) luS (passRows v14 ((op1 2 0x3F800000 0 3) : UpdOp) luS)) (noteLayer luS 0 v14)).2 CheckSeen.good (passReads ((op1 2 0x3F800000 0 3) : UpdOp) luS (passRows v14 ((op1 2 0x3F800000 0 3) : UpdOp) luS)) fun b g => if b = true then (masterAt luS g 0, 2 * colsPad luS) else tensorGroup 8 (gradAddr ((op1 2 0x3F800000 0 3) : UpdOp)) (rowBlocks (lIn luS)) g) ((op1 2 0x3F800000 0 3) : UpdOp) luS (f32Recip (bias (bit (ctrl ((op1 2 0x3F800000 0 3) : UpdOp)) 4) (cf ((op1 2 0x3F800000 0 3) : UpdOp) 1) (stepT ((op1 2 0x3F800000 0 3) : UpdOp)))) (f32Rsqrt (bias (bit (ctrl ((op1 2 0x3F800000 0 3) : UpdOp)) 5) (cf ((op1 2 0x3F800000 0 3) : UpdOp) 2) (stepT ((op1 2 0x3F800000 0 3) : UpdOp)))) k)) (passRows v14 ((op1 2 0x3F800000 0 3) : UpdOp) luS)), m2 := List.map (fun o => (o.1, momentBytes o.2.q)) (List.map (fun k => (k, momentsRow (consume v15 CheckSeen.good (passReads ((op1 2 0x3F800000 0 3) : UpdOp) luS (passRows v14 ((op1 2 0x3F800000 0 3) : UpdOp) luS)) (noteLayer luS 0 v14)).2 (phaseBad (consume v15 CheckSeen.good (passReads ((op1 2 0x3F800000 0 3) : UpdOp) luS (passRows v14 ((op1 2 0x3F800000 0 3) : UpdOp) luS)) (noteLayer luS 0 v14)).2 CheckSeen.good (passReads ((op1 2 0x3F800000 0 3) : UpdOp) luS (passRows v14 ((op1 2 0x3F800000 0 3) : UpdOp) luS)) fun b g => if b = true then (masterAt luS g 0, 2 * colsPad luS) else tensorGroup 8 (gradAddr ((op1 2 0x3F800000 0 3) : UpdOp)) (rowBlocks (lIn luS)) g) ((op1 2 0x3F800000 0 3) : UpdOp) luS (f32Recip (bias (bit (ctrl ((op1 2 0x3F800000 0 3) : UpdOp)) 4) (cf ((op1 2 0x3F800000 0 3) : UpdOp) 1) (stepT ((op1 2 0x3F800000 0 3) : UpdOp)))) (f32Rsqrt (bias (bit (ctrl ((op1 2 0x3F800000 0 3) : UpdOp)) 5) (cf ((op1 2 0x3F800000 0 3) : UpdOp) 2) (stepT ((op1 2 0x3F800000 0 3) : UpdOp)))) k)) (passRows v14 ((op1 2 0x3F800000 0 3) : UpdOp) luS)) : UpdOp } luS { layer := ((op1 2 0x3F800000 0 3) : UpdOp).layer, lead := ((op1 2 0x3F800000 0 3) : UpdOp).lead, pass := ((op1 2 0x3F800000 0 3) : UpdOp).pass, desc := ((op1 2 0x3F800000 0 3) : UpdOp).desc, coef := ((op1 2 0x3F800000 0 3) : UpdOp).coef, step := ((op1 2 0x3F800000 0 3) : UpdOp).step, gnorm := ((op1 2 0x3F800000 0 3) : UpdOp).gnorm, k := ((op1 2 0x3F800000 0 3) : UpdOp).k, dirs := List.map (fun o => (o.1, o.2.d)) (List.map (fun k => (k, momentsRow (consume v15 CheckSeen.good (passReads ((op1 2 0x3F800000 0 3) : UpdOp) luS (passRows v14 ((op1 2 0x3F800000 0 3) : UpdOp) luS)) (noteLayer luS 0 v14)).2 (phaseBad (consume v15 CheckSeen.good (passReads ((op1 2 0x3F800000 0 3) : UpdOp) luS (passRows v14 ((op1 2 0x3F800000 0 3) : UpdOp) luS)) (noteLayer luS 0 v14)).2 CheckSeen.good (passReads ((op1 2 0x3F800000 0 3) : UpdOp) luS (passRows v14 ((op1 2 0x3F800000 0 3) : UpdOp) luS)) fun b g => if b = true then (masterAt luS g 0, 2 * colsPad luS) else tensorGroup 8 (gradAddr ((op1 2 0x3F800000 0 3) : UpdOp)) (rowBlocks (lIn luS)) g) ((op1 2 0x3F800000 0 3) : UpdOp) luS (f32Recip (bias (bit (ctrl ((op1 2 0x3F800000 0 3) : UpdOp)) 4) (cf ((op1 2 0x3F800000 0 3) : UpdOp) 1) (stepT ((op1 2 0x3F800000 0 3) : UpdOp)))) (f32Rsqrt (bias (bit (ctrl ((op1 2 0x3F800000 0 3) : UpdOp)) 5) (cf ((op1 2 0x3F800000 0 3) : UpdOp) 2) (stepT ((op1 2 0x3F800000 0 3) : UpdOp)))) k)) (passRows v14 ((op1 2 0x3F800000 0 3) : UpdOp) luS)), m1 := List.map (fun o => (o.1, momentBytes o.2.m1)) (List.map (fun k => (k, momentsRow (consume v15 CheckSeen.good (passReads ((op1 2 0x3F800000 0 3) : UpdOp) luS (passRows v14 ((op1 2 0x3F800000 0 3) : UpdOp) luS)) (noteLayer luS 0 v14)).2 (phaseBad (consume v15 CheckSeen.good (passReads ((op1 2 0x3F800000 0 3) : UpdOp) luS (passRows v14 ((op1 2 0x3F800000 0 3) : UpdOp) luS)) (noteLayer luS 0 v14)).2 CheckSeen.good (passReads ((op1 2 0x3F800000 0 3) : UpdOp) luS (passRows v14 ((op1 2 0x3F800000 0 3) : UpdOp) luS)) fun b g => if b = true then (masterAt luS g 0, 2 * colsPad luS) else tensorGroup 8 (gradAddr ((op1 2 0x3F800000 0 3) : UpdOp)) (rowBlocks (lIn luS)) g) ((op1 2 0x3F800000 0 3) : UpdOp) luS (f32Recip (bias (bit (ctrl ((op1 2 0x3F800000 0 3) : UpdOp)) 4) (cf ((op1 2 0x3F800000 0 3) : UpdOp) 1) (stepT ((op1 2 0x3F800000 0 3) : UpdOp)))) (f32Rsqrt (bias (bit (ctrl ((op1 2 0x3F800000 0 3) : UpdOp)) 5) (cf ((op1 2 0x3F800000 0 3) : UpdOp) 2) (stepT ((op1 2 0x3F800000 0 3) : UpdOp)))) k)) (passRows v14 ((op1 2 0x3F800000 0 3) : UpdOp) luS)), m2 := List.map (fun o => (o.1, momentBytes o.2.q)) (List.map (fun k => (k, momentsRow (consume v15 CheckSeen.good (passReads ((op1 2 0x3F800000 0 3) : UpdOp) luS (passRows v14 ((op1 2 0x3F800000 0 3) : UpdOp) luS)) (noteLayer luS 0 v14)).2 (phaseBad (consume v15 CheckSeen.good (passReads ((op1 2 0x3F800000 0 3) : UpdOp) luS (passRows v14 ((op1 2 0x3F800000 0 3) : UpdOp) luS)) (noteLayer luS 0 v14)).2 CheckSeen.good (passReads ((op1 2 0x3F800000 0 3) : UpdOp) luS (passRows v14 ((op1 2 0x3F800000 0 3) : UpdOp) luS)) fun b g => if b = true then (masterAt luS g 0, 2 * colsPad luS) else tensorGroup 8 (gradAddr ((op1 2 0x3F800000 0 3) : UpdOp)) (rowBlocks (lIn luS)) g) ((op1 2 0x3F800000 0 3) : UpdOp) luS (f32Recip (bias (bit (ctrl ((op1 2 0x3F800000 0 3) : UpdOp)) 4) (cf ((op1 2 0x3F800000 0 3) : UpdOp) 1) (stepT ((op1 2 0x3F800000 0 3) : UpdOp)))) (f32Rsqrt (bias (bit (ctrl ((op1 2 0x3F800000 0 3) : UpdOp)) 5) (cf ((op1 2 0x3F800000 0 3) : UpdOp) 2) (stepT ((op1 2 0x3F800000 0 3) : UpdOp)))) k)) (passRows v14 ((op1 2 0x3F800000 0 3) : UpdOp) luS)) : UpdOp }.dirs), storable v14 x.1 x.2.length = true) ∧ aloof v14 (tailAddr luS + 8) 4 (tailAddr luS + 4) 4 := 
  by and_intros <;> decide +kernel
theorem test_witness_UpdateRowsComplete_16_8 :
    (atEntry v14 0 4 v15 e4 ∧ layerRec v14 v15.ctx e4.layer.toNat = some luS ∧ luS.st.applying = false ∧ lNum luS = e4.layer.toNat ∧ v15.update = some ((op1 2 0x3F800000 0 3) : UpdOp) ∧ ((op1 2 0x3F800000 0 3) : UpdOp).layer = e4.layer ∧ rangesOk v14 (passReads ((op1 2 0x3F800000 0 3) : UpdOp) luS (passRows v14 ((op1 2 0x3F800000 0 3) : UpdOp) luS)) = true ∧ (consume v15 ((.hdrBad true 1) : CheckSeen) (passReads ((op1 2 0x3F800000 0 3) : UpdOp) luS (passRows v14 ((op1 2 0x3F800000 0 3) : UpdOp) luS)) (noteLayer luS 0 v14)).1 = true ∧ rangesPoisoned (consume v15 ((.hdrBad true 1) : CheckSeen) (passReads ((op1 2 0x3F800000 0 3) : UpdOp) luS (passRows v14 ((op1 2 0x3F800000 0 3) : UpdOp) luS)) (noteLayer luS 0 v14)).2 (passReads ((op1 2 0x3F800000 0 3) : UpdOp) luS (passRows v14 ((op1 2 0x3F800000 0 3) : UpdOp) luS)) = false ∧ inStacks v14 (lStaging luS) (stgEnd luS - lStaging luS) = true ∧ aloof v14 (rowListAddr luS) (rowListBytes luS) (tailAddr luS + 4) 4 ∧ (((op1 2 0x3F800000 0 3) : UpdOp).pass = 1#3 ∨ ((op1 2 0x3F800000 0 3) : UpdOp).pass = 2#3 → ∀ k ∈ passRows v14 ((op1 2 0x3F800000 0 3) : UpdOp) luS, gradPoison (consume v15 ((.hdrBad true 1) : CheckSeen) (passReads ((op1 2 0x3F800000 0 3) : UpdOp) luS (passRows v14 ((op1 2 0x3F800000 0 3) : UpdOp) luS)) (noteLayer luS 0 v14)).2 ((op1 2 0x3F800000 0 3) : UpdOp) luS k = false) ∧ ((op1 2 0x3F800000 0 3) : UpdOp).pass = 2#3 ∧ (((((op1 2 0x3F800000 0 3) : UpdOp).pass = 1#3 ∨ ((op1 2 0x3F800000 0 3) : UpdOp).pass = 2#3) ∧ policyOf v14 v15.ctx = 0 ∧ ∃ k ∈ passRows v14 ((op1 2 0x3F800000 0 3) : UpdOp) luS, none ∈ gradRow (consume v15 ((.hdrBad true 1) : CheckSeen) (passReads ((op1 2 0x3F800000 0 3) : UpdOp) luS (passRows v14 ((op1 2 0x3F800000 0 3) : UpdOp) luS)) (noteLayer luS 0 v14)).2 (phaseBad (consume v15 ((.hdrBad true 1) : CheckSeen) (passReads ((op1 2 0x3F800000 0 3) : UpdOp) luS (passRows v14 ((op1 2 0x3F800000 0 3) : UpdOp) luS)) (noteLayer luS 0 v14)).2 ((.hdrBad true 1) : CheckSeen) (passReads ((op1 2 0x3F800000 0 3) : UpdOp) luS (passRows v14 ((op1 2 0x3F800000 0 3) : UpdOp) luS)) fun b g => if b = true then (masterAt luS g 0, 2 * colsPad luS) else tensorGroup 8 (gradAddr ((op1 2 0x3F800000 0 3) : UpdOp)) (rowBlocks (lIn luS)) g) ((op1 2 0x3F800000 0 3) : UpdOp) luS k) ∨ ¬∀ o ∈ List.map (fun k => (k, momentsRow (consume v15 ((.hdrBad true 1) : CheckSeen) (passReads ((op1 2 0x3F800000 0 3) : UpdOp) luS (passRows v14 ((op1 2 0x3F800000 0 3) : UpdOp) luS)) (noteLayer luS 0 v14)).2 (phaseBad (consume v15 ((.hdrBad true 1) : CheckSeen) (passReads ((op1 2 0x3F800000 0 3) : UpdOp) luS (passRows v14 ((op1 2 0x3F800000 0 3) : UpdOp) luS)) (noteLayer luS 0 v14)).2 ((.hdrBad true 1) : CheckSeen) (passReads ((op1 2 0x3F800000 0 3) : UpdOp) luS (passRows v14 ((op1 2 0x3F800000 0 3) : UpdOp) luS)) fun b g => if b = true then (masterAt luS g 0, 2 * colsPad luS) else tensorGroup 8 (gradAddr ((op1 2 0x3F800000 0 3) : UpdOp)) (rowBlocks (lIn luS)) g) ((op1 2 0x3F800000 0 3) : UpdOp) luS (f32Recip (bias (bit (ctrl ((op1 2 0x3F800000 0 3) : UpdOp)) 4) (cf ((op1 2 0x3F800000 0 3) : UpdOp) 1) (stepT ((op1 2 0x3F800000 0 3) : UpdOp)))) (f32Rsqrt (bias (bit (ctrl ((op1 2 0x3F800000 0 3) : UpdOp)) 5) (cf ((op1 2 0x3F800000 0 3) : UpdOp) 2) (stepT ((op1 2 0x3F800000 0 3) : UpdOp)))) k)) (passRows v14 ((op1 2 0x3F800000 0 3) : UpdOp) luS), o.2.nonfin = []))
    ∧ (atEntry v16 0 4 v15 e4 ∧ layerRec v16 v15.ctx e4.layer.toNat = some luS ∧ luS.st.applying = false ∧ lNum luS = e4.layer.toNat ∧ v15.update = some ((op1 2 0x3F800000 0 3) : UpdOp) ∧ ((op1 2 0x3F800000 0 3) : UpdOp).layer = e4.layer ∧ rangesOk v16 (passReads ((op1 2 0x3F800000 0 3) : UpdOp) luS (passRows v16 ((op1 2 0x3F800000 0 3) : UpdOp) luS)) = true ∧ (consume v15 CheckSeen.good (passReads ((op1 2 0x3F800000 0 3) : UpdOp) luS (passRows v16 ((op1 2 0x3F800000 0 3) : UpdOp) luS)) (noteLayer luS 0 v16)).1 = true ∧ rangesPoisoned (consume v15 CheckSeen.good (passReads ((op1 2 0x3F800000 0 3) : UpdOp) luS (passRows v16 ((op1 2 0x3F800000 0 3) : UpdOp) luS)) (noteLayer luS 0 v16)).2 (passReads ((op1 2 0x3F800000 0 3) : UpdOp) luS (passRows v16 ((op1 2 0x3F800000 0 3) : UpdOp) luS)) = false ∧ inStacks v16 (lStaging luS) (stgEnd luS - lStaging luS) = true ∧ aloof v16 (rowListAddr luS) (rowListBytes luS) (tailAddr luS + 4) 4 ∧ (((op1 2 0x3F800000 0 3) : UpdOp).pass = 1#3 ∨ ((op1 2 0x3F800000 0 3) : UpdOp).pass = 2#3 → ∀ k ∈ passRows v16 ((op1 2 0x3F800000 0 3) : UpdOp) luS, gradPoison (consume v15 CheckSeen.good (passReads ((op1 2 0x3F800000 0 3) : UpdOp) luS (passRows v16 ((op1 2 0x3F800000 0 3) : UpdOp) luS)) (noteLayer luS 0 v16)).2 ((op1 2 0x3F800000 0 3) : UpdOp) luS k = false) ∧ ((op1 2 0x3F800000 0 3) : UpdOp).pass = 2#3 ∧ (((((op1 2 0x3F800000 0 3) : UpdOp).pass = 1#3 ∨ ((op1 2 0x3F800000 0 3) : UpdOp).pass = 2#3) ∧ policyOf v16 v15.ctx = 0 ∧ ∃ k ∈ passRows v16 ((op1 2 0x3F800000 0 3) : UpdOp) luS, none ∈ gradRow (consume v15 CheckSeen.good (passReads ((op1 2 0x3F800000 0 3) : UpdOp) luS (passRows v16 ((op1 2 0x3F800000 0 3) : UpdOp) luS)) (noteLayer luS 0 v16)).2 (phaseBad (consume v15 CheckSeen.good (passReads ((op1 2 0x3F800000 0 3) : UpdOp) luS (passRows v16 ((op1 2 0x3F800000 0 3) : UpdOp) luS)) (noteLayer luS 0 v16)).2 CheckSeen.good (passReads ((op1 2 0x3F800000 0 3) : UpdOp) luS (passRows v16 ((op1 2 0x3F800000 0 3) : UpdOp) luS)) fun b g => if b = true then (masterAt luS g 0, 2 * colsPad luS) else tensorGroup 8 (gradAddr ((op1 2 0x3F800000 0 3) : UpdOp)) (rowBlocks (lIn luS)) g) ((op1 2 0x3F800000 0 3) : UpdOp) luS k) ∨ ¬∀ o ∈ List.map (fun k => (k, momentsRow (consume v15 CheckSeen.good (passReads ((op1 2 0x3F800000 0 3) : UpdOp) luS (passRows v16 ((op1 2 0x3F800000 0 3) : UpdOp) luS)) (noteLayer luS 0 v16)).2 (phaseBad (consume v15 CheckSeen.good (passReads ((op1 2 0x3F800000 0 3) : UpdOp) luS (passRows v16 ((op1 2 0x3F800000 0 3) : UpdOp) luS)) (noteLayer luS 0 v16)).2 CheckSeen.good (passReads ((op1 2 0x3F800000 0 3) : UpdOp) luS (passRows v16 ((op1 2 0x3F800000 0 3) : UpdOp) luS)) fun b g => if b = true then (masterAt luS g 0, 2 * colsPad luS) else tensorGroup 8 (gradAddr ((op1 2 0x3F800000 0 3) : UpdOp)) (rowBlocks (lIn luS)) g) ((op1 2 0x3F800000 0 3) : UpdOp) luS (f32Recip (bias (bit (ctrl ((op1 2 0x3F800000 0 3) : UpdOp)) 4) (cf ((op1 2 0x3F800000 0 3) : UpdOp) 1) (stepT ((op1 2 0x3F800000 0 3) : UpdOp)))) (f32Rsqrt (bias (bit (ctrl ((op1 2 0x3F800000 0 3) : UpdOp)) 5) (cf ((op1 2 0x3F800000 0 3) : UpdOp) 2) (stepT ((op1 2 0x3F800000 0 3) : UpdOp)))) k)) (passRows v16 ((op1 2 0x3F800000 0 3) : UpdOp) luS), o.2.nonfin = [])) := by
  and_intros <;> decide +kernel
theorem test_witness_UpdateRowsComplete_16_9 :
    atEntry v17 0 4 v18 e4 ∧ layerRec v17 v18.ctx e4.layer.toNat = some luS ∧ luS.st.applying = false ∧ lNum luS = e4.layer.toNat ∧ v18.update = some v19 ∧ v19.layer = e4.layer ∧ rangesOk v17 (passReads v19 luS (passRows v17 v19 luS)) = true ∧ (consume v18 CheckSeen.good (passReads v19 luS (passRows v17 v19 luS)) (noteLayer luS 0 v17)).1 = true ∧ rangesPoisoned (consume v18 CheckSeen.good (passReads v19 luS (passRows v17 v19 luS)) (noteLayer luS 0 v17)).2 (passReads v19 luS (passRows v17 v19 luS)) = false ∧ inStacks v17 (lStaging luS) (stgEnd luS - lStaging luS) = true ∧ aloof v17 (rowListAddr luS) (rowListBytes luS) (tailAddr luS + 4) 4 ∧ (v19.pass = 1#3 ∨ v19.pass = 2#3 → ∀ k ∈ passRows v17 v19 luS, gradPoison (consume v18 CheckSeen.good (passReads v19 luS (passRows v17 v19 luS)) (noteLayer luS 0 v17)).2 v19 luS k = false) ∧ v19.pass = 2#3 ∧ (¬((v19.pass = 1#3 ∨ v19.pass = 2#3) ∧ policyOf v17 v18.ctx = 0 ∧ ∃ k ∈ passRows v17 v19 luS, none ∈ gradRow (consume v18 CheckSeen.good (passReads v19 luS (passRows v17 v19 luS)) (noteLayer luS 0 v17)).2 (phaseBad (consume v18 CheckSeen.good (passReads v19 luS (passRows v17 v19 luS)) (noteLayer luS 0 v17)).2 CheckSeen.good (passReads v19 luS (passRows v17 v19 luS)) fun b g => if b = true then (masterAt luS g 0, 2 * colsPad luS) else tensorGroup 8 (gradAddr v19) (rowBlocks (lIn luS)) g) v19 luS k)) ∧ (∀ o ∈ List.map (fun k => (k, momentsRow (consume v18 CheckSeen.good (passReads v19 luS (passRows v17 v19 luS)) (noteLayer luS 0 v17)).2 (phaseBad (consume v18 CheckSeen.good (passReads v19 luS (passRows v17 v19 luS)) (noteLayer luS 0 v17)).2 CheckSeen.good (passReads v19 luS (passRows v17 v19 luS)) fun b g => if b = true then (masterAt luS g 0, 2 * colsPad luS) else tensorGroup 8 (gradAddr v19) (rowBlocks (lIn luS)) g) v19 luS (f32Recip (bias (bit (ctrl v19) 4) (cf v19 1) (stepT v19))) (f32Rsqrt (bias (bit (ctrl v19) 5) (cf v19 2) (stepT v19))) k)) (passRows v17 v19 luS), o.2.nonfin = []) ∧ orthoIters v19 ≠ 0 ∧ storable v17 (workAddr v19, 4 * lOut luS * colsPad luS).1 (workAddr v19, 4 * lOut luS * colsPad luS).2 = true ∧ aloof v17 (workAddr v19, 4 * lOut luS * colsPad luS).1 (workAddr v19, 4 * lOut luS * colsPad luS).2 (workAddr v19, 4 * lOut luS * colsPad luS).1 (workAddr v19, 4 * lOut luS * colsPad luS).2 := 
  by and_intros <;> decide +kernel
theorem test_witness_UpdateRowsComplete_16_10 :
    atEntry ((uo o4) : State) 0 4 ((lup o4) : LaunchS) e4 ∧ layerRec ((uo o4) : State) ((lup o4) : LaunchS).ctx e4.layer.toNat = some luS ∧ luS.st.applying = false ∧ lNum luS = e4.layer.toNat ∧ ((lup o4) : LaunchS).update = some o4 ∧ o4.layer = e4.layer ∧ rangesOk ((uo o4) : State) (passReads o4 luS (passRows ((uo o4) : State) o4 luS)) = true ∧ (consume ((lup o4) : LaunchS) CheckSeen.good (passReads o4 luS (passRows ((uo o4) : State) o4 luS)) (noteLayer luS 0 ((uo o4) : State))).1 = true ∧ rangesPoisoned (consume ((lup o4) : LaunchS) CheckSeen.good (passReads o4 luS (passRows ((uo o4) : State) o4 luS)) (noteLayer luS 0 ((uo o4) : State))).2 (passReads o4 luS (passRows ((uo o4) : State) o4 luS)) = false ∧ inStacks ((uo o4) : State) (lStaging luS) (stgEnd luS - lStaging luS) = true ∧ aloof ((uo o4) : State) (rowListAddr luS) (rowListBytes luS) (tailAddr luS + 4) 4 ∧ (o4.pass = 1#3 ∨ o4.pass = 2#3 → ∀ k ∈ passRows ((uo o4) : State) o4 luS, gradPoison (consume ((lup o4) : LaunchS) CheckSeen.good (passReads o4 luS (passRows ((uo o4) : State) o4 luS)) (noteLayer luS 0 ((uo o4) : State))).2 o4 luS k = false) ∧ o4.pass = 4#3 ∧ (∀ m ∈ masterRows (consume ((lup o4) : LaunchS) CheckSeen.good (passReads o4 luS (passRows ((uo o4) : State) o4 luS)) (noteLayer luS 0 ((uo o4) : State))).2 (phaseBad (consume ((lup o4) : LaunchS) CheckSeen.good (passReads o4 luS (passRows ((uo o4) : State) o4 luS)) (noteLayer luS 0 ((uo o4) : State))).2 CheckSeen.good (passReads o4 luS (passRows ((uo o4) : State) o4 luS)) fun b g => if b = true then (masterAt luS g 0, 2 * colsPad luS) else tensorGroup 8 (gradAddr o4) (rowBlocks (lIn luS)) g) { layer := o4.layer, lead := o4.lead, pass := o4.pass, desc := o4.desc, coef := o4.coef, step := o4.step, gnorm := o4.gnorm, k := o4.k, dirs := if orthoIters o4 = 0 then o4.dirs else fromWork (consume ((lup o4) : LaunchS) CheckSeen.good (passReads o4 luS (passRows ((uo o4) : State) o4 luS)) (noteLayer luS 0 ((uo o4) : State))).2 o4 luS, m1 := o4.m1, m2 := o4.m2 : UpdOp } luS { layer := o4.layer, lead := o4.lead, pass := o4.pass, desc := o4.desc, coef := o4.coef, step := o4.step, gnorm := o4.gnorm, k := o4.k, dirs := if orthoIters o4 = 0 then o4.dirs else fromWork (consume ((lup o4) : LaunchS) CheckSeen.good (passReads o4 luS (passRows ((uo o4) : State) o4 luS)) (noteLayer luS 0 ((uo o4) : State))).2 o4 luS, m1 := o4.m1, m2 := o4.m2 : UpdOp }.dirs, m.nonfin = []) ∧ (∀ x ∈ stagingStores (consume ((lup o4) : LaunchS) CheckSeen.good (passReads o4 luS (passRows ((uo o4) : State) o4 luS)) (noteLayer luS 0 ((uo o4) : State))).2 { layer := o4.layer, lead := o4.lead, pass := o4.pass, desc := o4.desc, coef := o4.coef, step := o4.step, gnorm := o4.gnorm, k := o4.k, dirs := if orthoIters o4 = 0 then o4.dirs else fromWork (consume ((lup o4) : LaunchS) CheckSeen.good (passReads o4 luS (passRows ((uo o4) : State) o4 luS)) (noteLayer luS 0 ((uo o4) : State))).2 o4 luS, m1 := o4.m1, m2 := o4.m2 : UpdOp } luS (openEpoch (ctxU ((uo o4) : State) ((lup o4) : LaunchS).ctx)) (ratioOf (layerSum (List.map (fun x => x.dsq) (masterRows (consume ((lup o4) : LaunchS) CheckSeen.good (passReads o4 luS (passRows ((uo o4) : State) o4 luS)) (noteLayer luS 0 ((uo o4) : State))).2 (phaseBad (consume ((lup o4) : LaunchS) CheckSeen.good (passReads o4 luS (passRows ((uo o4) : State) o4 luS)) (noteLayer luS 0 ((uo o4) : State))).2 CheckSeen.good (passReads o4 luS (passRows ((uo o4) : State) o4 luS)) fun b g => if b = true then (masterAt luS g 0, 2 * colsPad luS) else tensorGroup 8 (gradAddr o4) (rowBlocks (lIn luS)) g) { layer := o4.layer, lead := o4.lead, pass := o4.pass, desc := o4.desc, coef := o4.coef, step := o4.step, gnorm := o4.gnorm, k := o4.k, dirs := if orthoIters o4 = 0 then o4.dirs else fromWork (consume ((lup o4) : LaunchS) CheckSeen.good (passReads o4 luS (passRows ((uo o4) : State) o4 luS)) (noteLayer luS 0 ((uo o4) : State))).2 o4 luS, m1 := o4.m1, m2 := o4.m2 : UpdOp } luS { layer := o4.layer, lead := o4.lead, pass := o4.pass, desc := o4.desc, coef := o4.coef, step := o4.step, gnorm := o4.gnorm, k := o4.k, dirs := if orthoIters o4 = 0 then o4.dirs else fromWork (consume ((lup o4) : LaunchS) CheckSeen.good (passReads o4 luS (passRows ((uo o4) : State) o4 luS)) (noteLayer luS 0 ((uo o4) : State))).2 o4 luS, m1 := o4.m1, m2 := o4.m2 : UpdOp }.dirs)) (consume ((lup o4) : LaunchS) CheckSeen.good (passReads o4 luS (passRows ((uo o4) : State) o4 luS)) (noteLayer luS 0 ((uo o4) : State))).2).1 (layerSum (List.map (fun x => x.wsq) (masterRows (consume ((lup o4) : LaunchS) CheckSeen.good (passReads o4 luS (passRows ((uo o4) : State) o4 luS)) (noteLayer luS 0 ((uo o4) : State))).2 (phaseBad (consume ((lup o4) : LaunchS) CheckSeen.good (passReads o4 luS (passRows ((uo o4) : State) o4 luS)) (noteLayer luS 0 ((uo o4) : State))).2 CheckSeen.good (passReads o4 luS (passRows ((uo o4) : State) o4 luS)) fun b g => if b = true then (masterAt luS g 0, 2 * colsPad luS) else tensorGroup 8 (gradAddr o4) (rowBlocks (lIn luS)) g) { layer := o4.layer, lead := o4.lead, pass := o4.pass, desc := o4.desc, coef := o4.coef, step := o4.step, gnorm := o4.gnorm, k := o4.k, dirs := if orthoIters o4 = 0 then o4.dirs else fromWork (consume ((lup o4) : LaunchS) CheckSeen.good (passReads o4 luS (passRows ((uo o4) : State) o4 luS)) (noteLayer luS 0 ((uo o4) : State))).2 o4 luS, m1 := o4.m1, m2 := o4.m2 : UpdOp } luS { layer := o4.layer, lead := o4.lead, pass := o4.pass, desc := o4.desc, coef := o4.coef, step := o4.step, gnorm := o4.gnorm, k := o4.k, dirs := if orthoIters o4 = 0 then o4.dirs else fromWork (consume ((lup o4) : LaunchS) CheckSeen.good (passReads o4 luS (passRows ((uo o4) : State) o4 luS)) (noteLayer luS 0 ((uo o4) : State))).2 o4 luS, m1 := o4.m1, m2 := o4.m2 : UpdOp }.dirs)) (layerSum (List.map (fun x => x.dsq) (masterRows (consume ((lup o4) : LaunchS) CheckSeen.good (passReads o4 luS (passRows ((uo o4) : State) o4 luS)) (noteLayer luS 0 ((uo o4) : State))).2 (phaseBad (consume ((lup o4) : LaunchS) CheckSeen.good (passReads o4 luS (passRows ((uo o4) : State) o4 luS)) (noteLayer luS 0 ((uo o4) : State))).2 CheckSeen.good (passReads o4 luS (passRows ((uo o4) : State) o4 luS)) fun b g => if b = true then (masterAt luS g 0, 2 * colsPad luS) else tensorGroup 8 (gradAddr o4) (rowBlocks (lIn luS)) g) { layer := o4.layer, lead := o4.lead, pass := o4.pass, desc := o4.desc, coef := o4.coef, step := o4.step, gnorm := o4.gnorm, k := o4.k, dirs := if orthoIters o4 = 0 then o4.dirs else fromWork (consume ((lup o4) : LaunchS) CheckSeen.good (passReads o4 luS (passRows ((uo o4) : State) o4 luS)) (noteLayer luS 0 ((uo o4) : State))).2 o4 luS, m1 := o4.m1, m2 := o4.m2 : UpdOp } luS { layer := o4.layer, lead := o4.lead, pass := o4.pass, desc := o4.desc, coef := o4.coef, step := o4.step, gnorm := o4.gnorm, k := o4.k, dirs := if orthoIters o4 = 0 then o4.dirs else fromWork (consume ((lup o4) : LaunchS) CheckSeen.good (passReads o4 luS (passRows ((uo o4) : State) o4 luS)) (noteLayer luS 0 ((uo o4) : State))).2 o4 luS, m1 := o4.m1, m2 := o4.m2 : UpdOp }.dirs)) (consume ((lup o4) : LaunchS) CheckSeen.good (passReads o4 luS (passRows ((uo o4) : State) o4 luS)) (noteLayer luS 0 ((uo o4) : State))).2).2).1) (masterRows (consume ((lup o4) : LaunchS) CheckSeen.good (passReads o4 luS (passRows ((uo o4) : State) o4 luS)) (noteLayer luS 0 ((uo o4) : State))).2 (phaseBad (consume ((lup o4) : LaunchS) CheckSeen.good (passReads o4 luS (passRows ((uo o4) : State) o4 luS)) (noteLayer luS 0 ((uo o4) : State))).2 CheckSeen.good (passReads o4 luS (passRows ((uo o4) : State) o4 luS)) fun b g => if b = true then (masterAt luS g 0, 2 * colsPad luS) else tensorGroup 8 (gradAddr o4) (rowBlocks (lIn luS)) g) { layer := o4.layer, lead := o4.lead, pass := o4.pass, desc := o4.desc, coef := o4.coef, step := o4.step, gnorm := o4.gnorm, k := o4.k, dirs := if orthoIters o4 = 0 then o4.dirs else fromWork (consume ((lup o4) : LaunchS) CheckSeen.good (passReads o4 luS (passRows ((uo o4) : State) o4 luS)) (noteLayer luS 0 ((uo o4) : State))).2 o4 luS, m1 := o4.m1, m2 := o4.m2 : UpdOp } luS { layer := o4.layer, lead := o4.lead, pass := o4.pass, desc := o4.desc, coef := o4.coef, step := o4.step, gnorm := o4.gnorm, k := o4.k, dirs := if orthoIters o4 = 0 then o4.dirs else fromWork (consume ((lup o4) : LaunchS) CheckSeen.good (passReads o4 luS (passRows ((uo o4) : State) o4 luS)) (noteLayer luS 0 ((uo o4) : State))).2 o4 luS, m1 := o4.m1, m2 := o4.m2 : UpdOp }.dirs), storable ((uo o4) : State) x.1 x.2.length = true) ∧ aloof ((uo o4) : State) (tailAddr luS + 8) 4 (tailAddr luS + 4) 4 := 
  by and_intros <;> decide +kernel
theorem row_q2_11_0 : ((orthogonalise o3 (lIn luS) (List.map (fun x => x.2) (fromWork (consume ((lup o3) : LaunchS) CheckSeen.good (passReads o3 luS (passRows v20 o3 luS)) (noteLayer luS 0 v20)).2 o3 luS)) (consume ((lup o3) : LaunchS) CheckSeen.good (passReads o3 luS (passRows v20 o3 luS)) (noteLayer luS 0 v20)).2).1) = [[0#32, 0#32, 0#32], [0#32, 0#32, 0#32]] := by decide +kernel
theorem test_witness_UpdateRowsComplete_16_11 :
    atEntry v20 0 4 ((lup o3) : LaunchS) e4 ∧ layerRec v20 ((lup o3) : LaunchS).ctx e4.layer.toNat = some luS ∧ luS.st.applying = false ∧ lNum luS = e4.layer.toNat ∧ ((lup o3) : LaunchS).update = some o3 ∧ o3.layer = e4.layer ∧ rangesOk v20 (passReads o3 luS (passRows v20 o3 luS)) = true ∧ (consume ((lup o3) : LaunchS) CheckSeen.good (passReads o3 luS (passRows v20 o3 luS)) (noteLayer luS 0 v20)).1 = true ∧ rangesPoisoned (consume ((lup o3) : LaunchS) CheckSeen.good (passReads o3 luS (passRows v20 o3 luS)) (noteLayer luS 0 v20)).2 (passReads o3 luS (passRows v20 o3 luS)) = false ∧ inStacks v20 (lStaging luS) (stgEnd luS - lStaging luS) = true ∧ aloof v20 (rowListAddr luS) (rowListBytes luS) (tailAddr luS + 4) 4 ∧ (o3.pass = 1#3 ∨ o3.pass = 2#3 → ∀ k ∈ passRows v20 o3 luS, gradPoison (consume ((lup o3) : LaunchS) CheckSeen.good (passReads o3 luS (passRows v20 o3 luS)) (noteLayer luS 0 v20)).2 o3 luS k = false) ∧ o3.pass = 3#3 ∧ (∀ y ∈ (orthogonalise o3 (lIn luS) (List.map (fun x => x.2) (fromWork (consume ((lup o3) : LaunchS) CheckSeen.good (passReads o3 luS (passRows v20 o3 luS)) (noteLayer luS 0 v20)).2 o3 luS)) (consume ((lup o3) : LaunchS) CheckSeen.good (passReads o3 luS (passRows v20 o3 luS)) (noteLayer luS 0 v20)).2).1, ∀ w ∈ y, isFiniteF32 w = true) ∧ storable v20 (workAddr o3, 4 * lOut luS * colsPad luS).1 (workAddr o3, 4 * lOut luS * colsPad luS).2 = true ∧ (∀ o ∈ o3.dirs, o.1 < lOut luS) := 
  ⟨by decide +kernel, by decide +kernel, by decide +kernel, by decide +kernel, by decide +kernel, by decide +kernel, by decide +kernel, by decide +kernel, by decide +kernel, by decide +kernel, by decide +kernel, by decide +kernel, by decide +kernel, by
      rw [row_q2_11_0]
      simp only [List.forall_mem_cons, List.not_mem_nil, false_imp_iff, implies_true, and_true]
      decide +kernel, by decide +kernel, by decide +kernel⟩
theorem test_witness_UpdateRowsComplete_16_12 :
    atEntry ((uo o4) : State) 0 4 ((lup o4) : LaunchS) e4 ∧ layerRec ((uo o4) : State) ((lup o4) : LaunchS).ctx e4.layer.toNat = some luS ∧ luS.st.applying = false ∧ lNum luS = e4.layer.toNat ∧ ((lup o4) : LaunchS).update = some o4 ∧ o4.layer = e4.layer ∧ rangesOk ((uo o4) : State) (passReads o4 luS (passRows ((uo o4) : State) o4 luS)) = true ∧ (consume ((lup o4) : LaunchS) ((.hdrBad true 1) : CheckSeen) (passReads o4 luS (passRows ((uo o4) : State) o4 luS)) (noteLayer luS 0 ((uo o4) : State))).1 = true ∧ rangesPoisoned (consume ((lup o4) : LaunchS) ((.hdrBad true 1) : CheckSeen) (passReads o4 luS (passRows ((uo o4) : State) o4 luS)) (noteLayer luS 0 ((uo o4) : State))).2 (passReads o4 luS (passRows ((uo o4) : State) o4 luS)) = false ∧ inStacks ((uo o4) : State) (lStaging luS) (stgEnd luS - lStaging luS) = true ∧ aloof ((uo o4) : State) (rowListAddr luS) (rowListBytes luS) (tailAddr luS + 4) 4 ∧ (o4.pass = 1#3 ∨ o4.pass = 2#3 → ∀ k ∈ passRows ((uo o4) : State) o4 luS, gradPoison (consume ((lup o4) : LaunchS) ((.hdrBad true 1) : CheckSeen) (passReads o4 luS (passRows ((uo o4) : State) o4 luS)) (noteLayer luS 0 ((uo o4) : State))).2 o4 luS k = false) ∧ o4.pass = 4#3 ∧ (∃ m ∈ masterRows (consume ((lup o4) : LaunchS) ((.hdrBad true 1) : CheckSeen) (passReads o4 luS (passRows ((uo o4) : State) o4 luS)) (noteLayer luS 0 ((uo o4) : State))).2 (phaseBad (consume ((lup o4) : LaunchS) ((.hdrBad true 1) : CheckSeen) (passReads o4 luS (passRows ((uo o4) : State) o4 luS)) (noteLayer luS 0 ((uo o4) : State))).2 ((.hdrBad true 1) : CheckSeen) (passReads o4 luS (passRows ((uo o4) : State) o4 luS)) fun b g => if b = true then (masterAt luS g 0, 2 * colsPad luS) else tensorGroup 8 (gradAddr o4) (rowBlocks (lIn luS)) g) { layer := o4.layer, lead := o4.lead, pass := o4.pass, desc := o4.desc, coef := o4.coef, step := o4.step, gnorm := o4.gnorm, k := o4.k, dirs := if orthoIters o4 = 0 then o4.dirs else fromWork (consume ((lup o4) : LaunchS) ((.hdrBad true 1) : CheckSeen) (passReads o4 luS (passRows ((uo o4) : State) o4 luS)) (noteLayer luS 0 ((uo o4) : State))).2 o4 luS, m1 := o4.m1, m2 := o4.m2 : UpdOp } luS { layer := o4.layer, lead := o4.lead, pass := o4.pass, desc := o4.desc, coef := o4.coef, step := o4.step, gnorm := o4.gnorm, k := o4.k, dirs := if orthoIters o4 = 0 then o4.dirs else fromWork (consume ((lup o4) : LaunchS) ((.hdrBad true 1) : CheckSeen) (passReads o4 luS (passRows ((uo o4) : State) o4 luS)) (noteLayer luS 0 ((uo o4) : State))).2 o4 luS, m1 := o4.m1, m2 := o4.m2 : UpdOp }.dirs, m.nonfin ≠ []) := 
  by and_intros <;> decide +kernel
end Sys2Proof.Tests.W16

namespace Sys2Proof.Tests.W17
open Sys2Proof.Tests.W
def en (ph : Nat) (mb : Nat) (i o : W64) : Prog := { phase := BitVec.ofNat 4 ph, layer := 1, mbFirst := 3, mbCount := BitVec.ofNat 16 mb, tIn := 1, tOut := 2, inAddr := i, outAddr := o, tally := 5, length := 8 }
def fl (k : Nat) (e : Prog) : LaunchS := { mkLaunch 0 k with prog := [e], epoch := 6 }
def st (l : LaunchS) : State := withLaunch l (withCtx 0 { cx with layers := [(1, ly)] } (withPort 0 up (withPort 5 up (putMem 0x8000 [1,2,3,4,5,6,7,8,9] s0))))
def dw : List Word := [0x10000000#32 ||| (7 <<< 21) ||| (7 <<< 18), 1, 0x40000000, 0xC0, 0x40001000, 0xC0, 0x1000, 0, 0xFFFFFFFF, 0xFFFFFFFF, BitVec.ofNat 32 (4 + 128 * 8), 0]
def e7 := en 7 2 0x9000 0
def e8 := en 8 2 0x9000 0
def e9 := en 9 2 0x9000 0
def fwd : W64 := BitVec.ofNat 64 (0x11 * 2^58 + 5 * 2^40 + 0xC0B0000080)
def e10 := en 10 2 0x8000 0x8010
def e10r := en 10 2 0x8000 0x0000050000008010
def e1 := en 1 2 0x8000 0x8010
def cxs (c : CtxU) : CtxU := { c with slots := [(0, (0x20000, 1, 1024))], resv := [] }
def v1 : State := (putMem (0x9000 + 48) (dw.flatMap bytesOfWord) (st { fl 2 e7 with placed := 1 }))
def v2 : LaunchS := { fl 2 e7 with placed := 1 }
def v3 : State := (withCore 0 { CoreU.reset with passq := List.replicate 8 ⟨0, dw, false⟩ } (putMem (0x9000 + 48) (dw.flatMap bytesOfWord) (st { fl 2 e7 with placed := 1 })))
def v4 : State := (withCore 9 { CoreU.reset with retry := some ⟨0, dw, false⟩ } (st { fl 2 e7 with placed := 2 }))
def v5 : LaunchS := { fl 2 e7 with placed := 2 }
def v6 : State := (putMem (tallyAddr 5) [3] (st (fl 2 e8)))
def v7 : State := (st { fl 2 e9 with pending := [3] })
def v8 : LaunchS := { fl 2 e9 with pending := [3] }
def v9 : State := (st { fl 2 e9 with signals := [(0,[])] })
def v10 : LaunchS := { fl 2 e9 with signals := [(0, [])] }
def v11 : State := (putMem (tallyAddr 5) (List.replicate 8 0xFF) (st (fl 2 e9)))
def v12 : State := (putMem (tallyAddr 5 + 8) (leBytes 8 fwd.toNat) (st (fl 2 e9)))
def v13 : State := (st { fl 2 e10r with mb := 1 })
def v14 : LaunchS := { fl 2 e10r with mb := 1 }
def v15 : State := (withCtx 0 (cxs cx) (st (fl 1 e1)))
def v16 : State := (running 0 (st { fl 2 e1 with pc := 1, status := 0x34 }))
def v17 : LaunchS := { fl 2 e1 with pc := 1, status := 0x34 }
theorem test_witness_ProgramRowsComplete_17_1 :
    (atEntry v1 0 7 v2 e7 ∧ v2.placed + 1 = e7.mbCount.toNat ∧ outranked v1 v2 e7 = false ∧ rangesOk v1 [(BitVec.toNat e7.inAddr, 48 * e7.mbCount.toNat)] = true ∧ (chooseCore v1 v2 { launch := 0, words := List.map (fun w => readWord v1 (BitVec.toNat e7.inAddr + 48 * v2.placed + 4 * w)) (List.range 12), retried := false : Queued } = some 0) ∧ bit v2.clusters (clusterOfCore 0) = true ∧ coreFenced v1 0 = false ∧ queueRoom (Sys2Proof.Machine.core v1 0) = true ∧ (formBad { launch := 0, words := List.map (fun w => readWord v1 (BitVec.toNat e7.inAddr + 48 * v2.placed + 4 * w)) (List.range 12), retried := false : Queued } = false) ∧ (rangesBad v1 0 { launch := 0, words := List.map (fun w => readWord v1 (BitVec.toNat e7.inAddr + 48 * v2.placed + 4 * w)) (List.range 12), retried := false : Queued } = false) ∧ (guarded v1 (dDest { launch := 0, words := List.map (fun w => readWord v1 (BitVec.toNat e7.inAddr + 48 * v2.placed + 4 * w)) (List.range 12), retried := false : Queued }) (outBytes { launch := 0, words := List.map (fun w => readWord v1 (BitVec.toNat e7.inAddr + 48 * v2.placed + 4 * w)) (List.range 12), retried := false : Queued }) = false))
    ∧ (atEntry v3 0 7 v2 e7 ∧ v2.placed + 1 = e7.mbCount.toNat ∧ outranked v3 v2 e7 = false ∧ rangesOk v3 [(BitVec.toNat e7.inAddr, 48 * e7.mbCount.toNat)] = true ∧ (chooseCore v3 v2 { launch := 0, words := List.map (fun w => readWord v3 (BitVec.toNat e7.inAddr + 48 * v2.placed + 4 * w)) (List.range 12), retried := false : Queued } = some 0) ∧ bit v2.clusters (clusterOfCore 0) = true ∧ coreFenced v3 0 = false ∧ queueRoom (Sys2Proof.Machine.core v3 0) = false)
    ∧ (atEntry v4 0 7 v5 e7 ∧ e7.mbCount.toNat ≤ v5.placed ∧ hasPasses v4 0 = true)
    ∧ (atEntry ((st (fl 2 e8)) : State) 0 8 ((fl 2 e8) : LaunchS) e8 ∧ (((.tallyWait 0) : Instr) = Instr.tallyWait 0 ∨ ((.tallyWait 0) : Instr) = Instr.tallyWaitComplete 0) ∧ leNat (memGet ((st (fl 2 e8)) : State) (tallyAddr e8.tally.toNat) 8) < e8.mbFirst.toNat)
    ∧ (atEntry v6 0 8 ((fl 2 e8) : LaunchS) e8 ∧ (((.tallyWait 0) : Instr) = Instr.tallyWait 0 ∨ ((.tallyWait 0) : Instr) = Instr.tallyWaitComplete 0) ∧ e8.mbFirst.toNat ≤ leNat (memGet v6 (tallyAddr e8.tally.toNat) 8)) := by
  and_intros <;> decide +kernel
theorem test_witness_ProgramRowsComplete_17_2 :
    (atEntry v7 0 9 v8 e9 ∧ (v8.pending ≠ [] ∨ hasPasses v7 0 = true))
    ∧ (atEntry v9 0 9 v10 e9 ∧ v10.pending = [] ∧ hasPasses v9 0 = false ∧ ((v10.signals.any fun x => x.1 == v10.pc) = true) ∧ v10.told = [])
    ∧ (atEntry v11 0 9 ((fl 2 e9) : LaunchS) e9 ∧ ((fl 2 e9) : LaunchS).pending = [] ∧ hasPasses v11 0 = false ∧ ((((fl 2 e9) : LaunchS).signals.any fun x => x.1 == ((fl 2 e9) : LaunchS).pc) = false) ∧ rangePoisoned v11 (tallyAddr e9.tally.toNat) 8 = false ∧ aloof v11 (tallyAddr e9.tally.toNat) 8 (tallyAddr e9.tally.toNat + 48) 8 ∧ forwards v11 e9.tally.toNat = [])
    ∧ (atEntry v12 0 9 ((fl 2 e9) : LaunchS) e9 ∧ ((fl 2 e9) : LaunchS).pending = [] ∧ hasPasses v12 0 = false ∧ ((((fl 2 e9) : LaunchS).signals.any fun x => x.1 == ((fl 2 e9) : LaunchS).pc) = false) ∧ rangePoisoned v12 (tallyAddr e9.tally.toNat) 8 = false ∧ aloof v12 (tallyAddr e9.tally.toNat) 8 (tallyAddr e9.tally.toNat + 48) 8 ∧ forwards v12 e9.tally.toNat = [fwd] ∧ devOf fwd ≠ ownId v12 ∧ route v12 (signalDie ((fl 2 e9) : LaunchS)) (devOf fwd) (courierIndex v12 (devOf fwd)) = some 5 ∧ mustWait v12 (signalDie ((fl 2 e9) : LaunchS)) (requestPkt 17 fwd (ownId v12) ((fl 2 e9) : LaunchS).ctx (ctxU v12 ((fl 2 e9) : LaunchS).ctx).job ((fl 2 e9) : LaunchS).epoch v12.fab.nextTag false 8 (leBytes 8 e9.mbFirst.toNat)) 5 = false) := by
  and_intros <;> decide +kernel
theorem test_witness_ProgramRowsComplete_17_3 :
    (atEntry ((st (fl 2 e10)) : State) 0 10 ((fl 2 e10) : LaunchS) e10 ∧ ((fl 2 e10) : LaunchS).mb < e10.mbCount.toNat ∧ inStacks ((st (fl 2 e10)) : State) (BitVec.toNat e10.inAddr + ((fl 2 e10) : LaunchS).mb * BitVec.toNat e10.length) (BitVec.toNat e10.length) = true ∧ rangePoisoned ((st (fl 2 e10)) : State) (BitVec.toNat e10.inAddr + ((fl 2 e10) : LaunchS).mb * BitVec.toNat e10.length) (BitVec.toNat e10.length) = false ∧ intact ((st (fl 2 e10)) : State) (BitVec.toNat e10.inAddr + ((fl 2 e10) : LaunchS).mb * BitVec.toNat e10.length) (BitVec.toNat e10.length) = true ∧ devOf (e10.outAddr + BitVec.ofNat 64 (((fl 2 e10) : LaunchS).mb * BitVec.toNat e10.length)) = ownId ((st (fl 2 e10)) : State) ∧ storable ((st (fl 2 e10)) : State) (localOf (e10.outAddr + BitVec.ofNat 64 (((fl 2 e10) : LaunchS).mb * BitVec.toNat e10.length))) (BitVec.toNat e10.length) = true ∧ apart (BitVec.toNat e10.inAddr + ((fl 2 e10) : LaunchS).mb * BitVec.toNat e10.length) (BitVec.toNat e10.length) (localOf (e10.outAddr + BitVec.ofNat 64 (((fl 2 e10) : LaunchS).mb * BitVec.toNat e10.length))) (BitVec.toNat e10.length) ∧ aloof ((st (fl 2 e10)) : State) (localOf (e10.outAddr + BitVec.ofNat 64 (((fl 2 e10) : LaunchS).mb * BitVec.toNat e10.length))) (BitVec.toNat e10.length) (BitVec.toNat e10.inAddr + ((fl 2 e10) : LaunchS).mb * BitVec.toNat e10.length) (BitVec.toNat e10.length) ∧ aloof ((st (fl 2 e10)) : State) (localOf (e10.outAddr + BitVec.ofNat 64 (((fl 2 e10) : LaunchS).mb * BitVec.toNat e10.length))) (BitVec.toNat e10.length) (localOf (e10.outAddr + BitVec.ofNat 64 (((fl 2 e10) : LaunchS).mb * BitVec.toNat e10.length))) (BitVec.toNat e10.length) ∧ unawaited ((st (fl 2 e10)) : State) (e10.outAddr + BitVec.ofNat 64 (((fl 2 e10) : LaunchS).mb * BitVec.toNat e10.length)) (BitVec.toNat e10.length) = true)
    ∧ (atEntry v13 0 10 v14 e10r ∧ v14.mb < e10r.mbCount.toNat ∧ inStacks v13 (BitVec.toNat e10r.inAddr + v14.mb * BitVec.toNat e10r.length) (BitVec.toNat e10r.length) = true ∧ rangePoisoned v13 (BitVec.toNat e10r.inAddr + v14.mb * BitVec.toNat e10r.length) (BitVec.toNat e10r.length) = false ∧ intact v13 (BitVec.toNat e10r.inAddr + v14.mb * BitVec.toNat e10r.length) (BitVec.toNat e10r.length) = true ∧ devOf (e10r.outAddr + BitVec.ofNat 64 (v14.mb * BitVec.toNat e10r.length)) ≠ ownId v13 ∧ 1 ≤ BitVec.toNat e10r.length ∧ BitVec.toNat e10r.length ≤ toBoundary (BitVec.toNat e10r.inAddr + v14.mb * BitVec.toNat e10r.length) ∧ BitVec.toNat e10r.length ≤ toBoundary (localOf (e10r.outAddr + BitVec.ofNat 64 (v14.mb * BitVec.toNat e10r.length))) ∧ route v13 (signalDie v14) (devOf (e10r.outAddr + BitVec.ofNat 64 (v14.mb * BitVec.toNat e10r.length))) (bulkIndex (requestPkt 1 (e10r.outAddr + BitVec.ofNat 64 (v14.mb * BitVec.toNat e10r.length)) (ownId v13) v14.ctx (ctxU v13 v14.ctx).job v14.epoch v13.fab.nextTag false (BitVec.toNat e10r.length) (memGet v13 (BitVec.toNat e10r.inAddr + v14.mb * BitVec.toNat e10r.length) (BitVec.toNat e10r.length))).gaddr) = some 0 ∧ mustWait v13 (signalDie v14) (requestPkt 1 (e10r.outAddr + BitVec.ofNat 64 (v14.mb * BitVec.toNat e10r.length)) (ownId v13) v14.ctx (ctxU v13 v14.ctx).job v14.epoch v13.fab.nextTag false (BitVec.toNat e10r.length) (memGet v13 (BitVec.toNat e10r.inAddr + v14.mb * BitVec.toNat e10r.length) (BitVec.toNat e10r.length))) 0 = false)
    ∧ (findLaunch v15 0 = some ((fl 1 e1) : LaunchS) ∧ ((fl 1 e1) : LaunchS).state = LState.running ∧ (((fl 1 e1) : LaunchS).pc < ((fl 1 e1) : LaunchS).prog.length ∨ ((fl 1 e1) : LaunchS).pending ≠ [] ∨ hasPasses v15 0 = true)) := by
  and_intros <;> decide +kernel
theorem test_witness_ProgramRowsComplete_17_4 :
    findLaunch v16 0 = some v17 ∧ v17.state = LState.running ∧ v17.kind ≠ 3#4 ∧ v17.kind ≠ 4#4 ∧ v17.prog.length ≤ v17.pc ∧ v17.pending = [] ∧ hasPasses v16 0 = false ∧ v16.host.running = [{ pkt := W.lp, task := Task.launch 0 : Run }] ∧ W.lp.muted = false := 
  by and_intros <;> decide +kernel
end Sys2Proof.Tests.W17

namespace Sys2Proof.Tests.W18
open Sys2Proof.Tests.W
def en (ph : Nat) (mb : Nat) (i o : W64) : Prog := { phase := BitVec.ofNat 4 ph, layer := 1, mbFirst := 3, mbCount := BitVec.ofNat 16 mb, tIn := 1, tOut := 2, inAddr := i, outAddr := o, tally := 5, length := 8 }
def fl (k : Nat) (e : Prog) : LaunchS := { mkLaunch 0 k with prog := [e], epoch := 6 }
def st (l : LaunchS) : State := withLaunch l (withCtx 0 { cx with layers := [(1, ly)] } (withPort 0 up (withPort 5 up (putMem 0x8000 [1,2,3,4,5,6,7,8,9] s0))))
def e1 := en 1 2 0x8000 0x8010
def cxs (c : CtxU) : CtxU := { c with slots := [(0, (0x20000, 1, 1024))], resv := [] }
def hdr (par : DevId) (kids : Nat) : SealHdr := { timeout := 100, recBase := 0x30000, slots := 4, stride := 8, margin := 3, children := BitVec.ofNat 10 kids, parent := par, root := par }
def sl (h : SealHdr) : SealS := { SealS.reset with hdr := some h }
def cs (x : SealS) (w : Word) : CtxU := { cx with sealSt := x, sealW := w }
def ss (x : SealS) (w : Word) : State := withCtx 0 (cs x w) (withPort 0 up (withPort 5 up { s0 with rack := 1000 }))
def of (d : DevId) (ok : Bool) : DevId × OfferMsg := (d, ⟨0, 6, ok, false, false, 3⟩)
def ringed (s : State) : State := onFab (fun f => { f with ringCfg := [(2, BitVec.ofNat 32 (2^27 + 4 * 2^13 + 1))], ringLo := [(2, 0x2000)], caravans := [{ dummyCv with ring := 2 , n := 7}] }) s
def cvd : Caravan := { dummyCv with ring := 2 , n := 7, slices := [(9,1)]}
def v1 : State := (withCtx 0 (cxs cx) (st (fl 1 e1)))
def v2 : State := (withCtx 0 { cxs cx with resv := [⟨0, 9, 1⟩] } (st (fl 1 e1)))
def v3 : State := (ss (sl (hdr 5 1)) 0x1000)
def v4 : State := (ss (sl (hdr 0 1)) 0x1000)
def v5 : State := (ss { sl (hdr 0 1) with offers := [of 9 true], kids := [9] } 0x5000)
def v6 : State := (ss { sl (hdr 0 2) with offers := [of 9 true, of 8 false], kids := [8,9] } 0x1000)
def v7 : State := (ss { sl (hdr 0 2) with offers := [of 9 true, of 8 false], kids := [8,9], retries := 15 } 0x1000)
def v8 : State := (ss { SealS.reset with sums := [(2, true, 9, true)] } 0x1000)
def v9 : OfferMsg := ⟨0, 7, true, false, false, 4⟩
def v10 : State := (ss { sl (hdr 0 1) with offered := true, ready := true } 0x2000)
def v11 : OfferMsg := ⟨0, 6, true, true, false, 3⟩
def v12 : State := (ss { sl (hdr 5 1) with offered := true, kids := [8,9] } 0x2000)
def v13 : State := (ss { sl (hdr 0 1) with offered := true, kids := [8,9] } 0x2000)
def v14 : State := (ss { sl (hdr 5 1) with lastGo := some ⟨0, 5, 2000, false, 3⟩ } 0x2000)
def v15 : State := (ss (sl (hdr 5 1)) 0x5000)
def v16 : State := (ss (sl (hdr 5 1)) 0x2000)
def v17 : State := (ss { sl (hdr 5 1) with withdrawn := true, owedAcks := [(4, ⟨0, 9, 6, 3, [5]⟩)], kids := [9] } 0x2000)
def v18 : State := (ringed (ss (sl (hdr 5 1)) 0x2000))
def v19 : Caravan := { dummyCv with ring := 2 , n := 7}
def v20 : State := (withLaunch (mkLaunch 4 0) (onFab (fun f => { f with caravans := [cvd] }) (ringed (ss (sl (hdr 5 1)) 0x2000))))
theorem test_witness_ProgramRowsComplete_18 :
    (atEntry v1 0 1 ((fl 1 e1) : LaunchS) e1 ∧ ((fl 1 e1) : LaunchS).kind = 1#4 ∧ holdsStash v1 ((fl 1 e1) : LaunchS) (batchOf ((fl 1 e1) : LaunchS) e1) = false ∧ stashUsed v1 ((fl 1 e1) : LaunchS).ctx ((fl 1 e1) : LaunchS).slot.toNat + stashKib v1 ((fl 1 e1) : LaunchS) ≤ stashQuotaKib v1 ((fl 1 e1) : LaunchS))
    ∧ (atEntry v2 0 1 ((fl 1 e1) : LaunchS) e1 ∧ ((fl 1 e1) : LaunchS).kind = 1#4 ∧ holdsStash v2 ((fl 1 e1) : LaunchS) (batchOf ((fl 1 e1) : LaunchS) e1) = false ∧ stashQuotaKib v2 ((fl 1 e1) : LaunchS) < stashUsed v2 ((fl 1 e1) : LaunchS).ctx ((fl 1 e1) : LaunchS).slot.toNat + stashKib v2 ((fl 1 e1) : LaunchS)) := by
  and_intros <;> decide +kernel
theorem test_witness_SealMessagesComplete_18_1 :
    route s0 false (7 : DevId) (courierIndex s0 (7 : DevId)) = none
    ∧ mayPrepare s0 (0#4) = false
    ∧ ((ctxU v3 (0#4)).sealSt.hdr = some ((hdr 5 1) : SealHdr) ∧ mayPrepare v3 (0#4) = true ∧ (ctxU v3 (0#4)).sealSt.ready = false ∧ twinState v3 ≠ 2 ∧ mirrorDone v3 (0#4) = true ∧ (sumsHere v3 (0#4) = false ∨ ((hdr 5 1) : SealHdr).parent ≠ ownId v3 ∧ (ctxU v3 (0#4)).sealSt.offers.length < ((hdr 5 1) : SealHdr).children.toNat))
    ∧ ((ctxU v4 (0#4)).sealSt.hdr = some ((hdr 0 1) : SealHdr) ∧ mayPrepare v4 (0#4) = true ∧ (ctxU v4 (0#4)).sealSt.ready = false ∧ twinState v4 ≠ 2 ∧ mirrorDone v4 (0#4) = true ∧ sumsHere v4 (0#4) = true ∧ ((hdr 0 1) : SealHdr).parent = ownId v4 ∧ (ctxU v4 (0#4)).sealSt.offers.length < ((hdr 0 1) : SealHdr).children.toNat)
    ∧ ((ctxU v5 (0#4)).sealSt.hdr = some ((hdr 0 1) : SealHdr) ∧ mayPrepare v5 (0#4) = true ∧ (ctxU v5 (0#4)).sealSt.ready = false ∧ twinState v5 ≠ 2 ∧ mirrorDone v5 (0#4) = true ∧ sumsHere v5 (0#4) = true ∧ ((hdr 0 1) : SealHdr).children.toNat ≤ (ctxU v5 (0#4)).sealSt.offers.length ∧ ((hdr 0 1) : SealHdr).parent = ownId v5 ∧ (offerMsg v5 (0#4)).ok = true) := by
  and_intros <;> decide +kernel
theorem test_witness_SealMessagesComplete_18_2 :
    ((ctxU v6 (0#4)).sealSt.hdr = some ((hdr 0 2) : SealHdr) ∧ mayPrepare v6 (0#4) = true ∧ (ctxU v6 (0#4)).sealSt.ready = false ∧ twinState v6 ≠ 2 ∧ mirrorDone v6 (0#4) = true ∧ sumsHere v6 (0#4) = true ∧ ((hdr 0 2) : SealHdr).children.toNat ≤ (ctxU v6 (0#4)).sealSt.offers.length ∧ ((hdr 0 2) : SealHdr).parent = ownId v6 ∧ (offerMsg v6 (0#4)).ok = false ∧ (offerMsg v6 (0#4)).uncurable = false ∧ (ctxU v6 (0#4)).sealSt.retries < fld (relCfg v6 (0#4)) 21 18)
    ∧ ((ctxU v7 (0#4)).sealSt.hdr = some ((hdr 0 2) : SealHdr) ∧ mayPrepare v7 (0#4) = true ∧ (ctxU v7 (0#4)).sealSt.ready = false ∧ twinState v7 ≠ 2 ∧ mirrorDone v7 (0#4) = true ∧ sumsHere v7 (0#4) = true ∧ ((hdr 0 2) : SealHdr).children.toNat ≤ (ctxU v7 (0#4)).sealSt.offers.length ∧ ((hdr 0 2) : SealHdr).parent = ownId v7 ∧ (offerMsg v7 (0#4)).ok = false ∧ ((offerMsg v7 (0#4)).uncurable = true ∨ fld (relCfg v7 (0#4)) 21 18 ≤ (ctxU v7 (0#4)).sealSt.retries))
    ∧ (forOpen v8 (0#4) (6#32) = true ∧ (ctxU v8 (0#4)).sealSt.hdr = none)
    ∧ (v9.ctx = (0#4) ∧ forOpen v8 (0#4) v9.epoch = false) := by
  and_intros <;> decide +kernel
theorem test_witness_SealMessagesComplete_18_3 :
    (v11.ctx = (0#4) ∧ forOpen v10 (0#4) v11.epoch = true ∧ (ctxU v10 (0#4)).sealSt.hdr = some ((hdr 0 1) : SealHdr) ∧ ((hdr 0 1) : SealHdr).parent = ownId v10 ∧ (ctxU v10 (0#4)).sealSt.offered = true ∧ (ctxU v10 (0#4)).sealSt.pendingGo = none ∧ v11.milestone = (ctxU v10 (0#4)).milestone ∧ (((hdr 0 1) : SealHdr).children.toNat ≤ { hdr := (ctxU v10 (0#4)).sealSt.hdr, ready := (ctxU v10 (0#4)).sealSt.ready, offered := (ctxU v10 (0#4)).sealSt.offered, kids := if (ctxU v10 (0#4)).sealSt.kids.contains (9 : DevId) = true then (ctxU v10 (0#4)).sealSt.kids else (ctxU v10 (0#4)).sealSt.kids ++ [(9 : DevId)], offers := List.filter (fun o => o.1 != (9 : DevId)) (ctxU v10 (0#4)).sealSt.offers ++ [((9 : DevId), { ctx := v11.ctx, epoch := v11.epoch, ok := v11.ok && v11.milestone == (ctxU v10 (0#4)).milestone, invalid := v11.invalid, uncurable := v11.uncurable, milestone := v11.milestone : OfferMsg })], pendingGo := (ctxU v10 (0#4)).sealSt.pendingGo, lastGo := (ctxU v10 (0#4)).sealSt.lastGo, retries := (ctxU v10 (0#4)).sealSt.retries, detect := (ctxU v10 (0#4)).sealSt.detect, uncurable := (ctxU v10 (0#4)).sealSt.uncurable, lateDet := (ctxU v10 (0#4)).sealSt.lateDet, sums := (ctxU v10 (0#4)).sealSt.sums, mirrorBad := (ctxU v10 (0#4)).sealSt.mirrorBad, withdrawn := (ctxU v10 (0#4)).sealSt.withdrawn, owedAcks := (ctxU v10 (0#4)).sealSt.owedAcks, recallsOut := (ctxU v10 (0#4)).sealSt.recallsOut, heldWithdraws := (ctxU v10 (0#4)).sealSt.heldWithdraws, queried := (ctxU v10 (0#4)).sealSt.queried, stampNo := (ctxU v10 (0#4)).sealSt.stampNo, replayed := (ctxU v10 (0#4)).sealSt.replayed, ringSat := (ctxU v10 (0#4)).sealSt.ringSat, fbCount := (ctxU v10 (0#4)).sealSt.fbCount : SealS }.offers.length) ∧ ownOk v10 (0#4) = true ∧ (({ hdr := (ctxU v10 (0#4)).sealSt.hdr, ready := (ctxU v10 (0#4)).sealSt.ready, offered := (ctxU v10 (0#4)).sealSt.offered, kids := if (ctxU v10 (0#4)).sealSt.kids.contains (9 : DevId) = true then (ctxU v10 (0#4)).sealSt.kids else (ctxU v10 (0#4)).sealSt.kids ++ [(9 : DevId)], offers := List.filter (fun o => o.1 != (9 : DevId)) (ctxU v10 (0#4)).sealSt.offers ++ [((9 : DevId), { ctx := v11.ctx, epoch := v11.epoch, ok := v11.ok && v11.milestone == (ctxU v10 (0#4)).milestone, invalid := v11.invalid, uncurable := v11.uncurable, milestone := v11.milestone : OfferMsg })], pendingGo := (ctxU v10 (0#4)).sealSt.pendingGo, lastGo := (ctxU v10 (0#4)).sealSt.lastGo, retries := (ctxU v10 (0#4)).sealSt.retries, detect := (ctxU v10 (0#4)).sealSt.detect, uncurable := (ctxU v10 (0#4)).sealSt.uncurable, lateDet := (ctxU v10 (0#4)).sealSt.lateDet, sums := (ctxU v10 (0#4)).sealSt.sums, mirrorBad := (ctxU v10 (0#4)).sealSt.mirrorBad, withdrawn := (ctxU v10 (0#4)).sealSt.withdrawn, owedAcks := (ctxU v10 (0#4)).sealSt.owedAcks, recallsOut := (ctxU v10 (0#4)).sealSt.recallsOut, heldWithdraws := (ctxU v10 (0#4)).sealSt.heldWithdraws, queried := (ctxU v10 (0#4)).sealSt.queried, stampNo := (ctxU v10 (0#4)).sealSt.stampNo, replayed := (ctxU v10 (0#4)).sealSt.replayed, ringSat := (ctxU v10 (0#4)).sealSt.ringSat, fbCount := (ctxU v10 (0#4)).sealSt.fbCount : SealS }.offers.all fun o => o.2.ok) = true))
    ∧ ((⟨0, 6, 2000, false, 3⟩ : GoMsg).ctx = (0#4) ∧ forOpen v12 (0#4) (⟨0, 6, 2000, false, 3⟩ : GoMsg).epoch = true ∧ (ctxU v12 (0#4)).sealSt.hdr ≠ none ∧ (ctxU v12 (0#4)).sealSt.pendingGo = none ∧ (⟨0, 6, 2000, false, 3⟩ : GoMsg).milestone = (ctxU v12 (0#4)).milestone ∧ BitVec.toNat v12.rack ≤ BitVec.toNat (⟨0, 6, 2000, false, 3⟩ : GoMsg).commitAt)
    ∧ ((⟨0, 6, 2000, false, 4⟩ : GoMsg).ctx = (0#4) ∧ forOpen v12 (0#4) (⟨0, 6, 2000, false, 4⟩ : GoMsg).epoch = true ∧ (ctxU v12 (0#4)).sealSt.hdr ≠ none ∧ (ctxU v12 (0#4)).sealSt.pendingGo = none ∧ (⟨0, 6, 2000, false, 4⟩ : GoMsg).milestone ≠ (ctxU v12 (0#4)).milestone)
    ∧ ((⟨0, 7, 2000, false, 4⟩ : GoMsg).ctx = (0#4) ∧ (forOpen v12 (0#4) (⟨0, 7, 2000, false, 4⟩ : GoMsg).epoch = false ∨ (ctxU v12 (0#4)).sealSt.hdr = none ∨ (ctxU v12 (0#4)).sealSt.pendingGo ≠ none))
    ∧ ((ctxU v13 (0#4)).sealSt.hdr = some ((hdr 0 1) : SealHdr) ∧ (decide (((hdr 0 1) : SealHdr).parent = ownId v13) && (ctxU v13 (0#4)).sealSt.offered && (ctxU v13 (0#4)).sealSt.pendingGo.isNone && decide ((ctxU v13 (0#4)).sealSt.offers.length < ((hdr 0 1) : SealHdr).children.toNat)) = true ∧ (((hdr 0 1) : SealHdr).parent = ownId v13 ∨ (ctxU v13 (0#4)).sealSt.offered = false ∨ (ctxU v13 (0#4)).sealSt.pendingGo ≠ none ∨ sealState (ctxU v13 (0#4)) = 5)) := by
  and_intros <;> decide +kernel
theorem test_witness_SealMessagesComplete_18_4 :
    ((ctxU v12 (0#4)).sealSt.hdr = some ((hdr 5 1) : SealHdr) ∧ (decide (((hdr 5 1) : SealHdr).parent = ownId v12) && (ctxU v12 (0#4)).sealSt.offered && (ctxU v12 (0#4)).sealSt.pendingGo.isNone && decide ((ctxU v12 (0#4)).sealSt.offers.length < ((hdr 5 1) : SealHdr).children.toNat)) = false ∧ ((hdr 5 1) : SealHdr).parent ≠ ownId v12 ∧ (ctxU v12 (0#4)).sealSt.offered = true ∧ (ctxU v12 (0#4)).sealSt.pendingGo = none ∧ sealState (ctxU v12 (0#4)) ≠ 5)
    ∧ ((ctxU v14 (0#4)).sealSt.lastGo = some (⟨0, 5, 2000, false, 3⟩ : GoMsg) ∧ (⟨0, 5, 2000, false, 3⟩ : GoMsg).epoch = (5#32))
    ∧ ((ctxU v15 (0#4)).sealSt.lastGo = none ∧ forOpen v15 (0#4) (6#32) = true ∧ sealState (ctxU v15 (0#4)) = 5)
    ∧ ((ctxU v16 (0#4)).sealSt.lastGo = none ∧ forOpen v16 (0#4) (6#32) = true ∧ (forOpen v16 (0#4) (6#32) = false ∨ sealState (ctxU v16 (0#4)) ≠ 5))
    ∧ ((forOpen v16 (0#4) (7#32) = false ∨ (ctxU v16 (0#4)).sealSt.withdrawn = false) ∧ (forOpen v16 (0#4) (7#32) = false ∨ (ctxU v16 (0#4)).sealSt.pendingGo ≠ none) ∧ forOpen v16 (0#4) (7#32) = false)
    ∧ (forOpen v17 (0#4) (6#32) = true ∧ (ctxU v17 (0#4)).sealSt.withdrawn = true ∧ (ctxU v17 (0#4)).sealSt.ready = false ∧ (ctxU v17 (0#4)).sealSt.offered = false ∧ (ctxU v17 (0#4)).sealSt.pendingGo = none)
    ∧ findCv v18 (0#4) (7#8) (5#32) = none
    ∧ (findCv v18 (0#4) (7#8) (6#32) = some v19 ∧ (forOpen v18 (0#4) (6#32) = false ∨ (0#128) = if true = true then v19.recv else v19.sent) ∧ forOpen v18 (0#4) (6#32) = true) := by
  and_intros <;> decide +kernel
theorem test_witness_SealMessagesComplete_18_5 :
    (findCv v18 (0#4) (7#8) (6#32) = some v19 ∧ forOpen v18 (0#4) (6#32) = true ∧ ((1#128) ≠ if true = true then v19.recv else v19.sent) ∧ sliceLaunches v18 v19 = [] ∧ v19.state ≠ 3#3 ∧ v19.gen < 15)
    ∧ (findCv v20 (0#4) (7#8) (6#32) = some cvd ∧ forOpen v20 (0#4) (6#32) = true ∧ ((1#128) ≠ if true = true then cvd.recv else cvd.sent) ∧ sliceLaunches v20 cvd = [4] ∧ findLaunch v20 4 = some ((mkLaunch 4 0) : LaunchS) ∧ ((mkLaunch 4 0) : LaunchS).state = LState.running ∧ ((mkLaunch 4 0) : LaunchS).recalls + 1 ≤ fld (relCfg v20 ((mkLaunch 4 0) : LaunchS).ctx) 25 22 ∧ launchCaravans v20 ((mkLaunch 4 0) : LaunchS) = [cvd] ∧ cvd.state = 1#3 ∧ cvd.gen < 15) := by
  and_intros <;> decide +kernel
end Sys2Proof.Tests.W18

namespace Sys2Proof.Tests.W19
open Sys2Proof.Tests.W
def hdr (par : DevId) (kids : Nat) : SealHdr := { timeout := 100, recBase := 0x30000, slots := 4, stride := 1, margin := 3, children := BitVec.ofNat 10 kids, parent := par, root := par }
def go : GoMsg := ⟨0, 6, 2000, false, 3⟩
def sx : SealS := { SealS.reset with hdr := some (hdr 5 0), offered := true, pendingGo := some go, replayed := true }
def lstaged : Layer := { ly with st := { LayerSt.fresh with named := true, staged := true } }
def lskip : Layer := { mkLayer 2 8 8 0 false false true 8 1 3 2 with st := { LayerSt.fresh with named := true, skipped := true } }
def lz : LaunchS := mkLaunch 0 3
def old : LaunchS := { mkLaunch 1 1 with state := .ended }
def eo : Entry := { Entry.reset with town := 0x80000009, amax := 7, sat := 3, blocks := 1, heldCfg := some 5, thist := [(1, 0x8003)] }
def cS (x : SealS) (ls : Tab Layer) (r : Nat) : State := running 0 (withCore 3 { CoreU.reset with entries := [(9, eo)] } (withLaunch old (withLaunch lz (withCtx 0 { cx with sealSt := x, sealW := 0x2000, layers := ls, policyHeld := some 2 } (withPort 0 up { s0 with rack := BitVec.ofNat 64 r })))))
def lb : Layer := mkLayer 1 8 8 0 false false true 0 1 3 2
def lu : Layer := { lb with words := lb.words.set 8 (BitVec.ofNat 32 (stateEnd lb)), st := { LayerSt.fresh with named := true, applying := true, outcome := 0 } }
def cA (n : Nat) (u : ArrU) : State := putMem (lStaging lu) (List.range 64 |>.map (BitVec.ofNat 8 ·)) (putMem (rowListAddr lu) [2] (putMem (stgDirty lu) [5] (putMem (stgShadow lu) [1,2,3,4,5,6] (putMem (tailAddr lu + 12) [3] (putMem (lStaging lu + 128) [9,8,7,6] (withArr 0 u (withCtx 0 { cx with sealW := BitVec.ofNat 32 (0x3000 + n), layers := [(1, lu)] } s0)))))))
def v1 : State := (cS sx [(1, lstaged), (2, lskip)] 1000)
def v2 : State := (cS { sx with pendingGo := none } [(1, lstaged), (2, lskip)] 5000)
theorem test_witness_CommitAndApplyComplete_19_1 :
    (ctxU s0 (0#4)).sealSt.pendingGo = none
    ∧ ((ctxU v1 (0#4)).sealSt.hdr = some ((hdr 5 0) : SealHdr) ∧ go.ctx = (0#4) ∧ go.epoch = openEpoch (ctxU v1 (0#4)) ∧ v1.launches = lz :: ([old] : List LaunchS) ∧ ((([old] : List LaunchS).all fun x => x.ctx == (0#4) && x.epoch == openEpoch (ctxU v1 (0#4)) && x.kind != 3#4 && x.state == LState.ended && x.uid != lz.uid) = true) ∧ lz.ctx = (0#4) ∧ lz.epoch = openEpoch (ctxU v1 (0#4)) ∧ lz.kind = 3#4 ∧ lz.state = LState.running ∧ lz.update = none ∧ v1.host.running = [{ pkt := W.lp, task := Task.launch lz.uid : Run }] ∧ W.lp.muted = false ∧ twinState v1 ≠ 2 ∧ ((List.map (fun x => x.1) (ctxU v1 (0#4)).layers).Nodup) ∧ (∀ x ∈ (ctxU v1 (0#4)).layers, lNum x.2 = x.1) ∧ inStacks v1 (BitVec.toNat ((hdr 5 0) : SealHdr).recBase + slotOffset ((hdr 5 0) : SealHdr) (openEpoch (ctxU v1 (0#4)))) (((hdr 5 0) : SealHdr).stride.toNat * 1024) = true ∧ aloof v1 (BitVec.toNat ((hdr 5 0) : SealHdr).recBase + slotOffset ((hdr 5 0) : SealHdr) (openEpoch (ctxU v1 (0#4)))) (((hdr 5 0) : SealHdr).stride.toNat * 1024) (BitVec.toNat ((hdr 5 0) : SealHdr).recBase + slotOffset ((hdr 5 0) : SealHdr) (openEpoch (ctxU v1 (0#4)))) (((hdr 5 0) : SealHdr).stride.toNat * 1024) ∧ 1 ≤ ((hdr 5 0) : SealHdr).stride.toNat ∧ (false = true → forOpen v1 (0#4) (openEpoch (ctxU v1 (0#4))) = true ∧ (ctxU v1 (0#4)).sealSt.pendingGo = none ∧ go.milestone = (ctxU v1 (0#4)).milestone ∧ BitVec.toNat go.commitAt < BitVec.toNat v1.rack) ∧ (false = false → (ctxU v1 (0#4)).sealSt.pendingGo = some go)) := by
  and_intros <;> decide +kernel
theorem test_witness_CommitAndApplyComplete_19_2 :
    ((ctxU v2 (0#4)).sealSt.hdr = some ((hdr 5 0) : SealHdr) ∧ go.ctx = (0#4) ∧ go.epoch = openEpoch (ctxU v2 (0#4)) ∧ v2.launches = lz :: ([old] : List LaunchS) ∧ ((([old] : List LaunchS).all fun x => x.ctx == (0#4) && x.epoch == openEpoch (ctxU v2 (0#4)) && x.kind != 3#4 && x.state == LState.ended && x.uid != lz.uid) = true) ∧ lz.ctx = (0#4) ∧ lz.epoch = openEpoch (ctxU v2 (0#4)) ∧ lz.kind = 3#4 ∧ lz.state = LState.running ∧ lz.update = none ∧ v2.host.running = [{ pkt := W.lp, task := Task.launch lz.uid : Run }] ∧ W.lp.muted = false ∧ twinState v2 ≠ 2 ∧ ((List.map (fun x => x.1) (ctxU v2 (0#4)).layers).Nodup) ∧ (∀ x ∈ (ctxU v2 (0#4)).layers, lNum x.2 = x.1) ∧ inStacks v2 (BitVec.toNat ((hdr 5 0) : SealHdr).recBase + slotOffset ((hdr 5 0) : SealHdr) (openEpoch (ctxU v2 (0#4)))) (((hdr 5 0) : SealHdr).stride.toNat * 1024) = true ∧ aloof v2 (BitVec.toNat ((hdr 5 0) : SealHdr).recBase + slotOffset ((hdr 5 0) : SealHdr) (openEpoch (ctxU v2 (0#4)))) (((hdr 5 0) : SealHdr).stride.toNat * 1024) (BitVec.toNat ((hdr 5 0) : SealHdr).recBase + slotOffset ((hdr 5 0) : SealHdr) (openEpoch (ctxU v2 (0#4)))) (((hdr 5 0) : SealHdr).stride.toNat * 1024) ∧ 1 ≤ ((hdr 5 0) : SealHdr).stride.toNat ∧ (true = true → forOpen v2 (0#4) (openEpoch (ctxU v2 (0#4))) = true ∧ (ctxU v2 (0#4)).sealSt.pendingGo = none ∧ go.milestone = (ctxU v2 (0#4)).milestone ∧ BitVec.toNat go.commitAt < BitVec.toNat v2.rack) ∧ (true = false → (ctxU v2 (0#4)).sealSt.pendingGo = some go))
    ∧ ((List.all (ctxU s0 (0#4)).layers fun x => !x.2.st.applying) = true) := by
  and_intros <;> decide +kernel
theorem test_witness_CommitAndApplyComplete_19_3 :
    ((List.find? (fun x => x.2.st.applying) (ctxU ((cA 1 act) : State) (0#4)).layers = some (1, lu)) ∧ layerRec ((cA 1 act) : State) (0#4) 1 = some lu ∧ inStacks ((cA 1 act) : State) (lState lu) (lStateLen lu) = true ∧ inStacks ((cA 1 act) : State) (lShadow lu) (lOut lu * lIn lu) = true ∧ (∀ x ∈ [(lState lu, lStateLen lu), (lShadow lu, lOut lu * lIn lu), (lStaging lu, stgEnd lu - lStaging lu)], ∀ y ∈ [(lState lu, lStateLen lu), (lShadow lu, lOut lu * lIn lu), (lStaging lu, stgEnd lu - lStaging lu)], aloof ((cA 1 act) : State) x.1 x.2 y.1 y.2) ∧ inStacks ((cA 1 act) : State) (lStaging lu) (stgEnd lu - lStaging lu) = true ∧ rangePoisoned (checkFor (0#4) CheckSeen.good (applyReads lu (ctxU ((cA 1 act) : State) (0#4)).epoch ((cA 1 act) : State)) ((cA 1 act) : State)).2 (lStaging lu) (stgEnd lu - lStaging lu) = false ∧ stateEnd lu = lStateLen lu ∧ lRank lu = 0 ∧ apart (lState lu) (lStateLen lu) (lStaging lu) (stgEnd lu - lStaging lu) ∧ apart (lShadow lu) (lOut lu * lIn lu) (lStaging lu) (stgEnd lu - lStaging lu) ∧ apart (lState lu) (lStateLen lu) (lShadow lu) (lOut lu * lIn lu))
    ∧ ((List.find? (fun x => x.2.st.applying) (ctxU ((sealL lu (cA 1 act)) : State) (0#4)).layers = some (1, lu)) ∧ layerRec ((sealL lu (cA 1 act)) : State) (0#4) 1 = some lu ∧ inStacks ((sealL lu (cA 1 act)) : State) (lState lu) (lStateLen lu) = true ∧ inStacks ((sealL lu (cA 1 act)) : State) (lShadow lu) (lOut lu * lIn lu) = true ∧ (∀ x ∈ [(lState lu, lStateLen lu), (lShadow lu, lOut lu * lIn lu), (lStaging lu, stgEnd lu - lStaging lu)], ∀ y ∈ [(lState lu, lStateLen lu), (lShadow lu, lOut lu * lIn lu), (lStaging lu, stgEnd lu - lStaging lu)], aloof ((sealL lu (cA 1 act)) : State) x.1 x.2 y.1 y.2) ∧ inStacks ((sealL lu (cA 1 act)) : State) (lStaging lu) (stgEnd lu - lStaging lu) = true ∧ rangePoisoned (checkFor (0#4) CheckSeen.mismatch (applyReads lu (ctxU ((sealL lu (cA 1 act)) : State) (0#4)).epoch ((sealL lu (cA 1 act)) : State)) ((sealL lu (cA 1 act)) : State)).2 (lStaging lu) (stgEnd lu - lStaging lu) = false ∧ stateEnd lu = lStateLen lu ∧ lRank lu = 0 ∧ apart (lState lu) (lStateLen lu) (lStaging lu) (stgEnd lu - lStaging lu) ∧ apart (lShadow lu) (lOut lu * lIn lu) (lStaging lu) (stgEnd lu - lStaging lu) ∧ apart (lState lu) (lStateLen lu) (lShadow lu) (lOut lu * lIn lu)) := by
  and_intros <;> decide +kernel
theorem test_witness_CommitAndApplyComplete_19_4 :
    ((List.find? (fun x => x.2.st.applying) (ctxU ((sealL lu (cA 1 act)) : State) (0#4)).layers = some (1, lu)) ∧ layerRec ((sealL lu (cA 1 act)) : State) (0#4) 1 = some lu ∧ inStacks ((sealL lu (cA 1 act)) : State) (lState lu) (lStateLen lu) = true ∧ inStacks ((sealL lu (cA 1 act)) : State) (lShadow lu) (lOut lu * lIn lu) = true ∧ (∀ x ∈ [(lState lu, lStateLen lu), (lShadow lu, lOut lu * lIn lu), (lStaging lu, stgEnd lu - lStaging lu)], ∀ y ∈ [(lState lu, lStateLen lu), (lShadow lu, lOut lu * lIn lu), (lStaging lu, stgEnd lu - lStaging lu)], aloof ((sealL lu (cA 1 act)) : State) x.1 x.2 y.1 y.2) ∧ inStacks ((sealL lu (cA 1 act)) : State) (lStaging lu) (stgEnd lu - lStaging lu) = true ∧ rangePoisoned (checkFor (0#4) CheckSeen.atRest (applyReads lu (ctxU ((sealL lu (cA 1 act)) : State) (0#4)).epoch ((sealL lu (cA 1 act)) : State)) ((sealL lu (cA 1 act)) : State)).2 (lStaging lu) (stgEnd lu - lStaging lu) = false ∧ stateEnd lu = lStateLen lu ∧ lRank lu = 0 ∧ apart (lState lu) (lStateLen lu) (lStaging lu) (stgEnd lu - lStaging lu) ∧ apart (lShadow lu) (lOut lu * lIn lu) (lStaging lu) (stgEnd lu - lStaging lu) ∧ apart (lState lu) (lStateLen lu) (lShadow lu) (lOut lu * lIn lu))
    ∧ ((List.find? (fun x => x.2.st.applying) (ctxU ((sealL lu (cA 1 act)) : State) (0#4)).layers = some (1, lu)) ∧ layerRec ((sealL lu (cA 1 act)) : State) (0#4) 1 = some lu ∧ inStacks ((sealL lu (cA 1 act)) : State) (lState lu) (lStateLen lu) = true ∧ inStacks ((sealL lu (cA 1 act)) : State) (lShadow lu) (lOut lu * lIn lu) = true ∧ (∀ x ∈ [(lState lu, lStateLen lu), (lShadow lu, lOut lu * lIn lu), (lStaging lu, stgEnd lu - lStaging lu)], ∀ y ∈ [(lState lu, lStateLen lu), (lShadow lu, lOut lu * lIn lu), (lStaging lu, stgEnd lu - lStaging lu)], aloof ((sealL lu (cA 1 act)) : State) x.1 x.2 y.1 y.2) ∧ inStacks ((sealL lu (cA 1 act)) : State) (lStaging lu) (stgEnd lu - lStaging lu) = true ∧ rangePoisoned (checkFor (0#4) ((.hdrBad true 1) : CheckSeen) (applyReads lu (ctxU ((sealL lu (cA 1 act)) : State) (0#4)).epoch ((sealL lu (cA 1 act)) : State)) ((sealL lu (cA 1 act)) : State)).2 (lStaging lu) (stgEnd lu - lStaging lu) = false ∧ stateEnd lu = lStateLen lu ∧ lRank lu = 0 ∧ apart (lState lu) (lStateLen lu) (lStaging lu) (stgEnd lu - lStaging lu) ∧ apart (lShadow lu) (lOut lu * lIn lu) (lStaging lu) (stgEnd lu - lStaging lu) ∧ apart (lState lu) (lStateLen lu) (lShadow lu) (lOut lu * lIn lu)) := by
  and_intros <;> decide +kernel
end Sys2Proof.Tests.W19

namespace Sys2Proof.Tests.W20
open Sys2Proof.Tests.W
def lyc : Layer := mkLayer 1 8 8 0 false false true 0 1 40 3
def ringS (n pos : Nat) (ly : Layer) : State :=
  putMem 0x2000 (leBytes 4 5 ++ leBytes 4 0 ++ leBytes 4 8 ++ leBytes 4 9)
   (onFab (fun f => { f with ringCfg := [(2, BitVec.ofNat 32 (2^27 + n * 2^13 + pos))], ringLo := [(2, 0x2000)], cvtabLo := 0x100000 })
   (withCtx 0 { cx with layers := [(1, ly)] } (withPort 0 up (withPort 5 up { s0 with rack := 1000 }))))
def ent (c : Nat) (sl : Nat) : List Byte := leBytes 4 6 ++ leBytes 4 (c * 2^28 + 2 * 2^24 + 100 * 2^16 + sl * 2^12 + 1) ++ leBytes 8 0x50000 ++ leBytes 4 (9 * 2^16 + 1) ++ leBytes 4 (8*2^16+1) ++ List.replicate 24 0 ++ leBytes 8 noAddr ++ leBytes 8 0x60000 ++ List.replicate 64 7
def base := ringS 4 1 lyc
def e0 := cvEntry base 7 6
def good := putMem 0x60000 [0xFF,1,2] (putMem e0 (ent 0 1) base)
def mkC (s : State) : Caravan := readCaravan s 0 7 6
def withV (v : Caravan) (s : State) : State := onFab (fun f => { f with caravans := [v] }) s
def ck : Caravan := mkC good
def rowD (k : Nat) : List (Option Dy) := (List.range 64).map fun i => some ⟨Int.ofNat (i + k), -3⟩
def cr : Caravan := { ck with counts := [(0,1)], exact := [(0, [(0, rowD 1), (2, rowD 5)])] }
def g0 (p : Nat) (n : Nat) : State := withV cr (putMem e0 (ent 0 1) (ringS n p lyc))
def pkx (s : State) (p : Nat) (ga : Bool) (hop : Nat) : CvPkt := { src := ringPrev s 2, ctx := 0, job := 77, epoch := 6, hop := hop, poison := false, caravan := 7, gather := ga, half := false, resv := false, gen := 0, tile := 0, rowmap := 5, s := 100, blocks := (List.range 132).map fun i => if i % 33 = 0 then 0 else BitVec.ofNat 8 i }
def v1 : State := (putMem e0 (ent 1 1) base)
def v2 : State := (withV { cr with counts := [] } good)
def v3 : Caravan := { cr with counts := [] }
def v4 : CvPkt := { pkx good 1 false 1 with job := 9 }
def v5 : State := (withV { cr with gen := 2 } (g0 1 4))
def v6 : State := (withV { cr with state := 3 } (g0 1 4))
theorem test_witness_CaravanRowsComplete_20_1 :
    (findCv good (0#4) (7#8) (6#32) = none ∧ inStacks good (cvEntry good (7#8) (6#32)) 128 = true ∧ caravanBad good (readCaravan good (0#4) (7#8) (6#32)) = false ∧ (inStacks good (readCaravan good (0#4) (7#8) (6#32)).bitmap ((fun v => (v.rows + 7) / 8) (readCaravan good (0#4) (7#8) (6#32))) = true) ∧ (apart (readCaravan good (0#4) (7#8) (6#32)).bitmap ((fun v => (v.rows + 7) / 8) (readCaravan good (0#4) (7#8) (6#32))) (cvEntry good (7#8) (6#32) + 64) 64) ∧ (aloof good (cvEntry good (7#8) (6#32) + 64) 64 (readCaravan good (0#4) (7#8) (6#32)).bitmap ((fun v => (v.rows + 7) / 8) (readCaravan good (0#4) (7#8) (6#32)))))
    ∧ (findCv v1 (0#4) (7#8) (6#32) = none ∧ inStacks v1 (cvEntry v1 (7#8) (6#32)) 128 = true ∧ caravanBad v1 (readCaravan v1 (0#4) (7#8) (6#32)) = true ∧ (ctxU v1 (0#4)).sealSt.hdr = none)
    ∧ (inStacks base (cvEntry base (7#8) (6#32)) 4 = true ∧ ((base.fab.waiting.all fun w => !(w.pkt.caravan == (7#8) && w.pkt.epoch == (6#32))) = true))
    ∧ ((List.filter (fun v => v.n == (7#8) && v.epoch == (6#32)) ((g0 2 4) : State).fab.caravans = [cr]) ∧ cr.ctx = (0#4) ∧ cr.state = 1#3 ∧ (0#24).toNat < tileCount cr ∧ tileIsReady ((g0 2 4) : State) cr (0#24).toNat = true ∧ cr.halves = [] ∧ (startsChain ((g0 2 4) : State) cr (0#24).toNat = false ∨ (0#24).toNat ∈ cr.started)) := by
  and_intros <;> decide +kernel
theorem test_witness_CaravanRowsComplete_20_2 :
    ((List.filter (fun v => v.n == (7#8) && v.epoch == (6#32)) ((g0 1 4) : State).fab.caravans = [cr]) ∧ cr.ctx = (0#4) ∧ cr.state = 1#3 ∧ (0#24).toNat < tileCount cr ∧ tileIsReady ((g0 1 4) : State) cr (0#24).toNat = true ∧ cr.halves = [] ∧ startsChain ((g0 1 4) : State) cr (0#24).toNat = true ∧ (0#24).toNat ∉ cr.started ∧ 1 < ringN ((g0 1 4) : State) cr.ring ∧ cr.interval = false ∧ route ((g0 1 4) : State) (homeDie ((g0 1 4) : State) cr (0#24).toNat) (ringNext ((g0 1 4) : State) cr.ring) (((0#24).toNat + (7#8).toNat) % 16) = some 0)
    ∧ ((List.filter (fun v => v.n == (7#8) && v.epoch == (6#32)) ((g0 0 1) : State).fab.caravans = [cr]) ∧ cr.ctx = (0#4) ∧ cr.state = 1#3 ∧ (0#24).toNat < tileCount cr ∧ tileIsReady ((g0 0 1) : State) cr (0#24).toNat = true ∧ cr.halves = [] ∧ startsChain ((g0 0 1) : State) cr (0#24).toNat = true ∧ (0#24).toNat ∉ cr.started ∧ ringN ((g0 0 1) : State) cr.ring ≤ 1 ∧ tileCount cr = 1 ∧ cr.final = [])
    ∧ ((List.filter (fun v => v.n == (7#8) && v.epoch == (6#32)) v2.fab.caravans = [v3]) ∧ v3.ctx = (0#4) ∧ (v3.state ≠ 1#3 ∨ tileCount v3 ≤ (0#24).toNat ∨ tileIsReady v2 v3 (0#24).toNat = false) ∧ v3.state = 1#3 ∧ (0#24).toNat < tileCount v3) := by
  and_intros <;> decide +kernel
theorem test_witness_CaravanRowsComplete_20_3 :
    (3 < 18 ∧ v4.caravan = (7#8) ∧ v4.epoch = (6#32) ∧ ctxOfJob good v4.job = none)
    ∧ (3 < 18 ∧ ((pkx good 1 false 1) : CvPkt).caravan = (7#8) ∧ ((pkx good 1 false 1) : CvPkt).epoch = (6#32) ∧ ctxOfJob base ((pkx good 1 false 1) : CvPkt).job = some (0#4) ∧ findCv base (0#4) (7#8) (6#32) = none ∧ BitVec.toNat (readWord base (cvEntry base (7#8) (6#32))) < BitVec.toNat (6#32))
    ∧ (3 < 18 ∧ ((pkx good 1 false 9) : CvPkt).caravan = (7#8) ∧ ((pkx good 1 false 9) : CvPkt).epoch = (6#32) ∧ ctxOfJob ((g0 1 4) : State) ((pkx good 1 false 9) : CvPkt).job = some (0#4) ∧ findCv ((g0 1 4) : State) (0#4) (7#8) (6#32) = some cr ∧ cr.state ≠ 3#3 ∧ ((pkx good 1 false 9) : CvPkt).gen.toNat = cr.gen ∧ packetFault ((g0 1 4) : State) cr ((pkx good 1 false 9) : CvPkt) = some 3 ∧ inStacks ((g0 1 4) : State) (cvEntry ((g0 1 4) : State) (7#8) (6#32)) 128 = true ∧ (ctxU ((g0 1 4) : State) (0#4)).sealSt.hdr = none)
    ∧ (3 < 18 ∧ ((pkx good 1 false 9) : CvPkt).caravan = (7#8) ∧ ((pkx good 1 false 9) : CvPkt).epoch = (6#32) ∧ ctxOfJob v5 ((pkx good 1 false 9) : CvPkt).job = some (0#4) ∧ findCv v5 (0#4) (7#8) (6#32) = some ({ cr with gen := 2 } : Caravan) ∧ ({ cr with gen := 2 } : Caravan).state ≠ 3#3 ∧ ((pkx good 1 false 9) : CvPkt).gen.toNat < ({ cr with gen := 2 } : Caravan).gen) := by
  and_intros <;> decide +kernel
theorem test_witness_CaravanRowsComplete_20_4 :
    3 < 18 ∧ ((pkx good 1 false 9) : CvPkt).caravan = (7#8) ∧ ((pkx good 1 false 9) : CvPkt).epoch = (6#32) ∧ ctxOfJob v6 ((pkx good 1 false 9) : CvPkt).job = some (0#4) ∧ findCv v6 (0#4) (7#8) (6#32) = some ({ cr with state := 3 } : Caravan) ∧ ({ cr with state := 3 } : Caravan).state = 3#3 := 
  by and_intros <;> decide +kernel
end Sys2Proof.Tests.W20

namespace Sys2Proof.Tests.W21
open Sys2Proof.Tests.W
def lyc : Layer := mkLayer 1 8 8 0 false false true 0 1 40 3
def ringS (n pos : Nat) (ly : Layer) : State :=
  putMem 0x2000 (leBytes 4 5 ++ leBytes 4 0 ++ leBytes 4 8 ++ leBytes 4 9)
   (onFab (fun f => { f with ringCfg := [(2, BitVec.ofNat 32 (2^27 + n * 2^13 + pos))], ringLo := [(2, 0x2000)], cvtabLo := 0x100000 })
   (withCtx 0 { cx with layers := [(1, ly)] } (withPort 0 up (withPort 5 up { s0 with rack := 1000 }))))
def ent (c : Nat) (sl : Nat) : List Byte := leBytes 4 6 ++ leBytes 4 (c * 2^28 + 2 * 2^24 + 100 * 2^16 + sl * 2^12 + 1) ++ leBytes 8 0x50000 ++ leBytes 4 (9 * 2^16 + 1) ++ leBytes 4 (8*2^16+1) ++ List.replicate 24 0 ++ leBytes 8 noAddr ++ leBytes 8 0x60000 ++ List.replicate 64 7
def base := ringS 4 1 lyc
def e0 := cvEntry base 7 6
def good := putMem 0x60000 [0xFF,1,2] (putMem e0 (ent 0 1) base)
def mkC (s : State) : Caravan := readCaravan s 0 7 6
def withV (v : Caravan) (s : State) : State := onFab (fun f => { f with caravans := [v] }) s
def ck : Caravan := mkC good
def rowD (k : Nat) : List (Option Dy) := (List.range 64).map fun i => some ⟨Int.ofNat (i + k), -3⟩
def cr : Caravan := { ck with counts := [(0,1)], exact := [(0, [(0, rowD 1), (2, rowD 5)])] }
def g0 (p : Nat) (n : Nat) : State := withV cr (putMem e0 (ent 0 1) (ringS n p lyc))
def pkx (s : State) (p : Nat) (ga : Bool) (hop : Nat) : CvPkt := { src := ringPrev s 2, ctx := 0, job := 77, epoch := 6, hop := hop, poison := false, caravan := 7, gather := ga, half := false, resv := false, gen := 0, tile := 0, rowmap := 5, s := 100, blocks := (List.range 132).map fun i => if i % 33 = 0 then 0 else BitVec.ofNat 8 i }
def c0 : Caravan := { cr with counts := [] }
def full : Caravan := { cr with halves := List.replicate 960 ⟨0, false, false, 1, 0, 0, [], 0, 0⟩, n := 8 }
def gF : State := onFab (fun f => { f with caravans := [cr, full] }) (g0 2 4)
def v1 : State := (onFab (fun f => { f with waiting := [⟨3, pkx good 1 false 1, 0, 0⟩] }) base)
def v2 : CvPkt := (pkx (g0 2 4) 2 false 1)
def v3 : CvPkt := (pkx (g0 3 4) 3 true 3)
def v4 : State := (onFab (fun f => { f with blocked := [(3, pkx (g0 2 4) 2 false 1)] }) (g0 2 4))
theorem test_witness_CaravanRowsComplete_21_1 :
    (inStacks v1 (cvEntry v1 (7#8) (6#32)) 4 = true ∧ 3 < 18 ∧ v1.fab.waiting = [{ port := 3, pkt := ((pkx good 1 false 1) : CvPkt), cluster := 0, slot := 0 : HeldPkt }] ∧ ((pkx good 1 false 1) : CvPkt).caravan = (7#8) ∧ ((pkx good 1 false 1) : CvPkt).epoch = (6#32))
    ∧ (3 < 18 ∧ v2.caravan = (7#8) ∧ v2.epoch = (6#32) ∧ ctxOfJob ((withV c0 (g0 2 4)) : State) v2.job = some (0#4) ∧ findCv ((withV c0 (g0 2 4)) : State) (0#4) (7#8) (6#32) = some c0 ∧ c0.state ≠ 3#3 ∧ v2.gen.toNat = c0.gen ∧ packetFault ((withV c0 (g0 2 4)) : State) c0 v2 = none ∧ c0.interval = false ∧ c0.halves = [] ∧ slotAvailable ((withV c0 (g0 2 4)) : State) (homeCluster ((withV c0 (g0 2 4)) : State) c0 v2.tile.toNat) = true ∧ v2.gather = false ∧ tileIsReady (fillSlot (homeCluster ((withV c0 (g0 2 4)) : State) c0 v2.tile.toNat) (freeSlot ((withV c0 (g0 2 4)) : State) (homeCluster ((withV c0 (g0 2 4)) : State) c0 v2.tile.toNat)) v2 ((withV c0 (g0 2 4)) : State)) c0 v2.tile.toNat = false) := by
  and_intros <;> decide +kernel
theorem test_witness_CaravanRowsComplete_21_2 :
    3 < 18 ∧ v2.caravan = (7#8) ∧ v2.epoch = (6#32) ∧ ctxOfJob ((g0 2 4) : State) v2.job = some (0#4) ∧ findCv ((g0 2 4) : State) (0#4) (7#8) (6#32) = some cr ∧ cr.state ≠ 3#3 ∧ v2.gen.toNat = cr.gen ∧ packetFault ((g0 2 4) : State) cr v2 = none ∧ cr.interval = false ∧ cr.halves = [] ∧ slotAvailable ((g0 2 4) : State) (homeCluster ((g0 2 4) : State) cr v2.tile.toNat) = true ∧ v2.gather = false ∧ tileIsReady (fillSlot (homeCluster ((g0 2 4) : State) cr v2.tile.toNat) (freeSlot ((g0 2 4) : State) (homeCluster ((g0 2 4) : State) cr v2.tile.toNat)) v2 ((g0 2 4) : State)) cr v2.tile.toNat = true ∧ v2.hop + 1 < ringN ((g0 2 4) : State) cr.ring ∧ route (fillSlot (homeCluster ((g0 2 4) : State) cr v2.tile.toNat) (freeSlot ((g0 2 4) : State) (homeCluster ((g0 2 4) : State) cr v2.tile.toNat)) v2 ((g0 2 4) : State)) (homeDie ((g0 2 4) : State) cr v2.tile.toNat) (ringNext (fillSlot (homeCluster ((g0 2 4) : State) cr v2.tile.toNat) (freeSlot ((g0 2 4) : State) (homeCluster ((g0 2 4) : State) cr v2.tile.toNat)) v2 ((g0 2 4) : State)) cr.ring) ((v2.tile.toNat + (7#8).toNat) % 16) = some 0 := 
  by and_intros <;> decide +kernel
theorem test_witness_CaravanRowsComplete_21_3 :
    3 < 18 ∧ v3.caravan = (7#8) ∧ v3.epoch = (6#32) ∧ ctxOfJob ((g0 3 4) : State) v3.job = some (0#4) ∧ findCv ((g0 3 4) : State) (0#4) (7#8) (6#32) = some cr ∧ cr.state ≠ 3#3 ∧ v3.gen.toNat = cr.gen ∧ packetFault ((g0 3 4) : State) cr v3 = none ∧ cr.interval = false ∧ cr.halves = [] ∧ slotAvailable ((g0 3 4) : State) (homeCluster ((g0 3 4) : State) cr v3.tile.toNat) = true ∧ v3.gather = true ∧ ringN ((g0 3 4) : State) cr.ring ≤ v3.hop + 1 ∧ (∀ i ∈ List.filter (rowIn (BitVec.toNat v3.rowmap)) (List.range 32), (64 * (v3.tile.toNat / max 1 (tileCols cr)) + if v3.half = true then 32 else 0) + i < cr.rows) ∧ v3.blocks.length = 33 * tileBlocks cr v3.tile.toNat * (List.filter (rowIn (BitVec.toNat v3.rowmap)) (List.range 32)).length ∧ inStacks ((g0 3 4) : State) cr.result (cr.rows * (33 * (padCols cr.cols / 32))) = true ∧ (inStacks ((g0 3 4) : State) cr.bitmap ((fun v => (v.rows + 7) / 8) cr) = true) ∧ inStacks ((g0 3 4) : State) (cvEntry ((g0 3 4) : State) (7#8) (6#32)) 128 = true ∧ (apart cr.result (cr.rows * (33 * (padCols cr.cols / 32))) cr.bitmap ((fun v => (v.rows + 7) / 8) cr)) ∧ apart cr.result (cr.rows * (33 * (padCols cr.cols / 32))) (cvEntry ((g0 3 4) : State) (7#8) (6#32) + 64) 64 ∧ (apart cr.bitmap ((fun v => (v.rows + 7) / 8) cr) (cvEntry ((g0 3 4) : State) (7#8) (6#32) + 64) 64) ∧ (∀ x ∈ [(cr.result, cr.rows * (33 * (padCols cr.cols / 32))), (cr.bitmap, (fun v => (v.rows + 7) / 8) cr), (cvEntry ((g0 3 4) : State) (7#8) (6#32) + 64, 64)], ∀ y ∈ [(cr.result, cr.rows * (33 * (padCols cr.cols / 32))), (cr.bitmap, (fun v => (v.rows + 7) / 8) cr), (cvEntry ((g0 3 4) : State) (7#8) (6#32) + 64, 64)], aloof ((g0 3 4) : State) x.1 x.2 y.1 y.2) := 
  by and_intros <;> decide +kernel
theorem test_witness_CaravanRowsComplete_21_4 :
    (3 < 18 ∧ v2.caravan = (7#8) ∧ v2.epoch = (6#32) ∧ ctxOfJob gF v2.job = some (0#4) ∧ findCv gF (0#4) (7#8) (6#32) = some cr ∧ cr.state ≠ 3#3 ∧ v2.gen.toNat = cr.gen ∧ packetFault gF cr v2 = none ∧ cr.interval = false ∧ cr.halves = [] ∧ slotAvailable gF (homeCluster gF cr v2.tile.toNat) = false)
    ∧ (3 < 18 ∧ v2.caravan = (7#8) ∧ v2.epoch = (6#32) ∧ 0 < 32 ∧ v4.fab.blocked = [(3, v2)] ∧ ctxOfJob v4 v2.job = some (0#4) ∧ findCv v4 (0#4) (7#8) (6#32) = some cr ∧ homeCluster v4 cr v2.tile.toNat = 0)
    ∧ (31 < 32 ∧ base.fab.blocked = [])
    ∧ (findCv ((g0 2 4) : State) (0#4) (7#8) (6#32) = some cr ∧ cr.state = 1#3 ∧ cr.gen < (3#4).toNat ∧ (∀ i < tileCount cr, startsChain ((g0 2 4) : State) cr i = false) ∧ inStacks ((g0 2 4) : State) (cvEntry ((g0 2 4) : State) (7#8) (6#32)) 128 = true ∧ (inStacks ((g0 2 4) : State) cr.bitmap ((fun v => (v.rows + 7) / 8) cr) = true) ∧ (apart cr.bitmap ((fun v => (v.rows + 7) / 8) cr) (cvEntry ((g0 2 4) : State) (7#8) (6#32) + 64) 64)) := by
  and_intros <;> decide +kernel
theorem test_witness_CaravanRowsComplete_21_5 :
    findCv ((g0 1 4) : State) (0#4) (7#8) (6#32) = some cr ∧ (cr.state = 3#3 ∨ (0#4).toNat ≤ cr.gen) ∧ cr.state = 1#3 := 
  by and_intros <;> decide +kernel
end Sys2Proof.Tests.W21

namespace Sys2Proof.Tests.W23
open Sys2Proof.Tests.W
def hdr (par : DevId) (kids : Nat) : SealHdr := { timeout := 100, recBase := 0x30000, slots := 4, stride := 1, margin := 3, children := BitVec.ofNat 10 kids, parent := par, root := par }
def l0 : LaunchS := { mkLaunch 0 1 with pc := 2, prog := [], gather := [⟨0,0,[],[],false,false,true⟩], verify := [1], pending := [4] }
def qd (u : Nat) : Queued := ⟨u, [], false⟩
def rs (l : LaunchS) (x : SealS) (w : Word) : State :=
  withArr 3 { act with queue := [⟨0,0,8,0,[],[],false,[],0,0,[]⟩] } (withCore 3 { CoreU.reset with passq := [qd 0, qd 1], drain := [⟨qd 0, [], [], 0, false, 0, false⟩], stream := some ⟨qd 0, [], [], 0, false, 0, false⟩, entries := [(9, { Entry.reset with town := 0x80000009, amax := 7 }), (10, { Entry.reset with town := 0x80000008, amax := 7 })] }
   (withLaunch l (withCtx 0 { cx with sealSt := x, sealW := w } (withPort 0 up (withPort 5 up { s0 with rack := 1000 })))))
def R := SealS.reset
def lf : LaunchS := { l0 with signals := [(0, [(5, 7), (5, 8)]), (1, [(5, 7)])] }
def rm (e : Word) : RecallMsg := ⟨0, 4, e, 3, [7]⟩
def v1 : State := (rs { l0 with state := .stopped } R 0x1000)
def v2 : LaunchS := { l0 with state := .stopped }
def v3 : State := (rs { l0 with recalls := 15 } R 0x1000)
def v4 : LaunchS := { l0 with recalls := 15 }
def v5 : List (BitVec 14) := ((forwarded lf).flatMap (·.2))
def v6 : State := (rs l0 { R with hdr := some (hdr 5 1), offered := true } 0x2000)
def v7 : State := (rs l0 { R with withdrawn := true, ready := true } 0x1000)
def v8 : State := (rs { l0 with waits := [7] } R 0x1000)
def v9 : LaunchS := { l0 with waits := [7] }
def v10 : State := (rs { l0 with state := .recalled } R 0x1000)
def v11 : LaunchS := { l0 with state := .recalled }
def v12 : State := (rs { l0 with state := .recalled, awaits := [(9,4)] } R 0x1000)
def v13 : LaunchS := { l0 with state := .recalled, awaits := [(9,4)] }
def v14 : State := (withClus 31 { ClusterU.reset with droop := true, recent := [(0, 1000)] } (rs l0 R 0x1000))
theorem test_witness_RecallRowsComplete_23_1 :
    (findLaunch v1 0 = some v2 ∧ (v2.state = LState.held ∨ v2.state = LState.stopped ∨ v2.state = LState.recalled) ∧ (ctxU v1 v2.ctx).sealSt.offered = false)
    ∧ (findLaunch v3 0 = some v4 ∧ ((v4.state = LState.running ∨ v4.state = LState.ended) ∧ launchCaravans v3 v4 = [] ∧ v4.updated = [] ∧ v4.update = none) ∧ forwarded v4 = [] ∧ (ctxU v3 v4.ctx).sealSt.offered = false ∧ fld (relCfg v3 v4.ctx) 25 22 < v4.recalls + 1)
    ∧ (findLaunch ((rs lf R 0x1000) : State) 0 = some lf ∧ ((lf.state = LState.running ∨ lf.state = LState.ended) ∧ launchCaravans ((rs lf R 0x1000) : State) lf = [] ∧ lf.updated = [] ∧ lf.update = none) ∧ forwarded lf = [((5 : DevId), v5)] ∧ v5.length ≤ 100 ∧ v5 ≠ [] ∧ lf.kind ≠ 4#4 ∧ (ctxU ((rs lf R 0x1000) : State) lf.ctx).sealSt.offered = false ∧ lf.recalls + 1 ≤ fld (relCfg ((rs lf R 0x1000) : State) lf.ctx) 25 22 ∧ (fld (relCfg ((rs lf R 0x1000) : State) lf.ctx) 31 30 == 1) = false)
    ∧ (findLaunch v6 0 = some l0 ∧ ((l0.state = LState.running ∨ l0.state = LState.ended) ∧ launchCaravans v6 l0 = [] ∧ l0.updated = [] ∧ l0.update = none) ∧ forwarded l0 = [] ∧ (ctxU v6 l0.ctx).sealSt.hdr = some ((hdr 5 1) : SealHdr) ∧ (ctxU v6 l0.ctx).sealSt.offered = true ∧ (ctxU v6 l0.ctx).sealSt.pendingGo = none ∧ ((hdr 5 1) : SealHdr).parent ≠ ownId v6 ∧ l0.recalls + 1 ≤ fld (relCfg v6 l0.ctx) 25 22) := by
  and_intros <;> decide +kernel
theorem test_witness_RecallRowsComplete_23_2 :
    (findLaunch ((rs l0 R 0x1000) : State) 0 = some l0 ∧ (1#12) ∈ l0.verify ∧ stagedWrong ((rs l0 R 0x1000) : State) l0 (1#12) = false ∧ twinState ((rs l0 R 0x1000) : State) ≠ 2)
    ∧ (findLaunch ((rs l0 R 0x1000) : State) 0 = some l0 ∧ (2#12) ∉ l0.verify)
    ∧ (findLaunch ((rs l0 R 0x1000) : State) 0 = some l0 ∧ ((rm 7) : RecallMsg).ctx = l0.ctx ∧ forOpen ((rs l0 R 0x1000) : State) l0.ctx ((rm 7) : RecallMsg).epoch = false)
    ∧ (findLaunch v7 0 = some l0 ∧ ((rm 6) : RecallMsg).ctx = l0.ctx ∧ forOpen v7 l0.ctx ((rm 6) : RecallMsg).epoch = true ∧ (ctxU v7 l0.ctx).sealSt.hdr = none ∧ (ctxU v7 l0.ctx).sealSt.withdrawn = true ∧ ((v7.launches.all fun x => !(x.ctx == l0.ctx && x.epoch == ((rm 6) : RecallMsg).epoch && x.waits.any fun y => ((rm 6) : RecallMsg).tallies.contains y)) = true)) := by
  and_intros <;> decide +kernel
theorem test_witness_RecallRowsComplete_23_3 :
    (findLaunch v8 0 = some v9 ∧ ((rm 6) : RecallMsg).ctx = v9.ctx ∧ forOpen v8 v9.ctx ((rm 6) : RecallMsg).epoch = true ∧ (ctxU v8 v9.ctx).sealSt.hdr = none ∧ (ctxU v8 v9.ctx).sealSt.withdrawn = false ∧ v8.launches = [v9] ∧ v9.epoch = ((rm 6) : RecallMsg).epoch ∧ ((v9.waits.any fun y => ((rm 6) : RecallMsg).tallies.contains y) = true) ∧ ((v9.state = LState.running ∨ v9.state = LState.ended) ∧ launchCaravans v8 v9 = [] ∧ v9.updated = [] ∧ v9.update = none) ∧ forwarded v9 = [] ∧ v9.recalls + 1 ≤ fld (relCfg v8 v9.ctx) 25 22 ∧ ((9 : DevId), ((rm 6) : RecallMsg).launch) ∉ v9.awaits ∧ (ctxU v8 v9.ctx).sealSt.ready = false ∧ (ctxU v8 v9.ctx).sealSt.offered = false)
    ∧ (findLaunch v10 0 = some v11 ∧ v11.state = LState.recalled ∧ v11.awaits = [])
    ∧ (findLaunch v12 0 = some v13 ∧ (v13.state ≠ LState.recalled ∨ v13.awaits ≠ []))
    ∧ (findLaunch v12 0 = some v13 ∧ v13.state = LState.recalled ∧ v13.awaits ≠ [] ∧ (ctxU v12 v13.ctx).sealSt.offered = false)
    ∧ (findLaunch ((rs l0 R 0x1000) : State) 0 = some l0 ∧ (l0.state ≠ LState.recalled ∨ l0.awaits = [])) := by
  and_intros <;> decide +kernel
theorem test_witness_RecallRowsComplete_23_4 :
    (findLaunch ((rs l0 R 0x1000) : State) 0 = some l0 ∧ 31 < 32 ∧ (clus ((rs l0 R 0x1000) : State) 31).droop = false ∧ (suspectLaunches ((rs l0 R 0x1000) : State) 31 = [] ∧ suspectCaravans ((rs l0 R 0x1000) : State) 31 = []))
    ∧ (findLaunch v14 0 = some l0 ∧ 31 < 32 ∧ suspectLaunches v14 31 = [0] ∧ suspectCaravans v14 31 = [] ∧ ((l0.state = LState.running ∨ l0.state = LState.ended) ∧ launchCaravans v14 l0 = [] ∧ l0.updated = [] ∧ l0.update = none) ∧ forwarded l0 = [] ∧ (ctxU v14 l0.ctx).sealSt.offered = false ∧ l0.recalls + 1 ≤ fld (relCfg v14 l0.ctx) 25 22 ∧ (clus v14 31).droop = true)
    ∧ (findLaunch ((rs l0 R 0x1000) : State) 0 = some l0 ∧ 7 < 8) := by
  and_intros <;> decide +kernel
end Sys2Proof.Tests.W23

namespace Sys2Proof.Tests.W24
open Sys2Proof.Tests.W
def pw (f : PwrU → PwrU) : State := onPwr f s0
def T (c i : Nat) (s : State) : State := getNext (exec (.phaseFault c i) s)
def nt (r : Nat) (fr : Word) (w h : Bool) : Notice := ⟨r, 0, fr, w, h⟩
def smp (v : Nat) : List Nat := List.replicate 4 v
def lad (k : Nat) (c : Word) : State := onPwr (fun p => { p with samples := smp 100, calmPower := 100 }) ((List.range k).foldl (fun s _ => getNext (exec .ladderCompare s)) (pw (fun p => { p with samples := smp 2401, cfg := c })))
def hot (m : Nat) (f : PwrU → PwrU) : State := onPwr f (withClus 3 { ClusterU.reset with tj := BitVec.ofNat 10 ((m+64)*4) } s0)
def v1 : State := (putMem 0xC03E000000 [1,2] (putMem 0x100 [5] (withCore 511 { CoreU.reset with passq := [⟨1,[],false⟩] } (T 31 5 s0))))
def v2 : State := (pw (fun p => { p with uncore := [3] }))
def v3 : State := (pw (fun p => { p with lastNotice := some 9, notices := [nt 3 5 true false] }))
def v4 : State := (pw (fun p => { p with samples := smp 2401 }))
def v5 : State := (onPwr (fun p => { p with samples := smp 2401 }) (lad 7 0x960))
def v6 : State := (pw (fun p => { p with samples := smp 100 }))
def v7 : State := (hot 103 (fun p => { p with dvfs := 0x4000, calmHeat := 100 }))
def v8 : State := (hot 100 (fun p => { p with dvfs := 0x4000, calmHeat := 100 }))
def v9 : State := (hot 100 (fun p => { p with dvfs := 0x4000, calmHeat := 99 }))
theorem test_witness_PhaseNoticeAndLadderRowsComplete_24_1 :
    (31 < 32 ∧ 6 ≤ 6)
    ∧ (31 < 32 ∧ 5 < 6 ∧ phaseOk s0 31 5 = true ∧ (∀ j < 6, j ≠ 5 → phaseOk s0 31 j = true))
    ∧ (31 < 32 ∧ 0 < 6 ∧ phaseOk v1 31 0 = true ∧ 5 < 6 ∧ 5 ≠ 0 ∧ phaseOk v1 31 5 = false ∧ bit (clus v1 31).region 16 = false ∧ v1.launches = [] ∧ v1.host.running = [])
    ∧ (3 < 24 ∧ 3 ∈ v2.pwr.uncore)
    ∧ (23 < 24 ∧ 23 ∉ v2.pwr.uncore ∧ v2.pwr.state = PowerState.awake ∧ v2.pwr.resetReq = none)
    ∧ s0.pwr.lastNotice = none
    ∧ v3.pwr.lastNotice = some (9#32)
    ∧ ((fld v4.pwr.cfg 11 0 * v4.pwr.samples.length < List.foldl (fun x1 x2 => x1 + x2) 0 v4.pwr.samples) ∧ ladder v4 ≠ 7)
    ∧ ((fld v5.pwr.cfg 11 0 * v5.pwr.samples.length < List.foldl (fun x1 x2 => x1 + x2) 0 v5.pwr.samples) ∧ ladder v5 = 7) := by
  and_intros <;> decide +kernel
theorem test_witness_PhaseNoticeAndLadderRowsComplete_24_2 :
    ((List.foldl (fun x1 x2 => x1 + x2) 0 ((lad 0 0x960) : State).pwr.samples ≤ fld ((lad 0 0x960) : State).pwr.cfg 11 0 * ((lad 0 0x960) : State).pwr.samples.length) ∧ (100 * List.foldl (fun x1 x2 => x1 + x2) 0 ((lad 0 0x960) : State).pwr.samples < 95 * fld ((lad 0 0x960) : State).pwr.cfg 11 0 * ((lad 0 0x960) : State).pwr.samples.length) ∧ 100 ≤ ((lad 0 0x960) : State).pwr.calmPower ∧ ladder ((lad 0 0x960) : State) = 0)
    ∧ ((List.foldl (fun x1 x2 => x1 + x2) 0 ((lad 4 0x960) : State).pwr.samples ≤ fld ((lad 4 0x960) : State).pwr.cfg 11 0 * ((lad 4 0x960) : State).pwr.samples.length) ∧ (100 * List.foldl (fun x1 x2 => x1 + x2) 0 ((lad 4 0x960) : State).pwr.samples < 95 * fld ((lad 4 0x960) : State).pwr.cfg 11 0 * ((lad 4 0x960) : State).pwr.samples.length) ∧ 100 ≤ ((lad 4 0x960) : State).pwr.calmPower ∧ 0 < ladder ((lad 4 0x960) : State))
    ∧ ((List.foldl (fun x1 x2 => x1 + x2) 0 v6.pwr.samples ≤ fld v6.pwr.cfg 11 0 * v6.pwr.samples.length) ∧ (100 * List.foldl (fun x1 x2 => x1 + x2) 0 v6.pwr.samples < 95 * fld v6.pwr.cfg 11 0 * v6.pwr.samples.length) ∧ v6.pwr.calmPower < 100)
    ∧ ((List.foldl (fun x1 x2 => x1 + x2) 0 s0.pwr.samples ≤ fld s0.pwr.cfg 11 0 * s0.pwr.samples.length) ∧ (95 * fld s0.pwr.cfg 11 0 * s0.pwr.samples.length ≤ 100 * List.foldl (fun x1 x2 => x1 + x2) 0 s0.pwr.samples))
    ∧ hotAt ((hot 106 id) : State) (fld ((hot 106 id) : State).pwr.therm 6 0) = true
    ∧ (hotAt v7 (fld v7.pwr.therm 6 0) = false ∧ coolAt v7 (fld v7.pwr.therm 6 0 - 3) = false)
    ∧ (hotAt v8 (fld v8.pwr.therm 6 0) = false ∧ coolAt v8 (fld v8.pwr.therm 6 0 - 3) = true ∧ 100 ≤ v8.pwr.calmHeat ∧ 0 < thermalFloor v8)
    ∧ (hotAt v9 (fld v9.pwr.therm 6 0) = false ∧ coolAt v9 (fld v9.pwr.therm 6 0 - 3) = true ∧ v9.pwr.calmHeat < 100) := by
  and_intros <;> decide +kernel
end Sys2Proof.Tests.W24

namespace Sys2Proof.Tests.W25
open Sys2Proof.Tests.W
def pw (f : PwrU → PwrU) : State := onPwr f s0
def aw (f : PwrU → PwrU) : State := onPwr f (pw (fun p => { p with vaon := true }))
def sl (f : PwrU → PwrU) : State := onPwr f (pw (fun p => { p with vaon := true, state := .asleep, watchCtl := 0x3F }))
def rq (c : BitVec 4) (k : BitVec 2) (f : PwrU → PwrU) : State := withArr 5 { act with state := 0x20002, image := [(1,1)], trims := [(1,5)], pulses := 7 } (withCtx 0 cx (putMem 0x100 [1,2] (putMem 0xC040000000 [5] (onRel (fun r => { r with coreFence := 9 }) (aw (fun p => f { p with resetReq := some (c, k), resetW := 0xFFFF5, input := true }))))))
def rs (f : PwrU → PwrU) : State := onPwr f (pw (fun p => { p with state := .resetting, input := true, vaon := true }))
def ph (n : Nat) (f : SecU → SecU) (k : BitVec 2) : State := onPwr (fun p => { p with resetKind := k }) (onSec (fun x => f { x with boot := BitVec.ofNat 32 n }) s0)
def pf : PhaseFacts := {}
def v1 : State := (aw (fun p => { p with protFlow := true, dvfs := 0x40 }))
def v2 : State := (pw (fun p => { p with state := .off, vaon := false, input := true }))
def v3 : State := (putMem 0x100 [1] (pw (fun p => { p with state := .resetting, vaon := true, input := true })))
def v4 : PhaseFacts := { pf with journalOk := false }
def v5 : PhaseFacts := { pf with torn := 300 }
def v6 : State := (ph 1 (fun x => { x with cfgPend := some [1,2], attempt := true }) 1)
def v7 : PhaseFacts := { pf with firmwareOk := false, otherFwOk := false }
def v8 : PhaseFacts := { pf with firmwareOk := false, otherFwOk := true }
def v9 : PhaseFacts := { pf with configOk := false, otherCfgOk := false }
def v10 : State := (putMem 0x100 [1] (ph 4 id 0))
theorem test_witness_WatchAndPinRowsComplete_25 :
    ((v1.pwr.vaon = true ∧ v1.pwr.state = PowerState.awake) ∧ uncoreFails v1 0 < 3 ∧ uncoreFails v1 1 < 3 ∧ v1.pwr.protFlow = true ∧ v1.pwr.resetReq = none ∧ (v1.pwr.vaon = true ∧ v1.pwr.state = PowerState.awake ∨ v1.pwr.vaon = true ∧ v1.pwr.state = PowerState.asleep) ∧ v1.pwr.state ≠ PowerState.asleep ∧ v1.pwr.protUv = false ∧ v1.pwr.vaon = true ∧ (v1.pwr.state = PowerState.awake ∨ v1.pwr.state = PowerState.asleep) ∧ (v1.pwr.state ≠ PowerState.off ∨ v1.pwr.vaon = true ∨ v1.pwr.input = false))
    ∧ (uncoreFails v2 0 < 3 ∧ uncoreFails v2 1 < 3 ∧ v2.pwr.protFlow = false ∧ v2.pwr.state ≠ PowerState.asleep ∧ v2.pwr.protUv = false ∧ v2.pwr.state = PowerState.off ∧ v2.pwr.vaon = false ∧ v2.pwr.input = true ∧ v2.pwr.flowLow = false)
    ∧ (v3.pwr.state = PowerState.resetting ∧ true = true)
    ∧ ((((sl id) : State).pwr.vaon = true ∧ ((sl id) : State).pwr.state = PowerState.asleep) ∧ ((sl id) : State).pwr.resetReq = none) := by
  and_intros <;> decide +kernel
theorem test_witness_ResetAndStartupRowsComplete_25_1 :
    (¬((s0.pwr.state = PowerState.awake ∨ s0.pwr.state = PowerState.asleep) ∧ resetReplyWaits s0 = false) ∨ s0.pwr.resetReq = none)
    ∧ (((((rq 1 1 id) : State).pwr.state = PowerState.awake ∨ ((rq 1 1 id) : State).pwr.state = PowerState.asleep) ∧ resetReplyWaits ((rq 1 1 id) : State) = false) ∧ ((rq 1 1 id) : State).pwr.resetReq = some ((1#4), (1#2)))
    ∧ (s0.pwr.state ≠ PowerState.resetting ∨ s0.pwr.mrstPin = true ∨ s0.pwr.input = false ∨ s0.pwr.tripHot = true ∧ hotAt s0 95 = true)
    ∧ (¬(((rs id) : State).pwr.state ≠ PowerState.resetting ∨ ((rs id) : State).pwr.mrstPin = true ∨ ((rs id) : State).pwr.input = false ∨ ((rs id) : State).pwr.tripHot = true ∧ hotAt ((rs id) : State) 95 = true))
    ∧ (s0.pwr.state ≠ PowerState.awake ∨ 8 ≤ bootPhase s0)
    ∧ ((fun n => ((ph 0 id 0) : State).pwr.state = PowerState.awake ∧ bootPhase ((ph 0 id 0) : State) = n) 0)
    ∧ (((fun n => ((ph 1 id 1) : State).pwr.state = PowerState.awake ∧ bootPhase ((ph 1 id 1) : State) = n) 1) ∧ v4.journalOk = false)
    ∧ (((fun n => ((ph 1 id 1) : State).pwr.state = PowerState.awake ∧ bootPhase ((ph 1 id 1) : State) = n) 1) ∧ v5.journalOk = true ∧ ((ph 1 id 1) : State).sec.fwPend = false ∧ ((ph 1 id 1) : State).sec.cfgPend = none)
    ∧ (((fun n => v6.pwr.state = PowerState.awake ∧ bootPhase v6 = n) 1) ∧ ({ pf with torn := 3 } : PhaseFacts).journalOk = true ∧ v6.sec.fwPend = false ∧ (v6.sec.fwPend = true ∨ v6.sec.cfgPend ≠ none) ∧ v6.sec.attempt = true)
    ∧ (((fun n => ((ph 2 id 1) : State).pwr.state = PowerState.awake ∧ bootPhase ((ph 2 id 1) : State) = n) 2) ∧ ((ph 2 id 1) : State).sec.triedFw = false ∧ slotImage ((ph 2 id 1) : State) ((ph 2 id 1) : State).sec.fwCur = none ∧ (slotImage ((ph 2 id 1) : State) !((ph 2 id 1) : State).sec.fwCur) = none ∧ (v7.firmwareOk = false ∧ v7.otherFwOk = false ∨ tooOld ((ph 2 id 1) : State) 1 v7.madeRelease.toNat (BitVec.toNat v7.madeFwRb) = true)) := by
  and_intros <;> decide +kernel
theorem test_witness_ResetAndStartupRowsComplete_25_2 :
    (((fun n => ((ph 2 id 1) : State).pwr.state = PowerState.awake ∧ bootPhase ((ph 2 id 1) : State) = n) 2) ∧ ((ph 2 id 1) : State).sec.triedFw = false ∧ slotImage ((ph 2 id 1) : State) ((ph 2 id 1) : State).sec.fwCur = none ∧ (slotImage ((ph 2 id 1) : State) !((ph 2 id 1) : State).sec.fwCur) = none ∧ (v8.firmwareOk = true ∨ v8.otherFwOk = true) ∧ tooOld ((ph 2 id 1) : State) 1 v8.madeRelease.toNat (BitVec.toNat v8.madeFwRb) = false)
    ∧ (((fun n => ((ph 3 id 1) : State).pwr.state = PowerState.awake ∧ bootPhase ((ph 3 id 1) : State) = n) 3) ∧ ((ph 3 id 1) : State).sec.triedCfg = false ∧ ((ph 3 id 1) : State).sec.cfgCur = none ∧ ((ph 3 id 1) : State).sec.cfgOld = none ∧ (v9.configOk = false ∧ v9.otherCfgOk = false ∨ decide (BitVec.toNat v9.madeCfgRb < BitVec.toNat ((ph 3 id 1) : State).sec.cfgRb) = true))
    ∧ (((fun n => ((ph 3 id 0) : State).pwr.state = PowerState.awake ∧ bootPhase ((ph 3 id 0) : State) = n) 3) ∧ ((ph 3 id 0) : State).sec.triedCfg = false ∧ ((ph 3 id 0) : State).sec.cfgCur = none ∧ ((ph 3 id 0) : State).sec.cfgOld = none ∧ (pf.configOk = true ∨ pf.otherCfgOk = true) ∧ decide (BitVec.toNat pf.madeCfgRb < BitVec.toNat ((ph 3 id 0) : State).sec.cfgRb) = false)
    ∧ ((fun n => v10.pwr.state = PowerState.awake ∧ bootPhase v10 = n) 4)
    ∧ (((fun n => ((ph 5 id 1) : State).pwr.state = PowerState.awake ∧ bootPhase ((ph 5 id 1) : State) = n) 5) ∧ ((ph 5 id 1) : State).sec.permanent = [] ∧ ((ph 5 id 1) : State).pwr.resetKind ≠ 0#2 ∧ (((List.range 32).all fun c => clusterOut ((ph 5 id 1) : State) c) = false))
    ∧ (((fun n => ((ph 6 id 1) : State).pwr.state = PowerState.awake ∧ bootPhase ((ph 6 id 1) : State) = n) 6) ∧ arraysStarted ((ph 6 id 1) : State) = false) := by
  and_intros <;> decide +kernel
end Sys2Proof.Tests.W25

namespace Sys2Proof.Tests.W26
open Sys2Proof.Tests.W
def ph (n : Nat) (f : SecU → SecU) (k : BitVec 2) : State := onPwr (fun p => { p with resetKind := k }) (onSec (fun x => f { x with boot := BitVec.ofNat 32 n }) s0)
def all0 : State := { ph 6 id 1 with arrays := (List.range 4096).map fun a => (a, act) }
def v1 : State := (withPort 3 { PortU.reset with stat := 0x3FFFF001 } (ph 7 id 1))
theorem tget_const (d u : ArrU) (l : List Nat) (k : Nat) (h : k ∈ l) : tget d (l.map fun a => (a, u)) k = u := by
  induction l with
  | nil => cases h
  | cons a t ih =>
    simp only [List.map_cons, tget]
    split
    · rfl
    · exact ih ((List.mem_cons.1 h).resolve_left fun e => ‹¬a = k› e.symm)
theorem all0_started : arraysStarted all0 = true := by
  refine List.all_eq_true.2 fun a ha => ?_
  have e : arr all0 a = act := by
    simp only [arr, all0]
    exact tget_const ArrU.reset act _ a ha
  simp only [e]
  exact cast (Bool.or_eq_true _ _).symm (.inr (by decide +kernel))
theorem test_witness_ResetAndStartupRowsComplete_26 :
    (((fun n => all0.pwr.state = PowerState.awake ∧ bootPhase all0 = n) 6) ∧ arraysStarted all0 = true ∧ all0.sec.attempt = false ∧ (∀ q < 18, (port all0 q).queue = []))
    ∧ (((fun n => v1.pwr.state = PowerState.awake ∧ bootPhase v1 = n) 7) ∧ (((List.range 18).any fun q => fld (port v1 q).stat 1 0 == 1) = true))
    ∧ (((fun n => ((ph 7 id 1) : State).pwr.state = PowerState.awake ∧ bootPhase ((ph 7 id 1) : State) = n) 7) ∧ (((List.range 18).any fun q => fld (port ((ph 7 id 1) : State) q).stat 1 0 == 1) = false) ∧ timeValid ((ph 7 id 1) : State) = false)
    ∧ (bootPhase s0 ≠ 7 ∨ bit s0.sec.boot 18 = false ∨ timeValid s0 = false) := 
  ⟨⟨by decide +kernel, all0_started, by decide +kernel, by decide +kernel⟩,
    by and_intros <;> decide +kernel,
    by and_intros <;> decide +kernel,
    by decide +kernel⟩
end Sys2Proof.Tests.W26

namespace Sys2Proof.Tests.W27
open Sys2Proof.Tests.W
def mo (f : MonU → MonU) : State := onMon f s0
def raws (n : Nat) : List (BitVec 12) := (List.range n).map fun i => BitVec.ofNat 12 (i * 7)
def ms (l : Nat) : State := onHost (fun h => { h with running := [⟨W.lp, .monSample 37 l 0x8000 3⟩] }) (mo (fun m => { m with owner := 4, chsel := 5 }))
def cs (k : Nat) (a b : Bool) (q : Nat) : State := onHost (fun h => { h with running := [⟨W.lp, .calSystem k a b q⟩] }) (mo (fun m => { m with owner := 2, chsel := 5 }))
def raws4 (v : Nat) : List (BitVec 12) := List.replicate 1024 (BitVec.ofNat 12 v)
def tr : State := withArr 9 { act with traces := 3 } (mo (fun m => { m with atp := [(0, 10)], waiting := [4] }))
def trw : State := withArr 9 { act with traces := 3 } (mo (fun m => { m with atp := [(0, 10)], waiting := [3,4] }))
def v1 : State := (mo (fun m => { m with owner := 1 }))
def v2 : State := (mo (fun m => { m with owner := 3, waiting := [4] }))
def v3 : State := (mo (fun m => { m with cfg := 1, chsel := 5, fit := 1 }))
def v4 : State := (mo (fun m => { m with cfg := 1, owner := 1 }))
def v5 : State := (mo (fun m => { m with cfg := 1, owner := 3, chsel := 31 }))
def v6 : State := (mo (fun m => { m with cfg := 0 }))
def v7 : State := (mo (fun m => { m with cfg := 0x10000 }))
def v8 : State := (mo (fun m => { m with fit := 1 }))
theorem test_witness_MonitorAndCompactionRowsComplete_27_1 :
    (v1.mon.owner = 1#3 ∨ 1 ∈ v1.mon.waiting)
    ∧ (v2.mon.owner ≠ 0#3 ∧ v2.mon.owner ≠ 1#3 ∧ 1 ∉ v2.mon.waiting)
    ∧ ((((raws 2) : List (BitVec 12)).length ≠ unitLength s0 ∨ s0.mon.owner = 0#3 ∧ bit s0.mon.cfg 0 = false) ∧ s0.mon.owner = 0#3)
    ∧ (v3.mon.owner = 0#3 ∧ bit v3.mon.cfg 0 = true ∧ ((raws 1) : List (BitVec 12)).length = 1 ∧ v3.mon.waiting = [])
    ∧ (v4.mon.owner = 1#3 ∧ ((raws 352) : List (BitVec 12)).length = 352)
    ∧ (v5.mon.owner = 3#3 ∧ ((raws 48) : List (BitVec 12)).length = 48 ∧ v5.mon.waiting = [])
    ∧ (((ms 10) : State).mon.owner = 4#3 ∧ ((ms 10) : State).mon.waiting = [] ∧ W.lp.muted = false ∧ ((ms 10) : State).host.running = [{ pkt := W.lp, task := Task.monSample 37 10 0x8000 3 : Run }] ∧ ((raws 10) : List (BitVec 12)).length = min 256 10 ∧ 1 ≤ min 256 10 ∧ inStacks ((ms 10) : State) 0x8000 (2 * min 256 10) = true)
    ∧ (((cs 4 true false 5) : State).mon.owner = 2#3 ∧ ((cs 4 true false 5) : State).mon.waiting = [] ∧ ((raws4 3840) : List (BitVec 12)).length = 1024 ∧ W.lp.muted = false ∧ ((cs 4 true false 5) : State).mon.fitDue = false ∧ ((cs 4 true false 5) : State).host.running = [{ pkt := W.lp, task := Task.calSystem 4 true false 5 : Run }]) := by
  and_intros <;> decide +kernel
theorem test_witness_MonitorAndCompactionRowsComplete_27_2 :
    (fld v6.mon.cfg 23 16 = 0 ∨ v6.pwr.state ≠ PowerState.awake)
    ∧ (fld v7.mon.cfg 23 16 ≠ 0 ∧ v7.pwr.state = PowerState.awake ∧ v7.mon.fit = 0#2 ∧ v7.host.running = [])
    ∧ ((s0.mon.fit = 0#2 ∨ s0.mon.fit = 3#2) ∧ (s0.host.running = [] ∧ s0.mon.fitDue = false))
    ∧ ((v8.host.running = [] ∧ v8.mon.fitDue = false) ∧ v8.mon.fit ≠ 0#2 ∧ v8.mon.fit ≠ 3#2)
    ∧ (9 < 4096 ∧ (3 + 2 * dieOfArray 9 ∉ tr.mon.waiting ∨ ¬tget 0 tr.mon.atp (dieOfArray 9) = 9 + 1) ∧ (¬tget 0 tr.mon.atp (dieOfArray 9) = 9 + 1 ∨ (tget [] tr.mon.traceMeans (dieOfArray 9)).length ≠ 3 ∨ tget 0 tr.mon.traceFit (dieOfArray 9) = 0))
    ∧ (9 < 4096 ∧ 3 + 2 * dieOfArray 9 ∈ trw.mon.waiting ∧ tget 0 trw.mon.atp (dieOfArray 9) = 9 + 1 ∧ (¬tget 0 trw.mon.atp (dieOfArray 9) = 9 + 1 ∨ (tget [] trw.mon.traceMeans (dieOfArray 9)).length ≠ 3 ∨ tget 0 trw.mon.traceFit (dieOfArray 9) = 0)) := by
  and_intros <;> decide +kernel
end Sys2Proof.Tests.W27

namespace Sys2Proof.Tests.W28
open Sys2Proof.Tests.W
def mo (f : MonU → MonU) : State := onMon f s0
def cs (k : Nat) (a b : Bool) (q : Nat) : State := onHost (fun h => { h with running := [⟨W.lp, .calSystem k a b q⟩] }) (mo (fun m => { m with owner := 2, chsel := 5 }))
def raws4 (v : Nat) : List (BitVec 12) := List.replicate 1024 (BitVec.ofNat 12 v)
def tr : State := withArr 9 { act with traces := 3 } (mo (fun m => { m with atp := [(0, 10)], waiting := [4] }))
def trm : State := onMon (fun m => { m with traceMeans := [(0, [100, 300, 290])], traceFit := [(0, 51)] }) tr
def troff : State := withClus 0 { ClusterU.reset with region := 0x00FC0080, ctiScale := 0x8000 } trm
theorem test_witness_MonitorAndCompactionRowsComplete_28 :
    (((cs 3 true true 5) : State).mon.owner = 2#3 ∧ ((cs 3 true true 5) : State).mon.waiting = [] ∧ ((raws4 3) : List (BitVec 12)).length = 1024 ∧ W.lp.muted = false ∧ ((cs 3 true true 5) : State).mon.fitDue = false ∧ ((cs 3 true true 5) : State).host.running = [{ pkt := W.lp, task := Task.calSystem 3 true true 5 : Run }])
    ∧ (((cs 4 true true 5) : State).mon.owner = 2#3 ∧ ((cs 4 true true 5) : State).mon.waiting = [] ∧ ((raws4 3840) : List (BitVec 12)).length = 1024 ∧ W.lp.muted = false ∧ ((cs 4 true true 5) : State).mon.fitDue = false ∧ ((cs 4 true true 5) : State).host.running = [{ pkt := W.lp, task := Task.calSystem 4 true true 5 : Run }])
    ∧ (9 < 4096 ∧ tget 0 trm.mon.atp (dieOfArray 9) = 9 + 1 ∧ tget [] trm.mon.traceMeans (dieOfArray 9) = [100, 300, 290] ∧ tget 0 trm.mon.traceFit (dieOfArray 9) = 50 + 1 ∧ (arrFenced trm 9 = false ∧ regionOn (arrRegState trm (clusterOfArray 9)) = true) ∧ tget (0#16) (arr trm 9).traceRef (((arr trm 9).traces - 1) % 8) = 0#16 ∧ Int.ofNat 290 - Int.ofNat 100 ≠ 0)
    ∧ (9 < 4096 ∧ tget 0 troff.mon.atp (dieOfArray 9) = 9 + 1 ∧ tget [] troff.mon.traceMeans (dieOfArray 9) = [100, 300, 290] ∧ tget 0 troff.mon.traceFit (dieOfArray 9) = 50 + 1 ∧ (¬(arrFenced troff 9 = false ∧ regionOn (arrRegState troff (clusterOfArray 9)) = true))) := by
  and_intros <;> decide +kernel
end Sys2Proof.Tests.W28
end

/-! PROOFS. What every operation of the model leaves as it was: the queue, memory in canonical form and the fixed fields of the
device id (`Keeps`), for the operations that the frames above do not reach, in the order of the model's files. -/

namespace Sys2Proof.Laws
open Sys2Proof.Machine

variable {s0 s : State}

/-! ### Programming the arrays (Machine/Write) -/

theorem beginRefresh_keeps {a : Nat} (hk : Keeps s0 s) : Keeps s0 (beginRefresh a s) :=
  modArr_keeps hk

theorem grantRewrite_keeps {a : Nat} (hk : Keeps s0 s) : Keeps s0 (grantRewrite a s) :=
  .ite (boundary_keeps (modArr_keeps hk)) (modArr_keeps (modArr_keeps hk))

theorem grantAll_keeps {ws : List Waiting} {held : Nat} {per : Tab Nat} {n : Nat} (hk : Keeps s0 s) :
    Keeps s0 (grantAll ws held per n s).2 := by
  induction ws generalizing held per n s with
  | nil => exact hk
  | cons w rest ih =>
    unfold grantAll
    extract_lets c inC t
    split
    · exact ih (Keeps.ite (beginRefresh_keeps hk) (grantRewrite_keeps hk))
    · exact ih hk

theorem grantTick_keeps (hk : Keeps s0 s) : Keeps s0 (grantTick s) := by
  unfold grantTick
  dsimp -zeta only
  exact .ite (grantAll_keeps hk) (notice_keeps (grantAll_keeps hk))

theorem releaseGrant_keeps {a : Nat} (hk : Keeps s0 s) : Keeps s0 (releaseGrant a s) :=
  modArr_keeps hk

theorem shadowStop_keeps {a status : Nat} {w : WriteOp} (hk : Keeps s0 s) : Keeps s0 (shadowStop a status w s) :=
  sweepDestroy_keeps (exitRule_keeps (writeServed_keeps (releaseGrant_keeps (modArr_keeps (drawFree_keeps hk)))))

theorem readShadow_keeps {c : BitVec 4} {l : Layer} {a r : Nat} {check : CheckSeen} (hk : Keeps s0 s) :
    Keeps s0 (readShadow c l a r check s).2 := by
  unfold readShadow
  extract_lets xs s1
  have h1 : Keeps s0 s1 := spoil_keeps hk
  split
  · exact h1
  · split
    · dsimp only
      exact relErr_keeps h1
    · split
      · exact atRest_keeps (relErr_keeps h1)
      · split
        · exact rereadOk_keeps (relErr_keeps h1)
        · exact h1

theorem startRow_keeps {a : Nat} {shadow : CheckSeen} (hk : Keeps s0 s) : Keeps s0 (startRow a shadow s) := by
  unfold startRow
  split
  · exact hk
  · split
    · exact modArr_keeps hk
    · extract_lets band next data refs
      refine .ite (modArr_keeps hk) ?_
      split
      · exact shadowStop_keeps hk
      · exact .ite (modArr_keeps (readShadow_keeps hk)) (shadowStop_keeps (readShadow_keeps hk))

theorem firstRow_keeps {a : Nat} {shadow : CheckSeen} (hk : Keeps s0 s) : Keeps s0 (firstRow a shadow s) := by
  unfold firstRow
  split
  · exact .ite (startRow_keeps hk) hk
  · exact hk

theorem iterationEnd_keeps {a : Nat} {dev : List (Nat × Dy)} (hk : Keeps s0 s) : Keeps s0 (iterationEnd a dev s) :=
  modArr_keeps hk

theorem rowEnd_keeps {a : Nat} {shadow : CheckSeen} (hk : Keeps s0 s) : Keeps s0 (rowEnd a shadow s) := by
  unfold rowEnd
  split
  · split
    · exact .ite hk (startRow_keeps (.ite (addEvent_keeps (modArr_keeps hk)) (modArr_keeps hk)))
    · exact hk
  · exact hk

theorem endWrite_keeps {a us : Nat} (hk : Keeps s0 s) : Keeps s0 (endWrite a us s) := by
  unfold endWrite
  split
  · extract_lets s1 s2 s3
    have h1 : Keeps s0 s1 := modArr_keeps hk
    have h2 : Keeps s0 s2 := modArr_keeps h1
    have h3 : Keeps s0 s3 := writeServed_keeps (releaseGrant_keeps h1)
    exact .ite hk <|
      .ite (.ite (enterCal_keeps h2) (.ite (failArrayRetest_keeps h2) (fenceArray_keeps h2)))
        (sweepDestroy_keeps (exitRule_keeps h3))
  · exact hk

theorem saveWear_keeps {a : Nat} (hk : Keeps s0 s) : Keeps s0 (saveWear a s) := by
  unfold saveWear
  exact modSec_keeps hk

theorem copyWear_keeps {c : Nat} (hk : Keeps s0 s) : Keeps s0 (copyWear c s) :=
  logAddFor_keeps (.foldl hk fun _ _ h1 => saveWear_keeps h1)

/-! ### A tick (Machine/Clock) -/

theorem hourMark_keeps (hk : Keeps s0 s) : Keeps s0 (hourMark s) :=
  .ite (.foldl hk fun _ _ h1 => .ite (modArr_keeps h1) h1) hk

theorem watchAdvance_keeps {k : Nat} (hk : Keeps s0 s) : Keeps s0 (watchAdvance k s) :=
  .ite (hourMark_keeps (modPwr_keeps hk)) hk

theorem rackAdvance_keeps (hk : Keeps s0 s) : Keeps s0 (rackAdvance s) := by
  refine .ite ?_ hk
  exact modPwr_keeps (Keeps.upd hk)

theorem tick_keeps (hk : Keeps s0 s) : Keeps s0 (tick s) := by
  unfold tick
  extract_lets p s1 s2
  have h1 : Keeps s0 s1 := rackAdvance_keeps hk
  have h2 : Keeps s0 s2 := Keeps.upd h1
  exact .ite (watchAdvance_keeps h2) h2

/-! ### Caravans (Machine/Caravan) -/

theorem startCaravan_keeps {c : BitVec 4} {n : BitVec 8} {k : Word} (hk : Keeps s0 s) :
    Keeps s0 (startCaravan c n k s) := by
  unfold startCaravan
  split
  · exact hk
  · exact .ite (redErr_keeps (cvFault_keeps (modFab_keeps hk)))
      (cvWriteStatus_keeps (storeBytes_keeps (modFab_keeps hk)))

theorem contributeRow_keeps {k uid : Nat} {v : Caravan} {slice t row : Nat} {vals : List (Option Dy)}
    {marks : Nat → Byte} (hk : Keeps s0 s) :
    Keeps s0 (contributeRow k uid v slice t row vals marks s) := by
  refine .ite (modCv_keeps hk) ?_
  split
  · exact hk
  · exact .ite (stopLaunch_keeps hk) <|
      .ite (stopLaunch_keeps hk)
        (modCv_keeps (.foldl (.ite (modCore_keeps hk) hk) fun _ _ h2 => storeMarked_keeps h2))

theorem countContribution_keeps {v : Caravan} {slice t : Nat} (hk : Keeps s0 s) :
    Keeps s0 (countContribution v slice t s) := by
  unfold countContribution
  extract_lets key n s1
  have h1 : Keeps s0 s1 := modCv_keeps hk
  split
  · exact h1
  · exact storeBytes_keeps h1

theorem fillSlot_keeps {c k : Nat} {p : CvPkt} (hk : Keeps s0 s) : Keeps s0 (fillSlot c k p s) :=
  storeBytes_keeps hk

theorem dropHalf_keeps {v : Caravan} {h : Half} (hk : Keeps s0 s) : Keeps s0 (dropHalf v h s) :=
  modCv_keeps hk

theorem releaseHalves_keeps {c : BitVec 4} {n : BitVec 8} {k : Word} {t : Nat} (hk : Keeps s0 s) :
    Keeps s0 (releaseHalves c n k t s) := by
  unfold releaseHalves
  split
  · exact hk
  · refine .ite hk (.foldl hk fun t x h1 => ?_)
    split
    · exact .ite (dropHalf_keeps (forwardHalf_keeps h1)) h1
    · exact h1

theorem tileBecomesReady_keeps {c : BitVec 4} {n : BitVec 8} {k : Word} {t : Nat} (hk : Keeps s0 s) :
    Keeps s0 (tileBecomesReady c n k t s) := by
  unfold tileBecomesReady
  split
  · exact hk
  · exact .ite hk (releaseHalves_keeps (.ite (startChain_keeps hk) hk))

theorem noteHeaders_keeps {p : CvPkt} {v : Caravan} (hk : Keeps s0 s) : Keeps s0 (noteHeaders p v s) := by
  unfold noteHeaders
  split
  · exact hk
  · exact .ite (modCore_keeps hk) hk

theorem acceptHalf_keeps {q : Nat} {p : CvPkt} {v : Caravan} (hk : Keeps s0 s) : Keeps s0 (acceptHalf q p v s) := by
  unfold acceptHalf
  extract_lets c k h s1 s2
  have h1 : Keeps s0 s1 := noteHeaders_keeps (fillSlot_keeps (modPort_keeps hk))
  have h2 : Keeps s0 s2 := modCv_keeps h1
  refine .ite (modFab_keeps hk) ?_
  split
  · exact h2
  · exact .ite (dropHalf_keeps (forwardHalf_keeps h2)) h2

theorem recallReaders_keeps {v : Caravan} (hk : Keeps s0 s) : Keeps s0 (recallReaders v s) :=
  .foldl hk fun _ _ h1 => recallOne_keeps h1

theorem raiseGen_keeps {v : Caravan} {gen : Nat} (hk : Keeps s0 s) : Keeps s0 (raiseGen v gen s) :=
  recallReaders_keeps (restartAt_keeps hk)

theorem processPacket_keeps {q : Nat} {p : CvPkt} {v : Caravan} (hk : Keeps s0 s) :
    Keeps s0 (processPacket q p v s) := by
  unfold processPacket
  extract_lets s1
  have h1 : Keeps s0 s1 := .ite (raiseGen_keeps hk) hk
  refine .ite hk (.ite (modFab_keeps hk) ?_)
  split
  · exact h1
  · refine .ite h1 ?_
    split
    · exact redErr_keeps (cvFault_keeps h1)
    · exact acceptHalf_keeps h1

theorem holdPacket_keeps {q : Nat} {p : CvPkt} (hk : Keeps s0 s) : Keeps s0 (holdPacket q p s) := by
  unfold holdPacket
  split
  · exact modFab_keeps (fillSlot_keeps hk)
  · exact modFab_keeps hk

theorem receivePacket_keeps {q : Nat} {p : CvPkt} (hk : Keeps s0 s) : Keeps s0 (receivePacket q p s) := by
  unfold receivePacket
  split
  · exact modFab_keeps hk
  · split
    · exact processPacket_keeps hk
    · extract_lets s1
      have h1 : Keeps s0 s1 := startCaravan_keeps hk
      refine .ite (holdPacket_keeps hk) ?_
      split
      · exact processPacket_keeps h1
      · exact h1

theorem entryWritten_keeps {n : BitVec 8} {k : Word} (hk : Keeps s0 s) : Keeps s0 (entryWritten n k s) :=
  .foldl (modFab_keeps (writeWord_keeps hk)) fun _ _ h3 => receivePacket_keeps h3

theorem takeBlocked_keeps {c : Nat} (hk : Keeps s0 s) : Keeps s0 (takeBlocked c s) := by
  refine .ite hk ?_
  split
  · exact receivePacket_keeps (modFab_keeps hk)
  · exact hk

theorem receiveRestart_keeps {c : BitVec 4} {n : BitVec 8} {k : Word} {gen : BitVec 4} (hk : Keeps s0 s) :
    Keeps s0 (receiveRestart c n k gen s) := by
  unfold receiveRestart
  split
  · exact .ite (raiseGen_keeps hk) hk
  · exact hk

/-! ### The seal offer (Machine/Offer) -/

theorem sendDigests_keeps {c : BitVec 4} (hk : Keeps s0 s) : Keeps s0 (sendDigests c s) :=
  .foldl hk fun _ _ h1 => sendMsg_keeps (sendMsg_keeps h1)

theorem holdEpoch_keeps {c : BitVec 4} (hk : Keeps s0 s) : Keeps s0 (holdEpoch c s) := by
  unfold holdEpoch
  exact modSeal_keeps (sendDigests_keeps (sendAll_keeps (setSealState_keeps hk)))

theorem stuckEpoch_keeps {c : BitVec 4} (hk : Keeps s0 s) : Keeps s0 (stuckEpoch c s) := by
  unfold stuckEpoch
  exact relErr_keeps (sendAll_keeps hk)

theorem rootDecide_keeps {c : BitVec 4} (hk : Keeps s0 s) : Keeps s0 (rootDecide c s) := by
  unfold rootDecide
  extract_lets u m
  split
  · exact hk
  · exact .ite (sendAll_keeps (modSeal_keeps hk)) <|
      .ite (stuckEpoch_keeps (holdEpoch_keeps hk)) (modSeal_keeps (holdEpoch_keeps hk))

theorem markOffered_keeps {c : BitVec 4} (hk : Keeps s0 s) : Keeps s0 (markOffered c s) := by
  unfold markOffered
  exact modSeal_keeps (.ite hk (setSealState_keeps hk))

theorem tryOffer_keeps {c : BitVec 4} (hk : Keeps s0 s) : Keeps s0 (tryOffer c s) := by
  unfold tryOffer
  extract_lets u
  split
  · exact hk
  · extract_lets full
    exact .ite
      (.ite (rootDecide_keeps (.ite (markOffered_keeps (.ite hk (redErr_keeps hk))) hk)) <|
        .ite (markOffered_keeps (.ite hk (redErr_keeps hk))) hk) <|
      .ite (sendMsg_keeps (modSeal_keeps (markOffered_keeps (.ite hk (redErr_keeps hk))))) hk

/-! ### Fabric requests (Machine/Request) -/

theorem countAdd_wf {a : Nat} {m : List Host.Cell} (h : Memory.wf m = true) : Memory.wf (countAdd a m) = true :=
  memPut_wf _ _ _ h

theorem localAtomic_keeps {ty a : Nat} {payload : List Byte} (hk : Keeps s0 s) :
    Keeps s0 (localAtomic ty a payload s).2 := by
  unfold localAtomic
  extract_lets old back v m
  split
  · dsimp only
    exact relErr_keeps hk
  · have hm : Memory.wf s.mem = true → Memory.wf m = true := fun w => memPut_wf _ _ _ (sealStore_wf _ _ _ _ w)
    refine hk.setMem fun w => ?_
    split
    · exact countAdd_wf (hm w)
    · exact hm w

theorem serve_keeps {fabric : Bool} {ty a len : Nat} {payload : List Byte} {poison : Bool} (hk : Keeps s0 s) :
    Keeps s0 (serve fabric ty a len payload poison s).2 := by
  unfold serve
  split
  · exact hk
  · split
    · exact noteRead_keeps hk
    · split
      · split
        · exact hk
        · split
          · exact hk
          · exact localAtomic_keeps hk
      · exact localWrite_keeps hk

theorem respond_keeps {port vc : Nat} {p : Pkt} {r : Rd} (hk : Keeps s0 s) : Keeps s0 (respond port vc p r s) := by
  unfold respond
  extract_lets ty die q out i
  split
  · exact enqueue_keeps hk
  · exact modFab_keeps hk

theorem deny_keeps {port vc : Nat} {p : Pkt} (hk : Keeps s0 s) : Keeps s0 (deny port vc p s) :=
  respond_keeps (modFab_keeps hk)

theorem verifyLanding_keeps {p : Pkt} {r : Rd × State} (hk : Keeps s0 r.2) : Keeps s0 (verifyLanding p r).2 := by
  unfold verifyLanding
  split
  · exact hk
  · split
    · exact hk
    · split
      · exact hk
      · exact storeBytes_keeps hk

theorem serveArrived_keeps {port vc : Nat} {p : Pkt} {len : Nat} (hk : Keeps s0 s) :
    Keeps s0 (serveArrived port vc p len s) := by
  unfold serveArrived
  extract_lets r r'
  have hr : Keeps s0 r.2 := serve_keeps hk
  refine .ite (respond_keeps (verifyLanding_keeps hr)) ?_
  split
  · exact deny_keeps hk
  · exact respond_keeps hr

theorem noteRecallKind_keeps {p : Pkt} (hk : Keeps s0 s) : Keeps s0 (noteRecallKind p s) :=
  .ite (relErr_keeps hk) hk

theorem answerMessage_keeps {port vc : Nat} {p : Pkt} (hk : Keeps s0 s) : Keeps s0 (answerMessage port vc p s) :=
  .ite hk (.ite (deny_keeps hk) (respond_keeps (noteRecallKind_keeps hk)))

theorem sendRequest_keeps {die : Bool} {p : Pkt} (hk : Keeps s0 s) : Keeps s0 (sendRequest die p s).2 := by
  unfold sendRequest
  extract_lets ty hold r
  have hh : Keeps s0 (hold s).2 := by
    dsimp only [hold]
    exact modFab_keeps hk
  split
  · split
    · exact hh
    · exact serve_keeps hk
  · split
    · exact hk
    · split
      · dsimp only
        exact modFab_keeps hk
      · split
        · exact hh
        · dsimp only
          exact modFab_keeps (enqueue_keeps hk)

theorem newRequest_keeps {die : Bool} {ty : Nat} {g : W64} {ctx : BitVec 4} {epoch : Word} {poison : Bool} {len : Nat}
    {payload : List Byte} (hk : Keeps s0 s) :
    Keeps s0 (newRequest die ty g ctx epoch poison len payload s).2.2 := by
  simp only [newRequest, freshTag, Prod.mk.eta]
  exact sendRequest_keeps (modFab_keeps hk)

/-- What holds of a requester's work while its answer is to come and with the answer holds of the request. -/
theorem byAnswer_of {α : Type} {P : α → Prop} {q : BitVec 16 × Option Answer × State} {wait : BitVec 16 → State → α}
    {done : Answer → State → α} (hq : Keeps s0 q.2.2) (hw : ∀ tag t, Keeps s0 t → P (wait tag t))
    (hd : ∀ a t, Keeps s0 t → P (done a t)) : P (byAnswer q wait done) := by
  unfold byAnswer
  split
  · exact hw _ _ hq
  · exact hd _ _ hq

/-- The state in which a memory command goes on or ends. -/
def progressState : Progress → State
  | .waits _ s => s
  | .ends _ _ s => s

theorem moverRead_keeps {ctx : BitVec 4} {g : W64} {n : Nat} (hk : Keeps s0 s) : Keeps s0 (moverRead ctx g n s).2 := by
  have h {rs : List Range} : Keeps s0 (checkFor ctx .good rs s).2 := checkFor_keeps hk
  unfold moverRead
  split
  · exact hk
  · exact .ite h (Keeps.upd h)

theorem copyMarks_keeps {src dst : W64} {n : Nat} (hk : Keeps s0 s) : Keeps s0 (copyMarks src dst n s) :=
  .ite (carryMarks_keeps hk) hk

theorem copyRun_keeps {ctx : BitVec 4} {fuel : Nat} {src dst : W64} {left done : Nat} {data : Option (List Byte × Bool)}
    (hk : Keeps s0 s) : Keeps s0 (progressState (copyRun ctx fuel src dst left done data s)) := by
  induction fuel generalizing src dst left done data s with
  | zero => exact hk
  | succ fuel ih =>
    unfold copyRun
    split
    · exact hk
    · extract_lets n
      split
      · dsimp -zeta only
        have hm : Keeps s0 (moverRead ctx src n s).2 := moverRead_keeps hk
        split
        · exact hm
        · refine byAnswer_of (P := fun x => Keeps s0 (progressState x)) (newRequest_keeps hm) (fun _ _ h => h)
            fun a t h => ?_
          split
          · exact ih h
          · exact h
      · refine byAnswer_of (P := fun x => Keeps s0 (progressState x)) (newRequest_keeps hk) (fun _ _ h => h)
          fun a t h => ?_
        split
        · exact ih (copyMarks_keeps h)
        · exact h

theorem copyAnswer_keeps {ctx : BitVec 4} {src dst : W64} {left done : Nat} {load : Bool} {a : Answer}
    (hk : Keeps s0 s) :
    Keeps s0 (progressState (copyAnswer ctx src dst left done load a s)) := by
  unfold copyAnswer
  split
  · exact hk
  · split
    · exact copyRun_keeps hk
    · exact copyRun_keeps (copyMarks_keeps hk)

theorem fillRun_keeps {ctx : BitVec 4} {pattern : W64} {fuel : Nat} {dst : W64} {left done : Nat} (hk : Keeps s0 s) :
    Keeps s0 (progressState (fillRun ctx pattern fuel dst left done s)) := by
  induction fuel generalizing dst left done s with
  | zero => exact hk
  | succ fuel ih =>
    unfold fillRun
    split
    · exact hk
    · refine byAnswer_of (P := fun x => Keeps s0 (progressState x)) (newRequest_keeps hk) (fun _ _ h => h)
        fun a t h => ?_
      split
      · exact ih h
      · exact h

theorem fillAnswer_keeps {ctx : BitVec 4} {pattern dst : W64} {left done : Nat} {a : Answer} (hk : Keeps s0 s) :
    Keeps s0 (progressState (fillAnswer ctx pattern dst left done a s)) := by
  unfold fillAnswer
  split
  · exact hk
  · exact fillRun_keeps hk

theorem readRun_keeps {ctx : BitVec 4} {fuel : Nat} {src : W64} {left : Nat} {got : List Byte} {poison : Bool}
    (hk : Keeps s0 s) : Keeps s0 (progressState (readRun ctx fuel src left got poison s)) := by
  induction fuel generalizing src left got poison s with
  | zero => exact hk
  | succ fuel ih =>
    unfold readRun
    split
    · exact hk
    · dsimp only
      have hm : Keeps s0 (moverRead ctx src (min left (toBoundary (localOf src))) s).2 := moverRead_keeps hk
      split
      · exact hm
      · refine byAnswer_of (P := fun x => Keeps s0 (progressState x)) (newRequest_keeps hm) (fun _ _ h => h)
          fun a t h => ?_
        split
        · exact ih h
        · exact h

theorem readAnswer_keeps {ctx : BitVec 4} {src : W64} {left : Nat} {got : List Byte} {poison : Bool} {a : Answer}
    (hk : Keeps s0 s) : Keeps s0 (progressState (readAnswer ctx src left got poison a s)) := by
  unfold readAnswer
  split
  · exact hk
  · exact readRun_keeps hk

theorem settle_keeps {r : Run} {p : Progress} (hk : Keeps s0 (progressState p)) : Keeps s0 (settle r p) := by
  unfold settle
  split
  · exact setTask_keeps hk
  · exact completeRun_keeps hk

theorem stageBytes_keeps {r : Run} {bytes : List Byte} {status : Nat} {res : List Word} (hk : Keeps s0 s) :
    Keeps s0 (stageBytes r bytes status res s) :=
  .ite (completeRun_keeps hk) (raise_keeps (modHost_keeps (completeRun_keeps hk)))

theorem stageRead_keeps {r : Run} (hk : Keeps s0 s) : Keeps s0 (stageRead r s) := by
  unfold stageRead
  split
  · exact stageBytes_keeps hk
  · exact hk

theorem pumpOne_keeps (hk : Keeps s0 s) : Keeps s0 (pumpOne s) := by
  refine .ite hk ?_
  split
  · exact hk
  · rename_i r _
    split
    · exact stageBytes_keeps hk
    · rename_i src left got poison _
      have h : Keeps s0 (progressState (readRun r.pkt.hdr.ctx (copyFuel left) src left got poison s)) :=
        readRun_keeps hk
      split
      · rename_i heq
        rw [heq] at h
        exact stageRead_keeps (setTask_keeps h)
      · rename_i heq
        rw [heq] at h
        exact completeRun_keeps h
    · exact hk

theorem pumpOut_keeps (hk : Keeps s0 s) : Keeps s0 (pumpOut s) :=
  .foldl hk fun _ _ h1 => pumpOne_keeps h1

theorem writeAnswer_keeps {r : Run} {dst : W64} {left written : Nat} {held : List Byte}
    {tags : List (BitVec 16 × Nat)} {a : Answer} (hk : Keeps s0 s) :
    Keeps s0 (writeAnswer r dst left written held tags a s) :=
  .ite (completeRun_keeps hk) (.ite (completeRun_keeps hk) (setTask_keeps hk))

/-- The state in which a run of stores ends. -/
def storedState (r : Option Nat × Nat × List (BitVec 16 × Nat) × State) : State := r.2.2.2

theorem storeRun_keeps {ctx : BitVec 4} {fuel : Nat} {dst : W64} {bytes : List Byte} {written : Nat}
    {tags : List (BitVec 16 × Nat)} (hk : Keeps s0 s) :
    Keeps s0 (storedState (storeRun ctx fuel dst bytes written tags s)) := by
  induction fuel generalizing dst bytes written tags s with
  | zero => exact hk
  | succ fuel ih =>
    unfold storeRun
    split
    · exact hk
    · refine byAnswer_of (P := fun x => Keeps s0 (storedState x)) (newRequest_keeps hk) (fun _ _ h => ih h)
        fun a t h => ?_
      split
      · exact ih h
      · exact h

theorem takeWrite_keeps {r : Run} {dst : W64} {left written : Nat} {held : List Byte} {tags : List (BitVec 16 × Nat)}
    {bytes : List Byte} (hk : Keeps s0 s) : Keeps s0 (takeWrite r dst left written held tags bytes s) := by
  unfold takeWrite
  extract_lets all left' k
  have h : Keeps s0 (storedState (storeRun r.pkt.hdr.ctx (k / 4096 + 2) dst (all.take k) written tags s)) :=
    storeRun_keeps hk
  split
  · rename_i heq
    rw [heq] at h
    exact completeRun_keeps h
  · rename_i heq
    rw [heq] at h
    exact .ite (completeRun_keeps h) (setTask_keeps h)

theorem pullCtx_keeps {data : List Byte} {c : Nat} (hk : Keeps s0 s) : Keeps s0 (pullCtx data s c) :=
  .ite hk (modCtx_keeps hk)

theorem pullTake_keeps {x : Pull} {a : Answer} (hk : Keeps s0 s) : Keeps s0 (pullTake x a s).2 := by
  unfold pullTake
  split
  · exact .foldl hk fun _ _ h => pullCtx_keeps h
  · exact hk
  · exact storeBytes_keeps hk
  · exact .foldl hk fun _ _ h => storeBytes_keeps h
  · exact hk

theorem pullStep_keeps {twin : DevId} {x : Pull} {rest got : List Pull} {done : Nat} {a : Answer}
    {r : List Pull × List Pull × Nat × State} (hk : Keeps s0 s) (hr : pullStep twin x rest got done a s = some r) :
    Keeps s0 r.2.2.2 := by
  unfold pullStep at hr
  extract_lets failing at hr
  split at hr
  · cases hr
  · cases hr
    exact pullTake_keeps hk

theorem pullRun_keeps {twin : DevId} {fuel : Nat} {todo got : List Pull} {done : Nat} (hk : Keeps s0 s) :
    Keeps s0 (progressState (pullRun twin fuel todo got done s)) := by
  induction fuel generalizing todo got done s with
  | zero => exact hk
  | succ fuel ih =>
    unfold pullRun
    split
    · exact hk
    · refine byAnswer_of (P := fun x => Keeps s0 (progressState x)) (newRequest_keeps hk) (fun _ _ h => h)
        fun a t h => ?_
      split
      · exact h
      · split
        · exact h
        · rename_i hr
          exact ih (pullStep_keeps h hr)

theorem pullAnswer_keeps {twin : DevId} {todo got : List Pull} {done : Nat} {a : Answer} (hk : Keeps s0 s) :
    Keeps s0 (progressState (pullAnswer twin todo got done a s)) := by
  unfold pullAnswer
  split
  · exact hk
  · split
    · exact hk
    · split
      · exact hk
      · rename_i hr
        exact pullRun_keeps (pullStep_keeps hk hr)

theorem runAnswer_keeps {r : Run} {a : Answer} {load : Bool} (hk : Keeps s0 s) : Keeps s0 (runAnswer r a load s) := by
  unfold runAnswer
  extract_lets ctx
  split
  · exact writeAnswer_keeps hk
  · exact settle_keeps (copyAnswer_keeps hk)
  · exact settle_keeps (fillAnswer_keeps hk)
  · rename_i src left got poison _ _
    have h : Keeps s0 (progressState (readAnswer ctx src left got poison a s)) := readAnswer_keeps hk
    split
    · rename_i heq
      rw [heq] at h
      exact pumpOut_keeps (stageRead_keeps (setTask_keeps h))
    · rename_i heq
      rw [heq] at h
      exact pumpOut_keeps (completeRun_keeps h)
  · exact settle_keeps (pullAnswer_keeps hk)
  · exact hk

theorem setTwinState_keeps {v : Nat} (hk : Keeps s0 s) : Keeps s0 (setTwinState v s) :=
  modRel_keeps hk

theorem dropMirror_keeps (hk : Keeps s0 s) : Keeps s0 (dropMirror s) :=
  modRel_keeps hk

theorem tryUnpair_keeps (hk : Keeps s0 s) : Keeps s0 (tryUnpair s) :=
  .ite
    (.foldl
      (.foldl (setTwinState_keeps (dropMirror_keeps hk)) fun _ _ h2 =>
        .ite (completeRun_keeps h2) (.ite (completeRun_keeps h2) h2))
      fun _ _ h3 => tryOffer_keeps h3)
    hk

theorem mirrorAnswer_keeps {m : BitVec 16 × BitVec 4} {a : Answer} (hk : Keeps s0 s) :
    Keeps s0 (mirrorAnswer m a s) :=
  tryUnpair_keeps (tryOffer_keeps (.ite (modRel_keeps hk) (relErr_keeps (modSeal_keeps (modRel_keeps hk)))))

theorem deliver_keeps {a : Answer} {load : Bool} (hk : Keeps s0 s) : Keeps s0 (deliver a load s) := by
  unfold deliver
  split
  · exact runAnswer_keeps hk
  · split
    · exact .ite (modLaunch_keeps hk) (stopLaunch_keeps (modLaunch_keeps hk))
    · split
      · exact mirrorAnswer_keeps hk
      · exact modFab_keeps hk

theorem retryHeld_keeps (hk : Keeps s0 s) : Keeps s0 (retryHeld s) := by
  refine .foldl (modFab_keeps hk) fun t x h => ?_
  have hr : Keeps s0 (sendRequest x.die x.pkt t).2 := sendRequest_keeps h
  split
  · rename_i heq
    rw [heq] at hr
    exact deliver_keeps hr
  · rename_i heq
    rw [heq] at hr
    exact hr

theorem answerOutst_keeps {o : Outst} {a : Answer} (hk : Keeps s0 s) : Keeps s0 (answerOutst o a s) := by
  unfold answerOutst
  extract_lets t
  have ht : Keeps s0 t := modFab_keeps hk
  exact retryHeld_keeps (.ite ht (deliver_keeps ht))

theorem request_keeps {ty : Nat} {r : Req} (hk : Keeps s0 s) : Keeps s0 (request ty r s) := by
  unfold request
  cases r.inbound with
  | some port => exact serveArrived_keeps hk
  | none =>
    extract_lets p
    have hs : Keeps s0 (sendRequest r.die { p with src := ownId s } s).2 := sendRequest_keeps hk
    match sendRequest r.die { p with src := ownId s } s, hs with
    | (some a, t), ht => exact deliver_keeps ht
    | (none, t), ht => exact ht

theorem receiveResponse_keeps {p : Pkt} (hk : Keeps s0 s) : Keeps s0 (receiveResponse p s) := by
  unfold receiveResponse
  split
  · exact modFab_keeps hk
  · exact answerOutst_keeps (.ite (modFab_keeps hk) hk)

theorem timeoutRequest_keeps {tag : BitVec 16} (hk : Keeps s0 s) : Keeps s0 (timeoutRequest tag s) := by
  unfold timeoutRequest
  split
  · exact hk
  · exact answerOutst_keeps hk

/-! ### Links, packets and the rack time (Machine/Fabric) -/

theorem sendFlit_keeps {q vc ty psn fill : Nat} {slot : List Byte} (hk : Keeps s0 s) :
    Keeps s0 (sendFlit q vc ty psn fill slot s) := by
  unfold sendFlit
  dsimp -zeta only
  extract_lets x f s1
  have h1 : Keeps s0 s1 := modPort_keeps hk
  exact Keeps.upd h1

theorem takeFlit_keeps {q : Nat} {f : Flit} (hk : Keeps s0 s) : Keeps s0 (takeFlit q f s) :=
  modPort_keeps hk

theorem replayFrom_keeps {q : Nat} {lseq : BitVec 12} (hk : Keeps s0 s) : Keeps s0 (replayFrom q lseq s) :=
  modPort_keeps hk

theorem acceptFlit_keeps {q : Nat} {f : Flit} (hk : Keeps s0 s) : Keeps s0 (acceptFlit q f s) := by
  unfold acceptFlit
  extract_lets s1 ty s2 d
  have h1 : Keeps s0 s1 := modPort_keeps hk
  have h2 : Keeps s0 s2 := modPort_keeps h1
  exact .ite (modPort_keeps hk) (.ite h1 (.ite (replayFrom_keeps h1) (.ite (modPort_keeps h2) (takeFlit_keeps h2))))

theorem receiveFlit_keeps {q : Nat} {f : Flit} (hk : Keeps s0 s) : Keeps s0 (receiveFlit q f s) :=
  .ite (sendFlit_keeps (modPort_keeps hk)) (acceptFlit_keeps (modPort_keeps hk))

theorem stallExpiry_keeps {q vc : Nat} (hk : Keeps s0 s) : Keeps s0 (stallExpiry q vc s) :=
  .ite hk (sendMsg_keeps (modPort_keeps hk))

theorem receiveWhole_keeps {q vc : Nat} {p : Pkt} {flits : Nat} (hk : Keeps s0 s) :
    Keeps s0 (receiveWhole q vc p flits s) :=
  .ite (modPort_keeps hk) (.ite (receiveResponse_keeps hk) (.ite (answerMessage_keeps hk) (serveArrived_keeps hk)))

theorem transmitItem_keeps {p : Nat} {q : QItem} (hk : Keeps s0 s) : Keeps s0 (transmitItem p q s) :=
  sendFlit_keeps (modPort_keeps hk)

theorem transmit_keeps {p : Nat} (hk : Keeps s0 s) : Keeps s0 (transmit p s) := by
  unfold transmit
  extract_lets x
  refine .ite hk ?_
  split
  · extract_lets s1
    have h1 : Keeps s0 s1 := modPort_keeps hk
    exact Keeps.upd h1
  · split
    · exact transmitItem_keeps hk
    · exact .ite (modPort_keeps hk) (sendFlit_keeps (modPort_keeps hk))

theorem windowStart_keeps (hk : Keeps s0 s) : Keeps s0 (windowStart s) :=
  .foldl hk fun _ _ h1 => modPort_keeps h1

theorem moveItem_keeps {r : List Held × State} {q : QItem} (hk : Keeps s0 r.2) : Keeps s0 (moveItem r q).2 := by
  obtain ⟨held, t⟩ := r
  unfold moveItem
  dsimp -zeta only
  split
  · extract_lets put
    have hp : Keeps s0 (put t) := modPort_keeps hk
    split
    · split
      · dsimp only
        exact modFab_keeps hk
      · dsimp only
        exact modFab_keeps hp
    · exact hp
  · extract_lets u
    have hu : Keeps s0 u := modFab_keeps hk
    split
    · exact answerOutst_keeps hu
    · exact hu

theorem leaveService_keeps {p st : Nat} (hk : Keeps s0 s) : Keeps s0 (leaveService p st s) := by
  unfold leaveService
  exact modFab_keeps (.foldlOn (fun r : List Held × State => r.2) (modPort_keeps hk) fun _ _ h => moveItem_keeps h)

theorem linkDown_keeps {p : Nat} (hk : Keeps s0 s) : Keeps s0 (linkDown p s) :=
  .foldl hk fun _ _ h1 => answerOutst_keeps h1

theorem goDown_keeps {p : Nat} (hk : Keeps s0 s) : Keeps s0 (goDown p s) :=
  linkDown_keeps (modPort_keeps (leaveService_keeps hk))

theorem failLane_keeps {p l : Nat} (hk : Keeps s0 s) : Keeps s0 (failLane p l s) := by
  unfold failLane
  extract_lets x s1 s2 w
  have h1 : Keeps s0 s1 := modPort_keeps hk
  have h2 : Keeps s0 s2 := laneEvent_keeps (modPort_keeps h1)
  exact .ite hk (.ite h1 (.ite (goDown_keeps h2) (leaveService_keeps h2)))

theorem retrainPort_keeps {p : Nat} (hk : Keeps s0 s) : Keeps s0 (retrainPort p s) :=
  .ite hk (modPort_keeps (leaveService_keeps hk))

theorem disablePort_keeps {p : Nat} (hk : Keeps s0 s) : Keeps s0 (disablePort p s) :=
  linkDown_keeps (modPort_keeps (leaveService_keeps (modPort_keeps hk)))

theorem retrainEnds_keeps {p : Nat} (hk : Keeps s0 s) : Keeps s0 (retrainEnds p s) := by
  refine .foldl hk fun t x h1 => ?_
  split
  · exact .ite (completeRun_keeps h1) (setTask_keeps h1)
  · exact h1

theorem noteTraining_keeps {p good : Nat} (hk : Keeps s0 s) : Keeps s0 (noteTraining p good s) := by
  refine .foldl hk fun t x h1 => ?_
  extract_lets s2 s3
  have h2 : Keeps s0 s2 := modPort_keeps h1
  have h3 : Keeps s0 s3 := laneEvent_keeps h2
  exact .ite (modPort_keeps h1) (.ite h2 (.ite (modPort_keeps (setPermanent_keeps h3)) h3))

theorem trainEnd_keeps {p : Nat} {locked : Byte} {eyes : List Byte} (hk : Keeps s0 s) :
    Keeps s0 (trainEnd p locked eyes s) := by
  unfold trainEnd
  extract_lets tested s1 s2 x w s3
  have h1 : Keeps s0 s1 := noteTraining_keeps (modPort_keeps hk)
  have h2 : Keeps s0 s2 := modPort_keeps h1
  have h3 : Keeps s0 s3 := .ite (goDown_keeps h2) (modPort_keeps h2)
  exact .ite hk (retrainEnds_keeps h3)

theorem measureEyes_keeps {p : Nat} {widths : List Byte} (hk : Keeps s0 s) : Keeps s0 (measureEyes p widths s) :=
  .ite hk (modPort_keeps hk)

theorem stallNoticed_keeps {tag : BitVec 16} (hk : Keeps s0 s) : Keeps s0 (stallNoticed tag s) := by
  unfold stallNoticed
  split
  · exact hk
  · refine .ite (answerOutst_keeps hk) ?_
    split
    · exact answerOutst_keeps (modFab_keeps hk)
    · exact enqueue_keeps (modFab_keeps hk)

theorem timeRises_keeps {v : W64} (hk : Keeps s0 s) : Keeps s0 (timeRises v s) := by
  unfold timeRises
  extract_lets s1 s2
  have h1 : Keeps s0 s1 := modFab_keeps hk
  have h2 : Keeps s0 s2 := Keeps.upd h1
  exact Keeps.upd h2

theorem sendBeacons_keeps (hk : Keeps s0 s) : Keeps s0 (sendBeacons s) :=
  .foldl hk fun _ _ h1 => sendMsg_keeps h1

theorem frameMark_keeps (hk : Keeps s0 s) : Keeps s0 (frameMark s) := by
  unfold frameMark
  extract_lets s1
  have h1 : Keeps s0 s1 := by
    subst s1
    refine .ite (.ite hk (modFab_keeps hk)) ?_
    split
    · exact timeRises_keeps hk
    · exact .ite (timeRises_keeps hk) hk
  exact .ite (sendBeacons_keeps h1) h1

/-! ### Tensor entries (Machine/Flags) -/

theorem modEntry_keeps {k t : Nat} {f : Entry → Entry} (hk : Keeps s0 s) : Keeps s0 (modEntry s k t f) :=
  modCore_keeps hk

theorem account_keeps {l : LaunchS} {k t : Nat} {st : TStat} (hk : Keeps s0 s) : Keeps s0 (account l k t st s) :=
  .ite hk (modEntry_keeps hk)

theorem writeGroup_keeps {l : LaunchS} {k t : Nat} {dst : VFmt} {dig : Bool} {a : Nat} {vs : List Pv}
    {missed poison : Bool} (hk : Keeps s0 s) :
    Keeps s0 (writeGroup l k t dst dig a vs missed poison s).2 := by
  unfold writeGroup
  extract_lets r w b
  split
  · exact hk
  · exact account_keeps (markedWrite_keeps hk)

theorem noteInexact_keeps {l : LaunchS} {k t n : Nat} (hk : Keeps s0 s) : Keeps s0 (noteInexact l k t n s) :=
  .ite (modEntry_keeps hk) hk

theorem ownerConflict_keeps {k uid : Nat} (hk : Keeps s0 s) : Keeps s0 (ownerConflict k uid s) :=
  stopLaunch_keeps (modCore_keeps hk)

/-! ### The vector engine (Machine/Vector) -/

theorem vecWrite_keeps {o : VOp} {ws : List Word} (hk : Keeps s0 s) : Keeps s0 (vecWrite o ws s) := by
  unfold vecWrite
  split
  · exact hk
  · extract_lets k s1 e s2 r
    have h1 : Keeps s0 s1 := noteIssue_keeps hk
    have h2 : Keeps s0 s2 := .ite (modCore_keeps h1) h1
    exact .ite (ownerConflict_keeps h2) (account_keeps (modCore_keeps h2))

theorem countTails_keeps {k n : Nat} (hk : Keeps s0 s) : Keeps s0 (countTails k n s) :=
  modCore_keeps hk

theorem tableRun_keeps {o : VOp} {slot : BitVec 2} {a : VSrc} (hk : Keeps s0 s) : Keeps s0 (tableRun o slot a s) :=
  vecWrite_keeps (countTails_keeps hk)

theorem tableDRun_keeps {o : VOp} {slot : BitVec 2} {xs g : VSrc} (hk : Keeps s0 s) :
    Keeps s0 (tableDRun o slot xs g s) :=
  vecWrite_keeps (countTails_keeps hk)

theorem waddRun_keeps {k : Nat} {sc : BitVec 8} {header : Byte} {codes : List Byte} {own : List Dy} {oh : Byte}
    (hk : Keeps s0 s) :
    Keeps s0 (waddRun k sc header codes own oh s) :=
  modCore_keeps hk

theorem opReserved_keeps {k launch : Nat} {code : BitVec 6} (hk : Keeps s0 s) :
    Keeps s0 (opReserved k launch code s) :=
  .ite (stopLaunch_keeps (modCore_keeps hk)) hk

theorem slotWrite_keeps {k slot off : Nat} {v : Word} (hk : Keeps s0 s) : Keeps s0 (slotWrite k slot off v s) :=
  .ite hk (.ite (modCore_keeps hk) (.ite (modCore_keeps hk) (modCore_keeps hk)))

theorem slotSum_keeps {k slot : Nat} (hk : Keeps s0 s) : Keeps s0 (slotSum k slot s) :=
  modCore_keeps hk

/-! ### The matrix engine (Machine/Engine) -/

theorem descBad_keeps {k uid : Nat} (hk : Keeps s0 s) : Keeps s0 (descBad k uid s) :=
  stopLaunch_keeps (modCore_keeps hk)

theorem enqueueDesc_keeps {uid k : Nat} {words : List Word} (hk : Keeps s0 s) :
    Keeps s0 (enqueueDesc uid k words s) := by
  unfold enqueueDesc
  split
  · exact hk
  · exact .ite hk (.ite (descBad_keeps hk) (.ite (modCore_keeps hk) hk))

theorem wakeNotice_keeps {c : Nat} (hk : Keeps s0 s) : Keeps s0 (wakeNotice c s) := by
  unfold wakeNotice
  split
  · exact modPwr_keeps hk
  · exact notice_keeps hk

theorem askNotice_keeps {k : Nat} (hk : Keeps s0 s) : Keeps s0 (askNotice k s) :=
  .ite (wakeNotice_keeps (modCore_keeps hk)) hk

theorem wakeEngine_keeps {k : Nat} (hk : Keeps s0 s) : Keeps s0 (wakeEngine k s) :=
  .ite hk (askNotice_keeps hk)

theorem askNotices_keeps {ks : List Nat} (hk : Keeps s0 s) : Keeps s0 (askNotices ks s) :=
  .foldl hk fun _ _ h1 => askNotice_keeps h1

theorem idleEngine_keeps {k : Nat} (hk : Keeps s0 s) : Keeps s0 (idleEngine k s) :=
  .ite (modCore_keeps hk) hk

theorem dropHead_keeps {k : Nat} (hk : Keeps s0 s) : Keeps s0 (dropHead k s) :=
  modCore_keeps hk

theorem checkFailed_keeps {k : Nat} {q : Queued} (hk : Keeps s0 s) : Keeps s0 (checkFailed k q s) := by
  unfold checkFailed
  extract_lets s1 s2
  have h1 : Keeps s0 s1 := relErr_keeps (dropHead_keeps hk)
  have h2 : Keeps s0 s2 := modCore_keeps h1
  exact .ite (coreEvent_keeps h2) h2

theorem issuePass_keeps {k : Nat} {check : CheckSeen} (hk : Keeps s0 s) : Keeps s0 (issuePass k check s) := by
  unfold issuePass
  extract_lets c
  split
  · exact hk
  · split
    · exact modCore_keeps hk
    · extract_lets n s1 s2
      have h1 : Keeps s0 s1 := .ite (modCv_keeps (startCaravan_keeps hk)) hk
      have h2 : Keeps s0 s2 := spoil_keeps h1
      refine .ite hk <|
        .ite (.ite hk (modCore_keeps hk)) <|
        .ite (stopLaunch_keeps (dropHead_keeps hk)) <|
        .ite (descBad_keeps (modCore_keeps h1)) <|
        .ite (stopLaunch_keeps (dropHead_keeps h1)) ?_
      split
      · exact modCore_keeps (noteIssue_keeps h2)
      · exact checkFailed_keeps h2

theorem rereadGroup_keeps {k : Nat} {seen : CheckSeen} (hk : Keeps s0 s) : Keeps s0 (rereadGroup k seen s) := by
  unfold rereadGroup
  split
  · exact hk
  · extract_lets s1
    have h1 : Keeps s0 s1 := spoil_keeps (modCore_keeps hk)
    exact .ite (modLaunch_keeps (atRest_keeps h1)) (coreEvent_keeps (modCore_keeps (rereadOk_keeps h1)))

theorem engineWork_keeps {k : Nat} {w : EngWork} (hk : Keeps s0 s) : Keeps s0 (engineWork k w s) :=
  modCore_keeps hk

theorem productPass_keeps {k bubbles : Nat} (hk : Keeps s0 s) : Keeps s0 (productPass k bubbles s) := by
  unfold productPass
  dsimp -zeta only
  split
  · exact hk
  · extract_lets q
    split
    · exact modCore_keeps hk
    · extract_lets s1 s2
      have h1 : Keeps s0 s1 := .ite (noteInexact_keeps (engineWork_keeps (noteIssue_keeps (modCore_keeps hk)))) <|
        .ite (engineWork_keeps (noteIssue_keeps (modCore_keeps hk)))
          (account_keeps (engineWork_keeps (noteIssue_keeps (modCore_keeps hk))))
      have h2 : Keeps s0 s2 := .ite (terminateCtx_keeps (relErr_keeps h1)) h1
      exact .ite hk (.ite (stopLaunch_keeps (modCore_keeps hk)) (modCore_keeps h2))

theorem storeImage_keeps {l : LaunchS} {k t n : Nat} {dig poison : Bool} {bs : List ImageBlock} (hk : Keeps s0 s) :
    Keeps s0 (storeImage l k t n dig poison bs s) :=
  .foldl hk fun _ _ h1 => account_keeps (storeMarked_keeps h1)

theorem imageBuild_keeps {k : Nat} (hk : Keeps s0 s) : Keeps s0 (imageBuild k s) := by
  unfold imageBuild
  split
  · exact hk
  · extract_lets q
    split
    · exact modCore_keeps hk
    · extract_lets s1 s2
      have h1 : Keeps s0 s1 := storeImage_keeps (noteIssue_keeps (modCore_keeps hk))
      have h2 : Keeps s0 s2 := engineWork_keeps h1
      exact .ite hk <|
        .ite (stopLaunch_keeps (modCore_keeps (noteIssue_keeps (modCore_keeps hk)))) <|
        .ite (ownerConflict_keeps (noteIssue_keeps (modCore_keeps hk))) <|
        .ite (terminateCtx_keeps (relErr_keeps h2)) h2

theorem popDrain_keeps {k : Nat} (hk : Keeps s0 s) : Keeps s0 (popDrain k s) :=
  modCore_keeps hk

theorem drainWrite_keeps {k : Nat} {p : Pass} {l : LaunchS} {row : List Machine.Acc} (hk : Keeps s0 s) :
    Keeps s0 (drainWrite k p l row s) :=
  .ite (ownerConflict_keeps (popDrain_keeps hk)) <|
    .ite (descBad_keeps (popDrain_keeps hk)) <|
    .ite (stopLaunch_keeps (modCore_keeps (popDrain_keeps hk))) (.foldl hk fun _ _ h1 => writeGroup_keeps h1)

theorem drainStream_keeps {k : Nat} {p : Pass} {l : LaunchS} {row : List Machine.Acc} (hk : Keeps s0 s) :
    Keeps s0 (drainStream k p l row s) := by
  unfold drainStream
  split
  · exact hk
  · exact contributeRow_keeps hk

theorem drainRow_keeps {k : Nat} {accept : Bool} (hk : Keeps s0 s) : Keeps s0 (drainRow k accept s) := by
  unfold drainRow
  extract_lets c
  split
  · exact hk
  · extract_lets q s1 s2 row last s3 s4
    have h1 : Keeps s0 s1 := noteIssue_keeps hk
    have h2 : Keeps s0 s2 := modCore_keeps h1
    have h3 : Keeps s0 s3 := by
      subst s3
      split
      · exact h2
      · exact .ite h2 (.ite (drainStream_keeps h2) (drainWrite_keeps h2))
    have h4 : Keeps s0 s4 := by
      subst s4
      split
      · split
        · exact .ite (countContribution_keeps h3) h3
        · exact h3
      · exact h3
    exact .ite (modCore_keeps hk) (.ite h3 (modCore_keeps h4))

theorem startSelfTest_keeps {k : Nat} (hk : Keeps s0 s) : Keeps s0 (startSelfTest k s) :=
  .ite (modCore_keeps hk) hk

theorem endSelfTest_keeps {k : Nat} {pass : Bool} (hk : Keeps s0 s) : Keeps s0 (endSelfTest k pass s) := by
  unfold endSelfTest
  extract_lets s1 s2 s3
  have h1 : Keeps s0 s1 := modCore_keeps hk
  have h2 : Keeps s0 s2 := modRel_keeps h1
  have h3 : Keeps s0 s3 := .foldl h2 fun _ _ h3 => .ite h3 (.ite (exitRule_keeps (modArr_keeps h3)) (modArr_keeps h3))
  exact .ite hk <|
    .ite
      (.ite (retestDone_keeps (countUnits_keeps h3)) <|
        .ite (retestDone_keeps (setPermanent_keeps h1)) (fenceCore_keeps h1)) <|
    .ite h1 (fenceCore_keeps h1)

/-! ### The program of a launch (Machine/Phases) -/

theorem nextEntry_keeps {uid : Nat} (hk : Keeps s0 s) : Keeps s0 (nextEntry uid s) :=
  modLaunch_keeps hk

theorem nextBatch_keeps {uid : Nat} {e : Prog} (hk : Keeps s0 s) : Keeps s0 (nextBatch uid e s) := by
  unfold nextBatch
  split
  · exact hk
  · exact .ite (modLaunch_keeps hk) (nextEntry_keeps hk)

theorem reserveStash_keeps {uid : Nat} (hk : Keeps s0 s) : Keeps s0 (reserveStash uid s) := by
  unfold reserveStash
  split
  · exact hk
  · exact .ite hk (modCtx_keeps hk)

theorem releaseBatch_keeps {l : LaunchS} {m : Nat} (hk : Keeps s0 s) : Keeps s0 (releaseBatch l m s) :=
  .ite hk (modCtx_keeps hk)

theorem writeGroups_keeps {l : LaunchS} {entry : Nat} {f : FwdForm} {addr : Nat} {coreAt : Nat → Nat}
    {vals : List (Pv × Bool)} {poison : Bool} (hk : Keeps s0 s) :
    Keeps s0 (writeGroups l entry f addr coreAt vals poison s) :=
  .foldl hk fun _ _ h1 =>
    .ite h1 <|
      .ite (ownerConflict_keeps h1) <|
      .ite (stopLaunch_keeps h1) <|
      .ite (stopLaunch_keeps h1) (writeGroup_keeps h1)

theorem noteTable_keeps {k : Nat} {m : TabMark} (hk : Keeps s0 s) : Keeps s0 (noteTable k m s) := by
  unfold noteTable
  extract_lets s1
  have h1 : Keeps s0 s1 := .ite (countTails_keeps hk) hk
  exact .ite (modCore_keeps h1) h1

theorem enginesWork_keeps {ws : List (Nat × EngWork)} (hk : Keeps s0 s) : Keeps s0 (enginesWork ws s) :=
  .foldl hk fun _ _ h1 => engineWork_keeps h1

theorem askProducts_keeps {l : LaunchS} {e : Prog} {r : Layer} {f : FwdForm} (hk : Keeps s0 s) :
    Keeps s0 (askProducts l e r f s) := by
  unfold askProducts
  extract_lets n bytes src bad s1 s2
  have h1 : Keeps s0 s1 := .foldl hk fun _ _ h1 => .foldl h1 fun _ _ h2 => modArr_keeps h2
  have h2 : Keeps s0 s2 := .ite h1 (.foldl h1 fun _ _ h2 => modCore_keeps h2)
  exact modLaunch_keeps h2

theorem forwardToken_keeps {l : LaunchS} {e : Prog} {r : Layer} {f : FwdForm} {bad : List Range} {factors : Bool}
    {t : Nat} (hk : Keeps s0 s) :
    Keeps s0 (forwardToken l e r f bad factors t s) := by
  unfold forwardToken
  dsimp -zeta only
  extract_lets n bytes src x poison nw coreAt outs tab s1 s2 s3 dst s4
  have h1 : Keeps s0 s1 := .ite hk (engineWork_keeps (account_keeps hk))
  have h2 : Keeps s0 s2 := .foldl h1 fun _ _ h2 => noteIssue_keeps (noteTable_keeps (.ite (engineWork_keeps h2) h2))
  have h3 : Keeps s0 s3 := writeGroups_keeps h2
  have h4 : Keeps s0 s4 := launchStore_keeps h3
  exact .ite hk (.ite (ownerConflict_keeps hk) (.ite h3 (.ite (carryMarks_keeps h4) h4)))

theorem forwardPhase_keeps {uid : Nat} {f : FwdForm} (hk : Keeps s0 s) : Keeps s0 (forwardPhase uid f s) := by
  unfold forwardPhase
  dsimp -zeta only
  split
  · exact hk
  · refine .ite (nextEntry_keeps hk) ?_
    split
    · exact hk
    · extract_lets n bytes src slots rs bad inputs factors engines s1 s2
      have h1 : Keeps s0 s1 := enginesWork_keeps (consume_keeps hk)
      have h2 : Keeps s0 s2 := .foldl h1 fun _ _ h2 => forwardToken_keeps h2
      exact .ite hk <|
        .ite (.ite (stopLaunch_keeps hk) (askProducts_keeps hk)) <|
        .ite hk <|
        .ite (askNotices_keeps hk) <|
        .ite (stopLaunch_keeps hk) <|
        .ite (consume_keeps hk) <|
        .ite (terminateCtx_keeps (relErr_keeps h2)) <|
        .ite (nextBatch_keeps h2) h2

theorem backwardToken_keeps {l : LaunchS} {e : Prog} {r : Layer} {f : FwdForm} {bad : List Range} {poison : Bool}
    {t : Nat} (hk : Keeps s0 s) :
    Keeps s0 (backwardToken l e r f bad poison t s) :=
  .ite hk (writeGroups_keeps (.foldl hk fun _ _ h1 => noteIssue_keeps (noteTable_keeps (engineWork_keeps h1))))

theorem backwardPhase_keeps {uid : Nat} {f : FwdForm} (hk : Keeps s0 s) : Keeps s0 (backwardPhase uid f s) := by
  unfold backwardPhase
  dsimp -zeta only
  split
  · exact hk
  · refine .ite (nextEntry_keeps hk) ?_
    split
    · exact hk
    · extract_lets n sn bytes src xa ks rs bad poison s1 s2
      have h1 : Keeps s0 s1 := enginesWork_keeps (consume_keeps hk)
      have h2 : Keeps s0 s2 := .foldl h1 fun _ _ h2 => backwardToken_keeps h2
      exact .ite hk <|
        .ite (askNotices_keeps hk) <|
        .ite (stopLaunch_keeps hk) <|
        .ite (consume_keeps hk) <|
        .ite (terminateCtx_keeps (relErr_keeps h2)) <|
        .ite (nextBatch_keeps h2) h2

theorem gradTile_keeps {l : LaunchS} {e : Prog} {r : Layer} {f : FwdForm} {o : GradOps} {v : Caravan} {j t : Nat}
    (hk : Keeps s0 s) :
    Keeps s0 (gradTile l e r f o v j t s) :=
  .ite hk
    (countContribution_keeps (.foldl (noteInexact_keeps (noteIssue_keeps (engineWork_keeps hk))) fun _ _ h2 =>
      contributeRow_keeps h2))

theorem gradPhase_keeps {uid : Nat} {f : FwdForm} (hk : Keeps s0 s) : Keeps s0 (gradPhase uid f s) := by
  unfold gradPhase
  dsimp -zeta only
  split
  · exact hk
  · refine .ite (nextEntry_keeps hk) ?_
    split
    · exact hk
    · extract_lets n sn db xb src xa rs g s1
      have h1 : Keeps s0 s1 := startCaravan_keeps hk
      refine .ite hk (.ite (stopLaunch_keeps hk) ?_)
      split
      · exact h1
      · split
        · exact descBad_keeps h1
        · extract_lets ks s2 s3
          have h2 : Keeps s0 s2 := enginesWork_keeps (consume_keeps h1)
          have h3 : Keeps s0 s3 := by
            subst s3
            refine .foldl h2 fun t x h4 => ?_
            split
            · exact gradTile_keeps h4
            · exact h4
          exact .ite (descBad_keeps h1) <|
            .ite (askNotices_keeps h1) <|
            .ite (consume_keeps h1) <|
            .ite (terminateCtx_keeps (relErr_keeps h3)) <|
            .ite (releaseBatch_keeps (nextBatch_keeps h3)) h3

theorem buildPhase_keeps {uid ph : Nat} {transposed : Bool} {check : CheckSeen} (hk : Keeps s0 s) :
    Keeps s0 (buildPhase uid ph transposed check s) := by
  unfold buildPhase
  split
  · exact hk
  · split
    · exact hk
    · extract_lets epoch cur dst size src cores
      refine .ite (nextEntry_keeps hk) (.ite hk (.ite (askNotices_keeps hk) (.ite (descBad_keeps hk) ?_)))
      split
      · exact ownerConflict_keeps hk
      · exact .ite (stopLaunch_keeps hk) <|
          .ite (consume_keeps hk) <|
          .ite
            (terminateCtx_keeps (relErr_keeps (.foldl
              (.foldl (enginesWork_keeps (consume_keeps hk)) fun _ _ h1 => noteIssue_keeps h1)
              fun _ _ h1 => storeImage_keeps h1)))
            (nextEntry_keeps (modLayer_keeps (.foldl
              (.foldl (enginesWork_keeps (consume_keeps hk)) fun _ _ h1 => noteIssue_keeps h1)
              fun _ _ h1 => storeImage_keeps h1)))

theorem placePasses_keeps {uid : Nat} {e : Prog} {fuel : Nat} (hk : Keeps s0 s) :
    Keeps s0 (placePasses uid e fuel s) := by
  induction fuel generalizing s with
  | zero => exact hk
  | succ fuel ih =>
    unfold placePasses
    split
    · exact hk
    · refine .ite hk ?_
      extract_lets words q
      split
      · exact descBad_keeps hk
      · exact .ite (descBad_keeps hk) (.ite hk (ih (modLaunch_keeps (enqueueDesc_keeps hk))))

theorem passesPhase_keeps {uid : Nat} (hk : Keeps s0 s) : Keeps s0 (passesPhase uid s) := by
  unfold passesPhase
  split
  · exact hk
  · exact .ite (.ite hk (.ite (stopLaunch_keeps hk) (placePasses_keeps hk))) (.ite hk (nextEntry_keeps hk))

theorem waitTally_keeps {uid : Nat} (hk : Keeps s0 s) : Keeps s0 (waitTally uid s) := by
  unfold waitTally
  split
  · exact hk
  · exact .ite hk (nextEntry_keeps (modLaunch_keeps hk))

theorem sendForward_keeps {uid : Nat} {l : LaunchS} {n : Nat} {g : W64} (hk : Keeps s0 s) :
    Keeps s0 (sendForward uid l n g s) :=
  byAnswer_of (newRequest_keeps hk) (fun _ _ h => modLaunch_keeps h) fun _ _ h => .ite h (stopLaunch_keeps h)

theorem addTally_keeps {n k : Nat} {epoch : Word} (hk : Keeps s0 s) : Keeps s0 (addTally n k epoch s) := by
  exact .ite (relErr_keeps hk)
    (hk.setMem fun w => countAdd_wf (memPut_wf _ _ _ (memPut_wf _ _ _ (sealStore_wf _ _ _ _ w))))

theorem tellReplayed_keeps {l : LaunchS} (hk : Keeps s0 s) : Keeps s0 (tellReplayed l s) :=
  modLaunch_keeps (.foldl hk fun _ _ h1 => sendMsg_keeps h1)

theorem signalTally_keeps {uid : Nat} (hk : Keeps s0 s) : Keeps s0 (signalTally uid s) := by
  unfold signalTally
  split
  · exact hk
  · exact .ite hk <|
      .ite (nextEntry_keeps (tellReplayed_keeps hk))
        (.foldl (nextEntry_keeps (modLaunch_keeps (addTally_keeps hk))) fun _ _ h3 => sendForward_keeps h3)

theorem putRun_keeps {uid : Nat} {l : LaunchS} {fuel src : Nat} {dst : W64} {left : Nat} (hk : Keeps s0 s) :
    Keeps s0 (putRun uid l fuel src dst left s) := by
  induction fuel generalizing src dst left s with
  | zero => exact hk
  | succ fuel ih =>
    refine .ite hk (.ite (stopLaunch_keeps hk) (.ite (stopLaunch_keeps hk) ?_))
    exact byAnswer_of (newRequest_keeps (noteRead_keeps hk)) (fun _ _ h => ih (modLaunch_keeps h))
      fun _ _ h => .ite (stopLaunch_keeps h) (ih (.ite (carryMarks_keeps h) h))

theorem putPhase_keeps {uid : Nat} (hk : Keeps s0 s) : Keeps s0 (putPhase uid s) := by
  unfold putPhase
  dsimp -zeta only
  split
  · exact hk
  · extract_lets n src s1
    have h1 : Keeps s0 s1 := putRun_keeps (consume_keeps hk)
    exact .ite (consume_keeps hk) (.ite (nextBatch_keeps h1) h1)

theorem finishLaunch_keeps {uid : Nat} (hk : Keeps s0 s) : Keeps s0 (finishLaunch uid s) := by
  unfold finishLaunch
  split
  · exact hk
  · exact .ite hk (endLaunch_keeps hk)

/-! ### The update engine (Machine/Update) -/

theorem layerSum_keeps {rows : List (List Word)} (hk : Keeps s0 s) : Keeps s0 (layerSum rows s).2 := by
  unfold layerSum
  extract_lets ps top base acc
  split
  · exact drawFree_keeps hk
  · split
    · exact hk
    · exact hk

theorem orthogonalise_keeps {op : UpdOp} {cols : Nat} {d : List (List Word)} (hk : Keeps s0 s) :
    Keeps s0 (orthogonalise op cols d s).2 :=
  layerSum_keeps hk

theorem storeAll_keeps {uid : Nat} {xs : List (Nat × List Byte)} (hk : Keeps s0 s) :
    Keeps s0 (storeAll uid xs s) :=
  .foldl hk fun _ _ h1 => .ite (launchStore_keeps h1) h1

theorem updErr_keeps {c i : Nat} (hk : Keeps s0 s) : Keeps s0 (updErr c i s) :=
  modClus_keeps hk

theorem layerErr_keeps {l : Layer} {i : Nat} (hk : Keeps s0 s) : Keeps s0 (layerErr l i s) :=
  .foldl hk fun _ _ h1 => updErr_keeps h1

theorem elementErr_keeps {l : Layer} {i : Nat} {xs : List (Nat × List Nat)} (hk : Keeps s0 s) :
    Keeps s0 (elementErr l i xs s) :=
  .ite hk (.foldl hk fun _ _ h1 => updErr_keeps h1)

theorem refuseUpdate_keeps {uid st : Nat} (hk : Keeps s0 s) : Keeps s0 (refuseUpdate uid st s) :=
  nextEntry_keeps (modLaunch_keeps hk)

theorem noteLayer_keeps {l : Layer} {uid : Nat} (hk : Keeps s0 s) : Keeps s0 (noteLayer l uid s) :=
  .foldl hk fun _ _ h1 => noteIssue_keeps h1

theorem startUpdate_keeps {uid : Nat} (hk : Keeps s0 s) : Keeps s0 (startUpdate uid s) := by
  unfold startUpdate
  dsimp -zeta only
  split
  · exact hk
  · split
    · exact hk
    · extract_lets n s1 begin_ head desc op short s2 s3
      have h1 : Keeps s0 s1 := modLayer_keeps hk
      have h2 : Keeps s0 s2 := layerErr_keeps (modLaunch_keeps (modLayer_keeps (consume_keeps h1)))
      have h3 : Keeps s0 s3 := noteLayer_keeps (setUpdStat_keeps (modLaunch_keeps (modLayer_keeps (consume_keeps h1))))
      exact .ite hk <|
        .ite (nextEntry_keeps (layerErr_keeps h1)) <|
        .ite (refuseUpdate_keeps (layerErr_keeps h1)) <|
        .ite (stopLaunch_keeps (modLaunch_keeps (modLayer_keeps h1))) <|
        .ite (terminateCtx_keeps (relErr_keeps h1)) <|
        .ite (consume_keeps h1) <|
        .ite (refuseUpdate_keeps (layerErr_keeps (modLaunch_keeps (modLayer_keeps (consume_keeps h1))))) <|
        .ite (refuseUpdate_keeps (.ite (layerErr_keeps h2) h2)) <|
        .ite (refuseUpdate_keeps (layerErr_keeps (modLaunch_keeps (modLayer_keeps (consume_keeps h1)))))
          (modLaunch_keeps h3)

theorem endUpdate_keeps {uid : Nat} {l : LaunchS} {r : Layer} (hk : Keeps s0 s) : Keeps s0 (endUpdate uid l r s) :=
  nextEntry_keeps (clearUpdStat_keeps (modLaunch_keeps hk))

theorem skipUpdate_keeps {uid : Nat} {l : LaunchS} {r : Layer} (hk : Keeps s0 s) :
    Keeps s0 (skipUpdate uid l r s) :=
  endUpdate_keeps (modLayer_keeps (clearRowList_keeps hk))

theorem goPass_keeps {uid : Nat} {op : UpdOp} {l : LaunchS} {r : Layer} {p : BitVec 3} (hk : Keeps s0 s) :
    Keeps s0 (goPass uid op l r p s) :=
  setUpdStat_keeps (modLaunch_keeps hk)

theorem endNorm_keeps {uid : Nat} {bad : List Range} {op : UpdOp} {l : LaunchS} {r : Layer} {rows : List Nat}
    {skip : Bool} (hk : Keeps s0 s) :
    Keeps s0 (endNorm uid bad op l r rows skip s) :=
  .ite (skipUpdate_keeps (elementErr_keeps hk)) (goPass_keeps (layerSum_keeps (elementErr_keeps hk)))

theorem endMaster_keeps {uid : Nat} {bad : List Range} {op : UpdOp} {l : LaunchS} {r : Layer} (hk : Keeps s0 s) :
    Keeps s0 (endMaster uid bad op l r s) := by
  unfold endMaster
  dsimp -zeta only
  extract_lets ms s1 rho flag stores s2 s3 s4 s5
  have h1 : Keeps s0 s1 := elementErr_keeps hk
  have h2 : Keeps s0 s2 := storeAll_keeps (layerSum_keeps (layerSum_keeps h1))
  have h3 : Keeps s0 s3 := .ite (layerErr_keeps h2) h2
  have h4 : Keeps s0 s4 := modClus_keeps h3
  have h5 : Keeps s0 s5 := modLayer_keeps h4
  exact .ite (skipUpdate_keeps h1) (.ite (modLayer_keeps h2) (endUpdate_keeps (modLaunch_keeps h5)))

theorem storeWork_keeps {uid : Nat} {op : UpdOp} {l : LaunchS} {r : Layer} {p : BitVec 3} (hk : Keeps s0 s) :
    Keeps s0 (storeWork uid op l r p s) :=
  .ite (goPass_keeps (storeAll_keeps hk)) (modLayer_keeps (storeAll_keeps hk))

theorem endMoments_keeps {uid : Nat} {bad : List Range} {op : UpdOp} {l : LaunchS} {r : Layer} {rows : List Nat}
    {skip : Bool} (hk : Keeps s0 s) :
    Keeps s0 (endMoments uid bad op l r rows skip s) := by
  unfold endMoments
  extract_lets t rc1 rs2 outs dirs nonfin s1 op'
  have h1 : Keeps s0 s1 := elementErr_keeps (elementErr_keeps hk)
  exact .ite (skipUpdate_keeps h1) (.ite (endMaster_keeps h1) (storeWork_keeps h1))

theorem stageTiles_keeps {l : Layer} (hk : Keeps s0 s) : Keeps s0 (stageTiles l s) :=
  .foldl hk fun _ _ h1 => storeBytes_keeps (drawBytes_keeps h1)

theorem endOrtho_keeps {uid : Nat} {op : UpdOp} {l : LaunchS} {r : Layer} (hk : Keeps s0 s) :
    Keeps s0 (endOrtho uid op l r s) := by
  unfold endOrtho
  dsimp -zeta only
  extract_lets x s1 op' nonfin s2
  have h1 : Keeps s0 s1 := stageTiles_keeps (orthogonalise_keeps hk)
  have h2 : Keeps s0 s2 := elementErr_keeps h1
  exact .ite (skipUpdate_keeps h2) (storeWork_keeps h2)

theorem passEnd_keeps {uid : Nat} {check : CheckSeen} (hk : Keeps s0 s) : Keeps s0 (passEnd uid check s) := by
  unfold passEnd
  dsimp -zeta only
  split
  · exact hk
  · split
    · exact hk
    · split
      · exact hk
      · extract_lets rows rs s1 reads bad cores s2 skip
        have h1 : Keeps s0 s1 := noteLayer_keeps hk
        have h2 : Keeps s0 s2 := .foldl (consume_keeps h1) fun _ _ h2 => modCore_keeps h2
        exact .ite (stopLaunch_keeps (modLayer_keeps h1)) <|
          .ite (consume_keeps h1) <|
          .ite (terminateCtx_keeps (relErr_keeps (consume_keeps h1))) <|
          .ite (endNorm_keeps h2) <|
          .ite (endMoments_keeps h2) <|
          .ite (endOrtho_keeps h2) (endMaster_keeps h2)

theorem putCoef_keeps {c j f : Nat} {v : Word} (hk : Keeps s0 s) : Keeps s0 (putCoef c j f v s).2 := by
  unfold putCoef
  split
  · split
    · exact updErr_keeps hk
    · exact modClus_keeps hk
  · split
    · exact updErr_keeps hk
    · exact modClus_keeps hk

theorem takeCoefSum_keeps {c j : Nat} (hk : Keeps s0 s) : Keeps s0 (takeCoefSum c j s) :=
  modClus_keeps hk

/-! ### Power (Machine/Power) -/

theorem beginMove_keeps (hk : Keeps s0 s) : Keeps s0 (beginMove s) :=
  .ite hk (notice_keeps (modPwr_keeps hk))

theorem applyProtect_keeps (hk : Keeps s0 s) : Keeps s0 (applyProtect s) :=
  .ite (beginMove_keeps (modPwr_keeps hk)) (modPwr_keeps hk)

theorem requestPoint_keeps {v : Word} (hk : Keeps s0 s) : Keeps s0 (requestPoint v s) :=
  .ite (pwrErr_keeps hk) (modPwr_keeps hk)

theorem dvfsChange_keeps (hk : Keeps s0 s) : Keeps s0 (dvfsChange s) :=
  .ite hk (beginMove_keeps hk)

theorem passSlot_keeps {hold : Bool} (hk : Keeps s0 s) : Keeps s0 (passSlot hold s) := by
  unfold passSlot
  exact modPwr_keeps hk

theorem setWake_keeps {c : Nat} {again : Bool} {at_ : Option Nat} (hk : Keeps s0 s) :
    Keeps s0 (setWake c again at_ s) :=
  .foldl hk fun _ _ h1 => .ite (modCore_keeps h1) h1

theorem noticeSlot_keeps (hk : Keeps s0 s) : Keeps s0 (noticeSlot s) := by
  unfold noticeSlot
  extract_lets hold
  split
  · exact passSlot_keeps hk
  · extract_lets s1 s2
    have h1 : Keeps s0 s1 := modPwr_keeps hk
    have h2 : Keeps s0 s2 := .ite (setWake_keeps h1) h1
    refine passSlot_keeps (Keeps.upd ?_)
    exact h2

theorem noticeBad_keeps (hk : Keeps s0 s) : Keeps s0 (noticeBad s) := by
  unfold noticeBad
  split
  · exact hk
  · exact pwrErr_keeps (notice_keeps (.ite (setWake_keeps hk) hk))

theorem telemetry_keeps {watts : Nat} (hk : Keeps s0 s) : Keeps s0 (telemetry watts s) := by
  unfold telemetry
  exact modPwr_keeps (drawFree_keeps hk)

theorem applyLadder_keeps {n : Nat} (hk : Keeps s0 s) : Keeps s0 (applyLadder n s) := by
  unfold applyLadder
  exact modPwr_keeps hk

theorem ladderCompare_keeps (hk : Keeps s0 s) : Keeps s0 (ladderCompare s) := by
  unfold ladderCompare
  extract_lets n sum limit l s1 s2 calm
  have h1 : Keeps s0 s1 := modPwr_keeps hk
  have h2 : Keeps s0 s2 := applyLadder_keeps h1
  exact .ite (.ite (pwrErr_keeps h1) (.ite (pwrErr_keeps h2) h2)) <|
    .ite (.ite (applyLadder_keeps (modPwr_keeps hk)) (modPwr_keeps hk)) (modPwr_keeps hk)

theorem setThermalFloor_keeps {n : Nat} (hk : Keeps s0 s) : Keeps s0 (setThermalFloor n s) :=
  modPwr_keeps hk

theorem thermalCheck_keeps (hk : Keeps s0 s) : Keeps s0 (thermalCheck s) :=
  .ite (.ite (pwrErr_keeps (setThermalFloor_keeps (modPwr_keeps hk))) (setThermalFloor_keeps (modPwr_keeps hk))) <|
    .ite (.ite (setThermalFloor_keeps (modPwr_keeps hk)) (modPwr_keeps hk)) (modPwr_keeps hk)

theorem Keeps.filterMem {t : State} (h : Keeps s0 t) (p : Host.Cell → Bool) :
    Keeps s0 { t with mem := t.mem.filter p } :=
  h.setMem fun w => tabWf_filter _ _ _ w

theorem loseStacks_keeps (hk : Keeps s0 s) : Keeps s0 (loseStacks s) := (hk.filterMem _).upd

theorem requestReset_keeps {cause : BitVec 4} {kind : BitVec 2} (hk : Keeps s0 s) :
    Keeps s0 (requestReset cause kind s) := by
  unfold requestReset
  split
  · exact hk
  · exact modPwr_keeps (.ite hk (loseStacks_keeps hk))
  · split
    · exact modPwr_keeps hk
    · exact modPwr_keeps hk

theorem wakeOn_keeps {b : Nat} (hk : Keeps s0 s) : Keeps s0 (wakeOn b s) :=
  .ite (requestReset_keeps hk) hk

theorem loseCluster_keeps {c : Nat} (hk : Keeps s0 s) : Keeps s0 (loseCluster c s) := (hk.filterMem _).upd

theorem cutRegions_keeps {c : Nat} (hk : Keeps s0 s) : Keeps s0 (cutRegions c s) :=
  loseCluster_keeps (modClus_keeps hk)

theorem releaseVprog_keeps {c n : Nat} (hk : Keeps s0 s) : Keeps s0 (releaseVprog c n s) :=
  .ite (notice_keeps hk) hk

theorem darken_keeps {c : Nat} (hk : Keeps s0 s) : Keeps s0 (darken c s) := by
  unfold darken
  extract_lets s1 s2 s3 s4 s5 s6 s7
  have h1 : Keeps s0 s1 := .foldl hk fun _ _ h1 => stopLaunch_keeps h1
  have h2 : Keeps s0 s2 := .foldl h1 fun _ _ h2 => discardCore_keeps h2
  have h3 : Keeps s0 s3 := releaseVprog_keeps h2
  have h4 : Keeps s0 s4 := .foldl h3 fun _ _ h4 => modArr_keeps (drawFree_keeps (dropTrace_keeps h4))
  have h5 : Keeps s0 s5 := cutRegions_keeps (modClus_keeps h4)
  have h6 : Keeps s0 s6 := .foldl h5 fun _ _ h6 =>
    retestDone_keeps (calWaiters_keeps (arrayWriteDone_keeps (arrayDone_keeps h6)))
  have h7 : Keeps s0 s7 := .foldl h6 fun _ _ h7 => retestDone_keeps h7
  exact sweepDestroy_keeps (countUnits_keeps (relErr_keeps (pwrErr_keeps h7)))

theorem failPhase_keeps {c i : Nat} (hk : Keeps s0 s) : Keeps s0 (failPhase c i s) := by
  unfold failPhase
  extract_lets s1 failed
  have h1 : Keeps s0 s1 := pwrErr_keeps (modClus_keeps hk)
  exact .ite (modClus_keeps h1) (.ite h1 (darken_keeps h1))

theorem phaseFault_keeps {c i : Nat} (hk : Keeps s0 s) : Keeps s0 (phaseFault c i s) :=
  .ite hk (failPhase_keeps (setPermanent_keeps (addEvent_keeps hk)))

theorem failUncore_keeps {u : Nat} (hk : Keeps s0 s) : Keeps s0 (failUncore u s) := by
  unfold failUncore
  extract_lets s1
  have h1 : Keeps s0 s1 := pwrErr_keeps (modPwr_keeps hk)
  exact .ite (requestReset_keeps (modPwr_keeps h1)) (applyProtect_keeps h1)

theorem uncoreFault_keeps {u : Nat} (hk : Keeps s0 s) : Keeps s0 (uncoreFault u s) :=
  .ite hk (failUncore_keeps (setPermanent_keeps (addEvent_keeps hk)))

theorem switchOff_keeps {c : Nat} {r : Region} (hk : Keeps s0 s) : Keeps s0 (switchOff c r s) := by
  unfold switchOff
  extract_lets s1
  have h1 : Keeps s0 s1 := modClus_keeps hk
  refine .ite hk ?_
  split
  · exact loseCluster_keeps h1
  · exact h1

theorem askOff_keeps {c : Nat} {r : Region} (hk : Keeps s0 s) : Keeps s0 (askOff c r s) :=
  .ite (switchOff_keeps (modClus_keeps (modClus_keeps hk))) (modClus_keeps hk)

theorem writeRegion_keeps {c : Nat} {v : Word} (hk : Keeps s0 s) : Keeps s0 (writeRegion c v s) :=
  .ite (pwrErr_keeps hk) (.foldl hk fun _ _ h1 => .ite (askPowerOn_keeps h1) (.ite (askOff_keeps h1) h1))

theorem powerOn_keeps {c : Nat} {r : Region} {amps16 : List Nat} (hk : Keeps s0 s) :
    Keeps s0 (powerOn c r amps16 s) :=
  .ite hk (notice_keeps (drawFree_keeps (.ite (pwrErr_keeps (modClus_keeps hk)) (modClus_keeps hk))))

theorem arrayReturns_keeps {a : Nat} (hk : Keeps s0 s) : Keeps s0 (arrayReturns a s) :=
  .ite hk (.ite (enterCal_keeps hk) (boundary_keeps hk))

theorem powerOnDone_keeps {c : Nat} {r : Region} (hk : Keeps s0 s) : Keeps s0 (powerOnDone c r s) := by
  unfold powerOnDone
  extract_lets s1 s2
  have h1 : Keeps s0 s1 := modClus_keeps hk
  have h2 : Keeps s0 s2 := by
    subst s2
    split
    · exact loseCluster_keeps h1
    · exact .foldl h1 fun _ _ h2 => arrayReturns_keeps h2
  exact .ite hk (.ite h2 (askOff_keeps h2))

theorem uv48_keeps (hk : Keeps s0 s) : Keeps s0 (uv48 s) := by
  unfold uv48
  extract_lets s1 s2
  have h1 : Keeps s0 s1 := sidebandEvent_keeps (watchEvent_keeps hk)
  have h2 : Keeps s0 s2 := blackbox_keeps (pwrErr_keeps h1)
  exact .ite hk (.ite (applyProtect_keeps (modPwr_keeps h2)) (wakeOn_keeps h1))

theorem vaonLow_keeps {lost : Bool} (hk : Keeps s0 s) : Keeps s0 (vaonLow lost s) := by
  unfold vaonLow
  extract_lets s1 s2
  have h1 : Keeps s0 s1 := blackbox_keeps (watchEvent_keeps hk)
  have h2 : Keeps s0 s2 := .ite (pwrErr_keeps h1) (wakeOn_keeps h1)
  exact .ite hk (.ite (requestReset_keeps h2) h2)

theorem overtemp_keeps (hk : Keeps s0 s) : Keeps s0 (overtemp s) :=
  .ite hk (requestReset_keeps (modPwr_keeps (blackbox_keeps (sidebandEvent_keeps (watchEvent_keeps hk)))))

theorem flow_keeps (hk : Keeps s0 s) : Keeps s0 (flow s) := by
  unfold flow
  extract_lets s1
  have h1 : Keeps s0 s1 := modPwr_keeps (watchEvent_keeps hk)
  exact .ite hk (.ite (applyProtect_keeps (modPwr_keeps (pwrErr_keeps h1))) h1)

theorem flowTrip_keeps (hk : Keeps s0 s) : Keeps s0 (flowTrip s) :=
  .ite hk (requestReset_keeps (blackbox_keeps (sidebandEvent_keeps (watchEvent_keeps (modPwr_keeps hk)))))

theorem watchdogExpiry_keeps (hk : Keeps s0 s) : Keeps s0 (watchdogExpiry s) := by
  unfold watchdogExpiry
  extract_lets t s1
  have h1 : Keeps s0 s1 := Keeps.upd hk
  exact .ite hk (requestReset_keeps (blackbox_keeps (modPwr_keeps h1)))

theorem kickWdog_keeps (hk : Keeps s0 s) : Keeps s0 (kickWdog s) :=
  modPwr_keeps hk

/-! ### Resets, sleep and power-on (Machine/Reset) -/

theorem mapArrays_keeps {g : Nat → ArrU → ArrU} (hk : Keeps s0 s) : Keeps s0 (mapArrays g s) :=
  .foldl hk fun _ _ h1 => modArr_keeps (drawFree_keeps h1)

/-- The device id that a reset leaves (Table 11-14; the stepping is log entry 7). -/
theorem idOk_reset : fld (0xD9600002#32 : Word) 31 16 = 0xD960 ∧ fld (0xD9600002#32 : Word) 3 0 = 2 := by decide

theorem loseWork_keeps {kind : BitVec 2} (hk : Keeps s0 s) : Keeps s0 (loseWork kind s) := by
  have hm : Keeps s0 (mapArrays (if kind = 0#2 then bareArray else keptArray) s) := mapArrays_keeps hk
  exact ⟨hm.queue, fun w => tabWf_filter _ _ _ (hm.mem w), fun _ => idOk_reset⟩

theorem loseLatches_keeps (hk : Keeps s0 s) : Keeps s0 (loseLatches s) :=
  Keeps.upd hk

theorem sendReleases_keeps (hk : Keeps s0 s) : Keeps s0 (sendReleases s) :=
  .foldl hk fun _ _ h1 => Keeps.upd (drawFree_keeps h1)

theorem performReset_keeps {cause : BitVec 4} {kind : BitVec 2} (hk : Keeps s0 s) :
    Keeps s0 (performReset cause kind s) := by
  unfold performReset
  extract_lets s1 s2 s3
  have h1 : Keeps s0 s1 := sendReleases_keeps (sidebandEvent_keeps (Keeps.upd hk))
  have h2 : Keeps s0 s2 := loseWork_keeps h1
  have h3 : Keeps s0 s3 := .ite (loseLatches_keeps h2) h2
  exact modPwr_keeps h3

theorem moduleReset_keeps (hk : Keeps s0 s) : Keeps s0 (moduleReset s) := by
  refine .ite hk ?_
  split
  · exact performReset_keeps hk
  · exact hk

theorem inputLost_keeps {vaonLost : Bool} (hk : Keeps s0 s) : Keeps s0 (inputLost vaonLost s) := by
  unfold inputLost
  extract_lets s1 s2
  have h1 : Keeps s0 s1 := modPwr_keeps hk
  have h2 : Keeps s0 s2 := .ite (.ite (modPwr_keeps (loseLatches_keeps (mapArrays_keeps h1))) (modPwr_keeps h1))
    (requestReset_keeps h1)
  exact .ite (modPwr_keeps (loseLatches_keeps (mapArrays_keeps h2))) h2

theorem trySleep_keeps (hk : Keeps s0 s) : Keeps s0 (trySleep s) :=
  .ite (modPwr_keeps (loseWork_keeps hk)) hk

/-! ### Start-up (Machine/Start) -/

theorem imageEvent_keeps {what : Nat} {img : List Byte} (hk : Keeps s0 s) : Keeps s0 (imageEvent what img s) :=
  logAdd_keeps hk

theorem writeBootSet_keeps (hk : Keeps s0 s) : Keeps s0 (writeBootSet s) :=
  logAdd_keeps hk

theorem writeCounters_keeps (hk : Keeps s0 s) : Keeps s0 (writeCounters s) :=
  logAdd_keeps hk

theorem extendMeas_keeps {i : Nat} {d : List Byte} (hk : Keeps s0 s) : Keeps s0 (extendMeas i d s) :=
  modSec_keeps hk

theorem setPhase_keeps {p : Nat} (hk : Keeps s0 s) : Keeps s0 (setPhase p s) :=
  modSec_keeps hk

theorem halt_keeps {cause : Nat} (hk : Keeps s0 s) : Keeps s0 (halt cause s) :=
  sidebandEvent_keeps (setPhase_keeps (modSec_keeps hk))

theorem endRom_keeps {f : PhaseFacts} (hk : Keeps s0 s) : Keeps s0 (endRom f s) := by
  unfold endRom
  extract_lets s1 s2
  have h1 : Keeps s0 s1 := extendMeas_keeps hk
  have h2 : Keeps s0 s2 := .ite (modSec_keeps h1) h1
  exact setPhase_keeps (.ite (modSec_keeps h2) h2)

theorem chooseImages_keeps (hk : Keeps s0 s) : Keeps s0 (chooseImages s) :=
  .ite hk <|
    .ite (writeBootSet_keeps (.foldl (modSec_keeps hk) fun _ _ h2 => imageEvent_keeps h2))
      (writeBootSet_keeps (modSec_keeps hk))

theorem endLogbook_keeps {f : PhaseFacts} (hk : Keeps s0 s) : Keeps s0 (endLogbook f s) := by
  unfold endLogbook
  extract_lets powerOn newest s1 s2 s3
  have h1 : Keeps s0 s1 := modSec_keeps hk
  have h2 : Keeps s0 s2 := logRefresh_keeps h1
  have h3 : Keeps s0 s3 := .ite (modSec_keeps h2) h2
  exact .ite (halt_keeps hk) (setPhase_keeps (chooseImages_keeps (modHost_keeps h3)))

theorem dropFirmware_keeps (hk : Keeps s0 s) : Keeps s0 (dropFirmware s) :=
  writeBootSet_keeps (imageEvent_keeps (modSec_keeps hk))

theorem dropConfig_keeps (hk : Keeps s0 s) : Keeps s0 (dropConfig s) :=
  writeBootSet_keeps (imageEvent_keeps (modSec_keeps hk))

/-- A firmware release number in bits 15:4 leaves the fields beside it. -/
theorem idOk_release {w : Word} {a b : Nat} (h : fld w 31 16 = 0xD960 ∧ fld w 3 0 = 2) :
    fld (setFld (setFld w 15 8 a) 7 4 b) 31 16 = 0xD960 ∧ fld (setFld (setFld w 15 8 a) 7 4 b) 3 0 = 2 := by
  have hw := w.isLt
  simp only [fld, setFld, BitVec.toNat_ofNat] at h ⊢
  omega

theorem endFirmware_keeps {f : PhaseFacts} (hk : Keeps s0 s) : Keeps s0 (endFirmware f s) := by
  unfold endFirmware
  extract_lets first ok run s1 img rel s2 s3 s4
  have h1 : Keeps s0 s1 := .ite (dropFirmware_keeps hk) hk
  have h3 : Keeps s0 s3 := extendMeas_keeps (modSec_keeps h1)
  have h4 : Keeps s0 s4 := ⟨h3.queue, h3.mem, fun w => idOk_release (h3.ident w)⟩
  exact .ite (halt_keeps hk) (setPhase_keeps (modPwr_keeps h4))

theorem loadConfig_keeps {img : Option (List Byte)} (hk : Keeps s0 s) : Keeps s0 (loadConfig img s) := by
  unfold loadConfig
  extract_lets v s1 s2 s3 s4 s5
  have h1 : Keeps s0 s1 := modFab_keeps hk
  have h2 : Keeps s0 s2 := modPwr_keeps h1
  have h3 : Keeps s0 s3 := modMon_keeps h2
  have h4 : Keeps s0 s4 := .foldl h3 fun _ _ h4 => modPort_keeps h4
  have h5 : Keeps s0 s5 := modMon_keeps h4
  exact .ite (.foldl h5 fun _ _ h6 => modClus_keeps h6) h4

theorem endConfig_keeps {f : PhaseFacts} (hk : Keeps s0 s) : Keeps s0 (endConfig f s) :=
  .ite (halt_keeps hk)
    (setPhase_keeps (extendMeas_keeps (loadConfig_keeps (extendMeas_keeps (.ite (dropConfig_keeps hk) hk)))))

theorem endClocks_keeps {f : PhaseFacts} (hk : Keeps s0 s) : Keeps s0 (endClocks f s) := by
  unfold endClocks
  extract_lets mask live s1 s2
  have h1 : Keeps s0 s1 := modRel_keeps (.ite hk (loseStacks_keeps hk))
  have h2 : Keeps s0 s2 := Keeps.upd h1
  exact .ite (halt_keeps h2) (setPhase_keeps h2)

theorem restoreSpare_keeps {unit : Nat} (hk : Keeps s0 s) : Keeps s0 (restoreSpare unit s) :=
  .ite (modArr_keeps hk) (modArr_keeps hk)

theorem applyPermanent_keeps {e : BitVec 4 × Nat} (hk : Keeps s0 s) : Keeps s0 (applyPermanent e s) := by
  unfold applyPermanent
  extract_lets unit s1
  have h1 : Keeps s0 s1 := modRel_keeps hk
  exact .ite (.foldl h1 fun _ _ h2 => modArr_keeps h2) <|
    .ite (modArr_keeps hk) <|
    .ite (.ite (restoreSpare_keeps hk) hk) <|
    .ite (modPort_keeps hk) <|
    .ite (.ite (.ite hk (failUncore_keeps hk)) (.ite (failPhase_keeps hk) hk)) hk

theorem restoreAllWear_keeps (hk : Keeps s0 s) : Keeps s0 (restoreAllWear s) :=
  .foldl hk fun _ _ h1 => modArr_keeps h1

theorem endUnits_keeps (hk : Keeps s0 s) : Keeps s0 (endUnits s) := by
  unfold endUnits
  extract_lets s1 s2 s3 s4
  have h1 : Keeps s0 s1 := .foldl hk fun _ _ h1 => applyPermanent_keeps h1
  have h2 : Keeps s0 s2 := by
    subst s2
    refine .foldl h1 fun t x h5 => ?_
    refine .ite ?_ h5
    split
    · exact modRel_keeps h5
    · exact h5
  have h3 : Keeps s0 s3 := .ite (restoreAllWear_keeps h2) h2
  have h4 : Keeps s0 s4 := extendMeas_keeps h3
  exact .ite (halt_keeps h4) (setPhase_keeps h4)

theorem endArrays_keeps (hk : Keeps s0 s) : Keeps s0 (endArrays s) :=
  .ite hk
    (.foldl (setPhase_keeps (.ite (writeCounters_keeps (writeBootSet_keeps (modSec_keeps hk))) hk)) fun _ _ h2 =>
      retrainPort_keeps h2)

theorem reportReady_keeps (hk : Keeps s0 s) : Keeps s0 (reportReady s) := by
  unfold reportReady
  extract_lets s1 s2 s3
  have h1 : Keeps s0 s1 := countUnits_keeps (modSec_keeps (setPhase_keeps hk))
  have h2 : Keeps s0 s2 := logAdd_keeps h1
  have h3 : Keeps s0 s3 := raise_keeps (sidebandEvent_keeps h2)
  exact .ite (raise_keeps h3) h3

theorem endLinks_keeps (hk : Keeps s0 s) : Keeps s0 (endLinks s) :=
  .ite hk (.ite (reportReady_keeps hk) (modSec_keeps hk))

theorem startupPhaseEnd_keeps {f : PhaseFacts} (hk : Keeps s0 s) : Keeps s0 (startupPhaseEnd f s) := by
  refine .ite hk ?_
  split
  · exact endRom_keeps hk
  · exact endLogbook_keeps hk
  · exact endFirmware_keeps hk
  · exact endConfig_keeps hk
  · exact endClocks_keeps hk
  · exact endUnits_keeps hk
  · exact endArrays_keeps hk
  · exact endLinks_keeps hk
  · exact hk

theorem beginStart_keeps (hk : Keeps s0 s) : Keeps s0 (beginStart s) :=
  applyProtect_keeps (setPhase_keeps (modPwr_keeps hk))

theorem startupBegin_keeps (hk : Keeps s0 s) : Keeps s0 (startupBegin s) :=
  .ite hk (beginStart_keeps hk)

theorem vaonGood_keeps (hk : Keeps s0 s) : Keeps s0 (vaonGood s) :=
  .ite hk (beginStart_keeps (modPwr_keeps hk))

theorem compactBlock_keeps (hk : Keeps s0 s) : Keeps s0 (compactBlock s) := by
  unfold compactBlock
  split
  · exact hk
  · exact .foldl (modSec_keeps hk) fun _ _ h1 => modSec_keeps h1

theorem compactTo_keeps {n : Nat} (hk : Keeps s0 s) : Keeps s0 (compactTo n s) := by
  induction n generalizing s with
  | zero => exact hk
  | succ n ih => exact .ite hk (ih (compactBlock_keeps hk))

theorem compact_keeps (hk : Keeps s0 s) : Keeps s0 (compact s) := by
  unfold compact
  extract_lets s1 before s2
  have h1 : Keeps s0 s1 := modSec_keeps hk
  have h2 : Keeps s0 s2 := compactTo_keeps h1
  exact .ite (logRefresh_keeps h1) <|
    .ite (logRefresh_keeps (modSec_keeps h2)) (raise_keeps (logRefresh_keeps (modSec_keeps h2)))

/-! ### Twins (Machine/Twin) -/

theorem mirrorRequest_keeps {ty : Nat} {c : BitVec 4} {g : W64} {bytes : List Byte} {poison : Bool} (hk : Keeps s0 s) :
    Keeps s0 (mirrorRequest ty c g bytes poison s) :=
  byAnswer_of (newRequest_keeps hk) (fun _ _ h => modRel_keeps h) fun _ _ h => .ite h (relErr_keeps (modSeal_keeps h))

theorem mirrorBytes_keeps {c : BitVec 4} {fuel a : Nat} {bytes : List Byte} {poison : Bool} (hk : Keeps s0 s) :
    Keeps s0 (mirrorBytes c fuel a bytes poison s) := by
  induction fuel generalizing a bytes s with
  | zero => exact hk
  | succ fuel ih => exact .ite hk (ih (mirrorRequest_keeps hk))

theorem mirrorTo_keeps {c : BitVec 4} {a : Nat} {bytes : List Byte} {poison : Bool} (hk : Keeps s0 s) :
    Keeps s0 (mirrorTo c a bytes poison s) :=
  mirrorBytes_keeps hk

theorem mirrorRange_keeps {c : BitVec 4} {src n a : Nat} (hk : Keeps s0 s) : Keeps s0 (mirrorRange c src n a s) :=
  mirrorTo_keeps (noteRead_keeps (checkFor_keeps hk))

theorem landSection_keeps {h : HeldSection} (hk : Keeps s0 s) : Keeps s0 (landSection h s) :=
  .ite (relErr_keeps (modSeal_keeps hk)) (mirrorTo_keeps (modRel_keeps hk))

theorem mirrorRead_keeps {c : BitVec 4} {src n : Nat} (hk : Keeps s0 s) : Keeps s0 (mirrorRead c src n s).2 :=
  noteRead_keeps (checkFor_keeps hk)

theorem mirrorSection_keeps {c : BitVec 4} {dst src n : Nat} (hk : Keeps s0 s) :
    Keeps s0 (mirrorSection c dst src n s) :=
  .ite hk (.ite (modRel_keeps (mirrorRead_keeps hk)) (landSection_keeps (mirrorRead_keeps hk)))

theorem mirrorLayer_keeps {c : BitVec 4} {layer : Nat} (hk : Keeps s0 s) : Keeps s0 (mirrorLayer c layer s) := by
  refine .ite hk ?_
  split
  · exact .foldl (mirrorSection_keeps hk) fun _ _ h2 =>
      mirrorSection_keeps (.foldl h2 fun _ _ h3 => mirrorSection_keeps h3)
  · exact hk

theorem mirrorUV_keeps {c : BitVec 4} {e : MEntry} (hk : Keeps s0 s) : Keeps s0 (mirrorUV c e s) := by
  unfold mirrorUV
  split
  · exact .ite (mirrorSection_keeps (mirrorSection_keeps hk)) hk
  · exact hk

theorem mirrorEpoch_keeps {c : BitVec 4} (hk : Keeps s0 s) : Keeps s0 (mirrorEpoch c s) :=
  .ite hk (mirrorRequest_keeps (.foldl hk fun _ _ h1 => .ite (mirrorUV_keeps h1) (.ite (mirrorSection_keeps h1) h1)))

theorem mirrorCommitSend_keeps {c : BitVec 4} {k : Word} {slotOff src n : Nat} (hk : Keeps s0 s) :
    Keeps s0 (mirrorCommitSend c k slotOff src n s) := by
  unfold mirrorCommitSend
  extract_lets s1 s2
  have h1 : Keeps s0 s1 := by
    subst s1
    split
    · exact mirrorSection_keeps hk
    · exact hk
  have h2 : Keeps s0 s2 := modRel_keeps h1
  exact .ite hk (sendMsg_keeps h2)

theorem flushLanding_keeps (hk : Keeps s0 s) : Keeps s0 (flushLanding s) :=
  .foldl (modRel_keeps hk) fun _ _ h1 => landSection_keeps h1

theorem landingFreed_keeps (hk : Keeps s0 s) : Keeps s0 (landingFreed s) :=
  .ite hk (flushLanding_keeps (modRel_keeps hk))

theorem applySection_keeps {base : Nat} {x : Section} (hk : Keeps s0 s) : Keeps s0 (applySection base s x) :=
  storeBytes_keeps (noteRead_keeps hk)

theorem applyLanding_keeps {c : BitVec 4} {epoch : Word} (hk : Keeps s0 s) : Keeps s0 (applyLanding c epoch s) := by
  unfold applyLanding
  extract_lets b xs a list s1 s2 s3 h s4
  have h1 : Keeps s0 s1 := .foldl hk fun _ _ h1 => applySection_keeps h1
  have h2 : Keeps s0 s2 := .ite h1 (storeBytes_keeps h1)
  have h3 : Keeps s0 s3 := storeBytes_keeps h2
  have h4 : Keeps s0 s4 := storeBytes_keeps h3
  exact storeBytes_keeps h4

theorem discardLanding_keeps {c : BitVec 4} (hk : Keeps s0 s) : Keeps s0 (discardLanding c s) :=
  storeBytes_keeps (storeBytes_keeps hk)

theorem mirrorCommitted_keeps {c : BitVec 4} {epoch : Word} (hk : Keeps s0 s) :
    Keeps s0 (mirrorCommitted c epoch s) :=
  .ite hk (sendMsg_keeps (applyLanding_keeps hk))

theorem copyEntry_keeps {e : MEntry} (hk : Keeps s0 s) : Keeps s0 (copyEntry e s) :=
  .foldlOn (fun r : Nat × State => r.2) hk fun _ _ h => mirrorRange_keeps h

theorem beginPair_keeps (hk : Keeps s0 s) : Keeps s0 (beginPair s) :=
  mirrorRequest_keeps (mirrorTo_keeps (mirrorTo_keeps (mirrorTo_keeps (mirrorRange_keeps (.foldl
    (storeBytes_keeps (setTwinState_keeps hk))
    fun _ _ h3 => copyEntry_keeps h3)))))

theorem pairEnds_keeps {status : Nat} (hk : Keeps s0 s) : Keeps s0 (pairEnds status s) :=
  .foldl hk fun _ _ h1 => completeRun_keeps h1

theorem syncEnd_keeps {ok : Bool} (hk : Keeps s0 s) : Keeps s0 (syncEnd ok s) :=
  .ite hk <|
    .ite (pairEnds_keeps (setTwinState_keeps hk))
      (pairEnds_keeps (relErr_keeps (setTwinState_keeps (dropMirror_keeps hk))))

theorem sendHeartbeats_keeps (hk : Keeps s0 s) : Keeps s0 (sendHeartbeats s) :=
  .ite hk (.ite (sendMsg_keeps hk) (.foldl hk fun _ _ h1 => postMsg_keeps h1))

theorem lostPeer_keeps (hk : Keeps s0 s) : Keeps s0 (lostPeer s) :=
  .ite hk
    (.foldl
      (tryUnpair_keeps (pairEnds_keeps (sidebandEvent_keeps (watchEvent_keeps (relErr_keeps
        (setTwinState_keeps (dropMirror_keeps hk)))))))
      fun _ _ h3 => tryOffer_keeps h3)

/-! ### The host interface (Machine/Host) -/

theorem postReply_keeps (hk : Keeps s0 s) : Keeps s0 (postReply s) := by
  unfold postReply
  split
  · exact hk
  · extract_lets i s1 s2 s3
    have h1 : Keeps s0 s1 := modHost_keeps hk
    have h2 : Keeps s0 s2 := .ite (raise_keeps h1) h1
    have h3 : Keeps s0 s3 := .ite (blackbox_keeps h2) h2
    exact .ite hk (trySleep_keeps (readyRises_keeps h3))

theorem writeHead_keeps {v : Word} (hk : Keeps s0 s) : Keeps s0 (writeHead v s) :=
  .ite (hstErr_keeps hk) (modHost_keeps hk)

theorem putSlot_keeps {img : Option (List Byte)} (hk : Keeps s0 s) : Keeps s0 (putSlot img s) :=
  modSec_keeps hk

theorem imageEnd_keeps {r : Run} {kind : Nat} {img : List Byte} (hk : Keeps s0 s) :
    Keeps s0 (imageEnd r kind img s) := by
  unfold imageEnd
  extract_lets st ok s1 s2 s3
  have h1 : Keeps s0 s1 := modSec_keeps hk
  have h2 : Keeps s0 s2 := .ite (writeBootSet_keeps (modSec_keeps (putSlot_keeps hk))) (.ite (logAdd_keeps h1) h1)
  have h3 : Keeps s0 s3 := .ite h2 (modSec_keeps h2)
  exact completeRun_keeps (imageEvent_keeps h3)

theorem feedRun_keeps {r : Run} {bytes : List Byte} (hk : Keeps s0 s) : Keeps s0 (feedRun r bytes s) := by
  unfold feedRun
  split
  · exact takeWrite_keeps hk
  · exact .ite (imageEnd_keeps hk) (setTask_keeps hk)
  · exact hk

theorem orphan_keeps {n : Nat} (hk : Keeps s0 s) : Keeps s0 (orphan n s) :=
  modHost_keeps hk

theorem feed_keeps {fuel : Nat} {bytes : List Byte} (hk : Keeps s0 s) : Keeps s0 (feed fuel bytes s) := by
  induction fuel generalizing bytes s with
  | zero => exact orphan_keeps hk
  | succ fuel ih =>
    refine .ite hk ?_
    split
    · exact orphan_keeps hk
    · exact ih (feedRun_keeps hk)

theorem endShort_keeps {r : Run} (hk : Keeps s0 s) : Keeps s0 (endShort r s) := by
  unfold endShort
  split
  · exact completeRun_keeps (storeRun_keeps hk)
  · exact completeRun_keeps (.ite (modSec_keeps (putSlot_keeps hk)) (modSec_keeps hk))
  · exact hk

theorem idleTimeout_keeps (hk : Keeps s0 s) : Keeps s0 (idleTimeout s) := by
  unfold idleTimeout
  split
  · exact hk
  · exact raise_keeps (hstErr_keeps (modHost_keeps (endShort_keeps hk)))

theorem freeOutbound_keeps (hk : Keeps s0 s) : Keeps s0 (freeOutbound s) :=
  pumpOut_keeps (modHost_keeps hk)

theorem readPort_keeps {n : Nat} (hk : Keeps s0 s) : Keeps s0 (readPort n s) := by
  unfold readPort
  extract_lets got short s1 s2 s3
  have h1 : Keeps s0 s1 := Keeps.upd hk
  have h2 : Keeps s0 s2 := .ite h1 (hstErr_keeps h1)
  have h3 : Keeps s0 s3 := modHost_keeps h2
  exact .ite (freeOutbound_keeps h3) h3

theorem resyncPort_keeps (hk : Keeps s0 s) : Keeps s0 (resyncPort s) :=
  freeOutbound_keeps (modHost_keeps hk)

theorem writeConfigByte_keeps {off : Nat} {v : Byte} (hk : Keeps s0 s) : Keeps s0 (writeConfigByte off v s) := by
  unfold writeConfigByte
  exact modHost_keeps hk

theorem configRequest_keeps {reg : Nat} {write : Option Word} (hk : Keeps s0 s) :
    Keeps s0 (configRequest reg write s) := by
  unfold configRequest
  split
  · exact Keeps.upd hk
  · exact .foldl hk fun _ _ h1 => writeConfigByte_keeps h1

theorem resetLink_keeps {ev : LinkEvent} (hk : Keeps s0 s) : Keeps s0 (resetLink ev s) := by
  unfold resetLink
  extract_lets lost mute takes s1 s2 s3 s4 s5 room
  have h1 : Keeps s0 s1 := modHost_keeps hk
  have h2 : Keeps s0 s2 := .ite h1 (hstErr_keeps h1)
  have h3 : Keeps s0 s3 := by
    subst s3
    split
    · exact endShort_keeps h2
    · exact h2
  have h4 : Keeps s0 s4 := by
    subst s4
    split
    · exact completeRun_keeps h3
    · exact h3
  have h5 : Keeps s0 s5 := modHost_keeps h4
  exact pumpOut_keeps (modHost_keeps h5)

theorem linkTrained_keeps {gen width : Nat} (hk : Keeps s0 s) : Keeps s0 (linkTrained gen width s) :=
  .ite hk (modHost_keeps hk)

/-! ### The monitor ADC and the calibration (Machine/Monitor) -/

theorem deliverCodes_keeps {channel : Nat} {raws : List Nat} (hk : Keeps s0 s) :
    Keeps s0 (deliverCodes channel raws s) := by
  unfold deliverCodes
  split
  · exact hk
  · exact modMon_keeps hk

theorem beginFit_keeps {k : Nat} (hk : Keeps s0 s) : Keeps s0 (beginFit k s) :=
  modMon_keeps hk

theorem setStage_keeps {r : Run} {st : Nat} {a b : Bool} {q : Nat} (hk : Keeps s0 s) :
    Keeps s0 (setStage r st a b q s) :=
  setTask_keeps hk

theorem restoreBegin_keeps {r : Run} {src bytes : Nat} (hk : Keeps s0 s) : Keeps s0 (restoreBegin r src bytes s) := by
  unfold restoreBegin
  extract_lets bad rd at_ zero arrays sized s1 s2 s3
  have h1 : Keeps s0 s1 := modMon_keeps hk
  have h2 : Keeps s0 s2 := putTraceCfg_keeps (putVref_keeps h1)
  have h3 : Keeps s0 s3 := .foldl h2 fun _ _ h3 => putCtiScale_keeps h3
  exact .ite (completeRun_keeps hk) <|
    .ite (completeRun_keeps (relErr_keeps hk)) <|
    .ite (completeRun_keeps (calErr_keeps hk)) <|
    .ite (completeRun_keeps (calErr_keeps hk)) (restoreArrays_keeps h3)

theorem nextFitWork_keeps (hk : Keeps s0 s) : Keeps s0 (nextFitWork s) := by
  refine .ite hk ?_
  split
  · split
    · exact restoreBegin_keeps hk
    · exact beginFit_keeps (setStage_keeps hk)
  · exact .ite (beginFit_keeps (modMon_keeps hk)) hk

theorem fitEnd_keeps {zeroSum fullSum : Nat} {bandgap : List Nat} {stopped : Bool} (hk : Keeps s0 s) :
    Keeps s0 (fitEnd zeroSum fullSum bandgap stopped s) := by
  unfold fitEnd
  extract_lets k ft present coef ok s1 s2 s3
  have h1 : Keeps s0 s1 := .ite hk (calErr_keeps hk)
  have h2 : Keeps s0 s2 := .ite (calErr_keeps h1) h1
  have h3 : Keeps s0 s3 := modMon_keeps h2
  refine .ite hk ?_
  split
  · exact beginFit_keeps (setStage_keeps h3)
  · exact askChannel_keeps (setStage_keeps h3)
  · exact nextFitWork_keeps h3

theorem systemEnds_keeps {r : Run} {a b : Bool} {q : Nat} (hk : Keeps s0 s) : Keeps s0 (systemEnds r a b q s) := by
  unfold systemEnds
  extract_lets res s1 s2
  have h1 : Keeps s0 s1 := .ite (calErr_keeps hk) hk
  have h2 : Keeps s0 s2 := .ite (completeRun_keeps (modMon_keeps h1)) (completeRun_keeps h1)
  exact nextFitWork_keeps h2

theorem verifyUnit_keeps {raws : List Nat} (hk : Keeps s0 s) : Keeps s0 (verifyUnit raws s) := by
  unfold verifyUnit
  split
  · exact askChannel_keeps (setStage_keeps hk)
  · exact systemEnds_keeps hk
  · exact hk

theorem sampleUnit_keeps {raws : List Nat} (hk : Keeps s0 s) : Keeps s0 (sampleUnit raws s) := by
  unfold sampleUnit
  split
  · exact hk
  · exact .ite (completeRun_keeps (localWrite_keeps hk)) <|
      .ite (completeRun_keeps (localWrite_keeps hk)) (askChannel_keeps (setTask_keeps (localWrite_keeps hk)))

theorem groupMean_keeps {codes : List Nat} (hk : Keeps s0 s) : Keeps s0 (groupMean codes s).2 :=
  drawFree_keeps hk

theorem traceUnit_keeps {raws : List Nat} (hk : Keeps s0 s) : Keeps s0 (traceUnit raws s) := by
  unfold traceUnit
  dsimp -zeta only
  exact .ite hk (modMon_keeps (groupMean_keeps (groupMean_keeps (groupMean_keeps hk))))

theorem handover_keeps {raws : List Nat} (hk : Keeps s0 s) : Keeps s0 (handover raws s) := by
  unfold handover
  extract_lets u ch s1 s2
  have h1 : Keeps s0 s1 := deliverCodes_keeps (setChannel_keeps hk)
  have h2 : Keeps s0 s2 := modMon_keeps h1
  exact .ite hk
    (passChannel_keeps (.ite (verifyUnit_keeps h2) (.ite (traceUnit_keeps h2) (.ite (sampleUnit_keeps h2) h2))))

theorem writeChsel_keeps {v : Word} (hk : Keeps s0 s) : Keeps s0 (writeChsel v s) :=
  .ite (setChannel_keeps hk) (calErr_keeps hk)

theorem nextCti_keeps {scale : Nat} {dr dc : ℤ} (hk : Keeps s0 s) : Keeps s0 (nextCti scale dr dc s).2 := by
  unfold nextCti
  split
  · exact drawFree_keeps hk
  · exact hk

theorem keepTrace_keeps {a tj z vr vc : Nat} (hk : Keeps s0 s) : Keeps s0 (keepTrace a tj z vr vc s) := by
  unfold keepTrace
  dsimp -zeta only
  extract_lets g dr dc c u ref word off s1 s2 s3 s4
  have h1 : Keeps s0 s1 := modArr_keeps hk
  have h2 : Keeps s0 s2 := .ite (calErr_keeps h1) h1
  have h3 : Keeps s0 s3 := modClus_keeps (nextCti_keeps h2)
  have h4 : Keeps s0 s4 := freeTestPoint_keeps (modMon_keeps h3)
  exact .ite (boundary_keeps h4) h4

theorem traceResult_keeps {a : Nat} (hk : Keeps s0 s) : Keeps s0 (traceResult a s) := by
  refine .ite hk ?_
  split
  · exact .ite (dropTrace_keeps hk) (keepTrace_keeps hk)
  · exact hk

/-! ### The registers (Machine/Registers) -/

theorem latchTime_keeps (hk : Keeps s0 s) : Keeps s0 (latchTime s) :=
  modFab_keeps hk

theorem latchWatch_keeps (hk : Keeps s0 s) : Keeps s0 (latchWatch s) :=
  modPwr_keeps hk

theorem clearDevice_keeps {o : Nat} (hk : Keeps s0 s) : Keeps s0 (clearDevice o s) := by
  refine .ite (.ite (modCtx_keeps hk) hk) ?_
  split
  · exact modHost_keeps hk
  · exact modRel_keeps hk
  · exact modRel_keeps hk
  · exact modPwr_keeps hk
  · exact latchWatch_keeps hk
  · exact modMon_keeps hk
  · exact modMon_keeps hk
  · exact hk

theorem clearFab_keeps {o : Nat} (hk : Keeps s0 s) : Keeps s0 (clearFab o s) := by
  unfold clearFab
  split
  · exact latchTime_keeps hk
  · exact modFab_keeps hk
  · exact modFab_keeps hk
  · exact hk

theorem readEffect_keeps {r : RegAt} (hk : Keeps s0 s) : Keeps s0 (readEffect r s) := by
  unfold readEffect
  split
  · exact clearDevice_keeps hk
  · exact .ite (modClus_keeps hk) hk
  · exact modCore_keeps hk
  · exact modArr_keeps hk
  · exact .ite (clearFab_keeps hk) (modPort_keeps hk)
  · exact hk
  · exact hk

theorem readRegister_keeps {addr : Nat} (hk : Keeps s0 s) : Keeps s0 (readRegister addr s).2 :=
  readEffect_keeps hk

theorem readOut_keeps {addr : Nat} (hk : Keeps s0 s) : Keeps s0 (readOut addr s) := by
  unfold readOut
  extract_lets r s1
  have h1 : Keeps s0 s1 := readRegister_keeps hk
  exact Keeps.upd h1

theorem writeArrCfg_keeps {a : Nat} {v : Word} (hk : Keeps s0 s) : Keeps s0 (writeArrCfg a v s) :=
  boundary_keeps (modArr_keeps hk)

theorem writeArrChk_keeps {a : Nat} {v : Word} (hk : Keeps s0 s) : Keeps s0 (writeArrChk a v s) :=
  boundary_keeps (modArr_keeps hk)

theorem writeTrim_keeps {a p : Nat} {v : BitVec 16} (hk : Keeps s0 s) : Keeps s0 (writeTrim a p v s) :=
  .ite (trimByte_keeps (trimByte_keeps hk)) hk

theorem writeFmt_keeps {k t : Nat} {r : FmtReg} {v : Word} (hk : Keeps s0 s) : Keeps s0 (writeFmt k t r v s) := by
  refine .ite hk ?_
  split
  · exact modEntry_keeps hk
  · exact modEntry_keeps hk
  · exact .ite (modEntry_keeps hk) hk

theorem discardPassq_keeps {k : Nat} (hk : Keeps s0 s) : Keeps s0 (discardPassq k s) :=
  modCore_keeps hk

theorem writePolicy_keeps {c : BitVec 4} {v : Word} (hk : Keeps s0 s) : Keeps s0 (writePolicy c v s) :=
  .ite (redErr_keeps hk) (modCtx_keeps hk)

theorem writeRingCfg_keeps {g : Nat} {v : Word} (hk : Keeps s0 s) : Keeps s0 (writeRingCfg g v s) :=
  .ite (redErr_keeps (modFab_keeps hk)) (modFab_keeps hk)

theorem writeRing_keeps {g : Nat} {r : RingReg} {v : Word} (hk : Keeps s0 s) : Keeps s0 (writeRing g r v s) := by
  refine .ite hk (.ite (redErr_keeps hk) ?_)
  split
  · exact writeRingCfg_keeps hk
  · exact modFab_keeps hk
  · exact modFab_keeps hk

theorem holdRelCfg_keeps {old : Word} (hk : Keeps s0 s) : Keeps s0 (holdRelCfg old s) :=
  Keeps.upd hk

theorem writeRelCfg_keeps {v : Word} (hk : Keeps s0 s) : Keeps s0 (writeRelCfg v s) := by
  unfold writeRelCfg
  extract_lets old r s1
  have h1 : Keeps s0 s1 := modRel_keeps (holdRelCfg_keeps hk)
  exact .ite (relErr_keeps h1) h1

theorem writeHistCfg_keeps {v : Word} (hk : Keeps s0 s) : Keeps s0 (writeHistCfg v s) :=
  .ite (relErr_keeps (modRel_keeps hk)) (modRel_keeps hk)

theorem issueWatch_keeps {r : WatchReg} {v : Word} {cmd : Bool} (hk : Keeps s0 s) :
    Keeps s0 (issueWatch r v cmd s) :=
  modPwr_keeps hk

theorem ackWatch_keeps {r : WatchReg} (hk : Keeps s0 s) : Keeps s0 (ackWatch r s) := by
  unfold ackWatch
  split
  · exact hk
  · extract_lets s1 s2
    have h1 : Keeps s0 s1 := modPwr_keeps hk
    have h2 : Keeps s0 s2 := by
      subst s2
      refine .ite ?_ h1
      split
      · exact completeRun_keeps h1
      · exact h1
    exact trySleep_keeps h2

theorem writeHost_keeps {o : Nat} {v : Word} (hk : Keeps s0 s) : Keeps s0 (writeHost o v s) := by
  refine .ite (.ite (modCtx_keeps hk) hk) ?_
  split
  · exact writeHead_keeps hk
  · extract_lets r s1 s2
    have h1 : Keeps s0 s1 := modHost_keeps hk
    have h2 : Keeps s0 s2 := .ite (hstErr_keeps h1) h1
    exact .ite (resyncPort_keeps h2) h2
  · exact modHost_keeps hk
  · exact modHost_keeps hk
  · extract_lets r
    exact Keeps.upd hk
  · exact Keeps.upd hk
  · exact modSec_keeps hk
  · exact modSec_keeps hk
  · exact hk

theorem writeTwin_keeps {put : RelU → RelU × Bool} (hk : Keeps s0 s) : Keeps s0 (writeTwin put s) := by
  unfold writeTwin
  extract_lets r s1
  have h1 : Keeps s0 s1 := Keeps.upd hk
  exact .ite (relErr_keeps hk) (.ite (relErr_keeps h1) h1)

theorem writeRel_keeps {o : Nat} {v : Word} (hk : Keeps s0 s) : Keeps s0 (writeRel o v s) := by
  unfold writeRel
  split
  · exact writeRelCfg_keeps hk
  · exact modRel_keeps hk
  · exact modRel_keeps hk
  · exact writeHistCfg_keeps hk
  · exact writeTwin_keeps hk
  · exact writeTwin_keeps hk
  · exact writeTwin_keeps hk
  · exact writeTwin_keeps hk
  · exact hk

theorem writePwrCfg_keeps {v : Word} (hk : Keeps s0 s) : Keeps s0 (writePwrCfg v s) := by
  unfold writePwrCfg
  extract_lets r s1 s2
  have h1 : Keeps s0 s1 := modPwr_keeps hk
  have h2 : Keeps s0 s2 := applyLadder_keeps h1
  exact .ite (pwrErr_keeps h2) h2

theorem writePwr_keeps {o : Nat} {v : Word} (hk : Keeps s0 s) : Keeps s0 (writePwr o v s) := by
  refine .ite (writeRegion_keeps hk) ?_
  split
  · exact writePwrCfg_keeps hk
  · exact requestPoint_keeps hk
  · exact .ite (pwrErr_keeps (modPwr_keeps hk)) (modPwr_keeps hk)
  · exact modPwr_keeps hk
  · extract_lets r s1 s2
    have h1 : Keeps s0 s1 := modPwr_keeps hk
    have h2 : Keeps s0 s2 := .ite (pwrErr_keeps h1) h1
    exact .ite (kickWdog_keeps h2) h2
  · exact issueWatch_keeps hk
  · exact issueWatch_keeps hk
  · exact modPwr_keeps hk
  · exact hk

theorem writeCoef_keeps {k : Nat} {v : Word} (hk : Keeps s0 s) : Keeps s0 (writeCoef k v s) :=
  .ite (calErr_keeps hk) (modMon_keeps hk)

theorem writeMon_keeps {o : Nat} {v : Word} (hk : Keeps s0 s) : Keeps s0 (writeMon o v s) := by
  refine .ite (putCtiScale_keeps hk) ?_
  split
  · exact modMon_keeps hk
  · exact writeChsel_keeps hk
  · exact writeCoef_keeps hk
  · exact writeCoef_keeps hk
  · exact putVref_keeps hk
  · exact modMon_keeps hk
  · exact putTraceCfg_keeps hk
  · exact hk

theorem writeDevice_keeps {o : Nat} {v : Word} (hk : Keeps s0 s) : Keeps s0 (writeDevice o v s) :=
  .ite (writeHost_keeps hk) (.ite (writeRel_keeps hk) (.ite (writePwr_keeps hk) (.ite (writeMon_keeps hk) hk)))

theorem writeCluster_keeps {c o : Nat} {v : Word} (hk : Keeps s0 s) : Keeps s0 (writeCluster c o v s) :=
  .ite (putCoef_keeps hk) (.ite (modClus_keeps hk) hk)

theorem writeEntry_keeps {k t o : Nat} {v : Word} (hk : Keeps s0 s) : Keeps s0 (writeEntry k t o v s) := by
  refine .ite (writeFmt_keeps (writeFmt_keeps hk)) ?_
  split
  · exact writeFmt_keeps hk
  · exact writeFmt_keeps hk
  · exact modEntry_keeps hk
  · exact hk

theorem writeCore_keeps {k o : Nat} {v : Word} (hk : Keeps s0 s) : Keeps s0 (writeCore k o v s) := by
  refine .ite (discardPassq_keeps hk) (.ite (slotWrite_keeps hk) (.ite (writeEntry_keeps hk) ?_))
  split
  · exact modCore_keeps hk
  · exact modCore_keeps hk
  · exact modCore_keeps hk
  · exact modCore_keeps hk
  · exact hk

theorem writeArr_keeps {a o : Nat} {v : Word} (hk : Keeps s0 s) : Keeps s0 (writeArr a o v s) := by
  unfold writeArr
  split
  · exact writeArrCfg_keeps hk
  · exact writeArrChk_keeps hk
  · exact modArr_keeps hk
  · exact modArr_keeps hk
  · exact modArr_keeps hk
  · exact modArr_keeps hk
  · exact hk

theorem writePortCtl_keeps {p : Nat} {v : Word} (hk : Keeps s0 s) : Keeps s0 (writePortCtl p v s) := by
  unfold writePortCtl
  extract_lets was r s1 s2
  have h1 : Keeps s0 s1 := modPort_keeps hk
  have h2 : Keeps s0 s2 := .ite (disablePort_keeps h1) (.ite (modPort_keeps h1) h1)
  exact .ite (retrainPort_keeps h2) h2

theorem writePort_keeps {p o : Nat} {v : Word} (hk : Keeps s0 s) : Keeps s0 (writePort p o v s) := by
  unfold writePort
  split
  · exact writePortCtl_keeps hk
  · exact modPort_keeps hk
  · exact modPort_keeps hk
  · exact hk

theorem fabErr_keeps {i : Nat} (hk : Keeps s0 s) : Keeps s0 (fabErr i s) :=
  modFab_keeps hk

theorem writeCvtab_keeps {hi : Bool} {v : Word} (hk : Keeps s0 s) : Keeps s0 (writeCvtab hi v s) :=
  .ite (redErr_keeps hk) (modFab_keeps hk)

theorem writeFab_keeps {o : Nat} {v : Word} (hk : Keeps s0 s) : Keeps s0 (writeFab o v s) := by
  refine .ite (writePolicy_keeps hk) ?_
  refine .ite ?_ ?_
  · split
    · exact writeRing_keeps hk
    · exact writeRing_keeps hk
    · exact writeRing_keeps hk
    · exact hk
  · split
    · exact .ite (fabErr_keeps hk) (modFab_keeps hk)
    · exact .ite (fabErr_keeps (modFab_keeps hk)) (modFab_keeps hk)
    · exact modFab_keeps hk
    · exact modFab_keeps hk
    · exact modFab_keeps hk
    · exact modFab_keeps hk
    · exact writeCvtab_keeps hk
    · exact writeCvtab_keeps hk
    · exact modFab_keeps hk
    · exact hk

theorem writeAt_keeps {r : RegAt} {v : Word} (hk : Keeps s0 s) : Keeps s0 (writeAt r v s) := by
  unfold writeAt
  split
  · exact writeDevice_keeps hk
  · exact writeCluster_keeps hk
  · exact writeCore_keeps hk
  · exact writeArr_keeps hk
  · exact .ite (writeFab_keeps hk) (writePort_keeps hk)
  · exact hk
  · exact hk

theorem writeRegister_keeps {addr : Nat} {v : Word} (hk : Keeps s0 s) : Keeps s0 (writeRegister addr v s) :=
  writeAt_keeps hk

theorem writeMsix_keeps {o : Nat} {v : Word} (hk : Keeps s0 s) : Keeps s0 (writeMsix o v s) := by
  unfold writeMsix
  extract_lets put s1 n s2
  have h1 : Keeps s0 s1 := modHost_keeps hk
  have h2 : Keeps s0 s2 := modHost_keeps h1
  exact .ite (Keeps.upd h2) h1

theorem writeFrom_keeps {addr : Nat} {v : Word} (hk : Keeps s0 s) : Keeps s0 (writeFrom addr v s) :=
  .ite (writeMsix_keeps hk) (writeRegister_keeps hk)

theorem windowAEffect_keeps {off n : Nat} (hk : Keeps s0 s) : Keeps s0 (windowAEffect off n s) :=
  .foldl hk fun _ _ h1 => .ite (readEffect_keeps h1) h1

theorem readWindowA_keeps {off n : Nat} (hk : Keeps s0 s) : Keeps s0 (readWindowA off n s) := by
  unfold readWindowA
  extract_lets bytes s1
  have h1 : Keeps s0 s1 := windowAEffect_keeps hk
  exact .ite (readPort_keeps hk) (.ite (Keeps.upd h1) (hstErr_keeps (Keeps.upd hk)))

theorem sidebandReads_keeps {off : Nat} (hk : Keeps s0 s) : Keeps s0 (sidebandReads off s) := by
  unfold sidebandReads
  extract_lets w s1
  have h1 : Keeps s0 s1 := .ite (latchWatch_keeps hk) hk
  exact .ite hk (Keeps.upd h1)

theorem sidebandWrites_keeps {off : Nat} {v : Word} (hk : Keeps s0 s) : Keeps s0 (sidebandWrites off v s) := by
  unfold sidebandWrites
  extract_lets s1 keep
  have h1 : Keeps s0 s1 := by
    subst s1
    split
    · exact modPwr_keeps hk
    · exact modPwr_keeps hk
    · exact modPwr_keeps hk
  exact .ite hk (modPwr_keeps h1)

theorem sendIbi_keeps {b : BitVec 3} {acked : Bool} (hk : Keeps s0 s) : Keeps s0 (sendIbi b acked s) := by
  unfold sendIbi
  extract_lets s1
  have h1 : Keeps s0 s1 := modPwr_keeps hk
  exact .ite hk (Keeps.upd h1)

theorem retryIbi_keeps {acked : Bool} (hk : Keeps s0 s) : Keeps s0 (retryIbi acked s) := by
  unfold retryIbi
  split
  · exact hk
  · extract_lets s1
    have h1 : Keeps s0 s1 := modPwr_keeps hk
    exact Keeps.upd h1

/-! ### Command packets (Machine/Take) -/

theorem readyAfterTake_keeps (hk : Keeps s0 s) : Keeps s0 (readyAfterTake s) := by
  unfold readyAfterTake
  exact modHost_keeps hk

theorem takePacket_keeps {header : List Byte} {p : Packet} (hk : Keeps s0 s) : Keeps s0 (takePacket header p s) := by
  unfold takePacket
  extract_lets p' s1 s2 st
  have h1 : Keeps s0 s1 := modSec_keeps hk
  have h2 : Keeps s0 s2 := modHost_keeps h1
  exact readyAfterTake_keeps (.ite (modHost_keeps h2) (finish_keeps h2))

theorem writeWindow_keeps {off : Nat} {bytes : List Byte} (hk : Keeps s0 s) : Keeps s0 (writeWindow off bytes s) :=
  .ite hk (.ite (hstErr_keeps hk) (.ite (takePacket_keeps (modHost_keeps hk)) (modHost_keeps hk)))

/-! ### The load of a manifest (Machine/Load) -/

theorem beginEpochs_keeps {c : BitVec 4} {m : Manifest} (hk : Keeps s0 s) : Keeps s0 (beginEpochs c m s) :=
  .ite hk (modCtx_keeps hk)

theorem enterLaunch_keeps {p : Packet} {m : Manifest} (hk : Keeps s0 s) : Keeps s0 (enterLaunch p m s) := by
  unfold enterLaunch
  extract_lets c uid held s1 s2 s3
  have h1 : Keeps s0 s1 := .ite (modCtx_keeps hk) hk
  have h2 : Keeps s0 s2 := Keeps.upd h1
  have h3 : Keeps s0 s3 := modHost_keeps h2
  exact .ite h3 (admitLaunch_keeps h3)

theorem readLists_keeps {es : List (List Word)} (hk : Keeps s0 s) : Keeps s0 (readLists es s).2 := by
  induction es generalizing s with
  | nil => exact hk
  | cons e rest ih =>
    have h {r : Rd} : Keeps s0 (noteRead r s) := noteRead_keeps hk
    unfold readLists
    split
    · exact ih hk
    · extract_lets r t
      split
      · exact h
      · split
        · exact h
        · exact ih h

theorem performLaunch_keeps {p : Packet} (hk : Keeps s0 s) : Keeps s0 (performLaunch p s) := by
  unfold performLaunch
  dsimp -zeta only
  extract_lets c r s1 m s2
  have h1 : Keeps s0 s1 := noteRead_keeps hk
  have h2 : Keeps s0 s2 := beginEpochs_keeps (readLists_keeps h1)
  exact .ite (finish_keeps h1) <|
    .ite (finish_keeps h1) <|
    .ite (finish_keeps h1) <|
    .ite (finish_keeps (readLists_keeps h1)) <|
    .ite (finish_keeps (readLists_keeps h1)) <|
    .ite (finish_keeps (readLists_keeps h1)) <|
    .ite (finish_keeps h2) <|
    .ite (finish_keeps h2) <|
    .ite (finish_keeps h2) (enterLaunch_keeps h2)

/-! ### The opcodes of the host (Machine/Commands) -/

theorem addRun_keeps {p : Packet} {t : Machine.Task} (hk : Keeps s0 s) : Keeps s0 (addRun p t s) :=
  modHost_keeps hk

theorem performNop_keeps {p : Packet} (hk : Keeps s0 s) : Keeps s0 (performNop p s) :=
  finish_keeps hk

theorem performDevInfo_keeps {p : Packet} (hk : Keeps s0 s) : Keeps s0 (performDevInfo p s) :=
  finish_keeps hk

theorem performDevStatus_keeps {p : Packet} (hk : Keeps s0 s) : Keeps s0 (performDevStatus p s) :=
  finish_keeps hk

theorem performDevReset_keeps {p : Packet} (hk : Keeps s0 s) : Keeps s0 (performDevReset p s) :=
  .ite (requestReset_keeps (finish_keeps hk)) (requestReset_keeps (finish_keeps hk))

theorem flushRecords_keeps (hk : Keeps s0 s) : Keeps s0 (flushRecords s) :=
  logAdd_keeps (.foldl hk fun _ _ h1 => copyWear_keeps h1)

theorem performDevShutdown_keeps {p : Packet} (hk : Keeps s0 s) : Keeps s0 (performDevShutdown p s) :=
  .ite (finish_keeps hk) (.ite (finish_keeps hk) (finish_keeps (modHost_keeps (flushRecords_keeps hk))))

theorem performDevSleep_keeps {p : Packet} (hk : Keeps s0 s) : Keeps s0 (performDevSleep p s) :=
  .ite (finish_keeps hk) <|
    .ite (finish_keeps hk) (finish_keeps (modPwr_keeps (flushRecords_keeps (issueWatch_keeps hk))))

theorem performMemWrite_keeps {p : Packet} (hk : Keeps s0 s) : Keeps s0 (performMemWrite p s) :=
  addRun_keeps hk

theorem performMemRead_keeps {p : Packet} (hk : Keeps s0 s) : Keeps s0 (performMemRead p s) :=
  pumpOut_keeps (addRun_keeps hk)

theorem performMemCopy_keeps {p : Packet} (hk : Keeps s0 s) : Keeps s0 (performMemCopy p s) :=
  settle_keeps (copyRun_keeps (addRun_keeps hk))

theorem performMemFill_keeps {p : Packet} (hk : Keeps s0 s) : Keeps s0 (performMemFill p s) :=
  settle_keeps (fillRun_keeps (addRun_keeps hk))

theorem readWords_keeps {n a : Nat} (hk : Keeps s0 s) : Keeps s0 (readWords n a s).2 := by
  induction n generalizing a s with
  | zero => exact hk
  | succ n ih => exact ih (readRegister_keeps hk)

theorem performRegRead_keeps {p : Packet} (hk : Keeps s0 s) : Keeps s0 (performRegRead p s) :=
  finish_keeps (modHost_keeps (readWords_keeps (modHost_keeps hk)))

theorem performRegWrite_keeps {p : Packet} (hk : Keeps s0 s) : Keeps s0 (performRegWrite p s) := by
  unfold performRegWrite
  split
  · exact addRun_keeps (issueWatch_keeps hk)
  · exact finish_keeps (writeRegister_keeps hk)

theorem sealEntriesOf_keeps {plane done : Nat} {gs : List (Nat × Nat)} (hk : Keeps s0 s) :
    Keeps s0 (sealEntriesOf plane done gs s).2.2 := by
  induction gs generalizing done s with
  | nil => exact hk
  | cons g rest ih =>
    unfold sealEntriesOf
    dsimp -zeta only
    extract_lets r
    have h : Keeps s0 (localWrite (noteRead r s) false (plane + 8 * done)
        (bytesOfWord (crc32c r.data) ++ leBytes 4 0) false).2 :=
      localWrite_keeps (noteRead_keeps hk)
    split
    · exact hk
    · split
      · exact h
      · exact ih h

theorem declarePlane_keeps {x : Plane} (hk : Keeps s0 s) : Keeps s0 (declarePlane x s) :=
  Keeps.upd hk

theorem performCheckSeal_keeps {p : Packet} (hk : Keeps s0 s) : Keeps s0 (performCheckSeal p s) :=
  finish_keeps (.ite (declarePlane_keeps (sealEntriesOf_keeps hk)) (sealEntriesOf_keeps hk))

theorem performArrayWrite_keeps {p : Packet} (hk : Keeps s0 s) : Keeps s0 (performArrayWrite p s) := by
  unfold performArrayWrite
  split
  · exact finish_keeps hk
  · exact .ite (finish_keeps hk) (.foldl (addRun_keeps hk) fun _ _ h1 => modArr_keeps h1)

theorem careFor_keeps {p : Packet} {ask : Nat → State → State} (ha : ∀ a t, Keeps s0 t → Keeps s0 (ask a t))
    (hk : Keeps s0 s) : Keeps s0 (careFor p ask s) :=
  .ite (finish_keeps hk) (.foldl (addRun_keeps hk) fun _ a h => ha a _ h)

theorem performArrayCalibrate_keeps {p : Packet} (hk : Keeps s0 s) : Keeps s0 (performArrayCalibrate p s) :=
  careFor_keeps (fun _ _ h => commandCal_keeps h) hk

theorem performArrayRefresh_keeps {p : Packet} (hk : Keeps s0 s) : Keeps s0 (performArrayRefresh p s) :=
  careFor_keeps (fun _ _ h => commandRefresh_keeps h) hk

theorem performArrayFence_keeps {p : Packet} (hk : Keeps s0 s) : Keeps s0 (performArrayFence p s) :=
  finish_keeps (.foldl hk fun _ _ h1 => fenceArray_keeps h1)

theorem performLayerRemove_keeps {p : Packet} (hk : Keeps s0 s) : Keeps s0 (performLayerRemove p s) := by
  unfold performLayerRemove
  split
  · exact finish_keeps hk
  · exact .ite (finish_keeps hk) (finish_keeps (removeLayer_keeps hk))

theorem performCtxCreate_keeps {p : Packet} (hk : Keeps s0 s) : Keeps s0 (performCtxCreate p s) :=
  .ite (finish_keeps hk) (finish_keeps (modCtx_keeps hk))

theorem performCtxDestroy_keeps {p : Packet} (hk : Keeps s0 s) : Keeps s0 (performCtxDestroy p s) := by
  unfold performCtxDestroy
  extract_lets c mine s1 s2 s3 layers t
  have h1 : Keeps s0 s1 := .foldl hk fun _ _ h1 => stopLaunch_keeps h1
  have h2 : Keeps s0 s2 := Keeps.upd h1
  have h3 : Keeps s0 s3 := .foldl h2 fun _ _ h3 => cvFault_keeps h3
  exact sweepOne_keeps (addRun_keeps h3)

theorem performCtxStatus_keeps {p : Packet} (hk : Keeps s0 s) : Keeps s0 (performCtxStatus p s) :=
  finish_keeps hk

theorem putRow_keeps {c row : Nat} {data : List Word} (hk : Keeps s0 s) : Keeps s0 (putRow c row data s).2 :=
  takeCoefSum_keeps (.foldlOn (fun r : Nat × State => r.2) hk fun _ _ h => putCoef_keeps h)

theorem performCoefWrite_keeps {p : Packet} (hk : Keeps s0 s) : Keeps s0 (performCoefWrite p s) :=
  finish_keeps (.foldlOn (fun r : Nat × State => r.2) hk fun _ _ h => putRow_keeps h)

theorem performRingSet_keeps {p : Packet} (hk : Keeps s0 s) : Keeps s0 (performRingSet p s) :=
  .ite (finish_keeps hk) (finish_keeps (modFab_keeps hk))

theorem performLinkStatus_keeps {p : Packet} (hk : Keeps s0 s) : Keeps s0 (performLinkStatus p s) :=
  finish_keeps hk

theorem performPortRetrain_keeps {p : Packet} (hk : Keeps s0 s) : Keeps s0 (performPortRetrain p s) := by
  unfold performPortRetrain
  extract_lets s1 busy
  have h1 : Keeps s0 s1 := .foldl hk fun _ _ h1 => retrainPort_keeps h1
  exact .ite (finish_keeps h1) (addRun_keeps h1)

theorem abandonLaunch_keeps {uid : Nat} (hk : Keeps s0 s) : Keeps s0 (abandonLaunch uid s) := by
  unfold abandonLaunch
  extract_lets s1
  have h1 : Keeps s0 s1 := stopLaunch_keeps hk
  exact Keeps.upd h1

theorem performEpochAbandon_keeps {p : Packet} (hk : Keeps s0 s) : Keeps s0 (performEpochAbandon p s) := by
  unfold performEpochAbandon
  extract_lets c k mine ended s1 s2 gone s3 s4 s5 s6 st s7
  have h1 : Keeps s0 s1 := .foldl hk fun _ _ h1 => abandonLaunch_keeps h1
  have h2 : Keeps s0 s2 := unstage_keeps h1
  have h3 : Keeps s0 s3 := modFab_keeps h2
  have h4 : Keeps s0 s4 := modCtx_keeps h3
  have h5 : Keeps s0 s5 := modRel_keeps h4
  have ht : Keeps s0 st := modSeal_keeps h5
  exact .ite (finish_keeps hk) (finish_keeps (.ite (setSealState_keeps ht) ht))

theorem clearHistory_keeps {kind : BitVec 4} {unit : Nat} (hk : Keeps s0 s) :
    Keeps s0 (clearHistory kind unit s) :=
  .ite (logAdd_keeps (modSec_keeps hk)) (modSec_keeps hk)

theorem retestCore_keeps {p : Packet} {k : Nat} (hk : Keeps s0 s) : Keeps s0 (retestCore p k s) :=
  .ite (finish_keeps hk) (addRun_keeps (modCore_keeps hk))

theorem retestArray_keeps {p : Packet} {a : Nat} (hk : Keeps s0 s) : Keeps s0 (retestArray p a s) := by
  unfold retestArray
  extract_lets s1 s2
  have h1 : Keeps s0 s1 := addRun_keeps (modArr_keeps hk)
  have h2 : Keeps s0 s2 := modArr_keeps h1
  exact .ite (finish_keeps hk) (.ite (enterRefresh_keeps h1) (boundary_keeps h2))

theorem performUnitClear_keeps {p : Packet} (hk : Keeps s0 s) : Keeps s0 (performUnitClear p s) :=
  .ite (retestCore_keeps (clearHistory_keeps hk)) <|
    .ite (retestArray_keeps (clearHistory_keeps hk)) <|
    .ite (finish_keeps (clearHistory_keeps hk)) <|
    .ite (finish_keeps (modPort_keeps (clearHistory_keeps hk))) (finish_keeps (clearHistory_keeps hk))

theorem performTwinPair_keeps {p : Packet} (hk : Keeps s0 s) : Keeps s0 (performTwinPair p s) :=
  .ite (finish_keeps hk) (.ite (finish_keeps hk) (beginPair_keeps (addRun_keeps hk)))

theorem performTwinTakeover_keeps {p : Packet} (hk : Keeps s0 s) : Keeps s0 (performTwinTakeover p s) := by
  refine .ite (finish_keeps hk) (finish_keeps (.foldl hk fun t x h1 => ?_))
  split
  · exact applyLanding_keeps h1
  · exact discardLanding_keeps h1
  · exact h1

theorem performTwinPull_keeps {p : Packet} (hk : Keeps s0 s) : Keeps s0 (performTwinPull p s) :=
  .ite (finish_keeps hk) (settle_keeps (pullRun_keeps (addRun_keeps hk)))

theorem performTwinUnpair_keeps {p : Packet} (hk : Keeps s0 s) : Keeps s0 (performTwinUnpair p s) :=
  .ite (finish_keeps hk) (tryUnpair_keeps (addRun_keeps hk))

theorem performUnitFence_keeps {p : Packet} (hk : Keeps s0 s) : Keeps s0 (performUnitFence p s) :=
  .ite (finish_keeps (setPermanent_keeps (fenceCore_keeps hk)))
    (finish_keeps (failLane_keeps (modPort_keeps (relErr_keeps (setPermanent_keeps hk)))))

theorem performPwrLimit_keeps {p : Packet} (hk : Keeps s0 s) : Keeps s0 (performPwrLimit p s) :=
  finish_keeps (modPwr_keeps hk)

theorem performCalSystem_keeps {p : Packet} (hk : Keeps s0 s) : Keeps s0 (performCalSystem p s) :=
  nextFitWork_keeps (addRun_keeps hk)

theorem performCalSave_keeps {p : Packet} (hk : Keeps s0 s) : Keeps s0 (performCalSave p s) := by
  unfold performCalSave
  extract_lets dst s1 busy s2 t s3
  have h1 : Keeps s0 s1 := storeBytes_keeps hk
  have h2 : Keeps s0 s2 := .foldl h1 fun _ _ h2 => saveRecord_keeps h2
  have h3 : Keeps s0 s3 := addRun_keeps h2
  exact .ite (finish_keeps hk) (.ite (finish_keeps hk) (.ite (saveDone_keeps h3) h3))

theorem performCalRestore_keeps {p : Packet} (hk : Keeps s0 s) : Keeps s0 (performCalRestore p s) :=
  nextFitWork_keeps (addRun_keeps hk)

theorem performMonSample_keeps {p : Packet} (hk : Keeps s0 s) : Keeps s0 (performMonSample p s) :=
  askChannel_keeps (addRun_keeps hk)

theorem recordFault_keeps {p : Packet} (hk : Keeps s0 s) : Keeps s0 (recordFault p s) :=
  raise_keeps (logAdd_keeps hk)

theorem performAttest_keeps {p : Packet} (hk : Keeps s0 s) : Keeps s0 (performAttest p s) :=
  .ite (finish_keeps (recordFault_keeps (modSec_keeps hk))) (pumpOut_keeps (addRun_keeps hk))

theorem performImageLoad_keeps {p : Packet} (hk : Keeps s0 s) : Keeps s0 (performImageLoad p s) :=
  addRun_keeps hk

theorem performLogRead_keeps {p : Packet} (hk : Keeps s0 s) : Keeps s0 (performLogRead p s) :=
  .ite (finish_keeps hk) (pumpOut_keeps (addRun_keeps hk))

theorem performLogInfo_keeps {p : Packet} (hk : Keeps s0 s) : Keeps s0 (performLogInfo p s) :=
  finish_keeps hk

theorem performOp_keeps {p : Packet} (hk : Keeps s0 s) : Keeps s0 (performOp p s) := by
  unfold performOp
  split
  · exact performNop_keeps hk
  · exact performDevInfo_keeps hk
  · exact performDevStatus_keeps hk
  · exact performDevReset_keeps hk
  · exact performDevShutdown_keeps hk
  · exact performDevSleep_keeps hk
  · exact performMemWrite_keeps hk
  · exact performMemRead_keeps hk
  · exact performMemCopy_keeps hk
  · exact performMemFill_keeps hk
  · exact performRegRead_keeps hk
  · exact performRegWrite_keeps hk
  · exact performCheckSeal_keeps hk
  · exact performArrayWrite_keeps hk
  · exact performArrayCalibrate_keeps hk
  · exact performArrayRefresh_keeps hk
  · exact performArrayFence_keeps hk
  · exact performLayerRemove_keeps hk
  · exact performCtxCreate_keeps hk
  · exact performCtxDestroy_keeps hk
  · exact performLaunch_keeps hk
  · exact performCtxStatus_keeps hk
  · exact performCoefWrite_keeps hk
  · exact performRingSet_keeps hk
  · exact performLinkStatus_keeps hk
  · exact performPortRetrain_keeps hk
  · exact performEpochAbandon_keeps hk
  · exact performUnitClear_keeps hk
  · exact performTwinPair_keeps hk
  · exact performTwinTakeover_keeps hk
  · exact performTwinPull_keeps hk
  · exact performTwinUnpair_keeps hk
  · exact performUnitFence_keeps hk
  · exact performPwrLimit_keeps hk
  · exact performCalSystem_keeps hk
  · exact performCalSave_keeps hk
  · exact performCalRestore_keeps hk
  · exact performMonSample_keeps hk
  · exact performAttest_keeps hk
  · exact performImageLoad_keeps hk
  · exact performLogRead_keeps hk
  · exact performLogInfo_keeps hk
  · exact hk

theorem perform_keeps {p : Packet} (hk : Keeps s0 s) : Keeps s0 (perform p s) :=
  .ite (performOp_keeps hk) (finish_keeps hk)

theorem startOldest_keeps (hk : Keeps s0 s) : Keeps s0 (startOldest s) := by
  unfold startOldest
  split
  · exact hk
  · exact .ite (perform_keeps (modHost_keeps hk)) hk

theorem submit_keeps {op : Nat} {h : Hdr} {words : List Word} (hk : Keeps s0 s) : Keeps s0 (submit op h words s) :=
  .ite (hstErr_keeps hk) (startOldest_keeps (takePacket_keeps hk))

/-! ### The seal (Machine/Seal) -/

theorem verifyEnd_keeps {uid : Nat} {layer : BitVec 12} {ok : Bool} (hk : Keeps s0 s) :
    Keeps s0 (verifyEnd uid layer ok s) := by
  unfold verifyEnd
  split
  · exact hk
  · exact .ite hk <|
      .ite (mirrorLayer_keeps (modLaunch_keeps hk)) (recallDetected_keeps (relErr_keeps (modLaunch_keeps hk)))

theorem sendSummaries_keeps {c : BitVec 4} (hk : Keeps s0 s) : Keeps s0 (sendSummaries c s) :=
  .foldl hk fun _ _ h1 => sendMsg_keeps (sendMsg_keeps h1)

theorem sealOffer_keeps {c : BitVec 4} (hk : Keeps s0 s) : Keeps s0 (sealOffer c s) :=
  .ite hk (.ite (tryOffer_keeps hk) (tryOffer_keeps (modSeal_keeps (sendSummaries_keeps (mirrorEpoch_keeps hk)))))

theorem milestoneCheck_keeps {c : BitVec 4} {m : W64} (hk : Keeps s0 s) : Keeps s0 (milestoneCheck c m s) :=
  .ite hk (modFab_keeps hk)

theorem takeSummary_keeps {c g : BitVec 4} {k : Word} {prev : Bool} {sum : Word} {m : W64} (hk : Keeps s0 s) :
    Keeps s0 (takeSummary c g k prev sum m s) :=
  .ite hk (tryOffer_keeps (modSeal_keeps (milestoneCheck_keeps hk)))

theorem takeOffer_keeps {m : OfferMsg} {src : DevId} (hk : Keeps s0 s) : Keeps s0 (takeOffer m src s) :=
  .ite hk (tryOffer_keeps (modSeal_keeps (milestoneCheck_keeps hk)))

theorem commitLayer_keeps {c : BitVec 4} {skip : Bool} {l : Layer} (hk : Keeps s0 s) :
    Keeps s0 (commitLayer c skip s l) := by
  unfold commitLayer
  exact modLayer_keeps (.ite (clearRowList_keeps hk) hk)

theorem sealEntries_keeps {c : BitVec 4} {epoch : Nat} (hk : Keeps s0 s) : Keeps s0 (sealEntries c epoch s) :=
  Keeps.upd hk

theorem storeRecord_keeps {c : BitVec 4} {a : Nat} {ps : List (List Byte)} (hk : Keeps s0 s) :
    Keeps s0 (storeRecord c a ps s) := by
  induction ps generalizing a s with
  | nil => exact hk
  | cons p r ih =>
    have h : Keeps s0 (localWrite s false a p false).2 := localWrite_keeps hk
    exact .ite (ih h) (modCtx_keeps h)

theorem latchSums_keeps {c : BitVec 4} {k : Word} (hk : Keeps s0 s) : Keeps s0 (latchSums c k s) :=
  .foldl hk fun _ _ h1 => modFab_keeps h1

theorem stepPulse_keeps {c : BitVec 4} (hk : Keeps s0 s) : Keeps s0 (stepPulse c s) :=
  .ite hk (.ite (modPwr_keeps hk) (.ite (sendMsg_keeps hk) hk))

theorem commitLaunches_keeps {c : BitVec 4} {k : Word} (hk : Keeps s0 s) : Keeps s0 (commitLaunches c k s) := by
  unfold commitLaunches
  extract_lets seals s1 s2
  have h1 : Keeps s0 s1 := .foldl hk fun _ _ h1 => endLaunch_keeps h1
  have h2 : Keeps s0 s2 := Keeps.upd h1
  exact admitHeld_keeps h2

theorem commitCaravans_keeps {c : BitVec 4} {k : Word} (hk : Keeps s0 s) : Keeps s0 (commitCaravans c k s) :=
  modFab_keeps hk

theorem commitSettings_keeps {c : BitVec 4} (hk : Keeps s0 s) : Keeps s0 (commitSettings c s) := by
  unfold commitSettings
  exact modRel_keeps (modCtx_keeps hk)

theorem reopen_keeps {c : BitVec 4} (hk : Keeps s0 s) : Keeps s0 (reopen c s) :=
  .ite (setSealState_keeps hk) hk

theorem commit_keeps {c : BitVec 4} {g : GoMsg} {late : Bool} (hk : Keeps s0 s) : Keeps s0 (commit c g late s) := by
  unfold commit
  extract_lets u k ls layers sections flagsum flags applied s1 s2 s3 src s4 s5 s6 s7
  have h3 : Keeps s0 s3 := sealEntries_keeps (.foldl (latchSums_keeps hk) fun _ _ h => commitLayer_keeps h)
  have h6 : Keeps s0 s6 :=
    commitLaunches_keeps (commitCaravans_keeps (commitSettings_keeps (modCtx_keeps (Keeps.upd h3))))
  have h7 : Keeps s0 s7 := stepPulse_keeps (raise_keeps h6)
  split
  · exact hk
  · exact reopen_keeps (mirrorCommitSend_keeps (storeRecord_keeps h7))

theorem commitTick_keeps {c : BitVec 4} (hk : Keeps s0 s) : Keeps s0 (commitTick c s) := by
  unfold commitTick
  split
  · exact hk
  · exact commit_keeps (Keeps.upd hk)

theorem takeGo_keeps {m : GoMsg} (hk : Keeps s0 s) : Keeps s0 (takeGo m s) := by
  unfold takeGo
  extract_lets u s1 s2
  have h1 : Keeps s0 s1 := sendAll_keeps hk
  have h2 : Keeps s0 s2 := modSeal_keeps h1
  exact .ite hk (.ite (holdEpoch_keeps (milestoneCheck_keeps hk)) (.ite (commit_keeps h2) h2))

theorem copyLocal_keeps {src dst n : Nat} {r : Bool × State} (hk : Keeps s0 r.2) : Keeps s0 (copyLocal src dst n r).2 :=
  carryMarks_keeps (storeBytes_keeps (noteRead_keeps hk))

theorem applyRows_keeps {l : Layer} {k : Word} (hk : Keeps s0 s) : Keeps s0 (applyRows l k s).2 := by
  unfold applyRows
  extract_lets r r'
  have h : Keeps s0 r'.2 := .foldlOn (fun r : Bool × State => r.2) (copyLocal_keeps hk) fun _ _ h =>
    copyLocal_keeps (.foldlOn (fun r : Bool × State => r.2) h fun _ _ h => copyLocal_keeps h)
  split
  · exact copyLocal_keeps (copyLocal_keeps h)
  · exact h

theorem commitDirty_keeps {l : Layer} {stamp a : Nat} (hk : Keeps s0 s) : Keeps s0 (commitDirty l stamp s a) :=
  modArr_keeps hk

theorem applyLayer_keeps {c : BitVec 4} {check : CheckSeen} (hk : Keeps s0 s) : Keeps s0 (applyLayer c check s) := by
  unfold applyLayer
  dsimp -zeta only
  extract_lets u
  split
  · exact hk
  · extract_lets s1 s2 s3 s4
    have h1 : Keeps s0 s1 := .foldl (applyRows_keeps (checkFor_keeps hk)) fun _ _ h1 => commitDirty_keeps h1
    have h2 : Keeps s0 s2 := modLayer_keeps (clearRowList_keeps h1)
    have h3 : Keeps s0 s3 := modCtx_keeps h2
    have h4 : Keeps s0 s4 := reopen_keeps h3
    exact .ite (terminateCtx_keeps h4) h4

theorem offersLate_keeps {c : BitVec 4} (hk : Keeps s0 s) : Keeps s0 (offersLate c s) := by
  unfold offersLate
  extract_lets u
  split
  · exact hk
  · exact .ite (stuckEpoch_keeps (holdEpoch_keeps hk)) hk

theorem askRoot_keeps {c : BitVec 4} (hk : Keeps s0 s) : Keeps s0 (askRoot c s) := by
  unfold askRoot
  extract_lets u
  split
  · exact hk
  · exact .ite hk (sendMsg_keeps (modSeal_keeps (.ite (relErr_keeps hk) hk)))

theorem answerQuery_keeps {c : BitVec 4} {k : Word} {src : DevId} (hk : Keeps s0 s) :
    Keeps s0 (answerQuery c k src s) := by
  unfold answerQuery
  extract_lets u
  split
  · exact .ite (sendMsg_keeps hk) (.ite (sendMsg_keeps hk) hk)
  · exact .ite (sendMsg_keeps hk) hk

theorem takeWithdraw_keeps {c : BitVec 4} {k : Word} {src origin : DevId} (hk : Keeps s0 s) :
    Keeps s0 (takeWithdraw c k src origin s) := by
  unfold takeWithdraw
  extract_lets u again s1
  have h1 : Keeps s0 s1 := modSeal_keeps hk
  have h2 {p : DevId} {m : Msg} : Keeps s0 (sendMsg 0 p m s1) := sendMsg_keeps h1
  clear_value again
  split
  · exact sendMsg_keeps hk
  · refine .ite hk ?_
    split
    · exact modSeal_keeps h1
    · exact .ite h2 (.ite (.ite (setSealState_keeps (modSeal_keeps h2)) (modSeal_keeps h2)) h2)

theorem sendRecallAck_keeps {d : DevId × RecallMsg} (hk : Keeps s0 s) : Keeps s0 (sendRecallAck s d) :=
  sendMsg_keeps hk

theorem withdrawAcked_keeps {c : BitVec 4} {k : Word} (hk : Keeps s0 s) : Keeps s0 (withdrawAcked c k s) :=
  .ite hk (tryOffer_keeps (.foldl (modSeal_keeps hk) fun _ _ h2 => sendRecallAck_keeps h2))

theorem takeHold_keeps {c : BitVec 4} {k : Word} (hk : Keeps s0 s) : Keeps s0 (takeHold c k s) :=
  .ite (holdEpoch_keeps hk) hk

theorem takeDigest_keeps {c : BitVec 4} {n : BitVec 8} {k : Word} {prev : Bool} {d : BitVec 128} (hk : Keeps s0 s) :
    Keeps s0 (takeDigest c n k prev d s) := by
  unfold takeDigest
  split
  · exact hk
  · exact .ite hk (recallMany_keeps (relErr_keeps hk))

theorem takeStuck_keeps {c : BitVec 4} {k : Word} (hk : Keeps s0 s) : Keeps s0 (takeStuck c k s) :=
  .ite (stuckEpoch_keeps (setSealState_keeps hk)) hk

/-! ### Recall and replay (Machine/Recall) -/

theorem recallConsumer_keeps {m : RecallMsg} {src : DevId} {l : LaunchS} (hk : Keeps s0 s) :
    Keeps s0 (recallConsumer m src s l) :=
  .ite (modLaunch_keeps (recallLaunch_keeps hk)) hk

theorem takeRecall_keeps {m : RecallMsg} {src : DevId} (hk : Keeps s0 s) : Keeps s0 (takeRecall m src s) := by
  unfold takeRecall
  extract_lets s1 s2 s3
  have h1 : Keeps s0 s1 := relErr_keeps hk
  have h2 : Keeps s0 s2 := .foldl h1 fun _ _ h2 => recallConsumer_keeps h2
  have h3 : Keeps s0 s3 := modSeal_keeps (withdrawOffer_keeps h2)
  exact .ite (modRel_keeps h1) (.ite (modSeal_keeps h3) (sendRecallAck_keeps h3))

theorem takeRecallAck_keeps {m : RecallMsg} {src : DevId} (hk : Keeps s0 s) : Keeps s0 (takeRecallAck m src s) :=
  .ite hk (tryOffer_keeps (modSeal_keeps hk))

theorem takeReplayed_keeps {m : RecallMsg} {src : DevId} (hk : Keeps s0 s) : Keeps s0 (takeReplayed m src s) :=
  Keeps.upd hk

theorem replayLaunch_keeps {uid : Nat} (hk : Keeps s0 s) : Keeps s0 (replayLaunch uid s) := by
  unfold replayLaunch
  split
  · exact hk
  · exact .ite (modLaunch_keeps hk) hk

theorem replayLate_keeps {uid : Nat} (hk : Keeps s0 s) : Keeps s0 (replayLate uid s) := by
  unfold replayLate
  split
  · exact hk
  · exact .ite (outstanding_keeps (relErr_keeps (modLaunch_keeps hk))) hk

theorem recallSuspects_keeps {c : Nat} (hk : Keeps s0 s) : Keeps s0 (recallSuspects c s) := by
  unfold recallSuspects
  extract_lets us vs s1 s2
  have h1 : Keeps s0 s1 := relErr_keeps hk
  have h2 : Keeps s0 s2 := .foldl h1 fun _ _ h2 => recallDetected_keeps h2
  refine .ite hk (.foldl h2 fun t x h3 => ?_)
  split
  · exact recallReaders_keeps (restartAt_keeps h3)
  · exact h3

theorem forgetIssues_keeps {c : Nat} (hk : Keeps s0 s) : Keeps s0 (forgetIssues c s) := by
  unfold forgetIssues
  exact modFab_keeps (modClus_keeps hk)

theorem raiseDroop_keeps {c : Nat} (hk : Keeps s0 s) : Keeps s0 (raiseDroop c s) :=
  .ite hk (modClus_keeps (forgetIssues_keeps (recallSuspects_keeps hk)))

theorem fallDroop_keeps {c : Nat} (hk : Keeps s0 s) : Keeps s0 (fallDroop c s) :=
  .ite (modClus_keeps (forgetIssues_keeps (recallSuspects_keeps hk))) hk

/-! ### The dispatch of commands and the step (Machine/Dispatch, Machine/Step) -/

/-- What an outcome leaves of the state it came from. -/
def KeepsRes (s0 : State) : Res → Prop
  | .next t => Keeps s0 t
  | _ => True

theorem KeepsRes.next {t : State} (h : Keeps s0 t) : KeepsRes s0 (.next t) := h

/-- What a command of a numbered unit leaves. -/
theorem KeepsRes.unit {r : Res} {t : State} {limit n : Nat}
    (hr : r = if n < limit then .next t else .fault (.noSuchUnit n)) (h : Keeps s0 t) : KeepsRes s0 r := by
  rw [hr]
  split
  · exact h
  · trivial

theorem exec_keeps {c : Instr} (hk : Keeps s0 s) : KeepsRes s0 (exec c s) := by
  cases c with
  | nop | devInfo | devStatus | devReset | devShutdown | devSleep | memWrite | memRead | memCopy | memFill
  | regRead | regWrite | checkSeal | arrayWrite | arrayCalibrate | arrayRefresh | arrayFence | layerRemove
  | ctxCreate | ctxDestroy | launch | ctxStatus | coefWrite | ringSet | linkStatus | portRetrain | epochAbandon
  | unitClear | twinPair | twinTakeover | twinPull | twinUnpair | unitFence | pwrLimit | calSystem | calSave
  | calRestore | monSample | attest | imageLoad | logRead | logInfo =>
    exact .next (submit_keeps hk)
  | commandWindowWrite => exact .next (writeWindow_keeps hk)
  | commandStart => exact .next (startOldest_keeps hk)
  | replyPost => exact .next (postReply_keeps hk)
  | replyHeadWrite => exact .next (writeHead_keeps hk)
  | replyWindowWrite => exact .next (.ite hk (hstErr_keeps hk))
  | dataPortWrite => exact .next (feed_keeps hk)
  | dataPortRead => exact .next (readPort_keeps hk)
  | dataPortIdleTimeout => exact .next (idleTimeout_keeps hk)
  | resync => exact .next (resyncPort_keeps hk)
  | windowARead => exact .next (readWindowA_keeps hk)
  | unsupportedRequest => exact .next (Keeps.upd hk)
  | configurationRequest => exact .next (configRequest_keeps hk)
  | hostLinkReset => exact .next (resetLink_keeps hk)
  | perstDeassert => exact .next (modHost_keeps hk)
  | hostLinkTrained => exact .next (linkTrained_keeps hk)
  | registerWrite => exact .next (writeFrom_keeps hk)
  | rcRead | fabTimeLoRead | pwrWatchTimeLoRead => exact .next (readOut_keeps hk)
  | kick => exact .next (kickWdog_keeps hk)
  | watchdogExpiry => exact .next (watchdogExpiry_keeps hk)
  | retrain => exact .unit rfl (retrainPort_keeps hk)
  | portDisable => exact .unit rfl (disablePort_keeps hk)
  | arrCfgWrite _ reg _ =>
    cases reg with
    | cfg => exact .unit rfl (writeArrCfg_keeps hk)
    | chkcfg => exact .unit rfl (writeArrChk_keeps hk)
  | arrTrimWrite => exact .unit rfl (writeTrim_keeps hk)
  | fmtConfigWrite => exact .unit rfl (writeFmt_keeps hk)
  | tableSlotWrite => exact .unit rfl (.ite (slotWrite_keeps hk) hk)
  | tableSumReady => exact .unit rfl (.ite (slotSum_keeps hk) hk)
  | coefRowWrite cluster row off value =>
    have h : Keeps s0 (putCoef cluster row (off / 4) value s).2 := putCoef_keeps hk
    exact .unit rfl (.ite h hk)
  | coefSumReady => exact .unit rfl (.ite (takeCoefSum_keeps hk) hk)
  | passqHostWrite => exact .unit rfl (discardPassq_keeps hk)
  | invalidPolicyWrite => exact .next (writePolicy_keeps hk)
  | ringCfgWrite => exact .next (writeRing_keeps hk)
  | relCfgWrite reg _ =>
    cases reg with
    | cfg => exact .next (writeRelCfg_keeps hk)
    | histCfg => exact .next (writeHistCfg_keeps hk)
  | regionWrite => exact .unit rfl (writeRegion_keeps hk)
  | regionSwitchOff => exact .unit rfl (switchOff_keeps hk)
  | regionPowerOn => exact .unit rfl (powerOn_keeps hk)
  | regionPowerOnDone => exact .unit rfl (powerOnDone_keeps hk)
  | dvfsRequest => exact .next (requestPoint_keeps hk)
  | dvfsChange => exact .next (dvfsChange_keeps hk)
  | dvfsSettled => exact .next (modPwr_keeps hk)
  | watchWrite => exact .next (issueWatch_keeps hk)
  | watchWriteAck => exact .next (ackWatch_keeps hk)
  | monChselWrite => exact .next (writeChsel_keeps hk)
  | ctiScaleWrite => exact .unit rfl (putCtiScale_keeps hk)
  | sidebandRead => exact .next (sidebandReads_keeps hk)
  | sidebandWrite => exact .next (sidebandWrites_keeps hk)
  | sidebandDynamicAddress => exact .next (.ite (modPwr_keeps hk) hk)
  | inBandInterrupt => exact .next (.ite (sendIbi_keeps (sidebandEvent_keeps hk)) hk)
  | ibiRetry => exact .next (retryIbi_keeps hk)
  | productIssue => exact .unit rfl (issueProduct_keeps hk)
  | arrayRead => exact .unit rfl (driveRead_keeps hk)
  | readCompare => exact .unit rfl (compareOldest_keeps hk)
  | reRead => exact .unit rfl (reReadArray_keeps hk)
  | productBoundary => exact .unit rfl (endProduct_keeps hk)
  | calReadCountExpiry => exact .unit rfl (readsExpiry_keeps hk)
  | calTimerExpiry => exact .unit rfl (periodicTrigger_keeps hk)
  | tjSample => exact .unit rfl (sampleTj_keeps hk)
  | calSlotFree => exact .unit rfl (giveSlot_keeps hk)
  | calibrationEnd => exact .unit rfl (calWaiters_keeps (endCalibration_keeps hk))
  | writeGrant => exact .next (grantTick_keeps hk)
  | writeFirstRow => exact .unit rfl (firstRow_keeps hk)
  | writeIterationEnd => exact .unit rfl (iterationEnd_keeps hk)
  | writeRowEnd => exact .unit rfl (rowEnd_keeps hk)
  | writeEnd => exact .unit rfl (endWrite_keeps hk)
  | wearCopy => exact .unit rfl (.ite (copyWear_keeps hk) hk)
  | productPass => exact .unit rfl (productPass_keeps hk)
  | imageBuild => exact .unit rfl (imageBuild_keeps hk)
  | descriptorEnqueue => exact .unit rfl (enqueueDesc_keeps hk)
  | passIssue => exact .unit rfl (issuePass_keeps hk)
  | drainRowTake => exact .unit rfl (drainRow_keeps hk)
  | engineIdle => exact .unit rfl (idleEngine_keeps hk)
  | engineWake => exact .unit rfl (wakeEngine_keeps hk)
  | groupReread => exact .unit rfl (rereadGroup_keeps hk)
  | add | sub | mul | fma | max | min | abs | cvt | recip | rsqrt | sum | amax => exact .unit rfl (vecWrite_keeps hk)
  | table => exact .unit rfl (tableRun_keeps hk)
  | tableD => exact .unit rfl (tableDRun_keeps hk)
  | wadd => exact .unit rfl (waddRun_keeps hk)
  | vectorOpReserved => exact .unit rfl (opReserved_keeps hk)
  | forward => exact .next (forwardPhase_keeps hk)
  | backwardIn => exact .next (backwardPhase_keeps hk)
  | weightGrad => exact .next (gradPhase_keeps hk)
  | update => exact .next (startUpdate_keeps hk)
  | buildFwd | buildT => exact .next (buildPhase_keeps hk)
  | passes => exact .next (passesPhase_keeps hk)
  | tallyWait | tallyWaitComplete => exact .next (waitTally_keeps hk)
  | tallySignal => exact .next (signalTally_keeps hk)
  | put => exact .next (putPhase_keeps hk)
  | stashReserve => exact .next (reserveStash_keeps hk)
  | launchEnd => exact .next (finishLaunch_keeps hk)
  | updatePassEnd => exact .next (passEnd_keeps hk)
  | stagingVerifyEnd => exact .next (verifyEnd_keeps hk)
  | sealOffer => exact .next (sealOffer_keeps hk)
  | ledgerSummary => exact .next (takeSummary_keeps hk)
  | offer => exact .next (takeOffer_keeps hk)
  | go => exact .next (takeGo_keeps hk)
  | commitTick => exact .next (commitTick_keeps hk)
  | layerApplyEnd => exact .next (applyLayer_keeps hk)
  | sealTimeout => exact .next (offersLate_keeps hk)
  | goQueryTimeout => exact .next (askRoot_keeps hk)
  | goQuery => exact .next (answerQuery_keeps hk)
  | withdraw => exact .next (takeWithdraw_keeps hk)
  | withdrawAck => exact .next (withdrawAcked_keeps hk)
  | hold => exact .next (takeHold_keeps hk)
  | digestExchange => exact .next (takeDigest_keeps hk)
  | stuck => exact .next (takeStuck_keeps hk)
  | caravanStart => exact .next (startCaravan_keeps hk)
  | caravanEntryWrite => exact .next (entryWritten_keeps hk)
  | tileReady => exact .next (.foldl hk fun _ _ h1 => tileBecomesReady_keeps h1)
  | caravanPacket => exact .unit rfl (receivePacket_keeps hk)
  | waystationSlotFree => exact .unit rfl (takeBlocked_keeps hk)
  | restart => exact .next (receiveRestart_keeps hk)
  | launchRecall => exact .next (recallDetected_keeps hk)
  | recallAck => exact .next (takeRecallAck_keeps hk)
  | replayed => exact .next (takeReplayed_keeps hk)
  | launchReplay => exact .next (replayLaunch_keeps hk)
  | replayTimeout => exact .next (replayLate_keeps hk)
  | droopAlarm => exact .unit rfl (raiseDroop_keeps hk)
  | droopClear => exact .unit rfl (fallDroop_keeps hk)
  | stackFail => exact .unit rfl (.ite (modRel_keeps hk) hk)
  | coreSelfTest => exact .unit rfl (startSelfTest_keeps hk)
  | coreSelfTestEnd => exact .unit rfl (endSelfTest_keeps hk)
  | twinSyncEnd => exact .next (syncEnd_keeps hk)
  | mirrorCommit => exact .next (mirrorCommitted_keeps hk)
  | landingFree => exact .next (landingFreed_keeps hk)
  | twinHeartbeat => exact .unit rfl hk
  | peerLost => exact .next (lostPeer_keeps hk)
  | load | store | storeRelease | atomAdd | atomMax | atomMin | atomAnd | atomOr | atomXor | atomSwap | atomCas
  | courierStore | courierAdd | reservedAccessType =>
    exact .next (request_keeps hk)
  | response => exact .next (receiveResponse_keeps hk)
  | responseTimeout => exact .next (timeoutRequest_keeps hk)
  | timeBeacon => exact .next (.ite hk (modFab_keeps hk))
  | stallNotice => exact .next (stallNoticed_keeps hk)
  | flitReceive => exact .unit rfl (receiveFlit_keeps hk)
  | replayRequest => exact .unit rfl (replayFrom_keeps hk)
  | packetReceive => exact .unit rfl (receiveWhole_keeps hk)
  | flitTransmit => exact .unit rfl (transmit_keeps hk)
  | stallTimerExpiry => exact .unit rfl (stallExpiry_keeps hk)
  | courierWindowStart => exact .next (windowStart_keeps hk)
  | courierAdmit => exact .unit rfl (modPort_keeps hk)
  | laneFail => exact .unit rfl (failLane_keeps hk)
  | portTrainEnd => exact .unit rfl (trainEnd_keeps hk)
  | eyeWidthMeasure => exact .unit rfl (measureEyes_keeps hk)
  | frameMark => exact .next (frameMark_keeps hk)
  | frameMiss => exact .next (.ite (modFab_keeps hk) hk)
  | refLost => exact .next (modFab_keeps hk)
  | refReturn => exact .next (reloadTime_keeps (.ite (modFab_keeps hk) hk))
  | clockLock => exact .next (modPwr_keeps hk)
  | phaseFault => exact .unit rfl (phaseFault_keeps hk)
  | uncorePhaseFault => exact .unit rfl (uncoreFault_keeps hk)
  | telemetry => exact .next (telemetry_keeps hk)
  | noticeSlot => exact .next (noticeSlot_keeps hk)
  | noticeBad => exact .next (noticeBad_keeps hk)
  | ladderCompare => exact .next (ladderCompare_keeps hk)
  | thermalCheck => exact .next (thermalCheck_keeps hk)
  | uv48 => exact .next (uv48_keeps hk)
  | uv48Lift => exact .next (applyProtect_keeps (modPwr_keeps hk))
  | vaonLow => exact .next (vaonLow_keeps hk)
  | overtemp => exact .next (overtemp_keeps hk)
  | wake => exact .next (.ite (wakeOn_keeps (watchEvent_keeps hk)) hk)
  | twinHb => exact .next (.ite (wakeOn_keeps (sidebandEvent_keeps (watchEvent_keeps hk))) hk)
  | flow => exact .next (flow_keeps hk)
  | flowTrip => exact .next (flowTrip_keeps hk)
  | heartbeatStrobe => exact .next (.ite (modPwr_keeps hk) hk)
  | mrst => exact .next (requestReset_keeps (modPwr_keeps hk))
  | mrstRelease | inputRise => exact .next (modPwr_keeps hk)
  | vaonGood => exact .next (vaonGood_keeps hk)
  | inputLost => exact .next (inputLost_keeps hk)
  | moduleReset => exact .next (moduleReset_keeps hk)
  | startupBegin => exact .next (startupBegin_keeps hk)
  | startupPhaseEnd => exact .next (startupPhaseEnd_keeps hk)
  | readyReport => exact .next (.ite (reportReady_keeps hk) hk)
  | runningSet => exact .next (.ite hk (askChannel_keeps hk))
  | channelHandover => exact .next (handover_keeps hk)
  | periodicFit => exact .next (.ite hk (nextFitWork_keeps (modMon_keeps hk)))
  | fitEnd => exact .next (fitEnd_keeps hk)
  | traceResult => exact .unit rfl (traceResult_keeps hk)
  | traceDeadline => exact .unit rfl (.ite (dropTrace_keeps hk) hk)
  | compaction => exact .next (compact_keeps hk)
  | twinHeartbeatSend => exact .next (sendHeartbeats_keeps hk)
  | flowPresent => exact .next (applyProtect_keeps (modPwr_keeps hk))
  -- The one command left is the receipt of a recall message; its constructor's name is a keyword of Mathlib.
  | _ => exact .next (takeRecall_keeps hk)

theorem step_keepsInv {s t : State} (hi : Safety.Inv s) (h : step s = .next t) : Safety.Inv t := by
  obtain ⟨hw, hid⟩ := hi
  cases hp : s.pending with
  | nil =>
    have hk : Keeps s (tick s) := tick_keeps (Keeps.refl s)
    simp only [step, hp, Host.Outcome.next.injEq] at h
    subst h
    exact ⟨hk.mem hw, hk.ident hid⟩
  | cons c rest =>
    have hk : KeepsRes { s with pending := rest } (exec c { s with pending := rest }) := exec_keeps (Keeps.refl _)
    simp only [step, hp] at h
    rw [h] at hk
    exact ⟨hk.mem hw, hk.ident hid⟩

end Sys2Proof.Laws

/-! PROOFS. Registers: the block and offset that an address names, and what a write from outside or a read of the register there
does (R11 to R14, Table 1-5). -/

namespace Sys2Proof.Laws
open Sys2Proof.Machine

theorem regAt_core {k o : Nat} (hk : k < 512) (h4 : 4 ∣ o) (ho : o < 0x10000) :
    regAt (0xC0A2000000 + o + 0x10000 * k) = .core k o := by
  have haddr : (0xC0A2000000 + o + 0x10000 * k) / 4 * 4 = 0xC0A2000000 + o + 0x10000 * k := by omega
  have hunit : (0xC0A2000000 + o + 0x10000 * k - 0xC0A2000000) / 0x10000 = k := by omega
  have hoff : (0xC0A2000000 + o + 0x10000 * k) % 0x10000 = o := by omega
  simp only [regAt, haddr, hunit, hoff, Bool.and_eq_true, decide_eq_true_eq]
  rw [if_neg (by omega), if_neg (by omega), if_neg (by omega), if_pos (by omega)]

theorem regAt_array {a o : Nat} (ha : a < 4096) (h4 : 4 ∣ o) (ho : o < 0x1000) :
    regAt (0xC0A4000000 + o + 0x1000 * a) = .array a o := by
  have haddr : (0xC0A4000000 + o + 0x1000 * a) / 4 * 4 = 0xC0A4000000 + o + 0x1000 * a := by omega
  have hunit : (0xC0A4000000 + o + 0x1000 * a - 0xC0A4000000) / 0x1000 = a := by omega
  have hoff : (0xC0A4000000 + o + 0x1000 * a) % 0x1000 = o := by omega
  simp only [regAt, haddr, hunit, hoff, Bool.and_eq_true, decide_eq_true_eq]
  rw [if_neg (by omega), if_neg (by omega), if_neg (by omega), if_neg (by omega), if_pos (by omega)]

/-- A write outside the MSI-X table of window A reaches the register at its address. -/
theorem exec_registerWrite_at {addr : Addr} {n : Nat} {r : RegAt} {v : Word} {s : State} (hn : addr.toNat = n)
    (hr : regAt n = r) (hx : n < 0xC0A0000F00 ∨ 0xC0A0000F80 ≤ n) : exec (.registerWrite addr v) s = .next (writeAt r v s) := by
  subst hn hr
  have hwin : ¬ (0xC0A0000F00 ≤ addr.toNat ∧ addr.toNat < 0xC0A0000F80) := by omega
  show Host.Outcome.next (writeFrom addr.toNat v s) = _
  simp only [writeFrom, Bool.and_eq_true, decide_eq_true_eq, if_neg hwin, writeRegister]

/-- A read returns the word of the register at its address, after the read's effect on it. -/
theorem readOut_at {n : Nat} {r : RegAt} (hr : regAt n = r) (s : State) :
    readOut n s = { readEffect r s with out := .readData (bytesOfWord (regWord s r)) :: (readEffect r s).out } := by
  subst hr
  rfl

theorem wordOf_eq_extractLsb' {n : Nat} (w : BitVec n) (i : Nat) : wordOf w i = w.extractLsb' (32 * i) 32 := by
  apply BitVec.eq_of_toNat_eq
  simp only [wordOf, w32, BitVec.toNat_ofNat, BitVec.extractLsb'_toNat, Nat.shiftRight_eq_div_pow]

/-- PWR_THERM.TJ_THROTTLE takes a code from 85 to 110 and discards another. -/
theorem writePwr_therm (v : Word) (s : State) : writePwr 0x00C v s = { s with pwr := { s.pwr with
    therm := if 85 ≤ fld v 6 0 ∧ fld v 6 0 ≤ 110 then setFld s.pwr.therm 6 0 (fld v 6 0) else s.pwr.therm
    err := if 85 ≤ fld v 6 0 ∧ fld v 6 0 ≤ 110 then s.pwr.err else setBit s.pwr.err 0 } } := by
  have hcode : codeIn 85 110 (fld v 6 0) = decide (85 ≤ fld v 6 0 ∧ fld v 6 0 ≤ 110) := (Bool.decide_and ..).symm
  change (let r := takeField v 6 0 (codeIn 85 110) (s.pwr.therm, false)
    let s := modPwr s fun p => { p with therm := r.1 }
    if r.2 then pwrErr 0 false s else s) = _
  by_cases h : 85 ≤ fld v 6 0 ∧ fld v 6 0 ≤ 110
  · simp [takeField, hcode, h, modPwr]
  · simp [takeField, hcode, h, modPwr, pwrErr]

end Sys2Proof.Laws

/-! PROOFS. The state after reset: no table of units holds an entry, so every unit reads as its reset value. -/

namespace Sys2Proof.Laws
open Sys2Proof.Machine

theorem arr_reset (a : Nat) : arr State.reset a = ArrU.reset := rfl
theorem core_reset (k : Nat) : Machine.core State.reset k = CoreU.reset := rfl
theorem clus_reset (c : Nat) : clus State.reset c = ClusterU.reset := rfl
theorem port_reset (q : Nat) : port State.reset q = PortU.reset := rfl
theorem ctxU_reset (c : BitVec 4) : ctxU State.reset c = CtxU.reset := rfl
theorem entryOf_reset (k e : Nat) : entryOf State.reset k e = Entry.reset := rfl

end Sys2Proof.Laws

/-! PROOFS. The obligations of scope: the invariant, the registers' access codes and reads, and reset. -/

namespace Sys2Proof.Laws
open Sys2Proof.Machine

/-- Settles O5: a tick and every command keep the queue's rest, memory in canonical form and the device id's fields. -/
theorem everyStepKeepsTheInvariant : Obligations.EveryStepKeepsTheInvariant := by
  unfold Obligations.EveryStepKeepsTheInvariant
  exact fun _ _ => step_keepsInv

/-- Settles O13: each clause is the write at one address, by the block and offset that the address names. -/
theorem registerWritesFollowTheirAccessCodes : Obligations.RegisterWritesFollowTheirAccessCodes := by
  unfold Obligations.RegisterWritesFollowTheirAccessCodes
  intro s v addr
  refine ⟨fun h => ?hostErr, fun h => ?relErr, fun h => ?pwrErr, fun a ha h => ?arrErr, fun h => ?therm, fun h => ?none⟩
  case hostErr => exact exec_registerWrite_at (r := .device 0x120) h rfl (by decide)
  case relErr => exact exec_registerWrite_at (r := .device 0x1008) h rfl (by decide)
  case pwrErr => exact exec_registerWrite_at (r := .device 0x2010) h rfl (by decide)
  case arrErr =>
    exact exec_registerWrite_at (r := .array a 0x014) h (regAt_array (o := 0x014) ha (by decide) (by decide)) (by omega)
  case therm =>
    rw [exec_registerWrite_at (r := .device 0x200C) h rfl (by decide)]
    exact congrArg _ (writePwr_therm v s)
  case none =>
    obtain h | h | h := h
    · exact exec_registerWrite_at (r := .device 0) h rfl (by decide)
    · exact exec_registerWrite_at (r := .device 0x10) h rfl (by decide)
    · exact exec_registerWrite_at (r := .reserved) h rfl (by decide)

/-- Settles O14: each clause is the read of one register, with its RC field cleared or its high half latched. -/
theorem registerReadsHandOutClearAndLatch : Obligations.RegisterReadsHandOutClearAndLatch := by
  unfold Obligations.RegisterReadsHandOutClearAndLatch
  intro s
  refine ⟨fun k addr hk h => ?validCnt, fun addr h => ?detectCnt, ?fabTime, ?watchTime, rfl⟩
  case validCnt =>
    refine congrArg Host.Outcome.next ?_
    rw [h, readOut_at (regAt_core (o := 0x10) hk (by decide) (by decide))]
    rfl
  case detectCnt =>
    refine congrArg Host.Outcome.next ?_
    rw [h, readOut_at (r := .device 0x100C) rfl]
    rfl
  case fabTime =>
    refine congrArg Host.Outcome.next ?_
    rw [readOut_at (r := .port 0 0x4010) rfl, ← wordOf_eq_extractLsb' _ 0, ← wordOf_eq_extractLsb' _ 1]
    rfl
  case watchTime =>
    refine congrArg Host.Outcome.next ?_
    rw [readOut_at (r := .device 0x2208) rfl, ← wordOf_eq_extractLsb' _ 0, ← wordOf_eq_extractLsb' _ 1]
    rfl

/-- Settles O6: memory is empty, and the device id is evaluated. -/
theorem resetHasTheInvariant : Obligations.ResetHasTheInvariant := by
  unfold Obligations.ResetHasTheInvariant
  exact ⟨rfl, rfl, rfl⟩

/-- Settles O60: every table of units is empty after reset, so each unit holds its own reset value, whose fields are
evaluated. -/
theorem resetLeavesTheSpecValues : Obligations.ResetLeavesTheSpecValues := by
  unfold Obligations.ResetLeavesTheSpecValues
  dsimp only
  refine ⟨fun a => ?array, fun k => ?core, fun c => ?cluster, fun q => ?port, fun c => ?context, ?module⟩
  case array =>
    rw [arr_reset]
    and_intros <;> rfl
  case core =>
    simp only [core_reset, entryOf_reset]
    and_intros <;> intros <;> and_intros <;> rfl
  case cluster =>
    rw [clus_reset]
    and_intros <;> rfl
  case port =>
    rw [port_reset]
    and_intros <;> rfl
  case context =>
    rw [ctxU_reset]
    and_intros <;> rfl
  case module => and_intros <;> intros <;> rfl

end Sys2Proof.Laws

/-! PROOFS. How a command can end: a row of a numbered unit stops where the unit does not exist, and every other row goes on. -/

namespace Sys2Proof.Laws
open Sys2Proof.Machine

/-- A command goes on, or it is ill-formed and stops at the number of a unit that does not exist (Table 1-1, Table 8-1). -/
def GoesOnOrNamesNoUnit (c : Instr) : Res → Prop
  | .next _ => True
  | .fault f => c.wf = false ∧ ∃ n, f = .noSuchUnit n
  | .refused _ => False

theorem GoesOnOrNamesNoUnit.next {c : Instr} {t : State} : GoesOnOrNamesNoUnit c (.next t) := trivial

/-- A well-formed row of a numbered unit names one below the number of its kind. -/
theorem GoesOnOrNamesNoUnit.unit {c : Instr} {limit n : Nat} {t : State} {r : Res}
    (hr : r = if n < limit then .next t else .fault (.noSuchUnit n)) (hwf : c.wf = true → n < limit) :
    GoesOnOrNamesNoUnit c r := by
  subst hr
  split
  case isTrue => trivial
  case isFalse hn => exact ⟨Bool.eq_false_iff.2 fun hc => hn (hwf hc), n, rfl⟩

theorem onUnit_missing {limit n : Nat} (h : limit ≤ n) (s : State) (f : State → State) :
    onUnit limit n s f = .fault (.noSuchUnit n) := if_neg (Nat.not_lt.2 h)

/-- The rows of Table 1-1's and Table 8-1's numbered units can stop; the commands of Table 11-9 answer a status instead. -/
theorem exec_goesOnOrNamesNoUnit (c : Instr) (s : State) : GoesOnOrNamesNoUnit c (exec c s) := by
  cases c with
  | productBoundary | arrayRead | productIssue | readCompare | reRead | calReadCountExpiry | calTimerExpiry | calibrationEnd
  | writeFirstRow | writeIterationEnd | writeRowEnd | writeEnd | traceResult | traceDeadline | arrCfgWrite
  | tjSample | calSlotFree | wearCopy | waystationSlotFree | droopAlarm | droopClear | regionWrite | regionSwitchOff
  | regionPowerOnDone | ctiScaleWrite
  | productPass | imageBuild | descriptorEnqueue | passIssue | drainRowTake | engineIdle | engineWake | groupReread
  | coreSelfTest | coreSelfTestEnd | vectorOpReserved | passqHostWrite
  | add | sub | mul | fma | max | min | abs | cvt | recip | rsqrt | sum | amax | table | tableD
  | retrain | portDisable | caravanPacket | replayRequest | flitTransmit | stallTimerExpiry | courierAdmit | twinHeartbeat
  | stackFail | uncorePhaseFault => exact .unit rfl of_decide_eq_true
  | arrTrimWrite | fmtConfigWrite | tableSlotWrite | tableSumReady | coefRowWrite | coefSumReady | regionPowerOn | wadd
  | packetReceive | laneFail | portTrainEnd | eyeWidthMeasure | phaseFault =>
    exact .unit rfl fun hwf => of_decide_eq_true (Bool.and_elim_left hwf)
  | flitReceive =>
    exact .unit rfl fun hwf => of_decide_eq_true (Bool.and_elim_left (Bool.and_elim_left hwf))
  | _ => exact .next

/-- Settles O4: a row of a numbered unit stops exactly where the unit does not exist, and no other row stops. -/
theorem onlyMissingUnitsStop : Obligations.OnlyMissingUnitsStop := by
  unfold Obligations.OnlyMissingUnitsStop
  refine ⟨fun c s f h => ?fault, fun c s r h => ?refused, fun a s h => ?array, fun k s h => ?core, fun q s h => ?port⟩
  case fault =>
    have hend : GoesOnOrNamesNoUnit c (exec c s) := exec_goesOnOrNamesNoUnit c s
    rwa [h] at hend
  case refused =>
    have hend : GoesOnOrNamesNoUnit c (exec c s) := exec_goesOnOrNamesNoUnit c s
    rwa [h] at hend
  case array => exact onUnit_missing h s (endProduct a)
  case core => exact onUnit_missing h s (idleEngine k)
  case port => exact onUnit_missing h s (retrainPort q)

end Sys2Proof.Laws

/-! PROOFS. Frames: a state that takes the listed parts of another one, and what follows from it for `Only`. -/

namespace Sys2Proof.Laws
open Sys2Proof.Machine Sys2Proof.Safety

/-- The state s with the listed parts of the state t. -/
def withParts (ps : List Part) (s t : State) : State where
  pending := if .queue ∈ ps then t.pending else s.pending
  host := if .host ∈ ps then t.host else s.host
  deviceId := if .ident ∈ ps then t.deviceId else s.deviceId
  topology := if .ident ∈ ps then t.topology else s.topology
  avail := if .ident ∈ ps then t.avail else s.avail
  wbCfg := if .writeBudget ∈ ps then t.wbCfg else s.wbCfg
  wbStat := if .writeBudget ∈ ps then t.wbStat else s.wbStat
  arrays := if .arrays ∈ ps then t.arrays else s.arrays
  cores := if .cores ∈ ps then t.cores else s.cores
  clusters := if .clusters ∈ ps then t.clusters else s.clusters
  ports := if .ports ∈ ps then t.ports else s.ports
  ctxs := if .ctxs ∈ ps then t.ctxs else s.ctxs
  launches := if .launches ∈ ps then t.launches else s.launches
  mem := if .memory ∈ ps then t.mem else s.mem
  poison := if .poison ∈ ps then t.poison else s.poison
  planes := if .planes ∈ ps then t.planes else s.planes
  stacksIn := if .stacks ∈ ps then t.stacksIn else s.stacksIn
  fab := if .fabric ∈ ps then t.fab else s.fab
  rel := if .rel ∈ ps then t.rel else s.rel
  pwr := if .pwr ∈ ps then t.pwr else s.pwr
  sec := if .sec ∈ ps then t.sec else s.sec
  mon := if .mon ∈ ps then t.mon else s.mon
  rack := if .time ∈ ps then t.rack else s.rack
  watchPhase := if .time ∈ ps then t.watchPhase else s.watchPhase
  nextUid := if .counters ∈ ps then t.nextUid else s.nextUid
  commits := if .counters ∈ ps then t.commits else s.commits
  dueSeq := if .counters ∈ ps then t.dueSeq else s.dueSeq
  free := if .counters ∈ ps then t.free else s.free
  out := if .out ∈ ps then t.out else s.out

/-- A state that differs from s in the listed parts alone. -/
theorem only_of_withParts {ps : List Part} {s t : State} (h : t = withParts ps s t) : Only ps s t := by
  intro p hp
  rw [h]
  cases p <;> simp [same, withParts, memByte, hp]

theorem only_refl (ps : List Part) (s : State) : Only ps s s := by
  intro p _
  cases p <;> simp [same]

theorem only_trans {ps : List Part} {s t u : State} (hst : Only ps s t) (htu : Only ps t u) : Only ps s u := by
  intro p hp
  have h1 : same p s t := hst p hp
  have h2 : same p t u := htu p hp
  cases p <;> simp_all [same]

theorem only_mono {ps qs : List Part} {s t : State} (h : Only ps s t) (hsub : ps ⊆ qs) : Only qs s t :=
  fun p hp => h p fun hps => hp (hsub hps)

end Sys2Proof.Laws

/-! PROOFS. The obligations of the architecture: the register commands of the host (Table 11-9, R11, R30). -/

namespace Sys2Proof.Laws
open Sys2Proof.Machine Sys2Proof.Safety

/-- The parameter that begins a packet's words reads as it was written. -/
theorem pw64_two (op : Nat) (h : Hdr) (v : W64) (ws : List Word) (s : State) : pw64 (pkt op h (two v ++ ws) s) 0 = v := by
  apply BitVec.eq_of_toNat_eq
  have hlt : v.toNat < 2 ^ 64 := v.isLt
  simp only [pw64, pn, pw, pkt, two, words64, w32, w64, List.cons_append, List.nil_append, List.getD_cons_zero,
    List.getD_cons_succ, BitVec.toNat_ofNat]
  omega

/-- The parts that a read with its side effects can change. -/
abbrev readParts : List Part := [.host, .sec, .arrays, .cores, .clusters, .ports, .ctxs, .fabric, .rel, .pwr, .mon]

/-- From s to t registers were read: no command's place has changed. -/
structure ReadsOnly (s t : State) : Prop where
  only : Only readParts s t
  taken : t.host.taken = s.host.taken
  running : t.host.running = s.host.running
  replied : t.host.replied = s.host.replied

theorem ReadsOnly.refl (s : State) : ReadsOnly s s := ⟨only_refl _ s, rfl, rfl, rfl⟩

theorem ReadsOnly.trans {s t u : State} (hst : ReadsOnly s t) (htu : ReadsOnly t u) : ReadsOnly s u :=
  ⟨only_trans hst.only htu.only, htu.taken.trans hst.taken, htu.running.trans hst.running, htu.replied.trans hst.replied⟩

/-- A read clears or latches fields of its register's unit, and leaves the commands in flight alone. -/
theorem readEffect_readsOnly (r : RegAt) (s : State) : ReadsOnly s (readEffect r s) := by
  cases r with
  | device o =>
    show ReadsOnly s (clearDevice o s)
    unfold clearDevice
    split
    · split
      · exact ⟨only_of_withParts rfl, rfl, rfl, rfl⟩
      · exact .refl s
    · split
      case h_8 => exact .refl s
      all_goals exact ⟨only_of_withParts rfl, rfl, rfl, rfl⟩
  | cluster c o =>
    simp only [readEffect]
    split
    · exact ⟨only_of_withParts rfl, rfl, rfl, rfl⟩
    · exact .refl s
  | core k o => exact ⟨only_of_withParts rfl, rfl, rfl, rfl⟩
  | array a o => exact ⟨only_of_withParts rfl, rfl, rfl, rfl⟩
  | port p o =>
    simp only [readEffect]
    split
    · unfold clearFab
      split
      case h_4 => exact .refl s
      all_goals exact ⟨only_of_withParts rfl, rfl, rfl, rfl⟩
    · exact ⟨only_of_withParts rfl, rfl, rfl, rfl⟩
  | memory | reserved => exact .refl s

theorem readWords_length (n a : Nat) (s : State) : (readWords n a s).1.length = n := by
  induction n generalizing a s with
  | zero => rfl
  | succ n ih => exact congrArg (· + 1) (ih (a + 4) _)

theorem readWords_readsOnly (n a : Nat) (s : State) : ReadsOnly s (readWords n a s).2 := by
  induction n generalizing a s with
  | zero => exact .refl s
  | succ n ih => exact (readEffect_readsOnly (regAt a) s).trans (ih (a + 4) _)

/-- The state in which REG_READ reads: the command is in flight. -/
def reading (p : Packet) (s : State) : State := modHost s fun h => { h with taken := p :: h.taken }

/-- The state once REG_READ has read. -/
def doneReading (s : State) : State := modHost s fun h => { h with taken := h.taken.drop 1 }

/-- REG_READ answers the words at its address, each read with its side effects. -/
theorem exec_regRead {h : Hdr} {addr : W64} {count : Word} {s : State} (hl : legal (.regRead h addr count) s = true) :
    let p := pktOf (.regRead h addr count) s
    let r := readWords count.toNat addr.toNat (reading p (took (.regRead h addr count) s))
    exec (.regRead h addr count) s = .next (answered p 0 r.1 (doneReading r.2)) := by
  intro p r
  have haddr : pw64 p 0 = addr := pw64_two 0x1050 h addr [count] s
  have hr : r = readWords (pn p 2) (pw64 p 0).toNat (reading p (took (.regRead h addr count) s)) := by rw [haddr]; rfl
  rw [exec_legal hl, hr]
  rfl

theorem regRead_complete {h : Hdr} {addr : W64} {count : Word} {s : State} (hl : legal (.regRead h addr count) s = true) :
    ∃ t ws, exec (.regRead h addr count) s = .next t ∧ ws.length = count.toNat
      ∧ Replied s t (pktOf (.regRead h addr count) s) 0 ws ∧ Only readParts s t := by
  have hfirst : Only readParts s (reading (pktOf (.regRead h addr count) s) (took (.regRead h addr count) s)) :=
    only_of_withParts rfl
  obtain ⟨honly, htaken, hrunning, hreplied⟩ := readWords_readsOnly count.toNat addr.toNat
    (reading (pktOf (.regRead h addr count) s) (took (.regRead h addr count) s))
  refine ⟨_, _, exec_regRead hl, ?length, ⟨congrArg (List.drop 1) htaken, .of_eq hrunning, congrArg (· ++ _) hreplied⟩, ?only⟩
  case length => exact readWords_length _ _ _
  case only => exact only_trans (only_trans hfirst honly) (only_of_withParts rfl)

/-- REG_READ of one word: the register's word, and the effect of its read. -/
theorem exec_regRead_one {h : Hdr} {addr : W64} {r : RegAt} {s : State} (hl : legal (.regRead h addr 1) s = true)
    (hr : regAt addr.toNat = r) :
    let p := pktOf (.regRead h addr 1) s
    let s1 := reading p (took (.regRead h addr 1) s)
    exec (.regRead h addr 1) s = .next (answered p 0 [regWord s1 r] (doneReading (readEffect r s1))) := by
  subst hr
  exact exec_regRead hl

/-- A write of a register that needs no acknowledgement has its effect before the answer. -/
theorem exec_regWrite {h : Hdr} {addr : W64} {value : Word} {s : State} (hl : legal (.regWrite h addr value) s = true)
    (hw : watchAt addr.toNat = none) : exec (.regWrite h addr value) s
      = .next (answered (pktOf (.regWrite h addr value) s) 0 []
          (writeRegister addr.toNat value (took (.regWrite h addr value) s))) := by
  have haddr : pw64 (pktOf (.regWrite h addr value) s) 0 = addr := pw64_two 0x1060 h addr [value] s
  rw [exec_legal hl]
  show Host.Outcome.next (performRegWrite _ _) = _
  simp only [performRegWrite, haddr, hw]
  rfl

/-- A write of a watch register is issued, and the command runs until the acknowledgement (R30). -/
theorem exec_regWrite_watch {h : Hdr} {addr : W64} {value : Word} {r : WatchReg} {s : State}
    (hl : legal (.regWrite h addr value) s = true) (hw : watchAt addr.toNat = some r) :
    exec (.regWrite h addr value) s = .next (working (pktOf (.regWrite h addr value) s) (.watch r)
      (issueWatch r value true (took (.regWrite h addr value) s))) := by
  have haddr : pw64 (pktOf (.regWrite h addr value) s) 0 = addr := pw64_two 0x1060 h addr [value] s
  rw [exec_legal hl]
  show Host.Outcome.next (performRegWrite _ _) = _
  simp only [performRegWrite, haddr, hw]
  rfl

/-- Settles O12: the words that REG_READ reads, one after the other, and REG_WRITE's effect or its wait for a watch register. -/
theorem registerCommandsComplete : Obligations.RegisterCommandsComplete := by
  unfold Obligations.RegisterCommandsComplete
  intro h s
  refine ⟨fun addr count hl => regRead_complete hl, fun hl => ?deviceId, fun a addr ha haddr hl => ?evcnt,
    fun addr value hl hctl hstat => ?write, fun value hl => ?watch⟩
  case deviceId => exact exec_regRead_one (r := .device 0) hl rfl
  case evcnt =>
    have hr : regAt addr.toNat = .array a 0x018 := by
      rw [haddr]
      exact regAt_array (o := 0x018) ha (by decide) (by decide)
    exact exec_regRead_one hl hr
  case write =>
    have hctl' : addr.toNat ≠ 0xC0A0002200 := by omega
    have hstat' : addr.toNat ≠ 0xC0A0002204 := by omega
    exact exec_regWrite hl (by simp only [watchAt, hctl', hstat', if_false])
  case watch =>
    exact ⟨_, exec_regWrite_watch hl rfl, ⟨rfl, rfl, .refl _⟩, rfl, only_of_withParts rfl⟩

end Sys2Proof.Laws

/-! PROOFS. The obligations of the architecture: the watch registers, the firmware watchdog and the sideband (R30, R373, R388,
R404, R405). -/

namespace Sys2Proof.Laws
open Sys2Proof.Machine Sys2Proof.Safety

theorem w32_fld_low (v : Word) : w32 (fld v 5 0) = v &&& 0x3F#32 := by
  apply BitVec.eq_of_toNat_eq
  have hlow : v.toNat &&& 63 = v.toNat % 2 ^ 6 := Nat.and_two_pow_sub_one_eq_mod v.toNat 6
  have hlt : v.toNat % 2 ^ 6 < 2 ^ 32 := by omega
  simp only [w32, fld, BitVec.toNat_ofNat, BitVec.toNat_and, pow_zero, Nat.div_one, Nat.mod_eq_of_lt hlt]
  exact hlow.symm

theorem bit_eq_testBit {n : Nat} (w : BitVec n) (i : Nat) : bit w i = w.toNat.testBit i :=
  (Nat.testBit_eq_decide_div_mod_eq ..).symm

/-- A bit that is set reads 1. -/
theorem bit_setBit {n : Nat} (w : BitVec n) {i : Nat} (hi : i < n) : bit (setBit w i) i = true := by
  have hquot : (w.toNat / 2 ^ (i + 1) * 2 ^ (i + 1) + 2 ^ i + w.toNat % 2 ^ i) / 2 ^ i = 2 * (w.toNat / 2 ^ (i + 1)) + 1 := by
    have hrest : w.toNat % 2 ^ i < 2 ^ i := Nat.mod_lt _ (Nat.two_pow_pos i)
    rw [show w.toNat / 2 ^ (i + 1) * 2 ^ (i + 1) + 2 ^ i + w.toNat % 2 ^ i
      = w.toNat % 2 ^ i + 2 ^ i * (2 * (w.toNat / 2 ^ (i + 1)) + 1) by ring,
      Nat.add_mul_div_left _ _ (Nat.two_pow_pos i), Nat.div_eq_of_lt hrest, Nat.zero_add]
  rw [bit_eq_testBit, setBit, setFld, BitVec.toNat_ofNat, Nat.testBit_mod_two_pow]
  simp only [hi, decide_true, Bool.true_and, Nat.add_sub_cancel_left, Nat.testBit_eq_decide_div_mod_eq]
  norm_num [hquot]

/-! ### Watch registers (R30) -/

/-- What the acknowledgement of a write to a watch register does to the watch (R30). -/
def watchTaken (r : WatchReg) (v : Word) (rest : List (WatchReg × Word × Bool)) (p : PwrU) : PwrU :=
  { p with
    watchQ := rest
    watchCtl := if r = .ctl then v &&& 0x3F#32 else p.watchCtl
    watchStat := if r = .stat then p.watchStat &&& ~~~(v &&& 0x3F#32) else p.watchStat }

theorem trySleep_of_not_due {s : State} (h : s.pwr.sleepDue = false) : trySleep s = s := by
  simp only [trySleep, h, Bool.false_and, Bool.false_eq_true, if_false]

/-- The state once the oldest write of a register has taken effect. -/
theorem modPwr_watchTaken {s : State} {r : WatchReg} {v : Word} {cmd : Bool} {rest : List (WatchReg × Word × Bool)}
    (hq : s.pwr.watchQ = (r, v, cmd) :: rest) :
    (modPwr s fun p => { p with
      watchQ := p.watchQ.erase (r, v, cmd)
      watchCtl := if r = .ctl then w32 (fld v 5 0) else p.watchCtl
      watchStat := if r = .stat then w1c 0x3F v p.watchStat else p.watchStat }) = modPwr s (watchTaken r v rest) := by
  simp only [modPwr, watchTaken, hq, List.erase_cons_head, w32_fld_low]
  rfl

theorem find_watchWrite {q : List (WatchReg × Word × Bool)} {r : WatchReg} {v : Word} {cmd : Bool}
    {rest : List (WatchReg × Word × Bool)} (hq : q = (r, v, cmd) :: rest) :
    q.find? (fun x => x.1 == r) = some (r, v, cmd) := by
  rw [hq]
  exact List.find?_cons_of_pos (beq_self_eq_true r)

/-- The oldest write of a register is acknowledged; where no command waits for it, that is all. -/
theorem ackWatch_front {s : State} {r : WatchReg} {v : Word} {rest : List (WatchReg × Word × Bool)}
    (hq : s.pwr.watchQ = (r, v, false) :: rest) (hsleep : s.pwr.sleepDue = false) :
    ackWatch r s = modPwr s (watchTaken r v rest) := by
  unfold ackWatch
  simp only [find_watchWrite hq, modPwr_watchTaken hq, Bool.false_eq_true, if_false]
  exact trySleep_of_not_due hsleep

/-- The REG_WRITE that waits for the oldest write of a register completes with its acknowledgement. -/
theorem ackWatch_front_command {s : State} {r : WatchReg} {v : Word} {rest : List (WatchReg × Word × Bool)} {p : Packet}
    (hq : s.pwr.watchQ = (r, v, true) :: rest) (hsleep : s.pwr.sleepDue = false)
    (hrun : s.host.running = [⟨p, .watch r⟩]) (hmuted : p.muted = false) :
    ackWatch r s = answered p 0 [] (modHost (modPwr s (watchTaken r v rest)) fun h => { h with running := [] }) := by
  have hwaits : [Run.mk p (.watch r)].find? (fun x => x.task == .watch r) = some ⟨p, .watch r⟩ :=
    List.find?_cons_of_pos (beq_self_eq_true (Task.watch r))
  unfold ackWatch
  simp only [find_watchWrite hq, modPwr_watchTaken hq, if_true, modPwr_host, hrun, hwaits]
  refine (trySleep_of_not_due ?_).trans ?_
  · rw [completeRun, finish_eq hmuted]
    exact hsleep
  · rw [completeRun, finish_eq hmuted]
    simp only [modHost, modPwr_host, hrun, List.erase_cons_head]

/-! ### The firmware watchdog (R373, R388) -/

/-- The state in which the watchdog has expired, before its record: the kick's time has passed (log entry 3). -/
def expired (s : State) : State :=
  modPwr { s with rack := w64 (max s.rack.toNat (s.pwr.wdogKick.toNat + 156250 * fld s.pwr.wdog 7 0)) } fun p =>
    { p with wdogArmed := false }

theorem watchdogExpiry_armed {s : State} (h : s.pwr.wdogArmed = true) :
    watchdogExpiry s = requestReset 3#4 1#2 (blackbox 4 (expired s)) := by
  unfold watchdogExpiry
  simp only [h, Bool.not_true, Bool.false_eq_true, if_false]
  rfl

/-- The first request for a reset of a module that is awake is recorded. -/
theorem requestReset_first {s : State} (cause : BitVec 4) (kind : BitVec 2) (hawake : s.pwr.state = .awake)
    (hreq : s.pwr.resetReq = none) :
    requestReset cause kind s = modPwr s fun p => { p with resetReq := some (cause, kind) } := by
  simp only [requestReset, hawake, hreq]

/-- The BLACKBOX record of a cause, as the state gives it (Table 14-9). -/
def blackboxRec (s : State) (cause : Nat) : LogRec :=
  ⟨0x09#8, false, s.sec.seq + 1, logTime s, s.sec.seq + 1, 0, blackboxBytes s cause⟩

theorem blackbox_room {s : State} (cause : Nat) (h : s.sec.ring.length < 128) :
    blackbox cause s = sidebandEvent 6#3 (logRefresh (modSec s fun x => { x with
      seq := x.seq + 1, ring := x.ring ++ [blackboxRec s cause] })) := if_pos h

theorem only_blackbox (cause : Nat) (s : State) : Only [.pwr, .sec] s (blackbox cause s) := by
  unfold blackbox
  split <;> exact only_of_withParts rfl

theorem only_modPwr (s : State) (f : PwrU → PwrU) : Only [.pwr] s (modPwr s f) := only_of_withParts rfl

theorem only_rack (s : State) (w : W64) : Only [.time] s { s with rack := w } := only_of_withParts rfl

theorem only_expired (s : State) : Only [.pwr, .time] s (expired s) :=
  only_trans (only_mono (only_rack s _) (by decide)) (only_mono (only_modPwr _ _) (by decide))

/-- The watchdog's expiry asks an awake module for a WARM reset, and records it. -/
theorem watchdogExpiry_awake {s : State} (harmed : s.pwr.wdogArmed = true) (hawake : s.pwr.state = .awake)
    (hreq : s.pwr.resetReq = none) (hring : s.sec.ring.length < 128)
    (htime : s.pwr.wdogKick.toNat + 156250 * fld s.pwr.wdog 7 0 < 2 ^ 64) :
    ∃ t r, exec .watchdogExpiry s = .next t ∧ t.pwr.resetReq = some (3#4, 1#2) ∧ t.pwr.wdogArmed = false
      ∧ t.rack.toNat = Nat.max s.rack.toNat (s.pwr.wdogKick.toNat + 156250 * fld s.pwr.wdog 7 0)
      ∧ t.sec.ring = s.sec.ring ++ [r] ∧ r.kind = 0x09#8 ∧ r.payload.head? = some 4#8 ∧ bit t.pwr.sbEvent 6 = true
      ∧ Only [.pwr, .sec, .time] s t := by
  have hbox : blackbox 4 (expired s) = sidebandEvent 6#3 (logRefresh (modSec (expired s) fun x => { x with
      seq := x.seq + 1, ring := x.ring ++ [blackboxRec (expired s) 4] })) := blackbox_room 4 hring
  have hrun : exec .watchdogExpiry s
      = .next (modPwr (blackbox 4 (expired s)) fun p => { p with resetReq := some (3#4, 1#2) }) := by
    show Host.Outcome.next (watchdogExpiry s) = _
    rw [watchdogExpiry_armed harmed, requestReset_first 3#4 1#2 (by rw [hbox]; exact hawake) (by rw [hbox]; exact hreq)]
  have hrack : max s.rack.toNat (s.pwr.wdogKick.toNat + 156250 * fld s.pwr.wdog 7 0) < 2 ^ 64 := max_lt s.rack.isLt htime
  have honly : Only [.pwr, .sec, .time] s (blackbox 4 (expired s)) :=
    only_trans (only_mono (only_expired s) (by decide)) (only_mono (only_blackbox 4 _) (by decide))
  refine ⟨_, blackboxRec (expired s) 4, hrun, rfl, ?_, ?_, ?_, rfl, rfl, ?_, ?only⟩
  case only => exact only_trans honly (only_mono (only_modPwr _ _) (by decide))
  all_goals rw [hbox]
  · rfl
  · exact Nat.mod_eq_of_lt hrack
  · rfl
  · exact bit_setBit s.pwr.sbEvent (by decide)

/-! ### The sideband (R404, R405) -/

/-- A sideband write where no interrupt waits leaves the interrupts alone. -/
theorem sidebandWrites_quiet {s : State} (hvaon : s.pwr.vaon = true) (hq : s.pwr.ibiQueue = []) (hu : s.pwr.ibiUnacked = [])
    (off : Nat) (v : Word) : sidebandWrites off v s = match off with
      | 0x40 => modPwr s fun p => { p with sbCtl := setFld (w1c 0x80000000 v p.sbCtl) 7 0 (fld v 7 0) }
      | 0x44 => modPwr s fun p => { p with sbEvent := w1c 0xFF v p.sbEvent }
      | _ => modPwr s fun p => { p with sbCtl := setBit p.sbCtl 31 } := by
  unfold sidebandWrites
  simp only [hvaon, Bool.not_true, Bool.false_eq_true, if_false]
  split <;> simp only [modPwr, hq, hu, List.filter_nil]

/-- A sideband read while VAON is up answers the word; TIME_LO latches the time's high half. -/
theorem exec_sidebandRead {s : State} (hvaon : s.pwr.vaon = true) (off : BitVec 8) :
    exec (.sidebandRead off) s = .next { (if off.toNat = 0x20 then latchWatch s else s) with
      out := .sideband (sidebandWord s off.toNat) :: (if off.toNat = 0x20 then latchWatch s else s).out } := by
  show Host.Outcome.next (sidebandReads off.toNat s) = _
  simp only [sidebandReads, hvaon, Bool.not_true, Bool.false_eq_true, if_false]

/-- An event that is not enabled sets its bit alone (R405). -/
theorem exec_inBandInterrupt_disabled {s : State} (hvaon : s.pwr.vaon = true) (hq : s.pwr.ibiQueue = []) {b : BitVec 3}
    (hen : bit s.pwr.sbCtl b.toNat = false) (acked : Bool) : exec (.inBandInterrupt b acked) s
      = .next { s with pwr := { s.pwr with sbEvent := setBit s.pwr.sbEvent b.toNat } } := by
  show Host.Outcome.next (if s.pwr.vaon then sendIbi b acked (sidebandEvent b s) else s) = _
  simp only [hvaon, if_true, sendIbi, sidebandEvent, modPwr, hen, hq, Bool.false_eq_true, if_false, List.contains_nil,
    Bool.not_false]

/-- An enabled event sends its interrupt, which waits for the next idle bus where it is not acknowledged (R405). -/
theorem exec_inBandInterrupt_enabled {s : State} (hvaon : s.pwr.vaon = true) (hq : s.pwr.ibiQueue = []) {b : BitVec 3}
    (hen : bit s.pwr.sbCtl b.toNat = true) (acked : Bool) : exec (.inBandInterrupt b acked) s
      = .next { s with
          pwr := { s.pwr with
            sbEvent := setBit s.pwr.sbEvent b.toNat
            ibiUnacked := if acked then s.pwr.ibiUnacked else insertBit b s.pwr.ibiUnacked }
          out := .ibi (BitVec.ofNat 8 (b.toNat + 1)) :: s.out } := by
  have hsent : [b].contains b = true := List.elem_cons_self
  show Host.Outcome.next (if s.pwr.vaon then sendIbi b acked (sidebandEvent b s) else s) = _
  simp only [hvaon, if_true, sendIbi, sidebandEvent, modPwr, hen, hq, insertBit, hsent, Bool.not_true, Bool.false_eq_true,
    if_false, List.erase_cons_head]

/-- Settles O35: the acknowledged watch write, the watchdog's record and request, and each sideband row while VAON is up. -/
theorem watchAndSidebandRowsComplete : Obligations.WatchAndSidebandRowsComplete := by
  unfold Obligations.WatchAndSidebandRowsComplete
  intro s
  refine ⟨fun r v => rfl, fun v rest hsleep => ⟨fun hq => ?ctl, fun hq => ?stat, fun p hq hrun hmuted => ?command⟩,
    watchdogExpiry_awake, fun hw => ?unarmed, fun hvaon => ?up, fun hvaon off v => ⟨?downRead, ?downWrite⟩,
    fun b rest hu => ⟨?acked, ?unacked⟩⟩
  case ctl => exact congrArg Host.Outcome.next (ackWatch_front hq hsleep)
  case stat => exact congrArg Host.Outcome.next (ackWatch_front hq hsleep)
  case command =>
    have hrow : exec (.watchWriteAck .ctl) s = .next _ :=
      congrArg Host.Outcome.next (ackWatch_front_command hq hsleep hrun hmuted)
    exact ⟨_, hrow, rfl, rfl, List.getLast?_concat, only_of_withParts rfl⟩
  case unarmed =>
    show Host.Outcome.next (watchdogExpiry s) = _
    simp only [watchdogExpiry, hw, Bool.not_false, if_true]
  case up =>
    refine ⟨?readStat, ?readTime, fun hawake => ?readAwake, fun hasleep => ?readAsleep, fun v hq hu => ?writes, fun a => ?address,
      fun b hq hen => ⟨exec_inBandInterrupt_enabled hvaon hq hen true, exec_inBandInterrupt_enabled hvaon hq hen false⟩,
      fun b k hq hen => exec_inBandInterrupt_disabled hvaon hq hen k⟩
    case readStat => exact exec_sidebandRead hvaon 0x1C
    case readTime =>
      rw [exec_sidebandRead hvaon 0x20, ← wordOf_eq_extractLsb' _ 0, ← wordOf_eq_extractLsb' _ 1]
      rfl
    case readAwake =>
      have hword : sidebandWord s 0 = s.deviceId := by simp [sidebandWord, isAwake, hawake, sidebandAwake]
      rw [exec_sidebandRead hvaon 0x00]
      exact congrArg (fun w => Host.Outcome.next { s with out := .sideband w :: s.out }) hword
    case readAsleep =>
      have hword : sidebandWord s 0 = 0xFFFFFFFF#32 := by simp [sidebandWord, isAwake, hasleep]
      rw [exec_sidebandRead hvaon 0x00]
      exact congrArg (fun w => Host.Outcome.next { s with out := .sideband w :: s.out }) hword
    case writes =>
      have hrow : ∀ off : BitVec 8, exec (.sidebandWrite off v) s = .next _ := fun off =>
        congrArg Host.Outcome.next (sidebandWrites_quiet hvaon hq hu off.toNat v)
      exact ⟨hrow 0x40, hrow 0x44, hrow 0x00⟩
    case address =>
      show Host.Outcome.next (if s.pwr.vaon then _ else s) = _
      rw [hvaon]
      rfl
  case downRead =>
    show Host.Outcome.next (sidebandReads off.toNat s) = _
    simp only [sidebandReads, hvaon, Bool.not_false, if_true]
  case downWrite =>
    show Host.Outcome.next (sidebandWrites off.toNat v s) = _
    simp only [sidebandWrites, hvaon, Bool.not_false, if_true]
  case acked =>
    show Host.Outcome.next (retryIbi true s) = _
    simp only [retryIbi, hu, modPwr, if_true, List.drop_succ_cons, List.drop_zero]
  case unacked =>
    show Host.Outcome.next (retryIbi false s) = _
    simp only [retryIbi, hu, modPwr, Bool.false_eq_true, if_false]
    rw [← hu]

end Sys2Proof.Laws

/-! PROOFS. Own memory: ranges of this module's stacks and tallies, what a load, a store and an atomic of one find and leave
(R23, R25, R273, R287, Tables 1-4 and 8-12). -/

namespace Sys2Proof.Laws
open Sys2Proof.Machine Sys2Proof.Safety

/-! ### Little-endian numbers -/

theorem leBytes_length (k n : Nat) : (leBytes k n).length = k := by
  induction k generalizing n with
  | zero => rfl
  | succ k ih => exact congrArg (· + 1) (ih (n / 256))

theorem leNat_leBytes (k n : Nat) : leNat (leBytes k n) = n % 256 ^ k := by
  induction k generalizing n with
  | zero => simp [leBytes, leNat, Nat.mod_one]
  | succ k ih =>
    simp only [leBytes, leNat, ih, BitVec.toNat_ofNat]
    rw [show 256 ^ (k + 1) = 256 * 256 ^ k from Nat.pow_succ', Nat.mod_mul]

/-! ### Addresses -/

theorem stackBytes_le (s : State) : stackBytes s ≤ 0xC000000000 := by
  have hcount : stackCount s ≤ 8 := List.countP_le_length
  simp only [stackBytes, gib]
  omega

theorem areaOf_stack {a : Nat} (h : a < 0xC000000000) : areaOf a = .stack := if_pos h

theorem areaOf_tally_range {a k : Nat} (h : areaOf a = .tally k) : 0xC0B0000000 ≤ a ∧ a < 0xC0B0100000 := by
  unfold areaOf at h
  split_ifs at h
  omega

theorem areaOf_tally {a : Nat} (hlo : 0xC0B0000000 ≤ a) (hhi : a < 0xC0B0100000) :
    areaOf a = .tally ((a - 0xC0B0000000) / 64) := by
  unfold areaOf
  rw [if_neg (by omega), if_neg (by omega), if_neg (by omega), if_neg (by omega), if_neg (by omega), if_pos hhi]

theorem onDeadStack_of_none {s : State} (h : s.rel.badStacks = 0#8) (a : Nat) : onDeadStack s a = false := by
  simp [onDeadStack, h, bit]

theorem onDeadStack_above {s : State} {a : Nat} (h : 0xC000000000 ≤ a) : onDeadStack s a = false := by
  have harea : areaOf a ≠ .stack := by
    rw [areaOf, if_neg (by omega)]
    split_ifs <;> nofun
  simp [onDeadStack, harea]

theorem memGet_of_none {s : State} {a n : Nat} (h : ∀ i, i < n → onDeadStack s (a + i) = false) :
    memGet s a n = (List.range n).map fun i => memByte s (a + i) :=
  List.map_congr_left fun i hi => if_neg (by simp [h i (List.mem_range.1 hi)])

/-- A read of bytes outside the array windows is a read of memory. -/
theorem localBytes_eq_memGet {s : State} {a n : Nat} (h : ∀ i, i < n → ∀ x, areaOf (a + i) ≠ .window x) :
    ((List.range n).map fun i => localByte s (a + i)) = memGet s a n := by
  refine List.map_congr_left fun i hi => ?_
  have hi : i < n := List.mem_range.1 hi
  unfold localByte
  split
  case h_1 x hx => exact absurd hx (h i hi x)
  case h_2 => rfl

/-! ### Ranges of the own stacks -/

theorem inStacks_iff {s : State} {a n : Nat} : inStacks s a n = true ↔ a + n ≤ stackBytes s ∧ s.rel.badStacks = 0#8 := by
  simp [inStacks]

theorem rangeOk_stack {s : State} {a n : Nat} (fabric : Bool) (h : a + n ≤ stackBytes s) : rangeOk s fabric a n = true := by
  have hle : stackBytes s ≤ 0xC000000000 := stackBytes_le s
  rcases Nat.eq_zero_or_pos n with rfl | hn
  · rfl
  · simp only [rangeOk, Bool.or_eq_true, List.all_eq_true, List.mem_range]
    refine .inr fun i hi => ?_
    have hlt : 64 * (a / 64 + i) < stackBytes s := by omega
    simp only [accessible, areaOf_stack (lt_of_lt_of_le hlt hle), hlt, decide_true]

/-- An address past the stacks present is not accessible. -/
theorem rangeOk_past_stacks {s : State} {a n : Nat} (fabric : Bool) (hlo : stackBytes s ≤ a) (hhi : a + n ≤ 0xC000000000)
    (hn : 1 ≤ n) : rangeOk s fabric a n = false := by
  have hfirst : ¬ 64 * (a / 64) < stackBytes s := by
    simp only [stackBytes, gib] at hlo ⊢
    omega
  have hout : accessible s fabric (64 * (a / 64 + 0)) = false := by
    simp only [Nat.add_zero, accessible, areaOf_stack (show 64 * (a / 64) < 0xC000000000 by omega), hfirst, decide_false]
  have hne : (n == 0) = false := by simp; omega
  simp only [rangeOk, hne, Bool.false_or, List.all_eq_false, List.mem_range]
  exact ⟨0, by omega, by rw [hout]; exact Bool.false_ne_true⟩

theorem rangePoisoned_of_unpoisoned {s : State} {a n : Nat} (hbad : s.rel.badStacks = 0#8) (h : unpoisoned s a n = true) :
    rangePoisoned s a n = false := by
  simp only [unpoisoned, List.all_eq_true, Bool.not_eq_true'] at h
  simp only [rangePoisoned, List.any_eq_false]
  intro g hg
  simp [h g hg, onDeadStack_of_none hbad]

/-- Above the stacks no stack fails, so a range there is poisoned by its marks alone. -/
theorem rangePoisoned_above_clean {s : State} {a : Nat} (n : Nat) (hclean : s.poison = []) (ha : 0xC000000040 ≤ a) :
    rangePoisoned s a n = false := List.any_eq_false.2 fun g hg => by
  have hfirst : a / 64 ≤ g := by
    unfold granules at hg
    split at hg
    · exact absurd hg List.not_mem_nil
    · obtain ⟨i, -, rfl⟩ := List.mem_map.1 hg
      exact Nat.le_add_right _ _
  have halive : onDeadStack s (64 * g) = false := onDeadStack_above (by omega)
  simp [isPoisoned, hclean, halive]

/-- The granule of an address is one of the range that begins there. -/
theorem mem_granules_first (a : Nat) {n : Nat} (hn : 1 ≤ n) : a / 64 ∈ granules a n := by
  unfold granules
  rw [if_neg (by omega)]
  exact List.mem_map.2 ⟨0, List.mem_range.2 (by omega), rfl⟩

theorem mem_granules {a n g : Nat} (hlo : a ≤ 64 * g) (hhi : 64 * g + 64 ≤ a + n) : g ∈ granules a n := by
  unfold granules
  rw [if_neg (by omega)]
  exact List.mem_map.2 ⟨g - a / 64, List.mem_range.2 (by omega), by omega⟩

/-! ### Poison (R287) -/

theorem mem_insertNat (g h : Nat) (l : List Nat) : h ∈ insertNat g l ↔ h = g ∨ h ∈ l := by
  induction l with
  | nil => simp [insertNat]
  | cons x l ih =>
    unfold insertNat
    split_ifs with heq hlt
    · simp [heq]
    · simp
    · simp only [List.mem_cons, ih]
      tauto

theorem isPoisoned_iff {s : State} {g : Nat} : isPoisoned s g = true ↔ g ∈ s.poison := List.contains_iff_mem

/-- A store changes no mark of a granule that it does not touch, marks every one that it touches with poison, and clears without
poison those that it covers whole. -/
theorem mem_poison_poisonStore (s : State) (a n g : Nat) (poison : Bool) :
    g ∈ (poisonStore s a n poison).poison ↔
      if poison then g ∈ granules a n ∨ g ∈ s.poison
      else g ∈ s.poison ∧ ¬ (g ∈ granules a n ∧ a ≤ 64 * g ∧ 64 * g + 64 ≤ a + n) := by
  unfold poisonStore
  induction granules a n generalizing s with
  | nil => simp
  | cons x l ih =>
    rw [List.foldl_cons, ih]
    cases poison with
    | true =>
      simp only [if_true, setPoison, mem_insertNat, List.mem_cons]
      tauto
    | false =>
      simp only [Bool.false_eq_true, if_false, Bool.and_eq_true, decide_eq_true_eq, List.mem_cons]
      split_ifs with hx
      · simp only [clearPoison, List.mem_filter, bne_iff_ne]
        constructor
        · rintro ⟨⟨hg, hne⟩, hl⟩
          exact ⟨hg, fun hc => hc.1.elim hne fun hm => hl ⟨hm, hc.2⟩⟩
        · rintro ⟨hg, hc⟩
          exact ⟨⟨hg, fun he => hc ⟨.inl he, he ▸ hx⟩⟩, fun hl => hc ⟨.inr hl.1, hl.2⟩⟩
      · refine and_congr_right fun _ => not_congr ⟨fun hl => ⟨.inr hl.1, hl.2⟩, fun hc => ⟨hc.1.resolve_left ?_, hc.2⟩⟩
        rintro rfl
        exact hx hc.2

/-- The marks of poison are all that they change. -/
theorem poisonStore_eq (s : State) (a n : Nat) (poison : Bool) :
    poisonStore s a n poison = { s with poison := (poisonStore s a n poison).poison } := by
  unfold poisonStore
  induction granules a n generalizing s with
  | nil => rfl
  | cons x l ih =>
    rw [List.foldl_cons, ih]
    cases poison with
    | true => rfl
    | false =>
      simp only [Bool.false_eq_true, if_false]
      split <;> rfl

/-! ### Bytes written (R273) -/

/-- The entries of the groups that a store meets are brought up to date, and no other byte. -/
theorem sealStore_of_not_sealedBy (s : State) (a : Nat) (bytes : List Byte) (flags : Byte) {b : Nat}
    (h : ¬ sealedBy s a bytes.length b) : tget 0#8 (sealStore s a bytes flags) b = memByte s b := by
  unfold sealStore
  have hmet : ∀ g ∈ groupsMet s a bytes.length, b < g.entry ∨ g.entry + 8 ≤ b := fun g hg => by
    by_contra hb
    exact h ⟨g, hg, by omega, by omega⟩
  generalize groupsMet s a bytes.length = gs at hmet ⊢
  suffices ∀ m : List Host.Cell, tget 0#8 m b = memByte s b →
      tget 0#8 (gs.foldl (fun m g => memPut m g.entry (entryAfter s g a bytes flags)) m) b = memByte s b from this _ rfl
  induction gs with
  | nil => exact fun m hm => hm
  | cons g gs ih =>
    intro m hm
    have hg : b < g.entry ∨ g.entry + 8 ≤ b := hmet g List.mem_cons_self
    refine ih (fun k hk => hmet k (List.mem_cons_of_mem _ hk)) _ ?_
    rw [memPut_out _ _ _ _ (by rwa [entryAfter_length]), hm]

/-- Bytes put into memory read back. -/
theorem map_tget_memPut (m : List Host.Cell) (a : Nat) {bytes : List Byte} {n : Nat} (hn : bytes.length = n) :
    ((List.range n).map fun i => tget 0#8 (memPut m a bytes) (a + i)) = bytes := by
  subst hn
  refine List.ext_getElem (by simp) fun i hi hi' => ?_
  simp only [List.getElem_map, List.getElem_range]
  rw [memPut_in _ _ _ _ hi', List.getD_eq_getElem _ _ hi']

/-- A store brings its groups' entries up to date and then writes its bytes. -/
def sealedPut (s : State) (a : Nat) (bytes : List Byte) (flags : Byte) : List Host.Cell :=
  memPut (sealStore s a bytes flags) a bytes

theorem sealedPut_outside {s : State} {a b : Nat} {bytes : List Byte} {flags : Byte} (hb : b < a ∨ a + bytes.length ≤ b)
    (hs : ¬ sealedBy s a bytes.length b) : tget 0#8 (sealedPut s a bytes flags) b = memByte s b := by
  rw [sealedPut, memPut_out _ _ _ _ hb, sealStore_of_not_sealedBy _ _ _ _ hs]

/-- The state once bytes are stored in the own stacks. -/
def stored (s : State) (a : Nat) (bytes : List Byte) (poison : Bool) : State :=
  poisonStore { s with mem := sealedPut s a bytes (({} : Marks).byte poison) } a bytes.length poison

theorem stored_eq (s : State) (a : Nat) (bytes : List Byte) (poison : Bool) :
    stored s a bytes poison = { s with
      mem := sealedPut s a bytes (({} : Marks).byte poison), poison := (stored s a bytes poison).poison } :=
  poisonStore_eq _ a bytes.length poison

theorem localWrite_stacks {s : State} {a : Nat} {bytes : List Byte} (fabric poison : Bool) (hn : 1 ≤ bytes.length)
    (h : inStacks s a bytes.length = true) : localWrite s fabric a bytes poison = (0, stored s a bytes poison) := by
  obtain ⟨hle, hbad⟩ := inStacks_iff.1 h
  have harea : areaOf a = .stack := areaOf_stack (by have := stackBytes_le s; omega)
  have hdead : ((granules a bytes.length).any fun g => onDeadStack s (64 * g)) = false :=
    List.any_eq_false.2 fun g _ => by simp [onDeadStack_of_none hbad]
  simp only [localWrite, markedWrite, rangeOk_stack fabric hle, hdead, harea, keptBytes, Bool.not_true, Bool.false_eq_true,
    if_false]
  rfl

/-- A load of own stack memory without poison. -/
theorem localRead_stacks {s : State} {a n : Nat} (fabric : Bool) (h : inStacks s a n = true) (hp : unpoisoned s a n = true) :
    localRead s fabric a n = ⟨0, memGet s a n, false⟩ := by
  obtain ⟨hle, hbad⟩ := inStacks_iff.1 h
  have hbytes : ((List.range n).map fun i => localByte s (a + i)) = memGet s a n := localBytes_eq_memGet fun i hi x => by
    rw [areaOf_stack (by have := stackBytes_le s; omega)]
    nofun
  simp only [localRead, rangeOk_stack fabric hle, if_true, hbytes, rangePoisoned_of_unpoisoned hbad hp]

end Sys2Proof.Laws

/-! PROOFS. The module's own requests to its own memory (R26, R219 to R221, R235, R407, Table 8-6): how one is served, and what
each row of them does. -/

namespace Sys2Proof.Laws
open Sys2Proof.Machine Sys2Proof.Safety

/-! ### The packet of a request -/

theorem setType_toNat (g : W64) (ty : Nat) : (setFld g 63 58 ty).toNat = ty % 64 * 2 ^ 58 + g.toNat % 2 ^ 58 := by
  have hlt : g.toNat < 2 ^ 64 := g.isLt
  simp only [setFld, BitVec.toNat_ofNat]
  omega

/-- The access type takes the place of bits 63:58 alone. -/
theorem devOf_setType (g : W64) (ty : Nat) : devOf (setFld g 63 58 ty) = devOf g := by
  simp only [devOf, fld, setType_toNat]
  congr 1
  omega

theorem localOf_setType (g : W64) (ty : Nat) : localOf (setFld g 63 58 ty) = localOf g := by
  simp only [localOf, fld, setType_toNat]
  omega

theorem typeOf_setType (g : W64) {ty : Nat} (h : ty < 64) : typeOf (setFld g 63 58 ty) = ty := by
  simp only [typeOf, fld, setType_toNat]
  omega

/-- The packet of a request of the module's own requester. -/
def ownPkt (s : State) (r : Req) (ty : Nat) : Pkt :=
  requestPkt ty r.gaddr (ownId s) r.ctx r.job r.epoch r.tag r.poison r.length r.payload

theorem devOf_ownPkt (s : State) (r : Req) (ty : Nat) : devOf (ownPkt s r ty).gaddr = devOf r.gaddr := devOf_setType _ _

theorem localOf_ownPkt (s : State) (r : Req) (ty : Nat) : localOf (ownPkt s r ty).gaddr = localOf r.gaddr := localOf_setType _ _

theorem typeOf_ownPkt (s : State) (r : Req) {ty : Nat} (h : ty < 64) : typeOf (ownPkt s r ty).gaddr = ty := typeOf_setType _ h

theorem sameGranule_ownPkt (s : State) (r : Req) (ty ty' : Nat) :
    sameGranule (ownPkt s r ty) = sameGranule (ownPkt s r ty') := by
  funext q
  simp only [sameGranule, devOf_ownPkt, localOf_ownPkt]

/-- Whether a request waits depends on its type only by being a release. -/
theorem mustWait_ownPkt {s : State} {r : Req} {ty ty' : Nat} (hty : ty < 64) (hty' : ty' < 64)
    (h : (ty == 2) = (ty' == 2)) : mustWait s r.die (ownPkt s r ty) 0 = mustWait s r.die (ownPkt s r ty') 0 := by
  have hback : ∀ q, sameGranule q (ownPkt s r ty) = sameGranule q (ownPkt s r ty') := fun q => by
    simp only [sameGranule, devOf_ownPkt, localOf_ownPkt]
  simp only [mustWait, typeOf_ownPkt s r hty, typeOf_ownPkt s r hty', h, sameGranule_ownPkt s r ty ty', hback]

/-! ### Sending and serving -/

/-- A request of the module's own requester to its own memory, whose answer no command, launch or mirror awaits. -/
structure OwnRequest (s : State) (r : Req) : Prop where
  own : r.inbound = none
  here : devOf r.gaddr = ownId s
  noCommand : s.host.running.any (awaitsTag r.tag) = false
  noLaunch : s.launches.any (fun l => l.pending.contains r.tag) = false
  noMirror : s.rel.mirror.any (fun m => m.1 == r.tag) = false

/-- The fabric once a request of the own requester has been answered. -/
def told (s : State) (r : Req) (resp : BitVec 4) (poison : Bool) (data : List Byte) : FabU :=
  { s.fab with answers := s.fab.answers ++ [⟨r.tag, resp, poison, data⟩] }

theorem sendRequest_held {die : Bool} {p : Pkt} {s : State} (hdev : devOf p.gaddr = ownId s)
    (hw : mustWait s die p 0 = true) :
    sendRequest die p s = (none, modFab s fun f => { f with held := f.held ++ [⟨p, die⟩] }) :=
  (if_pos hdev).trans (if_pos hw)

/-- A request to own memory that goes at once is served there (R26). -/
theorem sendRequest_served {die : Bool} {p : Pkt} {s t : State} {rd : Rd} (hdev : devOf p.gaddr = ownId s)
    (hw : mustWait s die p 0 = false)
    (hserve : serve false (typeOf p.gaddr) (localOf p.gaddr) p.length.toNat p.payload p.poison s = (rd, t)) :
    sendRequest die p s = (some ⟨p.tag, BitVec.ofNat 4 rd.resp, rd.poison, rd.data⟩, t) := by
  have hrow : sendRequest die p s = _ := (if_pos hdev).trans (if_neg (ne_true_of_eq_false hw))
  rw [hrow, hserve]

theorem requestPkt_setSrc (ty : Nat) (g : W64) (src src' : DevId) (c : BitVec 4) (j e : Word) (tag : BitVec 16) (poison : Bool)
    (len : Nat) (bytes : List Byte) :
    { requestPkt ty g src c j e tag poison len bytes with src := src' } = requestPkt ty g src' c j e tag poison len bytes := rfl

/-- What follows a request that was sent: its answer is delivered where it came at once. -/
def afterSend (load : Bool) : Option Answer × State → State
  | (some a, t) => deliver a load t
  | (none, t) => t

theorem request_own {s : State} {r : Req} {ty : Nat} {x : Option Answer × State} (h : r.inbound = none)
    (hx : sendRequest r.die (ownPkt s r ty) s = x) : request ty r s = afterSend (ty == 0) x := by
  unfold request
  extract_lets p
  have hp : { p with src := ownId s } = ownPkt s r ty := requestPkt_setSrc ..
  rw [hp, hx, h]
  rfl

/-- A request that must wait is held (R27, R223). -/
theorem request_held {s : State} {r : Req} {ty : Nat} (h : OwnRequest s r)
    (hw : mustWait s r.die (ownPkt s r ty) 0 = true) :
    request ty r s = { s with fab := { s.fab with held := s.fab.held ++ [⟨ownPkt s r ty, r.die⟩] } } :=
  request_own h.own (sendRequest_held ((devOf_ownPkt s r ty).trans h.here) hw)

/-- What one of the module's operations leaves of those that await answers. -/
structure SameWaiters (s t : State) : Prop where
  host : t.host = s.host
  launches : t.launches = s.launches
  mirror : t.rel.mirror = s.rel.mirror
  fab : t.fab = s.fab

/-- An answer that no command, launch or mirror awaits joins the list of answers. -/
theorem deliver_listed {s t : State} {r : Req} (h : OwnRequest s r) (ht : SameWaiters s t) (resp : BitVec 4) (poison : Bool)
    (data : List Byte) (load : Bool) :
    deliver ⟨r.tag, resp, poison, data⟩ load t = { t with fab := told s r resp poison data } := by
  have hcommand : t.host.running.find? (awaitsTag r.tag) = none := by
    rw [ht.host, List.find?_eq_none]
    exact List.any_eq_false.1 h.noCommand
  have hlaunch : t.launches.find? (fun l => l.pending.contains r.tag) = none := by
    rw [ht.launches, List.find?_eq_none]
    exact List.any_eq_false.1 h.noLaunch
  have hmirror : t.rel.mirror.find? (fun m => m.1 == r.tag) = none := by
    rw [ht.mirror, List.find?_eq_none]
    exact List.any_eq_false.1 h.noMirror
  simp only [deliver, hcommand, hlaunch, hmirror, modFab, told, ht.fab]

/-- A request that goes at once is served on own memory (R26), and its answer is listed. -/
theorem request_served {s t : State} {r : Req} {ty : Nat} {rd : Rd} (h : OwnRequest s r) (hty : ty < 64)
    (hw : mustWait s r.die (ownPkt s r ty) 0 = false)
    (hserve : serve false ty (localOf r.gaddr) (ownPkt s r ty).length.toNat r.payload r.poison s = (rd, t))
    (ht : SameWaiters s t) :
    request ty r s = { t with fab := told s r (BitVec.ofNat 4 rd.resp) rd.poison rd.data } := by
  have hserve' : serve false (typeOf (ownPkt s r ty).gaddr) (localOf (ownPkt s r ty).gaddr) (ownPkt s r ty).length.toNat
      (ownPkt s r ty).payload (ownPkt s r ty).poison s = (rd, t) := by
    rw [typeOf_ownPkt s r hty, localOf_ownPkt]
    exact hserve
  rw [request_own h.own (sendRequest_served ((devOf_ownPkt s r ty).trans h.here) hw hserve')]
  exact deliver_listed h ht _ _ _ _

theorem SameWaiters.refl (s : State) : SameWaiters s s := ⟨rfl, rfl, rfl, rfl⟩

/-! ### What Table 8-6 asks of a request -/

theorem crosses4k_false {a n : Nat} (h : a % 4096 + n ≤ 4096) : crosses4k a n = false :=
  decide_eq_false (Nat.not_lt.2 h)

theorem ruleKept_load {a n : Nat} (h1 : 1 ≤ n) (h4 : n ≤ 4096) (hc : a % 4096 + n ≤ 4096) : ruleKept 0 a n [] = true := by
  simp [ruleKept, accessBytes, isAtomic, crosses4k_false hc, h1, h4]

/-- A store, a release store or a courier store. -/
def isStore (ty : Nat) : Prop := ty = 1 ∨ ty = 2 ∨ ty = 0x10

theorem isStore_lt {ty : Nat} (h : isStore ty) : ty < 64 := by
  obtain rfl | rfl | rfl := h <;> decide

theorem ruleKept_store {ty a len : Nat} {bytes : List Byte} (hty : isStore ty) (hn : 1 ≤ bytes.length)
    (hc : a % 4096 + bytes.length ≤ 4096) (hcourier : ty = 0x10 → bytes.length ≤ 224) : ruleKept ty a len bytes = true := by
  have hle : bytes.length ≤ 4096 := by omega
  obtain rfl | rfl | rfl := hty
  · simp [ruleKept, accessBytes, isAtomic, crosses4k_false hc, hn, hle]
  · simp [ruleKept, accessBytes, isAtomic, crosses4k_false hc, hn, hle]
  · simp [ruleKept, accessBytes, isAtomic, crosses4k_false hc, hn, hcourier rfl]

theorem ruleKept_store_crossing {a len : Nat} {bytes : List Byte} (hc : 4096 < a % 4096 + bytes.length) :
    ruleKept 1 a len bytes = false := by
  simp [ruleKept, accessBytes, isAtomic, crosses4k, hc]

theorem isAtomic_cases {ty : Nat} (h : isAtomic ty = true) : 4 ≤ ty ∧ ty ≤ 0x0B ∨ ty = 0x11 := by
  simpa [isAtomic] using h

theorem ruleKept_atomic {ty a len : Nat} {bytes : List Byte} (hty : isAtomic ty = true) (ha : a % 8 = 0)
    (hn : bytes.length = if ty = 0x0B then 16 else 8) : ruleKept ty a len bytes = true := by
  have hc : crosses4k a 8 = false := crosses4k_false (by omega)
  have hkinds : 4 ≤ ty ∧ ty ≤ 0x0B ∨ ty = 0x11 := isAtomic_cases hty
  have h0 : ty ≠ 0 := by omega
  have h1 : ty ≠ 1 := by omega
  have h2 : ty ≠ 2 := by omega
  have h10 : ty ≠ 0x10 := by omega
  by_cases hB : ty = 0x0B
  · simp [ruleKept, accessBytes, hc, ha, hn, hB, isAtomic]
  · simp [ruleKept, accessBytes, hty, hc, ha, hn, hB, h0, h1, h2, h10]

/-- A type that Table 8-6 does not list is no access. -/
theorem ruleKept_unlisted {ty a len : Nat} {bytes : List Byte} (h : isListed ty = false) : ruleKept ty a len bytes = false := by
  simp only [isListed, isUpdate, Bool.or_eq_false_iff, beq_eq_false_iff_ne] at h
  obtain ⟨h0, ⟨⟨⟨h1, h2⟩, h10⟩, hatomic⟩⟩ := h
  have hB : ty ≠ 0x0B := by
    rintro rfl
    exact Bool.noConfusion hatomic
  simp [ruleKept, h0, h1, h2, h10, hB, hatomic]

/-! ### Serving on own memory -/

theorem serve_refused {ty a len : Nat} {bytes : List Byte} {fabric poison : Bool} {s : State}
    (h : ruleKept ty a len bytes = false) : serve fabric ty a len bytes poison s = (⟨3, [], false⟩, s) := by
  simp [serve, h]

theorem serve_load {s : State} {a n : Nat} (poison : Bool) (h1 : 1 ≤ n) (h4 : n ≤ 4096) (hc : a % 4096 + n ≤ 4096)
    (hin : inStacks s a n = true) (hp : unpoisoned s a n = true) :
    serve false 0 a n [] poison s = (⟨0, memGet s a n, false⟩, s) := by
  simp [serve, ruleKept_load h1 h4 hc, localRead_stacks false hin hp, noteRead]

/-- A store is served by a write. -/
theorem serve_store {s : State} {ty a len : Nat} {bytes : List Byte} (poison : Bool) (hty : isStore ty)
    (hrule : ruleKept ty a len bytes = true) : serve false ty a len bytes poison s
      = (⟨(localWrite s false a bytes poison).1, [], false⟩, (localWrite s false a bytes poison).2) := by
  have h0 : ty ≠ 0 := by unfold isStore at hty; omega
  have hatomic : isAtomic ty = false := by
    obtain rfl | rfl | rfl := hty <;> rfl
  simp [serve, hrule, h0, hatomic]

/-- The word that an atomic leaves at an address. -/
def atomicWord (ty : Nat) (old bytes : List Byte) : List Byte :=
  leBytes 8 (atomicNew ty (leNat old) (leNat (bytes.take 8)) (leNat (bytes.drop 8)))

theorem serve_atomic {s : State} {ty a len : Nat} {bytes : List Byte} (poison : Bool) (hty : isAtomic ty = true)
    (hrule : ruleKept ty a len bytes = true) (hok : rangeOk s false a 8 = true) (hdead : onDeadStack s a = false)
    (htarget : atomicTarget a = true) : serve false ty a len bytes poison s = localAtomic ty a bytes s := by
  have h0 : ty ≠ 0 := by
    rintro rfl
    exact Bool.noConfusion hty
  simp [serve, hrule, h0, hty, hok, hdead, htarget]

/-- The old word that an atomic answers; a courier add answers none. -/
def atomicBack (ty : Nat) (old : List Byte) : List Byte := if ty = 0x11 then [] else old

/-- A poisoned granule: the atomic is not performed (R407). -/
theorem localAtomic_poisoned {s : State} {ty a : Nat} {bytes : List Byte}
    (hbytes : ((List.range 8).map fun i => localByte s (a + i)) = memGet s a 8) (hp : rangePoisoned s a 8 = true) :
    localAtomic ty a bytes s = (⟨0, atomicBack ty (memGet s a 8), ty != 0x11⟩, relErr 8 s) := by
  simp only [localAtomic, hp, if_true, hbytes, atomicBack]

theorem localAtomic_performed {s : State} {ty a : Nat} {bytes : List Byte}
    (hbytes : ((List.range 8).map fun i => localByte s (a + i)) = memGet s a 8) (hp : rangePoisoned s a 8 = false) :
    let m := sealedPut s a (atomicWord ty (memGet s a 8) bytes) 0#8
    localAtomic ty a bytes s
      = (⟨0, atomicBack ty (memGet s a 8), false⟩, { s with mem := if tallyAdd ty a then countAdd a m else m }) := by
  simp only [localAtomic, hp, Bool.false_eq_true, if_false, hbytes, atomicBack, atomicWord, sealedPut]

end Sys2Proof.Laws

/-! PROOFS. The obligation on the module's own requests, a lemma for each kind of row. -/

namespace Sys2Proof.Laws
open Sys2Proof.Machine Sys2Proof.Safety

/-! ### Memory after a write -/

theorem memGet_sealedPut {s t : State} {a : Nat} {bytes : List Byte} {flags : Byte} (hm : t.mem = sealedPut s a bytes flags)
    (hd : ∀ b, onDeadStack t b = false) : memGet t a bytes.length = bytes := by
  rw [memGet_of_none fun i _ => hd (a + i)]
  simp only [memByte, hm]
  exact map_tget_memPut _ a rfl

theorem outside_sealedPut {s t : State} {a : Nat} {bytes : List Byte} {flags : Byte} (hm : t.mem = sealedPut s a bytes flags) :
    outside a bytes.length s t := fun b hb hs => by
  rw [memByte, hm]
  exact sealedPut_outside hb hs

/-! ### Loads and stores -/

theorem request_load {s : State} {r : Req} (h : OwnRequest s r) (hw : mustWait s r.die (ownPkt s r 0) 0 = false)
    (h1 : 1 ≤ r.length) (h4 : r.length ≤ 4096) (hpay : r.payload = []) (hc : localOf r.gaddr % 4096 + r.length ≤ 4096)
    (hin : inStacks s (localOf r.gaddr) r.length = true) (hp : unpoisoned s (localOf r.gaddr) r.length = true) :
    request 0 r s = { s with fab := told s r 0 false (memGet s (localOf r.gaddr) r.length) } := by
  have hlen : (ownPkt s r 0).length.toNat = r.length :=
    Nat.mod_eq_of_lt (lt_of_le_of_lt h4 (by decide))
  refine request_served (rd := ⟨0, memGet s (localOf r.gaddr) r.length, false⟩) h (by decide) hw ?_ (.refl s)
  rw [hlen, hpay]
  exact serve_load r.poison h1 h4 hc hin hp

/-- A store to a range that answers UNMAPPED is refused whole (R23). -/
theorem request_store_unmapped {s : State} {r : Req} {ty : Nat} (h : OwnRequest s r) (hty : isStore ty)
    (hw : mustWait s r.die (ownPkt s r ty) 0 = false)
    (hrule : ruleKept ty (localOf r.gaddr) (ownPkt s r ty).length.toNat r.payload = true)
    (hok : rangeOk s false (localOf r.gaddr) r.payload.length = false) :
    request ty r s = { s with fab := told s r 1 false [] } := by
  have hwrite : localWrite s false (localOf r.gaddr) r.payload r.poison = (1, s) := by
    simp only [localWrite, markedWrite, hok, Bool.not_false, if_true]
  refine request_served (rd := ⟨1, [], false⟩) h (isStore_lt hty) hw ?_ (.refl s)
  rw [serve_store r.poison hty hrule, hwrite]

/-- The state once a store to own stack memory has been answered. -/
def storeDone (s : State) (r : Req) : State :=
  { stored s (localOf r.gaddr) r.payload r.poison with fab := told s r 0 false [] }

theorem storeDone_eq (s : State) (r : Req) : storeDone s r = { s with
    mem := sealedPut s (localOf r.gaddr) r.payload (({} : Marks).byte r.poison)
    poison := (storeDone s r).poison, fab := told s r 0 false [] } := by
  rw [storeDone, stored_eq]

theorem request_store {s : State} {r : Req} {ty : Nat} (h : OwnRequest s r) (hty : isStore ty)
    (hw : mustWait s r.die (ownPkt s r ty) 0 = false)
    (hrule : ruleKept ty (localOf r.gaddr) (ownPkt s r ty).length.toNat r.payload = true)
    (hn : 1 ≤ r.payload.length) (hin : inStacks s (localOf r.gaddr) r.payload.length = true) :
    request ty r s = storeDone s r := by
  have hsame : SameWaiters s (stored s (localOf r.gaddr) r.payload r.poison) := by
    rw [stored_eq]
    exact ⟨rfl, rfl, rfl, rfl⟩
  refine request_served (rd := ⟨0, [], false⟩) h (isStore_lt hty) hw ?_ hsame
  rw [serve_store r.poison hty hrule, localWrite_stacks false r.poison hn hin]

theorem mem_poison_storeDone (s : State) (r : Req) (g : Nat) : g ∈ (storeDone s r).poison ↔
    if r.poison then g ∈ granules (localOf r.gaddr) r.payload.length ∨ g ∈ s.poison
    else g ∈ s.poison ∧ ¬ (g ∈ granules (localOf r.gaddr) r.payload.length ∧ localOf r.gaddr ≤ 64 * g
      ∧ 64 * g + 64 ≤ localOf r.gaddr + r.payload.length) := mem_poison_poisonStore ..

/-- What a store to own stack memory leaves: its bytes, the entries of their groups, and the marks of its granules (R287). -/
theorem storeDone_complete {s : State} {r : Req} (hbad : s.rel.badStacks = 0#8) :
    let a := localOf r.gaddr
    let n := r.payload.length
    let t := storeDone s r
    memGet t a n = r.payload ∧ outside a n s t ∧ (∀ g, g ∈ granules a n → r.poison = true → isPoisoned t g = true)
      ∧ (∀ g, r.poison = false → a ≤ 64 * g → 64 * g + 64 ≤ a + n → isPoisoned t g = false)
      ∧ (∀ g, g ∉ granules a n → isPoisoned t g = isPoisoned s g)
      ∧ t.fab = told s r 0 false [] ∧ Only [.memory, .poison, .fabric] s t := by
  intro a n t
  have ht : t = { s with
      mem := sealedPut s a r.payload (({} : Marks).byte r.poison), poison := t.poison, fab := told s r 0 false [] } :=
    storeDone_eq s r
  have hmem : t.mem = sealedPut s a r.payload (({} : Marks).byte r.poison) := by rw [ht]
  have hdead : t.rel.badStacks = 0#8 := by rw [ht]; exact hbad
  refine ⟨memGet_sealedPut hmem (onDeadStack_of_none hdead), outside_sealedPut hmem, fun g hg hp => ?marked,
    fun g hp hlo hhi => ?cleared, fun g hg => ?kept, rfl, ?only⟩
  case marked =>
    rw [isPoisoned_iff, mem_poison_storeDone, if_pos hp]
    exact .inl hg
  case cleared =>
    rw [Bool.eq_false_iff, ne_eq, isPoisoned_iff, mem_poison_storeDone, if_neg (by simp [hp])]
    exact fun hc => hc.2 ⟨mem_granules hlo hhi, hlo, hhi⟩
  case kept =>
    rw [Bool.eq_iff_iff, isPoisoned_iff, isPoisoned_iff, mem_poison_storeDone]
    split
    · exact or_iff_right hg
    · exact and_iff_left fun hc => hg hc.1
  case only =>
    rw [ht]
    exact only_of_withParts rfl

/-! ### Atomics -/

/-- The word at an address of the own stacks is read as memory, and an atomic applies to it. -/
structure AtomicOn (s : State) (a : Nat) : Prop where
  ok : rangeOk s false a 8 = true
  alive : onDeadStack s a = false
  target : atomicTarget a = true
  bytes : ((List.range 8).map fun i => localByte s (a + i)) = memGet s a 8

theorem atomicOn_stacks {s : State} {a : Nat} (h : inStacks s a 8 = true) : AtomicOn s a := by
  obtain ⟨hle, hbad⟩ := inStacks_iff.1 h
  have hend : a + 8 ≤ 0xC000000000 := hle.trans (stackBytes_le s)
  refine ⟨rangeOk_stack false hle, onDeadStack_of_none hbad a, ?_, localBytes_eq_memGet fun i hi x => ?_⟩
  · rw [atomicTarget, areaOf_stack (by omega)]
  · rw [areaOf_stack (by omega)]
    nofun

theorem atomicOn_tally {s : State} {a k : Nat} (hk : areaOf a = .tally k) (ha : a % 64 = 0) : AtomicOn s a := by
  obtain ⟨hlo, hhi⟩ := areaOf_tally_range hk
  refine ⟨?_, onDeadStack_above (by omega), ?_, localBytes_eq_memGet fun i hi x => ?_⟩
  · have hgranules : (a + 8 - 1) / 64 - a / 64 + 1 = 1 := by omega
    have haddr : 64 * (a / 64 + 0) = a := by omega
    simp only [rangeOk, hgranules, List.range_one, List.all_cons, List.all_nil, haddr, accessible, hk, Bool.and_true,
      Bool.or_true]
  · simp only [atomicTarget, hk, ha, beq_self_eq_true]
  · rw [areaOf_tally (by omega) (by omega)]
    nofun

theorem serve_atomicOn {s : State} {r : Req} {ty : Nat} (hon : AtomicOn s (localOf r.gaddr)) (hty : isAtomic ty = true)
    (ha : localOf r.gaddr % 8 = 0) (hn : r.payload.length = if ty = 0x0B then 16 else 8) :
    serve false ty (localOf r.gaddr) (ownPkt s r ty).length.toNat r.payload r.poison s
      = localAtomic ty (localOf r.gaddr) r.payload s :=
  serve_atomic r.poison hty (ruleKept_atomic hty ha hn) hon.ok hon.alive hon.target

theorem isAtomic_lt {ty : Nat} (h : isAtomic ty = true) : ty < 64 := by
  have := isAtomic_cases h
  omega

theorem isAtomic_not_release {ty : Nat} (h : isAtomic ty = true) : (ty == 2) = false := by
  have hkinds : 4 ≤ ty ∧ ty ≤ 0x0B ∨ ty = 0x11 := isAtomic_cases h
  exact beq_eq_false_iff_ne.2 (by omega)

/-- An atomic in a poisoned granule is not performed, and its answer carries the poison (R407). -/
theorem request_atomic_poisoned {s : State} {r : Req} {ty : Nat} (h : OwnRequest s r) (hty : isAtomic ty = true)
    (hw : mustWait s r.die (ownPkt s r ty) 0 = false) (hn : r.payload.length = if ty = 0x0B then 16 else 8)
    (ha : localOf r.gaddr % 8 = 0) (hon : AtomicOn s (localOf r.gaddr))
    (hp : isPoisoned s (localOf r.gaddr / 64) = true) : request ty r s = { relErr 8 s with
      fab := told s r 0 (ty != 0x11) (atomicBack ty (memGet s (localOf r.gaddr) 8)) } := by
  have hrange : rangePoisoned s (localOf r.gaddr) 8 = true :=
    List.any_eq_true.2 ⟨_, mem_granules_first _ (by decide), by rw [hp, Bool.true_or]⟩
  refine request_served (t := relErr 8 s) (rd := ⟨0, atomicBack ty (memGet s (localOf r.gaddr) 8), ty != 0x11⟩) h
    (isAtomic_lt hty) hw ?_ ⟨rfl, rfl, rfl, rfl⟩
  rw [serve_atomicOn hon hty ha hn, localAtomic_poisoned hon.bytes hrange]

/-- The memory that an atomic leaves. -/
def atomicMem (s : State) (r : Req) (ty : Nat) : List Host.Cell :=
  let m := sealedPut s (localOf r.gaddr) (atomicWord ty (memGet s (localOf r.gaddr) 8) r.payload) 0#8
  if tallyAdd ty (localOf r.gaddr) then countAdd (localOf r.gaddr) m else m

theorem request_atomic {s : State} {r : Req} {ty : Nat} (h : OwnRequest s r) (hty : isAtomic ty = true)
    (hw : mustWait s r.die (ownPkt s r ty) 0 = false) (hn : r.payload.length = if ty = 0x0B then 16 else 8)
    (ha : localOf r.gaddr % 8 = 0) (hon : AtomicOn s (localOf r.gaddr))
    (hp : rangePoisoned s (localOf r.gaddr) 8 = false) : request ty r s = { s with
      mem := atomicMem s r ty, fab := told s r 0 false (atomicBack ty (memGet s (localOf r.gaddr) 8)) } := by
  refine request_served (t := { s with mem := atomicMem s r ty }) (rd := ⟨0, atomicBack ty (memGet s (localOf r.gaddr) 8), false⟩)
    h (isAtomic_lt hty) hw ?_ ⟨rfl, rfl, rfl, rfl⟩
  rw [serve_atomicOn hon hty ha hn, localAtomic_performed hon.bytes hp]
  rfl

theorem atomicWord_length (ty : Nat) (old bytes : List Byte) : (atomicWord ty old bytes).length = 8 := leBytes_length 8 _

/-- What an atomic on own stack memory leaves: the new word and the entries of its groups. -/
theorem atomic_complete {s t : State} {r : Req} {ty : Nat} (hin : inStacks s (localOf r.gaddr) 8 = true)
    (hmem : t.mem = atomicMem s r ty) (hrel : t.rel = s.rel) :
    memGet t (localOf r.gaddr) 8 = atomicWord ty (memGet s (localOf r.gaddr) 8) r.payload
      ∧ outside (localOf r.gaddr) 8 s t := by
  obtain ⟨hle, hbad⟩ := inStacks_iff.1 hin
  have hstack : areaOf (localOf r.gaddr) = .stack := areaOf_stack (by have := stackBytes_le s; omega)
  have hmem' : t.mem = sealedPut s (localOf r.gaddr) (atomicWord ty (memGet s (localOf r.gaddr) 8) r.payload) 0#8 := by
    rw [hmem]
    simp only [atomicMem, tallyAdd, hstack, Bool.and_false, Bool.false_eq_true, if_false]
  have hget := memGet_sealedPut hmem' (onDeadStack_of_none (by rw [hrel]; exact hbad))
  have hout := outside_sealedPut hmem'
  rw [atomicWord_length] at hget hout
  exact ⟨hget, hout⟩

/-! ### An add to a tally (Table 8-12) -/

/-- An add to the VALUE of a tally adds its operand, and one to ADDS. -/
theorem tallyAdd_complete {s t : State} {r : Req} {k : Nat} (hk : areaOf (localOf r.gaddr) = .tally k)
    (hn : r.payload.length = 8) (haloof : aloof s (localOf r.gaddr) 8 (localOf r.gaddr + 0x30) 8)
    (hmem : t.mem = atomicMem s r 4) :
    let a := localOf r.gaddr
    leNat (memGet t a 8) = (leNat (memGet s a 8) + leNat r.payload) % 2 ^ 64
      ∧ leNat (memGet t (a + 0x30) 8) = (leNat (memGet s (a + 0x30) 8) + 1) % 2 ^ 64
      ∧ ∀ b, b < a ∨ (a + 8 ≤ b ∧ b < a + 0x30) ∨ a + 0x38 ≤ b → ¬ sealedBy s a 8 b → memByte t b = memByte s b := by
  intro a
  obtain ⟨hlo, hhi⟩ : 0xC0B0000000 ≤ a ∧ a < 0xC0B0100000 := areaOf_tally_range hk
  have halive : ∀ (u : State) (i : Nat), onDeadStack u (a + i) = false := fun u i => onDeadStack_above (by omega)
  have hget : ∀ (u : State) (o n : Nat), memGet u (a + o) n = (List.range n).map fun i => memByte u (a + o + i) :=
    fun u o n => memGet_of_none fun i _ => by rw [Nat.add_assoc]; exact halive u (o + i)
  have hgetA : ∀ u : State, memGet u a 8 = (List.range 8).map fun i => memByte u (a + i) :=
    fun u => memGet_of_none fun i _ => halive u i
  let v : List Byte := atomicWord 4 (memGet s a 8) r.payload
  let m : List Host.Cell := sealedPut s a v 0#8
  have hv : v.length = 8 := atomicWord_length _ _ _
  have hm : ∀ b, b < a ∨ a + 8 ≤ b → ¬ sealedBy s a 8 b → tget 0#8 m b = memByte s b := fun b hb hs =>
    sealedPut_outside (by rw [hv]; exact hb) (by rw [hv]; exact hs)
  have hcount : ((List.range 8).map fun i => tget 0#8 m (a + 0x30 + i)) = memGet s (a + 0x30) 8 := by
    rw [hget]
    refine List.map_congr_left fun i hi => hm _ (by omega) ?_
    rintro ⟨g, hg, hge⟩
    have hi : i < 8 := List.mem_range.1 hi
    have := haloof g hg
    omega
  have ht : t.mem = memPut m (a + 0x30) (leBytes 8 (leNat (memGet s (a + 0x30) 8) + 1)) := by
    rw [hmem, ← hcount]
    simp only [atomicMem, tallyAdd, hk]
    rfl
  have hout : ∀ b, b < a + 0x30 ∨ a + 0x38 ≤ b → memByte t b = tget 0#8 m b := fun b hb => by
    rw [memByte, ht]
    exact memPut_out _ _ _ _ (by rw [leBytes_length]; omega)
  refine ⟨?value, ?adds, fun b hb hs => ?frame⟩
  case value =>
    have hvalue : memGet t a 8 = v := by
      rw [hgetA, List.map_congr_left fun i hi => hout (a + i) (by have := List.mem_range.1 hi; omega)]
      exact map_tget_memPut _ a hv
    have hword : v = leBytes 8 ((leNat (memGet s a 8) + leNat r.payload) % 2 ^ 64) := by
      have hpay : r.payload.take 8 = r.payload := List.take_of_length_le (by omega)
      show leBytes 8 ((leNat (memGet s a 8) + leNat (r.payload.take 8)) % 2 ^ 64) = _
      rw [hpay]
    rw [hvalue, hword, leNat_leBytes]
    exact Nat.mod_mod _ _
  case adds =>
    have hadds : memGet t (a + 0x30) 8 = leBytes 8 (leNat (memGet s (a + 0x30) 8) + 1) := by
      simp only [hget t, memByte, ht]
      exact map_tget_memPut m (a + 0x30) (leBytes_length 8 _)
    rw [hadds, leNat_leBytes]
    rfl
  case frame => rw [hout b (by omega), hm b (by omega) hs]

/-! ### The rows -/

/-- The rows of the atomics, each with the word that it leaves of the old one and its operands (Table 8-6). -/
def atomicRows (r : Req) : List (Instr × (Nat → Nat → Nat → Nat)) :=
  [(.atomAdd r, fun o x _ => (o + x) % 2 ^ 64),
    (.atomMax r, fun o x _ => if (BitVec.ofNat 64 o).toInt < (BitVec.ofNat 64 x).toInt then x else o),
    (.atomMin r, fun o x _ => if (BitVec.ofNat 64 x).toInt < (BitVec.ofNat 64 o).toInt then x else o),
    (.atomAnd r, fun o x _ => o &&& x), (.atomOr r, fun o x _ => o ||| x), (.atomXor r, fun o x _ => o ^^^ x),
    (.atomSwap r, fun _ x _ => x), (.atomCas r, fun o x y => if o = x then y else o),
    (.courierAdd r, fun o x _ => (o + x) % 2 ^ 64)]

/-- An atomic's row is the request of an access type, which gives the word that it leaves. -/
theorem exec_atomicRows {r : Req} {c : Instr} {f : Nat → Nat → Nat → Nat} (h : (c, f) ∈ atomicRows r) :
    ∃ ty, isAtomic ty = true ∧ f = atomicNew ty ∧ (∀ s, exec c s = .next (request ty r s))
      ∧ (c = .courierAdd r ↔ ty = 0x11) ∧ (c = .atomCas r ↔ ty = 0x0B) := by
  simp only [atomicRows, List.mem_cons, List.not_mem_nil, or_false, Prod.mk.injEq] at h
  obtain ⟨rfl, rfl⟩ | ⟨rfl, rfl⟩ | ⟨rfl, rfl⟩ | ⟨rfl, rfl⟩ | ⟨rfl, rfl⟩ | ⟨rfl, rfl⟩ | ⟨rfl, rfl⟩ | ⟨rfl, rfl⟩ | ⟨rfl, rfl⟩ := h
  · exact ⟨4, rfl, rfl, fun _ => rfl, by simp, by simp⟩
  · exact ⟨5, rfl, rfl, fun _ => rfl, by simp, by simp⟩
  · exact ⟨6, rfl, rfl, fun _ => rfl, by simp, by simp⟩
  · exact ⟨7, rfl, rfl, fun _ => rfl, by simp, by simp⟩
  · exact ⟨8, rfl, rfl, fun _ => rfl, by simp, by simp⟩
  · exact ⟨9, rfl, rfl, fun _ => rfl, by simp, by simp⟩
  · exact ⟨0x0A, rfl, rfl, fun _ => rfl, by simp, by simp⟩
  · exact ⟨0x0B, rfl, rfl, fun _ => rfl, by simp, by simp⟩
  · exact ⟨0x11, rfl, rfl, fun _ => rfl, by simp, by simp⟩

/-- Settles O36: each row's request is held where it must wait, and otherwise served by the rule of its access type. -/
theorem ownRequestsAreServed : Obligations.OwnRequestsAreServed := by
  unfold Obligations.OwnRequestsAreServed
  intro s r hown hdev hcommand hlaunch hmirror a n _ asked waits
  have h : OwnRequest s r := ⟨hown, hdev, hcommand, hlaunch, hmirror⟩
  have hfree : ∀ ty, ty < 64 → (ty == 2) = false → waits 1 = false → mustWait s r.die (ownPkt s r ty) 0 = false :=
    fun ty hlt hrelease hw => (mustWait_ownPkt (ty' := 1) hlt (by decide) hrelease).trans hw
  refine ⟨fun c ty hc hw => ?held, fun hw h1 h4 hpay hc hin hp => ?load, fun c hc hw hn h4k hin => ?store,
    fun c f hc hw hn ha hin => ?atomic, fun k hw hk ha hn hclean haloof => ?tally, fun hw hty => ?reserved,
    fun c hc hw hlo hhi hn h4k => ?unmapped, fun hw h4k => ?crossing⟩
  case held =>
    simp only [List.mem_cons, List.not_mem_nil, or_false, Prod.mk.injEq] at hc
    obtain ⟨rfl, rfl⟩ | ⟨rfl, rfl⟩ | ⟨rfl, rfl⟩ := hc
    all_goals exact congrArg Host.Outcome.next (request_held h hw)
  case load => exact congrArg Host.Outcome.next (request_load h hw h1 h4 hpay hc hin hp)
  case store =>
    have hbad : s.rel.badStacks = 0#8 := (inStacks_iff.1 hin).2
    have hdone : ∀ ty, isStore ty → (ty = 0x10 → n ≤ 224) → mustWait s r.die (ownPkt s r ty) 0 = false →
        request ty r s = storeDone s r := fun ty hty hcourier hwty =>
      request_store h hty hwty (ruleKept_store hty hn h4k hcourier) hn hin
    refine ⟨storeDone s r, ?_, storeDone_complete hbad⟩
    obtain rfl | rfl | ⟨rfl, hcourier⟩ := hc
    · have hw1 : waits 1 = false := by simpa using hw
      exact congrArg Host.Outcome.next (hdone 1 (.inl rfl) nofun hw1)
    · have hw2 : waits 2 = false := by simpa using hw
      exact congrArg Host.Outcome.next (hdone 2 (.inr (.inl rfl)) nofun hw2)
    · have hw1 : waits 1 = false := by simpa using hw
      exact congrArg Host.Outcome.next (hdone 0x10 (.inr (.inr rfl)) (fun _ => hcourier) (hfree 0x10 (by decide) rfl hw1))
  case atomic =>
    obtain ⟨ty, hty, rfl, hrow, hadd, hcas⟩ := exec_atomicRows hc
    simp only [hadd, hcas] at hn ⊢
    have hwty : mustWait s r.die (ownPkt s r ty) 0 = false := hfree ty (isAtomic_lt hty) (isAtomic_not_release hty) hw
    have hon : AtomicOn s a := atomicOn_stacks hin
    refine ⟨fun hp => ?performed, fun hp => ?poisoned⟩
    case performed =>
      have hrange : rangePoisoned s a 8 = false := rangePoisoned_of_unpoisoned (inStacks_iff.1 hin).2 hp
      obtain ⟨hget, hout⟩ := atomic_complete (t := { s with mem := atomicMem s r ty }) hin rfl rfl
      exact ⟨_, (hrow s).trans (congrArg Host.Outcome.next (request_atomic h hty hwty hn ha hon hrange)), hget, hout, rfl,
        only_of_withParts rfl⟩
    case poisoned =>
      refine ⟨_, (hrow s).trans (congrArg Host.Outcome.next (request_atomic_poisoned h hty hwty hn ha hon hp)), ?_,
        bit_setBit s.rel.err (by decide), only_of_withParts rfl⟩
      have hpoison : (ty != 0x11) = decide (c ≠ .courierAdd r) := by
        rw [Bool.eq_iff_iff]
        simp [hadd]
      exact congrArg (fun p => told s r 0 p (atomicBack ty (memGet s a 8))) hpoison
  case tally =>
    have hrange : rangePoisoned s a 8 = false :=
      rangePoisoned_above_clean 8 hclean (le_trans (by decide) (areaOf_tally_range hk).1)
    have hw4 : mustWait s r.die (ownPkt s r 4) 0 = false := hfree 4 (by decide) rfl hw
    obtain ⟨hvalue, hadds, hframe⟩ := tallyAdd_complete (t := { s with mem := atomicMem s r 4 }) hk hn haloof rfl
    exact ⟨_, congrArg Host.Outcome.next (request_atomic h rfl hw4 hn (by omega) (atomicOn_tally hk ha) hrange), hvalue, hadds,
      hframe, only_of_withParts rfl⟩
  case reserved =>
    have hlt : typeOf r.gaddr < 64 := Nat.mod_lt _ (by decide)
    have hrelease : (typeOf r.gaddr == 2) = false := by
      refine beq_eq_false_iff_ne.2 fun h2 => ?_
      rw [h2] at hty
      exact Bool.noConfusion hty
    have hrefused : request (typeOf r.gaddr) r s = { s with fab := told s r 3 false [] } :=
      request_served (rd := ⟨3, [], false⟩) h hlt (hfree _ hlt hrelease hw) (serve_refused (ruleKept_unlisted hty)) (.refl s)
    show Host.Outcome.next (request (if isListed (typeOf r.gaddr) then 3 else typeOf r.gaddr) r s) = _
    rw [hty]
    exact congrArg Host.Outcome.next hrefused
  case unmapped =>
    have hok : rangeOk s false a n = false := rangeOk_past_stacks false hlo hhi hn
    have hrefused : ∀ ty, isStore ty → ty ≠ 0x10 → mustWait s r.die (ownPkt s r ty) 0 = false →
        request ty r s = { s with fab := told s r 1 false [] } := fun ty hty hne hwty =>
      request_store_unmapped h hty hwty (ruleKept_store hty hn h4k fun he => absurd he hne) hok
    obtain rfl | rfl := hc
    · have hw1 : waits 1 = false := by simpa using hw
      exact congrArg Host.Outcome.next (hrefused 1 (.inl rfl) (by decide) hw1)
    · have hw2 : waits 2 = false := by simpa using hw
      exact congrArg Host.Outcome.next (hrefused 2 (.inr (.inl rfl)) (by decide) hw2)
  case crossing =>
    exact congrArg Host.Outcome.next (request_served (rd := ⟨3, [], false⟩) h (by decide) hw
      (serve_refused (ruleKept_store_crossing h4k)) (.refl s))

end Sys2Proof.Laws

/-! PROOFS. Bit fields (R10): what a field, a bit or a counter of a word reads after another field of it has been set. -/

namespace Sys2Proof.Laws
open Sys2Proof.Machine

section
variable {n : Nat} (w : BitVec n)

theorem testBit_fld (hi lo j : Nat) : (fld w hi lo).testBit j = (decide (j < hi + 1 - lo) && w.toNat.testBit (j + lo)) := by
  rw [fld, Nat.testBit_mod_two_pow, Nat.testBit_div_two_pow]

theorem fld_lt (hi lo : Nat) : fld w hi lo < 2 ^ (hi + 1 - lo) := Nat.mod_lt _ (Nat.two_pow_pos _)

/-- A set field's bits are the value's, and every other bit is the word's. -/
theorem testBit_setFld {hi lo : Nat} (hle : lo ≤ hi) (v i : Nat) : (setFld w hi lo v).toNat.testBit i
    = (decide (i < n) && if lo ≤ i ∧ i ≤ hi then v.testBit (i - lo) else w.toNat.testBit i) := by
  obtain ⟨k, hk⟩ : ∃ k, hi + 1 = lo + k := ⟨hi + 1 - lo, by omega⟩
  have hlow : w.toNat % 2 ^ lo < 2 ^ lo := Nat.mod_lt _ (Nat.two_pow_pos _)
  have hval : v % 2 ^ k < 2 ^ k := Nat.mod_lt _ (Nat.two_pow_pos _)
  have hword : w.toNat / 2 ^ (lo + k) * 2 ^ (lo + k) + v % 2 ^ (lo + k - lo) * 2 ^ lo + w.toNat % 2 ^ lo
      = 2 ^ lo * (2 ^ k * (w.toNat / 2 ^ (lo + k)) + v % 2 ^ k) + w.toNat % 2 ^ lo := by
    rw [Nat.add_sub_cancel_left, pow_add]
    ring
  rw [setFld, BitVec.toNat_ofNat, Nat.testBit_mod_two_pow, hk, hword, Nat.testBit_two_pow_mul_add _ hlow,
    Nat.testBit_two_pow_mul_add _ hval, Nat.testBit_mod_two_pow, Nat.testBit_mod_two_pow, Nat.testBit_div_two_pow]
  refine congrArg (decide (i < n) && ·) ?_
  rcases lt_or_ge i lo with hi1 | hi1
  · simp [hi1, Nat.not_le.2 hi1]
  · have hin : i - lo < k ↔ i ≤ hi := by omega
    by_cases hi2 : i ≤ hi
    · simp [hi1, hi2, hin, Nat.not_lt.2 hi1]
    · have hsum : i - lo - k + (lo + k) = i := by omega
      simp [hi1, hi2, hin, Nat.not_lt.2 hi1, hsum]

theorem fld_setFld_same {hi lo : Nat} (v : Nat) (hle : lo ≤ hi) (hn : hi < n) :
    fld (setFld w hi lo v) hi lo = v % 2 ^ (hi + 1 - lo) := by
  refine Nat.eq_of_testBit_eq fun j => ?_
  rw [testBit_fld, testBit_setFld w hle, Nat.testBit_mod_two_pow]
  by_cases hj : j < hi + 1 - lo
  · simp [hj, show j + lo < n by omega, show j + lo ≤ hi by omega]
  · simp [hj]

theorem fld_setFld_ne {hi lo hi' lo' : Nat} (v : Nat) (h : lo ≤ hi ∧ (hi' < lo ∨ hi < lo')) :
    fld (setFld w hi lo v) hi' lo' = fld w hi' lo' := by
  refine Nat.eq_of_testBit_eq fun j => ?_
  rw [testBit_fld, testBit_fld, testBit_setFld w h.1]
  by_cases hj : j < hi' + 1 - lo'
  · by_cases hw : j + lo' < n
    · simp [hw, show ¬ (lo ≤ j + lo' ∧ j + lo' ≤ hi) by omega]
    · have hz : w.toNat.testBit (j + lo') = false := Nat.testBit_lt_two_pow
        (lt_of_lt_of_le w.isLt (Nat.pow_le_pow_right (by decide) (Nat.not_lt.1 hw)))
      simp [hw, hz]
  · simp [hj]

theorem bit_eq_fld (i : Nat) : bit w i = (fld w i i == 1) := by
  rw [bit, fld, Nat.add_sub_cancel_left, pow_one]

theorem bit_setFld_ne {hi lo i : Nat} (v : Nat) (h : lo ≤ hi ∧ (i < lo ∨ hi < i)) : bit (setFld w hi lo v) i = bit w i := by
  rw [bit_eq_fld, bit_eq_fld, fld_setFld_ne w v h]

theorem fld_setBit_ne {hi lo i : Nat} (h : hi < i ∨ i < lo) : fld (setBit w i) hi lo = fld w hi lo :=
  fld_setFld_ne w 1 ⟨le_rfl, h⟩

theorem bit_setBit_ne {i j : Nat} (h : j ≠ i) : bit (setBit w i) j = bit w j :=
  bit_setFld_ne w 1 ⟨le_rfl, Nat.lt_or_gt_of_ne h⟩

theorem fld_putBit_ne {hi lo i : Nat} (b : Bool) (h : hi < i ∨ i < lo) : fld (putBit w i b) hi lo = fld w hi lo :=
  fld_setFld_ne w _ ⟨le_rfl, h⟩

theorem bit_putBit_ne {i j : Nat} (b : Bool) (h : j ≠ i) : bit (putBit w i b) j = bit w j :=
  bit_setFld_ne w _ ⟨le_rfl, Nat.lt_or_gt_of_ne h⟩

theorem bit_setBit_of_bit {i j : Nat} (h : bit w j = true) : bit (setBit w i) j = true := by
  have hj : j < n := by
    by_contra hn
    have hz : w.toNat.testBit j = false := Nat.testBit_lt_two_pow
      (lt_of_lt_of_le w.isLt (Nat.pow_le_pow_right (by decide) (Nat.not_lt.1 hn)))
    rw [bit_eq_testBit, hz] at h
    cases h
  by_cases hij : j = i
  · subst hij
    exact bit_setBit w hj
  · rw [bit_setBit_ne w hij, h]

end

/-- Two words with the same fields are the same, where the fields cover every bit. -/
theorem eq_of_testBit {n : Nat} {v w : BitVec n} (h : ∀ i, i < n → v.toNat.testBit i = w.toNat.testBit i) : v = w := by
  refine BitVec.eq_of_toNat_eq (Nat.eq_of_testBit_eq fun i => ?_)
  by_cases hi : i < n
  · exact h i hi
  · have hle : 2 ^ n ≤ 2 ^ i := Nat.pow_le_pow_right (by decide) (Nat.not_lt.1 hi)
    rw [Nat.testBit_lt_two_pow (lt_of_lt_of_le v.isLt hle), Nat.testBit_lt_two_pow (lt_of_lt_of_le w.isLt hle)]

theorem setBit_setBit_same {n : Nat} (w : BitVec n) (i : Nat) : setBit (setBit w i) i = setBit w i := by
  refine eq_of_testBit fun j hj => ?_
  simp only [setBit, testBit_setFld _ (le_refl i), hj, decide_true, Bool.true_and]
  split <;> rfl

end Sys2Proof.Laws

/-! PROOFS. One array at a time: what a command leaves of the other arrays and of the rest of the state, the product boundary, and
the entry into a calibration or a refresh (R60 to R63, Table 2-9). -/

namespace Sys2Proof.Laws
open Sys2Proof.Machine Sys2Proof.Safety

theorem onUnit_present {limit n : Nat} (h : n < limit) (s : State) (f : State → State) : onUnit limit n s f = .next (f s) :=
  if_pos h

@[simp] theorem arr_modArr_same (s : State) (a : Nat) (f : ArrU → ArrU) : arr (modArr s a f) a = f (arr s a) :=
  tget_tmod_same _ _ _ _

theorem arr_modArr_ne {s : State} {a b : Nat} {f : ArrU → ArrU} (h : b ≠ a) : arr (modArr s a f) b = arr s b :=
  tget_tmod_ne _ _ _ _ _ h

/-! ### Frames of one array -/

/-- From s to t array a and the listed parts can have changed, and no other array. -/
structure Touches (ps : List Part) (a : Nat) (s t : State) : Prop where
  only : Only (.arrays :: ps) s t
  others : ∀ b, b ≠ a → arr t b = arr s b

namespace Touches
variable {ps qs : List Part} {a : Nat} {s t u : State}

theorem refl (ps : List Part) (a : Nat) (s : State) : Touches ps a s s := ⟨only_refl _ s, fun _ _ => rfl⟩

theorem trans (hst : Touches ps a s t) (htu : Touches ps a t u) : Touches ps a s u :=
  ⟨only_trans hst.only htu.only, fun b hb => (htu.others b hb).trans (hst.others b hb)⟩

theorem mono (h : Touches ps a s t) (hsub : ps ⊆ qs) : Touches qs a s t :=
  ⟨only_mono h.only (List.cons_subset_cons _ hsub), h.others⟩

/-- A change of other parts than the arrays. -/
theorem of_only (h : Only ps s t) (hp : .arrays ∉ ps) : Touches ps a s t :=
  ⟨only_mono h (List.subset_cons_self ..), fun b _ => congrArg (tget ArrU.reset · b) (h .arrays hp)⟩

theorem modArr (ps : List Part) (a : Nat) (f : ArrU → ArrU) (s : State) : Touches ps a s (modArr s a f) :=
  ⟨only_mono (ps := [.arrays]) (only_of_withParts rfl) (by simp), fun _ hb => arr_modArr_ne hb⟩

end Touches

/-! ### Folds over arrays -/

section
variable {ps : List Part} {f : State → Nat → State} (hf : ∀ s b, Touches ps b s (f s b))
include hf

theorem foldl_only (l : List Nat) (s : State) : Only (.arrays :: ps) s (l.foldl f s) := by
  induction l generalizing s with
  | nil => exact only_refl _ s
  | cons b l ih => exact only_trans (hf s b).only (ih (f s b))

theorem foldl_arr_of_notMem {l : List Nat} {a : Nat} (ha : a ∉ l) (s : State) : arr (l.foldl f s) a = arr s a := by
  induction l generalizing s with
  | nil => rfl
  | cons b l ih =>
    obtain ⟨hab, hal⟩ := not_or.1 (List.mem_cons.not.1 ha)
    exact (ih hal (f s b)).trans ((hf s b).others a hab)

/-- An array of the list is worked once, in a state where it still is as it was. -/
theorem foldl_arr_of_mem {l : List Nat} (hl : l.Nodup) {a : Nat} (ha : a ∈ l) (s : State) :
    ∃ t, Only (.arrays :: ps) s t ∧ arr t a = arr s a ∧ arr (l.foldl f s) a = arr (f t a) a := by
  obtain ⟨before, after, rfl⟩ := List.append_of_mem ha
  have hbefore : a ∉ before := fun h => (List.nodup_append.1 hl).2.2 a h a (List.mem_cons_self ..) rfl
  have hafter : a ∉ after := (List.nodup_cons.1 (List.nodup_append.1 hl).2.1).1
  refine ⟨before.foldl f s, foldl_only hf _ s, foldl_arr_of_notMem hf hbefore s, ?_⟩
  rw [List.foldl_append, List.foldl_cons, foldl_arr_of_notMem hf hafter]

end

/-! ### In service -/

/-- Whether an array is fenced or powered is the same in both states, its own registers apart. -/
structure SameService (s t : State) : Prop where
  rel : t.rel = s.rel
  topology : t.topology = s.topology
  region : ∀ c, (clus t c).region = (clus s c).region

theorem SameService.of_only {ps : List Part} {s t : State} (h : Only ps s t) (hrel : .rel ∉ ps) (hident : .ident ∉ ps)
    (hclusters : .clusters ∉ ps) : SameService s t :=
  ⟨h .rel hrel, (h .ident hident).2.1, fun c => congrArg (fun x => (tget ClusterU.reset x c).region) (h .clusters hclusters)⟩

namespace SameService
variable {s t : State} (h : SameService s t)
include h

theorem trans {u : State} (h2 : SameService t u) : SameService s u :=
  ⟨h2.rel.trans h.rel, h2.topology.trans h.topology, fun c => (h2.region c).trans (h.region c)⟩

theorem clusterOut (c : Nat) : clusterOut t c = clusterOut s c := by
  simp only [Machine.clusterOut, dieOut, h.region, h.topology]

theorem arrFenced {a : Nat} (ha : arr t a = arr s a) : arrFenced t a = arrFenced s a := by
  simp only [Machine.arrFenced, coreFenced, ha, h.rel, h.clusterOut]

theorem arrRegState (c : Nat) : arrRegState t c = arrRegState s c := by
  simp only [Machine.arrRegState, h.region]

theorem idleActive {a : Nat} (ha : arr t a = arr s a) : idleActive t a = idleActive s a := by
  simp only [Safety.idleActive, h.arrFenced ha, h.arrRegState, ha]

end SameService

/-! ### The product boundary (R60 to R62) -/

/-- The array works, is ACTIVE and powered, and has no product in progress: a product boundary is reached. -/
structure AtBoundary (s : State) (a : Nat) : Prop where
  cur : (arr s a).cur = none
  live : bit (arr s a).state 17 = false
  active : arrMode (arr s a) = 0
  powered : regionOn (arrRegState s (clusterOfArray a)) = true

/-- Nothing waits for the product boundary of an array but what its due order brings. -/
structure NoneWaits (u : ArrU) : Prop where
  refresh : bit u.state 16 = false
  wantRefresh : u.wantRefresh = false
  wantCal : u.wantCal = false
  granted : u.granted = false

theorem idleActive_iff {s : State} {a : Nat} : idleActive s a = true
    ↔ arrFenced s a = false ∧ (arr s a).dueOrder = none ∧ arrMode (arr s a) = 0 ∧ (arr s a).cur = none
      ∧ regionOn (arrRegState s (clusterOfArray a)) = true ∧ NoneWaits (arr s a) := by
  simp only [idleActive, Bool.and_eq_true, Bool.not_eq_true', beq_iff_eq, Option.isNone_iff_eq_none]
  constructor
  · rintro ⟨⟨⟨⟨⟨⟨⟨⟨h1, h2⟩, h3⟩, h4⟩, h5⟩, h6⟩, h7⟩, h8⟩, h9⟩
    exact ⟨h1, h9, h2, h3, h4, h5, h6, h7, h8⟩
  · rintro ⟨h1, h9, h2, h3, h4, h5, h6, h7, h8⟩
    exact ⟨⟨⟨⟨⟨⟨⟨⟨h1, h2⟩, h3⟩, h4⟩, h5⟩, h6⟩, h7⟩, h8⟩, h9⟩

theorem live_of_inService {s : State} {a : Nat} (h : arrFenced s a = false) : bit (arr s a).state 17 = false :=
  (Bool.or_eq_false_iff.1 h).1

section
variable {s : State} {a : Nat}

theorem atBoundary_of_idle (h : idleActive s a = true) : AtBoundary s a := by
  obtain ⟨hfence, -, hmode, hcur, hpower, -⟩ := idleActive_iff.1 h
  exact ⟨hcur, live_of_inService hfence, hmode, hpower⟩

theorem boundary_waits (h : (arr s a).cur.isSome = true) : boundary a s = s := by
  simp only [boundary, h, Bool.true_or, if_true]

/-- At a product boundary held settings take effect, and then what waits first is entered. -/
theorem boundary_reached (h : AtBoundary s a) : boundary a s =
    let u := arr s a
    let t := modArr s a applyCfg
    let due := u.dueOrder.isSome && u.slotKept
    if bit u.state 16 then enterRefresh a u.refreshCause.toNat t
    else if u.wantRefresh then enterRefresh a 4 t
    else if u.wantCal then enterCal a 4 false t
    else if u.granted && !(due && u.yielded) then enterWriting a (modArr t a fun u => { u with
      yielded := u.yielded || due, slotKept := false, state := putBit u.state 14 (bit u.state 14 || u.dueOrder.isSome) })
    else if due then enterCal a u.pendCause.toNat true t else t := by
  have hregion : arrRegState (modArr s a applyCfg) (clusterOfArray a) = arrRegState s (clusterOfArray a) := rfl
  simp only [boundary, h.cur, h.live, h.active, hregion, h.powered, arr_modArr_same, applyCfg]
  rfl

theorem boundary_wantRefresh (h : AtBoundary s a) (hr : bit (arr s a).state 16 = false) (hw : (arr s a).wantRefresh = true) :
    boundary a s = enterRefresh a 4 (modArr s a applyCfg) := by
  simp only [boundary_reached h, hr, hw, Bool.false_eq_true, if_false, if_true]

theorem boundary_wantCal (h : AtBoundary s a) (hr : bit (arr s a).state 16 = false) (hw : (arr s a).wantRefresh = false)
    (hc : (arr s a).wantCal = true) : boundary a s = enterCal a 4 false (modArr s a applyCfg) := by
  simp only [boundary_reached h, hr, hw, hc, Bool.false_eq_true, if_false, if_true]

/-- A periodic trigger with a slot kept for it enters at the boundary. -/
theorem boundary_due (h : AtBoundary s a) (hn : NoneWaits (arr s a)) (hd : (arr s a).dueOrder.isSome = true)
    (hk : (arr s a).slotKept = true) : boundary a s = enterCal a (arr s a).pendCause.toNat true (modArr s a applyCfg) := by
  simp only [boundary_reached h, hn.refresh, hn.wantRefresh, hn.wantCal, hn.granted, hd, hk, Bool.false_eq_true, if_false,
    Bool.false_and, Bool.and_self, if_true]

theorem boundary_rest (h : AtBoundary s a) (hn : NoneWaits (arr s a)) (hd : (arr s a).dueOrder = none) :
    boundary a s = modArr s a applyCfg := by
  simp only [boundary_reached h, hn.refresh, hn.wantRefresh, hn.wantCal, hn.granted, hd, Bool.false_eq_true, if_false,
    Option.isSome_none, Bool.false_and]

end

/-! ### Entering a state (Table 2-9) -/

theorem passChannel_mon (s : State) : ∃ m, passChannel s = { s with mon := m } := by
  unfold passChannel
  split
  · exact ⟨_, rfl⟩
  · split <;> exact ⟨_, rfl⟩

theorem askChannel_mon (u : Nat) (s : State) : ∃ m, askChannel u s = { s with mon := m } := by
  obtain ⟨m, hm⟩ := passChannel_mon (modMon s fun m => { m with waiting := m.waiting ++ [u] })
  exact ⟨m, hm⟩

/-- A trace changes the monitor, and of its array the count of traces. -/
theorem startTrace_eq (a : Nat) (s : State) : ∃ m, startTrace a s = { s with mon := m }
    ∨ startTrace a s = modMon (modArr s a fun u => { u with traces := u.traces + 1 }) fun _ => m := by
  unfold startTrace
  dsimp only
  split
  · exact ⟨_, .inl rfl⟩
  · split
    · obtain ⟨m, hm⟩ := askChannel_mon (traceUser (dieOfArray a)) (modMon (modArr s a fun u => { u with traces := u.traces + 1 })
        fun m => { m with atp := tset 0 m.atp (dieOfArray a) (a + 1) })
      exact ⟨m, .inr hm⟩
    · exact ⟨_, .inl rfl⟩

theorem startTrace_touches (a : Nat) (s : State) : Touches [.mon] a s (startTrace a s) := by
  obtain ⟨m, h | h⟩ := startTrace_eq a s
  · rw [h]
    exact .of_only (only_of_withParts rfl) (by decide)
  · rw [h]
    exact (Touches.modArr _ a _ s).trans (.of_only (only_of_withParts rfl) (by decide))

theorem startTrace_arr (a : Nat) (s : State) : ∃ n, arr (startTrace a s) a = { arr s a with traces := n } := by
  obtain ⟨m, h | h⟩ := startTrace_eq a s
  · exact ⟨(arr s a).traces, by rw [h]; rfl⟩
  · exact ⟨(arr s a).traces + 1, by rw [h]; exact arr_modArr_same s a fun u => { u with traces := u.traces + 1 }⟩

/-- The converter that a spare in use stands for in the unit history: that of the column it serves, or its own. -/
def spareUnit (u : ArrU) (i : Nat) : Nat := if spareField u i = 0xFFFE then 528 + i else spareField u i

/-- One spare of `returnConverters`: it is free again unless a permanent converter keeps it. -/
def returnConverter (a : Nat) (s : State) (i : Nat) : State :=
  if spareField (arr s a) i = 0xFFFF || isPermanent s 3#4 (converterUnit a (spareUnit (arr s a) i)) then s
  else modArr s a fun u => { u with
    spareMap := setFld u.spareMap (spareHi i) (16 * i) 0xFFFF
    state := setFld u.state 19 18 (fld u.state 19 18 - 1) }

theorem returnConverters_eq (a : Nat) (s : State) : returnConverters a s = returnConverter a (returnConverter a s 0) 1 := rfl

theorem returnConverter_touches (a : Nat) (s : State) (i : Nat) : Touches [] a s (returnConverter a s i) := by
  unfold returnConverter
  split
  · exact .refl ..
  · exact .modArr ..

theorem returnConverters_touches (a : Nat) (s : State) : Touches [] a s (returnConverters a s) :=
  (returnConverter_touches a s 0).trans (returnConverter_touches a _ 1)

/-- The array but for its spares, their count, and its count of traces. -/
structure ApartFromSpares (u v : ArrU) : Prop where
  fields : v = { u with spareMap := v.spareMap, state := v.state, traces := v.traces }
  state : ∀ hi lo, hi < 18 → fld v.state hi lo = fld u.state hi lo

theorem ApartFromSpares.refl (u : ArrU) : ApartFromSpares u u := ⟨rfl, fun _ _ _ => rfl⟩

theorem ApartFromSpares.trans {u v w : ArrU} (h : ApartFromSpares u v) (h2 : ApartFromSpares v w) : ApartFromSpares u w := by
  refine ⟨?_, fun hi lo hh => (h2.state hi lo hh).trans (h.state hi lo hh)⟩
  rw [h2.fields, h.fields]

theorem returnConverter_arr (a : Nat) (s : State) (i : Nat) : ApartFromSpares (arr s a) (arr (returnConverter a s i) a) := by
  unfold returnConverter
  split
  · exact .refl _
  · rw [arr_modArr_same]
    exact ⟨rfl, fun hi lo h => fld_setFld_ne _ _ (by omega)⟩

theorem startTrace_apart (a : Nat) (s : State) : ApartFromSpares (arr s a) (arr (startTrace a s) a) := by
  obtain ⟨n, hn⟩ := startTrace_arr a s
  rw [hn]
  exact ⟨rfl, fun _ _ _ => rfl⟩

/-- What `enterCal` writes before the converters return and the trace starts. -/
def calEntry (s : State) (a cause : Nat) (periodic : Bool) (u : ArrU) : ArrU :=
  setMode 2 cause { applyTrims u with
    state := clrBit u.state 14, dueOrder := none, slotKept := false, yielded := false, wantCal := false, reads := 0#32
    cal := some ⟨periodic, BitVec.ofNat 16 (clus s (clusterOfArray a)).ctiScale.toNat, (clus s (clusterOfArray a)).tj⟩ }

theorem enterCal_eq (a cause : Nat) (periodic : Bool) (s : State) : enterCal a cause periodic s
    = startTrace a (returnConverters a (modArr s a (calEntry s a cause periodic))) := rfl

theorem enterCal_touches (a cause : Nat) (periodic : Bool) (s : State) : Touches [.mon] a s (enterCal a cause periodic s) :=
  ((Touches.modArr [.mon] a _ s).trans ((returnConverters_touches a _).mono (by simp))).trans (startTrace_touches a _)

theorem enterCal_arr (a cause : Nat) (periodic : Bool) (s : State) :
    ApartFromSpares (calEntry s a cause periodic (arr s a)) (arr (enterCal a cause periodic s) a) := by
  rw [enterCal_eq, ← arr_modArr_same s a (calEntry s a cause periodic)]
  exact ((returnConverter_arr a _ 0).trans (returnConverter_arr a _ 1)).trans (startTrace_apart a _)

/-- v is u as it calibrates for a cause: the counts of R63 start again, and nothing of u's products or image has changed. -/
structure CalBegun (cause : Nat) (u v : ArrU) : Prop where
  mode : arrMode v = 2
  cause : fld v.state 13 11 = cause % 8
  cal : v.cal.isSome = true
  reads : v.reads = 0#32
  image : v.image = u.image
  err : v.err = u.err
  evcnt : v.evcnt = u.evcnt
  cur : v.cur = u.cur
  failed : v.failed = u.failed
  flight : v.flight = u.flight
  queue : v.queue = u.queue

theorem enterCal_begun (a cause : Nat) (periodic : Bool) (s : State) :
    CalBegun cause (arr s a) (arr (enterCal a cause periodic s) a) := by
  obtain ⟨hfields, hstate⟩ := enterCal_arr a cause periodic s
  rw [hfields]
  refine ⟨?mode, ?cause, rfl, rfl, rfl, rfl, rfl, rfl, rfl, rfl, rfl⟩
  case mode =>
    refine (hstate 1 0 (by decide)).trans ?_
    exact (fld_setFld_ne _ _ (by decide)).trans (fld_setFld_same _ 2 (by decide) (by decide))
  case cause => exact (hstate 13 11 (by decide)).trans (fld_setFld_same _ cause (by decide) (by decide))

theorem enterRefresh_touches (a cause : Nat) (s : State) : Touches [] a s (enterRefresh a cause s) := .modArr ..

theorem enterRefresh_mode (a cause : Nat) (s : State) : arrMode (arr (enterRefresh a cause s) a) = 3 := by
  rw [enterRefresh, arr_modArr_same]
  exact (fld_setFld_ne _ _ (by decide)).trans (fld_setFld_same _ 3 (by decide) (by decide))

theorem enterRefresh_cause (a cause : Nat) (s : State) : fld (arr (enterRefresh a cause s) a).state 13 11 = cause % 8 := by
  rw [enterRefresh, arr_modArr_same]
  exact fld_setFld_same _ cause (by decide) (by decide)

theorem enterWriting_touches (a : Nat) (s : State) : Touches [] a s (enterWriting a s) := .modArr ..

theorem boundary_touches (a : Nat) (s : State) : Touches [.mon] a s (boundary a s) := by
  have happly : Touches [.mon] a s (modArr s a applyCfg) := .modArr ..
  unfold boundary
  dsimp only
  split
  · exact .refl ..
  split
  · exact happly
  split
  · exact happly.trans ((enterRefresh_touches ..).mono (by simp))
  split
  · exact happly.trans ((enterRefresh_touches ..).mono (by simp))
  split
  · exact happly.trans (enterCal_touches ..)
  split
  · exact (happly.trans (.modArr ..)).trans ((enterWriting_touches ..).mono (by simp))
  split
  · exact happly.trans (enterCal_touches ..)
  · exact happly

end Sys2Proof.Laws

/-! PROOFS. Reports and fences: what an entry of the logbook, an error bit with its interrupt, and the fence of an array leave
(R64, R290, R292). -/

namespace Sys2Proof.Laws
open Sys2Proof.Machine Sys2Proof.Safety

/-! ### Reports -/

/-- The parts that a report can change. -/
abbrev reportParts : List Part := [.sec, .host, .out]

/-- From s to t something was reported: the events, the permanent units and the commands in flight are the same. -/
structure Reports (s t : State) : Prop where
  only : Only reportParts s t
  events : t.sec.events = s.sec.events
  permanent : t.sec.permanent = s.sec.permanent
  timeBase : t.sec.timeBase = s.sec.timeBase
  running : t.host.running = s.host.running
  rel : t.rel = s.rel

theorem Reports.refl (s : State) : Reports s s := ⟨only_refl _ s, rfl, rfl, rfl, rfl, rfl⟩

theorem Reports.trans {s t u : State} (h : Reports s t) (h2 : Reports t u) : Reports s u :=
  ⟨only_trans h.only h2.only, h2.events.trans h.events, h2.permanent.trans h.permanent, h2.timeBase.trans h.timeBase,
    h2.running.trans h.running, h2.rel.trans h.rel⟩

theorem raise_reports (v : Nat) (s : State) : Reports s (raise v s) := by
  unfold raise
  dsimp only
  split <;> exact ⟨only_of_withParts rfl, rfl, rfl, rfl, rfl, rfl⟩

theorem relErr_reports (i : Nat) (s : State) : Reports (modRel s fun r => { r with err := setBit r.err i }) (relErr i s) := by
  unfold relErr
  dsimp only
  split
  · exact raise_reports 3 _
  · exact .refl _

theorem relErr_rel (i : Nat) (s : State) : (relErr i s).rel = { s.rel with err := setBit s.rel.err i } :=
  (relErr_reports i s).rel

theorem modSec_reports {f : SecU → SecU} (he : ∀ x, (f x).events = x.events) (hp : ∀ x, (f x).permanent = x.permanent)
    (ht : ∀ x, (f x).timeBase = x.timeBase) (s : State) : Reports s (modSec s f) :=
  ⟨only_of_withParts rfl, he _, hp _, ht _, rfl, rfl⟩

theorem logRefresh_reports (s : State) : Reports s (logRefresh s) := by
  refine modSec_reports ?_ ?_ ?_ s <;> exact fun _ => rfl

theorem logAdd_reports (kind : Byte) (payload : List Byte) (s : State) : Reports s (logAdd kind payload s) := by
  unfold logAdd logAddFor
  dsimp only
  split
  · exact .refl s
  · split
    · refine .trans (modSec_reports ?_ ?_ ?_ s) (logRefresh_reports _) <;> exact fun _ => rfl
    · refine .trans (modSec_reports ?_ ?_ ?_ s) (raise_reports 6 _) <;> exact fun _ => rfl

theorem Reports.arr {s t : State} (h : Reports s t) (a : Nat) : arr t a = arr s a :=
  congrArg (tget ArrU.reset · a) (h.only .arrays (by decide))

theorem Reports.logTime {s t : State} (h : Reports s t) : logTime t = logTime s := by
  rw [Machine.logTime, h.only .pwr (by decide), h.timeBase, Machine.logTime]

/-! ### The unit history (R290) -/

theorem addEvent_reports (kind : BitVec 4) (unit : Nat) (s : State) : Reports
    (modSec s fun x => { x with events := x.events ++ [(kind, unit, logTime s)] }) (addEvent kind unit s) := logAdd_reports _ _ _

theorem isPermanent_iff {s : State} {kind : BitVec 4} {unit : Nat} :
    isPermanent s kind unit = true ↔ (kind, unit) ∈ s.sec.permanent := List.contains_iff_mem

theorem addEvent_only (kind : BitVec 4) (unit : Nat) (s : State) : Only reportParts s (addEvent kind unit s) :=
  only_trans (only_of_withParts rfl) (addEvent_reports kind unit s).only

/-- A unit made permanent joins those that are, where it is not one of them. -/
theorem setPermanent_reports {s : State} {kind : BitVec 4} {unit : Nat} (h : isPermanent s kind unit = false) : Reports
    (modSec s fun x => { x with permanent := x.permanent ++ [(kind, unit)] }) (setPermanent kind unit s) := by
  unfold setPermanent
  rw [if_neg (by simp [h])]
  exact logAdd_reports _ _ _

theorem setPermanent_only (kind : BitVec 4) (unit : Nat) (s : State) : Only reportParts s (setPermanent kind unit s) := by
  by_cases h : isPermanent s kind unit = true
  · rw [setPermanent, if_pos h]
    exact only_refl _ s
  · exact only_trans (only_of_withParts rfl) (setPermanent_reports (Bool.eq_false_iff.2 h)).only

theorem setPermanent_running (kind : BitVec 4) (unit : Nat) (s : State) :
    (setPermanent kind unit s).host.running = s.host.running := by
  by_cases h : isPermanent s kind unit = true
  · rw [setPermanent, if_pos h]
  · exact (setPermanent_reports (Bool.eq_false_iff.2 h)).running

theorem isPermanent_setPermanent (kind : BitVec 4) (unit : Nat) (s : State) :
    isPermanent (setPermanent kind unit s) kind unit = true := by
  by_cases h : isPermanent s kind unit = true
  · rwa [setPermanent, if_pos h]
  · rw [isPermanent_iff, (setPermanent_reports (Bool.eq_false_iff.2 h)).permanent]
    exact List.mem_append_right _ (List.mem_singleton_self _)

/-! ### The fence of an array (R64, R292) -/

/-- A write that stops leaves the products, the spares and the error bits of its array alone. -/
structure WriteAside (u v : ArrU) : Prop where
  cur : v.cur = u.cur
  err : v.err = u.err
  spareMap : v.spareMap = u.spareMap

theorem notePulses_wear (k r : Nat) (w : WriteOp) (u : ArrU) :
    ∃ p g x, (notePulses k r w u).2 = { u with pulses := p, groups := g, wrstat := x } := by
  unfold notePulses
  dsimp only
  split
  · exact ⟨_, _, _, rfl⟩
  · split <;> exact ⟨_, _, _, rfl⟩

theorem notePulses_aside (k r : Nat) (w : WriteOp) (u : ArrU) : WriteAside u (notePulses k r w u).2 := by
  obtain ⟨p, g, x, h⟩ := notePulses_wear k r w u
  rw [h]
  exact ⟨rfl, rfl, rfl⟩

theorem WriteAside.trans {u v w : ArrU} (h : WriteAside u v) (h2 : WriteAside v w) : WriteAside u w :=
  ⟨h2.cur.trans h.cur, h2.err.trans h.err, h2.spareMap.trans h.spareMap⟩

theorem loseImage_aside (u : ArrU) : WriteAside u (loseImage u) := by
  unfold loseImage
  generalize clrBit u.wrstat 0 = x
  exact ⟨rfl, rfl, rfl⟩

theorem stoppedCounts_aside (w : WriteOp) (time : Nat) (u : ArrU) : WriteAside u (stoppedCounts w time u) := by
  unfold stoppedCounts
  generalize setFld (setFld u.wrstat 23 16 _) 3 2 3 = x
  exact ⟨rfl, rfl, rfl⟩

theorem stopWrite_aside (time : Nat) (u : ArrU) : WriteAside u (stopWrite time u) := by
  have hstop (w : WriteOp) (image : List (Nat × Nat)) (v : ArrU) : WriteAside v (loseImage (stoppedCounts w time { v with
      image := image, write := none, request := none, granted := false, wrerr := setBit v.wrerr 2 })) := by
    generalize setBit v.wrerr 2 = x
    refine .trans (.trans ?_ (stoppedCounts_aside _ _ _)) (loseImage_aside _)
    exact ⟨rfl, rfl, rfl⟩
  unfold stopWrite
  split
  case h_1 => exact ⟨rfl, rfl, rfl⟩
  case h_2 w hw =>
    cases hrow : w.row with
    | none => exact hstop _ _ _
    | some r =>
      by_cases hended : w.rowEnded = true
      · simp only [hended, if_true]
        exact hstop _ _ _
      · simp only [hended, Bool.false_eq_true, if_false]
        exact (notePulses_aside _ _ _ _).trans (hstop _ _ _)

theorem restartProduct_cur (u : ArrU) : (restartProduct u).cur = none := by
  unfold restartProduct
  split
  · rfl
  · assumption

/-- A fenced array: FENCED and FENCE_EVENT are set, and the product in progress and its write are gone. -/
def fencedUnit (time : Nat) (u : ArrU) : ArrU :=
  let v := stopWrite time (restartProduct u)
  { v with state := setBit v.state 17, err := setBit v.err 7, cal := none, retest := false, slotKept := false }

theorem fencedUnit_cur (time : Nat) (u : ArrU) : (fencedUnit time u).cur = none := by
  obtain ⟨x, y, h⟩ : ∃ x y, fencedUnit time u = { stopWrite time (restartProduct u) with
      state := x, err := y, cal := none, retest := false, slotKept := false } := ⟨_, _, rfl⟩
  rw [h, ← restartProduct_cur u]
  exact (stopWrite_aside time (restartProduct u)).cur

theorem fenceArrayUnit_touches (a : Nat) (s : State) : Touches [.counters] a s (fenceArrayUnit a s) :=
  Touches.trans (.of_only (ps := [.counters]) (only_of_withParts rfl) (by decide)) (.modArr _ a _ (drawFree s).2)

theorem fenceArrayUnit_arr (a : Nat) (s : State) : arr (fenceArrayUnit a s) a = fencedUnit (drawFree s).1 (arr s a) :=
  arr_modArr_same (drawFree s).2 a (fencedUnit (drawFree s).1)

/-! No command waits: what tells a waiting command of an array's work does nothing. -/

section
variable {s : State} (h : s.host.running = [])
include h

theorem arrayDone_idle (a : Nat) (d : ArrDone) : arrayDone a d s = s := by
  unfold arrayDone
  simp only [h, List.map_nil, List.filter_nil, List.foldl_nil, modHost]
  rw [← h]

theorem arrayWriteDone_idle (a rows stuck fenced status : Nat) : arrayWriteDone a rows stuck fenced status s = s := by
  simp only [arrayWriteDone, h, List.filter_nil, List.foldl_nil]

theorem retestDone_idle (kind : BitVec 4) (unit : Nat) (ok : Bool) : retestDone kind unit ok s = s := by
  unfold retestDone
  simp only [h, List.filter_nil, List.foldl_nil, modHost]
  rw [← h]

theorem sweepDestroy_idle : sweepDestroy s = s := by
  simp only [sweepDestroy, h, List.foldl_nil]

theorem calWaiters_idle (a : Nat) : calWaiters a s = s := by
  unfold calWaiters
  split
  · rfl
  · rw [h, List.foldl_nil]

end

theorem launchesOnArray_none {s : State} (h : s.launches = []) (a : Nat) : launchesOnArray s a = [] := by
  rw [launchesOnArray, h, List.filter_nil, List.map_nil]

theorem countUnits_only (s : State) : Only [.ident] s (countUnits s) := by
  unfold countUnits
  split
  · exact only_of_withParts rfl
  · exact only_refl _ s

/-- The fence of an array before its launches are recalled. -/
def fenceReported (a : Nat) (s : State) : State := countUnits (relErr 12 (setPermanent 2#4 a (fenceArrayUnit a s)))

theorem fenceReported_touches (a : Nat) (s : State) :
    Touches (.counters :: .ident :: .rel :: reportParts) a s (fenceReported a s) := by
  have hunit : Touches (.counters :: .ident :: .rel :: reportParts) a s (fenceArrayUnit a s) :=
    (fenceArrayUnit_touches a s).mono (by simp)
  have hperm : Only reportParts (fenceArrayUnit a s) (setPermanent 2#4 a (fenceArrayUnit a s)) := setPermanent_only _ _ _
  have herr : Only (.rel :: reportParts) (setPermanent 2#4 a (fenceArrayUnit a s))
      (relErr 12 (setPermanent 2#4 a (fenceArrayUnit a s))) :=
    only_trans (only_of_withParts rfl) (only_mono (relErr_reports 12 _).only (by simp))
  exact hunit.trans (.of_only (only_trans (only_trans (only_mono hperm (by simp)) (only_mono herr (by simp)))
    (only_mono (countUnits_only _) (by simp))) (by decide))

theorem countUnits_host (s : State) : (countUnits s).host = s.host := countUnits_only s .host (by decide)

theorem fenceReported_running (a : Nat) (s : State) : (fenceReported a s).host.running = s.host.running := by
  have hunit : (fenceArrayUnit a s).host = s.host := (fenceArrayUnit_touches a s).only .host (by decide)
  rw [fenceReported, countUnits_host, (relErr_reports 12 _).running, modRel_host, setPermanent_running, hunit]

theorem fenceReported_arr (a : Nat) (s : State) : arr (fenceReported a s) a = fencedUnit (drawFree s).1 (arr s a) := by
  have hcount : ∀ t, arr (countUnits t) a = arr t a := fun t =>
    congrArg (tget ArrU.reset · a) (countUnits_only t .arrays (by decide))
  have hperm : ∀ t, arr (setPermanent 2#4 a t) a = arr t a := fun t =>
    congrArg (tget ArrU.reset · a) (setPermanent_only 2#4 a t .arrays (by decide))
  have hrel : ∀ t, arr (relErr 12 t) a = arr t a := fun t => (relErr_reports 12 t).arr a
  rw [fenceReported, hcount, hrel, hperm, fenceArrayUnit_arr]

theorem fenceReported_rel (a : Nat) (s : State) : bit (fenceReported a s).rel.err 12 = true := by
  rw [fenceReported, countUnits_only _ .rel (by decide), relErr_rel]
  exact bit_setBit (i := 12) _ (by decide : 12 < 32)

theorem fenceReported_permanent (a : Nat) (s : State) : isPermanent (fenceReported a s) 2#4 a = true := by
  rw [isPermanent_iff, fenceReported, countUnits_only _ .sec (by decide), (relErr_reports 12 _).permanent, modRel_sec, ← isPermanent_iff]
  exact isPermanent_setPermanent 2#4 a _

/-- With no command in flight, the launches with work on the array are recalled once its fence is reported. -/
theorem fenceArray_idle {s : State} {a : Nat} (hlive : bit (arr s a).state 17 = false) (hrun : s.host.running = []) :
    fenceArray a s = sweepDestroy (calWaiters a
      ((launchesOnArray (fenceReported a s) a).foldl (fun s u => recallDetected u s) (fenceReported a s))) := by
  have hrunning : (fenceReported a s).host.running = [] := (fenceReported_running a s).trans hrun
  unfold fenceArray
  rw [if_neg (by simp [hlive])]
  show sweepDestroy (calWaiters a ((launchesOnArray (retestDone 2#4 a false (arrayWriteDone a _ 0 1 0
    (arrayDone a _ (fenceReported a s)))) a).foldl _ (retestDone 2#4 a false (arrayWriteDone a _ 0 1 0
    (arrayDone a _ (fenceReported a s)))))) = _
  rw [arrayDone_idle hrunning, arrayWriteDone_idle hrunning, retestDone_idle hrunning]

/-- With no command and no launch in flight, a fence ends with its report. -/
theorem fenceArray_quiet {s : State} {a : Nat} (hlive : bit (arr s a).state 17 = false) (hrun : s.host.running = [])
    (hlaunch : s.launches = []) : fenceArray a s = fenceReported a s := by
  have hrunning : (fenceReported a s).host.running = [] := (fenceReported_running a s).trans hrun
  have hlaunches : (fenceReported a s).launches = [] :=
    ((fenceReported_touches a s).only .launches (by decide)).trans hlaunch
  rw [fenceArray_idle hlive hrun, launchesOnArray_none hlaunches, List.foldl_nil, calWaiters_idle hrunning,
    sweepDestroy_idle hrunning]

/-- An array fenced and reported: FENCED and FENCE_EVENT read 1, no product is in progress, and the unit is permanent. -/
theorem fenceReported_fenced (a : Nat) (s : State) : bit (arr (fenceReported a s) a).state 17 = true
    ∧ bit (arr (fenceReported a s) a).err 7 = true ∧ (arr (fenceReported a s) a).cur = none := by
  rw [fenceReported_arr]
  exact ⟨bit_setBit (i := 17) _ (by decide : 17 < 32), bit_setBit (i := 7) _ (by decide : 7 < 32),
    fencedUnit_cur _ _⟩

end Sys2Proof.Laws

/-! PROOFS. The array commands of the host: ARRAY_WRITE, ARRAY_CALIBRATE, ARRAY_REFRESH and ARRAY_FENCE (Table 11-9). -/

namespace Sys2Proof.Laws
open Sys2Proof.Machine Sys2Proof.Safety

/-! ### The taken packet -/

theorem took_only (c : Instr) (s : State) : Only [.host, .sec] s (took c s) := by
  unfold took
  split
  · exact only_of_withParts rfl
  · exact only_refl _ s

theorem took_arr (c : Instr) (s : State) (a : Nat) : arr (took c s) a = arr s a :=
  congrArg (tget ArrU.reset · a) (took_only c s .arrays (by decide))

theorem took_sameService (c : Instr) (s : State) : SameService s (took c s) :=
  .of_only (took_only c s) (by decide) (by decide) (by decide)

theorem took_arrFenced (c : Instr) (s : State) (a : Nat) : arrFenced (took c s) a = arrFenced s a :=
  (took_sameService c s).arrFenced (took_arr c s a)

/-- Taking a packet leaves the commands in flight where they are. -/
theorem took_inFlight (c : Instr) (s : State) : (took c s).host.taken = s.host.taken
    ∧ (took c s).host.running = s.host.running ∧ (took c s).host.replied = s.host.replied := by
  unfold took
  split <;> exact ⟨rfl, rfl, rfl⟩

theorem working_only (p : Packet) (task : Task) (s : State) : Only [.host] s (working p task s) := only_of_withParts rfl

/-- A packet taken that runs on, its arrays worked one after the other. -/
theorem runs_foldl {c : Instr} {p : Packet} {task : Task} {ps : List Part} {f : State → Nat → State} (s : State)
    (hf : ∀ s b, Touches ps b s (f s b)) (hp : .host ∉ ps) (l : List Nat) :
    Runs s (l.foldl f (working p task (took c s))) p task := by
  obtain ⟨htaken, hrunning, hreplied⟩ := took_inFlight c s
  have hhost : (l.foldl f (working p task (took c s))).host = (working p task (took c s)).host :=
    foldl_only hf l _ .host (by simp [hp])
  refine ⟨?_, ?_, ?_⟩
  · rw [hhost]
    exact htaken
  · rw [hhost]
    exact hreplied
  · rw [hhost, ← hrunning]
    exact .refl _

/-! ### ARRAY_WRITE -/

theorem exec_arrayWrite {h : Hdr} {what : Word} {s : State} {l : Layer} (hl : legal (.arrayWrite h what) s = true)
    (hr : layerRec s h.ctx (fld what 11 0) = some l) :
    let c := Instr.arrayWrite h what
    let live := (lArrays l).filter fun a => !arrFenced s a
    exec c s = .next (if live.isEmpty then answered (pktOf c s) 0x60 [0, 0, w32 (lCount l - live.length)] (took c s)
      else live.foldl (fun s a => modArr s a (askWrite (!bit what 16)))
        (working (pktOf c s) (.arrayWrite live 0 0 (lCount l - live.length) 0) (took c s))) := by
  intro c live
  have hrec : layerRec (took c s) (pktOf c s).hdr.ctx (fld (pw (pktOf c s) 0) 11 0) = some l := hr
  rw [exec_legal hl]
  show Host.Outcome.next (performArrayWrite (pktOf c s) (took c s)) = _
  simp only [performArrayWrite, hrec, took_arrFenced]
  rfl

theorem lArrays_nodup (l : Layer) : (lArrays l).Nodup := by
  unfold lArrays
  exact List.nodup_range.map (add_right_injective _)

theorem arrayWrite_complete {h : Hdr} {what : Word} {s : State} {l : Layer} (hl : legal (.arrayWrite h what) s = true)
    (hr : layerRec s h.ctx (fld what 11 0) = some l) :
    let c := Instr.arrayWrite h what
    let live := (lArrays l).filter fun a => !arrFenced s a
    live ≠ [] → ∃ t, exec c s = .next t ∧ Runs s t (pktOf c s) (.arrayWrite live 0 0 (lCount l - live.length) 0)
      ∧ (∀ a, arr t a = if a ∈ live then askWrite (!bit what 16) (arr s a) else arr s a)
      ∧ Only [.host, .sec, .arrays] s t := by
  intro c live hne
  let f : State → Nat → State := fun s a => modArr s a (askWrite (!bit what 16))
  have hf : ∀ s b, Touches [] b s (f s b) := fun s b => .modArr ..
  have hnodup : live.Nodup := (lArrays_nodup l).filter _
  let start := working (pktOf c s) (.arrayWrite live 0 0 (lCount l - live.length) 0) (took c s)
  have hexec := exec_arrayWrite hl hr
  dsimp only at hexec
  rw [if_neg (mt List.isEmpty_iff.1 hne)] at hexec
  refine ⟨live.foldl f start, hexec, runs_foldl s hf (by simp) live, fun a => ?arrays, ?only⟩
  case arrays =>
    have hstart : arr start a = arr s a := took_arr c s a
    by_cases ha : a ∈ live
    · obtain ⟨t, -, ht, hend⟩ := foldl_arr_of_mem hf hnodup ha start
      rw [if_pos ha, hend, arr_modArr_same, ht, hstart]
    · rw [if_neg ha, foldl_arr_of_notMem hf ha, hstart]
  case only =>
    exact only_trans (only_trans (only_mono (took_only c s) (by simp)) (only_mono (working_only _ _ _) (by simp)))
      (only_mono (foldl_only hf live start) (by simp))

/-! ### ARRAY_CALIBRATE and ARRAY_REFRESH -/

theorem AtBoundary.modArr {s : State} {a : Nat} (h : AtBoundary s a) {f : ArrU → ArrU} (hcur : (f (arr s a)).cur = (arr s a).cur)
    (hlive : bit (f (arr s a)).state 17 = bit (arr s a).state 17) (hmode : arrMode (f (arr s a)) = arrMode (arr s a)) :
    AtBoundary (modArr s a f) a := by
  refine ⟨?_, ?_, ?_, h.powered⟩
  · rw [arr_modArr_same, hcur, h.cur]
  · rw [arr_modArr_same, hlive, h.live]
  · rw [arr_modArr_same, hmode, h.active]

theorem commandCal_touches (s : State) (a : Nat) : Touches [.mon] a s (commandCal a s) := by
  unfold commandCal
  dsimp only
  split
  · exact .refl ..
  split
  · exact (Touches.modArr _ a _ s).trans (boundary_touches ..)
  split
  · exact .refl ..
  · exact .modArr ..

theorem commandRefresh_touches (s : State) (a : Nat) : Touches [.mon] a s (commandRefresh a s) := by
  unfold commandRefresh
  dsimp only
  split
  · exact .refl ..
  split
  · exact (Touches.modArr _ a _ s).trans (boundary_touches ..)
  split
  · exact .refl ..
  · exact .modArr ..

theorem commandCal_idle {s : State} {a : Nat} (h : idleActive s a = true) :
    arrMode (arr (commandCal a s) a) = 2 ∧ fld (arr (commandCal a s) a).state 13 11 = 4 := by
  obtain ⟨-, -, hmode, -, -, hwaits⟩ := idleActive_iff.1 h
  have hat : AtBoundary s a := atBoundary_of_idle h
  have hnext : AtBoundary (modArr s a fun u => { u with wantCal := true }) a := hat.modArr rfl rfl rfl
  have henter : commandCal a s = enterCal a 4 false (modArr (modArr s a fun u => { u with wantCal := true }) a applyCfg) := by
    rw [← boundary_wantCal hnext (by rw [arr_modArr_same]; exact hwaits.refresh) (by rw [arr_modArr_same]; exact hwaits.wantRefresh)
      (by rw [arr_modArr_same])]
    simp only [commandCal, hat.live, hmode, Bool.false_or, decide_eq_true_eq, OfNat.zero_ne_ofNat, if_false, if_true]
  rw [henter]
  exact ⟨(enterCal_begun ..).mode, (enterCal_begun ..).cause⟩

theorem commandRefresh_idle {s : State} {a : Nat} (h : idleActive s a = true) :
    arrMode (arr (commandRefresh a s) a) = 3 ∧ fld (arr (commandRefresh a s) a).state 13 11 = 4 := by
  obtain ⟨-, -, hmode, -, -, hwaits⟩ := idleActive_iff.1 h
  have hat : AtBoundary s a := atBoundary_of_idle h
  have hnext : AtBoundary (modArr s a fun u => { u with wantRefresh := true }) a := hat.modArr rfl rfl rfl
  have henter : commandRefresh a s
      = enterRefresh a 4 (modArr (modArr s a fun u => { u with wantRefresh := true }) a applyCfg) := by
    rw [← boundary_wantRefresh hnext (by rw [arr_modArr_same]; exact hwaits.refresh) (by rw [arr_modArr_same])]
    simp only [commandRefresh, hat.live, hmode, Bool.false_eq_true, if_false, if_true]
  rw [henter]
  exact ⟨enterRefresh_mode .., enterRefresh_cause ..⟩

/-- The arrays that a command's FIRST and COUNT name. -/
abbrev arraysFrom (first count : Word) : List Nat := (List.range count.toNat).map (first.toNat + ·)

theorem arraysFrom_nodup (first count : Word) : (arraysFrom first count).Nodup :=
  List.nodup_range.map (add_right_injective _)

section
variable {c : Instr} {s : State} {first count : Word} {ask : Nat → State → State} (hask : ∀ s b, Touches [.mon] b s (ask b s))
  (hexec : exec c s = .next (careFor (pktOf c s) ask (took c s))) (hrange : rangeArrays (pktOf c s) = arraysFrom first count)
  (hcount : pn (pktOf c s) 1 = count.toNat)
include hexec hrange hcount

/-- No array of the range is in service: the command is answered at once. -/
theorem careFor_none (hmuted : (pktOf c s).muted = false) (hlive : ((arraysFrom first count).filter fun a => !arrFenced s a) = []) :
    exec c s = .next (answered (pktOf c s) (if count = 0 then 0 else 0x60) [0, count, 0] (took c s)) := by
  have hzero : count.toNat = 0 ↔ count = 0 := BitVec.toNat_inj (y := 0#32)
  have hword : w32 count.toNat = count := (BitVec.ofNat_toNat 32 count).trans (BitVec.setWidth_eq count)
  rw [hexec]
  simp only [careFor, hrange, hcount, took_arrFenced, hlive, List.isEmpty_nil, if_true, List.length_nil, Nat.sub_zero,
    finish_eq hmuted, hzero, hword]
  rfl

include hask

/-- The arrays of the range in service are asked in turn, each as it was, and the command runs on. -/
theorem careFor_runs {mode : Nat} (hidle : ∀ s a, idleActive s a = true →
      arrMode (arr (ask a s) a) = mode ∧ fld (arr (ask a s) a).state 13 11 = 4)
    (hlive : ((arraysFrom first count).filter fun a => !arrFenced s a) ≠ []) :
    let live := (arraysFrom first count).filter fun a => !arrFenced s a
    ∃ t, exec c s = .next t ∧ Runs s t (pktOf c s) (.arrayCal live 0 (count.toNat - live.length) 0)
      ∧ (∀ a, a ∈ arraysFrom first count → idleActive s a = true → arrMode (arr t a) = mode ∧ fld (arr t a).state 13 11 = 4)
      ∧ (∀ b, b ∉ arraysFrom first count → arr t b = arr s b) ∧ Only [.host, .sec, .arrays, .mon] s t := by
  intro live
  let f : State → Nat → State := fun s a => ask a s
  have hf : ∀ s b, Touches [.mon] b s (f s b) := hask
  let start := working (pktOf c s) (.arrayCal live 0 (count.toNat - live.length) 0) (took c s)
  have hstart : Only [.host, .sec] s start := only_trans (took_only c s) (only_mono (working_only _ _ _) (by simp))
  refine ⟨live.foldl f start, ?exec, runs_foldl s hf (by decide) live, fun a ha hi => ?idle, fun b hb => ?others, ?only⟩
  case exec =>
    rw [hexec]
    simp only [careFor, hrange, hcount, took_arrFenced]
    rw [if_neg (mt List.isEmpty_iff.1 hlive)]
    rfl
  case idle =>
    have hmem : a ∈ live := List.mem_filter.2 ⟨ha, by rw [(idleActive_iff.1 hi).1]; rfl⟩
    obtain ⟨t, hto, hta, hend⟩ := foldl_arr_of_mem hf ((arraysFrom_nodup first count).filter _) hmem start
    have harr : arr t a = arr s a := hta.trans (took_arr c s a)
    have hservice : SameService s t := .of_only (ps := [.host, .sec, .arrays, .mon])
      (only_trans (only_mono hstart (by simp)) (only_mono hto (by simp))) (by decide) (by decide) (by decide)
    rw [hend]
    exact hidle t a ((hservice.idleActive harr).trans hi)
  case others =>
    exact (foldl_arr_of_notMem hf (fun h => hb (List.mem_filter.1 h).1) start).trans (took_arr c s b)
  case only => exact only_trans (only_mono hstart (by simp)) (only_mono (foldl_only hf live start) (by simp))

end

/-! ### ARRAY_FENCE -/

theorem exec_arrayFence {h : Hdr} {first count : Word} {s : State} (hl : legal (.arrayFence h first count) s = true) :
    let c := Instr.arrayFence h first count
    let todo := (arraysFrom first count).filter fun a => !bit (arr s a).state 17
    exec c s = .next (finish (pktOf c s) 0 [w32 todo.length] (todo.foldl (fun s a => fenceArray a s) (took c s))) := by
  intro c todo
  have hrange : rangeArrays (pktOf c s) = arraysFrom first count := rfl
  rw [exec_legal hl]
  show Host.Outcome.next (performArrayFence (pktOf c s) (took c s)) = _
  simp only [performArrayFence, hrange, took_arr]
  rfl

/-- ARRAY_FENCE of one array with nothing in flight: it is fenced, reported and permanent, and the command answers 1. -/
theorem arrayFence_one {h : Hdr} {first : Word} {s : State} (hl : legal (.arrayFence h first 1) s = true)
    (hlive : bit (arr s first.toNat).state 17 = false) (hlaunch : s.launches = []) (hrun : s.host.running = []) :
    exec (.arrayFence h first 1) s = .next (answered (pktOf (.arrayFence h first 1) s) 0 [1]
      (fenceReported first.toNat (took (.arrayFence h first 1) s))) := by
  let c := Instr.arrayFence h first 1
  have htodo : ((arraysFrom first 1).filter fun a => !bit (arr s a).state 17) = [first.toNat] := by
    have hone : arraysFrom first 1 = [first.toNat] := rfl
    rw [hone, List.filter_singleton, hlive]
    rfl
  have hquiet : fenceArray first.toNat (took c s) = fenceReported first.toNat (took c s) :=
    fenceArray_quiet (by rw [took_arr]; exact hlive) ((took_inFlight c s).2.1.trans hrun)
      ((took_only c s .launches (by decide)).trans hlaunch)
  have hexec := exec_arrayFence hl
  dsimp only at hexec
  rw [hexec, htodo, List.foldl_cons, List.foldl_nil]
  exact congrArg (fun t => Host.Outcome.next (finish (pktOf c s) 0 [1] t)) hquiet

/-- Settles O15: each command's arrays are asked or fenced in turn, the taken packet apart. -/
theorem arrayCommandsComplete : Obligations.ArrayCommandsComplete := by
  unfold Obligations.ArrayCommandsComplete
  intro h s
  refine ⟨fun what l hl hr => ⟨arrayWrite_complete hl hr, fun hlive => ?writeNone⟩, fun first count => ?care, fun first hl hlive
    hlaunch hrun => ?fence, fun first count hl hall => ?fenced⟩
  case writeNone =>
    have hexec := exec_arrayWrite hl hr
    dsimp only at hexec
    rw [hlive] at hexec
    exact hexec
  case care =>
    refine ⟨fun hl hlive => ?_, fun hl hlive => ?_, fun hl hlive => ?_, fun hl hlive => ?_⟩
    · exact careFor_runs commandCal_touches (exec_legal hl) rfl rfl (fun _ _ => commandCal_idle) hlive
    · exact careFor_runs commandRefresh_touches (exec_legal hl) rfl rfl (fun _ _ => commandRefresh_idle) hlive
    · exact careFor_none (ask := commandCal) (exec_legal hl) rfl rfl rfl hlive
    · exact careFor_none (ask := commandRefresh) (exec_legal hl) rfl rfl rfl hlive
  case fence =>
    let t := took (.arrayFence h first 1) s
    obtain ⟨hstate, herr, hcur⟩ := fenceReported_fenced first.toNat t
    have htouch := fenceReported_touches first.toNat t
    refine ⟨_, arrayFence_one hl hlive hlaunch hrun, List.getLast?_concat, hstate, herr, hcur, fun b hb => ?_,
      fenceReported_rel _ t, fenceReported_permanent _ t, ?_⟩
    · exact (htouch.others b hb).trans (took_arr _ s b)
    · exact only_trans (only_mono (took_only _ s) (by simp)) (only_trans (only_mono htouch.only (by simp))
        (only_mono (ps := [.host]) (only_of_withParts rfl) (by simp)))
  case fenced =>
    have htodo : ((arraysFrom first count).filter fun a => !bit (arr s a).state 17) = [] := by
      refine List.filter_eq_nil_iff.2 fun a ha => ?_
      obtain ⟨i, hi, rfl⟩ := List.mem_map.1 ha
      simp [hall i (List.mem_range.1 hi)]
    have hexec := exec_arrayFence hl
    dsimp only at hexec
    rw [hexec, htodo]
    rfl

end Sys2Proof.Laws

/-! PROOFS. Alignment and compare: the exponent that a span takes and the codes it drives, and what decides a read (R46, R52, R53). -/

namespace Sys2Proof.Laws
open Sys2Proof.Machine Sys2Proof.Safety

theorem getD_map_range {α : Type} {n i : Nat} (hi : i < n) (f : Nat → α) (d : α) : ((List.range n).map f).getD i d = f i := by
  simp [hi]

/-- The valid blocks that a span meets. -/
def spanBlocks (blocks : List ZqBlock) (first count : Nat) : List ZqBlock :=
  ((blocks.drop (first / 32)).take ((count + 31) / 32)).filter fun b => b.e != 255

/-- The largest exponent of some blocks, 0 of none. -/
def maxExponent (bs : List ZqBlock) : Nat := (bs.map (·.e)).foldl max 0

theorem le_maxExponent {bs : List ZqBlock} {b : ZqBlock} (h : b ∈ bs) : b.e ≤ maxExponent bs := by
  rw [maxExponent, List.foldl_eq_foldr]
  exact List.le_max_of_le' 0 (List.mem_map_of_mem (f := ZqBlock.e) h) le_rfl

theorem alignSpan_emax (n : Nat) (blocks : List ZqBlock) (first count : Nat) :
    (alignSpan n blocks first count).1.emax = maxExponent (spanBlocks blocks first count) := rfl

/-- An element's code is rounded to the span's exponent; an invalid one drives 0. -/
theorem alignSpan_codes {n : Nat} (hn : n ≠ 1) (blocks : List ZqBlock) (first count : Nat) :
    (alignSpan n blocks first count).1.codes = (List.range count).map fun i =>
      let b := blocks.getD ((first + i) / 32) ⟨255, []⟩
      match b.codes.getD ((first + i) % 32) none with
      | none => 0
      | some c => rneScale c (Int.ofNat b.e - Int.ofNat (maxExponent (spanBlocks blocks first count))) := by
  simp only [alignSpan, if_neg hn, List.map_map]
  refine List.map_congr_left fun i _ => ?_
  simp only [Function.comp]
  cases (blocks.getD ((first + i) / 32) ⟨255, []⟩).codes.getD ((first + i) % 32) none <;> rfl

/-- A code in a column that must be zero lies above ZMAX (R53). -/
theorem compareRead_pass_of_zero {u : ArrU} {codes : List Nat} (h : (compareRead u codes).zero = true) :
    (compareRead u codes).pass = false := by
  have hpass : (compareRead u codes).pass = (!(compareRead u codes).zero && _) := rfl
  rw [hpass, h, Bool.not_true, Bool.false_and]

/-- A read whose digits agree with its checksum passes, where no column that must be zero reads more (R52). -/
theorem compareRead_pass_of_agree {u : ArrU} {codes : List Nat} (h : (compareRead u codes).zero = false)
    (hsum : recombine (max 1 (colsPerWeight (arrWidth u))) codes (List.range (usedCols (arrWidth u)))
      = (List.range (checkDigits (arrWidth u))).foldl (fun n g => n + 4 ^ g * codes.getD (checkCol g) 0) 0) :
    (compareRead u codes).pass = true := by
  show (!(compareRead u codes).zero && (_ || decide ((Int.ofNat _ - Int.ofNat _) * (Int.ofNat _ - Int.ofNat _) * 4096 ≤ _))) = true
  rw [h, hsum, sub_self, zero_mul, zero_mul, Bool.not_false, Bool.true_and, Bool.or_eq_true]
  exact .inr (decide_eq_true (Int.natCast_nonneg _))

/-- Settles O41: the span's codes element by element, and the compare by its two conditions. -/
theorem alignmentAndCompare : Obligations.AlignmentAndCompare := by
  unfold Obligations.AlignmentAndCompare
  refine ⟨fun n blocks first count hn => ?align, fun u codes => ?compare⟩
  case align =>
    refine ⟨?length, fun b hb => le_maxExponent hb, fun hnone => ?none, fun i hi => ?code⟩
    case length => rw [alignSpan_codes hn, List.length_map, List.length_range]
    case none =>
      have hbs : spanBlocks blocks first count = [] := hnone
      rw [alignSpan_emax, hbs]
      rfl
    case code =>
      rw [alignSpan_codes hn, getD_map_range hi]
      rfl
  case compare =>
    refine ⟨rfl, fun h => compareRead_pass_of_zero h, fun hidle hsum => compareRead_pass_of_agree hidle hsum⟩

end Sys2Proof.Laws

/-! PROOFS. Register writes that wait: the settings and trims of an array, and the words of a tensor entry (R70, R160). -/

namespace Sys2Proof.Laws
open Sys2Proof.Machine Sys2Proof.Safety

/-! ### Fields of a write (R14) -/

/-- A field set to another word's field reads as that word does, in every part of it. -/
theorem fld_setFld_fld {n m : Nat} (w : BitVec n) (v : BitVec m) {hi lo hi' lo' : Nat} (h : lo ≤ lo' ∧ lo' ≤ hi' ∧ hi' ≤ hi)
    (hn : hi < n) : fld (setFld w hi lo (fld v hi lo)) hi' lo' = fld v hi' lo' := by
  refine Nat.eq_of_testBit_eq fun j => ?_
  rw [testBit_fld, testBit_setFld w (by omega), testBit_fld, testBit_fld]
  by_cases hj : j < hi' + 1 - lo'
  · simp [hj, show j + lo' < n by omega, show lo ≤ j + lo' ∧ j + lo' ≤ hi by omega, show j + lo' - lo < hi + 1 - lo by omega,
      show j + lo' - lo + lo = j + lo' by omega]
  · simp [hj]

section
variable (v : Word) {hi lo : Nat} (ok : Nat → Bool) (r : Word × Bool)

theorem takeField_flag : (takeField v hi lo ok r).2 = (r.2 || !ok (fld v hi lo)) := by
  unfold takeField
  split
  case isTrue h => simp [h]
  case isFalse h => simp [h]

theorem fld_takeField_same (hle : lo ≤ hi) (hn : hi < 32) :
    fld (takeField v hi lo ok r).1 hi lo = if ok (fld v hi lo) then fld v hi lo else fld r.1 hi lo := by
  unfold takeField
  split
  · exact fld_setFld_fld _ _ ⟨le_rfl, hle, le_rfl⟩ hn
  · rfl

theorem fld_takeField_ne {hi' lo' : Nat} (h : lo ≤ hi ∧ (hi' < lo ∨ hi < lo')) :
    fld (takeField v hi lo ok r).1 hi' lo' = fld r.1 hi' lo' := by
  unfold takeField
  split
  · exact fld_setFld_ne _ _ h
  · rfl

end

/-- Some field of a list holds the bit. -/
def coversBit (fs : List (Nat × Nat × (Nat → Bool))) (i : Nat) : Bool := fs.any fun f => decide (f.2.1 ≤ i ∧ i ≤ f.1)

/-- Legal codes are taken whole: the fields' bits are those of the write, and no flag is set. -/
theorem takeFields_legal {v old : Word} {fs : List (Nat × Nat × (Nat → Bool))}
    (h : ∀ f ∈ fs, f.2.1 ≤ f.1 ∧ f.2.2 (fld v f.1 f.2.1) = true) : (takeFields v old fs).2 = false
    ∧ ∀ i, i < 32 → (takeFields v old fs).1.toNat.testBit i
      = if coversBit fs i then v.toNat.testBit i else old.toNat.testBit i := by
  induction fs generalizing old with
  | nil => exact ⟨rfl, fun _ _ => rfl⟩
  | cons f fs ih =>
    obtain ⟨⟨hle, hok⟩, hrest⟩ := List.forall_mem_cons.1 h
    have hfirst : takeField v f.1 f.2.1 f.2.2 (old, false) = (setFld old f.1 f.2.1 (fld v f.1 f.2.1), false) := by
      rw [takeField, if_pos hok]
    have hfold : takeFields v old (f :: fs) = takeFields v (setFld old f.1 f.2.1 (fld v f.1 f.2.1)) fs := by
      rw [takeFields, List.foldl_cons, hfirst, takeFields]
    rw [hfold]
    refine ⟨(ih hrest).1, fun i hi => ?_⟩
    have hcover : coversBit (f :: fs) i = (decide (f.2.1 ≤ i ∧ i ≤ f.1) || coversBit fs i) := rfl
    rw [(ih hrest).2 i hi, testBit_setFld _ hle, testBit_fld, hcover]
    by_cases hin : f.2.1 ≤ i ∧ i ≤ f.1
    · simp [hin, hi, show i - f.2.1 < f.1 + 1 - f.2.1 by omega]
    · simp [hin, hi]

/-! ### SPAN, RANGE, K and ZMAX of an array (R70) -/

theorem exec_arrCfgWrite_cfg {a : Nat} (ha : a < 4096) (v : Word) (s : State) :
    exec (.arrCfgWrite a .cfg v) s = .next (writeArrCfg a v s) := onUnit_present ha s (writeArrCfg a v)

theorem exec_arrCfgWrite_chkcfg {a : Nat} (ha : a < 4096) (v : Word) (s : State) :
    exec (.arrCfgWrite a .chkcfg v) s = .next (writeArrChk a v s) := onUnit_present ha s (writeArrChk a v)

/-- What a write of ARR_CFG leaves waiting for the next product boundary: the word, and its flag. -/
def holdCfg (r : Word × Bool) (u : ArrU) : ArrU :=
  { u with cfgHeld := some r.1, err := if r.2 then setBit u.err 6 else u.err }

theorem writeArrCfg_eq (a : Nat) (v : Word) (s : State) : writeArrCfg a v s = boundary a (modArr s a
    (holdCfg (takeFields v ((arr s a).cfgHeld.getD (arr s a).cfg) [(7, 6, codeIn 0 2), (5, 3, codeIn 0 5)]))) := rfl

/-- What a write of ARR_CHKCFG leaves waiting for the next product boundary: the word, and its flag. -/
def holdChk (r : Word × Bool) (u : ArrU) : ArrU :=
  { u with chkHeld := some r.1, err := if r.2 then setBit u.err 6 else u.err }

theorem writeArrChk_eq (a : Nat) (v : Word) (s : State) : writeArrChk a v s = boundary a (modArr s a
    (holdChk (takeFields v ((arr s a).chkHeld.getD (arr s a).chkcfg) [(15, 12, codeIn 4 15), (11, 8, codeIn 1 15)]))) := rfl

/-- The settings of an idle array take effect as they are written. -/
theorem boundary_hold_idle {s : State} {a : Nat} {f : ArrU → ArrU} (hi : idleActive s a = true)
    (hf : ∃ c k e, f (arr s a) = { arr s a with cfgHeld := c, chkHeld := k, err := e }) :
    boundary a (modArr s a f) = modArr (modArr s a f) a applyCfg := by
  obtain ⟨-, hdue, -, -, -, hwaits⟩ := idleActive_iff.1 hi
  obtain ⟨c, k, e, hf⟩ := hf
  refine boundary_rest ((atBoundary_of_idle hi).modArr ?_ ?_ ?_) ⟨?_, ?_, ?_, ?_⟩ ?_
  all_goals simp only [arr_modArr_same, hf]
  exacts [rfl, hwaits.refresh, hwaits.wantRefresh, hwaits.wantCal, hwaits.granted, hdue]

theorem codeIn_zero (hi n : Nat) : codeIn 0 hi n = decide (n ≤ hi) := by simp [codeIn]

/-- A code of a four-bit field is legal from its least one on. -/
theorem codeIn_four (lo : Nat) {m : Nat} (w : BitVec m) (i : Nat) : codeIn lo 15 (fld w (i + 3) i) = decide (lo ≤ fld w (i + 3) i) := by
  have hlt : fld w (i + 3) i < 2 ^ 4 := (show i + 3 + 1 - i = 4 by omega) ▸ fld_lt w (i + 3) i
  simp [codeIn, show fld w (i + 3) i ≤ 15 by omega]

/-- The two fields of a write, where both have their own bits. -/
theorem takeFields_two {v old : Word} {hi lo hi' lo' : Nat} {ok ok' : Nat → Bool} (h : lo ≤ hi ∧ hi < 32)
    (h' : lo' ≤ hi' ∧ hi' < lo) : let r := takeFields v old [(hi, lo, ok), (hi', lo', ok')]
    fld r.1 hi lo = (if ok (fld v hi lo) then fld v hi lo else fld old hi lo)
      ∧ fld r.1 hi' lo' = (if ok' (fld v hi' lo') then fld v hi' lo' else fld old hi' lo')
      ∧ r.2 = !(ok (fld v hi lo) && ok' (fld v hi' lo')) := by
  intro r
  have hr : r = takeField v hi' lo' ok' (takeField v hi lo ok (old, false)) := rfl
  refine ⟨?_, ?_, ?_⟩
  · rw [hr, fld_takeField_ne _ _ _ ⟨h'.1, .inr h'.2⟩, fld_takeField_same _ _ _ h.1 h.2]
  · rw [hr, fld_takeField_same _ _ _ h'.1 (by omega), fld_takeField_ne _ _ _ ⟨h.1, .inl h'.2⟩]
  · rw [hr, takeField_flag, takeField_flag, Bool.false_or, Bool.not_and]

theorem arrCfgWrite_idle {s : State} {a : Nat} (v : Word) (hi : idleActive s a = true) (hcfg : (arr s a).cfgHeld = none)
    (hchk : (arr s a).chkHeld = none) : let t := writeArrCfg a v s
    fld (arr t a).cfg 7 6 = (if fld v 7 6 ≤ 2 then fld v 7 6 else fld (arr s a).cfg 7 6)
      ∧ fld (arr t a).cfg 5 3 = (if fld v 5 3 ≤ 5 then fld v 5 3 else fld (arr s a).cfg 5 3)
      ∧ fld (arr t a).cfg 31 8 = fld (arr s a).cfg 31 8 ∧ fld (arr t a).cfg 2 0 = fld (arr s a).cfg 2 0
      ∧ arr t a = { arr s a with
        cfg := (arr t a).cfg, err := if fld v 7 6 ≤ 2 ∧ fld v 5 3 ≤ 5 then (arr s a).err else setBit (arr s a).err 6 } := by
  intro t
  obtain ⟨r, hr⟩ : ∃ r, r = takeFields v (arr s a).cfg [(7, 6, codeIn 0 2), (5, 3, codeIn 0 5)] := ⟨_, rfl⟩
  obtain ⟨hspan, hrange, hflag⟩ := takeFields_two (v := v) (old := (arr s a).cfg) (ok := codeIn 0 2) (ok' := codeIn 0 5)
    (by decide : 6 ≤ 7 ∧ 7 < 32) (by decide : 3 ≤ 5 ∧ 5 < 6)
  rw [← hr] at hspan hrange hflag
  simp only [codeIn_zero, decide_eq_true_eq] at hspan hrange hflag
  have ht : t = modArr (modArr s a (holdCfg r)) a applyCfg := by
    rw [← boundary_hold_idle hi ⟨_, _, _, rfl⟩, hr, ← Option.getD_none (a := (arr s a).cfg), ← hcfg]
    rfl
  have harr : arr t a = { arr s a with
      cfg := setFld (arr s a).cfg 7 3 (fld r.1 7 3), err := if r.2 then setBit (arr s a).err 6 else (arr s a).err } := by
    rw [ht, arr_modArr_same, arr_modArr_same]
    simp only [holdCfg, applyCfg, hcfg, hchk, Option.getD_none]
  simp only [harr]
  refine ⟨?_, ?_, fld_setFld_ne _ _ (by decide), fld_setFld_ne _ _ (by decide), ?_⟩
  · rw [fld_setFld_fld _ _ (by decide) (by decide), hspan]
  · rw [fld_setFld_fld _ _ (by decide) (by decide), hrange]
  · simp only [hflag, ← Bool.decide_and, Bool.not_eq_true', decide_eq_false_iff_not, ite_not]

theorem arrChkWrite_idle {s : State} {a : Nat} (v : Word) (hi : idleActive s a = true) (hcfg : (arr s a).cfgHeld = none)
    (hchk : (arr s a).chkHeld = none) : let t := writeArrChk a v s
    fld (arr t a).chkcfg 15 12 = (if 4 ≤ fld v 15 12 then fld v 15 12 else fld (arr s a).chkcfg 15 12)
      ∧ fld (arr t a).chkcfg 11 8 = (if 1 ≤ fld v 11 8 then fld v 11 8 else fld (arr s a).chkcfg 11 8)
      ∧ arr t a = { arr s a with
        chkcfg := (arr t a).chkcfg
        err := if 4 ≤ fld v 15 12 ∧ 1 ≤ fld v 11 8 then (arr s a).err else setBit (arr s a).err 6 } := by
  intro t
  obtain ⟨r, hr⟩ : ∃ r, r = takeFields v (arr s a).chkcfg [(15, 12, codeIn 4 15), (11, 8, codeIn 1 15)] := ⟨_, rfl⟩
  obtain ⟨hk, hzmax, hflag⟩ := takeFields_two (v := v) (old := (arr s a).chkcfg) (ok := codeIn 4 15) (ok' := codeIn 1 15)
    (by decide : 12 ≤ 15 ∧ 15 < 32) (by decide : 8 ≤ 11 ∧ 11 < 12)
  rw [← hr] at hk hzmax hflag
  have hcode4 : codeIn 4 15 (fld v 15 12) = decide (4 ≤ fld v 15 12) := codeIn_four 4 v 12
  have hcode1 : codeIn 1 15 (fld v 11 8) = decide (1 ≤ fld v 11 8) := codeIn_four 1 v 8
  simp only [hcode4, hcode1, decide_eq_true_eq] at hk hzmax hflag
  have ht : t = modArr (modArr s a (holdChk r)) a applyCfg := by
    rw [← boundary_hold_idle hi ⟨_, _, _, rfl⟩, hr, ← Option.getD_none (a := (arr s a).chkcfg), ← hchk]
    rfl
  have harr : arr t a = { arr s a with
      chkcfg := r.1, err := if r.2 then setBit (arr s a).err 6 else (arr s a).err } := by
    rw [ht, arr_modArr_same, arr_modArr_same]
    simp only [holdChk, applyCfg, hcfg, hchk, Option.getD_some]
  simp only [harr]
  refine ⟨hk, hzmax, ?_⟩
  simp only [hflag, ← Bool.decide_and, Bool.not_eq_true', decide_eq_false_iff_not, ite_not]

/-- While a product runs the settings wait. -/
theorem arrCfgWrite_busy {s : State} {a : Nat} (v : Word) (h : (arr s a).cur.isSome = true) :
    ∃ r, writeArrCfg a v s = modArr s a (holdCfg r) := by
  refine ⟨_, (writeArrCfg_eq a v s).trans (boundary_waits ?_)⟩
  rw [arr_modArr_same]
  exact h

/-! ### Trims (R70) -/

/-- The held trims with one more, in its place. -/
def holdTrim (p : Nat) (v : BitVec 16) (held : Tab (BitVec 16)) : Tab (BitVec 16) :=
  (held.filter fun h => h.1 < p) ++ (p, v) :: (held.filter fun h => p < h.1)

theorem tget_holdTrim_same (p : Nat) (v : BitVec 16) (held : Tab (BitVec 16)) : tget 0#16 (holdTrim p v held) p = v := by
  rw [holdTrim, tget_append _ _ _ _ fun e he => ?_]
  · simp [tget]
  · have hlt : e.1 < p := by simpa using (List.mem_filter.1 he).2
    exact hlt.ne

theorem tget_holdTrim_ne {p q : Nat} (v : BitVec 16) (held : Tab (BitVec 16)) (h : q ≠ p) :
    tget 0#16 (holdTrim p v held) q = tget 0#16 held q := by
  rcases Nat.lt_or_gt_of_ne h with hq | hq
  · have hrest : ∀ e ∈ (p, v) :: held.filter (fun h => p < h.1), e.1 ≠ q := by
      intro e he
      obtain rfl | he := List.mem_cons.1 he
      · exact h.symm
      · have hlt : p < e.1 := by simpa using (List.mem_filter.1 he).2
        omega
    rw [holdTrim, tget_append_none _ _ _ _ hrest, tget_filter]
    exact fun _ => decide_eq_true hq
  · have hfirst : ∀ e ∈ held.filter (fun h => h.1 < p), e.1 ≠ q := by
      intro e he
      have hlt : e.1 < p := by simpa using (List.mem_filter.1 he).2
      omega
    rw [holdTrim, tget_append _ _ _ _ hfirst, tget, if_neg h.symm, tget_filter]
    exact fun _ => decide_eq_true hq

theorem holdTrim_any (p : Nat) (v : BitVec 16) (held : Tab (BitVec 16)) : ((holdTrim p v held).any fun h => h.1 == p) = true :=
  List.any_eq_true.2 ⟨(p, v), List.mem_append_right _ (List.mem_cons_self ..), beq_self_eq_true p⟩

/-- The trim that a byte of a write leaves waiting. -/
def trimWith (p : Nat) (high : Bool) (b : Byte) (u : ArrU) : BitVec 16 :=
  let old := if (u.trimHeld.any fun h => h.1 == p) then tget 0#16 u.trimHeld p else tget 0#16 u.trims p
  if high then setFld old 15 8 b.toNat else setFld old 7 0 b.toNat

theorem trimByte_held {s : State} {a : Nat} (h : arrMode (arr s a) ≠ 2) (p : Nat) (high : Bool) (b : Byte) :
    trimByte s a p high b = modArr s a fun u => { u with trimHeld := holdTrim p (trimWith p high b u) u.trimHeld } := by
  rw [trimByte, if_neg (show ¬ fld (arr s a).state 1 0 = 2 from h)]
  rfl

theorem setFld_bytes (old w : BitVec 16) : setFld (setFld old 7 0 (BitVec.ofNat 8 w.toNat).toNat) 15 8
    (BitVec.ofNat 8 (w.toNat / 256)).toNat = w := by
  refine eq_of_testBit fun i hi => ?_
  have hhigh : w.toNat / 256 = w.toNat / 2 ^ 8 := rfl
  rw [testBit_setFld _ (by decide), testBit_setFld _ (by decide), BitVec.toNat_ofNat, BitVec.toNat_ofNat, hhigh,
    Nat.testBit_mod_two_pow, Nat.testBit_mod_two_pow, Nat.testBit_div_two_pow]
  by_cases h8 : 8 ≤ i
  · simp [hi, h8, show i ≤ 15 by omega, show i - 8 < 8 by omega]
  · simp [hi, h8, show i ≤ 7 by omega, show i < 8 by omega]

/-- A trim written outside a calibration waits whole for the array's next read. -/
theorem writeTrim_held {s : State} {a p : Nat} (w : BitVec 16) (hp : p < 530) (h : arrMode (arr s a) ≠ 2) :
    let t := writeTrim a p w s
    tget 0#16 (arr t a).trimHeld p = w ∧ (∀ q, q ≠ p → tget 0#16 (arr t a).trimHeld q = tget 0#16 (arr s a).trimHeld q)
      ∧ arr t a = { arr s a with trimHeld := (arr t a).trimHeld } := by
  intro t
  let low (u : ArrU) : ArrU := { u with trimHeld := holdTrim p (trimWith p false (BitVec.ofNat 8 w.toNat) u) u.trimHeld }
  let high (u : ArrU) : ArrU := { u with trimHeld := holdTrim p (trimWith p true (BitVec.ofNat 8 (w.toNat / 256)) u) u.trimHeld }
  have hmode : arrMode (arr (modArr s a low) a) ≠ 2 := by
    rw [arr_modArr_same]
    exact h
  have ht : t = modArr (modArr s a low) a high := by
    show writeTrim a p w s = _
    rw [writeTrim, if_pos hp, trimByte_held h, trimByte_held hmode]
  have harr : arr t a = high (low (arr s a)) := by
    rw [ht, arr_modArr_same, arr_modArr_same]
  have hword : trimWith p true (BitVec.ofNat 8 (w.toNat / 256)) (low (arr s a)) = w := by
    have hany : ((low (arr s a)).trimHeld.any fun h => h.1 == p) = true := holdTrim_any ..
    have hget : tget 0#16 (low (arr s a)).trimHeld p = trimWith p false (BitVec.ofNat 8 w.toNat) (arr s a) :=
      tget_holdTrim_same ..
    simp only [trimWith] at hget ⊢
    rw [if_pos hany, hget]
    exact setFld_bytes _ w
  rw [harr]
  refine ⟨?_, fun q hq => ?_, rfl⟩
  · rw [← hword]
    exact tget_holdTrim_same ..
  · exact (tget_holdTrim_ne _ _ hq).trans (tget_holdTrim_ne _ _ hq)

/-- A write that comes too late is told by CFG_DISCARD. -/
def discardFlag (u : ArrU) : ArrU := { u with err := setBit u.err 6 }

theorem trimByte_discarded {s : State} {a : Nat} (h : arrMode (arr s a) = 2) (p : Nat) (high : Bool) (b : Byte) :
    trimByte s a p high b = modArr s a discardFlag := if_pos h

/-- A trim written in a calibration is discarded with the flag. -/
theorem writeTrim_discarded {s : State} {a p : Nat} (w : BitVec 16) (hp : p < 530) (h : arrMode (arr s a) = 2) :
    arr (writeTrim a p w s) a = discardFlag (arr s a) := by
  have hmode : arrMode (arr (modArr s a discardFlag) a) = 2 := by
    rw [arr_modArr_same]
    exact h
  rw [writeTrim, if_pos hp, trimByte_discarded h, trimByte_discarded hmode, arr_modArr_same, arr_modArr_same]
  simp only [discardFlag, setBit_setBit_same]

theorem trimByte_touches (s : State) (a p : Nat) (high : Bool) (b : Byte) : Touches [] a s (trimByte s a p high b) := by
  unfold trimByte
  split <;> exact .modArr ..

theorem writeTrim_touches (a p : Nat) (w : BitVec 16) (s : State) : Touches [] a s (writeTrim a p w s) := by
  unfold writeTrim
  split
  · exact (trimByte_touches ..).trans (trimByte_touches ..)
  · exact .refl ..

/-! ### Tensor entries (R160) -/

theorem core_modCore_same (s : State) (k : Nat) (f : CoreU → CoreU) : Machine.core (modCore s k f) k = f (Machine.core s k) :=
  tget_tmod_same _ _ _ _

theorem entries_modEntry (s : State) (k e : Nat) (f : Entry → Entry) :
    (Machine.core (modEntry s k e f) k).entries = tmod Entry.reset (Machine.core s k).entries e f :=
  congrArg CoreU.entries (core_modCore_same s k _)

theorem entryOf_modEntry_same (s : State) (k e : Nat) (f : Entry → Entry) :
    entryOf (modEntry s k e f) k e = f (entryOf s k e) := by
  rw [entryOf, entries_modEntry, tget_tmod_same, entryOf]

theorem entryOf_modEntry_ne {s : State} {k e x : Nat} {f : Entry → Entry} (h : x ≠ e) :
    entryOf (modEntry s k e f) k x = entryOf s k x := by
  rw [entryOf, entries_modEntry, tget_tmod_ne _ _ _ _ _ h, entryOf]

theorem modEntry_only (s : State) (k e : Nat) (f : Entry → Entry) : Only [.cores] s (modEntry s k e f) :=
  only_of_withParts rfl

section
variable {k e : Nat} (hk : k < 512) (he : e < 256) (v : Word) (s : State)
include hk he

theorem exec_fmtConfigWrite_tfix : exec (.fmtConfigWrite k e .tfix v) s = .next (modEntry s k e (writeTfix v)) := by
  refine (onUnit_present hk s (writeFmt k e .tfix v)).trans ?_
  rw [writeFmt, if_neg (Nat.not_le.2 he)]

theorem exec_fmtConfigWrite_tcfg : exec (.fmtConfigWrite k e .tcfg v) s = .next (modEntry s k e (writeTcfg v)) := by
  refine (onUnit_present hk s (writeFmt k e .tcfg v)).trans ?_
  rw [writeFmt, if_neg (Nat.not_le.2 he)]

theorem exec_fmtConfigWrite_thist {j : Nat} (hj : j < 16) :
    exec (.fmtConfigWrite k e (.thist j) v) s = .next (modEntry s k e (writeThist j v)) := by
  refine (onUnit_present hk s (writeFmt k e (.thist j) v)).trans ?_
  simp only [writeFmt, if_neg (Nat.not_le.2 he), if_pos hj]

end

section
variable {x : Entry} {v : Word}

/-- FMT_TFIX of an entry that no launch owns: both fields, EXP only up to 254. -/
theorem writeTfix_free (hown : bit x.town 31 = false) : let y := writeTfix v x
    fld y.tfix 25 16 = fld v 25 16 ∧ fld y.tfix 7 0 = (if fld v 7 0 ≤ 254 then fld v 7 0 else fld x.tfix 7 0)
      ∧ y = { x with tfix := y.tfix, tflag := if fld v 7 0 ≤ 254 then x.tflag else setBit x.tflag 6 } := by
  intro y
  obtain ⟨r, hr⟩ : ∃ r, r = takeFields v x.tfix [(25, 16, anyCode), (7, 0, codeIn 0 254)] := ⟨_, rfl⟩
  obtain ⟨hwin, hexp, hflag⟩ := takeFields_two (v := v) (old := x.tfix) (ok := anyCode) (ok' := codeIn 0 254)
    (by decide : 16 ≤ 25 ∧ 25 < 32) (by decide : 0 ≤ 7 ∧ 7 < 16)
  rw [← hr] at hwin hexp hflag
  simp only [anyCode, codeIn_zero, decide_eq_true_eq, if_true, Bool.true_and] at hwin hexp hflag
  have hy : y = { x with tfix := r.1, tflag := if fld v 7 0 ≤ 254 then x.tflag else setBit x.tflag 6 } := by
    simp only [y, writeTfix, ← hr, hflag, Bool.not_eq_true', decide_eq_false_iff_not, ite_not]
    split <;> simp only [hown, Bool.false_eq_true, if_false]
  rw [hy]
  exact ⟨hwin, hexp, rfl⟩

/-- FMT_TFIX of an entry that a launch owns is held, and PENDING tells it. -/
theorem writeTfix_owned (hown : bit x.town 31 = true) : let y := writeTfix v x
    y.tfix = x.tfix ∧ y.heldFix.isSome = true ∧ bit y.tflag 7 = true := by
  intro y
  obtain ⟨r, hr⟩ : ∃ r, r = takeFields v x.tfix [(25, 16, anyCode), (7, 0, codeIn 0 254)] := ⟨_, rfl⟩
  obtain ⟨w, hy⟩ : ∃ w, y = { x with heldFix := some r.1, tflag := setBit w 7 } := by
    cases hflag : r.2 with
    | false => exact ⟨x.tflag, by simp only [y, writeTfix, ← hr, hflag, hown, Bool.false_eq_true, if_false, if_true]⟩
    | true => exact ⟨setBit x.tflag 6, by simp only [y, writeTfix, ← hr, hflag, hown, if_true]⟩
  rw [hy]
  exact ⟨rfl, rfl, bit_setBit (i := 7) _ (by decide : 7 < 32)⟩

/-- FMT_TCFG of an entry that no launch owns takes the bits of its six fields where every code is legal. -/
theorem writeTcfg_legal (hown : bit x.town 31 = false) (h13 : fld v 13 12 ≤ 1) (h8 : 1 ≤ fld v 8 5) (h1 : fld v 1 0 ≤ 2) :
    let y := writeTcfg v x
    y.tcfg &&& 0x00FF3FE3#32 = v &&& 0x00FF3FE3#32 ∧ y.tcfg &&& 0xFF00C01C#32 = x.tcfg &&& 0xFF00C01C#32
      ∧ y = { x with tcfg := y.tcfg } := by
  intro y
  let fs : List (Nat × Nat × (Nat → Bool)) := [(23, 20, anyCode), (19, 16, anyCode), (13, 12, codeIn 0 1), (11, 9, anyCode),
    (8, 5, codeIn 1 15), (1, 0, codeIn 0 2)]
  have hlegal : ∀ f ∈ fs, f.2.1 ≤ f.1 ∧ f.2.2 (fld v f.1 f.2.1) = true := by
    have hcode : codeIn 1 15 (fld v 8 5) = decide (1 ≤ fld v 8 5) := codeIn_four 1 v 5
    simp [fs, anyCode, codeIn_zero, hcode, h13, h8, h1]
  obtain ⟨hflag, hbits⟩ := takeFields_legal (old := x.tcfg) hlegal
  have hcover : ∀ i, i < 32 → coversBit fs i = (0x00FF3FE3#32).toNat.testBit i
      ∧ (!coversBit fs i) = (0xFF00C01C#32).toNat.testBit i := by decide
  have hy : y = { x with tcfg := (takeFields v x.tcfg fs).1 } := by
    simp only [y, writeTcfg, fs, hflag, hown, Bool.false_eq_true, if_false]
  rw [hy]
  refine ⟨eq_of_testBit fun i hi => ?_, eq_of_testBit fun i hi => ?_, rfl⟩
  · simp only [BitVec.toNat_and, Nat.testBit_and, ← (hcover i hi).1, hbits i hi]
    cases coversBit fs i <;> simp
  · simp only [BitVec.toNat_and, Nat.testBit_and, ← (hcover i hi).2, hbits i hi]
    cases coversBit fs i <;> simp

/-- An exponent of the ring in FMT_THIST of an entry that no launch owns takes the write's 16 bits. -/
theorem writeThist_legal (hown : bit x.town 31 = false) (h8 : fld v 8 0 ≤ 277) (j : Nat) :
    writeThist j v x = { x with thist := tset 0#16 x.thist j (v.extractLsb' 0 16) } := by
  let fs : List (Nat × Nat × (Nat → Bool)) := [(15, 9, anyCode), (8, 0, codeIn 0 277)]
  have hlegal : ∀ f ∈ fs, f.2.1 ≤ f.1 ∧ f.2.2 (fld v f.1 f.2.1) = true := by
    simp [fs, anyCode, codeIn_zero, h8]
  obtain ⟨hflag, hbits⟩ := takeFields_legal (old := w32 (tget 0#16 x.thist j).toNat) hlegal
  have hcover : ∀ i, i < 16 → coversBit fs i = true := by decide
  have hword : BitVec.ofNat 16 (takeFields v (w32 (tget 0#16 x.thist j).toNat) fs).1.toNat = v.extractLsb' 0 16 := by
    refine eq_of_testBit fun i hi => ?_
    have hbit := hbits i (by omega)
    rw [hcover i hi, if_pos rfl] at hbit
    rw [BitVec.toNat_ofNat, Nat.testBit_mod_two_pow, hbit, BitVec.extractLsb'_toNat, Nat.testBit_mod_two_pow, Nat.shiftRight_zero]
  simp only [fs] at hflag hword
  simp only [writeThist, hflag, hword, hown, Bool.false_eq_true, if_false]

end

/-- Settles O31: a write waits for its boundary, read or owner, and with none to wait for takes its legal fields at once. -/
theorem heldRegisterWritesComplete : Obligations.HeldRegisterWritesComplete := by
  unfold Obligations.HeldRegisterWritesComplete
  intro s v
  refine ⟨fun a ha hi hcfg hchk => ⟨?cfg, ?chkcfg⟩, fun a ha hcur => ?busy, fun a p w ha hp hmode => ?trim,
    fun a p w ha hp hmode => ?discarded, fun k e hk he => ?entry⟩
  case cfg =>
    obtain ⟨hspan, hrange, hhigh, hlow, harr⟩ := arrCfgWrite_idle v hi hcfg hchk
    have htouch : Touches [] a s (writeArrCfg a v s) := by
      rw [writeArrCfg_eq, boundary_hold_idle hi ⟨_, _, _, rfl⟩]
      exact (Touches.modArr ..).trans (.modArr ..)
    exact ⟨_, exec_arrCfgWrite_cfg ha v s, hspan, hrange, hhigh, hlow, harr, htouch.others, htouch.only⟩
  case chkcfg =>
    obtain ⟨hk, hzmax, harr⟩ := arrChkWrite_idle v hi hcfg hchk
    have htouch : Touches [] a s (writeArrChk a v s) := by
      rw [writeArrChk_eq, boundary_hold_idle hi ⟨_, _, _, rfl⟩]
      exact (Touches.modArr ..).trans (.modArr ..)
    exact ⟨_, exec_arrCfgWrite_chkcfg ha v s, hk, hzmax, harr, htouch.others, htouch.only⟩
  case busy =>
    obtain ⟨r, hr⟩ := arrCfgWrite_busy v hcur
    have htouch : Touches [] a s (modArr s a (holdCfg r)) := .modArr ..
    refine ⟨_, (exec_arrCfgWrite_cfg ha v s).trans (congrArg _ hr), ?_, ?_, htouch.others, htouch.only⟩
    · rw [arr_modArr_same]
      rfl
    · rw [arr_modArr_same]
      rfl
  case trim =>
    obtain ⟨hsame, hne, harr⟩ := writeTrim_held w hp hmode
    have htouch := writeTrim_touches a p w s
    exact ⟨_, onUnit_present ha s (writeTrim a p w), hsame, hne, harr, htouch.others, htouch.only⟩
  case discarded =>
    have htouch := writeTrim_touches a p w s
    exact ⟨_, onUnit_present ha s (writeTrim a p w), writeTrim_discarded w hp hmode, htouch.others, htouch.only⟩
  case entry =>
    intro old
    have hsame (f : Entry → Entry) : entryOf (modEntry s k e f) k e = f old := entryOf_modEntry_same s k e f
    refine ⟨fun hown => ?_, fun hown => ?_, fun hown h13 h8 h1 => ?_, fun j hj hown h8 => ?_⟩
    · refine ⟨_, exec_fmtConfigWrite_tfix hk he v s, ?_⟩
      obtain ⟨hwin, hexp, hy⟩ := writeTfix_free (v := v) hown
      rw [hsame]
      exact ⟨hwin, hexp, hy, fun x hx => entryOf_modEntry_ne hx, modEntry_only _ _ _ _⟩
    · refine ⟨_, exec_fmtConfigWrite_tfix hk he v s, ?_⟩
      obtain ⟨htfix, hheld, hpend⟩ := writeTfix_owned (v := v) hown
      rw [hsame]
      exact ⟨htfix, hheld, hpend, fun x hx => entryOf_modEntry_ne hx, modEntry_only _ _ _ _⟩
    · refine ⟨_, exec_fmtConfigWrite_tcfg hk he v s, ?_⟩
      obtain ⟨htaken, hkept, hy⟩ := writeTcfg_legal hown h13 h8 h1
      rw [hsame]
      exact ⟨htaken, hkept, hy, modEntry_only _ _ _ _⟩
    · refine ⟨_, exec_fmtConfigWrite_thist hk he v s hj, ?_⟩
      rw [hsame, writeThist_legal hown h8]
      exact ⟨tget_tset_same _ _ _ _, fun i hi => tget_tset_ne _ _ _ _ _ hi, rfl, modEntry_only _ _ _ _⟩

end Sys2Proof.Laws

/-! PROOFS. A product on an array: its issue, the reads that drive it, their compare and re-read, and its end (R45 to R60, R84, R86). -/

namespace Sys2Proof.Laws
open Sys2Proof.Machine Sys2Proof.Safety

theorem ctxU_modCtx_same (s : State) (c : BitVec 4) (f : CtxU → CtxU) : ctxU (modCtx s c f) c = f (ctxU s c) :=
  tget_tmod_same _ _ _ _

/-! ### Issue (R84, R86, Table 3-4) -/

/-- The array and, with a policy for slices, every array of its core that works the layer serve analogue products. -/
def servesAlone (s : State) (a : Nat) (r : Layer) : Prop := (lSlice r && lPolicy r) = false
  ∨ (lArrays r).all (fun b => coreOfArray b != coreOfArray a || arrFenced s b || serves s b) = true

theorem servesAlone_iff {s : State} {a : Nat} {r : Layer} : servesAlone s a r
    ↔ (!(lSlice r && lPolicy r)
      || ((lArrays r).filter fun b => coreOfArray b == coreOfArray a && !arrFenced s b).all (serves s)) = true := by
  simp only [servesAlone, List.all_filter, Bool.or_eq_true, Bool.not_eq_true', List.all_eq_true, bne_iff_ne, ne_eq]
  refine or_congr_right (forall₂_congr fun b _ => ?_)
  cases arrFenced s b <;> cases serves s b <;> simp [or_iff_not_imp_left]

section
variable {s : State} {a : Nat} {p : Product} {rest : List Product} {l : LaunchS} {c : BitVec 4} {r : Layer}
  (hq : (arr s a).queue = p :: rest) (hl : findLaunch s p.launch = some l) (hr : layerOfArray s a = some (c, r))
  (hfence : arrFenced s a = false)
include hq hl hr hfence

/-- The head of the queue of an array in service goes to the array where it serves, to the digital engine where the layer's policy
allows, and waits otherwise. -/
theorem issueProduct_head : issueProduct a s =
      let live := (lArrays r).filter fun b => coreOfArray b == coreOfArray a && !arrFenced s b
      if serves s a && (!(lSlice r && lPolicy r) || live.all (serves s)) then
        if (arr s a).cur.isSome || !regionOn (arrRegState s (clusterOfArray a)) then s else startAnalogue a p s
      else if lPolicy r && r.st.fwdEpoch == some (ctxU s c).epoch && capAllows s l a && (arr s a).dig.isNone
          && regionOn (digState s (clusterOfCore (coreFor s a))) then startDigital a p l (lNum r) s
      else s := by
  simp only [issueProduct, hq, hl, hr, hfence, Bool.not_false, Bool.true_and, Bool.false_or]

theorem issueProduct_waits (hserve : serves s a = true) (halone : servesAlone s a r)
    (hwait : (arr s a).cur ≠ none ∨ regionOn (arrRegState s (clusterOfArray a)) = false) : issueProduct a s = s := by
  have hcond : ((arr s a).cur.isSome || !regionOn (arrRegState s (clusterOfArray a))) = true := by
    rw [Bool.or_eq_true, Option.isSome_iff_ne_none, Bool.not_eq_true']
    exact hwait
  simp only [issueProduct_head hq hl hr hfence, hserve, servesAlone_iff.1 halone, Bool.and_self, if_true, hcond]

theorem issueProduct_analogue (hserve : serves s a = true) (halone : servesAlone s a r) (hcur : (arr s a).cur = none)
    (hpower : regionOn (arrRegState s (clusterOfArray a)) = true) : issueProduct a s = startAnalogue a p s := by
  simp only [issueProduct_head hq hl hr hfence, hserve, servesAlone_iff.1 halone, Bool.and_self, if_true, hcur, hpower,
    Option.isSome_none, Bool.not_true, Bool.or_self, Bool.false_eq_true, if_false]

theorem issueProduct_digital (hserve : serves s a = false) (hpolicy : lPolicy r = true)
    (hepoch : r.st.fwdEpoch = some (ctxU s c).epoch) (hcap : capAllows s l a = true) (hdig : (arr s a).dig = none)
    (hpower : regionOn (digState s (clusterOfCore (coreFor s a))) = true) :
    issueProduct a s = startDigital a p l (lNum r) s := by
  simp only [issueProduct_head hq hl hr hfence, hserve, Bool.false_and, Bool.false_eq_true, if_false, hpolicy, hepoch, hcap, hdig,
    hpower, beq_self_eq_true, Option.isNone_none, Bool.and_self, if_true]

theorem issueProduct_refused (hserve : serves s a = false) (hpolicy : lPolicy r = false) : issueProduct a s = s := by
  simp only [issueProduct_head hq hl hr hfence, hserve, hpolicy, Bool.false_and, Bool.false_eq_true, if_false]

end

theorem popProduct_touches (a : Nat) (s : State) : Touches [] a s (popProduct a s) := .modArr ..

theorem popProduct_arr {s : State} {a : Nat} {p : Product} {rest : List Product} (hq : (arr s a).queue = p :: rest) :
    arr (popProduct a s) a = { arr s a with queue := rest } := by
  rw [popProduct, arr_modArr_same, hq]
  rfl

/-- A product of wider codes than ZQ1 starts with its spans aligned; its core may count the elements changed. -/
theorem startAnalogue_eq {p : Product} (hn : p.inN ≠ 1) (a : Nat) (s : State) :
    ∃ t, (t = popProduct a s ∨ ∃ f, t = modCore (popProduct a s) (coreFor (popProduct a s) a) f)
      ∧ startAnalogue a p s
        = modArr t a fun u => { u with cur := some (stage (arrSpan (arr s a)) (rowsUsed s a) p).1 } := by
  have hmixed : (stage (arrSpan (arr s a)) (rowsUsed s a) p).2.1 = false := by
    simp only [stage, beq_eq_false_iff_ne.2 hn, Bool.false_and]
  unfold startAnalogue
  dsimp only
  rw [if_neg (by rw [hmixed]; decide)]
  refine ⟨_, ?_, rfl⟩
  split_ifs
  · exact .inl rfl
  · exact .inr ⟨_, rfl⟩

/-- An analogue product leaves its queue with its spans aligned, and every other array as it was. -/
theorem startAnalogue_complete {s : State} {a : Nat} {p : Product} {rest : List Product} (hq : (arr s a).queue = p :: rest)
    (hn : p.inN ≠ 1) : arr (startAnalogue a p s) a
        = { arr s a with queue := rest, cur := some (stage (arrSpan (arr s a)) (rowsUsed s a) p).1 }
      ∧ Touches [.cores] a s (startAnalogue a p s) := by
  obtain ⟨t, ht, hstart⟩ := startAnalogue_eq hn a s
  have hpop : Touches [.cores] a s (popProduct a s) := (popProduct_touches a s).mono (by simp)
  have harr : arr t a = arr (popProduct a s) a := by
    obtain rfl | ⟨f, rfl⟩ := ht <;> rfl
  have htouch : Touches [.cores] a s t := by
    obtain rfl | ⟨f, rfl⟩ := ht
    · exact hpop
    · exact hpop.trans (.of_only (only_of_withParts rfl) (by decide))
  rw [hstart]
  refine ⟨?_, htouch.trans (.modArr ..)⟩
  rw [arr_modArr_same, harr, popProduct_arr hq]

/-- The parts of the spans that `stage` aligns. -/
theorem stage_product (span rows : Nat) (p : Product) : let q := (stage span rows p).1
    q.launch = p.launch ∧ q.token = p.token ∧ q.blocks = p.blocks ∧ q.plane = 0 ∧ q.span = 0 ∧ q.sat = []
      ∧ q.spans = (List.range ((rows + span - 1) / span)).map fun i =>
        (alignSpan p.inN p.blocks (i * span) (min span (rows - i * span))).1 := by
  simp only [stage, List.map_map, Function.comp_def, and_self]

theorem modCtx_touches {ps : List Part} (h : .ctxs ∈ ps) (a : Nat) (c : BitVec 4) (f : CtxU → CtxU) (s : State) :
    Touches ps a s (modCtx s c f) := .mono (.of_only (ps := [.ctxs]) (only_of_withParts rfl) (by decide)) (by simpa using h)

/-- What a digital product adds to its context: one FALLBACK product, and one of the open epoch with its layer marked. -/
def countDigital (l : LaunchS) (n : Nat) (s : State) : State :=
  let s := modCtx s l.ctx fun x => { x with fb := satWord x.fb 1 }
  if l.kind = 4#4 then s
  else modLayer (modSeal s l.ctx fun x => { x with fbCount := x.fbCount + 1 }) l.ctx n fun st => { st with digital := true }

theorem startDigital_eq (a : Nat) (p : Product) (l : LaunchS) (n : Nat) (s : State) : startDigital a p l n s
    = countDigital l n (modArr (popProduct a s) a fun u => { u with dig := some p }) := rfl

theorem countDigital_touches (a : Nat) (l : LaunchS) (n : Nat) (s : State) : Touches [.ctxs] a s (countDigital l n s) := by
  unfold countDigital
  dsimp only
  split
  · exact modCtx_touches (by simp) ..
  · exact ((modCtx_touches (by simp) a ..).trans (modCtx_touches (by simp) a ..)).trans (modCtx_touches (by simp) a ..)

theorem countDigital_arr (a : Nat) (l : LaunchS) (n : Nat) (s : State) : arr (countDigital l n s) a = arr s a := by
  unfold countDigital
  dsimp only
  split <;> rfl

/-- The counts of a digital product: HST_CTX_FB, and the step's record unless its launch is an INTERVAL (R173, R187). -/
theorem countDigital_counts (l : LaunchS) (n : Nat) (s : State) :
    (ctxU (countDigital l n s) l.ctx).fb = satWord (ctxU s l.ctx).fb 1
      ∧ (ctxU (countDigital l n s) l.ctx).sealSt.fbCount
        = (ctxU s l.ctx).sealSt.fbCount + (if l.kind = 4#4 then 0 else 1) := by
  unfold countDigital
  dsimp only
  by_cases hk : l.kind = 4#4
  · rw [if_pos hk, if_pos hk, ctxU_modCtx_same]
    exact ⟨rfl, rfl⟩
  · rw [if_neg hk, if_neg hk, modLayer, ctxU_modCtx_same, modSeal, ctxU_modCtx_same, ctxU_modCtx_same]
    exact ⟨rfl, rfl⟩

theorem startDigital_arr {s : State} {a : Nat} {p : Product} {rest : List Product} (hq : (arr s a).queue = p :: rest)
    (l : LaunchS) (n : Nat) : arr (startDigital a p l n s) a = { arr s a with queue := rest, dig := some p } := by
  rw [startDigital_eq, countDigital_arr, arr_modArr_same, popProduct_arr hq]

theorem startDigital_touches (a : Nat) (p : Product) (l : LaunchS) (n : Nat) (s : State) :
    Touches [.ctxs] a s (startDigital a p l n s) :=
  (((popProduct_touches a s).mono (by simp)).trans (.modArr ..)).trans (countDigital_touches a l n _)

/-! ### A read (R45 to R49, R57) -/

/-- floor(n / 2^r + 1/2), as the neutral gain and offset give it (R48). -/
theorem dyFloor_neutral (n r : Nat) : dyFloor (dyAdd (dyMul ⟨1024, -10⟩ ⟨(n : Int), -(r : Int)⟩) ⟨8, -4⟩)
    = ((2 * n + 2 ^ r) / 2 ^ (r + 1) : Nat) := by
  have hmin : min (-10 + -(r : Int)) (-4) = -((10 + r : Nat) : Int) := by omega
  have hzero : (-10 + -(r : Int) - -((10 + r : Nat) : Int)).toNat = 0 := by omega
  have hshift : (-4 - -((10 + r : Nat) : Int)).toNat = r + 6 := by omega
  have hneg : ¬ 0 ≤ -((10 + r : Nat) : Int) := by omega
  have hscale : (1024 * (n : Int) * 1 + 8 * ((2 ^ (r + 6) : Nat) : Int)) = ((512 * (2 * n + 2 ^ r) : Nat) : Int) := by
    push_cast
    ring
  have hden : 2 ^ (10 + r) = 512 * 2 ^ (r + 1) := by ring
  simp only [dyMul, dyAdd, dyFloor, hmin, hzero, hshift, if_neg hneg, neg_neg, Int.toNat_natCast, pow2, pow_zero, Nat.cast_one]
  rw [hscale, hden, ← Int.natCast_ediv, Nat.mul_div_mul_left _ _ (by decide)]

/-- A column with neutral trims reads its sum to the nearest code, 63 at most (R48). -/
theorem convert_neutral {u : ArrU} (h : u.trims = []) (p n r : Nat) :
    convert u p ⟨Int.ofNat n, -(Int.ofNat r)⟩ = min 63 ((2 * n + 2 ^ r) / 2 ^ (r + 1)) := by
  have htrim : tget 0#16 u.trims (converterOf u p) = 0#16 := by
    rw [h]
    rfl
  have hconv : convert u p ⟨(n : Int), -(r : Int)⟩
      = let v := dyFloor (dyAdd (dyMul ⟨1024, -10⟩ ⟨(n : Int), -(r : Int)⟩) ⟨8, -4⟩)
        if v < 0 then 0 else min 63 v.toNat := by
    unfold convert
    rw [htrim]
    rfl
  refine hconv.trans ?_
  simp only [dyFloor_neutral, (Int.natCast_nonneg _).not_gt, if_false, Int.toNat_natCast]

/-- Trims that wait take effect at a read; with none held the array is as it was. -/
theorem applyTrims_none {u : ArrU} (h : u.trimHeld = []) : applyTrims u = u := by
  rw [applyTrims, h, List.foldl_nil, ← h]

/-- With no deviation a column's input is its sum (R47). -/
theorem input_exact (n r : Nat) : dyAdd ⟨Int.ofNat n, -(Int.ofNat r)⟩ (dyMul (deviation [] 0) ⟨1, -(Int.ofNat r)⟩)
    = ⟨Int.ofNat n, -(Int.ofNat r)⟩ := by
  simp [dyAdd, dyMul, deviation, pow2]

theorem readCodes_length (u : ArrU) (p : Product) (plane i : Nat) (dev : List (Nat × Dy)) : (readCodes u p plane i dev).length = 528 := by
  simp [readCodes]

/-- The codes of a read with neutral trims and no deviation (R48). -/
theorem readCodes_neutral {u : ArrU} (h : u.trims = []) (p : Product) (plane i : Nat) {c : Nat} (hc : c < 528) :
    (readCodes u p plane i []).getD c 0 = min 63 ((2 * columnSum u (drivenRows (arrSpan u) p.inN plane i
      (p.spans.getD i ⟨0, []⟩)) c + 2 ^ arrRange u) / 2 ^ (arrRange u + 1)) := by
  rw [readCodes, getD_map_range hc]
  exact (congrArg (convert u c) (input_exact _ _)).trans (convert_neutral h c _ _)

/-- The next read of a product whose array is ACTIVE, with no failed read and no trims held. -/
theorem driveRead_arr {s : State} {a : Nat} {p : Product} (hcur : (arr s a).cur = some p) (hplane : p.plane < planeCount p.inN)
    (hfailed : (arr s a).failed = none) (hmode : arrMode (arr s a) = 0) (htrims : (arr s a).trimHeld = []) (dev : List (Nat × Dy)) :
    arr (driveRead a dev s) a = { arr s a with
      cur := some (if p.span + 1 < p.spans.length then { p with span := p.span + 1 }
        else { p with span := 0, plane := p.plane + 1 })
      flight := (arr s a).flight ++ [⟨p.plane, p.span, readCodes (arr s a) p p.plane p.span dev⟩]
      reads := satWord (arr s a).reads 1 } := by
  rw [driveRead, arr_modArr_same]
  simp only [hcur, hfailed, hmode, Nat.not_le.2 hplane, Option.isSome_none, applyTrims_none htrims, decide_false, Bool.false_and,
    Bool.or_self, bne_self_eq_false, Bool.false_eq_true, if_false]

/-! ### The compare (R50 to R55) -/

/-- What the compare notes: CLIP and ZERO in the error word, and the count of clipped reads. -/
theorem noteCompare_fields (v : Verdict) (u : ArrU) : ∃ e n, noteCompare v u = { u with err := e, clipCnt := n }
    ∧ (v.clip = true → bit e 2 = true ∧ n = satWord u.clipCnt 1) ∧ (v.clip = false → n = u.clipCnt)
    ∧ (v.zero = true → bit e 3 = true) := by
  cases hclip : v.clip <;> cases hzero : v.zero <;> simp only [noteCompare, hclip, hzero, Bool.false_eq_true, if_false, if_true]
  · exact ⟨u.err, u.clipCnt, rfl, by simp, by simp, by simp⟩
  · exact ⟨setBit u.err 3, u.clipCnt, rfl, by simp, by simp, fun _ => bit_setBit _ (by decide)⟩
  · exact ⟨setBit u.err 2, satWord u.clipCnt 1, rfl, fun _ => ⟨bit_setBit _ (by decide), rfl⟩, by simp, by simp⟩
  · exact ⟨setBit (setBit u.err 2) 3, satWord u.clipCnt 1, rfl,
      fun _ => ⟨bit_setBit_of_bit _ (bit_setBit _ (by decide)), rfl⟩, by simp, fun _ => bit_setBit _ (by decide)⟩

theorem compareOldest_touches (a : Nat) (s : State) : Touches [] a s (compareOldest a s) := .modArr ..

theorem driveRead_touches (a : Nat) (dev : List (Nat × Dy)) (s : State) : Touches [] a s (driveRead a dev s) := .modArr ..

section
variable {s : State} {a : Nat} {p : Product} {r : ReadRes} {rest : List ReadRes} (hcur : (arr s a).cur = some p)
  (hflight : (arr s a).flight = r :: rest)
include hcur hflight

/-- The compare of the oldest read, none having failed before it: it is released, or waits for its re-read. -/
theorem compareOldest_first (hfailed : (arr s a).failed = none) : arr (compareOldest a s) a
    = let v := compareRead (arr s a) r.codes
      let u := noteCompare v { arr s a with flight := rest }
      if v.pass then { u with cur := some (releaseRead u r p) } else { u with failed := some r } := by
  rw [compareOldest, arr_modArr_same]
  simp only [hcur, hflight, hfailed, Option.isNone_none, if_true]

/-- Behind a failed read the compare's verdict is held with the read. -/
theorem compareOldest_behind {f : ReadRes} (hfailed : (arr s a).failed = some f) (hroom : (arr s a).behind.length < 2) :
    arr (compareOldest a s) a = noteCompare (compareRead (arr s a) r.codes) { arr s a with
      flight := rest, behind := (arr s a).behind ++ [(r, (compareRead (arr s a) r.codes).pass)] } := by
  rw [compareOldest, arr_modArr_same]
  simp only [hcur, hflight, hfailed, Option.isNone_some, Bool.false_eq_true, if_false, if_pos hroom]

end

/-- A released read adds to its own span's sums alone. -/
theorem releaseRead_fields (u : ArrU) (r : ReadRes) (p : Product) : let q := releaseRead u r p
    q.plane = p.plane ∧ q.span = p.span ∧ q.acc.length = p.acc.length ∧ ∀ i, i ≠ r.span → q.acc[i]? = p.acc[i]? := by
  simp only [releaseRead, List.length_set, true_and]
  exact fun i hi => List.getElem?_set_ne hi.symm

/-! ### The re-read (R55, R56) -/

/-- Held reads go on with the product, the failed read and the reads behind it alone. -/
theorem releaseHeld_fields (xs : List (ReadRes × Bool)) (u : ArrU) :
    ∃ c f b, releaseHeld xs u = { u with cur := c, failed := f, behind := b } := by
  induction xs generalizing u with
  | nil => exact ⟨_, _, _, rfl⟩
  | cons x xs ih =>
    obtain ⟨r, pass⟩ := x
    cases pass with
    | false => exact ⟨_, _, _, rfl⟩
    | true =>
      obtain ⟨c, f, b, h⟩ := ih { u with cur := u.cur.map (releaseRead u r) }
      exact ⟨c, f, b, h⟩

/-- Reads that all passed are all released. -/
theorem releaseHeld_all {xs : List (ReadRes × Bool)} (h : ∀ x, x ∈ xs → x.2 = true) (u : ArrU) :
    (releaseHeld xs u).failed = u.failed ∧ (releaseHeld xs u).behind = [] := by
  induction xs generalizing u with
  | nil => exact ⟨rfl, rfl⟩
  | cons x xs ih =>
    obtain ⟨r, pass⟩ := x
    obtain ⟨hpass, hrest⟩ := List.forall_mem_cons.1 h
    obtain rfl : pass = true := hpass
    exact ih hrest _

/-- The verdict of a re-read. -/
def reReadVerdict (u : ArrU) (p : Product) (f : ReadRes) (dev : List (Nat × Dy)) : Verdict :=
  compareRead (applyTrims u) (readCodes (applyTrims u) p f.plane f.span dev)

/-- An array once a re-read has been compared. -/
def reReadNoted (u : ArrU) (v : Verdict) : ArrU := noteCompare v { applyTrims u with reads := satWord (applyTrims u).reads 1 }

/-- A re-read changes the trims, the error bits, the clip count and the count of reads, whatever it finds. -/
theorem reReadNoted_fields (u : ArrU) (v : Verdict) : ∃ e n t, reReadNoted u v
    = { u with trims := t, trimHeld := [], err := e, clipCnt := n, reads := satWord u.reads 1 } := by
  obtain ⟨e, n, h, -⟩ := noteCompare_fields v { applyTrims u with reads := satWord (applyTrims u).reads 1 }
  exact ⟨e, n, _, h⟩

/-- The product goes on with a re-read that passed, and the held reads with it. -/
def releaseReRead (q : Product) (u : ArrU) : ArrU :=
  releaseHeld u.behind { u with cur := some q, failed := none, err := setBit u.err 0, evcnt := satFld u.evcnt 31 16 1 }

theorem releaseReRead_fields (q : Product) (u : ArrU) : ∃ c f b, releaseReRead q u = { u with
    cur := c, failed := f, behind := b, err := setBit u.err 0, evcnt := satFld u.evcnt 31 16 1 } := by
  obtain ⟨c, f, b, h⟩ := releaseHeld_fields u.behind
    { u with cur := some q, failed := none, err := setBit u.err 0, evcnt := satFld u.evcnt 31 16 1 }
  exact ⟨c, f, b, h⟩

/-- The product starts again after a re-read that failed. -/
def restartReRead (u : ArrU) : ArrU := restartProduct { u with err := setBit u.err 1, evcnt := satFld u.evcnt 15 0 1 }

section
variable {s : State} {a : Nat} {p : Product} {f : ReadRes} {dev : List (Nat × Dy)} (hcur : (arr s a).cur = some p)
  (hfailed : (arr s a).failed = some f)
include hcur hfailed

theorem reReadArray_eq : reReadArray a dev s =
    let v := reReadVerdict (arr s a) p f dev
    let u := reReadNoted (arr s a) v
    if v.pass then modArr s a fun _ => releaseReRead
      (releaseRead u { f with codes := readCodes (applyTrims (arr s a)) p f.plane f.span dev } p) u
    else arrayChecksumEvent a (enterCal a 3 false (modArr s a fun _ => restartReRead u)) := by
  have hcur' : (applyTrims (arr s a)).cur = some p := hcur
  have hfailed' : (applyTrims (arr s a)).failed = some f := hfailed
  simp only [reReadArray, hcur', hfailed', reReadVerdict, reReadNoted, releaseReRead, restartReRead]

/-- A re-read that passes releases its read and the held ones up to the next that failed. -/
theorem reReadArray_pass (hpass : (reReadVerdict (arr s a) p f dev).pass = true) : let t := reReadArray a dev s
    (arr t a).flight = (arr s a).flight
      ∧ ((∀ x, x ∈ (arr s a).behind → x.2 = true) → (arr t a).failed = none ∧ (arr t a).behind = [])
      ∧ (∀ x rest, (arr s a).behind = (x, false) :: rest → (arr t a).failed = some x ∧ (arr t a).behind = rest)
      ∧ bit (arr t a).err 0 = true ∧ (arr t a).evcnt = satFld (arr s a).evcnt 31 16 1
      ∧ (arr t a).reads = satWord (arr s a).reads 1 ∧ (arr t a).state = (arr s a).state ∧ Touches [] a s t := by
  intro t
  obtain ⟨e, n, trims, hnoted⟩ := reReadNoted_fields (arr s a) (reReadVerdict (arr s a) p f dev)
  obtain ⟨q, ht⟩ : ∃ q, t = modArr s a fun _ => releaseReRead q (reReadNoted (arr s a) (reReadVerdict (arr s a) p f dev)) :=
    ⟨_, (reReadArray_eq hcur hfailed).trans (if_pos hpass)⟩
  have harr : arr t a = releaseReRead q (reReadNoted (arr s a) (reReadVerdict (arr s a) p f dev)) := by
    rw [ht, arr_modArr_same]
  have hbehind : (reReadNoted (arr s a) (reReadVerdict (arr s a) p f dev)).behind = (arr s a).behind := by rw [hnoted]
  refine ⟨?flight, fun h => ?all, fun x rest h => ?first, ?err, ?evcnt, ?reads, ?state, by rw [ht]; exact .modArr ..⟩
  case all =>
    rw [harr, releaseReRead, hbehind]
    exact releaseHeld_all h _
  case first =>
    rw [harr, releaseReRead, hbehind, h]
    exact ⟨rfl, rfl⟩
  all_goals
    obtain ⟨c, g, b, hheld⟩ := releaseReRead_fields q (reReadNoted (arr s a) (reReadVerdict (arr s a) p f dev))
    rw [harr, hheld, hnoted]
  exact bit_setBit e (by decide : 0 < 32)

end

/-- A product put back stands whole at the head of its queue, and nothing of it is left on the array. -/
theorem restartReRead_fields {u : ArrU} {p : Product} (hcur : u.cur = some p) : ∃ q, restartReRead u = { u with
    cur := none, flight := [], failed := none, behind := [], queue := q :: u.queue
    err := setBit u.err 1, evcnt := satFld u.evcnt 15 0 1 } :=
  ⟨{ p with acc := [], plane := 0, span := 0, sat := [] }, by simp only [restartReRead, restartProduct, hcur]⟩

/-- One event of a unit is within a window at most once more than before. -/
theorem eventsWithin_addEvent_le (kind : BitVec 4) (unit window : Nat) (s : State) :
    eventsWithin (addEvent kind unit s) kind unit window ≤ eventsWithin s kind unit window + 1 := by
  have hevents : (addEvent kind unit s).sec.events = s.sec.events ++ [(kind, unit, logTime s)] :=
    (addEvent_reports kind unit s).events
  have htime : logTime (addEvent kind unit s) = logTime s := (addEvent_reports kind unit s).logTime
  simp only [eventsWithin, hevents, htime, List.countP_append]
  exact Nat.add_le_add_left List.countP_le_length _

/-- Below the limit a checksum failure is an event of the array's history alone (R56, Table 10-4). -/
theorem arrayChecksumEvent_below {s : State} {a : Nat} (h : eventsWithin s 2#4 a day + 1 < fld (histCfg s) 15 8) :
    arrayChecksumEvent a s = addEvent 2#4 a s := by
  have hcfg : histCfg (addEvent 2#4 a s) = histCfg s := congrArg (fun r : RelU => r.histIn.getD r.histCfg)
    (addEvent_reports 2#4 a s).rel
  have hle := eventsWithin_addEvent_le 2#4 a day s
  unfold arrayChecksumEvent
  dsimp only
  rw [hcfg, if_neg (by omega)]

/-- A re-read that fails again: the product goes back to its queue, and the array calibrates (R56). -/
theorem reReadArray_fail {s : State} {a : Nat} {p : Product} {f : ReadRes} {dev : List (Nat × Dy)} (hcur : (arr s a).cur = some p)
    (hfailed : (arr s a).failed = some f) (hpass : (reReadVerdict (arr s a) p f dev).pass = false)
    (hlimit : eventsWithin s 2#4 a day + 1 < fld (histCfg s) 15 8) : let t := reReadArray a dev s
    ∃ e, arrMode (arr t a) = 2 ∧ fld (arr t a).state 13 11 = 3 ∧ bit (arr t a).err 1 = true
      ∧ (arr t a).evcnt = satFld (arr s a).evcnt 15 0 1 ∧ (arr t a).cur = none ∧ (arr t a).failed = none
      ∧ (arr t a).flight = [] ∧ (arr t a).queue.length = (arr s a).queue.length + 1
      ∧ t.sec.events = s.sec.events ++ [(2#4, a, e)] ∧ Touches [.mon, .sec, .host, .out] a s t := by
  intro t
  let noted := reReadNoted (arr s a) (reReadVerdict (arr s a) p f dev)
  let restarted := modArr s a fun _ => restartReRead noted
  let cal := enterCal a 3 false restarted
  have hcal : Touches [.mon] a s cal := (Touches.modArr ..).trans (enterCal_touches ..)
  have hsec : cal.sec = s.sec := hcal.only .sec (by decide)
  have hpwr : cal.pwr = s.pwr := hcal.only .pwr (by decide)
  have hevents : eventsWithin cal 2#4 a day = eventsWithin s 2#4 a day := by
    rw [eventsWithin, logTime, hsec, hpwr, eventsWithin, logTime]
  have hcfg : histCfg cal = histCfg s := congrArg (fun r : RelU => r.histIn.getD r.histCfg) (hcal.only .rel (by decide))
  have ht : t = addEvent 2#4 a cal := by
    have heq : t = arrayChecksumEvent a cal := (reReadArray_eq hcur hfailed).trans (if_neg (by rw [hpass]; decide))
    rw [heq, arrayChecksumEvent_below (by rw [hevents, hcfg]; exact hlimit)]
  have harr : arr t a = arr cal a := by
    rw [ht, (addEvent_reports 2#4 a cal).arr]
    rfl
  have hbegun : CalBegun 3 (restartReRead noted) (arr cal a) := by
    have h := enterCal_begun a 3 false restarted
    rwa [arr_modArr_same] at h
  obtain ⟨e, n, trims, hnoted⟩ := reReadNoted_fields (arr s a) (reReadVerdict (arr s a) p f dev)
  obtain ⟨q, hrestart⟩ := restartReRead_fields (u := noted) (p := p) (by simp only [noted, hnoted, hcur])
  rw [hrestart] at hbegun
  simp only [noted, hnoted] at hbegun
  rw [harr]
  refine ⟨logTime cal, hbegun.mode, hbegun.cause, ?_, hbegun.evcnt, hbegun.cur, hbegun.failed, hbegun.flight, ?_, ?_, ?_⟩
  · rw [hbegun.err]
    exact bit_setBit (i := 1) _ (by decide : 1 < 32)
  · rw [hbegun.queue, List.length_cons]
  · rw [ht, (addEvent_reports 2#4 a cal).events]
    exact congrArg (fun x : SecU => x.events ++ _) hsec
  · rw [ht]
    exact (hcal.mono (by simp)).trans (.of_only (only_mono (addEvent_only 2#4 a cal) (by simp)) (by decide))

/-! ### The end of a product (R57, R60) -/

/-- Results go to their launch's gather, and to no array. -/
theorem gatherResult_touches (a uid : Nat) (r : ProdRes) (s : State) : Touches [.launches] a s (gatherResult uid r s) :=
  .of_only (only_of_withParts rfl) (by decide)

/-- A result handed over at a product boundary for which nothing else waits: its launch gathers it, and the boundary is reached by the
array as f leaves it. -/
theorem boundary_gathered {s : State} {a uid : Nat} {r : ProdRes} {f : ArrU → ArrU} (hcur : (f (arr s a)).cur = none)
    (hstate : (f (arr s a)).state = (arr s a).state) (hdue : (f (arr s a)).dueOrder = none) (hnone : NoneWaits (f (arr s a)))
    (hmode : arrMode (arr s a) = 0) (hlive : bit (arr s a).state 17 = false)
    (hpower : regionOn (arrRegState s (clusterOfArray a)) = true) : let t := boundary a (gatherResult uid r (modArr s a f))
    arr t a = applyCfg (f (arr s a))
      ∧ t.launches = s.launches.map (fun l => if l.uid = uid then { l with gather := l.gather ++ [r] } else l)
      ∧ Touches [.launches] a s t := by
  intro t
  have harr : arr (gatherResult uid r (modArr s a f)) a = f (arr s a) := arr_modArr_same s a f
  have hat : AtBoundary (gatherResult uid r (modArr s a f)) a := by
    refine ⟨by rw [harr]; exact hcur, by rw [harr, hstate]; exact hlive, ?_, hpower⟩
    rw [harr, arrMode, hstate]
    exact hmode
  have ht : t = modArr (gatherResult uid r (modArr s a f)) a applyCfg :=
    boundary_rest hat (by rw [harr]; exact hnone) (by rw [harr]; exact hdue)
  rw [ht]
  refine ⟨by rw [arr_modArr_same, harr], rfl, ?_⟩
  exact ((Touches.modArr ..).trans (gatherResult_touches ..)).trans (.modArr ..)

/-- The outputs of a product whose last read has been released are handed over, and the array is free. -/
theorem endProduct_analogue {s : State} {a : Nat} {p : Product} (hcur : (arr s a).cur = some p) (hdig : (arr s a).dig = none)
    (hdone : productDone (arr s a) p = true) : endProduct a s
      = boundary a (gatherResult p.launch (productResult (arr s a) a p) (modArr s a fun u => { u with cur := none })) := by
  simp only [endProduct, hcur, hdig, hdone, if_true]

/-- A digital product's result says that it is digital, and whether its array is in service. -/
theorem endProduct_digital {s : State} {a : Nat} {p : Product} (hcur : (arr s a).cur = none) (hdig : (arr s a).dig = some p) :
    endProduct a s = boundary a (gatherResult p.launch ⟨a, p.token, [], [], false, true, !arrFenced s a⟩
      (modArr s a fun u => { u with dig := none })) := by
  simp only [endProduct, hcur, hdig]

/-- The head of an empty queue does not exist. -/
theorem issueProduct_empty {s : State} {a : Nat} (h : (arr s a).queue = []) : issueProduct a s = s := by
  simp only [issueProduct, h]

/-! ### The obligation -/

/-- Settles O40: each row of a product is one of the laws above. -/
theorem forwardProductRowsComplete : Obligations.ForwardProductRowsComplete := by
  unfold Obligations.ForwardProductRowsComplete
  intro s a ha u others
  refine ⟨fun p rest l c r hq hl hr hfence => ⟨fun hserve halone hwait => ?waits, fun hserve halone hcur hpower hn => ?analogue,
      fun hserve hpolicy hepoch hcap hdig hpower => ?digital, fun hserve hpolicy => ?refused⟩,
    fun hq => ?empty, fun p hcur hplane hfailed hmode htrims => ?read, fun p r rest hcur hflight hfailed => ?compare,
    fun p f r rest hcur hflight hfailed hroom => ?behind, fun p f dev hcur hfailed => ⟨fun hpass => ?pass, fun hfail hlimit => ?fail⟩,
    fun p hmode hwaitRefresh hwantRefresh hwantCal hgranted hdue hlive hpower =>
      ⟨fun hcur hdig hdone => ?ended, fun hcur hdig => ?endedDigital⟩⟩
  case waits => exact (onUnit_present ha s _).trans (congrArg _ (issueProduct_waits hq hl hr hfence hserve halone hwait))
  case analogue =>
    obtain ⟨harr, htouch⟩ := startAnalogue_complete hq hn (a := a)
    exact ⟨_, _, (onUnit_present ha s _).trans (congrArg _ (issueProduct_analogue hq hl hr hfence hserve halone hcur hpower)),
      harr, by
        obtain ⟨h1, h2, h3, h4, h5, h6, h7⟩ := stage_product (arrSpan u) (rowsUsed s a) p
        exact ⟨h1, h2, h3, h4, h5, h6, h7, htouch.others, htouch.only⟩⟩
  case digital =>
    obtain ⟨hfb, hcount⟩ := countDigital_counts l (lNum r) (modArr (popProduct a s) a fun u => { u with dig := some p })
    have htouch := startDigital_touches a p l (lNum r) s
    exact ⟨_, (onUnit_present ha s _).trans
        (congrArg _ (issueProduct_digital hq hl hr hfence hserve hpolicy hepoch hcap hdig hpower)),
      startDigital_arr hq l (lNum r), hfb, hcount, htouch.others, htouch.only⟩
  case refused => exact (onUnit_present ha s _).trans (congrArg _ (issueProduct_refused hq hl hr hfence hserve hpolicy))
  case empty => exact (onUnit_present ha s _).trans (congrArg _ (issueProduct_empty hq))
  case read =>
    have htouch := driveRead_touches a [] s
    exact ⟨_, _, onUnit_present ha s _, driveRead_arr hcur hplane hfailed hmode htrims [], readCodes_length _ _ _ _ _,
      fun hneutral c hc => readCodes_neutral hneutral p p.plane p.span hc, htouch.others, htouch.only⟩
  case compare =>
    intro v
    have htouch := compareOldest_touches a s
    have harr := compareOldest_first hcur hflight hfailed
    obtain ⟨e, n, hnoted, hclip, hclean, hzero⟩ := noteCompare_fields v { u with flight := rest }
    have hfields : ∃ x y, arr (compareOldest a s) a = { u with flight := rest, err := e, clipCnt := n, cur := x, failed := y }
        ∧ (v.pass = true → y = none ∧ ∃ p', x = some p' ∧ p'.plane = p.plane ∧ p'.span = p.span
            ∧ p'.acc.length = p.acc.length ∧ ∀ i, i ≠ r.span → p'.acc[i]? = p.acc[i]?)
        ∧ (v.pass = false → y = some r ∧ x = some p) := by
      cases hpass : v.pass with
      | true =>
        refine ⟨_, u.failed, harr.trans ((if_pos hpass).trans (by rw [hnoted])), fun _ => ⟨hfailed, _, rfl, ?_⟩, by simp⟩
        exact releaseRead_fields _ r p
      | false =>
        exact ⟨u.cur, _, harr.trans ((if_neg (by rw [hpass]; decide)).trans (by rw [hnoted])), by simp, fun _ => ⟨rfl, hcur⟩⟩
    obtain ⟨x, y, hfields, hpass, hfail⟩ := hfields
    refine ⟨_, onUnit_present ha s _, ?_⟩
    rw [hfields]
    exact ⟨rfl, hpass, hfail, hclip, hclean, hzero, rfl, rfl, htouch.others, htouch.only⟩
  case behind =>
    have htouch := compareOldest_touches a s
    have harr := compareOldest_behind hcur hflight hfailed hroom
    obtain ⟨e, n, hnoted, hclip, hclean, -⟩ := noteCompare_fields (compareRead u r.codes)
      { u with flight := rest, behind := u.behind ++ [(r, (compareRead u r.codes).pass)] }
    refine ⟨_, onUnit_present ha s _, ?_⟩
    rw [harr, hnoted]
    refine ⟨rfl, rfl, hfailed, hcur, ?_, htouch.others, htouch.only⟩
    cases hc : (compareRead u r.codes).clip with
    | true => exact (hclip hc).2
    | false => exact hclean hc
  case pass =>
    obtain ⟨h1, h2, h3, h4, h5, h6, h7, htouch⟩ := reReadArray_pass hcur hfailed hpass
    exact ⟨_, onUnit_present ha s _, h1, h2, h3, h4, h5, h6, h7, htouch.others, htouch.only⟩
  case fail =>
    obtain ⟨e, h1, h2, h3, h4, h5, h6, h7, h8, h9, htouch⟩ := reReadArray_fail hcur hfailed hfail hlimit
    exact ⟨_, e, onUnit_present ha s _, h1, h2, h3, h4, h5, h6, h7, h8, h9, htouch.others, htouch.only⟩
  case ended =>
    obtain ⟨harr, hlaunches, htouch⟩ := boundary_gathered (s := s) (a := a) (uid := p.launch) (r := productResult u a p)
      (f := fun u => { u with cur := none }) rfl rfl hdue ⟨hwaitRefresh, hwantRefresh, hwantCal, hgranted⟩ hmode hlive hpower
    refine ⟨_, (onUnit_present ha s _).trans (congrArg _ (endProduct_analogue hcur hdig hdone)), ?_⟩
    rw [harr]
    exact ⟨rfl, rfl, rfl, hlaunches, htouch.others, htouch.only⟩
  case endedDigital =>
    obtain ⟨harr, hlaunches, htouch⟩ := boundary_gathered (s := s) (a := a) (uid := p.launch)
      (r := ⟨a, p.token, [], [], false, true, !arrFenced s a⟩) (f := fun u => { u with dig := none })
      hcur rfl hdue ⟨hwaitRefresh, hwantRefresh, hwantCal, hgranted⟩ hmode hlive hpower
    refine ⟨_, (onUnit_present ha s _).trans (congrArg _ (endProduct_digital hcur hdig)), ?_⟩
    rw [harr]
    exact ⟨rfl, hlaunches, htouch.others, htouch.only⟩

end Sys2Proof.Laws

/-! PROOFS. What a recall and a fence leave of the spares of an array: they undo launches, send messages and store bytes, and no spare
converter, no permanent unit and no command in flight changes (R67, R277). -/

namespace Sys2Proof.Laws
open Sys2Proof.Machine Sys2Proof.Safety

/-- v has the spares of u, and every error bit of u. -/
structure SparesKept (u v : ArrU) : Prop where
  spareMap : v.spareMap = u.spareMap
  err : ∀ i, bit u.err i = true → bit v.err i = true

theorem SparesKept.refl (u : ArrU) : SparesKept u u := ⟨rfl, fun _ h => h⟩

theorem SparesKept.trans {u v w : ArrU} (h : SparesKept u v) (h2 : SparesKept v w) : SparesKept u w :=
  ⟨h2.spareMap.trans h.spareMap, fun i hi => h2.err i (h.err i hi)⟩

/-- From s to t the commands in flight are the same, every permanent unit stays permanent, and every array keeps its spares and its error
bits. -/
structure LeavesSpares (s t : State) : Prop where
  running : t.host.running = s.host.running
  permanent : s.sec.permanent ⊆ t.sec.permanent
  arrays : ∀ a, SparesKept (arr s a) (arr t a)

namespace LeavesSpares
variable {s t u : State}

theorem refl (s : State) : LeavesSpares s s := ⟨rfl, fun _ h => h, fun _ => .refl _⟩

theorem trans (h : LeavesSpares s t) (h2 : LeavesSpares t u) : LeavesSpares s u :=
  ⟨h2.running.trans h.running, fun _ he => h2.permanent (h.permanent he), fun a => (h.arrays a).trans (h2.arrays a)⟩

/-- A change of other parts than the host interface, the unit history and the arrays. -/
theorem of_parts (hhost : t.host = s.host) (hsec : t.sec = s.sec) (harrays : t.arrays = s.arrays) : LeavesSpares s t :=
  ⟨by rw [hhost], by rw [hsec]; exact fun _ h => h, fun a => by rw [arr, arr, harrays]; exact .refl _⟩

theorem modArr {a : Nat} {f : ArrU → ArrU} (hf : SparesKept (arr s a) (f (arr s a))) : LeavesSpares s (modArr s a f) := by
  refine ⟨rfl, fun _ h => h, fun b => ?_⟩
  by_cases hb : b = a
  · subst hb
    rw [arr_modArr_same]
    exact hf
  · rw [arr_modArr_ne hb]
    exact .refl _

theorem of_reports (h : Reports s t) : LeavesSpares s t :=
  ⟨h.running, by rw [h.permanent]; exact fun _ he => he, fun a => by rw [h.arr]; exact .refl _⟩

theorem foldl {α : Type} {f : State → α → State} (hf : ∀ s x, LeavesSpares s (f s x)) (l : List α) (s : State) :
    LeavesSpares s (l.foldl f s) := by
  induction l generalizing s with
  | nil => exact .refl s
  | cons x l ih => exact (hf s x).trans (ih (f s x))

theorem ite {c : Prop} [Decidable c] (ht : LeavesSpares s t) (hu : LeavesSpares s u) : LeavesSpares s (if c then t else u) := by
  split
  · exact ht
  · exact hu

end LeavesSpares

section
variable (s : State)

theorem modCtx_leavesSpares (c : BitVec 4) (f : CtxU → CtxU) : LeavesSpares s (modCtx s c f) := .of_parts rfl rfl rfl

theorem modSeal_leavesSpares (c : BitVec 4) (f : SealS → SealS) : LeavesSpares s (modSeal s c f) := .of_parts rfl rfl rfl

theorem modFab_leavesSpares (f : FabU → FabU) : LeavesSpares s (modFab s f) := .of_parts rfl rfl rfl

theorem modPort_leavesSpares (p : Nat) (f : PortU → PortU) : LeavesSpares s (modPort s p f) := .of_parts rfl rfl rfl

theorem redErr_leavesSpares (i : Nat) : LeavesSpares s (redErr i s) := .of_parts rfl rfl rfl

theorem modRel_leavesSpares (f : RelU → RelU) : LeavesSpares s (modRel s f) := .of_parts rfl rfl rfl

theorem modLaunch_leavesSpares (uid : Nat) (f : LaunchS → LaunchS) : LeavesSpares s (modLaunch s uid f) := .of_parts rfl rfl rfl

theorem relErr_leavesSpares (i : Nat) : LeavesSpares s (relErr i s) :=
  (modRel_leavesSpares s _).trans (.of_reports (relErr_reports i s))

end

/-! ### Stores -/

theorem trimByte_leavesSpares (s : State) (x p : Nat) (high : Bool) (b : Byte) : LeavesSpares s (trimByte s x p high b) :=
  .ite (.modArr ⟨rfl, fun _ h => bit_setBit_of_bit _ h⟩) (.modArr ⟨rfl, fun _ h => h⟩)

theorem windowStore_leavesSpares (x : Nat) (bytes : List Byte) (s : State) (off : Nat) :
    LeavesSpares s (windowStore s x off bytes) := by
  induction bytes generalizing s off with
  | nil => exact .refl s
  | cons b r ih => exact (LeavesSpares.ite (trimByte_leavesSpares ..) (.refl s)).trans (ih _ _)

theorem poisonStore_leavesSpares (s : State) (a n : Nat) (poison : Bool) : LeavesSpares s (poisonStore s a n poison) := by
  refine .foldl (fun t g => ?_) _ s
  have hset : LeavesSpares t (setPoison t g) := .of_parts rfl rfl rfl
  have hclear : LeavesSpares t (clearPoison t g) := .of_parts rfl rfl rfl
  exact .ite hset (.ite hclear (.refl t))

theorem storeBytes_leavesSpares (s : State) (a : Nat) (bytes : List Byte) (poison : Bool) :
    LeavesSpares s (storeBytes s a bytes poison) := by
  unfold storeBytes localWrite markedWrite
  split
  · exact .refl s
  split
  · exact .refl s
  split
  · exact windowStore_leavesSpares _ _ s _
  · refine .trans ?_ (poisonStore_leavesSpares _ _ _ _)
    exact .of_parts rfl rfl rfl

/-! ### Messages -/

theorem sendMsg_leavesSpares (vc : Nat) (d : DevId) (m : Msg) (s : State) : LeavesSpares s (sendMsg vc d m s) := by
  unfold sendMsg
  split
  · exact .of_parts rfl rfl rfl
  · exact modFab_leavesSpares s _

theorem withdrawOffer_leavesSpares (c : BitVec 4) (s : State) : LeavesSpares s (withdrawOffer c s) := by
  unfold withdrawOffer
  dsimp only
  split
  · exact .refl s
  · refine .ite (.refl s) ?_
    have hopen : LeavesSpares s (if sealState (ctxU s c) = 2 then setSealState c 1 s else s) :=
      .ite (modCtx_leavesSpares s c _) (.refl s)
    have hoffer := hopen.trans (modSeal_leavesSpares _ c fun x => { x with offered := false })
    exact .ite hoffer ((hoffer.trans (modSeal_leavesSpares _ c _)).trans (sendMsg_leavesSpares ..))

theorem outstanding_leavesSpares (c : BitVec 4) (unc : Bool) (s : State) : LeavesSpares s (outstanding c unc s) :=
  (modSeal_leavesSpares s c _).trans (withdrawOffer_leavesSpares c _)

theorem lateDetection_leavesSpares (c : BitVec 4) (s : State) : LeavesSpares s (lateDetection c s) :=
  .ite ((modSeal_leavesSpares s c _).trans (withdrawOffer_leavesSpares c _)) (.refl s)

theorem sendRecalls_leavesSpares (l : LaunchS) (d : DevId) (ts : List (BitVec 14)) (s : State) :
    LeavesSpares s (sendRecalls l d ts s) := .foldl (fun _ _ => sendMsg_leavesSpares ..) _ s

/-! ### Caravans -/

theorem setCv_leavesSpares (v : Caravan) (s : State) : LeavesSpares s (setCv v s) :=
  (modFab_leavesSpares s _).trans (storeBytes_leavesSpares _ _ _ _)

theorem cvFault_leavesSpares (v : Caravan) (s : State) : LeavesSpares s (cvFault v s) :=
  ((setCv_leavesSpares _ s).trans (redErr_leavesSpares _ 2)).trans (outstanding_leavesSpares v.ctx true _)

theorem cvSend_leavesSpares (v : Caravan) (gather half : Bool) (hop tile rowmap : Nat) (blocks : List Byte) (s : State) :
    LeavesSpares s (cvSend v gather half hop tile rowmap blocks s) := by
  unfold cvSend
  extract_lets poison p dst
  split
  · exact modFab_leavesSpares s _
  next q _ =>
  extract_lets s1 s2
  have h1 : LeavesSpares s s1 := modPort_leavesSpares s q _
  have h2 : LeavesSpares s1 s2 := modPort_leavesSpares s1 q _
  exact (h1.trans h2).trans (modFab_leavesSpares s2 _)

theorem cvFinal_leavesSpares (v : Caravan) (t : Nat) (half : Bool) (rowmap : Nat) (blocks : List Byte) (s : State) :
    LeavesSpares s (cvFinal v t half rowmap blocks s) := by
  unfold cvFinal
  extract_lets nb row0 rows bs r heads inv nsat
  have hr : LeavesSpares s r :=
    .foldl (fun _ _ => (storeBytes_leavesSpares _ _ _ _).trans (storeBytes_leavesSpares _ _ _ _)) _ s
  refine .ite hr ?_
  split
  · exact hr
  next w _ =>
  extract_lets w1 w2 s1 s2 s3
  have h1 : LeavesSpares s s1 := hr.trans (setCv_leavesSpares w2 r)
  have h2 : LeavesSpares s1 s2 :=
    .ite (.refl s1) (((modFab_leavesSpares s1 _).trans (modSeal_leavesSpares _ _ _)).trans (redErr_leavesSpares _ 7))
  have h3 : LeavesSpares s2 s3 := .ite (.refl s2) (redErr_leavesSpares s2 8)
  exact ((h1.trans h2).trans h3).trans (.ite (redErr_leavesSpares s3 9) (.refl s3))

theorem startChain_leavesSpares (v : Caravan) (t : Nat) (s : State) : LeavesSpares s (startChain v t s) := by
  unfold startChain
  extract_lets n s1
  have hnote : LeavesSpares s s1 := .of_parts rfl rfl rfl
  exact hnote.trans (.foldl (fun x _ => .ite (cvFinal_leavesSpares _ _ _ _ _ x) (cvSend_leavesSpares _ _ _ _ _ _ _ x)) _ s1)

theorem restartAt_leavesSpares (v : Caravan) (gen : Nat) (send : Bool) (s : State) : LeavesSpares s (restartAt v gen send s) := by
  unfold restartAt
  refine .ite ((cvFault_leavesSpares v s).trans (redErr_leavesSpares _ 5)) ?_
  extract_lets w s1 s2 others s3
  have h2 : LeavesSpares s s2 := (setCv_leavesSpares w s).trans (storeBytes_leavesSpares _ _ _ _)
  have h3 : LeavesSpares s2 s3 := .ite (.foldl (fun _ _ => sendMsg_leavesSpares ..) others s2) (.refl s2)
  exact (h2.trans h3).trans (.foldl (fun _ _ => startChain_leavesSpares ..) _ s3)

/-! ### The work of a launch -/

theorem discardAll_leavesSpares (s : State) (bad : Queued → Bool) : LeavesSpares s (discardAll s bad) := by
  refine .foldl (fun t k => ?_) _ s
  have hcore (f : CoreU → CoreU) : LeavesSpares t (modCore t k f) := .of_parts rfl rfl rfl
  exact .ite (hcore _) (.refl t)

/-- An array that is not in the table reads its reset value, and products dropped leave that as it is. -/
theorem arr_dropAllProducts (s : State) (bad : Nat → Bool) (a : Nat) :
    arr (dropAllProducts s bad) a = arr s a ∨ arr (dropAllProducts s bad) a = dropProducts bad (arr s a) := by
  unfold dropAllProducts arr
  dsimp only
  induction s.arrays with
  | nil => exact .inl rfl
  | cons e l ih =>
    by_cases he : e.1 = a
    · exact .inr (by simp [tget, he])
    · simpa [tget, he] using ih

theorem dropAllProducts_leavesSpares (s : State) (bad : Nat → Bool) : LeavesSpares s (dropAllProducts s bad) := by
  refine ⟨rfl, fun _ h => h, fun a => ?_⟩
  obtain h | h := arr_dropAllProducts s bad a
  · rw [h]
    exact .refl _
  · rw [h]
    exact ⟨rfl, fun _ hi => hi⟩

theorem clearRowList_leavesSpares (l : Layer) (s : State) : LeavesSpares s (clearRowList l s) :=
  (storeBytes_leavesSpares _ _ _ _).trans (storeBytes_leavesSpares _ _ _ _)

theorem dropStaging_leavesSpares (c : BitVec 4) (ns : List (BitVec 12)) (s : State) : LeavesSpares s (dropStaging c ns s) := by
  refine .foldl (fun t n => ?_) ns s
  split
  · exact (clearRowList_leavesSpares _ t).trans (modCtx_leavesSpares _ c _)
  · exact .refl t

theorem unstage_leavesSpares (c : BitVec 4) (ns : List (BitVec 12)) (s : State) : LeavesSpares s (unstage c ns s) :=
  (dropStaging_leavesSpares c ns s).trans (.foldl (fun t _ => modCtx_leavesSpares t c _) ns _)

theorem dropUpdate_leavesSpares (l : LaunchS) (s : State) : LeavesSpares s (dropUpdate l s) := by
  unfold dropUpdate
  split
  · exact .refl s
  · split
    · exact .foldl (fun t k => (.of_parts rfl rfl rfl : LeavesSpares t (modClus t k _))) _ s
    · exact .refl s

/-! ### Recall (R277, R282, R283) -/

theorem recallOne_leavesSpares (send : Bool) (uid : Nat) (s : State) : LeavesSpares s (recallOne send uid s) := by
  unfold recallOne
  split
  · exact .refl s
  next l _ =>
  refine .ite (.refl s) ?_
  extract_lets s1 s2 s3 s4 s5 s6 cfg hold outs s7 s8 s9 tooMany s10
  have h2 : LeavesSpares s s2 := (discardAll_leavesSpares s _).trans (dropAllProducts_leavesSpares s1 _)
  have h4 : LeavesSpares s2 s4 := .of_parts rfl rfl rfl
  have h5 : LeavesSpares s4 s5 := (unstage_leavesSpares ..).trans (dropUpdate_leavesSpares l _)
  have h6 : LeavesSpares s5 s6 := modRel_leavesSpares ..
  have h7 : LeavesSpares s6 s7 := .ite (.refl s6) (.foldl (fun _ _ => sendRecalls_leavesSpares ..) outs s6)
  have h8 : LeavesSpares s7 s8 := .ite (outstanding_leavesSpares ..) (modSeal_leavesSpares ..)
  have h10 : LeavesSpares s8 s10 := (modSeal_leavesSpares ..).trans (modLaunch_leavesSpares ..)
  have hwork : LeavesSpares s s10 := (((((h2.trans h4).trans h5).trans h6).trans h7).trans h8).trans h10
  exact hwork.trans (.ite ((relErr_leavesSpares s10 6).trans (outstanding_leavesSpares ..)) (.refl s10))

theorem zeroCountWords_leavesSpares (v : Caravan) (numbers : List (BitVec 16)) (s : State) :
    LeavesSpares s (zeroCountWords v numbers s) := by
  unfold zeroCountWords
  split
  · exact .refl s
  · exact .foldl (fun _ _ => storeBytes_leavesSpares _ _ _ _) _ s

theorem recallMany_leavesSpares (uids : List Nat) (others : List Caravan) (s : State) :
    LeavesSpares s (recallMany uids others s) := by
  have hall (l : List Nat) (t : State) : LeavesSpares t (l.foldl (fun s u => recallOne true u s) t) :=
    .foldl (fun _ _ => recallOne_leavesSpares ..) l t
  refine .trans (hall uids s) (.foldl (fun t v => ?_) _ _)
  exact ((zeroCountWords_leavesSpares ..).trans (restartAt_leavesSpares ..)).trans (hall _ _)

theorem recallDetected_leavesSpares (uid : Nat) (s : State) : LeavesSpares s (recallDetected uid s) := by
  unfold recallDetected
  split
  · exact .refl s
  · exact (recallMany_leavesSpares [uid] [] s).trans (lateDetection_leavesSpares ..)

end Sys2Proof.Laws

/-! PROOFS. The triggers of a calibration: by reads, by time, by temperature, and by a slot that comes free (R61 to R63, Table 2-9). -/

namespace Sys2Proof.Laws
open Sys2Proof.Machine Sys2Proof.Safety

/-! ### A trigger that waits -/

/-- An array with a periodic trigger of a cause pending, the n-th of the module. -/
def pended (n cause : Nat) (u : ArrU) : ArrU :=
  { u with dueOrder := some n, pendCause := BitVec.ofNat 3 cause, pendPeriodic := true, state := setBit u.state 14 }

theorem pendTrigger_arr (a cause : Nat) (s : State) : arr (pendTrigger a cause s) a = pended s.dueSeq cause (arr s a) :=
  arr_modArr_same { s with dueSeq := s.dueSeq + 1 } a (pended s.dueSeq cause)

theorem pendTrigger_touches (a cause : Nat) (s : State) : Touches [.counters] a s (pendTrigger a cause s) :=
  .trans (.of_only (ps := [.counters]) (only_of_withParts rfl) (by decide)) (.modArr _ a (pended s.dueSeq cause) _)

/-- A pending trigger shows as CAL_PENDING alone. -/
theorem pended_state (n cause : Nat) (u : ArrU) : bit (pended n cause u).state 14 = true ∧ arrMode (pended n cause u) = arrMode u :=
  ⟨bit_setBit (i := 14) _ (by decide : 14 < 32), fld_setBit_ne _ (.inl (by decide))⟩

/-! ### A trigger that is met at once -/

/-- From s to t array a has begun a calibration for a cause, with its image as it was (R63). -/
def CalBegins (s t : State) (a cause : Nat) : Prop := arrMode (arr t a) = 2 ∧ fld (arr t a).state 13 11 = cause
  ∧ (arr t a).cal.isSome = true ∧ (arr t a).reads = 0#32 ∧ (arr t a).image = (arr s a).image

/-- An array at its boundary with a due trigger and a slot for it begins the calibration. -/
theorem boundary_begins {s : State} {a : Nat} (h : AtBoundary s a) (hn : NoneWaits (arr s a)) (hd : (arr s a).dueOrder.isSome = true)
    (hk : (arr s a).slotKept = true) : CalBegins s (boundary a s) a (arr s a).pendCause.toNat := by
  rw [boundary_due h hn hd hk]
  have hbegun := enterCal_begun a (arr s a).pendCause.toNat true (modArr s a applyCfg)
  have hcause : (arr s a).pendCause.toNat % 8 = (arr s a).pendCause.toNat := Nat.mod_eq_of_lt (arr s a).pendCause.isLt
  refine ⟨hbegun.mode, hbegun.cause.trans hcause, hbegun.cal, hbegun.reads, hbegun.image.trans ?_⟩
  rw [arr_modArr_same]
  rfl

/-- The array as a periodic trigger with a free slot leaves it to its boundary. -/
def triggered (n cause : Nat) (u : ArrU) : ArrU :=
  { u with dueOrder := some n, pendCause := BitVec.ofNat 3 cause, pendPeriodic := true, slotKept := true
           state := putBit (setBit u.state 14) 14 (bit u.state 14) }

/-- What an idle array's boundary asks of its state word is untouched by the trigger. -/
theorem triggered_state (n cause : Nat) (u : ArrU) {hi lo : Nat} (h : hi < 14 ∨ 14 < lo) :
    fld (triggered n cause u).state hi lo = fld u.state hi lo :=
  (fld_putBit_ne _ _ h).trans (fld_setBit_ne _ h)

theorem triggered_bit (n cause : Nat) (u : ArrU) {i : Nat} (h : i ≠ 14) : bit (triggered n cause u).state i = bit u.state i :=
  (bit_putBit_ne _ _ h).trans (bit_setBit_ne _ h)

theorem triggered_fields (n cause : Nat) (u : ArrU) : ∃ w, triggered n cause u = { u with
    dueOrder := some n, pendCause := BitVec.ofNat 3 cause, pendPeriodic := true, slotKept := true, state := w } := ⟨_, rfl⟩

/-- A periodic trigger takes a free slot of its cluster for an idle array. -/
theorem periodicTrigger_now {s : State} {a : Nat} (hidle : idleActive s a = true) (hslot : slotFree s (clusterOfArray a) = true)
    (cause : Nat) : ∃ t, periodicTrigger a cause s = boundary a t ∧ arr t a = triggered s.dueSeq cause (arr s a)
      ∧ Touches [.counters] a s t := by
  obtain ⟨hfence, hdue, hmode, -⟩ := idleActive_iff.1 hidle
  refine ⟨modArr (pendTrigger a cause s) a fun x => { x with slotKept := true, state := putBit x.state 14 (bit (arr s a).state 14) },
    ?_, ?_, (pendTrigger_touches a cause s).trans (.modArr ..)⟩
  · unfold periodicTrigger
    simp only [live_of_inService hfence, hdue, hmode, hslot, Option.isSome_none, Bool.or_self, Bool.false_eq_true, if_false,
      decide_true, Bool.and_self, if_true, decide_false, OfNat.zero_ne_ofNat]
  · simp only [arr_modArr_same, pendTrigger_arr, pended, triggered]

/-- A periodic trigger with a free slot begins the calibration of an idle array. -/
theorem periodicTrigger_begins {s : State} {a : Nat} (hidle : idleActive s a = true) (hslot : slotFree s (clusterOfArray a) = true)
    {cause : Nat} (hcause : cause < 8) : CalBegins s (periodicTrigger a cause s) a cause := by
  obtain ⟨-, hdue, hmode, hcur, hpower, hrefresh, hwantRefresh, hwantCal, hgranted⟩ := idleActive_iff.1 hidle
  obtain ⟨t, ht, harr, htouch⟩ := periodicTrigger_now hidle hslot cause
  have hsame : SameService s t := .of_only htouch.only (by decide) (by decide) (by decide)
  have hstate (hi lo : Nat) (h : hi < 14 ∨ 14 < lo) : fld (arr t a).state hi lo = fld (arr s a).state hi lo := by
    rw [harr, triggered_state _ _ _ h]
  have hbit (i : Nat) (h : i ≠ 14) : bit (arr t a).state i = bit (arr s a).state i := by
    rw [harr, triggered_bit _ _ _ h]
  obtain ⟨w, hw⟩ := triggered_fields s.dueSeq cause (arr s a)
  obtain ⟨hcur', hwantRefresh', hwantCal', hgranted', hdue', hkept, hpend, himage⟩ : (arr t a).cur = (arr s a).cur
      ∧ (arr t a).wantRefresh = (arr s a).wantRefresh ∧ (arr t a).wantCal = (arr s a).wantCal
      ∧ (arr t a).granted = (arr s a).granted ∧ (arr t a).dueOrder = some s.dueSeq ∧ (arr t a).slotKept = true
      ∧ (arr t a).pendCause = BitVec.ofNat 3 cause ∧ (arr t a).image = (arr s a).image := by
    rw [harr, hw]
    exact ⟨rfl, rfl, rfl, rfl, rfl, rfl, rfl, rfl⟩
  have hat : AtBoundary t a := ⟨hcur'.trans hcur, (hbit 17 (by decide)).trans (atBoundary_of_idle hidle).live,
    (hstate 1 0 (.inl (by decide))).trans hmode, by rw [hsame.arrRegState]; exact hpower⟩
  have hnone : NoneWaits (arr t a) := ⟨(hbit 16 (by decide)).trans hrefresh, hwantRefresh'.trans hwantRefresh,
    hwantCal'.trans hwantCal, hgranted'.trans hgranted⟩
  have hcode : (arr t a).pendCause.toNat = cause := by
    rw [hpend]
    exact Nat.mod_eq_of_lt hcause
  have hbegins := boundary_begins hat hnone (by rw [hdue']; rfl) hkept
  rw [ht]
  rwa [hcode, CalBegins, himage] at hbegins

/-- With no free slot a periodic trigger waits. -/
theorem periodicTrigger_waits {s : State} {a : Nat} (hidle : idleActive s a = true)
    (hslot : slotFree s (clusterOfArray a) = false) (cause : Nat) : periodicTrigger a cause s = pendTrigger a cause s := by
  obtain ⟨hfence, hdue, hmode, -⟩ := idleActive_iff.1 hidle
  unfold periodicTrigger
  simp only [live_of_inService hfence, hdue, hmode, hslot, Option.isSome_none, Bool.or_self, Bool.false_eq_true, if_false,
    Bool.and_false, decide_false, OfNat.zero_ne_ofNat]

theorem periodicTrigger_touches (a cause : Nat) (s : State) : Touches [.mon, .counters] a s (periodicTrigger a cause s) := by
  have hpend : Touches [.mon, .counters] a s (pendTrigger a cause s) := (pendTrigger_touches a cause s).mono (by simp)
  unfold periodicTrigger
  dsimp only
  split
  · exact .refl ..
  split
  · exact (hpend.trans (.modArr ..)).trans ((boundary_touches a _).mono (by simp))
  · exact hpend

/-! ### A slot that comes free (R62) -/

/-- The array that fell due first begins its calibration in the slot, where nothing else waits for its boundary. -/
theorem giveSlot_begins {s : State} {c a : Nat} (hfirst : firstDue s c = some a) (hslot : slotFree s c = true) (hat : AtBoundary s a)
    (hnone : NoneWaits (arr s a)) : CalBegins s (giveSlot c s) a (arr s a).pendCause.toNat ∧ Touches [.mon] a s (giveSlot c s) := by
  have hgive : giveSlot c s
      = boundary a (modArr s a fun u => { u with slotKept := true, dueOrder := some (u.dueOrder.getD s.dueSeq) }) := by
    simp only [giveSlot, hslot, if_true, hfirst]
  rw [hgive]
  refine ⟨?_, (Touches.modArr ..).trans (boundary_touches ..)⟩
  have hbegins := boundary_begins (s := modArr s a fun u => { u with slotKept := true, dueOrder := some (u.dueOrder.getD s.dueSeq) })
    (a := a) ⟨by rw [arr_modArr_same]; exact hat.cur, by rw [arr_modArr_same]; exact hat.live,
      by rw [arr_modArr_same]; exact hat.active, hat.powered⟩
    (by rw [arr_modArr_same]; exact ⟨hnone.refresh, hnone.wantRefresh, hnone.wantCal, hnone.granted⟩)
    (by rw [arr_modArr_same]; rfl) (by rw [arr_modArr_same])
  rwa [CalBegins, arr_modArr_same] at hbegins

/-- A slot that no array waits for stays free. -/
theorem giveSlot_none {s : State} {c : Nat} (h : firstDue s c = none) : giveSlot c s = s := by
  unfold giveSlot
  rw [h]
  split <;> rfl

/-! ### Reads since the last calibration (R63) -/

theorem readsExpiry_due {s : State} {a : Nat} (h : 2 ^ fld (arr s a).calp 23 19 ≤ (arr s a).reads.toNat) :
    readsExpiry a s = periodicTrigger a 0 s := if_pos h

theorem readsExpiry_early {s : State} {a : Nat} (h : (arr s a).reads.toNat < 2 ^ fld (arr s a).calp 23 19) : readsExpiry a s = s :=
  if_neg (Nat.not_le.2 h)

/-! ### Temperature (R63, Table 12-14) -/

/-- A temperature of m quarter degrees reads as m + 256 within the sensor's range. -/
theorem tjCode_quarters {m : Int} (hlow : -256 ≤ m) (hhigh : m ≤ 767) : ((tjCode ⟨m, -2⟩).toNat : Int) = m + 256 := by
  have hscale : rneScale m 0 = m := mul_one m
  have hneg : ¬ m + 256 < 0 := by omega
  have hmin : min (m + 256).toNat 1023 = (m + 256).toNat := by omega
  have hlt : (m + 256).toNat < 2 ^ 10 := by omega
  have hcode : tjCode ⟨m, -2⟩ = BitVec.ofNat 10 (m + 256).toNat := by
    unfold tjCode
    rw [show (-2 : Int) + 2 = 0 from rfl, hscale, if_neg hneg, hmin]
  rw [hcode, BitVec.toNat_ofNat, Nat.mod_eq_of_lt hlt]
  omega

theorem heatTrigger_touches (s : State) (a tj : Nat) : Touches [.mon, .counters] a s (heatTrigger a tj s) := by
  have hpend : Touches [.mon, .counters] a s (pendTrigger a 2 s) := (pendTrigger_touches a 2 s).mono (by simp)
  unfold heatTrigger
  dsimp only
  split
  · split
    · exact hpend
    · exact .refl ..
  · split
    · exact periodicTrigger_touches ..
    · exact .refl ..

section
variable {s : State} {a tj : Nat}

/-- A reading near enough to TJ_CAL triggers no array that does not calibrate. -/
theorem heatTrigger_near (hnear : beyondDt (arr s a) tj = false) (hmode : arrMode (arr s a) ≠ 2 ∨ (arr s a).cal = none) :
    heatTrigger a tj s = s := by
  unfold heatTrigger
  dsimp only
  split
  next x hcal =>
    have hmode2 : arrMode (arr s a) ≠ 2 := hmode.resolve_right (by rw [hcal]; simp)
    simp only [hmode2, decide_false, Bool.false_and, Bool.false_eq_true, if_false]
  · rw [hnear]
    rfl

theorem heatTrigger_far (hfar : beyondDt (arr s a) tj = true) (hcal : (arr s a).cal = none) :
    heatTrigger a tj s = periodicTrigger a 2 s := by
  simp only [heatTrigger, hcal, hfar, if_true]

/-- During a calibration the reading is compared with its own TJ_CAL. -/
theorem heatTrigger_calibrating {x : CalOp} (hmode : arrMode (arr s a) = 2) (hcal : (arr s a).cal = some x)
    (hwork : outOfWork (arr s a) = false) (hdue : (arr s a).dueOrder = none) :
    heatTrigger a tj s = if apartDt (arr s a) tj x.tj.toNat then pendTrigger a 2 s else s := by
  simp only [heatTrigger, hcal, hmode, hwork, hdue, decide_true, Option.isNone_none, Bool.not_false, Bool.and_self, Bool.true_and]

end

/-- A cluster as its sensor has read a temperature, and the hottest reading of the module with it. -/
def sampled (c : Nat) (tj : BitVec 10) (s : State) : State :=
  let s := modClus s c fun x => { x with tj := tj }
  modPwr s fun p => { p with therm := setFld p.therm 25 16 (s.clusters.foldl (fun m e => max m e.2.tj.toNat) 0) }

theorem sampleTj_eq (c : Nat) (t : Dy) (s : State) : sampleTj c t s
    = ((List.range 128).map (128 * c + ·)).foldl (fun s a => heatTrigger a (tjCode t).toNat s) (sampled c (tjCode t) s) := rfl

theorem sampled_only (c : Nat) (tj : BitVec 10) (s : State) : Only [.clusters, .pwr] s (sampled c tj s) := only_of_withParts rfl

theorem sampled_clus_same (c : Nat) (tj : BitVec 10) (s : State) : clus (sampled c tj s) c = { clus s c with tj := tj } :=
  tget_tmod_same ClusterU.reset s.clusters c fun x => { x with tj := tj }

theorem sampled_clus_ne {c d : Nat} (h : d ≠ c) (tj : BitVec 10) (s : State) : clus (sampled c tj s) d = clus s d :=
  tget_tmod_ne ClusterU.reset s.clusters c d (fun x => { x with tj := tj }) h

/-- A reading moves no region and fences nothing. -/
theorem sampled_service (c : Nat) (tj : BitVec 10) (s : State) : SameService s (sampled c tj s) := by
  refine ⟨rfl, rfl, fun d => ?_⟩
  by_cases hd : d = c
  · subst hd
    rw [sampled_clus_same]
  · rw [sampled_clus_ne hd]

/-- The largest of some values under 2^10, and a bound of each. -/
theorem foldl_max_bounds (l : List (Nat × ClusterU)) (n : Nat) (hn : n < 1024) :
    let m := l.foldl (fun m e => max m e.2.tj.toNat) n
    n ≤ m ∧ m < 1024 ∧ ∀ e, e ∈ l → e.2.tj.toNat ≤ m := by
  induction l generalizing n with
  | nil => exact ⟨le_rfl, hn, by simp⟩
  | cons e l ih =>
    obtain ⟨hle, hlt, hall⟩ := ih (max n e.2.tj.toNat) (max_lt hn e.2.tj.isLt)
    refine ⟨(le_max_left ..).trans hle, hlt, List.forall_mem_cons.2 ⟨(le_max_right ..).trans hle, hall⟩⟩

/-- TJ_MAX bounds every cluster's reading. -/
theorem sampled_hottest (c : Nat) (tj : BitVec 10) (s : State) {e : Nat × ClusterU} (he : e ∈ (sampled c tj s).clusters) :
    e.2.tj.toNat ≤ fld (sampled c tj s).pwr.therm 25 16 := by
  obtain ⟨-, hlt, hall⟩ := foldl_max_bounds (sampled c tj s).clusters 0 (by decide)
  have htherm : fld (sampled c tj s).pwr.therm 25 16 = (sampled c tj s).clusters.foldl (fun m e => max m e.2.tj.toNat) 0 :=
    (fld_setFld_same _ _ (by decide) (by decide)).trans (Nat.mod_eq_of_lt hlt)
  rw [htherm]
  exact hall e he

/-- The heat trigger of an array of the sampled cluster works it in a state where nothing of its service has changed. -/
theorem sampleTj_arr {s : State} {a : Nat} (t : Dy) : ∃ x, SameService s x ∧ arr x a = arr s a
    ∧ arr (sampleTj (a / 128) t s) a = arr (heatTrigger a (tjCode t).toNat x) a := by
  have hmem : a ∈ (List.range 128).map (128 * (a / 128) + ·) :=
    List.mem_map.2 ⟨a % 128, List.mem_range.2 (Nat.mod_lt _ (by decide)), Nat.div_add_mod ..⟩
  have hnodup : ((List.range 128).map (128 * (a / 128) + ·)).Nodup := List.nodup_range.map (add_right_injective _)
  rw [sampleTj_eq]
  obtain ⟨x, honly, harr, hfold⟩ := foldl_arr_of_mem (fun s b => heatTrigger_touches s b (tjCode t).toNat) hnodup hmem
    (sampled (a / 128) (tjCode t) s)
  exact ⟨x, (sampled_service ..).trans (.of_only honly (by decide) (by decide) (by decide)), harr, hfold⟩

theorem sampleTj_only (c : Nat) (t : Dy) (s : State) :
    Only [.arrays, .mon, .counters] (sampled c (tjCode t) s) (sampleTj c t s) := by
  rw [sampleTj_eq]
  exact foldl_only (fun s b => heatTrigger_touches s b (tjCode t).toNat) _ _

end Sys2Proof.Laws

/-! PROOFS. The end of a calibration: the rotation, the trims loaded, the quality figure, and what follows a good and a bad result (R65
to R68, R292, Tables 2-9 and 2-18). -/

namespace Sys2Proof.Laws
open Sys2Proof.Machine Sys2Proof.Safety

theorem bit_of_fld_zero {n : Nat} {w : BitVec n} {hi lo i : Nat} (h : fld w hi lo = 0) (hi' : lo ≤ i ∧ i ≤ hi) : bit w i = false := by
  have htest : (fld w hi lo).testBit (i - lo) = false := by rw [h, Nat.zero_testBit]
  rwa [testBit_fld, decide_eq_true (show i - lo < hi + 1 - lo by omega), Bool.true_and, Nat.sub_add_cancel hi'.1,
    ← bit_eq_testBit] at htest

/-! ### The rotation (R67) -/

/-- One spare of the rotation: it is withdrawn where it cannot be trimmed, and takes its trim otherwise. -/
def trimSpare (a : Nat) (fit : CalFit) (scale : Nat) (r : Nat × Bool × State) (i : Nat) : Nat × Bool × State :=
  if testFails fit scale (528 + i) (arr r.2.2 a) then withdrawSpare a i r
  else (r.1, r.2.1, modArr r.2.2 a (takeTest fit scale (528 + i)))

/-- One column of the rotation: its converter is replaced where it cannot be trimmed, and takes its trim otherwise. -/
def trimColumn (a : Nat) (fit : CalFit) (scale : Nat) (r : Nat × Bool × State) (p : Nat) : Nat × Bool × State :=
  if converterOf (arr r.2.2 a) p != p then r
  else if testFails fit scale p (arr r.2.2 a) then replaceColumn a p r
  else (r.1, r.2.1, modArr r.2.2 a (takeTest fit scale p))

theorem rotate_eq (a : Nat) (fit : CalFit) (scale : Nat) (s : State) : rotate a fit scale s =
    if (freeSpares (arr s a)).isEmpty then (0, true, s)
    else
      let r := ([0, 1].filter fun i => spareField (arr s a) i != 0xFFFE).foldl (trimSpare a fit scale) (0, true, s)
      if (freeSpares (arr r.2.2 a)).isEmpty then r
      else ((List.range 528).filter fun p => fit.test.any fun e => e.1 == p).foldl (trimColumn a fit scale) r := rfl

/-- From s to t array a was written with what it already held. -/
structure Rewritten (a : Nat) (s t : State) : Prop where
  arr : arr t a = arr s a
  touches : Touches [] a s t

section
variable {a scale : Nat} {fit : CalFit}

/-- A spare that the test input shows no code of stays as it was. -/
theorem trimSpare_untested {i : Nat} (h : ∀ u, testTrim fit scale (528 + i) u = none) (n : Nat) (b : Bool) (s : State) :
    ∃ t, trimSpare a fit scale (n, b, s) i = (n, b, t) ∧ Rewritten a s t := by
  have hpass : testFails fit scale (528 + i) (arr s a) = false := by rw [testFails, h]
  refine ⟨modArr s a (takeTest fit scale (528 + i)), by simp only [trimSpare, hpass, Bool.false_eq_true, if_false], ?_, .modArr ..⟩
  rw [arr_modArr_same, takeTest, h]

theorem trimSpares_untested (h : ∀ i u, testTrim fit scale (528 + i) u = none) (l : List Nat) (n : Nat) (b : Bool) (s : State) :
    ∃ t, l.foldl (trimSpare a fit scale) (n, b, s) = (n, b, t) ∧ Rewritten a s t := by
  induction l generalizing s with
  | nil => exact ⟨s, rfl, rfl, .refl ..⟩
  | cons i l ih =>
    obtain ⟨t, ht, hsame⟩ := trimSpare_untested (h i) n b s
    obtain ⟨t', ht', hsame'⟩ := ih t
    exact ⟨t', by rw [List.foldl_cons, ht, ht'], hsame'.arr.trans hsame.arr, hsame.touches.trans hsame'.touches⟩

theorem testTrim_other {c : Nat} (h : ∀ e, e ∈ fit.test → e.1 ≠ c) (u : ArrU) : testTrim fit scale c u = none := by
  have hfind : fit.test.find? (fun e => e.1 == c) = none := List.find?_eq_none.2 fun e he => by simpa using h e he
  rw [testTrim, hfind]

/-- With no test input the rotation finds every converter sound. -/
theorem rotate_untested (hfit : fit.test = []) (s : State) :
    ∃ t, rotate a fit scale s = (0, true, t) ∧ Rewritten a s t := by
  rw [rotate_eq]
  split
  · exact ⟨s, rfl, rfl, .refl ..⟩
  · obtain ⟨t, ht, hsame⟩ := trimSpares_untested (a := a) (fit := fit) (scale := scale)
      (fun i => testTrim_other (by simp [hfit])) ([0, 1].filter fun i => spareField (arr s a) i != 0xFFFE) 0 true s
    refine ⟨t, ?_, hsame⟩
    simp only [ht, hfit, List.any_nil, List.filter_false, List.foldl_nil, ite_self]

theorem freeSpares_isEmpty {u : ArrU} {i : Nat} (h : freeSpare u = some i) : (freeSpares u).isEmpty = false := by
  have hmem : i ∈ freeSpares u := List.mem_filter.2
    ⟨List.mem_of_find?_eq_some h, List.find?_some (p := fun i => spareField u i == 0xFFFF) h⟩
  exact List.isEmpty_eq_false_iff.2 (List.ne_nil_of_mem hmem)

/-- With the test input of one column alone, whose own converter fails it, the rotation replaces that converter. -/
theorem rotate_one {s : State} {p i : Nat} {codes : List (Nat × Nat)} (hfit : fit.test = [(p, codes)]) (hp : p < 528)
    (hown : converterOf (arr s a) p = p) (hfree : freeSpare (arr s a) = some i) (hfail : testFails fit scale p (arr s a) = true) :
    ∃ t, rotate a fit scale s = replaceColumn a p (0, true, t) ∧ Rewritten a s t := by
  have hnone : (freeSpares (arr s a)).isEmpty = false := freeSpares_isEmpty hfree
  obtain ⟨t, ht, hsame⟩ := trimSpares_untested (a := a) (fit := fit) (scale := scale)
    (fun j => testTrim_other (by rw [hfit]; simp; omega)) ([0, 1].filter fun i => spareField (arr s a) i != 0xFFFE) 0 true s
  have hcolumns : ((List.range 528).filter fun q => fit.test.any fun e => e.1 == q) = [p] := by
    rw [hfit]
    simp only [List.any_cons, List.any_nil, Bool.or_false]
    simp only [BEq.comm (a := p)]
    rw [List.filter_beq, List.count_eq_one_of_mem List.nodup_range (List.mem_range.2 hp), List.replicate_one]
  refine ⟨t, ?_, hsame⟩
  rw [rotate_eq, if_neg (by rw [hnone]; decide)]
  simp only [ht, hsame.arr, hnone, Bool.false_eq_true, if_false, hcolumns, List.foldl_cons, List.foldl_nil, trimColumn, hown,
    bne_self_eq_false, hfail, if_true]

end

/-! ### The fit (R65, R66) -/

/-- The trim table of an array once the trims of a fit are written to it. -/
def loadedTrims (u : ArrU) (trims : List (Nat × Int × Int)) : Tab (BitVec 16) :=
  trims.foldl (fun t y => tset 0#16 t y.1 (trimWord y.2)) u.trims

/-- An array with the trims of a fit loaded. -/
def trimsLoaded (u : ArrU) (trims : List (Nat × Int × Int)) : ArrU := { u with trims := loadedTrims u trims }

theorem trimsLoaded_cal (u : ArrU) (trims : List (Nat × Int × Int)) : (trimsLoaded u trims).cal = u.cal := rfl

theorem trimsLoaded_trims (u : ArrU) (trims : List (Nat × Int × Int)) : (trimsLoaded u trims).trims = loadedTrims u trims := rfl

/-- What a calibration comes to once its rotation has replaced n converters and left every column one: the trims are loaded where each
lies within R49. -/
theorem calibrate_rotated {a n : Nat} {fit : CalFit} {s t : State} {x : CalOp} (hcal : (arr s a).cal = some x)
    (hrot : rotate a fit x.cti.toNat s = (n, true, t)) : calibrate a fit s =
      let u := arr t a
      let trims := fitColumns u (calPlan u) fit (freeSpares (arr s a)).length
      let loaded := trimsLoaded u trims
      if trims.all (fun y => trimFits y.2) then
        (⟨true, n, trims, verifyError loaded (calPlan u) fit.verify⟩, modArr t a fun _ => loaded)
      else (⟨false, n, trims, 0⟩, t) := by
  unfold calibrate
  simp only [hcal, hrot, Bool.true_and, trimsLoaded, loadedTrims]

/-! ### The result (R66, R67, Tables 2-9 and 2-18) -/

/-- A good result: the calibration's trace and retest pass, and the array leaves by Table 2-9. -/
def calPassed (a replaced : Nat) (s : State) : State :=
  let s := passTrace a s
  let s := if (arr s a).retest && !bit (arr s a).state 16 then passArrayRetest a s else s
  arrayDone a { passed := 1, replaced := replaced } (exitRule a s)

/-- A bad result is an event of the array's history (R290). -/
def calMissed (a : Nat) (s : State) : State :=
  addEvent 6#4 a (dropTrace a (modArr s a fun u => { u with err := setBit u.err 4, cal := none }))

/-- A bad result brings a recovery refresh, and after that refresh the fence. -/
def calFailed (a : Nat) (s : State) : State :=
  let s := calMissed a s
  if (arr s a).recovered then if (arr s a).retest then failArrayRetest a s else fenceArray a s else enterRefresh a 5 s

/-- A calibration ends as it comes to; an array that does not calibrate, or is out of work, stays as it is. -/
theorem endCalibration_cases (a : Nat) (fit : CalFit) (s : State) : endCalibration a fit s =
    if arrMode (arr s a) != 2 || outOfWork (arr s a) then s
    else
      let (r, t) := calibrate a fit s
      let good := r.sound && qualityPasses r.err (fld (arr t a).calp 3 0)
      if good then calPassed a r.replaced (modArr t a (loadQuality r good)) else calFailed a (modArr t a (loadQuality r good)) := rfl

theorem endCalibration_eq {a : Nat} {fit : CalFit} {s t : State} {r : CalResult} (hmode : arrMode (arr s a) = 2)
    (hwork : outOfWork (arr s a) = false) (hcal : calibrate a fit s = (r, t)) : endCalibration a fit s =
      if r.sound && qualityPasses r.err (fld (arr t a).calp 3 0) then calPassed a r.replaced (modArr t a (loadQuality r true))
      else calFailed a (modArr t a (loadQuality r false)) := by
  rw [endCalibration_cases, hcal, if_neg (by simp [hmode, hwork])]
  dsimp only
  split
  next h => rw [h]
  next h => rw [Bool.eq_false_iff.2 h]

theorem endCalibration_other {a : Nat} {s : State} (hmode : arrMode (arr s a) ≠ 2) (fit : CalFit) : endCalibration a fit s = s := by
  unfold endCalibration
  rw [if_pos]
  simp only [bne_iff_ne.2 hmode, Bool.true_or]

theorem qualityOf_lt (err : Nat) : qualityOf err < 256 := Nat.lt_succ_of_le (min_le_left ..)

/-- A good result sets Q, Q_WORST and TJ_CAL (Table 2-18). -/
theorem loadQuality_good {u : ArrU} {x : CalOp} (hcal : u.cal = some x) (r : CalResult) : ∃ w, loadQuality r true u = { u with qual := w }
    ∧ fld w 7 0 = qualityOf r.err ∧ fld w 15 8 = max (qualityOf r.err) (fld u.qual 15 8) ∧ fld w 25 16 = x.tj.toNat := by
  have htj : fld (setFld u.qual 25 16 x.tj.toNat) 25 16 = x.tj.toNat :=
    (fld_setFld_same _ _ (by decide) (by decide)).trans (Nat.mod_eq_of_lt x.tj.isLt)
  have hworst : fld (setFld u.qual 25 16 x.tj.toNat) 15 8 = fld u.qual 15 8 := fld_setFld_ne _ _ (by decide)
  have hmax : max (qualityOf r.err) (fld u.qual 15 8) < 2 ^ (15 + 1 - 8) := max_lt (qualityOf_lt _) (fld_lt ..)
  refine ⟨setFld (setFld (setFld u.qual 25 16 x.tj.toNat) 7 0 (qualityOf r.err)) 15 8
    (max (qualityOf r.err) (fld (setFld u.qual 25 16 x.tj.toNat) 15 8)), by simp only [loadQuality, hcal, if_true], ?_, ?_, ?_⟩
  · rw [fld_setFld_ne _ _ (by decide), fld_setFld_same _ _ (by decide) (by decide)]
    exact Nat.mod_eq_of_lt (qualityOf_lt _)
  · rw [hworst, fld_setFld_same _ _ (by decide) (by decide), Nat.mod_eq_of_lt hmax]
  · rw [fld_setFld_ne _ _ (by decide), fld_setFld_ne _ _ (by decide), htj]

/-- A bad result sets TJ_CAL alone. -/
theorem loadQuality_bad {u : ArrU} {x : CalOp} (hcal : u.cal = some x) (r : CalResult) : ∃ w, loadQuality r false u = { u with qual := w }
    ∧ fld w 15 0 = fld u.qual 15 0 ∧ fld w 25 16 = x.tj.toNat :=
  ⟨setFld u.qual 25 16 x.tj.toNat, by simp only [loadQuality, hcal, Bool.false_eq_true, if_false],
    fld_setFld_ne _ _ (by decide), (fld_setFld_same _ _ (by decide) (by decide)).trans (Nat.mod_eq_of_lt x.tj.isLt)⟩

theorem passTrace_only (a : Nat) (s : State) : Only [.mon] s (passTrace a s) := by
  unfold passTrace
  split <;> exact only_of_withParts rfl

theorem dropTrace_only (a : Nat) (s : State) : Only [.mon] s (dropTrace a s) := by
  unfold dropTrace
  split <;> exact only_of_withParts rfl

/-! ### A good result -/

/-- With nothing pending the array leaves a calibration to ACTIVE (Table 2-9). -/
theorem exitRule_active {a : Nat} {s : State} (h : fld (arr s a).state 16 14 = 0) :
    exitRule a s = enterActive a (modArr s a fun u => { u with cal := none }) := by
  have h14 : bit (arr s a).state 14 = false := bit_of_fld_zero h (by decide)
  have h15 : bit (arr s a).state 15 = false := bit_of_fld_zero h (by decide)
  have h16 : bit (arr s a).state 16 = false := bit_of_fld_zero h (by decide)
  unfold exitRule
  simp only [arr_modArr_same, h14, h15, h16, Bool.false_and, Bool.false_eq_true, if_false]

/-- The array in service again after a good result with nothing pending. -/
def backActive (u : ArrU) : ArrU :=
  applyCfg { u with state := setFld u.state 1 0 0, recovered := false, cal := none }

theorem backActive_fields (u : ArrU) : ∃ w y z, backActive u = { u with
    state := w, cfg := y, chkcfg := z, cfgHeld := none, chkHeld := none, recovered := false, cal := none } ∧ fld w 1 0 = 0 :=
  ⟨_, _, _, rfl, fld_setFld_same _ 0 (by decide) (by decide)⟩

/-- With nothing pending, no retest and no command in flight, a good result returns the array to ACTIVE. -/
theorem calPassed_active {a : Nat} {s : State} (hnone : fld (arr s a).state 16 14 = 0) (hretest : (arr s a).retest = false)
    (hrun : s.host.running = []) (n : Nat) : arr (calPassed a n s) a = backActive (arr s a)
      ∧ Touches [.mon] a s (calPassed a n s) := by
  have honly := passTrace_only a s
  have harr : arr (passTrace a s) a = arr s a := congrArg (tget ArrU.reset · a) (honly .arrays (by decide))
  have hhost : (passTrace a s).host = s.host := honly .host (by decide)
  have hpassed : calPassed a n s = enterActive a (modArr (passTrace a s) a fun u => { u with cal := none }) := by
    unfold calPassed
    dsimp only
    rw [harr, hretest, Bool.false_and, if_neg (by decide), exitRule_active (by rw [harr]; exact hnone)]
    refine arrayDone_idle (s := enterActive a (modArr (passTrace a s) a fun u => { u with cal := none })) ?_ ..
    have hsame : (enterActive a (modArr (passTrace a s) a fun u => { u with cal := none })).host = (passTrace a s).host := rfl
    rw [hsame, hhost, hrun]
  rw [hpassed]
  refine ⟨?_, ((Touches.of_only honly (by decide)).trans (.modArr ..)).trans (.modArr ..)⟩
  rw [enterActive, arr_modArr_same, arr_modArr_same, harr]
  rfl

/-! ### A bad result -/

/-- The array as a bad result leaves it. -/
def missed (u : ArrU) : ArrU := { u with err := setBit u.err 4, cal := none }

section
variable (a : Nat) (s : State)

theorem calMissed_eq : calMissed a s = addEvent 6#4 a (dropTrace a (modArr s a missed)) := rfl

theorem calMissed_arr : arr (calMissed a s) a = missed (arr s a) := by
  have hdrop : arr (dropTrace a (modArr s a missed)) a = arr (modArr s a missed) a :=
    congrArg (tget ArrU.reset · a) (dropTrace_only a _ .arrays (by decide))
  rw [calMissed_eq, (addEvent_reports 6#4 a _).arr, ← arr_modArr_same s a missed, ← hdrop]
  rfl

theorem calMissed_touches : Touches (.mon :: reportParts) a s (calMissed a s) := by
  have hdrop : Only (.mon :: reportParts) (modArr s a missed) (dropTrace a (modArr s a missed)) :=
    only_mono (dropTrace_only a _) (by simp)
  have hevent : Only (.mon :: reportParts) (dropTrace a (modArr s a missed)) (calMissed a s) := only_mono (addEvent_only 6#4 a _) (by simp)
  exact (Touches.modArr _ a missed s).trans (.of_only (only_trans hdrop hevent) (by decide))

theorem calMissed_events : ∃ e, (calMissed a s).sec.events = s.sec.events ++ [(6#4, a, e)] := by
  have hsec : (dropTrace a (modArr s a missed)).sec = s.sec := dropTrace_only a _ .sec (by decide)
  refine ⟨logTime (dropTrace a (modArr s a missed)), ?_⟩
  rw [calMissed_eq, (addEvent_reports 6#4 a _).events, ← hsec]
  rfl

theorem calMissed_running : (calMissed a s).host.running = s.host.running := by
  have hhost : (dropTrace a (modArr s a missed)).host = s.host := dropTrace_only a _ .host (by decide)
  rw [calMissed_eq, (addEvent_reports 6#4 a _).running, ← hhost]
  rfl

theorem enterRefresh_fields (cause : Nat) : ∃ w o, arr (enterRefresh a cause s) a = { arr s a with
    state := w, refreshOrder := o, wantRefresh := false, cal := none, recovered := (arr s a).recovered || cause == 5 } :=
  ⟨_, _, arr_modArr_same ..⟩

end

/-- The first bad result brings a recovery refresh (R67). -/
theorem calFailed_recovers {a : Nat} {s : State} (h : (arr s a).recovered = false) :
    calFailed a s = enterRefresh a 5 (calMissed a s) := by
  have hrecovered : (arr (calMissed a s) a).recovered = false := by rw [calMissed_arr]; exact h
  unfold calFailed
  dsimp only
  rw [hrecovered]
  rfl

/-- A bad result after the recovery refresh fences the array (R64). -/
theorem calFailed_fences {a : Nat} {s : State} (h : (arr s a).recovered = true) (hretest : (arr s a).retest = false) :
    calFailed a s = fenceArray a (calMissed a s) := by
  have hrecovered : (arr (calMissed a s) a).recovered = true := by rw [calMissed_arr]; exact h
  have hretest' : (arr (calMissed a s) a).retest = false := by rw [calMissed_arr]; exact hretest
  unfold calFailed
  dsimp only
  rw [hrecovered, hretest']
  rfl

end Sys2Proof.Laws

/-! PROOFS. A spare that has taken a column keeps it, whatever the calibration comes to (R67). -/

namespace Sys2Proof.Laws
open Sys2Proof.Machine Sys2Proof.Safety

/-- Spare i of array a serves column p, the array's error word says that a spare was taken, the column's converter is permanent, and no
command is in flight. -/
structure SpareTaken (a i p : Nat) (s : State) : Prop where
  field : spareField (arr s a) i = p
  err : bit (arr s a).err 5 = true
  permanent : isPermanent s 3#4 (converterUnit a p) = true
  idle : s.host.running = []

theorem SpareTaken.keep {a i p : Nat} {s t : State} (h : SpareTaken a i p s) (hl : LeavesSpares s t) : SpareTaken a i p t := by
  obtain ⟨hmap, herr⟩ := hl.arrays a
  refine ⟨?_, herr 5 h.err, ?_, hl.running.trans h.idle⟩
  · rw [spareField, hmap]
    exact h.field
  · exact isPermanent_iff.2 (hl.permanent (isPermanent_iff.1 h.permanent))

/-! ### What the end of a calibration leaves of the spares -/

section
variable {s t : State} {a : Nat}

/-- A change of one array that keeps its spares, with no other part than those a spare does not rest on. -/
theorem LeavesSpares.of_touches {ps : List Part} (h : Touches ps a s t) (hhost : .host ∉ ps) (hsec : .sec ∉ ps)
    (hk : SparesKept (arr s a) (arr t a)) : LeavesSpares s t := by
  have hhost' : t.host = s.host := h.only .host (by simp [hhost])
  have hsec' : t.sec = s.sec := h.only .sec (by simp [hsec])
  refine ⟨by rw [hhost'], by rw [hsec']; exact fun _ he => he, fun b => ?_⟩
  by_cases hb : b = a
  · rw [hb]
    exact hk
  · rw [h.others b hb]
    exact .refl _

theorem LeavesSpares.of_only {ps : List Part} (h : Only ps s t) (hhost : .host ∉ ps) (hsec : .sec ∉ ps) (harrays : .arrays ∉ ps) :
    LeavesSpares s t := .of_parts (h .host hhost) (h .sec hsec) (h .arrays harrays)

end

theorem addEvent_leavesSpares (kind : BitVec 4) (unit : Nat) (s : State) : LeavesSpares s (addEvent kind unit s) := by
  have hevent : LeavesSpares s (modSec s fun x => { x with events := x.events ++ [(kind, unit, logTime s)] }) :=
    ⟨rfl, fun _ h => h, fun _ => .refl _⟩
  exact hevent.trans (.of_reports (addEvent_reports kind unit s))

theorem setPermanent_leavesSpares (kind : BitVec 4) (unit : Nat) (s : State) : LeavesSpares s (setPermanent kind unit s) := by
  by_cases h : isPermanent s kind unit = true
  · rw [setPermanent, if_pos h]
    exact .refl s
  · have hadd : LeavesSpares s (modSec s fun x => { x with permanent := x.permanent ++ [(kind, unit)] }) :=
      ⟨rfl, fun _ he => List.mem_append_left _ he, fun _ => .refl _⟩
    exact hadd.trans (.of_reports (setPermanent_reports (Bool.eq_false_iff.2 h)))

theorem countUnits_leavesSpares (s : State) : LeavesSpares s (countUnits s) :=
  .of_only (countUnits_only s) (by decide) (by decide) (by decide)

theorem drawFree_leavesSpares (s : State) : LeavesSpares s (drawFree s).2 := .of_parts rfl rfl rfl

/-! The fence of an array. -/

theorem restartProduct_kept (u : ArrU) : SparesKept u (restartProduct u) := by
  unfold restartProduct
  split <;> exact ⟨rfl, fun _ h => h⟩

theorem stopWrite_kept (time : Nat) (u : ArrU) : SparesKept u (stopWrite time u) := by
  have h := stopWrite_aside time u
  exact ⟨h.spareMap, fun i hi => by rw [h.err]; exact hi⟩

theorem fencedUnit_kept (time : Nat) (u : ArrU) : SparesKept u (fencedUnit time u) := by
  have hstop : SparesKept u (stopWrite time (restartProduct u)) := (restartProduct_kept u).trans (stopWrite_kept time _)
  obtain ⟨x, h⟩ : ∃ x, fencedUnit time u = { stopWrite time (restartProduct u) with
      state := x, err := setBit (stopWrite time (restartProduct u)).err 7, cal := none, retest := false, slotKept := false } :=
    ⟨_, rfl⟩
  rw [h]
  exact hstop.trans ⟨rfl, fun _ hi => bit_setBit_of_bit _ hi⟩

theorem fenceReported_leavesSpares (a : Nat) (s : State) : LeavesSpares s (fenceReported a s) := by
  have hunit : LeavesSpares s (fenceArrayUnit a s) := .of_touches (fenceArrayUnit_touches a s) (by decide) (by decide)
    (by rw [fenceArrayUnit_arr]; exact fencedUnit_kept _ _)
  exact ((hunit.trans (setPermanent_leavesSpares 2#4 a _)).trans (relErr_leavesSpares _ 12)).trans (countUnits_leavesSpares _)

theorem fenceArray_leavesSpares {a : Nat} {s : State} (hrun : s.host.running = []) : LeavesSpares s (fenceArray a s) := by
  by_cases hlive : bit (arr s a).state 17 = true
  · rw [fenceArray, if_pos hlive]
    exact .refl s
  · have hfence : LeavesSpares s ((launchesOnArray (fenceReported a s) a).foldl (fun s u => recallDetected u s) (fenceReported a s)) :=
      (fenceReported_leavesSpares a s).trans (.foldl (fun _ _ => recallDetected_leavesSpares ..) _ _)
    have hidle := hfence.running.trans hrun
    rwa [fenceArray_idle (Bool.eq_false_iff.2 hlive) hrun, calWaiters_idle hidle, sweepDestroy_idle hidle]

/-! The retest of an array. -/

theorem requestRewrite_kept (n : Nat) (u : ArrU) : SparesKept u (requestRewrite n u) := by
  unfold requestRewrite
  split
  · exact .refl u
  · exact ⟨rfl, fun _ h => h⟩

theorem passArrayRetest_leavesSpares {a : Nat} {s : State} (hrun : s.host.running = []) : LeavesSpares s (passArrayRetest a s) := by
  have hback : LeavesSpares s (countUnits (modArr s a fun u =>
      requestRewrite s.commits { u with retest := false, state := clrBit u.state 17 })) := by
    refine .trans (.modArr ?_) (countUnits_leavesSpares _)
    generalize clrBit (arr s a).state 17 = w
    have hback : SparesKept (arr s a) { arr s a with retest := false, state := w } := ⟨rfl, fun _ h => h⟩
    exact hback.trans (requestRewrite_kept _ _)
  rwa [passArrayRetest, retestDone_idle (hback.running.trans hrun)]

theorem failArrayRetest_leavesSpares {a : Nat} {s : State} (hrun : s.host.running = []) : LeavesSpares s (failArrayRetest a s) := by
  unfold failArrayRetest
  split
  · exact fenceArray_leavesSpares hrun
  · have hfail : LeavesSpares s (setPermanent 2#4 a (modArr (drawFree s).2 a fun u =>
        { stopWrite (drawFree s).1 u with retest := false, cal := none })) := by
      refine .trans ((drawFree_leavesSpares s).trans (.modArr ?_)) (setPermanent_leavesSpares 2#4 a _)
      exact (stopWrite_kept _ _).trans ⟨rfl, fun _ h => h⟩
    exact (congrArg (LeavesSpares s) (retestDone_idle (hfail.running.trans hrun) ..)).mpr hfail

/-! ### Leaving the calibration (Table 2-9) -/

section
variable {s : State} {a i p : Nat}

theorem returnConverter_spares (a : Nat) (s : State) (j : Nat) : returnConverter a s j = s ∨ ∃ w, arr (returnConverter a s j) a
    = { arr s a with spareMap := setFld (arr s a).spareMap (spareHi j) (16 * j) 0xFFFF, state := w } := by
  unfold returnConverter
  split
  · exact .inl rfl
  · exact .inr ⟨_, arr_modArr_same ..⟩

/-- A spare that serves the column of a permanent converter does not come free, and the other spare's return leaves it. -/
theorem returnConverter_taken (h : SpareTaken a i p s) (hp : p < 0xFFFE) (j : Nat) :
    SpareTaken a i p (returnConverter a s j) := by
  have htouch := returnConverter_touches a s j
  have hsec : (returnConverter a s j).sec = s.sec := htouch.only .sec (by decide)
  have hhost : (returnConverter a s j).host = s.host := htouch.only .host (by decide)
  by_cases hij : j = i
  · have hunit : spareUnit (arr s a) i = p := by rw [spareUnit, h.field, if_neg (by omega)]
    rwa [hij, returnConverter, if_pos (by rw [hunit, h.permanent, Bool.or_true])]
  · obtain heq | ⟨w, hw⟩ := returnConverter_spares a s j
    · rwa [heq]
    · refine ⟨?_, by rw [hw]; exact h.err, by rw [isPermanent, hsec]; exact h.permanent, by rw [hhost]; exact h.idle⟩
      rw [hw, ← h.field]
      exact fld_setFld_ne _ _ (by unfold spareHi; omega)

theorem calEntry_kept (s : State) (a cause : Nat) (periodic : Bool) (u : ArrU) : SparesKept u (calEntry s a cause periodic u) := by
  obtain ⟨w, t, c, h⟩ : ∃ w t c, calEntry s a cause periodic u = { u with
      state := w, trims := t, trimHeld := [], dueOrder := none, slotKept := false, yielded := false, wantCal := false
      reads := 0#32, cal := c } := ⟨_, _, _, rfl⟩
  rw [h]
  exact ⟨rfl, fun _ h => h⟩

theorem enterRefresh_leavesSpares (a cause : Nat) (s : State) : LeavesSpares s (enterRefresh a cause s) := by
  refine .of_touches (enterRefresh_touches a cause s) (by decide) (by decide) ?_
  obtain ⟨w, o, h⟩ := enterRefresh_fields a s cause
  rw [h]
  exact ⟨rfl, fun _ h => h⟩

theorem enterWriting_leavesSpares (a : Nat) (s : State) : LeavesSpares s (enterWriting a s) := by
  refine .of_touches (enterWriting_touches a s) (by decide) (by decide) ?_
  obtain ⟨w, n, x, o, h⟩ : ∃ w n x o, arr (enterWriting a s) a = { arr s a with
      state := w, writes := n, stamp := none, byCommand := none, dirty := 0#512, wrstat := x, write := o } :=
    ⟨_, _, _, _, arr_modArr_same ..⟩
  rw [h]
  exact ⟨rfl, fun _ h => h⟩

theorem enterActive_leavesSpares (a : Nat) (s : State) : LeavesSpares s (enterActive a s) := by
  refine .modArr ?_
  generalize setFld (arr s a).state 1 0 0 = w
  exact ⟨rfl, fun _ h => h⟩

theorem enterCal_taken (h : SpareTaken a i p s) (hp : p < 0xFFFE) (cause : Nat) (periodic : Bool) :
    SpareTaken a i p (enterCal a cause periodic s) := by
  have hentry : SpareTaken a i p (modArr s a (calEntry s a cause periodic)) := h.keep (.modArr (calEntry_kept ..))
  rw [enterCal_eq, returnConverters_eq]
  refine (returnConverter_taken (returnConverter_taken hentry hp 0) hp 1).keep ?_
  refine .of_touches (startTrace_touches a _) (by decide) (by decide) ?_
  obtain ⟨n, hn⟩ := startTrace_arr a (returnConverter a (returnConverter a (modArr s a (calEntry s a cause periodic)) 0) 1)
  rw [hn]
  exact ⟨rfl, fun _ h => h⟩

theorem exitRule_taken (h : SpareTaken a i p s) (hp : p < 0xFFFE) : SpareTaken a i p (exitRule a s) := by
  have hcal : SpareTaken a i p (modArr s a fun u => { u with cal := none }) := h.keep (.modArr ⟨rfl, fun _ h => h⟩)
  unfold exitRule
  extract_lets s1 u
  split
  · exact hcal.keep (enterRefresh_leavesSpares ..)
  split
  · exact enterCal_taken hcal hp _ _
  split
  · exact hcal.keep (enterWriting_leavesSpares ..)
  · exact hcal.keep (enterActive_leavesSpares ..)

theorem calPassed_taken (h : SpareTaken a i p s) (hp : p < 0xFFFE) (n : Nat) : SpareTaken a i p (calPassed a n s) := by
  have htrace : SpareTaken a i p (passTrace a s) := h.keep (.of_only (passTrace_only a s) (by decide) (by decide) (by decide))
  unfold calPassed
  extract_lets s1 s2
  have hretest : SpareTaken a i p s2 := htrace.keep (.ite (passArrayRetest_leavesSpares htrace.idle) (.refl s1))
  have hexit : SpareTaken a i p (exitRule a s2) := exitRule_taken hretest hp
  rwa [arrayDone_idle hexit.idle]

theorem calMissed_leavesSpares (a : Nat) (s : State) : LeavesSpares s (calMissed a s) := by
  have hmiss : LeavesSpares s (modArr s a missed) := .modArr ⟨rfl, fun _ hi => bit_setBit_of_bit _ hi⟩
  rw [calMissed_eq]
  exact (hmiss.trans (.of_only (dropTrace_only a _) (by decide) (by decide) (by decide))).trans (addEvent_leavesSpares 6#4 a _)

theorem calFailed_taken (h : SpareTaken a i p s) : SpareTaken a i p (calFailed a s) := by
  have hmiss : SpareTaken a i p (calMissed a s) := h.keep (calMissed_leavesSpares a s)
  unfold calFailed
  dsimp only
  split
  · split
    · exact hmiss.keep (failArrayRetest_leavesSpares hmiss.idle)
    · exact hmiss.keep (fenceArray_leavesSpares hmiss.idle)
  · exact hmiss.keep (enterRefresh_leavesSpares ..)

end

/-- A spare that is put to use shows its column in the map, and SPARE_USED in the error word. -/
theorem useSpare_fields {i p : Nat} (hp : p < 2 ^ 16) (hi : i < 2) (u : ArrU) : ∃ m w e,
    useSpare i p u = { u with spareMap := m, state := w, err := e } ∧ fld m (spareHi i) (16 * i) = p ∧ bit e 5 = true := by
  refine ⟨setFld u.spareMap (spareHi i) (16 * i) p, _, setBit u.err 5, rfl, ?_, bit_setBit _ (by decide)⟩
  rw [fld_setFld_same _ _ (by unfold spareHi; omega) (by unfold spareHi; omega), spareHi,
    show 16 * i + 15 + 1 - 16 * i = 16 by omega]
  exact Nat.mod_eq_of_lt hp

/-- A converter that fails the test input has its column taken by the first free spare; the calibration goes on. -/
theorem replaceColumn_taken {s : State} {a i p n : Nat} {b : Bool} (hfree : freeSpare (arr s a) = some i) (hp : p < 2 ^ 16)
    (hrun : s.host.running = []) : ∃ t, replaceColumn a p (n, b, s) = (n + 1, b, t) ∧ SpareTaken a i p t
      ∧ (arr t a).cal = (arr s a).cal := by
  have hmem : i ∈ [0, 1] := List.mem_of_find?_eq_some hfree
  have hi : i < 2 := by
    simp only [List.mem_cons, List.not_mem_nil, or_false] at hmem
    omega
  obtain ⟨m, w, e, huse, hfield, herr⟩ := useSpare_fields hp hi (arr s a)
  let used := modArr s a (useSpare i p)
  let t := setPermanent 3#4 (converterUnit a p) (addEvent 3#4 (converterUnit a p) used)
  have hkeep : LeavesSpares used t := (addEvent_leavesSpares 3#4 (converterUnit a p) used).trans (setPermanent_leavesSpares ..)
  have honly : Only reportParts used t := only_trans (addEvent_only _ _ _) (setPermanent_only _ _ _)
  have hidle : used.host.running = [] := by rw [modArr_host, hrun]
  have harr : arr t a = { arr s a with spareMap := m, state := w, err := e } :=
    (congrArg (tget ArrU.reset · a) (honly .arrays (by decide))).trans ((arr_modArr_same ..).trans huse)
  refine ⟨t, by simp only [replaceColumn, hfree, t, used],
    ⟨?_, ?_, isPermanent_setPermanent .., hkeep.running.trans hidle⟩, ?_⟩ <;> rw [harr]
  · exact hfield
  · exact herr

/-- What the fit and the quality figure leave of the spares. -/
theorem trimsLoaded_kept (u : ArrU) (trims : List (Nat × Int × Int)) : SparesKept u (trimsLoaded u trims) := ⟨rfl, fun _ h => h⟩

theorem loadQuality_kept {u : ArrU} {x : CalOp} (hcal : u.cal = some x) (r : CalResult) (good : Bool) :
    SparesKept u (loadQuality r good u) := by
  cases good with
  | false =>
    obtain ⟨w, h, -⟩ := loadQuality_bad hcal r
    rw [h]
    exact ⟨rfl, fun _ h => h⟩
  | true =>
    obtain ⟨w, h, -⟩ := loadQuality_good hcal r
    rw [h]
    exact ⟨rfl, fun _ h => h⟩

/-- The calibration of an array whose rotation has left its spares as they stand ends with them so, whatever it comes to. -/
theorem endCalibration_taken {s t : State} {a i p n : Nat} {fit : CalFit} {x : CalOp} (hmode : arrMode (arr s a) = 2)
    (hwork : outOfWork (arr s a) = false) (hcal : (arr s a).cal = some x) (hrot : rotate a fit x.cti.toNat s = (n, true, t))
    (h : SpareTaken a i p t) (hkept : (arr t a).cal = some x) (hp : p < 0xFFFE) : SpareTaken a i p (endCalibration a fit s) := by
  have hend (r : CalResult) (v : State) (hv : SpareTaken a i p v) (hvcal : (arr v a).cal = some x)
      (heq : calibrate a fit s = (r, v)) : SpareTaken a i p (endCalibration a fit s) := by
    have hquality (good : Bool) : SpareTaken a i p (modArr v a (loadQuality r good)) := hv.keep (.modArr (loadQuality_kept hvcal r good))
    rw [endCalibration_eq hmode hwork heq]
    split
    · exact calPassed_taken (hquality true) hp _
    · exact calFailed_taken (hquality false)
  have hresult := calibrate_rotated hcal hrot
  dsimp only at hresult
  split at hresult
  · refine hend _ _ (h.keep (.modArr (trimsLoaded_kept _ _))) ?_ hresult
    rw [arr_modArr_same, trimsLoaded_cal, hkept]
  · exact hend _ _ h hkept hresult

end Sys2Proof.Laws

/-! PROOFS. The rows of a calibration, assembled (R61 to R67, R292). -/

namespace Sys2Proof.Laws
open Sys2Proof.Machine Sys2Proof.Safety

/-! ### A calibration with no test input: its result and what follows -/

/-- The trims that the fit of a calibration solves, of an array as its rotation leaves it. -/
def solvedTrims (u : ArrU) (fit : CalFit) : List (Nat × Int × Int) := fitColumns u (calPlan u) fit (freeSpares u).length

/-- The squared errors of the verify, once the trims that were solved are loaded. -/
def verifiedError (u : ArrU) (fit : CalFit) : Nat := verifyError (trimsLoaded u (solvedTrims u fit)) (calPlan u) fit.verify

/-- The result of a calibration is sound, and its quality figure is within QMAX. -/
def calGood (u : ArrU) (fit : CalFit) : Prop :=
  ((solvedTrims u fit).all fun y => trimFits y.2) = true ∧ verifiedError u fit ≤ 2 ^ 51 * fld u.calp 3 0 * fld u.calp 3 0

section
variable {s : State} {a : Nat} {fit : CalFit} {x : CalOp} (hmode : arrMode (arr s a) = 2) (hwork : outOfWork (arr s a) = false)
  (hfit : fit.test = []) (hcal : (arr s a).cal = some x)
include hfit hcal

/-- The result of a calibration: what it comes to, and the array with the trims that it has loaded. -/
theorem calibrate_untested : ∃ t r w, calibrate a fit s = (r, t) ∧ Touches [] a s t
    ∧ r.sound = ((solvedTrims (arr s a) fit).all fun y => trimFits y.2)
    ∧ arr t a = { arr s a with trims := w }
    ∧ w = (if r.sound = true then loadedTrims (arr s a) (solvedTrims (arr s a) fit) else (arr s a).trims)
    ∧ (r.sound = true → r.err = verifiedError (arr s a) fit) := by
  obtain ⟨t, hrot, harr, htouch⟩ := rotate_untested (a := a) (scale := x.cti.toNat) hfit s
  have hresult : calibrate a fit s = if ((solvedTrims (arr s a) fit).all fun y => trimFits y.2) = true
      then (⟨true, 0, solvedTrims (arr s a) fit, verifiedError (arr s a) fit⟩,
        modArr t a fun _ => trimsLoaded (arr s a) (solvedTrims (arr s a) fit))
      else (⟨false, 0, solvedTrims (arr s a) fit, 0⟩, t) := by
    have h := calibrate_rotated hcal hrot
    dsimp only at h
    rw [harr] at h
    exact h
  split at hresult
  next hsound =>
    refine ⟨_, _, _, hresult, htouch.trans (.modArr ..), hsound.symm, arr_modArr_same .., (if_pos rfl).symm, fun _ => ?_⟩
    dsimp only
  next hsound =>
    refine ⟨t, _, (arr s a).trims, hresult, htouch, (Bool.eq_false_iff.2 hsound).symm, harr, (if_neg Bool.false_ne_true).symm, ?_⟩
    exact fun h => absurd h Bool.false_ne_true

include hmode hwork

/-- A good result loads the trims and the quality figure, and the array goes on by Table 2-9. -/
theorem endCalibration_good (hgood : calGood (arr s a) fit) : ∃ v n q, endCalibration a fit s = calPassed a n v
    ∧ Touches [] a s v ∧ arr v a = { arr s a with trims := loadedTrims (arr s a) (solvedTrims (arr s a) fit), qual := q }
    ∧ fld q 7 0 = qualityOf (verifiedError (arr s a) fit)
    ∧ fld q 15 8 = max (qualityOf (verifiedError (arr s a) fit)) (fld (arr s a).qual 15 8) ∧ fld q 25 16 = x.tj.toNat := by
  obtain ⟨t, r, w, hresult, htouch, hsound, harr, htrims, herr⟩ := calibrate_untested hfit hcal
  have hr : r.sound = true := hsound.trans hgood.1
  rw [hr, if_pos rfl] at htrims
  have hcalp : (arr t a).calp = (arr s a).calp := by rw [harr]
  have hcal' : (arr t a).cal = some x := by rw [harr]; exact hcal
  obtain ⟨q, hq, hlow, hworst, htj⟩ := loadQuality_good hcal' r
  refine ⟨_, r.replaced, q, (endCalibration_eq hmode hwork hresult).trans (if_pos ?_), htouch.trans (.modArr ..), ?_, ?_, ?_, htj⟩
  · rw [hr, Bool.true_and, hcalp, herr hr]
    exact decide_eq_true hgood.2
  · rw [arr_modArr_same, hq, harr, htrims]
  · rw [hlow, herr hr]
  · rw [hworst, herr hr, harr]

/-- A bad result loads TJ_CAL, and the trims where they are sound. -/
theorem endCalibration_bad (hbad : ¬ calGood (arr s a) fit) : ∃ v q, endCalibration a fit s = calFailed a v ∧ Touches [] a s v
    ∧ arr v a = { arr s a with
      trims := if ((solvedTrims (arr s a) fit).all fun y => trimFits y.2) = true
        then loadedTrims (arr s a) (solvedTrims (arr s a) fit) else (arr s a).trims
      qual := q }
    ∧ fld q 15 0 = fld (arr s a).qual 15 0 ∧ fld q 25 16 = x.tj.toNat := by
  obtain ⟨t, r, w, hresult, htouch, hsound, harr, htrims, herr⟩ := calibrate_untested hfit hcal
  have hcal' : (arr t a).cal = some x := by rw [harr]; exact hcal
  obtain ⟨q, hq, hlow, htj⟩ := loadQuality_bad hcal' r
  refine ⟨_, q, (endCalibration_eq hmode hwork hresult).trans (if_neg ?_), htouch.trans (.modArr ..), ?_, ?_, htj⟩
  · intro hgood
    obtain ⟨hr, hpass⟩ := Bool.and_eq_true_iff.1 hgood
    rw [harr, herr hr] at hpass
    exact hbad ⟨hsound.symm.trans hr, of_decide_eq_true hpass⟩
  · rw [arr_modArr_same, hq, harr, ← hsound, ← htrims]
  · rw [hlow, harr]

/-- A good result with nothing pending: the array serves again, with its new trims and quality figure. -/
theorem endCalibration_serves (hrun : s.host.running = []) (hgood : calGood (arr s a) fit) (hnone : fld (arr s a).state 16 14 = 0)
    (hretest : (arr s a).retest = false) : let t := endCalibration a fit s
    arrMode (arr t a) = 0 ∧ (arr t a).cal = none ∧ fld (arr t a).qual 7 0 = qualityOf (verifiedError (arr s a) fit)
      ∧ fld (arr t a).qual 15 8 = max (qualityOf (verifiedError (arr s a) fit)) (fld (arr s a).qual 15 8)
      ∧ fld (arr t a).qual 25 16 = x.tj.toNat ∧ (arr t a).trims = loadedTrims (arr s a) (solvedTrims (arr s a) fit)
      ∧ (arr t a).recovered = false ∧ Touches [.mon] a s t := by
  obtain ⟨v, n, q, hend, htouch, harr, hlow, hworst, htj⟩ := endCalibration_good hmode hwork hfit hcal hgood
  have hhost : v.host = s.host := htouch.only .host (by decide)
  obtain ⟨hback, hpassed⟩ := calPassed_active (a := a) (s := v) (by rw [harr]; exact hnone) (by rw [harr]; exact hretest)
    (by rw [hhost, hrun]) n
  obtain ⟨w, y, z, hfields, hw⟩ := backActive_fields (arr v a)
  intro t
  have ht : t = calPassed a n v := hend
  rw [ht, hback, hfields, harr]
  refine ⟨hw, rfl, hlow, hworst, htj, ?_, rfl, (htouch.mono (by simp)).trans hpassed⟩
  dsimp only

/-- A bad result before any recovery refresh: the array refreshes, and its history has the event. -/
theorem endCalibration_recovers (hbad : ¬ calGood (arr s a) fit) (hrec : (arr s a).recovered = false) :
    let t := endCalibration a fit s
    arrMode (arr t a) = 3 ∧ fld (arr t a).state 13 11 = 5 ∧ (arr t a).recovered = true ∧ bit (arr t a).err 4 = true
      ∧ (arr t a).trims = (if ((solvedTrims (arr s a) fit).all fun y => trimFits y.2) = true
        then loadedTrims (arr s a) (solvedTrims (arr s a) fit) else (arr s a).trims)
      ∧ fld (arr t a).qual 15 0 = fld (arr s a).qual 15 0 ∧ fld (arr t a).qual 25 16 = x.tj.toNat
      ∧ (∃ e, t.sec.events = s.sec.events ++ [(6#4, a, e)]) ∧ t.host.running = s.host.running
      ∧ Touches (.mon :: reportParts) a s t := by
  obtain ⟨v, q, hend, htouch, harr, hlow, htj⟩ := endCalibration_bad hmode hwork hfit hcal hbad
  have hsec : v.sec = s.sec := htouch.only .sec (by decide)
  have hhost : v.host = s.host := htouch.only .host (by decide)
  have hrefresh := enterRefresh_touches a 5 (calMissed a v)
  have hsec' : (enterRefresh a 5 (calMissed a v)).sec = (calMissed a v).sec := hrefresh.only .sec (by decide)
  have hhost' : (enterRefresh a 5 (calMissed a v)).host = (calMissed a v).host := hrefresh.only .host (by decide)
  intro t
  have ht : t = enterRefresh a 5 (calMissed a v) := hend.trans (calFailed_recovers (by rw [harr]; exact hrec))
  obtain ⟨w, o, hfields⟩ := enterRefresh_fields a (calMissed a v) 5
  obtain ⟨e, hevents⟩ := calMissed_events a v
  have hmode' : arrMode (arr t a) = 3 := by rw [ht]; exact enterRefresh_mode ..
  have hcause : fld (arr t a).state 13 11 = 5 := by rw [ht]; exact enterRefresh_cause ..
  have hunit : arr t a = { missed (arr v a) with
      state := w, refreshOrder := o, wantRefresh := false, cal := none, recovered := (arr v a).recovered || 5 == 5 } := by
    rw [ht, hfields, calMissed_arr]
    rfl
  refine ⟨hmode', hcause, ?_, ?_, ?_, ?_, ?_, ⟨e, ?_⟩, ?_, ?_⟩
  · rw [hunit]
    exact Bool.or_true _
  · rw [hunit]
    exact bit_setBit (i := 4) _ (by decide : 4 < 32)
  · rw [hunit, missed, harr]
  · rw [hunit, missed, harr, hlow]
  · rw [hunit, missed, harr, htj]
  · rw [ht, hsec', hevents, hsec]
  · rw [ht, hhost', calMissed_running, hhost]
  · rw [ht]
    exact ((htouch.mono (by simp)).trans (calMissed_touches a v)).trans (hrefresh.mono (by simp))

/-- A bad result after the recovery refresh, with no retest and no launch in flight: the array is fenced and reported. -/
theorem endCalibration_fences (hrun : s.host.running = []) (hbad : ¬ calGood (arr s a) fit) (hrec : (arr s a).recovered = true)
    (hretest : (arr s a).retest = false) (hlaunch : s.launches = []) : let t := endCalibration a fit s
    bit (arr t a).state 17 = true ∧ bit (arr t a).err 7 = true ∧ isPermanent t 2#4 a = true ∧ bit t.rel.err 12 = true
      ∧ t.host.running = [] ∧ Touches (.mon :: .counters :: .ident :: .rel :: reportParts) a s t := by
  obtain ⟨v, q, hend, htouch, harr, -⟩ := endCalibration_bad hmode hwork hfit hcal hbad
  have hmissed := calMissed_touches a v
  have hlaunches : (calMissed a v).launches = s.launches :=
    (hmissed.only .launches (by decide)).trans (htouch.only .launches (by decide))
  have hhost : v.host = s.host := htouch.only .host (by decide)
  have hidle : (calMissed a v).host.running = [] := by rw [calMissed_running, hhost, hrun]
  have hlive : bit (arr (calMissed a v) a).state 17 = false := by
    rw [calMissed_arr, missed, harr]
    simpa [outOfWork, hretest] using hwork
  have ht : endCalibration a fit s = fenceReported a (calMissed a v) := by
    rw [hend, calFailed_fences (by rw [harr]; exact hrec) (by rw [harr]; exact hretest),
      fenceArray_quiet hlive hidle (hlaunches.trans hlaunch)]
  intro t
  obtain ⟨hfence, hevent, -⟩ := fenceReported_fenced a (calMissed a v)
  have htouches : Touches (.mon :: .counters :: .ident :: .rel :: reportParts) a s (fenceReported a (calMissed a v)) :=
    ((htouch.mono (by simp)).trans (hmissed.mono (by simp))).trans ((fenceReported_touches a _).mono (by simp))
  have ht' : t = fenceReported a (calMissed a v) := ht
  rw [ht']
  exact ⟨hfence, hevent, fenceReported_permanent .., fenceReported_rel .., (fenceReported_running ..).trans hidle, htouches⟩

end

/-- With no command in flight at its end, a calibration's row is the end of the calibration. -/
theorem exec_calibrationEnd {s : State} {a : Nat} {fit : CalFit} (ha : a < 4096) (h : (endCalibration a fit s).host.running = []) :
    exec (.calibrationEnd a fit) s = .next (endCalibration a fit s) :=
  (onUnit_present ha s fun s => calWaiters a (endCalibration a fit s)).trans (congrArg _ (calWaiters_idle h a))

end Sys2Proof.Laws

/-! PROOFS. The obligation on calibrations, from the laws of its rows (R61 to R67, R292). -/

namespace Sys2Proof.Laws
open Sys2Proof.Machine Sys2Proof.Safety

section
variable {s : State} {a : Nat} (ha : a < 4096)
include ha

/-- A temperature reading of an array's cluster: its code, the hottest reading, and what it does to the array (R63). -/
theorem tjSample_row {m : Int} (hlow : -256 ≤ m) (hhigh : m ≤ 767) : ∃ t, exec (.tjSample (a / 128) ⟨m, -2⟩) s = .next t
    ∧ ((clus t (a / 128)).tj.toNat : Int) = m + 256 ∧ clus t (a / 128) = { clus s (a / 128) with tj := (clus t (a / 128)).tj }
    ∧ (∀ d, d ≠ a / 128 → clus t d = clus s d) ∧ (∀ e, e ∈ t.clusters → e.2.tj.toNat ≤ fld t.pwr.therm 25 16)
    ∧ (∃ x, SameService s x ∧ arr x a = arr s a ∧ arr t a = arr (heatTrigger a (m + 256).toNat x) a)
    ∧ Only [.arrays, .clusters, .pwr, .mon, .counters] s t := by
  have hcode : ((tjCode ⟨m, -2⟩).toNat : Int) = m + 256 := tjCode_quarters hlow hhigh
  have honly := sampleTj_only (a / 128) ⟨m, -2⟩ s
  have hclus (d : Nat) : clus (sampleTj (a / 128) ⟨m, -2⟩ s) d = clus (sampled (a / 128) (tjCode ⟨m, -2⟩) s) d :=
    congrArg (tget ClusterU.reset · d) (honly .clusters (by decide))
  have hclusters : (sampleTj (a / 128) ⟨m, -2⟩ s).clusters = (sampled (a / 128) (tjCode ⟨m, -2⟩) s).clusters :=
    honly .clusters (by decide)
  have hpwr : (sampleTj (a / 128) ⟨m, -2⟩ s).pwr = (sampled (a / 128) (tjCode ⟨m, -2⟩) s).pwr := honly .pwr (by decide)
  refine ⟨sampleTj (a / 128) ⟨m, -2⟩ s, onUnit_present (by omega) s (sampleTj (a / 128) ⟨m, -2⟩), ?_, ?_, fun d hd => ?_,
    fun e he => ?_, ?_, ?_⟩
  · rw [hclus, sampled_clus_same]
    exact hcode
  · rw [hclus, sampled_clus_same]
  · rw [hclus, sampled_clus_ne hd]
  · rw [hpwr]
    rw [hclusters] at he
    exact sampled_hottest _ _ _ he
  · obtain ⟨x, hservice, hx, hheat⟩ := sampleTj_arr (s := s) (a := a) ⟨m, -2⟩
    have hnat : (tjCode ⟨m, -2⟩).toNat = (m + 256).toNat := by omega
    exact ⟨x, hservice, hx, by rw [hheat, hnat]⟩
  · exact only_trans (only_mono (sampled_only _ _ _) (by decide)) (only_mono honly (by decide))

end

/-- Settles O42: each row of a calibration is one of the laws above. -/
theorem calibrationRowsComplete : Obligations.CalibrationRowsComplete := by
  unfold Obligations.CalibrationRowsComplete
  intro s a ha u c others begins
  refine ⟨fun hidle hslot => ⟨?timer, fun hreads => ?reads⟩, fun hidle hslot _ => ?waits, fun hreads => ?early,
    fun m hlow hhigh => ?sample, fun hfirst hslot hmode hlive hcur hpower hrefresh hwantRefresh hwantCal hgranted => ?slot,
    fun hfirst => ?noslot, fun fit x hmode hwork hrun hfit hcal => ?ended,
    fun fit p i codes x hmode hwork hrun hfit hp hown hfree hcal hfail => ?spare, fun fit hmode hrun => ?other⟩
  case timer =>
    have htouch := periodicTrigger_touches a 1 s
    exact ⟨_, onUnit_present ha s _, periodicTrigger_begins hidle hslot (by decide), htouch.others, htouch.only⟩
  case reads =>
    have htouch := periodicTrigger_touches a 0 s
    exact ⟨_, (onUnit_present ha s _).trans (congrArg _ (readsExpiry_due hreads)),
      periodicTrigger_begins hidle hslot (by decide), htouch.others, htouch.only⟩
  case waits =>
    have htouch := pendTrigger_touches a 1 s
    obtain ⟨hbit, hmode⟩ := pended_state s.dueSeq 1 u
    refine ⟨_, (onUnit_present ha s _).trans (congrArg _ (periodicTrigger_waits hidle hslot 1)), ?_⟩
    rw [pendTrigger_arr]
    exact ⟨hbit, hmode.trans (atBoundary_of_idle hidle).active, rfl, htouch.others, htouch.only⟩
  case early => exact (onUnit_present ha s _).trans (congrArg _ (readsExpiry_early hreads))
  case sample =>
    obtain ⟨t, hexec, htj, hclus, hothers, hhot, ⟨x, hservice, hx, hheat⟩, honly⟩ := tjSample_row (s := s) ha hlow hhigh
    refine ⟨t, hexec, htj, hclus, hothers, hhot, fun hnear hmode => ?_, fun hfar hcal hidle => ?_,
      fun y hmode hcal hwork hdue => ?_, honly⟩
    · rw [hheat, heatTrigger_near (by rw [hx]; exact hnear) (by rw [hx]; exact hmode), hx]
    · rw [heatTrigger_far (by rw [hx]; exact hfar) (by rw [hx]; exact hcal)] at hheat
      have hidle' : idleActive x a = true := (hservice.idleActive hx).trans hidle
      cases hslot : slotFree x (clusterOfArray a) with
      | true =>
        have hbegins := periodicTrigger_begins hidle' hslot (cause := 2) (by decide)
        rw [CalBegins, hx, ← hheat] at hbegins
        exact .inl hbegins
      | false =>
        rw [hheat, periodicTrigger_waits hidle' hslot, pendTrigger_arr]
        exact .inr (pended_state ..).1
    · rw [heatTrigger_calibrating (by rw [hx]; exact hmode) (by rw [hx]; exact hcal) (by rw [hx]; exact hwork)
        (by rw [hx]; exact hdue), hx] at hheat
      refine ⟨fun hapart => ?_, fun hnear => ?_⟩
      · rw [apartDt, decide_eq_true hapart, if_pos rfl, pendTrigger_arr, hx] at hheat
        obtain ⟨hbit, hmode'⟩ := pended_state x.dueSeq 2 u
        rw [hheat]
        exact ⟨hbit, hmode'.trans hmode, rfl⟩
      · rw [apartDt, decide_eq_false (Nat.not_lt.2 hnear), if_neg Bool.false_ne_true, hx] at hheat
        exact hheat
  case slot =>
    obtain ⟨hbegins, htouch⟩ := giveSlot_begins hfirst hslot ⟨hcur, hlive, hmode, hpower⟩
      ⟨hrefresh, hwantRefresh, hwantCal, hgranted⟩
    exact ⟨_, onUnit_present (by omega) s (giveSlot c), hbegins, htouch.others, htouch.only⟩
  case noslot => exact (onUnit_present (by omega) s (giveSlot c)).trans (congrArg _ (giveSlot_none hfirst))
  case ended =>
    intro plan trims sound loaded err q
    have hloaded : loaded.trims = loadedTrims u (solvedTrims u fit) := by
      have h : loaded = trimsLoaded u (solvedTrims u fit) := rfl
      rw [h, trimsLoaded_trims]
    have hnot (hbad : sound = false ∨ 2 ^ 51 * fld u.calp 3 0 * fld u.calp 3 0 < err) : ¬ calGood u fit := fun h =>
      hbad.elim (fun hs => Bool.false_ne_true (hs.symm.trans h.1)) (fun hlt => absurd h.2 (Nat.not_le.2 hlt))
    refine ⟨fun hsound hpass hnone hretest => ?good, fun hbad hrec => ?recovers, fun hbad hrec hretest hlaunch => ?fences⟩
    case good =>
      obtain ⟨h1, h2, h3, h4, h5, h6, h7, htouch⟩ :=
        endCalibration_serves hmode hwork hfit hcal hrun ⟨hsound, hpass⟩ hnone hretest
      have hhost : (endCalibration a fit s).host = s.host := htouch.only .host (by decide)
      exact ⟨_, exec_calibrationEnd ha (by rw [hhost, hrun]), h1, h2, h3, h4, h5, h6.trans hloaded.symm, h7, htouch.others, htouch.only⟩
    case recovers =>
      obtain ⟨h1, h2, h3, h4, h5, h6, h7, ⟨e, h8⟩, hidle, htouch⟩ :=
        endCalibration_recovers hmode hwork hfit hcal (hnot hbad) hrec
      refine ⟨_, e, exec_calibrationEnd ha (hidle.trans hrun), h1, h2, h3, h4, ?_, h6, h7, h8, htouch.others, htouch.only⟩
      rw [h5, hloaded]
      rfl
    case fences =>
      obtain ⟨h1, h2, h3, h4, hidle, htouch⟩ := endCalibration_fences hmode hwork hfit hcal hrun (hnot hbad) hrec hretest hlaunch
      exact ⟨_, exec_calibrationEnd ha hidle, h1, h2, h3, h4, htouch.others, only_mono htouch.only (by decide)⟩
  case spare =>
    obtain ⟨v, hrot, harr, htouch⟩ := rotate_one (s := s) hfit hp hown hfree hfail
    have hhost : v.host = s.host := htouch.only .host (by decide)
    obtain ⟨t, hreplace, htaken, hkept⟩ := replaceColumn_taken (s := v) (n := 0) (b := true) (by rw [harr]; exact hfree)
      (hp.trans (by decide)) (by rw [hhost, hrun])
    have hend := endCalibration_taken hmode hwork hcal (hrot.trans hreplace) htaken (by rw [hkept, harr]; exact hcal)
      (hp.trans (by decide))
    exact ⟨_, exec_calibrationEnd ha hend.idle, hend.field, hend.err, hend.permanent⟩
  case other =>
    have hend := endCalibration_other hmode fit
    exact (exec_calibrationEnd ha (by rw [hend, hrun])).trans (congrArg _ hend)

end Sys2Proof.Laws

/-! PROOFS. The write budget: what a tick of grants begins, and its load notice (R75, R80 to R82, R88, R331). -/

namespace Sys2Proof.Laws
open Sys2Proof.Machine Sys2Proof.Safety

/-! ### Tables filled entry by entry -/

section
variable {α : Type} [DecidableEq α]

/-- Entries put into a table one after the other leave the key of none of them alone. -/
theorem tget_foldl_tset_ne (d : α) {l : List (Nat × α)} {k : Nat} (h : ∀ e ∈ l, e.1 ≠ k) (t : Tab α) :
    tget d (l.foldl (fun t e => tset d t e.1 e.2) t) k = tget d t k := by
  induction l generalizing t with
  | nil => rfl
  | cons e l ih =>
    obtain ⟨hk, hl⟩ := List.forall_mem_cons.1 h
    rw [List.foldl_cons, ih hl, tget_tset_ne _ _ _ _ _ hk.symm]

/-- Entries with different keys, put into a table one after the other, are found there. -/
theorem tget_foldl_tset (d : α) {l : List (Nat × α)} (h : (l.map (·.1)).Nodup) (t : Tab α) (k : Nat) :
    tget d (l.foldl (fun t e => tset d t e.1 e.2) t) k = tget (tget d t k) l k := by
  induction l generalizing t with
  | nil => rfl
  | cons e l ih =>
    obtain ⟨he, hl⟩ := List.nodup_cons.1 h
    rw [List.foldl_cons, tget]
    by_cases hk : e.1 = k
    · subst hk
      have hrest : ∀ x ∈ l, x.1 ≠ e.1 := fun x hx hxe => he (List.mem_map.2 ⟨x, hx, hxe⟩)
      rw [tget_foldl_tset_ne d hrest, tget_tset_same, if_pos rfl]
    · rw [ih hl, tget_tset_ne _ _ _ _ _ (Ne.symm hk), if_neg hk]

omit [DecidableEq α] in
theorem tget_map_mk (d : α) (f : Nat → α) {l : List Nat} {k : Nat} (h : k ∈ l) : tget d (l.map fun c => (c, f c)) k = f k := by
  induction l with
  | nil => cases h
  | cons c l ih =>
    rw [List.map_cons, tget]
    by_cases hc : c = k
    · rw [if_pos hc, hc]
    · rw [if_neg hc, ih ((List.mem_cons.1 h).resolve_left (Ne.symm hc))]

end

/-! ### Grants of a tick (R81, R82) -/

section
variable {s : State}

/-- The count of grants that a cluster holds, as a tick starts from it. -/
theorem tget_clusterGrants {c : Nat} (hc : c < 32) :
    tget 0 ((List.range 32).foldl (fun t c => tset 0 t c (grantsIn s c)) []) c = grantsIn s c := by
  have hkeys : ((List.range 32).map fun c => (c, grantsIn s c)).map (·.1) = List.range 32 :=
    (List.map_map ..).trans (List.map_id _)
  have hfold := tget_foldl_tset (0 : Nat) (l := (List.range 32).map fun c => (c, grantsIn s c)) (by rw [hkeys]; exact List.nodup_range) [] c
  rw [List.foldl_map] at hfold
  exact hfold.trans (tget_map_mk _ (grantsIn s) (List.mem_range.2 hc))

/-- Nothing is granted while the package limit is reached. -/
theorem grantAll_full {held : Nat} (h : wbEffective s ≤ held) (ws : List Waiting) (per : Tab Nat) (n : Nat) :
    grantAll ws held per n s = (n, s) := by
  induction ws with
  | nil => rfl
  | cons w rest ih => rw [grantAll, decide_eq_false (Nat.not_lt.2 h), Bool.false_and, if_neg Bool.false_ne_true, ih]

theorem grantTick_none (h : waitingRequests s = [] ∨ wbEffective s ≤ grantsHeld s) : grantTick s = s := by
  have hnone : ∀ per, grantAll (waitingRequests s) (grantsHeld s) per 0 s = (0, s) := by
    intro per
    rcases h with h | h
    · rw [h, grantAll]
    · exact grantAll_full h _ _ _
  simp only [grantTick, hnone, if_true]

/-- A request alone, within both limits, is granted, with the notice of one array's VPROG load (Table 12-3). -/
theorem grantTick_one {a : Nat} {refresh : Bool} (ha : a < 4096) (hwait : waitingRequests s = [⟨refresh, a⟩])
    (hheld : grantsHeld s < wbEffective s) (hin : grantsIn s (a / 128) < fld s.wbCfg 20 16) :
    grantTick s = notice 4 (noticeFrame 0 1 63 2) (if refresh then beginRefresh a s else grantRewrite a s) := by
  have hcluster := tget_clusterGrants (s := s) (show clusterOfArray a < 32 by unfold clusterOfArray; omega)
  simp only [grantTick, hwait, grantAll, hcluster]
  rw [decide_eq_true hheld, show decide (grantsIn s (clusterOfArray a) < fld s.wbCfg 20 16) = true from decide_eq_true hin]
  simp only [Bool.and_self, if_true, Nat.zero_add, one_ne_zero, if_false, Nat.reduceMul, Nat.reduceAdd, Nat.reduceDiv]

/-! ### The load notice (R330, R331) -/

theorem insertNotice_perm (n : Notice) (l : List Notice) : (insertNotice n l).Perm (n :: l) := by
  induction l with
  | nil => exact .refl _
  | cons h t ih =>
    unfold insertNotice
    split
    · exact (ih.cons h).trans (.swap ..)
    · exact .refl _

/-- From s to t a notice of the VPROG domain for the load of one array has fallen due, and no other notice has changed. -/
def LoadNoticed (s t : State) : Prop := ∃ n, t.pwr.notices.Perm (n :: s.pwr.notices) ∧ fld n.frame 31 30 = 0
  ∧ fld n.frame 29 27 = 1 ∧ fld n.frame 20 8 = 2

/-- The frame of one array's VPROG load: kind 0, domain 1, two steps of 0.125 A. -/
theorem notice_vprog : fld (noticeFrame 0 1 63 2) 31 30 = 0 ∧ fld (noticeFrame 0 1 63 2) 29 27 = 1
    ∧ fld (noticeFrame 0 1 63 2) 20 8 = 2 := by decide

theorem notice_noticed {t : State} (rank : Nat) (h : t.pwr = s.pwr) : LoadNoticed s (notice rank (noticeFrame 0 1 63 2) t) := by
  refine ⟨⟨rank, t.rack.toNat, noticeFrame 0 1 63 2, false, false⟩, ?_, notice_vprog.1, notice_vprog.2.1, notice_vprog.2.2⟩
  rw [← h]
  exact insertNotice_perm ..

theorem notice_touches (a rank : Nat) (frame : Word) (s : State) : Touches [.pwr] a s (notice rank frame s) :=
  .of_only (only_of_withParts rfl) (by decide)

end

/-! ### A refresh begins (R75, R88) -/

theorem beginRefresh_touches (a : Nat) (s : State) : Touches [] a s (beginRefresh a s) := .modArr ..

theorem beginRefresh_arr (a : Nat) (s : State) : ∃ w x, arr (beginRefresh a s) a = { arr s a with
      refreshes := satWord (arr s a).refreshes 1, traceRef := [], wrstat := x, write := some w }
    ∧ w.refresh = true ∧ w.rows = List.range 512 := by
  rw [beginRefresh, arr_modArr_same]
  refine ⟨_, _, rfl, rfl, ?_⟩
  dsimp only

/-! ### A rewrite begins (R80, Table 2-9) -/

/-- A write entered by its dirty map: the map gives the rows and is cleared (R80). -/
theorem enterWriting_dirty {a : Nat} {s : State} (h : (arr s a).byCommand = none) : let u := arr s a
    let v := arr (enterWriting a s) a
    ∃ w, v.write = some w ∧ w.refresh = false ∧ w.rows = (List.range 512).filter (fun r => bit u.dirty r) ∧ arrMode v = 1
      ∧ v.dirty = 0#512 ∧ bit v.wrstat 1 = false ∧ v.writes = satWord u.writes 1 ∧ v.granted = u.granted
      ∧ v.request = u.request ∧ v.image = u.image := by
  have hmode : fld (clrBit (setFld (arr s a).state 1 0 1) 15) 1 0 = 1 :=
    (fld_setFld_ne _ _ (by decide)).trans (fld_setFld_same _ 1 (by decide) (by decide))
  have hdue (d : BitVec 512) (hd : d = 0#512) (u : ArrU) : bit (setDirty d u).wrstat 1 = false := by
    rw [setDirty, hd, bne_self_eq_false]
    exact bit_of_fld_zero (fld_setFld_same _ 0 (by decide) (by decide)) (by decide)
  have hdirty (d : BitVec 512) (u : ArrU) : (setDirty d u).dirty = d := rfl
  intro u v
  have hv : v = _ := arr_modArr_same ..
  simp only [h] at hv
  refine ⟨_, congrArg ArrU.write hv, ?_, ?_, ?_, ?_, ?_, ?_, ?_, ?_, ?_⟩
  · rfl
  · dsimp only
  · rw [hv]
    exact hmode
  · rw [hv, hdirty]
  · rw [hv, hdue _ rfl]
  all_goals
    rw [hv]
    rfl

/-- An idle array enters WRITING as its rewrite is granted. -/
theorem grantRewrite_idle {a : Nat} {s : State} (h : idleActive s a = true) : ∃ v, grantRewrite a s = enterWriting a v
    ∧ Touches [] a s v ∧ (arr v a).granted = true ∧ (arr v a).request = none ∧ (arr v a).byCommand = (arr s a).byCommand
    ∧ (arr v a).dirty = (arr s a).dirty ∧ (arr v a).writes = (arr s a).writes ∧ (arr v a).image = (arr s a).image := by
  obtain ⟨-, hdue, hmode, -, -, hwaits⟩ := idleActive_iff.1 h
  let granted : State := modArr s a fun u => { u with granted := true, request := none }
  have harr : arr granted a = { arr s a with granted := true, request := none } := arr_modArr_same ..
  have hat : AtBoundary granted a := (atBoundary_of_idle h).modArr rfl rfl rfl
  have hgrant : grantRewrite a s = boundary a granted := if_pos (by rw [harr]; exact hmode)
  have hentered := boundary_reached hat
  simp only [harr, hwaits.refresh, hwaits.wantRefresh, hwaits.wantCal, hdue, Option.isSome_none, Bool.false_and, Bool.not_false,
    Bool.and_self, Bool.false_eq_true, if_false, if_true] at hentered
  refine ⟨_, hgrant.trans hentered, ((Touches.modArr _ a _ s).trans (.modArr ..)).trans (.modArr ..), ?_⟩
  rw [arr_modArr_same, arr_modArr_same, harr]
  exact ⟨rfl, rfl, rfl, rfl, rfl, rfl⟩

/-! ### The rows -/

section
variable {s : State} {a : Nat} (ha : a < 4096) (hheld : grantsHeld s < wbEffective s) (hin : grantsIn s (a / 128) < fld s.wbCfg 20 16)
include ha hheld hin

theorem grantTick_refresh (hwait : waitingRequests s = [⟨true, a⟩]) : let t := grantTick s
    ∃ w, (arr t a).write = some w ∧ w.refresh = true ∧ w.rows = List.range 512
      ∧ (arr t a).refreshes = satWord (arr s a).refreshes 1 ∧ (arr t a).image = (arr s a).image ∧ LoadNoticed s t
      ∧ Touches [.pwr] a s t := by
  obtain ⟨w, x, hfields, hrefresh, hrows⟩ := beginRefresh_arr a s
  have htouch := beginRefresh_touches a s
  intro t
  have ht : t = notice 4 (noticeFrame 0 1 63 2) (beginRefresh a s) := grantTick_one ha hwait hheld hin
  have harr : arr t a = arr (beginRefresh a s) a := by rw [ht]; rfl
  rw [harr, hfields, ht]
  exact ⟨w, rfl, hrefresh, hrows, rfl, rfl, notice_noticed 4 (htouch.only .pwr (by decide)),
    (htouch.mono (by simp)).trans (notice_touches ..)⟩

theorem grantTick_rewrite (hwait : waitingRequests s = [⟨false, a⟩]) (hidle : idleActive s a = true)
    (hcommand : (arr s a).byCommand = none) : let t := grantTick s
    ∃ w, (arr t a).write = some w ∧ w.refresh = false ∧ arrMode (arr t a) = 1
      ∧ w.rows = (List.range 512).filter (fun r => bit (arr s a).dirty r) ∧ (arr t a).dirty = 0#512
      ∧ bit (arr t a).wrstat 1 = false ∧ (arr t a).writes = satWord (arr s a).writes 1 ∧ (arr t a).granted = true
      ∧ (arr t a).request = none ∧ (arr t a).image = (arr s a).image ∧ LoadNoticed s t ∧ Touches [.pwr] a s t := by
  obtain ⟨v, hgrant, htouch, hgranted, hrequest, hcommand', hdirty, hwrites, himage⟩ := grantRewrite_idle hidle
  obtain ⟨w, hwrite, hrefresh, hrows, hmode, hclear, hdue, hcount, hgranted', hrequest', himage'⟩ :=
    enterWriting_dirty (a := a) (s := v) (hcommand'.trans hcommand)
  have hwriting : Touches [] a s (enterWriting a v) := htouch.trans (enterWriting_touches a v)
  intro t
  have ht : t = notice 4 (noticeFrame 0 1 63 2) (enterWriting a v) := by
    rw [← hgrant]
    exact grantTick_one ha hwait hheld hin
  have harr : arr t a = arr (enterWriting a v) a := by rw [ht]; rfl
  rw [harr, ht, ← hdirty, ← hwrites, ← himage]
  exact ⟨w, hwrite, hrefresh, hmode, hrows, hclear, hdue, hcount, hgranted'.trans hgranted, hrequest'.trans hrequest, himage',
    notice_noticed 4 (hwriting.only .pwr (by decide)), (hwriting.mono (by simp)).trans (notice_touches ..)⟩

end

end Sys2Proof.Laws

/-! PROOFS. The rows of a write: its first row and the shadow codes it reads, and the stop that a corrupt group brings (R74, R75, R274,
Table 3-5). -/

namespace Sys2Proof.Laws
open Sys2Proof.Machine Sys2Proof.Safety

/-! ### A suspected fault of a context (R274, R279, R285) -/

section
variable (c : BitVec 4) (s : State)

theorem sendMsg_only (vc : Nat) (d : DevId) (m : Msg) : Only [.ports, .fabric] s (sendMsg vc d m s) := by
  unfold sendMsg
  split <;> exact only_of_withParts rfl

theorem modCtx_only (f : CtxU → CtxU) : Only [.ctxs] s (modCtx s c f) := only_of_withParts rfl

/-- The context's offer made void, with its epoch open again. -/
def offerVoid : State := modSeal (if sealState (ctxU s c) = 2 then setSealState c 1 s else s) c fun x => { x with offered := false }

/-- A withdrawal does nothing, makes the offer void, or also tells the parent (R279). -/
theorem withdrawOffer_cases : withdrawOffer c s = s ∨ withdrawOffer c s = offerVoid c s
    ∨ ∃ d m, withdrawOffer c s = sendMsg 0 d m (modSeal (offerVoid c s) c fun x => { x with withdrawn := true }) := by
  unfold withdrawOffer
  dsimp only
  split
  case h_1 => exact .inl rfl
  case h_2 h _ =>
    by_cases hoffer : (!(ctxU s c).sealSt.offered || (ctxU s c).sealSt.pendingGo.isSome) = true
    · exact .inl (if_pos hoffer)
    · rw [if_neg hoffer]
      by_cases hroot : h.parent = ownId (offerVoid c s)
      · exact .inr (.inl (if_pos hroot))
      · exact .inr (.inr ⟨_, _, if_neg hroot⟩)

theorem offerVoid_only : Only [.ctxs] s (offerVoid c s) := by
  unfold offerVoid
  split
  · exact only_trans (modCtx_only c s _) (modCtx_only c _ _)
  · exact modCtx_only c s _

theorem withdrawOffer_only : Only [.ctxs, .ports, .fabric] s (withdrawOffer c s) := by
  have hvoid : Only [.ctxs, .ports, .fabric] s (offerVoid c s) := only_mono (offerVoid_only c s) (by simp)
  rcases withdrawOffer_cases c s with h | h | ⟨d, m, h⟩
  all_goals rw [h]
  · exact only_refl _ s
  · exact hvoid
  · exact only_trans hvoid (only_trans (only_mono (modCtx_only c _ _) (by simp)) (only_mono (sendMsg_only _ 0 d m) (by simp)))

/-- A withdrawal leaves the detection that brought it. -/
theorem withdrawOffer_detect : (ctxU (withdrawOffer c s) c).sealSt.detect = (ctxU s c).sealSt.detect := by
  have hvoid : (ctxU (offerVoid c s) c).sealSt.detect = (ctxU s c).sealSt.detect := by
    rw [offerVoid, modSeal, ctxU_modCtx_same]
    split
    · rw [setSealState, ctxU_modCtx_same]
    · rfl
  rcases withdrawOffer_cases c s with h | h | ⟨d, m, h⟩
  all_goals rw [h]
  · exact hvoid
  · have hsent : ctxU (sendMsg 0 d m (modSeal (offerVoid c s) c fun x => { x with withdrawn := true })) c
        = ctxU (modSeal (offerVoid c s) c fun x => { x with withdrawn := true }) c :=
      congrArg (tget CtxU.reset · c.toNat) (sendMsg_only _ 0 d m .ctxs (by decide))
    rw [hsent, modSeal, ctxU_modCtx_same, ← hvoid]

theorem outstanding_only (unc : Bool) : Only [.ctxs, .ports, .fabric] s (outstanding c unc s) :=
  only_trans (only_mono (modCtx_only c s _) (by simp)) (withdrawOffer_only c _)

theorem outstanding_detect (unc : Bool) : (ctxU (outstanding c unc s) c).sealSt.detect = true := by
  rw [outstanding, withdrawOffer_detect, modSeal, ctxU_modCtx_same]

/-- A corrupt group at rest, in a state that has the check's error (R274). -/
theorem atRest_checked : let t := atRest c (relErr 1 s)
    Only [.rel, .ctxs, .ports, .fabric] s t ∧ bit t.rel.err 1 = true ∧ (ctxU t c).sealSt.detect = true := by
  let noted : State := relErr 2 (modRel (relErr 1 s) fun r => { r with detectCnt := satFld r.detectCnt 15 0 1 })
  have hnoted : Only [.rel] s noted := only_of_withParts rfl
  have hrel : (outstanding c true noted).rel = noted.rel := outstanding_only c noted true .rel (by decide)
  have herr : bit (setBit (setBit s.rel.err 1) 2) 1 = true := bit_setBit_of_bit _ (bit_setBit (i := 1) s.rel.err (by decide : 1 < 32))
  refine ⟨only_trans (only_mono hnoted (by simp)) (only_mono (outstanding_only c noted true) (by simp)), ?_, outstanding_detect ..⟩
  show bit (outstanding c true noted).rel.err 1 = true
  rw [hrel]
  exact herr

end

/-! ### The shadow codes of a row (R77, R191, R274) -/

section
variable {s : State} {a r : Nat} {l : Layer} {c : BitVec 4}

/-- Every shadow code of a row can be read: none is out of reach, poisoned or in a group that its check plane contradicts. -/
def shadowReadable (s : State) (l : Layer) (a r : Nat) : Prop := (shadowBytes l a r).all (fun x =>
  accessible s false x && !rangePoisoned s x 1 && !(Machine.seen s x 1).mismatch) = true

/-- What reading the codes of a readable row comes to is what its check finds on the way. -/
theorem readShadow_readable (h : shadowReadable s l a r) {check : CheckSeen} (hspoil : ∀ rs, spoil check rs s = s) :
    readShadow c l a r check s = if check = .atRest then (0x41, atRest c (relErr 1 s))
      else if check = .mismatch then (0, rereadOk (relErr 1 s)) else (0, s) := by
  have hcode : ∀ x ∈ shadowBytes l a r,
      accessible s false x = true ∧ rangePoisoned s x 1 = false ∧ (Machine.seen s x 1).mismatch = false := by
    intro x hx
    have hx := List.all_eq_true.1 h x hx
    simpa only [Bool.and_eq_true, Bool.not_eq_true', and_assoc] using hx
  have hreach : (shadowBytes l a r).all (fun x => accessible s false x) = true := List.all_eq_true.2 fun x hx => (hcode x hx).1
  have hclean : (shadowBytes l a r).any (fun x => rangePoisoned s x 1) = false :=
    List.any_eq_false.2 fun x hx => Bool.eq_false_iff.1 (hcode x hx).2.1
  have hmatch : (shadowBytes l a r).any (fun x => (Machine.seen s x 1).mismatch) = false :=
    List.any_eq_false.2 fun x hx => Bool.eq_false_iff.1 (hcode x hx).2.2
  simp only [readShadow, hspoil, hreach, hclean, hmatch, Bool.not_true, Bool.false_eq_true, if_false, Bool.or_false, decide_eq_true_eq]

end

/-! ### The start of a row (R74, R75) -/

/-- The write as it takes up its next row. -/
def nextRow (w : WriteOp) (r : Nat) (rest : List Nat) (target : List (Nat × Nat)) (band : Nat) : WriteOp := { w with
  rows := rest, row := some r, target := target, iter := 0, low := [], high := [], rowEnded := false, setMv := [], resetMv := []
  vband := band }

/-- The array as its write takes up a row. -/
def rowStarted (w : WriteOp) (r : Nat) (rest : List Nat) (target : List (Nat × Nat)) (band : Nat) (u : ArrU) : ArrU :=
  { u with write := some (nextRow w r rest target band) }

section
variable {s : State} {a r : Nat} {w : WriteOp} {rest : List Nat} (hw : (arr s a).write = some w) (hrows : w.rows = r :: rest)
include hw hrows

/-- The next row of a refresh takes its targets from the cell image, one of a rewrite from the shadow. -/
theorem startRow_next (check : CheckSeen) : startRow a check s =
    let band := fld (arr s a).wrcfg 2 0
    if w.refresh then modArr s a (rowStarted w r rest (if w.startup then [] else
      (imageRow (arr s a) r).filter (fun e => e.1 % 66 != 64)
        ++ ((List.range 8).map fun g => (refCol g, r % 4)).filter fun e => e.2 != 0) band)
    else match layerOfArray s a with
      | none => shadowStop a 0x51 w s
      | some (c, l) =>
        let (st, t) := readShadow c l a r check s
        if st = 0 then modArr t a (rowStarted w r rest (rowTarget (lWidth l) r (shadowRow t l a r)) band)
        else shadowStop a st w t := by
  simp only [startRow, hw, hrows]
  rfl

theorem startRow_refresh (hrefresh : w.refresh = true) (check : CheckSeen) : ∃ target,
    startRow a check s = modArr s a (rowStarted w r rest target (fld (arr s a).wrcfg 2 0)) :=
  ⟨_, (startRow_next hw hrows check).trans (if_pos hrefresh)⟩

variable {c : BitVec 4} {l : Layer} (hrefresh : w.refresh = false) (hlayer : layerOfArray s a = some (c, l))
include hrefresh hlayer

/-- A rewrite goes on with a row whose shadow it could read. -/
theorem startRow_shadow {check : CheckSeen} {t : State} (hread : readShadow c l a r check s = (0, t)) : startRow a check s
    = modArr t a (rowStarted w r rest (rowTarget (lWidth l) r (shadowRow t l a r)) (fld (arr s a).wrcfg 2 0)) := by
  have hnext := startRow_next hw hrows check
  simp only [hrefresh, hlayer, hread, Bool.false_eq_true, if_false, if_true] at hnext
  exact hnext

/-- A rewrite stops at a row whose shadow it could not read. -/
theorem startRow_stopped {check : CheckSeen} {t : State} {status : Nat} (hread : readShadow c l a r check s = (status, t))
    (hstatus : status ≠ 0) : startRow a check s = shadowStop a status w t := by
  have hnext := startRow_next hw hrows check
  simp only [hrefresh, hlayer, hread, hstatus, Bool.false_eq_true, if_false] at hnext
  exact hnext

end

/-! ### Leaving a write (R80, Table 2-9) -/

/-- v is u but for what the exit from a write changes: the write's registers, its grant and the image stand. -/
structure WriteKept (u v : ArrU) : Prop where
  write : v.write = u.write
  granted : v.granted = u.granted
  wrstat : v.wrstat = u.wrstat
  wrerr : v.wrerr = u.wrerr
  wrtime : v.wrtime = u.wrtime
  image : v.image = u.image

theorem WriteKept.trans {u v w : ArrU} (h : WriteKept u v) (h2 : WriteKept v w) : WriteKept u w :=
  ⟨h2.write.trans h.write, h2.granted.trans h.granted, h2.wrstat.trans h.wrstat, h2.wrerr.trans h.wrerr, h2.wrtime.trans h.wrtime,
    h2.image.trans h.image⟩

section
variable (a : Nat) (s : State)

theorem enterCal_writeKept (cause : Nat) (periodic : Bool) : WriteKept (arr s a) (arr (enterCal a cause periodic s) a) := by
  obtain ⟨hfields, -⟩ := enterCal_arr a cause periodic s
  rw [hfields]
  exact ⟨rfl, rfl, rfl, rfl, rfl, rfl⟩

theorem enterRefresh_writeKept (cause : Nat) : WriteKept (arr s a) (arr (enterRefresh a cause s) a) := by
  obtain ⟨w, o, hfields⟩ := enterRefresh_fields a s cause
  rw [hfields]
  exact ⟨rfl, rfl, rfl, rfl, rfl, rfl⟩

theorem enterActive_touches : Touches [] a s (enterActive a s) := .modArr ..

theorem enterActive_writeKept : WriteKept (arr s a) (arr (enterActive a s) a) := by
  rw [enterActive, arr_modArr_same]
  exact ⟨rfl, rfl, rfl, rfl, rfl, rfl⟩

end

section
variable {a : Nat} {s : State}

/-- An array without a grant leaves its write by a refresh, a calibration or ACTIVE (Table 2-9). -/
theorem exitRule_released (h : (arr s a).granted = false) :
    WriteKept (arr s a) (arr (exitRule a s) a) ∧ Touches [.mon] a s (exitRule a s) := by
  let ended : State := modArr s a fun u => { u with cal := none }
  have harr : arr ended a = { arr s a with cal := none } := arr_modArr_same ..
  have hkept : WriteKept (arr s a) (arr ended a) := by
    rw [harr]
    exact ⟨rfl, rfl, rfl, rfl, rfl, rfl⟩
  have htouch : Touches [.mon] a s ended := .modArr ..
  have hgranted : (bit (arr ended a).state 15 && (arr ended a).granted) = false := by rw [hkept.granted, h, Bool.and_false]
  unfold exitRule
  dsimp only
  rw [hgranted, if_neg Bool.false_ne_true]
  split
  · exact ⟨hkept.trans (enterRefresh_writeKept ..), htouch.trans ((enterRefresh_touches ..).mono (by simp))⟩
  split
  · exact ⟨hkept.trans (enterCal_writeKept ..), htouch.trans (enterCal_touches ..)⟩
  · exact ⟨hkept.trans (enterActive_writeKept ..), htouch.trans ((enterActive_touches ..).mono (by simp))⟩

/-- The array as the end of its write frees the grant (R80). -/
def released (n : Nat) (u : ArrU) : ArrU := requestRewrite n { u with granted := false, write := none }

theorem released_fields (n : Nat) (u : ArrU) : ∃ x y, released n u = { u with
    granted := false, write := none, stamp := x, request := y } := by
  unfold released requestRewrite
  split
  · exact ⟨u.stamp, u.request, rfl⟩
  · exact ⟨_, _, rfl⟩

theorem released_clean {n : Nat} {u : ArrU} (h : u.dirty = 0#512) : released n u = { u with granted := false, write := none } :=
  if_pos h

theorem writeServed_idle (h : s.host.running = []) (w : WriteOp) (status : Nat) : writeServed a w status s = s := by
  unfold writeServed
  split
  · rfl
  · split
    · rw [h]
      rfl
    · exact arrayWriteDone_idle h ..

/-! ### A shadow that cannot be read (R274, Table 3-5) -/

/-- The registers of an array whose write a shadow failure cut short. -/
def shadowFailed (w : WriteOp) (time : Nat) (u : ArrU) : ArrU :=
  let v := stoppedCounts w time { u with wrerr := setBit (setBit u.wrerr 3) 4 }
  { v with wrstat := clrBit v.wrstat 0 }

theorem stoppedCounts_fields (w : WriteOp) (time : Nat) (u : ArrU) : ∃ x y, stoppedCounts w time u = { u with wrstat := x, wrtime := y }
    ∧ fld x 3 2 = 3 :=
  ⟨setFld (setFld u.wrstat 23 16 (min 255 w.stuck)) 3 2 3, _, rfl, fld_setFld_same _ 3 (by decide) (by decide)⟩

theorem shadowFailed_fields (w : WriteOp) (time : Nat) (u : ArrU) : ∃ x y z, shadowFailed w time u = { u with
      wrstat := x, wrtime := y, wrerr := z }
    ∧ bit x 0 = false ∧ fld x 3 2 = 3 ∧ bit z 3 = true ∧ bit z 4 = true := by
  have hlost : bit (setBit (setBit u.wrerr 3) 4) 3 = true := bit_setBit_of_bit _ (bit_setBit (i := 3) u.wrerr (by decide : 3 < 32))
  have hshadow : bit (setBit (setBit u.wrerr 3) 4) 4 = true := bit_setBit (i := 4) _ (by decide : 4 < 32)
  unfold shadowFailed
  generalize setBit (setBit u.wrerr 3) 4 = z at *
  obtain ⟨x, y, hcounts, hlast⟩ := stoppedCounts_fields w time { u with wrerr := z }
  rw [hcounts]
  exact ⟨clrBit x 0, y, z, rfl, bit_of_fld_zero (fld_setFld_same x 0 (le_refl 0) (by decide)) (by decide),
    (fld_setFld_ne x 0 (by decide)).trans hlast, hlost, hshadow⟩

/-- With no command in flight, a write whose shadow failed is gone, and its array leaves by Table 2-9. -/
theorem shadowStop_idle (hrun : s.host.running = []) (status : Nat) (w : WriteOp) : let t := shadowStop a status w s
    let v := arr t a
    v.write = none ∧ v.granted = false ∧ bit v.wrstat 0 = false ∧ fld v.wrstat 3 2 = 3 ∧ bit v.wrerr 3 = true
      ∧ bit v.wrerr 4 = true ∧ v.image = (arr s a).image ∧ Touches [.counters, .mon] a s t := by
  let drawn : State := (drawFree s).2
  let left : State := releaseGrant a (modArr drawn a (shadowFailed w (drawFree s).1))
  have hleft : arr left a = released s.commits (shadowFailed w (drawFree s).1 (arr s a)) := by
    have h : arr left a = _ := arr_modArr_same ..
    rwa [arr_modArr_same] at h
  obtain ⟨x, y, z, hfailed, hvalid, hlast, hlost, hshadow⟩ := shadowFailed_fields w (drawFree s).1 (arr s a)
  obtain ⟨stamp, request, hreleased⟩ := released_fields s.commits (shadowFailed w (drawFree s).1 (arr s a))
  have hunit : arr left a = { arr s a with
      wrstat := x, wrtime := y, wrerr := z, granted := false, write := none, stamp := stamp, request := request } := by
    rw [hleft, hreleased, hfailed]
  have htouch : Touches [.counters, .mon] a s left :=
    ((Touches.of_only (ps := [.counters]) (only_of_withParts rfl) (by decide)).mono (by simp)).trans
      ((Touches.modArr _ a _ drawn).trans (.modArr ..))
  have hgranted : (arr left a).granted = false := by rw [hunit]
  obtain ⟨hkept, hexit⟩ := exitRule_released hgranted
  have hhost : (exitRule a left).host = s.host := (htouch.trans (hexit.mono (by simp))).only .host (by decide)
  have hidle : (exitRule a left).host.running = [] := by rw [hhost, hrun]
  have hstop : shadowStop a status w s = exitRule a left := by
    have hrun' : left.host.running = [] := hrun
    show sweepDestroy (exitRule a (writeServed a w status left)) = _
    rw [writeServed_idle hrun', sweepDestroy_idle hidle]
  intro t v
  have hv : v = arr (exitRule a left) a := congrArg (arr · a) hstop
  have ht : t = exitRule a left := hstop
  rw [hv, ht, hkept.write, hkept.granted, hkept.wrstat, hkept.wrerr, hkept.image, hunit]
  exact ⟨rfl, rfl, hvalid, hlast, hlost, hshadow, rfl, htouch.trans (hexit.mono (by simp))⟩

end

/-! ### The rows of WRITE_FIRST_ROW -/

theorem firstRow_none {s : State} {a : Nat} (hw : (arr s a).write = none) (check : CheckSeen) : firstRow a check s = s := by
  simp only [firstRow, hw]

section
variable {s : State} {a : Nat} {w : WriteOp} (hw : (arr s a).write = some w)
include hw

/-- No row starts before the notice of VPROG has been sent (R331). -/
theorem firstRow_unsent (h : noticeUnsent s 1 63 = true) (check : CheckSeen) : firstRow a check s = s := by
  simp only [firstRow, hw, h, Bool.not_true, Bool.and_false, Bool.false_eq_true, if_false]

variable (hrow : w.row = none) (hdone : w.rowsDone = 0) (hclosing : w.closing = false) (hsent : noticeUnsent s 1 63 = false)
include hrow hdone hclosing hsent

theorem firstRow_starts (check : CheckSeen) : firstRow a check s = startRow a check s := by
  simp only [firstRow, hw, hrow, hdone, hclosing, hsent, Option.isNone_none, Bool.not_false, Bool.and_true, decide_true, if_true]

variable {r : Nat} {rest : List Nat} (hrows : w.rows = r :: rest)
include hrows

theorem firstRow_refresh (hrefresh : w.refresh = true) (check : CheckSeen) : ∃ target, firstRow a check s
    = modArr s a (rowStarted w r rest target (fld (arr s a).wrcfg 2 0)) := by
  rw [firstRow_starts hw hrow hdone hclosing hsent]
  exact startRow_refresh hw hrows hrefresh check

variable (hrefresh : w.refresh = false) {c : BitVec 4} {l : Layer} (hlayer : layerOfArray s a = some (c, l))
  (hread : shadowReadable s l a r)
include hrefresh hlayer hread

theorem firstRow_good : firstRow a .good s
    = modArr s a (rowStarted w r rest (rowTarget (lWidth l) r (shadowRow s l a r)) (fld (arr s a).wrcfg 2 0)) := by
  rw [firstRow_starts hw hrow hdone hclosing hsent]
  exact startRow_shadow hw hrows hrefresh hlayer (readShadow_readable hread fun _ => rfl)

theorem firstRow_mismatch : ∃ target, firstRow a .mismatch s
    = modArr (rereadOk (relErr 1 s)) a (rowStarted w r rest target (fld (arr s a).wrcfg 2 0)) := by
  rw [firstRow_starts hw hrow hdone hclosing hsent]
  exact ⟨_, startRow_shadow hw hrows hrefresh hlayer (readShadow_readable hread fun _ => rfl)⟩

theorem firstRow_atRest : firstRow a .atRest s = shadowStop a 0x41 w (atRest c (relErr 1 s)) := by
  rw [firstRow_starts hw hrow hdone hclosing hsent]
  exact startRow_stopped hw hrows hrefresh hlayer (readShadow_readable hread fun _ => rfl) (by decide)

end

end Sys2Proof.Laws

/-! PROOFS. An iteration of a row: its pulses, and the verify that sorts the columns against the band (R70 to R74, R91). -/

namespace Sys2Proof.Laws
open Sys2Proof.Machine Sys2Proof.Safety

/-! ### The pulse part (R73, R91) -/

/-- A pulse enters the wear record; of the write it adds a group of rows. -/
theorem notePulses_counts (k r : Nat) (w : WriteOp) (u : ArrU) : ∃ g y x, notePulses k r w u
    = ({ w with groups := g }, { u with pulses := u.pulses + w64 k, groups := y, wrstat := x }) := by
  unfold notePulses
  split
  case isTrue h =>
    have hnone : u.pulses + w64 0 = u.pulses := BitVec.add_zero _
    rw [h, hnone]
    exact ⟨w.groups, u.groups, u.wrstat, rfl⟩
  case isFalse =>
    dsimp only
    split
    · exact ⟨w.groups, u.groups, u.wrstat, rfl⟩
    · exact ⟨_, _, _, rfl⟩

theorem pulsePart_counts (r : Nat) (w : WriteOp) (u : ArrU) : ∃ f d g y x, pulsePart r w u
    = ({ w with setMv := f, resetMv := d, groups := g },
      { u with pulses := u.pulses + w64 ((pulses u w r).1.length + (pulses u w r).2.length), groups := y, wrstat := x }) := by
  obtain ⟨g, y, x, h⟩ := notePulses_counts ((pulses u w r).1.length + (pulses u w r).2.length) r
    { w with setMv := raiseMv 1200 (pulses u w r).1 w.setMv, resetMv := raiseMv 1400 (pulses u w r).2 w.resetMv } u
  exact ⟨_, _, g, y, x, h⟩

/-! ### The verify (R72, R74) -/

/-- The columns that a verify reads: the reference columns in a refresh alone. -/
def verifyCols (w : WriteOp) : List Nat := (List.range 528).filter fun p => w.refresh || !isRef p

/-- D_v of a column whose cell takes the row's target. -/
def targetCode (u : ArrU) (w : WriteOp) (r : Nat) (dev : List (Nat × Dy)) (p : Nat) : Nat :=
  verifyCode u p (dyAdd ⟨Int.ofNat (if isRef p && !w.refresh then r % 4 else tget 0 w.target p), 0⟩ (deviation dev p))

def belowBand (u : ArrU) (w : WriteOp) (r : Nat) (dev : List (Nat × Dy)) : List Nat :=
  (verifyCols w).filter fun p => decide (targetCode u w r dev p + w.vband < 8 * tget 0 w.target p)

def aboveBand (u : ArrU) (w : WriteOp) (r : Nat) (dev : List (Nat × Dy)) : List Nat :=
  (verifyCols w).filter fun p => decide (8 * tget 0 w.target p + w.vband < targetCode u w r dev p)

section
variable {w : WriteOp} {p : Nat} (u : ArrU) (r : Nat) (dev : List (Nat × Dy)) (hp : p < 528) (href : isRef p = false)
include hp href

theorem mem_verifyCols : p ∈ verifyCols w := by
  rw [verifyCols, List.mem_filter, href]
  exact ⟨List.mem_range.2 hp, Bool.or_true _⟩

theorem mem_belowBand : p ∈ belowBand u w r dev
    ↔ verifyCode u p (dyAdd ⟨Int.ofNat (tget 0 w.target p), 0⟩ (deviation dev p)) + w.vband < 8 * tget 0 w.target p := by
  rw [belowBand, List.mem_filter, and_iff_right (mem_verifyCols hp href), decide_eq_true_eq, targetCode, href]
  rfl

theorem mem_aboveBand : p ∈ aboveBand u w r dev
    ↔ 8 * tget 0 w.target p + w.vband < verifyCode u p (dyAdd ⟨Int.ofNat (tget 0 w.target p), 0⟩ (deviation dev p)) := by
  rw [aboveBand, List.mem_filter, and_iff_right (mem_verifyCols hp href), decide_eq_true_eq, targetCode, href]
  rfl

end

/-! ### The end of an iteration -/

theorem iterationEnd_touches (a : Nat) (dev : List (Nat × Dy)) (s : State) : Touches [] a s (iterationEnd a dev s) := .modArr ..

theorem iterationEnd_none {s : State} {a : Nat} (h : (arr s a).write = none) (dev : List (Nat × Dy)) :
    arr (iterationEnd a dev s) a = arr s a := by
  rw [iterationEnd, arr_modArr_same]
  simp only [h]

/-- Neither the pulses nor their count change what a column reads, so the verify sorts by the targets as the array stands with its
held trims (R70). -/
theorem iterationEnd_arr {s : State} {a r : Nat} {w : WriteOp} (hw : (arr s a).write = some w) (hrow : w.row = some r)
    (hended : w.rowEnded = false) (hstart : w.startup = false) (dev : List (Nat × Dy)) : let u := applyTrims (arr s a)
    let low := belowBand u w r dev
    let high := aboveBand u w r dev
    ∃ f d g y x, arr (iterationEnd a dev s) a = { u with
      pulses := u.pulses + w64 ((pulses u w r).1.length + (pulses u w r).2.length), groups := y, wrstat := x
      write := some { w with
        setMv := f, resetMv := d, groups := g, iter := w.iter + 1, low := low, high := high
        rowEnded := (low.isEmpty && high.isEmpty) || decide (16 ≤ w.iter + 1) } } := by
  intro u low high
  obtain ⟨f, d, g, y, x, hpulse⟩ := pulsePart_counts r w (applyTrims (arr s a))
  refine ⟨f, d, g, y, x, ?_⟩
  rw [iterationEnd, arr_modArr_same]
  simp only [hw, hrow, hended, hpulse, hstart, Bool.false_and, Bool.false_eq_true, if_false]
  rfl

end Sys2Proof.Laws

/-! PROOFS. The end of a row: the cell image takes the row's levels, and the cells out of band are stuck (R76, Table 3-5). -/

namespace Sys2Proof.Laws
open Sys2Proof.Machine Sys2Proof.Safety

/-! ### The cell image (R76) -/

theorem tget_map_add {α : Type} (d : α) (b p : Nat) (t : Tab α) : tget d (t.map fun e => (b + e.1, e.2)) (b + p) = tget d t p := by
  induction t with
  | nil => rfl
  | cons e t ih => simp only [List.map_cons, tget, Nat.add_left_cancel_iff, ih]

section
variable {image : List (Nat × Nat)} {r : Nat} {t : Tab Nat} (ht : ∀ e ∈ t, e.1 < 528)
include ht

theorem rowCells_key {e : Nat × Nat} (he : e ∈ (t.filter fun t => t.2 != 0).map fun t => (528 * r + t.1, t.2)) : e.1 / 528 = r := by
  obtain ⟨x, hx, rfl⟩ := List.mem_map.1 he
  have hlt : x.1 < 528 := ht x (List.mem_filter.1 hx).1
  dsimp only
  omega

/-- Cells of another row keep their levels. -/
theorem tget_setRowImage_ne {k : Nat} (hk : k / 528 ≠ r) : tget 0 (setRowImage image r t) k = tget 0 image k := by
  have hrow : ∀ e ∈ (t.filter fun t => t.2 != 0).map fun t => (528 * r + t.1, t.2), e.1 ≠ k :=
    fun e he hek => hk (hek ▸ rowCells_key ht he)
  have hkeep : ∀ v : Nat, ((k, v).1 / 528 != r) = true := fun v => bne_iff_ne.2 hk
  unfold setRowImage
  dsimp only
  rcases Nat.lt_or_gt_of_ne hk with hlt | hgt
  · have hafter : ∀ e ∈ (image.filter fun c => c.1 / 528 != r).filter fun c => decide (r < c.1 / 528), e.1 ≠ k := by
      intro e he hek
      have hcell : r < e.1 / 528 := of_decide_eq_true (List.mem_filter.1 he).2
      omega
    rw [tget_append_none _ _ _ _ hafter, tget_append_none _ _ _ _ hrow,
      tget_filter _ _ _ _ fun v => decide_eq_true hlt, tget_filter _ _ _ _ hkeep]
  · have hbefore : ∀ e ∈ (image.filter fun c => c.1 / 528 != r).filter fun c => decide (c.1 / 528 < r), e.1 ≠ k := by
      intro e he hek
      have hcell : e.1 / 528 < r := of_decide_eq_true (List.mem_filter.1 he).2
      omega
    rw [List.append_assoc, tget_append _ _ _ _ hbefore, tget_append _ _ _ _ hrow,
      tget_filter _ _ _ _ fun v => decide_eq_true hgt, tget_filter _ _ _ _ hkeep]

omit ht in
/-- A cell of the row takes its level. -/
theorem tget_setRowImage_same (hwf : tabWf 0 t = true) {p : Nat} (hp : p < 528) :
    tget 0 (setRowImage image r t) (528 * r + p) = tget 0 t p := by
  have hrow : (528 * r + p) / 528 = r := by omega
  have hnonzero : (t.filter fun t => t.2 != 0) = t := List.filter_eq_self.2 fun e he => bne_iff_ne.2 (((tabWf_iff 0 t).1 hwf).2 e he)
  have hafter : ∀ e ∈ (image.filter fun c => c.1 / 528 != r).filter fun c => decide (r < c.1 / 528), e.1 ≠ 528 * r + p := by
    intro e he hek
    have hcell : r < e.1 / 528 := of_decide_eq_true (List.mem_filter.1 he).2
    rw [hek, hrow] at hcell
    exact Nat.lt_irrefl r hcell
  have hbefore : ∀ e ∈ (image.filter fun c => c.1 / 528 != r).filter fun c => decide (c.1 / 528 < r), e.1 ≠ 528 * r + p := by
    intro e he hek
    have hcell : e.1 / 528 < r := of_decide_eq_true (List.mem_filter.1 he).2
    rw [hek, hrow] at hcell
    exact Nat.lt_irrefl r hcell
  unfold setRowImage
  dsimp only
  rw [tget_append_none _ _ _ _ hafter, tget_append _ _ _ _ hbefore, hnonzero, tget_map_add]

end

/-! ### The levels of a row -/

section
variable {α : Type} [DecidableEq α] (d : α) {l : List (Nat × α)}

theorem tabWf_foldl_tset {t : Tab α} (h : tabWf d t = true) : tabWf d (l.foldl (fun t e => tset d t e.1 e.2) t) = true := by
  induction l generalizing t with
  | nil => exact h
  | cons e l ih => exact ih (tabWf_tset d t e.1 e.2 h)

theorem mem_tset {t : Tab α} {k : Nat} {v : α} {e : Nat × α} (h : e ∈ tset d t k v) : e = (k, v) ∨ e ∈ t := by
  unfold tset at h
  dsimp only at h
  split at h
  · exact .inr (List.mem_filter.1 h).1
  · exact (tput_mem _ _ _ _ h).imp_right fun h => (List.mem_filter.1 h).1

theorem mem_foldl_tset {t : Tab α} {e : Nat × α} (h : e ∈ l.foldl (fun t e => tset d t e.1 e.2) t) : e ∈ l ∨ e ∈ t := by
  induction l generalizing t with
  | nil => exact .inr h
  | cons x l ih =>
    rcases ih h with h | h
    · exact .inl (List.mem_cons_of_mem _ h)
    · rcases mem_tset d h with rfl | h
      · exact .inl List.mem_cons_self
      · exact .inr h

end

/-- The levels that a row's cells take at its end: its targets, and outside a refresh the reference columns as they stand. -/
def rowLevels (w : WriteOp) (r : Nat) (u : ArrU) : Tab Nat :=
  (if w.refresh then w.target
    else (w.target.filter fun e => !isRef e.1) ++ (imageRow u r).filter fun e => isRef e.1).foldl (fun t e => tset 0 t e.1 e.2) []

section
variable {w : WriteOp} (r : Nat) (u : ArrU)

theorem rowLevels_wf : tabWf 0 (rowLevels w r u) = true := tabWf_foldl_tset 0 rfl

theorem rowLevels_key (hkeys : ∀ e, e ∈ w.target → e.1 < 528) : ∀ e ∈ rowLevels w r u, e.1 < 528 := by
  intro e he
  rcases mem_foldl_tset 0 he with he | he
  · split at he
    · exact hkeys e he
    · rcases List.mem_append.1 he with he | he
      · exact hkeys e (List.mem_filter.1 he).1
      · obtain ⟨x, -, rfl⟩ := List.mem_map.1 (List.mem_filter.1 (List.mem_filter.1 he).1).1
        exact Nat.mod_lt _ (by decide)
  · cases he

/-- A column other than a reference column takes its target. -/
theorem tget_rowLevels (hnodup : (w.target.map (·.1)).Nodup) {p : Nat} (href : isRef p = false) :
    tget 0 (rowLevels w r u) p = tget 0 w.target p := by
  unfold rowLevels
  split
  · exact tget_foldl_tset 0 hnodup [] p
  · have hrefs : ∀ e ∈ (imageRow u r).filter fun e => isRef e.1, e.1 ≠ p := by
      intro e he hep
      have hcol : isRef e.1 = true := (List.mem_filter.1 he).2
      rw [hep, href] at hcol
      cases hcol
    have hdata : ((w.target.filter fun e => !isRef e.1).map (·.1)).Nodup := hnodup.sublist (List.filter_sublist.map _)
    rw [List.foldl_append, tget_foldl_tset_ne _ hrefs, tget_foldl_tset _ hdata, tget_filter]
    · rfl
    · exact fun v => by rw [href, Bool.not_false]

end

/-! ### The row closed -/

/-- The write once its row has ended. -/
def rowClosed (w : WriteOp) (bad : Bool) : WriteOp := { w with
  row := none, rowsDone := w.rowsDone + 1, stuck := w.stuck + (w.low.length + w.high.length)
  mismatch := w.mismatch + if bad then 1 else 0 }

/-- The array once the row of its write has ended: the image has the levels, and cells out of band are noted. -/
def rowStored (w : WriteOp) (r : Nat) (u : ArrU) : ArrU :=
  let stuck := w.low.length + w.high.length
  let v := if stuck = 0 then u else noteStuck w.refresh (w.stuck + stuck) u
  { v with
    image := setRowImage v.image r (rowLevels w r u), stuck := satWord v.stuck stuck
    write := some (rowClosed w (w.startup && rowDisagrees (arrWidth u) w.target)) }

/-- The report of a row's stuck cells: an event of the array, for a refresh with stuck cells alone (Table 3-5). -/
def stuckReported (a : Nat) (w : WriteOp) (s : State) : State :=
  if w.refresh && decide (0 < w.low.length + w.high.length) then addEvent 6#4 a s else s

section
variable {s : State} {a r : Nat} {w : WriteOp}

theorem rowEnd_eq (hw : (arr s a).write = some w) (hrow : w.row = some r) (hended : w.rowEnded = true) (check : CheckSeen) :
    rowEnd a check s = startRow a check (stuckReported a w (modArr s a (rowStored w r))) := by
  unfold rowEnd
  rw [hw]
  dsimp only
  rw [hrow]
  exact if_neg (by rw [hended, Bool.not_true]; exact Bool.false_ne_true)

theorem rowEnd_none (hw : (arr s a).write = none) (check : CheckSeen) : rowEnd a check s = s := by
  simp only [rowEnd, hw]

/-- With no row left, VPROG is disconnected. -/
theorem startRow_closing (hw : (arr s a).write = some w) (hrows : w.rows = []) (check : CheckSeen) :
    startRow a check s = modArr s a fun u => { u with write := some { w with closing := true, row := none } } := by
  simp only [startRow, hw, hrows]

end

theorem noteStuck_fields (refresh : Bool) (total : Nat) (u : ArrU) : ∃ x y z c, noteStuck refresh total u = { u with
      wrstat := x, wrerr := y, state := z, refreshCause := c }
    ∧ fld x 23 16 = min 255 total ∧ bit y (if refresh then 1 else 0) = true ∧ z = if refresh then u.state else setBit u.state 16 := by
  have htotal : fld (setFld u.wrstat 23 16 (min 255 total)) 23 16 = min 255 total :=
    (fld_setFld_same _ _ (by decide) (by decide)).trans (Nat.mod_eq_of_lt (by omega))
  have hcount : bit (setBit u.wrerr (if refresh then 1 else 0)) (if refresh then 1 else 0) = true :=
    bit_setBit u.wrerr (by split <;> decide)
  unfold noteStuck
  generalize setFld u.wrstat 23 16 (min 255 total) = x at *
  generalize setBit u.wrerr (if refresh then 1 else 0) = y at *
  cases refresh
  · exact ⟨x, y, _, _, rfl, htotal, hcount, rfl⟩
  · exact ⟨x, y, _, _, rfl, htotal, hcount, rfl⟩

/-- The array's registers once the row has ended, by whether a cell is out of band. -/
theorem rowStored_fields (w : WriteOp) (r : Nat) (u : ArrU) : ∃ x y z c b, rowStored w r u = { u with
      wrstat := x, wrerr := y, state := z, refreshCause := c, image := setRowImage u.image r (rowLevels w r u)
      stuck := satWord u.stuck (w.low.length + w.high.length), write := some (rowClosed w b) }
    ∧ (z = if w.refresh = true ∨ w.low ++ w.high = [] then u.state else setBit u.state 16)
    ∧ (w.low ++ w.high ≠ [] → bit y (if w.refresh then 1 else 0) = true
      ∧ fld x 23 16 = min 255 (w.stuck + w.low.length + w.high.length)) := by
  have hcells : w.low.length + w.high.length = 0 ↔ w.low ++ w.high = [] := by
    rw [← List.length_append, List.length_eq_zero_iff]
  unfold rowStored
  dsimp only
  by_cases hstuck : w.low ++ w.high = []
  · rw [if_pos (hcells.2 hstuck), if_pos (.inr hstuck)]
    exact ⟨_, _, _, _, _, rfl, rfl, fun h => absurd hstuck h⟩
  · obtain ⟨x, y, z, c, hnoted, htotal, hbit, hstate⟩ := noteStuck_fields w.refresh (w.stuck + (w.low.length + w.high.length)) u
    rw [if_neg (mt hcells.1 hstuck), hnoted]
    refine ⟨x, y, z, c, _, rfl, hstate.trans ?_, fun _ => ⟨hbit, htotal.trans (by rw [Nat.add_assoc])⟩⟩
    simp only [hstuck, or_false]

section
variable (a : Nat) (w : WriteOp) (s : State)

theorem stuckReported_only : Only reportParts s (stuckReported a w s) := by
  unfold stuckReported
  split
  · exact addEvent_only 6#4 a s
  · exact only_refl _ s

theorem stuckReported_quiet (h : w.refresh = false ∨ w.low ++ w.high = []) : stuckReported a w s = s := by
  refine if_neg ?_
  rcases h with h | h
  · rw [h, Bool.false_and]
    exact Bool.false_ne_true
  · rw [← List.length_append, h]
    simp

end

/-- The last row of a write: the image has its levels, and the write closes. -/
theorem rowEnd_last {s : State} {a r : Nat} {w : WriteOp} (hw : (arr s a).write = some w) (hrow : w.row = some r)
    (hended : w.rowEnded = true) (hrows : w.rows = []) (check : CheckSeen) : let t := rowEnd a check s
    (∃ b, arr t a = { rowStored w r (arr s a) with write := some { rowClosed w b with closing := true, row := none } })
      ∧ Touches reportParts a s t ∧ ((w.refresh = false ∨ w.low ++ w.high = []) → Touches [] a s t) := by
  let stored : State := modArr s a (rowStored w r)
  have hreport := stuckReported_only a w stored
  have harr : arr (stuckReported a w stored) a = rowStored w r (arr s a) :=
    (congrArg (tget ArrU.reset · a) (hreport .arrays (by decide))).trans (arr_modArr_same ..)
  obtain ⟨x, y, z, c, b, hfields, -⟩ := rowStored_fields w r (arr s a)
  have hwrite : (arr (stuckReported a w stored) a).write = some (rowClosed w b) := by rw [harr, hfields]
  have hclosing := (rowEnd_eq hw hrow hended check).trans (startRow_closing hwrite hrows check)
  have htouch : Touches reportParts a s (stuckReported a w stored) := (Touches.modArr _ a _ s).trans (.of_only hreport (by decide))
  intro t
  have ht : t = _ := hclosing
  rw [ht, arr_modArr_same, harr]
  refine ⟨⟨b, rfl⟩, htouch.trans (.modArr ..), fun hquiet => ?_⟩
  rw [stuckReported_quiet a w stored hquiet]
  exact (Touches.modArr _ a _ s).trans (.modArr ..)

end Sys2Proof.Laws

/-! PROOFS. The end of a write and of a refresh (R75, R80, R292, Tables 2-9 and 3-11), and the wear copy (R91 to R93). -/

namespace Sys2Proof.Laws
open Sys2Proof.Machine Sys2Proof.Safety

/-! ### The registers at the end -/

/-- The registers at the end of a write, by field; IMAGE_VALID follows ARRAY_WRITE outside start-up (R90). -/
theorem endRegisters_fields (w : WriteOp) (us : Nat) (u : ArrU) : ∃ x y, endRegisters w us u = { u with wrstat := x, wrtime := y }
    ∧ fld x 3 2 = (if w.stuck = 0 then 1 else 2) ∧ (w.startup = false → bit x 0 = (w.command || bit u.wrstat 0))
    ∧ fld y 31 22 = w.rowsDone % 1024 ∧ fld y 21 0 = min us 0x3FFFFF := by
  have hrows : fld (setFld (setFld u.wrtime 31 22 w.rowsDone) 21 0 (min us 0x3FFFFF)) 31 22 = w.rowsDone % 1024 :=
    (fld_setFld_ne _ _ (by decide)).trans (fld_setFld_same _ _ (by decide) (by decide))
  have htime : fld (setFld (setFld u.wrtime 31 22 w.rowsDone) 21 0 (min us 0x3FFFFF)) 21 0 = min us 0x3FFFFF :=
    (fld_setFld_same _ _ (by decide) (by decide)).trans (Nat.mod_eq_of_lt (by omega))
  have hlast : fld (setFld (setFld u.wrstat 23 16 (min 255 w.stuck)) 3 2 (if w.stuck = 0 then 1 else 2)) 3 2
      = if w.stuck = 0 then 1 else 2 :=
    (fld_setFld_same _ _ (by decide) (by decide)).trans (Nat.mod_eq_of_lt (by split <;> decide))
  have hvalid : bit (setFld (setFld u.wrstat 23 16 (min 255 w.stuck)) 3 2 (if w.stuck = 0 then 1 else 2)) 0 = bit u.wrstat 0 :=
    (bit_setFld_ne _ _ (by decide)).trans (bit_setFld_ne _ _ (by decide))
  unfold endRegisters
  generalize setFld (setFld u.wrtime 31 22 w.rowsDone) 21 0 (min us 0x3FFFFF) = y at *
  generalize setFld (setFld u.wrstat 23 16 (min 255 w.stuck)) 3 2 (if w.stuck = 0 then 1 else 2) = x at *
  cases hstart : w.startup
  · cases hcommand : w.command
    · exact ⟨x, y, rfl, hlast, fun _ => hvalid, hrows, htime⟩
    · exact ⟨setBit x 0, y, rfl, (fld_setBit_ne x (by decide)).trans hlast, fun _ => bit_setBit x (by decide), hrows, htime⟩
  · exact ⟨clrBit (setFld x 15 6 w.mismatch) 0, y, rfl, (fld_setFld_ne _ _ (by decide)).trans ((fld_setFld_ne _ _ (by decide)).trans hlast),
      fun h => Bool.noConfusion h, hrows, htime⟩

/-- The state as the frame of a refresh ends: the registers say what it came to. -/
def frameEnded (a us : Nat) (w : WriteOp) (s : State) : State :=
  modArr (modArr s a (endRegisters w us)) a fun u => { u with write := none }

theorem frameEnded_touches (a us : Nat) (w : WriteOp) (s : State) : Touches [] a s (frameEnded a us w s) :=
  (Touches.modArr _ a _ s).trans (.modArr ..)

theorem frameEnded_arr (a us : Nat) (w : WriteOp) (s : State) : ∃ x y,
    arr (frameEnded a us w s) a = { arr s a with wrstat := x, wrtime := y, write := none }
      ∧ fld x 3 2 = (if w.stuck = 0 then 1 else 2) ∧ fld y 31 22 = w.rowsDone % 1024 ∧ fld y 21 0 = min us 0x3FFFFF := by
  obtain ⟨x, y, hregs, hlast, -, hrows, htime⟩ := endRegisters_fields w us (arr s a)
  exact ⟨x, y, by rw [frameEnded, arr_modArr_same, arr_modArr_same, hregs], hlast, hrows, htime⟩

theorem endWrite_none {s : State} {a : Nat} (h : (arr s a).write = none) (us : Nat) : endWrite a us s = s := by
  simp only [endWrite, h]

/-- A fence of an array with no write in its frame leaves the registers of the last one. -/
theorem fencedUnit_wrstat {u : ArrU} (h : u.write = none) (time : Nat) : (fencedUnit time u).wrstat = u.wrstat := by
  have hrestart : (restartProduct u).write = none ∧ (restartProduct u).wrstat = u.wrstat := by
    unfold restartProduct
    split <;> exact ⟨h, rfl⟩
  obtain ⟨hwrite, hstat⟩ := hrestart
  rw [← hstat]
  unfold fencedUnit stopWrite
  rw [hwrite]

section
variable {s : State} {a : Nat} {w : WriteOp} (hw : (arr s a).write = some w) (hclosing : w.closing = true)
include hw hclosing

/-- A rewrite leaves by the exit rule; a refresh ends in a calibration, or with stuck cells in the fence (Table 2-9). -/
theorem endWrite_eq (us : Nat) : endWrite a us s =
    if w.refresh then
      let t := frameEnded a us w s
      if w.stuck = 0 then enterCal a (fld (arr t a).state 13 11) false t
      else if (arr t a).retest then failArrayRetest a t
      else fenceArray a t
    else sweepDestroy (exitRule a (writeServed a w 0 (releaseGrant a (modArr s a (endRegisters w us))))) := by
  simp only [endWrite, hw, hclosing, Bool.not_true, Bool.false_eq_true, if_false]
  rfl

/-- A refresh with no stuck cell ends in a calibration for the refresh's cause (Table 2-9). -/
theorem endWrite_refreshed (us : Nat) (hstuck : w.stuck = 0) (hrefresh : w.refresh = true) : let t := endWrite a us s
    let v := arr t a
    v.write = none ∧ arrMode v = 2 ∧ fld v.state 13 11 = fld (arr s a).state 13 11 ∧ v.cal.isSome = true
      ∧ fld v.wrtime 31 22 = w.rowsDone % 1024 ∧ fld v.wrtime 21 0 = min us 0x3FFFFF ∧ Touches [.mon] a s t := by
  let ended : State := frameEnded a us w s
  obtain ⟨x, y, harr, -, hrows, htime⟩ := frameEnded_arr a us w s
  have hend : endWrite a us s = enterCal a (fld (arr s a).state 13 11) false ended := by
    rw [endWrite_eq hw hclosing us, if_pos hrefresh, if_pos hstuck, harr]
  have hbegun := enterCal_begun a (fld (arr s a).state 13 11) false ended
  have hkept := enterCal_writeKept a ended (fld (arr s a).state 13 11) false
  rw [harr] at hkept
  have htouch : Touches [.mon] a s (enterCal a (fld (arr s a).state 13 11) false ended) :=
    ((frameEnded_touches a us w s).mono (by simp)).trans (enterCal_touches ..)
  have hcause : fld (arr s a).state 13 11 % 8 = fld (arr s a).state 13 11 := Nat.mod_eq_of_lt (fld_lt _ 13 11)
  intro t v
  have ht : t = _ := hend
  have hv : v = _ := congrArg (arr · a) hend
  rw [hv, ht]
  exact ⟨hkept.write, hbegun.mode, hbegun.cause.trans hcause, hbegun.cal, by rw [hkept.wrtime]; exact hrows,
    by rw [hkept.wrtime]; exact htime, htouch⟩

/-- A rewrite ends in ACTIVE where nothing is pending and no row is dirty again (R80, Table 2-9). -/
theorem endWrite_rewritten (us : Nat) (hstuck : w.stuck = 0) (hrefresh : w.refresh = false) (hstart : w.startup = false)
    (hrun : s.host.running = []) (hdirty : (arr s a).dirty = 0#512) (hnone : fld (arr s a).state 16 14 = 0) :
    let t := endWrite a us s
    let v := arr t a
    v.write = none ∧ v.granted = false ∧ arrMode v = 0 ∧ fld v.wrstat 3 2 = 1
      ∧ bit v.wrstat 0 = (w.command || bit (arr s a).wrstat 0) ∧ fld v.wrtime 21 0 = min us 0x3FFFFF
      ∧ v.image = (arr s a).image ∧ Touches [] a s t := by
  let ended : State := releaseGrant a (modArr s a (endRegisters w us))
  let calDone : State := modArr ended a fun u => { u with cal := none }
  obtain ⟨x, y, hregs, hlast, hvalid, -, htime⟩ := endRegisters_fields w us (arr s a)
  have harr : arr ended a = { arr s a with wrstat := x, wrtime := y, granted := false, write := none } := by
    have h : arr ended a = released s.commits (arr (modArr s a (endRegisters w us)) a) := arr_modArr_same ..
    rw [h, arr_modArr_same, hregs]
    exact released_clean hdirty
  have hidle : ended.host.running = [] := hrun
  have hexit : exitRule a ended = enterActive a calDone := exitRule_active (by rw [harr]; exact hnone)
  have hend : endWrite a us s = enterActive a calDone := by
    rw [endWrite_eq hw hclosing us, if_neg (by rw [hrefresh]; exact Bool.false_ne_true), writeServed_idle hidle, hexit]
    exact sweepDestroy_idle hrun
  have hmode : fld (setFld (arr s a).state 1 0 0) 1 0 = 0 := fld_setFld_same _ 0 (by decide) (by decide)
  have hunit : arr (enterActive a calDone) a = backActive { arr s a with wrstat := x, wrtime := y, granted := false, write := none } := by
    rw [enterActive, arr_modArr_same, arr_modArr_same, harr]
    rfl
  intro t v
  have ht : t = _ := hend
  have hv : v = _ := congrArg (arr · a) hend
  rw [hv, ht, hunit]
  rw [if_pos hstuck] at hlast
  exact ⟨rfl, rfl, hmode, hlast, hvalid hstart, htime, rfl,
    (((Touches.modArr _ a _ s).trans (.modArr ..)).trans (.modArr ..)).trans (enterActive_touches ..)⟩

/-- A refresh with stuck cells ends in the fence of its array (R292). -/
theorem endWrite_fenced (us : Nat) (hstuck : w.stuck ≠ 0) (hrefresh : w.refresh = true) (hretest : (arr s a).retest = false)
    (hlive : bit (arr s a).state 17 = false) (hrun : s.host.running = []) (hlaunch : s.launches = []) : let t := endWrite a us s
    bit (arr t a).state 17 = true ∧ fld (arr t a).wrstat 3 2 = 2 ∧ isPermanent t 2#4 a = true ∧ bit t.rel.err 12 = true
      ∧ Touches (.counters :: .ident :: .rel :: reportParts) a s t := by
  let ended : State := frameEnded a us w s
  obtain ⟨x, y, harr, hlast, -⟩ := frameEnded_arr a us w s
  have hnoretest : (arr ended a).retest = false := by rw [harr]; exact hretest
  have hend : endWrite a us s = fenceReported a ended := by
    rw [endWrite_eq hw hclosing us, if_pos hrefresh, if_neg hstuck, if_neg (by rw [hnoretest]; exact Bool.false_ne_true)]
    exact fenceArray_quiet (by rw [harr]; exact hlive) hrun hlaunch
  have hfree : (arr ended a).write = none := by rw [harr]
  have hstat : (arr (fenceReported a ended) a).wrstat = x := by
    rw [fenceReported_arr, fencedUnit_wrstat hfree, harr]
  obtain ⟨hfence, -, -⟩ := fenceReported_fenced a ended
  intro t
  have ht : t = _ := hend
  rw [if_neg hstuck] at hlast
  rw [ht, hstat]
  exact ⟨hfence, hlast, fenceReported_permanent .., fenceReported_rel ..,
    ((frameEnded_touches a us w s).mono (by simp)).trans (fenceReported_touches ..)⟩

end

/-! ### The wear copy (R91 to R93, Table 14-8) -/

/-- The wear records of arrays, saved one after the other. -/
def wearSaved (s : State) (as : List Nat) (t : Tab WearRec) : Tab WearRec :=
  (as.map fun a => (a, wearOf (arr s a))).foldl (fun t e => tset ⟨0#32, 0#32, 0#64, 0#32, 0#32, []⟩ t e.1 e.2) t

theorem foldl_saveWear (s : State) (as : List Nat) :
    as.foldl (fun s a => saveWear a s) s = modSec s fun x => { x with wear := wearSaved s as x.wear } := by
  induction as generalizing s with
  | nil => rfl
  | cons a as ih =>
    rw [List.foldl_cons, ih]
    rfl

theorem tget_wearSaved {s : State} {as : List Nat} (hnodup : as.Nodup) {a : Nat} (ha : a ∈ as) (t : Tab WearRec) :
    tget ⟨0#32, 0#32, 0#64, 0#32, 0#32, []⟩ (wearSaved s as t) a = wearOf (arr s a) := by
  have hkeys : (as.map fun a => (a, wearOf (arr s a))).map (·.1) = as := (List.map_map ..).trans (List.map_id _)
  rw [wearSaved, tget_foldl_tset _ (by rw [hkeys]; exact hnodup), tget_map_mk _ (fun a => wearOf (arr s a)) ha]

/-- The arrays of a cluster. -/
abbrev clusterArrays (c : Nat) : List Nat := (List.range 128).map (128 * c + ·)

theorem clusterArrays_nodup (c : Nat) : (clusterArrays c).Nodup := List.nodup_range.map (add_right_injective _)

theorem mem_clusterArrays (a : Nat) : a ∈ clusterArrays (a / 128) :=
  List.mem_map.2 ⟨a % 128, List.mem_range.2 (Nat.mod_lt _ (by decide)), Nat.div_add_mod a 128⟩

/-- The payload of a cluster's WEAR record: 256 B of each of its arrays (Table 3-12). -/
theorem wearPayload_length (s : State) (c : Nat) : ((clusterArrays c).flatMap fun a => wearBytes (arr s a)).length = 32768 := by
  have hrecord : ∀ a, (wearBytes (arr s a)).length = 256 := fun a => by rw [wearBytes, List.length_map, List.length_range]
  rw [List.length_flatMap]
  simp only [hrecord, List.map_const', List.sum_replicate, List.length_map, List.length_range, smul_eq_mul, Nat.reduceMul]

/-- A record added to the journal is its newest. -/
theorem journalAdd_newest (j : List (List LogRec)) (r : LogRec) : (journalAdd j r).flatten.getLast? = some r := by
  unfold journalAdd
  split
  · split <;> simp
  · rfl

theorem logRefresh_stat (s : State) : ∃ x, logRefresh s = modSec s fun y => { y with logStat := x } := by
  unfold logRefresh modSec
  dsimp only
  generalize setFld _ 14 8 _ = x
  exact ⟨x, rfl⟩

theorem modSec_modSec (s : State) (f g : SecU → SecU) : modSec (modSec s f) g = modSec s fun x => g (f x) := rfl

theorem modSec_only (f : SecU → SecU) (s : State) : Only [.sec] s (modSec s f) := only_of_withParts rfl

/-- A record that the journal can take joins it with the next number; of the store nothing else changes but LOG_STAT. -/
theorem logAddFor_fits {s : State} {kind : Byte} {payload : List Byte} (hfull : s.sec.full = false)
    (hfits : journalFits s.sec.journal payload.length = true) (unit : Nat) : ∃ x,
    logAddFor unit kind payload s = modSec s fun y => { y with
      seq := s.sec.seq + 1, logStat := x
      journal := journalAdd y.journal ⟨kind, false, s.sec.seq + 1, logTime s, s.sec.seq + 1, unit, payload⟩ } := by
  unfold logAddFor
  rw [hfull, Bool.false_and, if_neg Bool.false_ne_true, if_pos hfits]
  obtain ⟨x, h⟩ := logRefresh_stat (modSec s fun y => { y with
    seq := s.sec.seq + 1
    journal := journalAdd y.journal ⟨kind, false, s.sec.seq + 1, logTime s, s.sec.seq + 1, unit, payload⟩ })
  exact ⟨x, h.trans (modSec_modSec s _ _)⟩

theorem copyWear_complete {s : State} {a : Nat} (hfull : s.sec.full = false) (hfits : journalFits s.sec.journal 32768 = true) :
    let t := copyWear (a / 128) s
    (∃ r, (logRecords t).getLast? = some r ∧ r.kind = 0x08#8 ∧ r.unit = a / 128) ∧ t.sec.seq = s.sec.seq + 1
      ∧ tget ⟨0#32, 0#32, 0#64, 0#32, 0#32, []⟩ t.sec.wear a = wearOf (arr s a) ∧ Only [.sec] s t := by
  let saved : State := modSec s fun x => { x with wear := wearSaved s (clusterArrays (a / 128)) x.wear }
  have hcopy : copyWear (a / 128) s
      = logAddFor (a / 128) 0x08#8 ((clusterArrays (a / 128)).flatMap fun a => wearBytes (arr saved a)) saved := by
    unfold copyWear
    dsimp only
    rw [foldl_saveWear]
  obtain ⟨x, hadd⟩ := logAddFor_fits (s := saved) (kind := 0x08#8)
    (payload := (clusterArrays (a / 128)).flatMap fun a => wearBytes (arr saved a)) hfull
    (by rw [wearPayload_length]; exact hfits) (a / 128)
  have hnewest := journalAdd_newest saved.sec.journal ⟨0x08#8, false, saved.sec.seq + 1, logTime saved, saved.sec.seq + 1, a / 128,
    (clusterArrays (a / 128)).flatMap fun a => wearBytes (arr saved a)⟩
  have hwear : saved.sec.wear = wearSaved s (clusterArrays (a / 128)) s.sec.wear := rfl
  have hsaved := tget_wearSaved (s := s) (clusterArrays_nodup _) (mem_clusterArrays a) s.sec.wear
  rw [← hwear] at hsaved
  intro t
  have ht : t = _ := hcopy.trans hadd
  rw [ht]
  exact ⟨⟨_, hnewest, rfl, rfl⟩, rfl, hsaved, only_trans (modSec_only _ s) (modSec_only _ saved)⟩

end Sys2Proof.Laws

/-! PROOFS. The obligation on writes and refreshes of an array, from the laws of its rows (R72 to R93, R292). -/

namespace Sys2Proof.Laws
open Sys2Proof.Machine Sys2Proof.Safety

/-! ### The rows -/

section
variable {s : State} {a : Nat} {w : WriteOp} (ha : a < 4096) (hw : (arr s a).write = some w)
include ha hw

/-- A first row whose shadow is corrupt at rest ends the write, and its context's epoch has a detection. -/
theorem writeFirstRow_atRest (hrow : w.row = none) (hdone : w.rowsDone = 0) (hopen : w.closing = false)
    (hsent : noticeUnsent s 1 63 = false) {r : Nat} {rest : List Nat} (hrows : w.rows = r :: rest) (hrefresh : w.refresh = false)
    {c : BitVec 4} {l : Layer} (hlayer : layerOfArray s a = some (c, l)) (hread : shadowReadable s l a r) (hrun : s.host.running = []) :
    ∃ t, exec (.writeFirstRow a .atRest) s = .next t
      ∧ (arr t a).write = none ∧ (arr t a).granted = false ∧ bit (arr t a).wrstat 0 = false
      ∧ fld (arr t a).wrstat 3 2 = 3 ∧ bit (arr t a).wrerr 3 = true ∧ bit (arr t a).wrerr 4 = true
      ∧ bit t.rel.err 1 = true ∧ (ctxU t c).sealSt.detect = true ∧ (arr t a).image = (arr s a).image
      ∧ Touches [.rel, .ctxs, .counters, .ports, .fabric, .mon] a s t := by
  let noted : State := atRest c (relErr 1 s)
  obtain ⟨honly, herr, hdetect⟩ := atRest_checked c s
  have harr : arr noted a = arr s a := congrArg (tget ArrU.reset · a) (honly .arrays (by decide))
  have hhost : noted.host = s.host := honly .host (by decide)
  obtain ⟨hwrite, hgrant, hvalid, hlast, hlost, hshadow, himage, htouch⟩ :=
    shadowStop_idle (a := a) (s := noted) (by rw [hhost, hrun]) 0x41 w
  have hrel : (shadowStop a 0x41 w noted).rel = noted.rel := htouch.only .rel (by decide)
  have hctx : ctxU (shadowStop a 0x41 w noted) c = ctxU noted c :=
    congrArg (tget CtxU.reset · c.toNat) (htouch.only .ctxs (by decide))
  refine ⟨shadowStop a 0x41 w noted, ?_, hwrite, hgrant, hvalid, hlast, hlost, hshadow, ?_, ?_, by rw [himage, harr], ?_⟩
  · exact (onUnit_present ha s (firstRow a .atRest)).trans
      (congrArg _ (firstRow_atRest hw hrow hdone hopen hsent hrows hrefresh hlayer hread))
  · rw [hrel]
    exact herr
  · rw [hctx]
    exact hdetect
  · exact ((Touches.of_only honly (by decide)).mono (by simp)).trans (htouch.mono (by simp))

/-- An iteration sorts the data and checksum columns against the band. -/
theorem writeIterationEnd_row {r : Nat} (hrow : w.row = some r) (hended : w.rowEnded = false) (hstart : w.startup = false)
    (dev : List (Nat × Dy)) : let u := arr s a
    ∃ t w', exec (.writeIterationEnd a dev) s = .next t ∧ (arr t a).write = some w' ∧ w'.iter = w.iter + 1
      ∧ (∀ p, p < 528 → isRef p = false →
          let code := verifyCode (applyTrims u) p (dyAdd ⟨Int.ofNat (tget 0 w.target p), 0⟩ (deviation dev p))
          (p ∈ w'.low ↔ code + w.vband < 8 * tget 0 w.target p) ∧ (p ∈ w'.high ↔ 8 * tget 0 w.target p + w.vband < code))
      ∧ (w'.rowEnded = true ↔ (w'.low = [] ∧ w'.high = []) ∨ 16 ≤ w.iter + 1) ∧ w'.target = w.target
      ∧ (arr t a).pulses = u.pulses + w64 ((pulses u w r).1.length + (pulses u w r).2.length)
      ∧ (arr t a).trims = (applyTrims u).trims ∧ (arr t a).trimHeld = []
      ∧ (arr t a).image = u.image ∧ (arr t a).state = u.state ∧ Touches [] a s t := by
  intro u
  obtain ⟨f, d, g, y, x, hunit⟩ := iterationEnd_arr hw hrow hended hstart dev
  refine ⟨_, _, onUnit_present ha s (iterationEnd a dev), congrArg ArrU.write hunit, rfl, fun p hp href => ?_, ?_, rfl, ?_, ?_, ?_, ?_, ?_,
    iterationEnd_touches a dev s⟩
  · dsimp only
    exact ⟨mem_belowBand _ r dev hp href, mem_aboveBand _ r dev hp href⟩
  · simp only [Bool.or_eq_true, Bool.and_eq_true, List.isEmpty_iff, decide_eq_true_eq]
  · rw [hunit]
    rfl
  · rw [hunit]
  all_goals
    rw [hunit]
    rfl

/-- The last row of a write: its levels are stored, its stuck cells counted, and the write closes. -/
theorem writeRowEnd_row {r : Nat} (hrow : w.row = some r) (hended : w.rowEnded = true) (hrows : w.rows = [])
    (hnodup : (w.target.map (·.1)).Nodup) (hkeys : ∀ e, e ∈ w.target → e.1 < 528) (check : CheckSeen) : let u := arr s a
    ∃ t w', exec (.writeRowEnd a check) s = .next t ∧ (arr t a).write = some w'
      ∧ w'.closing = true ∧ w'.row = none ∧ w'.rowsDone = w.rowsDone + 1 ∧ w'.stuck = w.stuck + w.low.length + w.high.length
      ∧ (arr t a).stuck = satWord u.stuck (w.low.length + w.high.length)
      ∧ (∀ p, p < 528 → isRef p = false → cellLevel (arr t a) r p = tget 0 w.target p)
      ∧ (∀ x p, x ≠ r → p < 528 → cellLevel (arr t a) x p = cellLevel u x p)
      ∧ (arr t a).state = (if w.refresh = true ∨ w.low ++ w.high = [] then u.state else setBit u.state 16)
      ∧ (w.low ++ w.high ≠ [] → bit (arr t a).wrerr (if w.refresh then 1 else 0) = true
          ∧ fld (arr t a).wrstat 23 16 = min 255 (w.stuck + w.low.length + w.high.length))
      ∧ ((w.refresh = false ∨ w.low ++ w.high = []) → Only [.arrays] s t) ∧ Touches reportParts a s t := by
  intro u
  obtain ⟨⟨b, hunit⟩, htouch, hquiet⟩ := rowEnd_last hw hrow hended hrows check
  obtain ⟨x, y, z, c, b', hfields, hstate, hstuck⟩ := rowStored_fields w r u
  rw [hfields] at hunit
  have himage : (arr (rowEnd a check s) a).image = setRowImage u.image r (rowLevels w r u) := by rw [hunit]
  refine ⟨_, _, onUnit_present ha s (rowEnd a check), congrArg ArrU.write hunit, rfl, rfl, rfl, (Nat.add_assoc ..).symm, ?_,
    fun p hp href => ?_, fun row p hne hp => ?_, ?_, fun hcells => ?_, fun h => (hquiet h).only, htouch⟩
  · rw [hunit]
  · rw [cellLevel, himage, tget_setRowImage_same (rowLevels_wf r u) hp, tget_rowLevels r u hnodup href]
  · have hrow : (528 * row + p) / 528 = row := by omega
    rw [cellLevel, himage, tget_setRowImage_ne (rowLevels_key r u hkeys) (by rwa [hrow]), cellLevel]
  · rw [hunit, ← hstate]
  · rw [hunit]
    exact hstuck hcells

end

/-! ### The obligation -/

/-- Settles O43: each row of a write, a refresh and the wear copy is one of the laws above. -/
theorem arrayWriteRowsComplete : Obligations.ArrayWriteRowsComplete := by
  unfold Obligations.ArrayWriteRowsComplete
  intro s a ha u c others readable
  have hunit (f : State → State) : onUnit 4096 a s f = .next (f s) := onUnit_present ha s f
  refine ⟨fun hnone => ?nothing, fun hfull => ?full, fun hheld hin => ?grants, fun w hw => ?frame, fun hw check us dev => ?idle,
    fun hdue hfull hfits => ?wear, fun hdue => ?fresh⟩
  case nothing => exact congrArg Host.Outcome.next (grantTick_none (.inl hnone))
  case full => exact congrArg Host.Outcome.next (grantTick_none (.inr hfull))
  case grants =>
    intro noticed
    refine ⟨fun hwait => ?refresh, fun hwait hidle hcommand => ?rewrite⟩
    case refresh =>
      obtain ⟨w, hwrite, hrefresh, hrows, hcount, himage, hnotice, htouch⟩ := grantTick_refresh ha hheld hin hwait
      exact ⟨_, w, rfl, hwrite, hrefresh, hrows, hcount, himage, hnotice, htouch.others, htouch.only⟩
    case rewrite =>
      obtain ⟨w, hwrite, hrefresh, hmode, hrows, hdirty, hdue, hcount, hgrant, hrequest, himage, hnotice, htouch⟩ :=
        grantTick_rewrite ha hheld hin hwait hidle hcommand
      exact ⟨_, w, rfl, hwrite, hrefresh, hmode, hrows, hdirty, hdue, hcount, hgrant, hrequest, himage, hnotice, htouch.others, htouch.only⟩
  case frame =>
    refine ⟨fun hunsent check => ?unsent, fun hrow hdone hopen hsent r rest hrows => ?first,
      fun r dev hrow hended hstart => ?iteration, fun r check hrow hended hrows hnodup hkeys => ?row,
      fun us hclosing hstuck hrefresh => ?refreshed, fun us hclosing hstuck hrefresh hstart hrun hdirty hnone => ?rewritten,
      fun us hclosing hstuck hrefresh hretest hlive hrun hlaunch => ?fenced⟩
    case unsent => exact (hunit _).trans (congrArg _ (firstRow_unsent hw hunsent check))
    case first =>
      refine ⟨fun x l hrefresh hlayer hread => ?good, fun x l hrefresh hlayer hread => ?path, fun hrefresh check => ?image,
        fun x l hrefresh hlayer hread hrun => ?rest⟩
      case good =>
        have hgood := firstRow_good hw hrow hdone hopen hsent hrows hrefresh hlayer hread
        let f := rowStarted w r rest (rowTarget (lWidth l) r (shadowRow s l a r)) (fld u.wrcfg 2 0)
        have htouch : Touches [] a s (modArr s a f) := .modArr ..
        exact ⟨_, (hunit _).trans (congrArg _ hgood), arr_modArr_same s a f, htouch.others, htouch.only⟩
      case path =>
        obtain ⟨target, hpath⟩ := firstRow_mismatch hw hrow hdone hopen hsent hrows hrefresh hlayer hread
        have hcheck : Touches [.rel] a s (rereadOk (relErr 1 s)) := .of_only (only_of_withParts rfl) (by decide)
        have htouch := hcheck.trans (.modArr [.rel] a (rowStarted w r rest target (fld u.wrcfg 2 0)) _)
        have harr := arr_modArr_same (rereadOk (relErr 1 s)) a (rowStarted w r rest target (fld u.wrcfg 2 0))
        exact ⟨_, _, (hunit _).trans (congrArg _ hpath), congrArg ArrU.write harr, rfl, bit_setBit (i := 1) s.rel.err (by decide : 1 < 32),
          (congrArg ArrU.wrerr harr).trans rfl, htouch.others, htouch.only⟩
      case image =>
        obtain ⟨target, hstart⟩ := firstRow_refresh hw hrow hdone hopen hsent hrows hrefresh check
        have htouch : Touches [] a s (modArr s a (rowStarted w r rest target (fld u.wrcfg 2 0))) := .modArr ..
        have harr := arr_modArr_same s a (rowStarted w r rest target (fld u.wrcfg 2 0))
        exact ⟨_, _, (hunit _).trans (congrArg _ hstart), congrArg ArrU.write harr, rfl, rfl, rfl, (congrArg ArrU.image harr).trans rfl,
          htouch.others, htouch.only⟩
      case rest =>
        obtain ⟨t, hexec, hwrite, hgrant, hvalid, hlast, hlost, hshadow, herr, hdetect, himage, htouch⟩ :=
          writeFirstRow_atRest ha hw hrow hdone hopen hsent hrows hrefresh hlayer hread hrun
        exact ⟨t, hexec, hwrite, hgrant, hvalid, hlast, hlost, hshadow, herr, hdetect, himage, htouch.others, htouch.only⟩
    case iteration =>
      obtain ⟨t, w', hexec, hwrite, hiter, hsorted, hends, htarget, hpulses, htrims, hheld, himage, hstate, htouch⟩ :=
        writeIterationEnd_row ha hw hrow hended hstart dev
      exact ⟨t, w', hexec, hwrite, hiter, hsorted, hends, htarget, hpulses, htrims, hheld, himage, hstate, htouch.others, htouch.only⟩
    case row =>
      obtain ⟨t, w', hexec, hwrite, hclosing, hrow', hdone, hstuck, hcount, hlevels, hother, hstate, hnoted, hquiet, htouch⟩ :=
        writeRowEnd_row ha hw hrow hended hrows hnodup hkeys check
      exact ⟨t, w', hexec, hwrite, hclosing, hrow', hdone, hstuck, hcount, hlevels, hother, hstate, hnoted, hquiet, htouch.others,
        htouch.only⟩
    case refreshed =>
      obtain ⟨hwrite, hmode, hcause, hcal, hrows, htime, htouch⟩ := endWrite_refreshed hw hclosing us hstuck hrefresh
      exact ⟨_, hunit _, hwrite, hmode, hcause, hcal, hrows, htime, htouch.others, htouch.only⟩
    case rewritten =>
      obtain ⟨hwrite, hgrant, hmode, hlast, hvalid, htime, himage, htouch⟩ :=
        endWrite_rewritten hw hclosing us hstuck hrefresh hstart hrun hdirty hnone
      exact ⟨_, hunit _, hwrite, hgrant, hmode, hlast, hvalid, htime, himage, htouch.others, htouch.only⟩
    case fenced =>
      obtain ⟨hfence, hlast, hpermanent, herr, htouch⟩ := endWrite_fenced hw hclosing us hstuck hrefresh hretest hlive hrun hlaunch
      exact ⟨_, hunit _, hfence, hlast, hpermanent, herr, htouch.others, only_mono htouch.only (by decide)⟩
  case idle =>
    refine ⟨?_, (hunit _).trans (congrArg _ (rowEnd_none hw check)), (hunit _).trans (congrArg _ (endWrite_none hw us)), _, hunit _,
      iterationEnd_none hw dev, (iterationEnd_touches a dev s).others⟩
    exact (hunit _).trans (congrArg _ (firstRow_none hw check))
  case wear =>
    obtain ⟨⟨r, hnewest, hkind, hcluster⟩, hseq, hwear, honly⟩ := copyWear_complete (a := a) hfull hfits
    exact ⟨_, r, (onUnit_present (show c < 32 by omega) s _).trans (congrArg _ (if_pos hdue)), hnewest, hkind, hcluster, hseq, hwear, honly⟩
  case fresh => exact (onUnit_present (show c < 32 by omega) s _).trans (congrArg _ (if_neg (by rw [hdue]; exact Bool.false_ne_true)))

end Sys2Proof.Laws

/-! PROOFS. Cores: what a state change leaves of the other cores, a core's fault flags and tail counter, and the entry that a result
goes through (R118, R122, R156). -/

namespace Sys2Proof.Laws
open Sys2Proof.Machine Sys2Proof.Safety

/-! ### Frames of one core -/

/-- From s to t core k and the listed parts can have changed, and no other core. -/
structure TouchesCore (ps : List Part) (k : Nat) (s t : State) : Prop where
  only : Only (.cores :: ps) s t
  others : ∀ j, j ≠ k → Machine.core t j = Machine.core s j

namespace TouchesCore
variable {ps qs : List Part} {k : Nat} {s t u : State}

theorem refl (ps : List Part) (k : Nat) (s : State) : TouchesCore ps k s s := ⟨only_refl _ s, fun _ _ => rfl⟩

theorem trans (hst : TouchesCore ps k s t) (htu : TouchesCore ps k t u) : TouchesCore ps k s u :=
  ⟨only_trans hst.only htu.only, fun j hj => (htu.others j hj).trans (hst.others j hj)⟩

theorem mono (h : TouchesCore ps k s t) (hsub : ps ⊆ qs) : TouchesCore qs k s t :=
  ⟨only_mono h.only (List.cons_subset_cons _ hsub), h.others⟩

/-- A change of other parts than the cores. -/
theorem of_only (h : Only ps s t) (hp : .cores ∉ ps) : TouchesCore ps k s t :=
  ⟨only_mono h (List.subset_cons_self ..), fun j _ => congrArg (tget CoreU.reset · j) (h .cores hp)⟩

theorem modCore (ps : List Part) (k : Nat) (f : CoreU → CoreU) (s : State) : TouchesCore ps k s (modCore s k f) :=
  ⟨only_mono (ps := [.cores]) (only_of_withParts rfl) (by simp), fun _ hj => tget_tmod_ne _ _ _ _ _ hj⟩

theorem modEntry (ps : List Part) (k e : Nat) (f : Entry → Entry) (s : State) : TouchesCore ps k s (modEntry s k e f) :=
  .modCore ..

end TouchesCore

/-! ### The core that does the work -/

/-- A core in service does its own work (R292). -/
theorem execCore_live {s : State} {k : Nat} (h : coreFenced s k = false) : execCore s k = k := if_neg (by simp [h])

theorem noteIssue_only (k uid : Nat) (s : State) : Only [.clusters] s (noteIssue k uid s) := only_of_withParts rfl

/-! ### Flags and counters -/

theorem bit_setBit_eq (w : Word) {i : Nat} (hi : i < 32) (j : Nat) : bit (setBit w i) j = (bit w j || j == i) := by
  by_cases h : j = i
  · subst h
    simp [bit_setBit w hi]
  · simp [bit_setBit_ne w h, h]

theorem satWord_toNat (w : Word) (n : Nat) : (satWord w n).toNat = min (w.toNat + n) 0xFFFFFFFF := by
  have hw : w.toNat < 2 ^ 32 := w.isLt
  have hfld : fld w 31 0 = w.toNat := by
    rw [fld, pow_zero, Nat.div_one]
    exact Nat.mod_eq_of_lt hw
  have hset (m : Nat) : (setFld w 31 0 m).toNat = m % 2 ^ 32 := by
    simp only [setFld, BitVec.toNat_ofNat]
    omega
  rw [satWord, satFld, hset, hfld]
  omega

/-! ### A write counted in its entry -/

/-- A write through entry x of a core counts in that entry alone (R156, R157). -/
theorem core_account (l : LaunchS) (k x : Nat) (st : TStat) (s : State) :
    ∃ es, Machine.core (account l k x st s) k = { Machine.core s k with entries := es }
      ∧ ∀ y, y ≠ x → tget Entry.reset es y = entryOf s k y := by
  unfold account
  split
  · exact ⟨(Machine.core s k).entries, rfl, fun _ _ => rfl⟩
  · exact ⟨_, core_modCore_same s k _, fun y hy => tget_tmod_ne _ _ _ _ _ hy⟩

theorem account_touches (l : LaunchS) (k x : Nat) (st : TStat) (s : State) : TouchesCore [] k s (account l k x st s) := by
  unfold account
  split
  · exact .refl ..
  · exact .modEntry ..

end Sys2Proof.Laws

/-! PROOFS. The end of a launch: what the discards of a launch that stops leave unchanged, and the reply of its command (R159, R413,
Table 11-9). -/

namespace Sys2Proof.Laws
open Sys2Proof.Machine Sys2Proof.Safety

theorem only_foldl {ps : List Part} {α : Type} {f : State → α → State} (hf : ∀ s x, Only ps s (f s x)) (l : List α) (s : State) :
    Only ps s (l.foldl f s) := by
  induction l generalizing s with
  | nil => exact only_refl _ s
  | cons x l ih => exact only_trans (hf s x) (ih (f s x))

theorem only_ite {ps : List Part} {s t u : State} {c : Prop} [Decidable c] (ht : Only ps s t) (hu : Only ps s u) :
    Only ps s (if c then t else u) := by
  split
  · exact ht
  · exact hu

/-! ### Stores -/

theorem poisonStore_only (s : State) (a n : Nat) (poison : Bool) : Only [.poison] s (poisonStore s a n poison) := by
  refine only_foldl (fun t g => ?_) _ s
  exact only_ite (only_of_withParts rfl) (only_ite (only_of_withParts rfl) (only_refl _ t))

theorem trimByte_only (s : State) (a p : Nat) (high : Bool) (b : Byte) : Only [.arrays] s (trimByte s a p high b) :=
  (trimByte_touches s a p high b).only

theorem windowStore_only (x : Nat) (bytes : List Byte) (s : State) (off : Nat) : Only [.arrays] s (windowStore s x off bytes) := by
  induction bytes generalizing s off with
  | nil => exact only_refl _ s
  | cons b r ih => exact only_trans (only_ite (trimByte_only _ _ _ _ _) (only_refl _ s)) (ih _ _)

theorem markedWrite_only (s : State) (fabric : Bool) (a : Nat) (bytes : List Byte) (poison : Bool) (marks : Marks) :
    Only [.arrays, .memory, .poison] s (markedWrite s fabric a bytes poison marks).2 := by
  unfold markedWrite
  split
  · exact only_refl _ s
  split
  · exact only_refl _ s
  split
  · exact only_mono (windowStore_only _ _ s _) (by simp)
  · let m := memPut (sealStore s a (keptBytes a bytes) (marks.byte poison)) a (keptBytes a bytes)
    have hmem : Only [.memory] s { s with mem := m } := only_of_withParts rfl
    exact only_trans (only_mono hmem (by simp)) (only_mono (poisonStore_only _ _ _ _) (by simp))

theorem storeBytes_only (s : State) (a : Nat) (bytes : List Byte) (poison : Bool) :
    Only [.arrays, .memory, .poison] s (storeBytes s a bytes poison) := markedWrite_only _ _ _ _ _ _

/-! ### The discards -/

theorem clearRowList_only (l : Layer) (s : State) : Only [.arrays, .memory, .poison] s (clearRowList l s) :=
  only_trans (storeBytes_only s _ _ _) (storeBytes_only _ _ _ _)

theorem dropStaging_only (c : BitVec 4) (ns : List (BitVec 12)) (s : State) :
    Only [.arrays, .memory, .poison, .ctxs] s (dropStaging c ns s) := by
  refine only_foldl (fun t n => ?_) ns s
  split
  · exact only_trans (only_mono (clearRowList_only _ t) (by simp)) (only_of_withParts rfl)
  · exact only_refl _ t

theorem dropUpdate_only (l : LaunchS) (s : State) : Only [.clusters] s (dropUpdate l s) := by
  unfold dropUpdate
  split
  · exact only_refl _ s
  · split
    · exact only_foldl (fun _ _ => only_of_withParts rfl) _ s
    · exact only_refl _ s

theorem discardCore_only (s : State) (k : Nat) (bad : Queued → Bool) : Only [.cores] s (discardCore s k bad) :=
  only_ite (only_of_withParts rfl) (only_refl _ s)

theorem discardAll_only (s : State) (bad : Queued → Bool) : Only [.cores] s (discardAll s bad) :=
  only_foldl (fun t k => discardCore_only t k bad) _ s

/-! ### The vector results of a core -/

/-- Every core's vector flags and vector result are the same in both states. -/
def KeepsVec (s t : State) : Prop :=
  ∀ k, (Machine.core t k).vecErr = (Machine.core s k).vecErr ∧ (Machine.core t k).vecOut = (Machine.core s k).vecOut

namespace KeepsVec
variable {s t u : State}

theorem refl (s : State) : KeepsVec s s := fun _ => ⟨rfl, rfl⟩

theorem trans (hst : KeepsVec s t) (htu : KeepsVec t u) : KeepsVec s u := fun k =>
  ⟨(htu k).1.trans (hst k).1, (htu k).2.trans (hst k).2⟩

theorem of_only {ps : List Part} (h : Only ps s t) (hp : .cores ∉ ps) : KeepsVec s t := fun k => by
  have hcores : t.cores = s.cores := h .cores hp
  simp only [Machine.core, hcores, and_self]

theorem modCore {k : Nat} {f : CoreU → CoreU} (hf : ∀ c, (f c).vecErr = c.vecErr ∧ (f c).vecOut = c.vecOut) :
    KeepsVec s (modCore s k f) := fun j => by
  by_cases hj : j = k
  · subst hj
    rw [core_modCore_same]
    exact hf _
  · rw [Machine.core, modCore_cores, tget_tmod_ne _ _ _ _ _ hj]
    exact ⟨rfl, rfl⟩

theorem ite {c : Prop} [Decidable c] (ht : KeepsVec s t) (hu : KeepsVec s u) : KeepsVec s (if c then t else u) := by
  split
  · exact ht
  · exact hu

end KeepsVec

theorem discardAll_keepsVec (s : State) (bad : Queued → Bool) : KeepsVec s (discardAll s bad) := by
  unfold discardAll
  induction s.cores.map (·.1) generalizing s with
  | nil => exact .refl s
  | cons k l ih =>
    refine KeepsVec.trans ?_ (ih (discardCore s k bad))
    exact .ite (.modCore fun _ => ⟨rfl, rfl⟩) (.refl s)

/-- A core that is not in the table reads its reset value; statistics cleared change a core's entries alone. -/
theorem core_clearStats (s : State) (own : Entry → Bool) (k : Nat) :
    ∃ es, Machine.core (clearStats s own) k = { Machine.core s k with entries := es } := by
  unfold clearStats Machine.core
  dsimp only
  induction s.cores with
  | nil => exact ⟨_, rfl⟩
  | cons e l ih =>
    by_cases he : e.1 = k
    · exact ⟨_, by simp only [List.map_cons, tget, he, if_true]; rfl⟩
    · simpa only [List.map_cons, tget, he, if_false] using ih

theorem clearStats_keepsVec (s : State) (own : Entry → Bool) : KeepsVec s (clearStats s own) := fun k => by
  obtain ⟨es, hes⟩ := core_clearStats s own k
  rw [hes]
  exact ⟨rfl, rfl⟩

/-! ### A launch that stops -/

/-- The state of a launch that stops once its passes, products, reservations, statistics and staged rows are dropped. -/
def dropped (l : LaunchS) (s : State) : State :=
  dropStaging l.ctx l.updated (clearStats (releaseStash l
    (dropAllProducts (discardAll s fun q => q.launch == l.uid) fun u => u == l.uid)) (owns l))

theorem dropped_keepsVec (l : LaunchS) (s : State) : KeepsVec s (dropped l s) := by
  have hpasses := discardAll_keepsVec s fun q => q.launch == l.uid
  have hstats := clearStats_keepsVec (releaseStash l
    (dropAllProducts (discardAll s fun q => q.launch == l.uid) fun u => u == l.uid)) (owns l)
  exact (hpasses.trans hstats).trans (.of_only (dropStaging_only _ _ _) (by decide))

theorem dropped_only (l : LaunchS) (s : State) : Only [.cores, .arrays, .ctxs, .memory, .poison] s (dropped l s) := by
  have hpasses := discardAll_only s fun q => q.launch == l.uid
  have hrest : Only [.cores, .arrays, .ctxs] (discardAll s fun q => q.launch == l.uid) (clearStats (releaseStash l
    (dropAllProducts (discardAll s fun q => q.launch == l.uid) fun u => u == l.uid)) (owns l)) := only_of_withParts rfl
  exact only_trans (only_mono (only_trans (only_mono hpasses (by simp)) hrest) (by simp)) (only_mono (dropStaging_only _ _ _) (by simp))

/-- Without staged rows no byte of memory changes. -/
theorem dropped_memByte {l : LaunchS} (h : l.updated = []) (s : State) (x : Nat) : memByte (dropped l s) x = memByte s x := by
  have hpasses : memByte (discardAll s fun q => q.launch == l.uid) x = memByte s x :=
    discardAll_only s (fun q => q.launch == l.uid) .memory (by decide) x
  rw [dropped, h]
  exact hpasses

theorem findLaunch_uid {s : State} {uid : Nat} {l : LaunchS} (h : findLaunch s uid = some l) : l.uid = uid := by
  simpa using List.find?_some h

/-- The launch as it ends with a state (Table 11-9, R413). -/
def endedAs (st : LState) (l : LaunchS) : LaunchS :=
  { l with state := st, update := none, tableSlot := none, gather := [], asked := false
           verify := if st = .stopped then [] else l.verify, groups := if st = .stopped then [] else l.groups }

/-- The result words of a launch's command: its number, its epoch, its recalls and the time (Table 11-9). -/
def endResult (l : LaunchS) (s : State) : List Word :=
  [w32 l.number.toNat, l.epoch, w32 l.recalls, s.rack.extractLsb' 0 32, s.rack.extractLsb' 32 32]

theorem w32_rack (w : W64) : [w32 w.toNat, w32 (w.toNat / 2 ^ 32)] = [w.extractLsb' 0 32, w.extractLsb' 32 32] := by
  rw [← Nat.shiftRight_eq_div_pow]
  rfl

/-- A launch whose command runs alone ends, and no held launch waits for it: the command completes (Table 11-9). -/
theorem endLaunch_eq {s : State} {uid status : Nat} {st : LState} {l : LaunchS} {p : Packet} (hfind : findLaunch s uid = some l)
    (hkind : l.kind ≠ 4#4) (hrun : s.host.running = [⟨p, .launch uid⟩]) :
    endLaunch uid status st s = finish p status (endResult l s)
      (modHost (modLaunch (dropUpdate l s) uid (endedAs st)) fun h => { h with running := [] }) := by
  have hupd := dropUpdate_only l s
  have hrunning : (dropUpdate l s).host.running = [⟨p, .launch uid⟩] := by rw [hupd .host (by decide), hrun]
  obtain ⟨hrack, -⟩ := hupd .time (by decide)
  have hleft : (dropUpdate l s).host.running.filter (fun r => r.task != .launch uid) = [] := by simp [hrunning]
  have hmine : (dropUpdate l s).host.running.filter (fun r => r.task == .launch uid) = [⟨p, .launch uid⟩] := by simp [hrunning]
  have htime : [w32 (dropUpdate l s).rack.toNat, w32 ((dropUpdate l s).rack.toNat / 2 ^ 32)]
      = [s.rack.extractLsb' 0 32, s.rack.extractLsb' 32 32] := by rw [hrack, w32_rack]
  unfold endLaunch
  rw [hfind]
  refine (if_neg hkind).trans ?_
  show List.foldl _ (modHost _ fun h => { h with running := (dropUpdate l s).host.running.filter _ })
    ((dropUpdate l s).host.running.filter _) = _
  rw [hleft, hmine, endResult, ← htime]
  rfl

/-- A launch stops with a status that is no refused access: what it held is dropped, and it ends (R413). -/
theorem stopLaunch_eq {s : State} {uid status : Nat} {l : LaunchS} (hfind : findLaunch s uid = some l) (hfault : status < 0x51) :
    stopLaunch uid status s = endLaunch uid status .stopped (dropped l s) := by
  obtain rfl : l.uid = uid := findLaunch_uid hfind
  have hno : (decide (0x51 ≤ status) && decide (status ≤ 0x57)) = false := by simp [Nat.not_le.2 hfault]
  unfold stopLaunch
  rw [hfind]
  dsimp only
  rw [hno]
  rfl

end Sys2Proof.Laws

/-! PROOFS. The vector engine: each operation's result through its entry, WADD, and a reserved operation code (R117 to R123, R156,
R258, Table 4-10). -/

namespace Sys2Proof.Laws
open Sys2Proof.Machine Sys2Proof.Safety

/-! ### The result of an operation -/

/-- A core with NAN_OUT set where a result is a NaN (R118). -/
def nanFlag (ws : List Word) (c : CoreU) : CoreU := if ws.any isNanF32 then { c with vecErr := setBit c.vecErr 4 } else c

theorem bit_vecErr_nanFlag (ws : List Word) (c : CoreU) (i : Nat) :
    bit (nanFlag ws c).vecErr i = (bit c.vecErr i || (i == 4 && ws.any isNanF32)) := by
  unfold nanFlag
  split
  case isTrue h => simp [bit_setBit_eq, h]
  case isFalse h => simp [h]

theorem nanFlag_eq (ws : List Word) (c : CoreU) : nanFlag ws c = { c with vecErr := (nanFlag ws c).vecErr } := by
  unfold nanFlag
  split <;> rfl

/-- The state with core k's NAN_OUT set where a result is a NaN. -/
def nanFlagged (ws : List Word) (k : Nat) (s : State) : State :=
  if ws.any isNanF32 then modCore s k fun c => { c with vecErr := setBit c.vecErr 4 } else s

theorem core_nanFlagged (ws : List Word) (k : Nat) (s : State) :
    Machine.core (nanFlagged ws k s) k = nanFlag ws (Machine.core s k) := by
  unfold nanFlagged nanFlag
  split
  · exact core_modCore_same ..
  · rfl

theorem entryOf_nanFlagged (ws : List Word) (k : Nat) (s : State) (x : Nat) :
    entryOf (nanFlagged ws k s) k x = entryOf s k x := by
  rw [entryOf, core_nanFlagged, nanFlag_eq]
  rfl

theorem nanFlagged_touches (ws : List Word) (k : Nat) (s : State) : TouchesCore [.clusters] k s (nanFlagged ws k s) := by
  unfold nanFlagged
  split
  · exact .modCore ..
  · exact .refl ..

/-- FP32 results as they go through an operation's entry: the bytes in the destination format, and the counts (R118, R156). -/
def results (s : State) (o : VOp) (l : LaunchS) (ws : List Word) : List Byte × TStat :=
  writeThrough (entryOf s o.core o.entry.toNat) (fmtEpoch s l) o.dst false (ws.map fun w => { v := f32ToFv w })

/-- An operation of a launch that may write its entry: its core takes the bytes and the flag, and the entry the counts. -/
theorem vecWrite_eq {s : State} {o : VOp} {l : LaunchS} (hlive : coreFenced s o.core = false)
    (hfind : findLaunch s o.launch = some l) (hmay : mayWrite (entryOf s o.core o.entry.toNat) l = true) (ws : List Word) :
    vecWrite o ws s = account l o.core o.entry.toNat (results s o l ws).2
      (modCore (nanFlagged ws o.core (noteIssue o.core l.uid s)) o.core fun c => { c with vecOut := (results s o l ws).1 }) := by
  have hentry : entryOf (noteIssue o.core l.uid s) o.core o.entry.toNat = entryOf s o.core o.entry.toNat := rfl
  have hepoch : fmtEpoch (nanFlagged ws o.core (noteIssue o.core l.uid s)) l = fmtEpoch s l := by
    unfold nanFlagged
    split <;> rfl
  unfold vecWrite results
  rw [hfind]
  simp only [execCore_live hlive]
  rw [← nanFlagged, hentry, hepoch, hmay]
  rfl

theorem vecWrite_core {s : State} {o : VOp} {l : LaunchS} (hlive : coreFenced s o.core = false)
    (hfind : findLaunch s o.launch = some l) (hmay : mayWrite (entryOf s o.core o.entry.toNat) l = true) (ws : List Word) :
    ∃ es, Machine.core (vecWrite o ws s) o.core
        = { Machine.core s o.core with
            vecErr := (nanFlag ws (Machine.core s o.core)).vecErr, vecOut := (results s o l ws).1, entries := es }
      ∧ ∀ y, y ≠ o.entry.toNat → tget Entry.reset es y = entryOf s o.core y := by
  rw [vecWrite_eq hlive hfind hmay]
  obtain ⟨es, hes, hothers⟩ := core_account l o.core o.entry.toNat (results s o l ws).2
    (modCore (nanFlagged ws o.core (noteIssue o.core l.uid s)) o.core fun c => { c with vecOut := (results s o l ws).1 })
  refine ⟨es, ?_, fun y hy => ?_⟩
  · rw [hes, core_modCore_same, core_nanFlagged, nanFlag_eq]
    rfl
  · have hnan := entryOf_nanFlagged ws o.core (noteIssue o.core l.uid s) y
    rw [hothers y hy, entryOf, core_modCore_same]
    exact hnan

theorem vecWrite_touches {s : State} {o : VOp} {l : LaunchS} (hlive : coreFenced s o.core = false)
    (hfind : findLaunch s o.launch = some l) (hmay : mayWrite (entryOf s o.core o.entry.toNat) l = true) (ws : List Word) :
    TouchesCore [.clusters] o.core s (vecWrite o ws s) := by
  rw [vecWrite_eq hlive hfind hmay]
  have hissue : TouchesCore [.clusters] o.core s (noteIssue o.core l.uid s) := .of_only (noteIssue_only _ _ _) (by decide)
  exact ((hissue.trans (nanFlagged_touches ..)).trans (.modCore ..)).trans ((account_touches ..).mono (by simp))

/-! ### The rows of Table 4-10 -/

/-- A row writes these results through its operation's entry, and counts so many tails (R118, R122, R156). -/
def WritesResults (s : State) (o : VOp) (l : LaunchS) (c : Instr) (ws : List Word) (tails : Nat) : Prop :=
  ∃ t, exec c s = .next t
    ∧ (Machine.core t o.core).vecOut = (results s o l ws).1
    ∧ (∀ i, bit (Machine.core t o.core).vecErr i = (bit (Machine.core s o.core).vecErr i || (i == 4 && ws.any isNanF32)))
    ∧ (Machine.core t o.core).tailCnt.toNat = min ((Machine.core s o.core).tailCnt.toNat + tails) 0xFFFFFFFF
    ∧ (Machine.core t o.core).tables = (Machine.core s o.core).tables ∧ (Machine.core t o.core).passq = (Machine.core s o.core).passq
    ∧ (Machine.core t o.core).engErr = (Machine.core s o.core).engErr
    ∧ (Machine.core t o.core).fmtErr = (Machine.core s o.core).fmtErr
    ∧ (∀ x, x ≠ o.entry.toNat → entryOf t o.core x = entryOf s o.core x)
    ∧ (∀ j, j ≠ o.core → Machine.core t j = Machine.core s j) ∧ Only [.cores, .clusters] s t

section
variable {s : State} {o : VOp} {l : LaunchS} {c : Instr} {ws : List Word} (hk : o.core < 512) (hlive : coreFenced s o.core = false)
  (hfind : findLaunch s o.launch = some l) (hmay : mayWrite (entryOf s o.core o.entry.toNat) l = true)
include hlive hfind hmay

/-- An operation that counts no tail (Table 4-10). -/
theorem writesResults_of_vecWrite (hexec : exec c s = .next (vecWrite o ws s)) : WritesResults s o l c ws 0 := by
  obtain ⟨es, hcore, hothers⟩ := vecWrite_core hlive hfind hmay ws
  have htouch := vecWrite_touches hlive hfind hmay ws
  have hcnt : (Machine.core s o.core).tailCnt.toNat < 2 ^ 32 := (Machine.core s o.core).tailCnt.isLt
  refine ⟨_, hexec, ?_⟩
  simp only [entryOf, hcore, true_and]
  exact ⟨bit_vecErr_nanFlag ws _, by omega, hothers, htouch.others, htouch.only⟩

/-- An operation through a table counts the inputs that took a tail (R122). -/
theorem writesResults_of_tails {n : Nat} (hexec : exec c s = .next (vecWrite o ws (countTails o.core n s))) :
    WritesResults s o l c ws n := by
  have hentry (y : Nat) : entryOf (countTails o.core n s) o.core y = entryOf s o.core y := by
    rw [entryOf, countTails, core_modCore_same]
    rfl
  have hmay' := (congrArg (mayWrite · l) (hentry o.entry.toNat)).trans hmay
  obtain ⟨es, hcore, hothers⟩ := vecWrite_core (s := countTails o.core n s) hlive hfind hmay' ws
  have htouch := vecWrite_touches (s := countTails o.core n s) hlive hfind hmay' ws
  have hresult : (results (countTails o.core n s) o l ws) = results s o l ws := by
    rw [results, hentry]
    rfl
  have hcount : TouchesCore [.clusters] o.core s (countTails o.core n s) := .modCore ..
  refine ⟨_, hexec, ?_⟩
  have hc : Machine.core (countTails o.core n s) o.core
      = { Machine.core s o.core with tailCnt := satWord (Machine.core s o.core).tailCnt n } := core_modCore_same ..
  simp only [hentry] at hothers
  simp only [entryOf, hcore, hresult, hc, true_and]
  exact ⟨bit_vecErr_nanFlag ws _, satWord_toNat _ _, hothers, (hcount.trans htouch).others, (hcount.trans htouch).only⟩

end

theorem vecMap3_eq (f : Word → Word → Word → Word) (a b z : VSrc) :
    vecMap3 f a b z = List.zipWith (fun p v => f p.1 p.2 v) ((vsrcWords a).zip (vsrcWords b)) (vsrcWords z) := by
  rw [vecMap3, List.zip, List.zipWith_zipWith_left, List.zipWith_zipWith_left]

section
variable {s : State} {o : VOp} {l : LaunchS} (hk : o.core < 512) (hlive : coreFenced s o.core = false)
  (hfind : findLaunch s o.launch = some l) (hmay : mayWrite (entryOf s o.core o.entry.toNat) l = true) (slot : BitVec 2) (a : VSrc)
include hk hlive hfind hmay

theorem table_writesResults : WritesResults s o l (.table o slot a)
    ((vsrcWords a).map fun x => (tableValue (Machine.core s o.core) slot.toNat x).1)
    ((vsrcWords a).countP fun x => (tableValue (Machine.core s o.core) slot.toNat x).2) := by
  refine writesResults_of_tails hlive hfind hmay ((onUnit_present hk s _).trans ?_)
  rw [tableRun, execCore_live hlive, List.map_map, List.countP_map]
  rfl

theorem tableD_writesResults (g : VSrc) : WritesResults s o l (.tableD o slot a g)
    (List.zipWith (fun x y => f32Mul y (tableValue (Machine.core s o.core) slot.toNat x).1) (vsrcWords a) (vsrcWords g))
    ((vsrcWords a).countP fun x => (tableValue (Machine.core s o.core) slot.toNat x).2) := by
  refine writesResults_of_tails hlive hfind hmay ((onUnit_present hk s _).trans ?_)
  rw [tableDRun, execCore_live hlive, List.zipWith_map_left, List.countP_map]
  rfl

end

/-! ### WADD and reserved codes -/

/-- WADD's result block is the core's vector result, and a header with POISON sets ZB_POISON (R258). -/
theorem waddRun_core {s : State} {k : Nat} (hlive : coreFenced s k = false) (sc : BitVec 8) (header : Byte) (codes : List Byte)
    (own : List Dy) (oh : Byte) : Machine.core (waddRun k sc header codes own oh s) k = { Machine.core s k with
      vecOut := waddBlock sc header codes (own.map fun d => Fv.fin (decide (d.m < 0)) d) oh
      fmtErr := if zb8Bit header 4 then setBit (Machine.core s k).fmtErr 0 else (Machine.core s k).fmtErr } := by
  rw [waddRun, execCore_live hlive]
  exact core_modCore_same ..

theorem waddRun_touches {s : State} {k : Nat} (hlive : coreFenced s k = false) (sc : BitVec 8) (header : Byte) (codes : List Byte)
    (own : List Dy) (oh : Byte) : TouchesCore [] k s (waddRun k sc header codes own oh s) := by
  rw [waddRun, execCore_live hlive]
  exact .modCore ..

/-- A reserved operation code sets OP_BAD and stops its launch as malformed (Table 4-10). -/
theorem opReserved_stops {s : State} {k uid : Nat} {code : BitVec 6} {l : LaunchS} {p : Packet} (hk : k < 512)
    (hlive : coreFenced s k = false) (hfind : findLaunch s uid = some l) (hcode : code = 0#6 ∨ 16 ≤ code.toNat)
    (hkind : l.kind ≠ 4#4) (hrun : s.host.running = [⟨p, .launch uid⟩]) (hmuted : p.muted = false) :
    ∃ t, exec (.vectorOpReserved k uid code) s = .next t ∧ bit (Machine.core t k).vecErr 3 = true
      ∧ (∀ x, x ∈ t.launches → x.uid = uid → x.state = .stopped) ∧ t.host.running = []
      ∧ (Machine.core t k).vecOut = (Machine.core s k).vecOut ∧ Answers t p 0x30 (endResult l s)
      ∧ (l.updated = [] → ∀ x, memByte t x = memByte s x) ∧ t.rel = s.rel ∧ t.pwr = s.pwr := by
  let s1 := modCore s k fun c => { c with vecErr := setBit c.vecErr 3 }
  let u := dropUpdate l (dropped l s1)
  have hdrop : Only [.cores, .arrays, .ctxs, .memory, .poison] s1 (dropped l s1) := dropped_only l s1
  have hupd : Only [.clusters] (dropped l s1) u := dropUpdate_only l _
  have hfind' : findLaunch (dropped l s1) uid = some l := by
    rw [findLaunch, hdrop .launches (by decide)]
    exact hfind
  have hhost : (dropped l s1).host = s.host := hdrop .host (by decide)
  obtain ⟨hrack, -⟩ : (dropped l s1).rack = s.rack ∧ _ := hdrop .time (by decide)
  have hreserved : (decide (code.toNat = 0) || decide (16 ≤ code.toNat)) = true := by
    obtain rfl | h := hcode <;> simp_all
  have hexec : exec (.vectorOpReserved k uid code) s = .next (answered p 0x30 (endResult l s)
      (modHost (modLaunch u uid (endedAs .stopped)) fun h => { h with running := [] })) := by
    refine (onUnit_present hk s _).trans (congrArg _ ?_)
    unfold opReserved
    rw [hreserved, execCore_live hlive, if_pos rfl, stopLaunch_eq (s := s1) hfind (by decide),
      endLaunch_eq hfind' hkind (hhost ▸ hrun), finish_eq hmuted, endResult, hrack]
    rfl
  have hvec : KeepsVec s1 u := (dropped_keepsVec l s1).trans (.of_only hupd (by decide))
  have hcore : Machine.core s1 k = { Machine.core s k with vecErr := setBit (Machine.core s k).vecErr 3 } := core_modCore_same ..
  obtain ⟨herr, hout⟩ := hvec k
  refine ⟨_, hexec, ?flag, ?stopped, rfl, ?result, List.getLast?_concat, fun hnone x => ?memory, ?rel, ?pwr⟩
  case flag =>
    refine (congrArg (bit · 3) herr).trans ?_
    rw [hcore]
    exact bit_setBit _ (by decide)
  case stopped =>
    intro x hx hux
    obtain ⟨y, -, rfl⟩ := List.mem_map.1 hx
    by_cases hy : y.uid = uid
    · rw [if_pos hy]
      rfl
    · rw [if_neg hy] at hux
      exact absurd hux hy
  case result =>
    refine hout.trans ?_
    rw [hcore]
  case memory => exact (hupd .memory (by decide) x).trans (dropped_memByte hnone s1 x)
  case rel => exact (hupd .rel (by decide)).trans (hdrop .rel (by decide))
  case pwr => exact (hupd .pwr (by decide)).trans (hdrop .pwr (by decide))

/-- Settles O46: each row by the one law of an operation's write through its entry, a table's rows after their tails are counted, and a
reserved code by what a launch that stops leaves. -/
theorem vectorOperationsComplete : Obligations.VectorOperationsComplete := by
  unfold Obligations.VectorOperationsComplete
  intro s o a b z slot hk hlive
  refine ⟨fun l hfind hmay => ?rows, fun sc header codes own oh => ?wadd, fun uid code l p hfind => ⟨?reserved, fun hne hlt => ?known⟩⟩
  case rows =>
    have plain {c : Instr} {ws : List Word} (h : exec c s = onUnit 512 o.core s (vecWrite o ws)) : WritesResults s o l c ws 0 :=
      writesResults_of_vecWrite hlive hfind hmay (h.trans (onUnit_present hk s _))
    simp only [List.forall_mem_cons]
    refine ⟨plain rfl, plain rfl, plain rfl, plain rfl, plain rfl, plain ?_, plain rfl, plain rfl, plain rfl, plain rfl, plain rfl,
      plain rfl, table_writesResults hk hlive hfind hmay slot a, tableD_writesResults hk hlive hfind hmay slot a b, ?_⟩
    · rw [← vecMap3_eq]
      rfl
    · exact fun r hr => absurd hr List.not_mem_nil
  case wadd =>
    have htouch := waddRun_touches hlive sc header codes own oh
    refine ⟨_, onUnit_present hk s _, ?_⟩
    rw [waddRun_core hlive]
    refine ⟨rfl, fun i => ?_, rfl, rfl, rfl, htouch.others, htouch.only⟩
    split
    case isTrue h => simp [bit_setBit_eq, h]
    case isFalse h => simp [h]
  case reserved => exact opReserved_stops hk hlive hfind
  case known =>
    have hzero : code.toNat ≠ 0 := fun h => hne (BitVec.eq_of_toNat_eq h)
    have hno : (decide (code.toNat = 0) || decide (16 ≤ code.toNat)) = false := by simp [hzero, Nat.not_le.2 hlt]
    refine (onUnit_present hk s _).trans (congrArg _ ?_)
    rw [opReserved, hno]
    rfl

end Sys2Proof.Laws

/-! PROOFS. Register rows with a rule of their own: table words and sums, coefficient rows, a context's policy, ring registers, REL_CFG
and REL_HIST_CFG, MON_CHSEL and the CTI scale (R14, R124, R210, R252, R265, R299, R354, R366). -/

namespace Sys2Proof.Laws
open Sys2Proof.Machine Sys2Proof.Safety

theorem core_modCore_ne {s : State} {k j : Nat} {f : CoreU → CoreU} (h : j ≠ k) : Machine.core (modCore s k f) j = Machine.core s j :=
  tget_tmod_ne _ _ _ _ _ h

theorem clus_modClus_same (s : State) (c : Nat) (f : ClusterU → ClusterU) : clus (modClus s c f) c = f (clus s c) :=
  tget_tmod_same _ _ _ _

theorem clus_modClus_ne {s : State} {c d : Nat} {f : ClusterU → ClusterU} (h : d ≠ c) : clus (modClus s c f) d = clus s d :=
  tget_tmod_ne _ _ _ _ _ h

/-! ### Low fields as masks, and legal codes -/

theorem w32_fld_mask (v : Word) {k : Nat} (hk : k < 32) : w32 (fld v k 0) = v &&& w32 (2 ^ (k + 1) - 1) := by
  have hpow : 2 ^ (k + 1) ≤ 2 ^ 32 := Nat.pow_le_pow_right (by decide) hk
  have hpos : 0 < 2 ^ (k + 1) := Nat.two_pow_pos _
  have hlow : v.toNat % 2 ^ (k + 1) < 2 ^ 32 := lt_of_lt_of_le (Nat.mod_lt _ hpos) hpow
  have hmask : 2 ^ (k + 1) - 1 < 2 ^ 32 := by omega
  apply BitVec.eq_of_toNat_eq
  rw [w32, w32, BitVec.toNat_and, BitVec.toNat_ofNat, BitVec.toNat_ofNat, Nat.mod_eq_of_lt hmask, Nat.and_two_pow_sub_one_eq_mod, fld,
    pow_zero, Nat.div_one, Nat.sub_zero, Nat.mod_eq_of_lt hlow]

/-- The two lowest bits of a list address are zero (R252). -/
theorem setFld_list (v : Word) : setFld v 1 0 0 = v &&& 0xFFFFFFFC#32 := by
  have hmask : ∀ i, i < 32 → Nat.testBit 0xFFFFFFFC i = decide (1 < i) := by decide
  refine eq_of_testBit fun i hi => ?_
  rw [testBit_setFld v (by decide), BitVec.toNat_and, Nat.testBit_and, BitVec.toNat_ofNat,
    Nat.mod_eq_of_lt (by decide), hmask i hi]
  by_cases h : 1 < i
  · simp [h, hi, Nat.not_le.2 h]
  · simp [h, Nat.not_lt.1 h]

/-- A code range that ends with the field's greatest code is legal from its least code on. -/
theorem codeIn_fld {lo top hi' lo' : Nat} {v : Word} (hlo : lo ≤ fld v hi' lo') (htop : 2 ^ (hi' + 1 - lo') ≤ top + 1) :
    codeIn lo top (fld v hi' lo') = true := by
  have hlt := fld_lt v hi' lo'
  simp only [codeIn, Bool.and_eq_true, decide_eq_true_eq]
  omega

/-- Every part of a word that the fields of a legal write cover reads as written (R14). -/
theorem fld_takeFields {v old : Word} {fs : List (Nat × Nat × (Nat → Bool))} {hi lo : Nat}
    (h : ∀ f ∈ fs, f.2.1 ≤ f.1 ∧ f.2.2 (fld v f.1 f.2.1) = true) (hhi : hi < 32)
    (hc : ∀ i, lo ≤ i → i ≤ hi → coversBit fs i = true) : fld (takeFields v old fs).1 hi lo = fld v hi lo := by
  refine Nat.eq_of_testBit_eq fun j => ?_
  rw [testBit_fld, testBit_fld]
  by_cases hj : j < hi + 1 - lo
  · rw [(takeFields_legal h).2 _ (by omega), hc _ (by omega) (by omega), if_pos rfl]
  · simp [hj]

/-! ### Tables (R124) -/

/-- The bytes of a table word as a list of table entries. -/
theorem tables_put (base : Nat) (v : Word) (m : Tab Byte) :
    (List.range 4).foldl (fun t i => tset 0#8 t (base + i) ((bytesOfWord v).getD i 0#8)) m
      = ((List.range 4).map fun i => (base + i, (bytesOfWord v).getD i 0#8)).foldl (fun t e => tset 0#8 t e.1 e.2) m := by
  rw [List.foldl_map]

theorem slotWord_put {c : CoreU} {slot off : Nat} {v : Word} : slotWord { c with
    tables := (List.range 4).foldl (fun t i => tset 0#8 t (0x1000 * slot + off + i) ((bytesOfWord v).getD i 0#8)) c.tables } slot off
    = v := by
  have hlen : (bytesOfWord v).length = 4 := leBytes_length ..
  have hnodup : (((List.range 4).map fun i => (0x1000 * slot + off + i, (bytesOfWord v).getD i 0#8)).map (·.1)).Nodup := by
    rw [List.map_map]
    exact (List.nodup_range).map fun _ _ h => Nat.add_left_cancel h
  have hbytes : ((List.range 4).map fun i => tget 0#8 ((List.range 4).foldl
      (fun t i => tset 0#8 t (0x1000 * slot + off + i) ((bytesOfWord v).getD i 0#8)) c.tables) (0x1000 * slot + off + i))
      = bytesOfWord v := by
    refine List.ext_getElem (by simp [hlen]) fun i hi _ => ?_
    have hi : i < 4 := by simpa using hi
    rw [List.getElem_map, List.getElem_range, tables_put, tget_foldl_tset _ hnodup]
    rw [← List.getD_eq_getElem _ 0#8]
    interval_cases i <;> simp [tget, List.range_succ]
  rw [slotWord, hbytes, bytesOfWord, leNat_leBytes]
  exact BitVec.eq_of_toNat_eq (by rw [BitVec.toNat_ofNat, Nat.mod_mod_of_dvd _ (by decide), Nat.mod_eq_of_lt v.isLt])

theorem tables_put_ne {m : Tab Byte} {slot off b : Nat} {v : Word} (h : b / 4 ≠ 0x400 * slot + off / 4) :
    tget 0#8 ((List.range 4).foldl (fun t i => tset 0#8 t (0x1000 * slot + off / 4 * 4 + i) ((bytesOfWord v).getD i 0#8)) m) b
      = tget 0#8 m b := by
  rw [tables_put, tget_foldl_tset_ne]
  intro e he hb
  obtain ⟨i, hi, rfl⟩ := List.mem_map.1 he
  have hi : i < 4 := List.mem_range.1 hi
  omega

section
variable {k slot off : Nat} {v : Word} {s : State} (hk : k < 512) (hslot : slot < 4)
include hk hslot

theorem exec_tableSlotWrite (off : Nat) (v : Word) (s : State) :
    exec (.tableSlotWrite k slot off v) s = .next (slotWrite k slot off v s) :=
  (onUnit_present hk s _).trans (congrArg _ (if_pos hslot))

/-- A word of a segment is written (Table 4-11). -/
theorem tableSlotWrite_word (hoff : off < 0xC00) (hfree : slotBusy s k slot = false) :
    exec (.tableSlotWrite k slot off v) s = .next (modCore s k fun c => { c with
      tables := (List.range 4).foldl
        (fun t i => tset 0#8 t (0x1000 * slot + off / 4 * 4 + i) ((bytesOfWord v).getD i 0#8)) c.tables }) := by
  rw [exec_tableSlotWrite hk hslot, slotWrite]
  have hword : off / 4 * 4 < 0xC00 := by omega
  simp [hfree, show ¬ 0xC18 ≤ off / 4 * 4 by omega, show off / 4 * 4 ≠ 0xC04 by omega, show off / 4 * 4 ≠ 0xC00 by omega]

theorem tableSlotWrite_busy (hoff : off < 0xC18) (hbusy : slotBusy s k slot = true) : exec (.tableSlotWrite k slot off v) s
    = .next (modCore s k fun c => { c with vecErr := setBit c.vecErr 2 }) := by
  rw [exec_tableSlotWrite hk hslot, slotWrite]
  simp [hbusy, show ¬ 0xC18 ≤ off / 4 * 4 by omega]

theorem tableSlotWrite_width (hfree : slotBusy s k slot = false) (hlo : 7 < fld v 7 0) (hhi : fld v 7 0 < 240) :
    exec (.tableSlotWrite k slot 0xC04 v) s = .next (modCore s k fun c => { c with vecErr := setBit c.vecErr 1 }) := by
  rw [exec_tableSlotWrite hk hslot, slotWrite]
  simp [hfree, hlo, hhi]

end

/-! ### Coefficient rows (R209, R210) -/

/-- A coefficient field takes a finite value (R210). -/
theorem putCoef_finite {c row f : Nat} {v : Word} (hf : f ≠ 13) (hv : isFiniteF32 v = true) (s : State) :
    (putCoef c row f v s).2 = modClus s c fun x => { x with coef := tset 0#32 x.coef (16 * row + f) v } := by
  simp [putCoef, hf, hv]

theorem putCoef_nonfinite {c row f : Nat} {v : Word} (hf : f ≠ 13) (hv : isFiniteF32 v = false) (s : State) :
    (putCoef c row f v s).2 = updErr c 0 s := by
  simp [putCoef, hf, hv]

theorem exec_coefRowWrite {c row off : Nat} (hc : c < 32) (hrow : row < 64) (hoff : off < 64) (v : Word) (s : State) :
    exec (.coefRowWrite c row off v) s = .next (putCoef c row (off / 4) v s).2 :=
  (onUnit_present hc s _).trans (congrArg _ (if_pos (by simp [hrow, hoff])))

/-- A row's sum goes to its own place (R210). -/
theorem clus_takeCoefSum (s : State) (c row : Nat) : clus (takeCoefSum c row s) c
    = { clus s c with coefSum := tset 0#32 (clus s c).coefSum row (coefCrc s c row) } := clus_modClus_same ..

theorem exec_coefSumReady {c row : Nat} (hc : c < 32) (hrow : row < 64) (s : State) :
    exec (.coefSumReady c row) s = .next (takeCoefSum c row s) := by
  show onUnit 32 c s (fun s => if row < 64 then takeCoefSum c row s else s) = _
  rw [onUnit_present hc, if_pos hrow]

theorem coefSumReady_row {c row : Nat} (hc : c < 32) (hrow : row < 64) (s : State) : ∃ t, exec (.coefSumReady c row) s = .next t
    ∧ tget 0#32 (clus t c).coefSum row = crc32 ((List.range 16).flatMap fun f => bytesOfWord (tget 0#32 (clus s c).coef (16 * row + f)))
    ∧ clus t c = { clus s c with coefSum := (clus t c).coefSum } ∧ (∀ d, d ≠ c → clus t d = clus s d) ∧ Only [.clusters] s t := by
  have hclus := clus_takeCoefSum s c row
  refine ⟨_, exec_coefSumReady hc hrow s, ?_, ?_, fun d hd => clus_modClus_ne hd, only_of_withParts rfl⟩
  · rw [hclus]
    exact tget_tset_same ..
  · rw [hclus]

/-! ### REL_CFG and REL_HIST_CFG (R299) -/

/-- The fields of REL_CFG with their legal codes. -/
def relFields : List (Nat × Nat × (Nat → Bool)) :=
  [(31, 30, codeIn 0 1), (29, 26, codeIn 6 10), (25, 22, codeIn 1 15), (21, 18, anyCode), (15, 0, codeIn 1 65535)]

/-- The fields of REL_HIST_CFG with their legal codes. -/
def histFields : List (Nat × Nat × (Nat → Bool)) := [(23, 16, codeIn 1 255), (15, 8, codeIn 1 255), (7, 0, codeIn 1 255)]

/-- A context as it keeps REL_CFG until its next commit tick. -/
def heldRelCfg (old : Word) (x : CtxU) : CtxU := if x.live && x.relIn.isNone then { x with relIn := some old } else x

/-- A table whose values have all changed in one way that leaves the default as it is. -/
theorem tget_map_snd {α : Type} {d : α} {g : α → α} (hd : g d = d) (t : Tab α) (k : Nat) :
    tget d (t.map fun e => (e.1, g e.2)) k = g (tget d t k) := by
  induction t with
  | nil => exact hd.symm
  | cons e t ih =>
    rw [List.map_cons, tget, tget]
    split
    · rfl
    · exact ih

theorem ctxU_holdRelCfg (old : Word) (s : State) (c : BitVec 4) : ctxU (holdRelCfg old s) c = heldRelCfg old (ctxU s c) := by
  have hmap : (holdRelCfg old s).ctxs = s.ctxs.map fun e => (e.1, heldRelCfg old e.2) := by
    refine List.map_congr_left fun e _ => ?_
    unfold heldRelCfg
    split <;> rfl
  rw [ctxU, hmap]
  exact tget_map_snd rfl _ _

/-- What a live context reads for REL_CFG does not change with the register (R299). -/
theorem relCfg_heldRelCfg {s : State} {c : BitVec 4} (h : (ctxU s c).live = true) (new : Word) :
    (heldRelCfg s.rel.cfg (ctxU s c)).relIn.getD new = relCfg s c := by
  rw [relCfg, heldRelCfg]
  cases hin : (ctxU s c).relIn <;> simp [h, hin]

theorem writeRelCfg_legal {v : Word} {s : State} (h : ∀ f ∈ relFields, f.2.1 ≤ f.1 ∧ f.2.2 (fld v f.1 f.2.1) = true) :
    writeRelCfg v s = modRel (holdRelCfg s.rel.cfg s) fun x => { x with cfg := (takeFields v s.rel.cfg relFields).1 } := by
  have hflag : (takeFields v s.rel.cfg relFields).2 = false := (takeFields_legal h).1
  exact if_neg (by rw [← relFields, hflag]; exact Bool.false_ne_true)

/-- REL_HIST_CFG with a write's legal codes, the word that stood held where a context is open. -/
def histWritten (v : Word) (s : State) : State :=
  modRel s fun x => { x with histCfg := (takeFields v s.rel.histCfg histFields).1
                             histIn := if anyCtx s && x.histIn.isNone then some s.rel.histCfg else x.histIn }

theorem writeHistCfg_eq (v : Word) (s : State) : writeHistCfg v s
    = if (takeFields v s.rel.histCfg histFields).2 then relErr 0 (histWritten v s) else histWritten v s := rfl

/-- With a context open the parameters that count stay (R299). -/
theorem histCfg_histWritten {s : State} (h : anyCtx s = true) (v : Word) : histCfg (histWritten v s) = histCfg s := by
  unfold histCfg histWritten
  simp only [modRel, h, Bool.true_and]
  cases s.rel.histIn <;> rfl

/-! ### Ring registers (R252) -/

/-- The fields of RED_RING_CFG with their legal codes, POS below the N that is written. -/
def ringFields (v : Word) : List (Nat × Nat × (Nat → Bool)) :=
  [(31, 28, anyCode), (27, 27, anyCode), (25, 13, codeIn 1 4096), (12, 0, fun p => decide (p < fld v 25 13))]

theorem writeRingCfg_legal {g : Nat} {v : Word} {s : State} (hlo : 1 ≤ fld v 25 13) (hhi : fld v 25 13 ≤ 4096)
    (hpos : fld v 12 0 < fld v 25 13) : writeRingCfg g v s
    = modFab s fun f => { f with ringCfg := tset 0#32 f.ringCfg g (takeFields v (tget 0#32 s.fab.ringCfg g) (ringFields v)).1 } := by
  let first := takeFields v (tget 0#32 s.fab.ringCfg g) [(31, 28, anyCode), (27, 27, anyCode), (25, 13, codeIn 1 4096)]
  have hn : fld first.1 25 13 = fld v 25 13 := by
    rw [show first = takeField v 25 13 (codeIn 1 4096) (takeFields v (tget 0#32 s.fab.ringCfg g) [(31, 28, anyCode), (27, 27, anyCode)])
      from rfl, fld_takeField_same _ _ _ (by decide) (by decide), if_pos (by simp [codeIn, hlo, hhi])]
  have hfields : takeField v 12 0 (fun p => decide (p < fld first.1 25 13)) first
      = takeFields v (tget 0#32 s.fab.ringCfg g) (ringFields v) := by
    rw [hn]
    rfl
  have hlegal : ∀ f ∈ ringFields v, f.2.1 ≤ f.1 ∧ f.2.2 (fld v f.1 f.2.1) = true := by
    simp [ringFields, anyCode, codeIn, hlo, hhi, hpos]
  have hflag : (takeFields v (tget 0#32 s.fab.ringCfg g) (ringFields v)).2 = false := (takeFields_legal hlegal).1
  unfold writeRingCfg
  dsimp only
  rw [show takeFields v _ _ = first from rfl, hfields, hflag]
  rfl

section
variable {g : Nat} (hlo : 1 ≤ g) (hhi : g ≤ 12)
include hlo hhi

theorem exec_ringCfgWrite_running {s : State} (h : ringRuns s g = true) (r : RingReg) (v : Word) :
    exec (.ringCfgWrite g r v) s = .next (redErr 0 s) := by
  refine congrArg Host.Outcome.next ?_
  unfold writeRing
  exact (if_neg (by simp; omega)).trans (if_pos h)

theorem exec_ringCfgWrite_idle {s : State} (h : ringRuns s g = false) (r : RingReg) (v : Word) :
    exec (.ringCfgWrite g r v) s = .next (match r with
      | .cfg => writeRingCfg g v s
      | .listLo => modFab s fun f => { f with ringLo := tset 0#32 f.ringLo g (setFld v 1 0 0) }
      | .listHi => modFab s fun f => { f with ringHi := tset 0#32 f.ringHi g (w32 (fld v 7 0)) }) := by
  refine congrArg Host.Outcome.next ?_
  unfold writeRing
  exact (if_neg (by simp; omega)).trans (if_neg (by simp [h]))

end

/-- Settles O32: each row by the equation of its write; the fields of a legal write read as written, and what a rule discards sets its
flag alone. -/
theorem unitRegisterRowsComplete : Obligations.UnitRegisterRowsComplete := by
  unfold Obligations.UnitRegisterRowsComplete
  intro s v
  refine ⟨?table, fun k slot off hk hslot hoff => tableSlotWrite_busy hk hslot hoff, fun k slot hk hslot => tableSlotWrite_width hk hslot,
    ?tableSum, ?coef, ?coefNonfinite, ?coefSum, fun k off hk => onUnit_present hk s _, ?policy, ?policyReserved, ?ring,
    fun g r hlo hhi hrun => exec_ringCfgWrite_running hlo hhi hrun r v, ?relCfg, ?histCfg, ?histHeld, ?chsel, ?chselHeld, ?cti, ?ctiBad⟩
  case table =>
    intro k slot off hk hslot hoff hfree
    refine ⟨_, tableSlotWrite_word hk hslot hoff hfree, ?_, fun b hb => ?_, ?_, fun j hj => ?_, only_of_withParts rfl⟩
    · rw [core_modCore_same, slotWord_put]
    · rw [core_modCore_same]
      exact tables_put_ne hb
    · rw [core_modCore_same]
    · exact core_modCore_ne hj
  case tableSum =>
    intro k slot hk hslot
    refine ⟨slotSum k slot s, (onUnit_present hk s _).trans (congrArg _ (if_pos hslot)), ?_, ?_, fun j hj => ?_, only_of_withParts rfl⟩
    · rw [slotSum, core_modCore_same, tget_tset_same]
    · rw [slotSum, core_modCore_same]
    · exact core_modCore_ne hj
  case coef =>
    intro c row off hc hrow hoff hv
    refine ⟨_, (exec_coefRowWrite hc hrow (by omega) v s).trans (congrArg _ (putCoef_finite (by omega) hv s)), ?_, fun i hi => ?_, ?_,
      fun d hd => clus_modClus_ne hd, only_of_withParts rfl⟩
    · rw [clus_modClus_same, tget_tset_same]
    · rw [clus_modClus_same, tget_tset_ne _ _ _ _ _ hi]
    · rw [clus_modClus_same]
  case coefNonfinite =>
    intro c row off hc hrow hoff hv
    exact (exec_coefRowWrite hc hrow (by omega) v s).trans (congrArg _ (putCoef_nonfinite (by omega) hv s))
  case coefSum => exact fun c row hc hrow => coefSumReady_row hc hrow s
  case policy =>
    intro c hv
    refine congrArg Host.Outcome.next ?_
    rw [writePolicy, if_neg hv, w32_fld_mask v (by decide)]
    rfl
  case policyReserved => exact fun c hv => congrArg Host.Outcome.next (if_pos hv)
  case ring =>
    intro g hlo hhi hidle
    have hexec := fun r => exec_ringCfgWrite_idle hlo hhi hidle r v
    refine ⟨⟨_, hexec .listLo, ?_, fun h hne => tget_tset_ne _ _ _ _ _ hne, rfl, only_of_withParts rfl⟩,
      ⟨_, hexec .listHi, ?_, rfl, only_of_withParts rfl⟩, fun hn hn' hpos =>
      ⟨_, (hexec .cfg).trans (congrArg _ (writeRingCfg_legal hn hn' hpos)), ?_, ?_, rfl, only_of_withParts rfl⟩⟩
    · exact (tget_tset_same ..).trans (setFld_list v)
    · exact (tget_tset_same ..).trans (w32_fld_mask v (by decide))
    all_goals
      have hlegal : ∀ f ∈ ringFields v, f.2.1 ≤ f.1 ∧ f.2.2 (fld v f.1 f.2.1) = true := by
        simp [ringFields, anyCode, codeIn, hn, hn', hpos]
      refine (congrArg (fld · _ _) (tget_tset_same ..)).trans (fld_takeFields hlegal (by decide) ?_)
      simp only [coversBit, ringFields, List.any_cons, List.any_nil, Bool.or_eq_true, decide_eq_true_eq]
      omega
  case relCfg =>
    intro hmode hwin hwin' hrep hmax
    have hlegal : ∀ f ∈ relFields, f.2.1 ≤ f.1 ∧ f.2.2 (fld v f.1 f.2.1) = true := by
      have hcap : codeIn 1 65535 (fld v 15 0) = true := codeIn_fld hmax (by decide)
      have hrepeat : codeIn 1 15 (fld v 25 22) = true := codeIn_fld hrep (by decide)
      simp [relFields, anyCode, codeIn, hmode, hwin, hwin'] at hcap hrepeat ⊢
      exact ⟨hrepeat, hcap⟩
    refine ⟨_, congrArg Host.Outcome.next (writeRelCfg_legal hlegal), ?_, ?_, fun c hlive => ?_, rfl, only_of_withParts rfl⟩
    case refine_3 =>
      rw [relCfg, show ctxU (modRel _ _) c = ctxU (holdRelCfg s.rel.cfg s) c from rfl, ctxU_holdRelCfg]
      exact relCfg_heldRelCfg hlive _
    all_goals
      refine fld_takeFields hlegal (by decide) ?_
      simp only [coversBit, relFields, List.any_cons, List.any_nil, Bool.or_eq_true, decide_eq_true_eq]
      omega
  case histCfg =>
    intro hday hhour hunit hnone hin
    have hlegal : ∀ f ∈ histFields, f.2.1 ≤ f.1 ∧ f.2.2 (fld v f.1 f.2.1) = true := by
      simp only [histFields, List.forall_mem_cons]
      exact ⟨⟨by decide, codeIn_fld hday (by decide)⟩, ⟨by decide, codeIn_fld hhour (by decide)⟩,
        ⟨by decide, codeIn_fld hunit (by decide)⟩, fun f hf => absurd hf List.not_mem_nil⟩
    have hflag : (takeFields v s.rel.histCfg histFields).2 = false := (takeFields_legal hlegal).1
    have hheld : (histWritten v s).rel.histIn = none := by simp [histWritten, modRel, hnone, hin]
    have hrel : (histWritten v s).rel = { s.rel with histCfg := (histWritten v s).rel.histCfg } := by
      simp [histWritten, modRel, hnone]
    refine ⟨histWritten v s, congrArg Host.Outcome.next ?_, ?_, hrel, only_of_withParts rfl⟩
    · rw [writeHistCfg_eq, hflag]
      rfl
    · rw [histCfg, hheld]
      refine fld_takeFields hlegal (by decide) ?_
      simp only [coversBit, histFields, List.any_cons, List.any_nil, Bool.or_eq_true, decide_eq_true_eq]
      omega
  case histHeld =>
    intro hctx
    refine ⟨_, congrArg Host.Outcome.next (writeHistCfg_eq v s), ?_, ?_⟩
    · split
      · exact histCfg_histWritten hctx v
      · exact histCfg_histWritten hctx v
    · exact only_ite (only_of_withParts rfl) (only_of_withParts rfl)
  case chsel => exact fun hfree => congrArg Host.Outcome.next (if_pos hfree)
  case chselHeld => exact fun hheld => congrArg Host.Outcome.next (if_neg hheld)
  case cti =>
    intro c hc hlo hhi
    refine (onUnit_present hc s _).trans (congrArg _ ?_)
    rw [putCtiScale, if_pos (by simp [hlo, hhi]), w32_fld_mask v (by decide)]
    rfl
  case ctiBad =>
    intro c hc hbad
    refine (onUnit_present hc s _).trans (congrArg _ ?_)
    exact if_neg (by simp; omega)

end Sys2Proof.Laws

/-! PROOFS. The drain's clause of a core's matrix engine, which speaks of every pass at the head of the drain: an image build there, whose
row bytes come from K and not from COLS (R414, Table 4-9). -/

namespace Sys2Proof.Laws
open Sys2Proof.Machine Sys2Proof.Safety

/-! ### An image build at the head of the drain -/

/-- The descriptor of an image build with K 0, one row, one column, FP32 output and destination 0. -/
def emptyBuild : Queued := ⟨1, [0x20000000#32, 0#32, 0#32, 0#32, 0#32, 0#32, 0#32, 0#32, 0#32, 0#32, 0x81#32, 0#32], false⟩

/-- The pass of that descriptor, with the accumulator of one output, which reads 1. -/
def drainedBuild : Pass where
  job := emptyBuild
  acc := [[⟨1, false, false, false, false⟩]]
  bad := []
  base := 0
  missed := false
  row := 0
  held := false

/-- The launch of that pass, which owns nothing. -/
def buildLaunch : LaunchS where
  uid := 1
  ctx := 0
  number := 1
  epoch := 1
  kind := 1
  slot := 0
  fbCap := 1
  clusters := 1
  layers := []
  recs := []
  prog := []
  pc := 0
  mb := 0
  state := .running
  recalls := 0
  awaits := []
  signals := []
  waits := []
  told := []
  sealHdr := none
  asked := false
  tableSlot := none
  gather := []
  due := 0
  update := none
  updated := []
  verify := []
  groups := []
  readCv := []
  status := 0
  pending := []
  placed := 0

/-- A module without stacks, with the pass at the head of core 0's drain. -/
def buildDrains : State :=
  { State.reset with cores := [(0, { CoreU.reset with drain := [drainedBuild] })], launches := [buildLaunch] }

/-- Its row's output as FP32 bytes: the value 1. -/
theorem drainedBuild_bytes :
    ((chunks 32 ((drainedBuild.acc.getD drainedBuild.row []).map (Acc.present drainedBuild.base false))).flatMap fun v =>
      (writeThrough (entryOf buildDrains 0 (dTensor drainedBuild.job)) (fmtEpoch buildDrains buildLaunch) (dFmt drainedBuild.job)
        (dTag drainedBuild.job) v).1) = [0x00#8, 0x00#8, 0x80#8, 0x3F#8] := by
  decide

/-- The store of the four bytes finds no memory and changes none. -/
theorem drainedBuild_memory : memGet (drainRow 0 true buildDrains) 0 4 = [0x00#8, 0x00#8, 0x00#8, 0x00#8] := by
  decide

theorem buildDrains_live : coreFenced buildDrains 0 = false := by
  have hbit : bit buildDrains.rel.coreFence 0 = false := by
    have hzero : buildDrains.rel.coreFence = 0 := rfl
    rw [hzero, bit, BitVec.ofNat_eq_ofNat, BitVec.toNat_zero, Nat.zero_div]
    rfl
  rw [coreFenced, hbit]
  decide

/-- Refutes O44: a drained row's clause does not ask for KIND 0x1. A pass with KIND 0x2 counts its row bytes by K, here 0, so that the
clause's range is empty and lies anywhere, while the row's one FP32 output has four bytes, which the store refuses. -/
theorem not_engineRowsComplete : ¬ Obligations.EngineRowsComplete := by
  unfold Obligations.EngineRowsComplete
  intro h
  obtain ⟨-, -, -, -, hdrain, -⟩ := h buildDrains 0 (by decide) buildDrains_live
  obtain ⟨t, hexec, -, hbytes, -⟩ := (hdrain drainedBuild [] rfl).2 buildLaunch rfl (by decide) (by decide) (by decide) (by decide)
    (by decide) (by decide) (by decide) (by decide) (fun g hg => absurd hg (List.not_mem_nil))
  have hstep : exec (.drainRowTake 0 true) buildDrains = .next (drainRow 0 true buildDrains) :=
    onUnit_present (limit := 512) (n := 0) (by decide) buildDrains (drainRow 0 true)
  have ht : t = drainRow 0 true buildDrains := Host.Outcome.next.inj (hexec.symm.trans hstep)
  rw [drainedBuild_bytes, ht] at hbytes
  exact absurd (hbytes.symm.trans drainedBuild_memory) (by decide)

end Sys2Proof.Laws

/-! PROOFS. Stores into a part of a range of the own stacks: the groups that they meet are the range's, so that they change no byte but
their own and those of the range's check plane entries (R23, R167, R273). -/

namespace Sys2Proof.Laws
open Sys2Proof.Machine Sys2Proof.Safety

/-! ### Groups of a part of a range (R130) -/

/-- Groups count along a row, row after row, so a later byte has no earlier group. -/
theorem planeIndex_mono (p : Plane) {x y : Nat} (hxy : x ≤ y) (hrow : 0 < p.rowBytes) : p.indexOf x ≤ p.indexOf y := by
  have hlt (z : Nat) : z % p.rowBytes / max 1 p.group < p.perRow := by
    have hmod : z % p.rowBytes < p.rowBytes := Nat.mod_lt _ hrow
    have hg : 0 < max 1 p.group := by omega
    have hdiv := Nat.div_mul_le_self (p.rowBytes + max 1 p.group - 1) (max 1 p.group)
    refine (Nat.div_lt_iff_lt_mul hg).2 ?_
    have hup := Nat.lt_div_mul_add (a := p.rowBytes + max 1 p.group - 1) hg
    simp only [Plane.perRow]
    omega
  simp only [Plane.indexOf, show max 1 p.rowBytes = p.rowBytes by omega]
  obtain hdiv | hdiv := Nat.eq_or_lt_of_le (Nat.div_le_div_right (c := p.rowBytes) hxy)
  · have hx := Nat.div_add_mod x p.rowBytes
    have hy := Nat.div_add_mod y p.rowBytes
    rw [hdiv] at hx ⊢
    exact Nat.add_le_add_left (Nat.div_le_div_right (by omega)) _
  · have hmul := Nat.mul_le_mul_right p.perRow (Nat.succ_le_of_lt hdiv)
    rw [Nat.succ_mul] at hmul
    have hcol := hlt x
    exact le_trans (by omega) (Nat.le_add_right _ _)

theorem planeMeets_part {p : Plane} {a n b m : Nat} {g : Group} (hlo : b ≤ a) (hhi : a + n ≤ b + m) (h : g ∈ p.meets a n) :
    g ∈ p.meets b m := by
  unfold Plane.meets at h ⊢
  dsimp only at h ⊢
  split at h
  · exact absurd h List.not_mem_nil
  next hne =>
  obtain ⟨j, hj, rfl⟩ := List.mem_map.1 h
  have hj := List.mem_range.1 hj
  have hrow : 0 < p.rowBytes := by
    by_contra h0
    simp only [Plane.bytes, Nat.eq_zero_of_not_pos h0, Nat.mul_zero] at hne
    omega
  have hfirst : p.indexOf (max b p.data - p.data) ≤ p.indexOf (max a p.data - p.data) := planeIndex_mono p (by omega) hrow
  have hlast : p.indexOf (min (a + n) (p.data + p.bytes) - p.data - 1) ≤ p.indexOf (min (b + m) (p.data + p.bytes) - p.data - 1) :=
    planeIndex_mono p (by omega) hrow
  rw [if_neg (by omega)]
  exact List.mem_map.2 ⟨p.indexOf (max a p.data - p.data) + j - p.indexOf (max b p.data - p.data), List.mem_range.2 (by omega),
    by congr 1; omega⟩

theorem groupsMet_part {s : State} {a n b m : Nat} {g : Group} (hlo : b ≤ a) (hhi : a + n ≤ b + m) (h : g ∈ groupsMet s a n) :
    g ∈ groupsMet s b m := by
  obtain ⟨hmet, hlive⟩ := List.mem_filter.1 h
  obtain ⟨p, hp, hg⟩ := List.mem_flatMap.1 hmet
  exact List.mem_filter.2 ⟨List.mem_flatMap.2 ⟨p, hp, planeMeets_part hlo hhi hg⟩, hlive⟩

theorem storable_iff {s : State} {a n : Nat} : storable s a n = true ↔ inStacks s a n = true ∧ guarded s a n = false := by
  simp [storable]

theorem guarded_iff {s : State} {a n : Nat} : guarded s a n = true ↔ ∃ e ∈ residents s, ∃ g ∈ guardedRanges e.2,
    g.1 ≠ noAddr ∧ n ≠ 0 ∧ g.2 ≠ 0 ∧ a < g.1 + g.2 ∧ g.1 < a + n := by
  simp [guarded, rangesMeet, -Prod.exists, and_assoc]

/-- A part of a range that is not guarded is not guarded (R167). -/
theorem not_guarded_part {s : State} {a n b m : Nat} (hlo : b ≤ a) (hhi : a + n ≤ b + m) (h : guarded s b m = false) :
    guarded s a n = false := by
  rw [← Bool.not_eq_true, guarded_iff] at h ⊢
  rintro ⟨e, he, g, hg, haddr, hn, hlen, hbefore, hafter⟩
  exact h ⟨e, he, g, hg, haddr, by omega, hlen, by omega, by omega⟩

theorem inStacks_part {s : State} {a n b m : Nat} (hhi : a + n ≤ b + m) (h : inStacks s b m = true) : inStacks s a n = true := by
  obtain ⟨hle, hbad⟩ := inStacks_iff.1 h
  exact inStacks_iff.2 ⟨by omega, hbad⟩

/-! ### A store with marks -/

/-- A store in the own stacks writes its bytes, brings its groups' entries up to date, and marks poison. -/
theorem markedWrite_stacks {s : State} {a : Nat} {bytes : List Byte} (poison : Bool) (marks : Marks)
    (h : inStacks s a bytes.length = true) (hn : 1 ≤ bytes.length) : markedWrite s false a bytes poison marks
    = (0, poisonStore { s with mem := sealedPut s a bytes (marks.byte poison) } a bytes.length poison) := by
  obtain ⟨hle, hbad⟩ := inStacks_iff.1 h
  have harea : areaOf a = .stack := areaOf_stack (by have := stackBytes_le s; omega)
  have hdead : ((granules a bytes.length).any fun g => onDeadStack s (64 * g)) = false :=
    List.any_eq_false.2 fun g _ => by simp [onDeadStack_of_none hbad]
  simp only [markedWrite, rangeOk_stack false hle, hdead, harea, keptBytes, Bool.not_true, Bool.false_eq_true, if_false]
  rfl

section
variable {s : State} {a : Nat} {bytes : List Byte} {poison : Bool} {marks : Marks} (h : inStacks s a bytes.length = true)
  (hn : 1 ≤ bytes.length)
include h hn

theorem storeMarked_stacks_only : Only [.memory, .poison] s (storeMarked s a bytes poison marks) := by
  rw [storeMarked, markedWrite_stacks poison marks h hn]
  have hmem : Only [.memory] s { s with mem := sealedPut s a bytes (marks.byte poison) } := only_of_withParts rfl
  exact only_trans (only_mono hmem (by simp)) (only_mono (poisonStore_only _ _ _ _) (by simp))

theorem storeMarked_mem : (storeMarked s a bytes poison marks).mem = sealedPut s a bytes (marks.byte poison) := by
  rw [storeMarked, markedWrite_stacks poison marks h hn, poisonStore_eq]

/-- The bytes of a store read back. -/
theorem memByte_storeMarked_in {i : Nat} (hi : i < bytes.length) :
    memByte (storeMarked s a bytes poison marks) (a + i) = bytes.getD i 0#8 := by
  rw [memByte, storeMarked_mem h hn]
  exact memPut_in _ _ _ _ hi

theorem storeMarked_outside : outside a bytes.length s (storeMarked s a bytes poison marks) :=
  outside_sealedPut (storeMarked_mem h hn)

end

/-- A store into a part of a range changes no byte outside that part but those of the range's check plane entries. -/
theorem memByte_storeMarked_part {s : State} {a b m x : Nat} {bytes : List Byte} {poison : Bool} {marks : Marks}
    (hin : inStacks s b m = true) (hn : 1 ≤ bytes.length) (hlo : b ≤ a) (hhi : a + bytes.length ≤ b + m)
    (hx : x < a ∨ a + bytes.length ≤ x) (hfree : ¬ sealedBy s b m x) : memByte (storeMarked s a bytes poison marks) x = memByte s x :=
  storeMarked_outside (inStacks_part hhi hin) hn x hx fun ⟨g, hg, he⟩ => hfree ⟨g, groupsMet_part hlo hhi hg, he⟩

/-- A range that no entry of its own groups lies in has no byte of such an entry. -/
theorem not_sealedBy_of_aloof {s : State} {a n b m x : Nat} (h : aloof s a n b m) (hlo : b ≤ x) (hhi : x < b + m) :
    ¬ sealedBy s a n x := by
  rintro ⟨g, hg, hfirst, hlast⟩
  have := h g hg
  omega

end Sys2Proof.Laws

/-! PROOFS. What the work of a launch's engines leaves steady while its results are stored: the launches, the resident layers, the units in
service, the check planes, and every entry's window (R145, R167, R169, R292). -/

namespace Sys2Proof.Laws
open Sys2Proof.Machine Sys2Proof.Safety

/-- From s to t work has entered cores, clusters and caravans, and results memory; each cluster's regions and each entry's window are as
they were. -/
structure Steady (s t : State) : Prop where
  only : Only [.cores, .clusters, .fabric, .memory, .poison] s t
  region : ∀ c, (clus t c).region = (clus s c).region
  window : ∀ k x epoch, windowBase (entryOf t k x) epoch = windowBase (entryOf s k x) epoch

namespace Steady
variable {s t u : State}

theorem refl (s : State) : Steady s s := ⟨only_refl _ s, fun _ => rfl, fun _ _ _ => rfl⟩

theorem trans (hst : Steady s t) (htu : Steady t u) : Steady s u :=
  ⟨only_trans hst.only htu.only, fun c => (htu.region c).trans (hst.region c), fun k x n => (htu.window k x n).trans (hst.window k x n)⟩

/-- A change of memory and caravans alone. -/
theorem of_only (h : Only [.fabric, .memory, .poison] s t) : Steady s t where
  only := only_mono h (by simp)
  region c := by rw [clus, h .clusters (by decide), clus]
  window k x n := by rw [entryOf, Machine.core, h .cores (by decide), entryOf, Machine.core]

theorem modCore {k : Nat} {f : CoreU → CoreU}
    (hf : ∀ x n, windowBase (tget Entry.reset (f (Machine.core s k)).entries x) n = windowBase (entryOf s k x) n) :
    Steady s (modCore s k f) where
  only := only_mono (ps := [.cores]) (only_of_withParts rfl) (by simp)
  region _ := rfl
  window j x n := by
    by_cases hj : j = k
    · subst hj
      rw [entryOf, core_modCore_same, hf]
    · rw [entryOf, core_modCore_ne hj, entryOf]

/-- Work that changes no entry of its core. -/
theorem modCore_entries {k : Nat} {f : CoreU → CoreU} (hf : ∀ c, (f c).entries = c.entries) : Steady s (Machine.modCore s k f) :=
  modCore fun x n => by rw [hf, entryOf]

theorem modEntry {k e : Nat} {f : Entry → Entry} (hf : ∀ x n, windowBase (f x) n = windowBase x n) :
    Steady s (Machine.modEntry s k e f) := by
  refine modCore fun x n => ?_
  by_cases hx : x = e
  · subst hx
    rw [tget_tmod_same, hf, entryOf]
  · rw [tget_tmod_ne _ _ _ _ _ hx, entryOf]

theorem foldl {α : Type} {f : State → α → State} (hf : ∀ s x, Steady s (f s x)) (l : List α) (s : State) : Steady s (l.foldl f s) := by
  induction l generalizing s with
  | nil => exact refl s
  | cons x l ih => exact (hf s x).trans (ih (f s x))

end Steady

/-! ### The work -/

theorem noteIssue_steady (k uid : Nat) (s : State) : Steady s (noteIssue k uid s) where
  only := only_mono (noteIssue_only k uid s) (by simp)
  region c := by
    by_cases hc : c = k / 16
    · subst hc
      rw [noteIssue, clus_modClus_same]
    · rw [noteIssue, clus_modClus_ne hc]
  window _ _ _ := rfl

theorem engineWork_steady (k : Nat) (w : EngWork) (s : State) : Steady s (engineWork k w s) := .modCore_entries fun _ => rfl

theorem enginesWork_steady (ws : List (Nat × EngWork)) (s : State) : Steady s (enginesWork ws s) :=
  Steady.foldl (f := fun s (w : Nat × EngWork) => engineWork w.1 w.2 s) (fun s w => engineWork_steady w.1 w.2 s) ws s

/-- An entry's window is that of its configuration, its fixed values and its history (R147). -/
theorem windowBase_congr {e f : Entry} (hcfg : f.tcfg = e.tcfg) (hfix : f.tfix = e.tfix) (hhist : f.thist = e.thist) (n : Nat) :
    windowBase f n = windowBase e n := by
  simp only [windowBase, histMax, winFix, hcfg, hfix, hhist]

/-- Counts and ownership are no part of an entry's window. -/
theorem windowBase_counts (e : Entry) (blocks zero sat dig inexact winlow invalid nonfin amax town : Word) (n : Nat) :
    windowBase { e with blocks := blocks, zero := zero, sat := sat, dig := dig, inexact := inexact, winlow := winlow, invalid := invalid
                        nonfin := nonfin, amax := amax, town := town } n = windowBase e n :=
  windowBase_congr rfl rfl rfl n

theorem windowBase_addStat (st : TStat) (e : Entry) (n : Nat) : windowBase (addStat st e) n = windowBase e n :=
  windowBase_counts ..

theorem windowBase_claim (l : LaunchS) (e : Entry) (n : Nat) : windowBase (claim l e) n = windowBase e n := by
  refine windowBase_congr ?_ ?_ ?_ n <;> simp only [claim, apply_ite] <;> exact ite_self _

theorem account_steady (l : LaunchS) (k x : Nat) (st : TStat) (s : State) : Steady s (account l k x st s) := by
  unfold account
  split
  · exact .refl s
  · exact .modEntry fun e n => by rw [windowBase_addStat, windowBase_claim]

theorem noteInexact_steady (l : LaunchS) (k x n : Nat) (s : State) : Steady s (noteInexact l k x n s) := by
  unfold noteInexact
  split
  · exact .modEntry fun _ _ => windowBase_addStat _ _ _
  · exact .refl s

/-! ### What stays -/

namespace Steady
variable {s t : State} (h : Steady s t)
include h

theorem launches : t.launches = s.launches := h.only .launches (by decide)

theorem ctxs : t.ctxs = s.ctxs := h.only .ctxs (by decide)

theorem rel : t.rel = s.rel := h.only .rel (by decide)

theorem findLaunch (uid : Nat) : findLaunch t uid = findLaunch s uid := by rw [Machine.findLaunch, h.launches, Machine.findLaunch]

theorem runs (uid : Nat) : runs t uid = runs s uid := by rw [Machine.runs, h.findLaunch, Machine.runs]

theorem layerRec (c : BitVec 4) (n : Nat) : layerRec t c n = layerRec s c n := by
  rw [Machine.layerRec, ctxU, h.ctxs, Machine.layerRec, ctxU]

theorem fmtEpoch (l : LaunchS) : fmtEpoch t l = fmtEpoch s l := by rw [Machine.fmtEpoch, ctxU, h.ctxs, Machine.fmtEpoch, ctxU]

theorem residents : residents t = residents s := by rw [Machine.residents, h.ctxs, Machine.residents]

theorem guarded (a n : Nat) : guarded t a n = guarded s a n := by rw [Machine.guarded, h.residents, Machine.guarded]

theorem stackBytes : stackBytes t = stackBytes s := by
  rw [Machine.stackBytes, stackCount, h.only .stacks (by decide), Machine.stackBytes, stackCount]

theorem inStacks (a n : Nat) : inStacks t a n = inStacks s a n := by rw [Safety.inStacks, h.stackBytes, h.rel, Safety.inStacks]

theorem clusterOut (c : Nat) : clusterOut t c = clusterOut s c := by
  obtain ⟨-, htop, -⟩ := h.only .ident (by decide)
  simp only [Machine.clusterOut, dieOut, h.region, htop]

theorem coreFenced (k : Nat) : coreFenced t k = coreFenced s k := by
  rw [Machine.coreFenced, h.rel, h.clusterOut, Machine.coreFenced]

theorem accessible (fabric : Bool) (a : Nat) : accessible t fabric a = accessible s fabric a := by
  have harrays : t.arrays = s.arrays := h.only .arrays (by decide)
  simp only [Machine.accessible, h.stackBytes, h.clusterOut, h.coreFenced, digState, h.region, arrFenced, arr, harrays]

theorem rangeOk (fabric : Bool) (a n : Nat) : rangeOk t fabric a n = rangeOk s fabric a n := by
  simp only [Machine.rangeOk, h.accessible]

theorem onDeadStack (a : Nat) : onDeadStack t a = onDeadStack s a := by
  have hstacks : t.stacksIn = s.stacksIn := h.only .stacks (by decide)
  have hstack : stackOf t a = stackOf s a := by
    unfold stackOf stackCount
    rw [hstacks]
  rw [Machine.onDeadStack, hstack, h.rel, Machine.onDeadStack]

theorem groupsMet (a n : Nat) : groupsMet t a n = groupsMet s a n := by
  have hlive : entryLive t = entryLive s := funext fun g => by rw [entryLive, h.rangeOk, h.onDeadStack, entryLive]
  rw [Machine.groupsMet, hlive, planesOf, h.only .planes (by decide), h.residents, Machine.groupsMet, planesOf]

theorem sealedBy (a n x : Nat) : sealedBy t a n x ↔ sealedBy s a n x := by simp only [Safety.sealedBy, h.groupsMet]

end Steady

/-- A store into a part of a range from a state that has stayed steady since the range was looked at. -/
theorem memByte_store_of_steady {s t : State} (h : Steady s t) {a b m x : Nat} {bytes : List Byte} {poison : Bool} {marks : Marks}
    (hin : Safety.inStacks s b m = true) (hn : 1 ≤ bytes.length) (hlo : b ≤ a) (hhi : a + bytes.length ≤ b + m)
    (hx : x < a ∨ a + bytes.length ≤ x) (hfree : ¬ Safety.sealedBy s b m x) : memByte (storeMarked t a bytes poison marks) x = memByte t x :=
  memByte_storeMarked_part ((h.inStacks b m).trans hin) hn hlo hhi hx (mt (h.sealedBy b m x).1 hfree)

end Sys2Proof.Laws

/-! PROOFS. The program of a launch and the caravan that it feeds: entries and micro-batches that end, a caravan that changes, a caravan's
start and the check of an operand, which leave launches and layers as they are (R169, R171, R251, R274). -/

namespace Sys2Proof.Laws
open Sys2Proof.Machine Sys2Proof.Safety

/-! ### Entries and micro-batches (R169) -/

theorem findLaunch_modLaunch (s : State) (uid : Nat) {f : LaunchS → LaunchS} (hf : ∀ l, (f l).uid = l.uid) :
    findLaunch (modLaunch s uid f) uid = (findLaunch s uid).map f := by
  have hkey : (fun l : LaunchS => (if l.uid = uid then f l else l).uid == uid) = fun l => l.uid == uid := funext fun l => by
    split <;> simp [hf]
  rw [findLaunch, modLaunch, findLaunch, List.find?_map, show (fun l : LaunchS => l.uid == uid) ∘ (fun l => if l.uid = uid then f l else l)
    = fun l => l.uid == uid from hkey]
  cases h : s.launches.find? fun l => l.uid == uid with
  | none => rfl
  | some l =>
    have huid : l.uid = uid := by simpa using List.find?_some h
    simp only [Option.map_some, huid, if_true]

theorem findLaunch_nextEntry {s : State} {uid : Nat} {l : LaunchS} (h : findLaunch s uid = some l) :
    findLaunch (nextEntry uid s) uid = some (afterEntry l) := by
  rw [nextEntry, findLaunch_modLaunch _ _ (by exact fun _ => rfl), h]
  rfl

theorem nextEntry_only (uid : Nat) (s : State) : Only [.launches] s (nextEntry uid s) := only_of_withParts rfl

theorem findLaunch_nextBatch {s : State} {uid : Nat} {l : LaunchS} (e : Prog) (h : findLaunch s uid = some l) :
    findLaunch (nextBatch uid e s) uid = some (afterBatch l e) := by
  rw [nextBatch, h, afterBatch]
  dsimp only
  split
  · rw [findLaunch_modLaunch _ _ (by exact fun _ => rfl), h]
    rfl
  · exact findLaunch_nextEntry h

theorem nextBatch_only (uid : Nat) (e : Prog) (s : State) : Only [.launches] s (nextBatch uid e s) := by
  unfold nextBatch
  split
  · exact only_refl _ s
  · exact only_ite (only_of_withParts rfl) (nextEntry_only uid s)

theorem releaseBatch_only (l : LaunchS) (m : Nat) (s : State) : Only [.ctxs] s (releaseBatch l m s) :=
  only_ite (only_refl _ s) (only_of_withParts rfl)

theorem atPhase_of_atEntry {s : State} {uid ph : Nat} {l : LaunchS} {e : Prog} (h : atEntry s uid ph l e) :
    atPhase s uid ph = some (l, e) := by
  obtain ⟨hfind, hrun, hprog, hphase⟩ := h
  rw [atPhase, hfind]
  dsimp only
  rw [hprog]
  exact if_pos (by simp [hrun, hphase])

theorem readyLayer_eq {s : State} {l : LaunchS} {e : Prog} {r : Layer} (h : layerRec s l.ctx e.layer.toNat = some r)
    (happly : r.st.applying = false) : readyLayer s l e = some r := by
  rw [readyLayer, h]
  exact if_neg (by simp [happly])

theorem runs_of_findLaunch {s : State} {uid : Nat} {l : LaunchS} (h : findLaunch s uid = some l) (hrun : l.state = .running) :
    runs s uid = true := by
  rw [runs, h]
  simp [hrun]

/-! ### A caravan that changes -/

theorem findCv_modCv {s : State} {c : BitVec 4} {n : BitVec 8} {e : Word} {f : Caravan → Caravan}
    (hf : ∀ v, sameCv c n e (f v) = sameCv c n e v) : findCv (modCv s c n e f) c n e = (findCv s c n e).map f := by
  have hkey : (sameCv c n e ∘ fun v => if sameCv c n e v then f v else v) = sameCv c n e := funext fun v => by
    simp only [Function.comp_apply]
    split <;> simp [hf]
  show (s.fab.caravans.map _).find? _ = _
  rw [List.find?_map, hkey, findCv]
  cases h : s.fab.caravans.find? (sameCv c n e) with
  | none => rfl
  | some v => simp only [Option.map_some, List.find?_some h, if_true]

theorem modCv_only (s : State) (c : BitVec 4) (n : BitVec 8) (e : Word) (f : Caravan → Caravan) : Only [.fabric] s (modCv s c n e f) :=
  only_of_withParts rfl

/-! ### Launches and layers that stay -/

/-- The launches and each context's resident layers are the same in both states. -/
structure KeepsProgram (s t : State) : Prop where
  launches : t.launches = s.launches
  layers : ∀ c, (ctxU t c).layers = (ctxU s c).layers

namespace KeepsProgram
variable {s t u : State}

theorem refl (s : State) : KeepsProgram s s := ⟨rfl, fun _ => rfl⟩

theorem trans (hst : KeepsProgram s t) (htu : KeepsProgram t u) : KeepsProgram s u :=
  ⟨htu.launches.trans hst.launches, fun c => (htu.layers c).trans (hst.layers c)⟩

theorem of_only {ps : List Part} (h : Only ps s t) (hl : .launches ∉ ps) (hc : .ctxs ∉ ps) : KeepsProgram s t :=
  ⟨h .launches hl, fun c => by rw [ctxU, h .ctxs hc, ctxU]⟩

theorem ite {c : Prop} [Decidable c] (ht : KeepsProgram s t) (hu : KeepsProgram s u) : KeepsProgram s (if c then t else u) := by
  split
  · exact ht
  · exact hu

/-- A change of a context that leaves its layers. -/
theorem modCtx (s : State) (c : BitVec 4) {f : CtxU → CtxU} (hf : ∀ x, (f x).layers = x.layers) : KeepsProgram s (modCtx s c f) where
  launches := rfl
  layers d := by
    by_cases hd : d = c
    · subst hd
      rw [ctxU_modCtx_same, hf]
    · have hne : d.toNat ≠ c.toNat := fun h => hd (BitVec.eq_of_toNat_eq h)
      rw [ctxU, Machine.modCtx, tget_tmod_ne _ _ _ _ _ hne, ctxU]

theorem modSeal (s : State) (c : BitVec 4) (f : SealS → SealS) : KeepsProgram s (modSeal s c f) := modCtx s c fun _ => rfl

theorem modFab (s : State) (f : FabU → FabU) : KeepsProgram s (modFab s f) := ⟨rfl, fun _ => rfl⟩

theorem storeBytes (s : State) (a : Nat) (bytes : List Byte) (poison : Bool) : KeepsProgram s (storeBytes s a bytes poison) :=
  of_only (storeBytes_only s a bytes poison) (by decide) (by decide)

theorem findLaunch (h : KeepsProgram s t) (uid : Nat) : findLaunch t uid = findLaunch s uid := by
  rw [Machine.findLaunch, h.launches, Machine.findLaunch]

theorem layerRec (h : KeepsProgram s t) (c : BitVec 4) (n : Nat) : layerRec t c n = layerRec s c n := by
  rw [Machine.layerRec, h.layers, Machine.layerRec]

end KeepsProgram

theorem setSealState_keepsProgram (c : BitVec 4) (n : Nat) (s : State) : KeepsProgram s (setSealState c n s) :=
  .modCtx s c fun _ => rfl

theorem redErr_keepsProgram (i : Nat) (s : State) : KeepsProgram s (redErr i s) := .modFab s _

theorem setCv_keepsProgram (v : Caravan) (s : State) : KeepsProgram s (setCv v s) :=
  (KeepsProgram.modFab s _).trans (.storeBytes _ _ _ _)

theorem sendMsg_keepsProgram (vc : Nat) (d : DevId) (m : Msg) (s : State) : KeepsProgram s (sendMsg vc d m s) := by
  unfold sendMsg
  split <;> exact ⟨rfl, fun _ => rfl⟩

theorem withdrawOffer_keepsProgram (c : BitVec 4) (s : State) : KeepsProgram s (withdrawOffer c s) := by
  unfold withdrawOffer
  dsimp only
  split
  · exact .refl s
  · refine .ite (.refl s) ?_
    have hopen : KeepsProgram s (if sealState (ctxU s c) = 2 then setSealState c 1 s else s) :=
      .ite (setSealState_keepsProgram c 1 s) (.refl s)
    have hoffer := hopen.trans (.modSeal _ c fun x => { x with offered := false })
    exact .ite hoffer ((hoffer.trans (.modSeal _ c _)).trans (sendMsg_keepsProgram ..))

theorem cvFault_keepsProgram (v : Caravan) (s : State) : KeepsProgram s (cvFault v s) := by
  have hset : KeepsProgram s (redErr 2 (setCv { v with state := 3#3, halves := [] } s)) :=
    (setCv_keepsProgram _ s).trans (redErr_keepsProgram 2 _)
  exact (hset.trans (.modSeal _ v.ctx _)).trans (withdrawOffer_keepsProgram v.ctx _)

/-- The start of a caravan changes neither launches nor layers (R251). -/
theorem startCaravan_keepsProgram (c : BitVec 4) (n : BitVec 8) (k : Word) (s : State) : KeepsProgram s (startCaravan c n k s) := by
  unfold startCaravan
  split
  · exact .refl s
  · extract_lets v s1 s2
    have hlist : KeepsProgram s s1 := .modFab s _
    have hzero : KeepsProgram s1 s2 := .storeBytes _ _ _ _
    exact .ite ((hlist.trans (cvFault_keepsProgram v s1)).trans (redErr_keepsProgram 1 _))
      ((hlist.trans hzero).trans (.storeBytes _ _ _ _))

/-! ### The check of an operand (R274, R287) -/

theorem spoil_only (check : CheckSeen) (rs : List Range) (s : State) : Only [.poison] s (spoil check rs s) := by
  unfold spoil
  split
  · exact only_ite (only_of_withParts rfl) (only_refl _ s)
  · exact only_refl _ s

/-- A check that lets the work go on changes no more than marks of poison and the counts of detections. -/
theorem consume_goes_on {l : LaunchS} {check : CheckSeen} {rs : List Range} {s : State} (h : (consume l check rs s).1 = true) :
    Only [.poison, .rel] s (consume l check rs s).2 := by
  unfold consume checkFor at h ⊢
  have hspoil := only_mono (qs := [.poison, .rel]) (spoil_only check rs s) (by simp)
  cases hc : checkRanges (spoil check rs s) check rs with
  | clean =>
    simp only [hc]
    exact hspoil
  | path =>
    simp only [hc]
    exact only_trans hspoil (only_of_withParts rfl)
  | rest => simp [hc] at h

end Sys2Proof.Laws

/-! PROOFS. The geometry of a caravan's contribution area: where the words and the counts of its tiles lie (R253, R255). -/

namespace Sys2Proof.Laws
open Sys2Proof.Machine Sys2Proof.Safety

/-- First row and first column of a tile. -/
def tileRow (v : Caravan) (k : Nat) : Nat := 64 * (k / max 1 (tileCols v))

def tileCol (v : Caravan) (k : Nat) : Nat := 64 * (k % max 1 (tileCols v))

/-- Bytes of the contribution area: the words of every slice, then the counts. -/
def contribArea (v : Caravan) : Nat := 4 * v.slices.length * v.rows * padCols v.cols + 2 * v.slices.length * tileCount v

/-- Address of a word of slice j. -/
def wordAddr (v : Caravan) (base j row col : Nat) : Nat := base + 4 * ((j * v.rows + row) * padCols v.cols + col)

theorem padCols_le (n : Nat) : n ≤ padCols n := by
  unfold padCols
  omega

theorem tileCols_pos {v : Caravan} {k : Nat} (hk : k < tileCount v) : 0 < tileCols v := by
  by_contra h
  rw [tileCount, Nat.eq_zero_of_not_pos h] at hk
  omega

/-- A tile's blocks lie in the padded row (R253). -/
theorem tileCol_blocks {v : Caravan} {k : Nat} (hk : k < tileCount v) : tileCol v k + 32 * tileBlocks v k ≤ padCols v.cols := by
  have hpos := tileCols_pos hk
  have hmod : k % max 1 (tileCols v) < max 1 (tileCols v) := Nat.mod_lt _ (by omega)
  have hcols : tileCols v = (padCols v.cols + 63) / 64 := rfl
  unfold tileBlocks tileCol
  omega

/-- A tile's columns of the layer lie in its blocks. -/
theorem tileWidth_le (v : Caravan) (k : Nat) : min 64 (v.cols - tileCol v k) ≤ 32 * tileBlocks v k := by
  have hle := padCols_le v.cols
  have hpad : padCols v.cols = 32 * ((v.cols + 31) / 32) := rfl
  unfold tileBlocks tileCol
  omega

theorem tileBlocks_le (v : Caravan) (k : Nat) : tileBlocks v k ≤ 2 := Nat.min_le_left ..

section
variable {v : Caravan} {j : Nat} (hj : j < v.slices.length)
include hj

/-- A row's words lie before the counts. -/
theorem wordAddr_le {base row col w : Nat} (hrow : row < v.rows) (hcol : col + w ≤ padCols v.cols) :
    wordAddr v base j row col + 4 * w ≤ base + 4 * v.slices.length * v.rows * padCols v.cols := by
  have hslice : (j + 1) * v.rows ≤ v.slices.length * v.rows := Nat.mul_le_mul_right _ hj
  rw [Nat.succ_mul] at hslice
  have hline : (j * v.rows + row + 1) * padCols v.cols ≤ v.slices.length * v.rows * padCols v.cols :=
    Nat.mul_le_mul_right _ (by omega)
  rw [Nat.succ_mul] at hline
  have harea : 4 * v.slices.length * v.rows * padCols v.cols = 4 * (v.slices.length * v.rows * padCols v.cols) := by ring
  unfold wordAddr
  omega

theorem countAddr_le {base k : Nat} (hk : k < tileCount v) : countAddr v base j k + 2 ≤ base + contribArea v := by
  have hslice : (j + 1) * tileCount v ≤ v.slices.length * tileCount v := Nat.mul_le_mul_right _ hj
  rw [Nat.succ_mul] at hslice
  have hcounts : 2 * v.slices.length * tileCount v = 2 * (v.slices.length * tileCount v) := by ring
  unfold countAddr contribArea
  omega

omit hj in
theorem countAddr_ge (base k : Nat) : base + 4 * v.slices.length * v.rows * padCols v.cols ≤ countAddr v base j k := by
  unfold countAddr
  omega

end

/-- Words of different lines of the area do not meet. -/
theorem line_apart {cols row row' col col' w : Nat} (hne : row ≠ row') (hcol : col < cols) (hcol' : col' + w ≤ cols) :
    row * cols + col < row' * cols + col' ∨ row' * cols + col' + w ≤ row * cols + col := by
  obtain h | h := Nat.lt_or_gt_of_ne hne
  · have hmul := Nat.mul_le_mul_right cols (Nat.succ_le_of_lt h)
    rw [Nat.succ_mul] at hmul
    omega
  · have hmul := Nat.mul_le_mul_right cols (Nat.succ_le_of_lt h)
    rw [Nat.succ_mul] at hmul
    omega

/-- A word of one row of a tile lies outside every other row of every tile. -/
theorem wordAddr_apart {v : Caravan} {base j k i c k' i' : Nat} (hk : k < tileCount v)
    (hk' : k' < tileCount v) (hi : i < 64) (hi' : i' < 64)
    (hc : c < 32 * tileBlocks v k) (hne : ¬ (k = k' ∧ i = i')) :
    wordAddr v base j (tileRow v k + i) (tileCol v k + c) + 4 ≤ wordAddr v base j (tileRow v k' + i') (tileCol v k')
      ∨ wordAddr v base j (tileRow v k' + i') (tileCol v k') + 4 * (32 * tileBlocks v k')
          ≤ wordAddr v base j (tileRow v k + i) (tileCol v k + c) := by
  have hin := tileCol_blocks hk
  have hin' := tileCol_blocks hk'
  have hb := tileBlocks_le v k
  have hb' := tileBlocks_le v k'
  unfold wordAddr
  by_cases hrow : tileRow v k + i = tileRow v k' + i'
  · have hdiv : k / max 1 (tileCols v) = k' / max 1 (tileCols v) := by
      unfold tileRow at hrow
      omega
    have hi0 : i = i' := by
      unfold tileRow at hrow
      omega
    have hmod : k % max 1 (tileCols v) ≠ k' % max 1 (tileCols v) := fun h => hne ⟨by
      rw [← Nat.div_add_mod k (max 1 (tileCols v)), hdiv, h, Nat.div_add_mod], hi0⟩
    rw [hrow]
    unfold tileCol at hin hin' ⊢
    omega
  · have hline := line_apart (cols := padCols v.cols) (row := j * v.rows + (tileRow v k + i)) (row' := j * v.rows + (tileRow v k' + i'))
      (col := tileCol v k + c) (col' := tileCol v k') (w := 32 * tileBlocks v k') (by omega) (by omega) hin'
    omega

end Sys2Proof.Laws

/-! PROOFS. WEIGHT_GRAD tile by tile: what holds once some rows and some tiles of a micro-batch have been contributed, and how a tile
extends it (R112, R253 to R255). -/

namespace Sys2Proof.Laws
open Sys2Proof.Machine Sys2Proof.Safety

/-! ### A caravan that has taken contributions -/

/-- The caravan has changed in its contributions alone. -/
def Alike (v w : Caravan) : Prop :=
  ∃ exact counts marks rowsOf, w = { v with exact := exact, counts := counts, marks := marks, rowsOf := rowsOf }

theorem Alike.refl (v : Caravan) : Alike v v := ⟨v.exact, v.counts, v.marks, v.rowsOf, rfl⟩

/-- A micro-batch of WEIGHT_GRAD at work: the state in which its operands were read, the launch with its entry, layer and form, the
operands, and the caravan with the slice that the launch feeds. -/
structure GradWork where
  start : State
  l : LaunchS
  e : Prog
  r : Layer
  f : FwdForm
  o : GradOps
  v : Caravan
  j : Nat

namespace GradWork
variable (g : GradWork)

/-- Window base of a tile's pass. -/
def base (k : Nat) : Int :=
  (windowBase (entryOf g.start (homeExec g.start g.r g.v k) g.e.tOut.toNat) (fmtEpoch g.start g.l)).1

/-- One element of a row that a tile contributes: none for an invalid one, zero past the layer's columns. -/
def elt (k i c : Nat) : Option Dy :=
  if min 64 (g.v.cols - tileCol g.v k) ≤ c then some ⟨0, 0⟩
  else
    let acc := dotRow (g.f.inN.toNat + 1) (g.f.stashN.toNat + 1) (g.base k)
      (columnBlocks (g.f.inN.toNat + 1) g.f.tokens g.o.dy (tileRow g.v k + i)).1
      (columnBlocks (g.f.stashN.toNat + 1) g.f.tokens g.o.x (tileCol g.v k + c)).1 Acc.zero
    if acc.invalid then none else some ⟨acc.a, g.base k⟩

/-- The columns of the layer that a tile holds, and a row of it as it is contributed, padded to whole blocks. -/
def width (k : Nat) : Nat := min 64 (g.v.cols - tileCol g.v k)

def vals (k i : Nat) : List (Option Dy) := (List.range (g.width k)).map (g.elt k i)

def line (k i : Nat) : List (Option Dy) := (List.range (32 * tileBlocks g.v k)).map (g.elt k i)

/-- The rows of a tile that the row mask keeps (R112). -/
def keptRows (k : Nat) : List Nat :=
  (List.range (min 64 (g.v.rows - tileRow g.v k))).filter fun i => maskBit g.start (lRowMask g.r) (tileRow g.v k + i)

/-- The key of a tile's count. -/
def key (k : Nat) : Nat := 2 ^ 24 * g.j + k

/-- A byte of the layer's masks. -/
def maskByte (b : Nat) : Prop :=
  ∃ m ∈ [(lRowMask g.r, (g.v.rows + 7) / 8), (lBlockMask g.r, (tileCount g.v + 7) / 8)], m.1 ≠ noAddr ∧ m.1 ≤ b ∧ b < m.1 + m.2

/-- The padding of a row's values to whole blocks. -/
theorem vals_padded (k i : Nat) :
    g.vals k i ++ List.replicate (32 * tileBlocks g.v k - (g.vals k i).length) (some ⟨0, 0⟩) = g.line k i := by
  have hle : g.width k ≤ 32 * tileBlocks g.v k := tileWidth_le g.v k
  have hlen : (g.vals k i).length = g.width k := by simp [vals]
  obtain ⟨m, hm⟩ := Nat.exists_eq_add_of_le hle
  rw [hlen, line, vals, hm, Nat.add_sub_cancel_left, List.range_add, List.map_append, List.map_map]
  refine congrArg _ ((List.eq_replicate_iff.2 ⟨by simp, fun d hd => ?_⟩).symm)
  obtain ⟨c, -, rfl⟩ := List.mem_map.1 hd
  exact if_pos (Nat.le_add_right (g.width k) c)

end GradWork

/-! ### What holds once some rows and tiles are contributed -/

/-- A caravan to which the launch's slice has counted some tiles. -/
structure CountedIn (g : GradWork) (tiles : Nat → Prop) (w : Caravan) : Prop where
  alike : Alike g.v w
  counted : ∀ k, tiles k → tget 0 w.counts (g.key k) = tget 0 g.v.counts (g.key k) + 1
  uncounted : ∀ k, ¬ tiles k → tget 0 w.counts (g.key k) = tget 0 g.v.counts (g.key k)

/-- Some rows have been contributed and some tiles counted: all stayed steady, the bytes to keep are kept, the caravan has the counts, and
what the rows came to is there. -/
structure GradAt (g : GradWork) (keep : Nat → Prop) (there : (Nat → Nat → Prop) → (Nat → Byte) → Caravan → Prop)
    (rows : Nat → Nat → Prop) (tiles : Nat → Prop) (s : State) : Prop where
  steady : Steady g.start s
  memory : ∀ b, keep b → memByte s b = memByte g.start b
  caravan : ∃ w, findCv s g.l.ctx (gradCaravan g.e) g.l.epoch = some w ∧ CountedIn g tiles w ∧ there rows (memByte s) w

/-- One more row. -/
def withRow (rows : Nat → Nat → Prop) (k i : Nat) : Nat → Nat → Prop := fun k' i' => rows k' i' ∨ (k' = k ∧ i' = i)

/-- One more tile. -/
def withTile (tiles : Nat → Prop) (k : Nat) : Nat → Prop := fun k' => tiles k' ∨ k' = k

/-- How a contributed row and a counted tile extend what holds. -/
structure GradRules (g : GradWork) (keep : Nat → Prop) (there : (Nat → Nat → Prop) → (Nat → Byte) → Caravan → Prop) : Prop where
  layer : layerRec g.start g.v.ctx g.v.layer.toNat = some g.r
  runs : runs g.start g.l.uid = true
  mask : ∀ b, g.maskByte b → keep b
  row : ∀ {rows : Nat → Nat → Prop} {tiles : Nat → Prop} {s : State} {w : Caravan} {k i : Nat} (marks : Nat → Byte),
    GradAt g keep there rows tiles s → CountedIn g tiles w → k < tileCount g.v → ¬ tiles k → i ∈ g.keptRows k → ¬ rows k i →
    GradAt g keep there (withRow rows k i) tiles
      (contributeRow (homeExec g.start g.r g.v k) g.l.uid w g.j k i (g.vals k i) marks s)
  count : ∀ {rows : Nat → Nat → Prop} {tiles : Nat → Prop} {s : State} {w : Caravan} {k : Nat},
    GradAt g keep there rows tiles s → CountedIn g tiles w → k < tileCount g.v → ¬ tiles k →
    GradAt g keep there rows (withTile tiles k) (countContribution w g.j k s)

/-! ### Masks (R112) -/

theorem maskBit_congr {s t : State} {base i : Nat} (h : base ≠ noAddr → memByte t (base + i / 8) = memByte s (base + i / 8)) :
    maskBit t base i = maskBit s base i := by
  unfold maskBit
  by_cases hb : base = noAddr
  · simp [hb]
  · rw [h hb]

section
variable {g : GradWork} {keep : Nat → Prop} {there : (Nat → Nat → Prop) → (Nat → Byte) → Caravan → Prop} {rows : Nat → Nat → Prop}
  {tiles : Nat → Prop} {s : State}

theorem maskBit_row (hrules : GradRules g keep there) (h : GradAt g keep there rows tiles s) {k i : Nat}
    (hi : i < min 64 (g.v.rows - tileRow g.v k)) :
    maskBit s (lRowMask g.r) (tileRow g.v k + i) = maskBit g.start (lRowMask g.r) (tileRow g.v k + i) :=
  maskBit_congr fun hne => h.memory _ (hrules.mask _ ⟨_, List.mem_cons_self, hne, Nat.le_add_right _ _, by
    dsimp only
    omega⟩)

theorem maskBit_block (hrules : GradRules g keep there) (h : GradAt g keep there rows tiles s) {k : Nat} (hk : k < tileCount g.v) :
    maskBit s (lBlockMask g.r) k = maskBit g.start (lBlockMask g.r) k :=
  maskBit_congr fun hne => h.memory _ (hrules.mask _ ⟨_, List.mem_cons_of_mem _ List.mem_cons_self, hne, Nat.le_add_right _ _, by
    dsimp only
    omega⟩)

theorem tileMasked_eq {s : State} {v : Caravan} {r : Layer} (h : layerRec s v.ctx v.layer.toNat = some r) (k : Nat) :
    tileMasked s v k = (!maskBit s (lBlockMask r) k
      || !(List.range (min 64 (v.rows - tileRow v k))).any fun i => maskBit s (lRowMask r) (tileRow v k + i)) := by
  rw [tileMasked, h]
  rfl

theorem tileMasked_at (hrules : GradRules g keep there) (h : GradAt g keep there rows tiles s) {w : Caravan} (hw : Alike g.v w) {k : Nat}
    (hk : k < tileCount g.v) : tileMasked s w k = tileMasked g.start g.v k := by
  obtain ⟨x, c, m, ro, rfl⟩ := hw
  have hlayer : layerRec s g.v.ctx g.v.layer.toNat = some g.r := (h.steady.layerRec _ _).trans hrules.layer
  have hany : ((List.range (min 64 (g.v.rows - tileRow g.v k))).any fun i => maskBit s (lRowMask g.r) (tileRow g.v k + i))
      = (List.range (min 64 (g.v.rows - tileRow g.v k))).any fun i => maskBit g.start (lRowMask g.r) (tileRow g.v k + i) :=
    Bool.eq_iff_iff.2 <| by
      simp only [List.any_eq_true]
      exact exists_congr fun i => and_congr_right fun hi => by rw [maskBit_row hrules h (List.mem_range.1 hi)]
  refine (tileMasked_eq (v := { g.v with exact := x, counts := c, marks := m, rowsOf := ro }) hlayer k).trans ?_
  rw [tileMasked_eq hrules.layer, maskBit_block hrules h hk]
  exact congrArg _ (congrArg _ hany)

theorem keptRows_at (hrules : GradRules g keep there) (h : GradAt g keep there rows tiles s) (k : Nat) :
    ((List.range (min 64 (g.v.rows - tileRow g.v k))).filter fun i => maskBit s (lRowMask g.r) (tileRow g.v k + i)) = g.keptRows k :=
  List.filter_congr fun _ hi => maskBit_row hrules h (List.mem_range.1 hi)

/-! ### One tile -/

theorem homeExec_at (h : Steady g.start s) {w : Caravan} (hw : Alike g.v w) (k : Nat) :
    homeExec s g.r w k = homeExec g.start g.r g.v k := by
  obtain ⟨x, c, m, ro, rfl⟩ := hw
  simp only [homeExec, h.coreFenced, h.rel]
  rfl

/-- Work on cores and clusters that leaves memory and caravans alone. -/
structure Worked (s t : State) : Prop where
  steady : Steady s t
  mem : t.mem = s.mem
  fab : t.fab = s.fab

theorem GradAt.worked (h : GradAt g keep there rows tiles s) {t : State} (hw : Worked s t) : GradAt g keep there rows tiles t := by
  have hmem : memByte t = memByte s := funext fun b => by rw [memByte, hw.mem, memByte]
  refine ⟨h.steady.trans hw.steady, fun b hb => by rw [hmem, h.memory b hb], ?_⟩
  rw [findCv, hw.fab, hmem]
  exact h.caravan

theorem enginesWork_worked (ws : List (Nat × EngWork)) (s : State) : Worked s (enginesWork ws s) := by
  refine ⟨enginesWork_steady ws s, ?_, ?_⟩
  all_goals
    unfold enginesWork
    induction ws generalizing s with
    | nil => rfl
    | cons w ws ih => exact ih (engineWork w.1 w.2 s)

/-- A tile with no row kept changes nothing; every other one works on its home core, contributes its kept rows and is counted. -/
theorem gradTile_eq (hrules : GradRules g keep there) (h : GradAt g keep there rows tiles s) {w : Caravan} (hw : Alike g.v w) {k : Nat}
    (hk : k < tileCount g.v) (hkept : tileMasked g.start g.v k = false) :
    ∃ (marks : Nat → Nat → Byte) (u : State), Worked s u ∧ gradTile g.l g.e g.r g.f g.o w g.j k s = countContribution w g.j k
      ((g.keptRows k).foldl (fun s i =>
        contributeRow (homeExec g.start g.r g.v k) g.l.uid w g.j k i (g.vals k i) (marks i) s) u) := by
  have hruns : runs s g.l.uid = true := (h.steady.runs _).trans hrules.runs
  have hmasked := (tileMasked_at hrules h hw hk).trans hkept
  have hhome := homeExec_at h.steady hw k
  have hbase : (windowBase (entryOf s (homeExec g.start g.r g.v k) g.e.tOut.toNat) (fmtEpoch s g.l)).1 = g.base k := by
    rw [h.steady.window, h.steady.fmtEpoch, GradWork.base]
  have hrows := keptRows_at hrules h k
  obtain ⟨x, c, m, ro, rfl⟩ := hw
  unfold gradTile
  rw [if_neg (by rw [hmasked, hruns]; exact Bool.false_ne_true)]
  extract_lets n sn home base r0 c0 width cols kept inexact work s1 s2
  have hkept' : kept = (g.keptRows k).map fun i => (i, columnBlocks n g.f.tokens g.o.dy (r0 + i)) := congrArg (List.map _) hrows
  have hvals (i : Nat) : (cols.map fun b =>
      let acc := dotRow n sn base (columnBlocks n g.f.tokens g.o.dy (r0 + i)).1 b.1 Acc.zero
      if acc.invalid then none else some (⟨acc.a, base⟩ : Dy)) = g.vals k i := by
    have hb : base = g.base k := (congrArg (fun x => (windowBase (entryOf s x g.e.tOut.toNat) (fmtEpoch s g.l)).1) hhome).trans hbase
    rw [hb]
    refine (List.map_map ..).trans (List.map_congr_left fun c hc => ?_)
    exact (if_neg (Nat.not_le.2 (List.mem_range.1 hc))).symm
  have hissue : Worked s s1 := by
    have hsteady : Steady s s1 := ((engineWork_steady home work s).trans (noteIssue_steady home g.l.uid _)).trans
      (noteInexact_steady g.l home g.e.tOut.toNat inexact _)
    refine ⟨hsteady, ?_, ?_⟩
    all_goals
      unfold s1 noteInexact
      split <;> rfl
  refine ⟨fun i b => zb8Header 0 g.o.poison (columnMarked g.o n g.f.tokens g.o.dyAt (lOut g.r) ((r0 + i) / 32)
    || columnMarked g.o sn g.f.tokens g.o.xAt (lIn g.r) (c0 / 32 + b)) false false, s1, hissue, congrArg _ ?_⟩
  unfold s2
  rw [hkept', List.foldl_map]
  refine List.foldl_ext _ _ _ fun t i _ => ?_
  rw [← hvals i, ← hhome]

theorem GradAt.congr {rows' : Nat → Nat → Prop} {tiles' : Nat → Prop} (h : GradAt g keep there rows tiles s)
    (hr : ∀ k i, rows k i ↔ rows' k i) (ht : ∀ k, tiles k ↔ tiles' k) : GradAt g keep there rows' tiles' s := by
  obtain rfl : rows = rows' := funext fun k => funext fun i => propext (hr k i)
  obtain rfl : tiles = tiles' := funext fun k => propext (ht k)
  exact h

/-- The rows of a tile, one after the other. -/
theorem GradAt.addRows (hrules : GradRules g keep there) {w : Caravan} (hw : CountedIn g tiles w) {k : Nat} (hk : k < tileCount g.v)
    (hnew : ¬ tiles k) (marks : Nat → Nat → Byte) {L : List Nat} (hnodup : L.Nodup) (hL : ∀ i ∈ L, i ∈ g.keptRows k ∧ ¬ rows k i)
    (h : GradAt g keep there rows tiles s) : GradAt g keep there (fun k' i => rows k' i ∨ (k' = k ∧ i ∈ L)) tiles
      (L.foldl (fun s i => contributeRow (homeExec g.start g.r g.v k) g.l.uid w g.j k i (g.vals k i) (marks i) s) s) := by
  induction L generalizing rows s with
  | nil => exact h.congr (by simp) fun _ => Iff.rfl
  | cons i L ih =>
    obtain ⟨hi, hL'⟩ := List.nodup_cons.1 hnodup
    obtain ⟨⟨hkept, hfresh⟩, hrest⟩ := List.forall_mem_cons.1 hL
    have hstep := hrules.row (marks i) h hw hk hnew hkept hfresh
    refine (ih hL' (fun x hx => ⟨(hrest x hx).1, ?_⟩) hstep).congr (fun k' x => ?_) fun _ => Iff.rfl
    · rintro (hold | ⟨-, rfl⟩)
      · exact (hrest x hx).2 hold
      · exact hi hx
    · simp only [withRow, List.mem_cons]
      tauto

theorem keptRows_nodup (g : GradWork) (k : Nat) : (g.keptRows k).Nodup := List.nodup_range.filter _

/-- A tile of the micro-batch (R112). -/
theorem GradAt.addTile (hrules : GradRules g keep there) (h : GradAt g keep there rows tiles s) {k : Nat} (hk : k < tileCount g.v)
    (hnew : ¬ tiles k) (hfresh : ∀ i, ¬ rows k i) : GradAt g keep there
      (fun k' i => rows k' i ∨ (k' = k ∧ tileMasked g.start g.v k = false ∧ i ∈ g.keptRows k))
      (fun k' => tiles k' ∨ (k' = k ∧ tileMasked g.start g.v k = false))
      (match findCv s g.l.ctx (gradCaravan g.e) g.l.epoch with
        | some v => gradTile g.l g.e g.r g.f g.o v g.j k s
        | none => s) := by
  obtain ⟨w, hfind, hw, -⟩ := h.caravan
  rw [hfind]
  dsimp only
  by_cases hmask : tileMasked g.start g.v k = true
  · have hsame : gradTile g.l g.e g.r g.f g.o w g.j k s = s := by
      rw [gradTile, tileMasked_at hrules h hw.alike hk, hmask]
      rfl
    rw [hsame]
    exact h.congr (by simp [hmask]) (by simp [hmask])
  · have hkept : tileMasked g.start g.v k = false := Bool.eq_false_iff.2 hmask
    obtain ⟨marks, u, hworked, htile⟩ := gradTile_eq hrules h hw.alike hk hkept
    have hrows := (h.worked hworked).addRows hrules hw hk hnew marks (keptRows_nodup g k) fun i hi => ⟨hi, hfresh i⟩
    rw [htile]
    exact (hrules.count hrows hw hk hnew).congr (by simp [hkept]) (by simp [withTile, hkept])

/-- The tiles of the micro-batch, one after the other. -/
theorem GradAt.addTiles (hrules : GradRules g keep there) {L : List Nat} (hnodup : L.Nodup)
    (hL : ∀ k ∈ L, k < tileCount g.v ∧ ¬ tiles k ∧ ∀ i, ¬ rows k i) (h : GradAt g keep there rows tiles s) :
    GradAt g keep there (fun k i => rows k i ∨ (k ∈ L ∧ tileMasked g.start g.v k = false ∧ i ∈ g.keptRows k))
      (fun k => tiles k ∨ (k ∈ L ∧ tileMasked g.start g.v k = false))
      (L.foldl (fun s k => match findCv s g.l.ctx (gradCaravan g.e) g.l.epoch with
        | some v => gradTile g.l g.e g.r g.f g.o v g.j k s
        | none => s) s) := by
  induction L generalizing rows tiles s with
  | nil => exact h.congr (by simp) (by simp)
  | cons k L ih =>
    obtain ⟨hk, hnodup'⟩ := List.nodup_cons.1 hnodup
    obtain ⟨⟨hlt, hnew, hfresh⟩, hrest⟩ := List.forall_mem_cons.1 hL
    refine (ih hnodup' (fun x hx => ?_) (h.addTile hrules hlt hnew hfresh)).congr (fun k' i => ?_) fun k' => ?_
    · have hne : x ≠ k := fun he => hk (he ▸ hx)
      obtain ⟨hxlt, hxnew, hxfresh⟩ := hrest x hx
      exact ⟨hxlt, by simp [hne, hxnew], fun i => by simp [hne, hxfresh i]⟩
    · rw [List.mem_cons]
      constructor
      · rintro ((hr | ⟨rfl, hr⟩) | ⟨hm, hr⟩)
        exacts [.inl hr, .inr ⟨.inl rfl, hr⟩, .inr ⟨.inr hm, hr⟩]
      · rintro (hr | ⟨rfl | hm, hr⟩)
        exacts [.inl (.inl hr), .inl (.inr ⟨rfl, hr⟩), .inr ⟨hm, hr⟩]
    · rw [List.mem_cons]
      constructor
      · rintro ((ht | ⟨rfl, ht⟩) | ⟨hm, ht⟩)
        exacts [.inl ht, .inr ⟨.inl rfl, ht⟩, .inr ⟨.inr hm, ht⟩]
      · rintro (ht | ⟨rfl | hm, ht⟩)
        exacts [.inl (.inl ht), .inl (.inr ⟨rfl, ht⟩), .inr ⟨hm, ht⟩]

end

end Sys2Proof.Laws

/-! PROOFS. Contributions of WEIGHT_GRAD: exact values in the caravan, and FP32 sums in the contribution area (R255). -/

namespace Sys2Proof.Laws
open Sys2Proof.Machine Sys2Proof.Safety

section
variable {g : GradWork} {keep : Nat → Prop} {there : (Nat → Nat → Prop) → (Nat → Byte) → Caravan → Prop}
  {rows rows' : Nat → Nat → Prop} {tiles tiles' : Nat → Prop} {s t : State}

/-- The caravan's own name. -/
def Named (g : GradWork) : Prop := sameCv g.l.ctx (gradCaravan g.e) g.l.epoch g.v = true

theorem Named.eq (h : Named g) : g.v.ctx = g.l.ctx ∧ g.v.n = gradCaravan g.e ∧ g.v.epoch = g.l.epoch := by
  simpa [Named, sameCv, and_assoc] using h

/-- The caravan changes in its contributions. -/
theorem GradAt.modCv (h : GradAt g keep there rows tiles s) (hname : Named g) {f : Caravan → Caravan}
    (hkey : ∀ c n e x, sameCv c n e (f x) = sameCv c n e x) (hcount : ∀ x, CountedIn g tiles x → CountedIn g tiles' (f x))
    (hthere : ∀ m x, there rows m x → there rows' m (f x)) :
    GradAt g keep there rows' tiles' (modCv s g.v.ctx g.v.n g.v.epoch f) := by
  obtain ⟨hctx, hn, hepoch⟩ := hname.eq
  obtain ⟨w, hfind, hw, hrows⟩ := h.caravan
  rw [hctx, hn, hepoch]
  refine ⟨h.steady.trans (.of_only (only_mono (modCv_only _ _ _ _ _) (by simp))), h.memory, f w, ?_, hcount w hw, hthere _ w hrows⟩
  rw [findCv_modCv (hkey _ _ _), hfind]
  rfl

/-- Memory changes where nothing is to be kept. -/
theorem GradAt.stored (h : GradAt g keep there rows tiles s) (hsteady : Steady s t) (hfab : t.fab = s.fab)
    (hmem : ∀ b, keep b → memByte t b = memByte s b) (hthere : ∀ w, there rows (memByte s) w → there rows' (memByte t) w) :
    GradAt g keep there rows' tiles t := by
  obtain ⟨w, hfind, hw, hrows⟩ := h.caravan
  refine ⟨h.steady.trans hsteady, fun b hb => (hmem b hb).trans (h.memory b hb), w, ?_, hw, hthere w hrows⟩
  rw [findCv, hfab]
  exact hfind

/-! ### Counts (R255) -/

theorem key_inj {g : GradWork} {k k' : Nat} (h : g.key k = g.key k') : k = k' := Nat.add_left_cancel h

theorem CountedIn.count {w x : Caravan} {k : Nat} (hx : CountedIn g tiles x) (hw : CountedIn g tiles w) (hnew : ¬ tiles k) :
    CountedIn g (withTile tiles k) { x with counts := tset 0 x.counts (g.key k) (tget 0 w.counts (g.key k) + 1) } := by
  obtain ⟨⟨ex, c, m, ro, rfl⟩, hcounted, huncounted⟩ := hx
  refine ⟨⟨ex, _, m, ro, rfl⟩, fun k' hk' => ?_, fun k' hk' => ?_⟩
  · by_cases he : k' = k
    · subst he
      rw [tget_tset_same, hw.uncounted k' hnew]
    · rw [tget_tset_ne _ _ _ _ _ fun h => he (key_inj h)]
      exact hcounted k' (hk'.resolve_right he)
  · have hne : k' ≠ k := fun he => hk' (.inr he)
    rw [tget_tset_ne _ _ _ _ _ fun h => hne (key_inj h)]
    exact huncounted k' fun ht => hk' (.inl ht)

/-- The count of a tile, in the caravan and, with a contribution area, in the area. -/
theorem GradAt.count (h : GradAt g keep there rows tiles s) (hname : Named g) {w : Caravan} (hw : CountedIn g tiles w) {k : Nat}
    (hk : k < tileCount g.v) (hnew : ¬ tiles k) (hj : g.j < g.v.slices.length)
    (harea : ∀ base, g.v.contrib = some base → inStacks g.start base (contribArea g.v) = true
      ∧ ∀ b, keep b → (b < base ∨ base + contribArea g.v ≤ b) ∧ ¬ sealedBy g.start base (contribArea g.v) b)
    (hcounts : ∀ m x c, there rows m x → there rows m { x with counts := c })
    (hstore : ∀ base u w n, g.v.contrib = some base → Steady g.start u → there rows (memByte u) w →
      there rows (memByte (storeMarked u (countAddr g.v base g.j k) (leBytes 2 n) false {})) w) :
    GradAt g keep there rows (withTile tiles k) (countContribution w g.j k s) := by
  have hfab := h.modCv (tiles' := withTile tiles k) hname (f := fun x => { x with
    counts := tset 0 x.counts (g.key k) (tget 0 w.counts (g.key k) + 1) }) (fun _ _ _ _ => rfl) (fun x hx => hx.count hw hnew)
    fun m x hx => hcounts m x _ hx
  obtain ⟨ex, c, m, ro, hwv⟩ := hw.alike
  have heq : countContribution w g.j k s = match g.v.contrib with
      | none => Machine.modCv s g.v.ctx g.v.n g.v.epoch fun x => { x with
          counts := tset 0 x.counts (g.key k) (tget 0 w.counts (g.key k) + 1) }
      | some base => storeMarked (Machine.modCv s g.v.ctx g.v.n g.v.epoch fun x => { x with
          counts := tset 0 x.counts (g.key k) (tget 0 w.counts (g.key k) + 1) }) (countAddr g.v base g.j k)
          (leBytes 2 (tget 0 w.counts (g.key k) + 1)) false {} := by
    rw [hwv]
    rfl
  rw [heq]
  cases hc : g.v.contrib with
  | none => exact hfab
  | some base =>
    obtain ⟨hin, hkeep⟩ := harea base hc
    have hlen : (leBytes 2 (tget 0 w.counts (g.key k) + 1)).length = 2 := leBytes_length ..
    have hlo : base ≤ countAddr g.v base g.j k := le_trans (by omega) (countAddr_ge base k)
    have hhi := countAddr_le (base := base) hj hk
    have hin' : inStacks (Machine.modCv s g.v.ctx g.v.n g.v.epoch fun x => { x with
        counts := tset 0 x.counts (g.key k) (tget 0 w.counts (g.key k) + 1) }) (countAddr g.v base g.j k)
        (leBytes 2 (tget 0 w.counts (g.key k) + 1)).length = true :=
      inStacks_part (by rw [hlen]; exact hhi) ((hfab.steady.inStacks _ _).trans hin)
    have honly := storeMarked_stacks_only (poison := false) (marks := {}) hin' (by rw [hlen]; decide)
    refine hfab.stored (.of_only (only_mono honly (by simp))) (honly .fabric (by decide)) (fun b hb => ?_) fun x hx =>
      hstore base _ x _ hc hfab.steady hx
    obtain ⟨hout, hfree⟩ := hkeep b hb
    exact memByte_store_of_steady hfab.steady hin (by rw [hlen]; decide) hlo (by rw [hlen]; exact hhi) (by omega) hfree

/-! ### Exact values (R255) -/

/-- The rows' exact values are in the caravan. -/
def exactThere (g : GradWork) (rows : Nat → Nat → Prop) (_ : Nat → Byte) (w : Caravan) : Prop :=
  ∀ k i, rows k i → ∃ row, row ∈ tget [] w.exact k ∧ row.1 = i ∧ row.2 = g.line k i

/-- The caravan of a row's contribution, apart from its values: the rows that it holds, and their marks. -/
def noteRow (j k i : Nat) (nb : Nat) (marks : Nat → Byte) (w : Caravan) : Caravan :=
  { w with
    rowsOf := tmod 0#64 w.rowsOf k fun b => b ||| BitVec.ofNat 64 (2 ^ i)
    marks := (List.range nb).foldl (fun m b => tmod 0#8 m (markKey j k i b) fun x => x ||| marks b) w.marks }

/-- A row's exact values take the place of those it had. -/
def putRow (k i : Nat) (line : List (Option Dy)) (w : Caravan) : Caravan :=
  { w with exact := tmod [] w.exact k fun rows => (rows.filter fun e => e.1 != i) ++ [(i, line)] }

theorem contributeRow_exact {w : Caravan} (hw : Alike g.v w) (hexact : isExact g.v = true) (home uid k i : Nat) (marks : Nat → Byte)
    (s : State) : contributeRow home uid w g.j k i (g.vals k i) marks s
      = modCv s g.v.ctx g.v.n g.v.epoch fun x => noteRow g.j k i (tileBlocks g.v k) marks (putRow k i (g.line k i) x) := by
  obtain ⟨x, c, m, ro, rfl⟩ := hw
  unfold contributeRow
  refine (if_pos hexact).trans ?_
  rw [← g.vals_padded k i]
  rfl

theorem GradAt.exactRow (h : GradAt g keep (exactThere g) rows tiles s) (hname : Named g) (hexact : isExact g.v = true) {w : Caravan}
    (hw : CountedIn g tiles w) (home uid k i : Nat) (marks : Nat → Byte) :
    GradAt g keep (exactThere g) (withRow rows k i) tiles (contributeRow home uid w g.j k i (g.vals k i) marks s) := by
  rw [contributeRow_exact hw.alike hexact]
  refine h.modCv hname (fun _ _ _ _ => rfl) (fun x hx => ?_) fun m x hx k' i' hrow => ?_
  · obtain ⟨⟨ex, c, m, ro, rfl⟩, hcounted, huncounted⟩ := hx
    exact ⟨⟨_, c, _, _, rfl⟩, hcounted, huncounted⟩
  · have hput : (noteRow g.j k i (tileBlocks g.v k) marks (putRow k i (g.line k i) x)).exact
        = tmod [] x.exact k fun rows => (rows.filter fun e => e.1 != i) ++ [(i, g.line k i)] := rfl
    rw [hput]
    by_cases hk : k' = k
    · subst hk
      rw [tget_tmod_same]
      by_cases hi : i' = i
      · exact ⟨(i, g.line k' i), List.mem_append_right _ List.mem_cons_self, hi.symm, by rw [hi]⟩
      · obtain ⟨row, hmem, hfst, hsnd⟩ := hx k' i' (hrow.resolve_right fun he => hi he.2)
        exact ⟨row, List.mem_append_left _ (List.mem_filter.2 ⟨hmem, by simp [hfst, hi]⟩), hfst, hsnd⟩
    · rw [tget_tmod_ne _ _ _ _ _ hk]
      exact hx k' i' (hrow.resolve_right fun he => hk he.1)

/-- Where one slice has one micro-batch, rows give exact values. -/
theorem gradRules_exact (hlayer : layerRec g.start g.v.ctx g.v.layer.toNat = some g.r) (hruns : runs g.start g.l.uid = true)
    (hmask : ∀ b, g.maskByte b → keep b) (hname : Named g) (hexact : isExact g.v = true) (hj : g.j < g.v.slices.length)
    (harea : ∀ base, g.v.contrib = some base → inStacks g.start base (contribArea g.v) = true
      ∧ ∀ b, keep b → (b < base ∨ base + contribArea g.v ≤ b) ∧ ¬ sealedBy g.start base (contribArea g.v) b) :
    GradRules g keep (exactThere g) where
  layer := hlayer
  runs := hruns
  mask := hmask
  row marks h hw _ _ _ _ := h.exactRow hname hexact hw _ _ _ _ marks
  count h hw hk hnew := h.count hname hw hk hnew hj harea (fun _ _ _ hx => hx) fun _ _ _ _ _ _ hx => hx

end

end Sys2Proof.Laws

/-! PROOFS. FP32 contributions: a row's words are stored block by block, and no later store of the area changes them (R255, R273). -/

namespace Sys2Proof.Laws
open Sys2Proof.Machine Sys2Proof.Safety

/-! ### Words in memory -/

/-- The word at an address, where its bytes are read. -/
def memWord (m : Nat → Byte) (a : Nat) : Word := wordOfBytes ((List.range 4).map fun i => m (a + i))

theorem memWord_congr {m m' : Nat → Byte} {a : Nat} (h : ∀ i, i < 4 → m (a + i) = m' (a + i)) : memWord m a = memWord m' a :=
  congrArg wordOfBytes (List.map_congr_left fun i hi => h i (List.mem_range.1 hi))

theorem readWord_eq_memWord {s : State} (h : s.rel.badStacks = 0#8) (a : Nat) : readWord s a = memWord (memByte s) a := by
  rw [readWord, memGet_of_none fun i _ => onDeadStack_of_none h _, memWord]

theorem bytesOfWord_length (w : Word) : (bytesOfWord w).length = 4 := leBytes_length ..

/-- The bytes of a list of words, four to a word. -/
theorem getD_flatMap_bytesOfWord (ws : List Word) (q : Nat) {i : Nat} (hi : i < 4) (hq : q < ws.length) :
    (ws.flatMap bytesOfWord).getD (4 * q + i) 0#8 = (bytesOfWord (ws.getD q 0#32)).getD i 0#8 := by
  induction ws generalizing q with
  | nil => simp at hq
  | cons w ws ih =>
    have hw := bytesOfWord_length w
    rw [List.flatMap_cons]
    cases q with
    | zero =>
      rw [List.getD_append _ _ _ _ (by omega)]
      simp
    | succ q =>
      rw [List.getD_append_right _ _ _ _ (by omega), hw, show 4 * (q + 1) + i - 4 = 4 * q + i by omega,
        ih q (by simpa using hq)]
      rfl

theorem flatMap_bytesOfWord_length (ws : List Word) : (ws.flatMap bytesOfWord).length = 4 * ws.length := by
  induction ws with
  | nil => rfl
  | cons w ws ih =>
    rw [List.flatMap_cons, List.length_append, ih, bytesOfWord_length, List.length_cons]
    omega

theorem wordOfBytes_bytesOfWord (w : Word) : wordOfBytes ((List.range 4).map fun i => (bytesOfWord w).getD i 0#8) = w := by
  have hbytes : ((List.range 4).map fun i => (bytesOfWord w).getD i 0#8) = bytesOfWord w :=
    List.ext_getElem (by simp [bytesOfWord_length]) fun i hi hi' => by
      rw [List.getElem_map, List.getElem_range, List.getD_eq_getElem]
  rw [hbytes, wordOfBytes, List.take_of_length_le (bytesOfWord_length w).le, bytesOfWord, leNat_leBytes]
  exact BitVec.eq_of_toNat_eq (by rw [BitVec.toNat_ofNat, Nat.mod_mod_of_dvd _ (by decide), Nat.mod_eq_of_lt w.isLt])

/-! ### Blocks stored one after the other in a range of the own stacks -/

section
variable {s0 s : State} {base area a w : Nat} {chunk : Nat → List Byte} {poison : Nat → Bool} {marks : Nat → Marks}

/-- Blocks of w bytes, stored one after the other. -/
def storeBlocks (a w : Nat) (chunk : Nat → List Byte) (poison : Nat → Bool) (marks : Nat → Marks) (n : Nat) (s : State) : State :=
  (List.range n).foldl (fun s b => storeMarked s (a + w * b) (chunk b) (poison b) (marks b)) s

theorem storeBlocks_succ (n : Nat) (s : State) : storeBlocks a w chunk poison marks (n + 1) s
    = storeMarked (storeBlocks a w chunk poison marks n s) (a + w * n) (chunk n) (poison n) (marks n) := by
  simp only [storeBlocks, List.range_succ, List.foldl_append, List.foldl_cons, List.foldl_nil]

variable (hregion : inStacks s0 base area = true) (hsteady : Steady s0 s) (hw : 1 ≤ w)
include hregion hsteady hw

theorem storeBlocks_only {n : Nat} (hhi : a + w * n ≤ base + area) (hchunk : ∀ b, b < n → (chunk b).length = w) :
    Only [.memory, .poison] s (storeBlocks a w chunk poison marks n s) := by
  induction n with
  | zero => exact only_refl _ s
  | succ n ih =>
    have hmul : w * (n + 1) = w * n + w := Nat.mul_succ w n
    have hprev := ih (by omega) fun b hb => hchunk b (by omega)
    have hsteady' : Steady s0 (storeBlocks a w chunk poison marks n s) := hsteady.trans (.of_only (only_mono hprev (by simp)))
    have hlen := hchunk n (by omega)
    rw [storeBlocks_succ]
    exact only_trans hprev (storeMarked_stacks_only
      (inStacks_part (by rw [hlen]; omega) ((hsteady'.inStacks _ _).trans hregion)) (by omega))

theorem storeBlocks_steady {n : Nat} (hhi : a + w * n ≤ base + area) (hchunk : ∀ b, b < n → (chunk b).length = w) :
    Steady s (storeBlocks a w chunk poison marks n s) :=
  .of_only (only_mono (storeBlocks_only hregion hsteady hw hhi hchunk) (by simp))

/-- No other byte changes, but those of the range's entries. -/
theorem memByte_storeBlocks_out {n x : Nat} (hlo : base ≤ a) (hhi : a + w * n ≤ base + area) (hchunk : ∀ b, b < n → (chunk b).length = w)
    (hx : x < a ∨ a + w * n ≤ x) (hfree : ¬ sealedBy s0 base area x) :
    memByte (storeBlocks a w chunk poison marks n s) x = memByte s x := by
  induction n with
  | zero => rfl
  | succ n ih =>
    have hmul : w * (n + 1) = w * n + w := Nat.mul_succ w n
    have hlen := hchunk n (by omega)
    have hprev := storeBlocks_steady (a := a) (chunk := chunk) (poison := poison) (marks := marks) hregion hsteady hw (n := n) (by omega)
      fun b hb => hchunk b (by omega)
    rw [storeBlocks_succ, memByte_store_of_steady (hsteady.trans hprev) hregion (by omega) (by omega) (by omega) (by omega) hfree]
    exact ih (by omega) (fun b hb => hchunk b (by omega)) (by omega)

/-- Each block's bytes read back. -/
theorem memByte_storeBlocks_in {n b i : Nat} (hapart : aloof s0 base area base area) (hlo : base ≤ a) (hhi : a + w * n ≤ base + area)
    (hchunk : ∀ b, b < n → (chunk b).length = w) (hb : b < n) (hi : i < w) :
    memByte (storeBlocks a w chunk poison marks n s) (a + w * b + i) = (chunk b).getD i 0#8 := by
  induction n with
  | zero => omega
  | succ n ih =>
    have hmul : w * (n + 1) = w * n + w := Nat.mul_succ w n
    have hlen := hchunk n (by omega)
    have hprev := storeBlocks_steady (a := a) (chunk := chunk) (poison := poison) (marks := marks) hregion hsteady hw (n := n) (by omega)
      fun b hb => hchunk b (by omega)
    have hin : inStacks (storeBlocks a w chunk poison marks n s) (a + w * n) (chunk n).length = true :=
      inStacks_part (by rw [hlen]; omega) (((hsteady.trans hprev).inStacks _ _).trans hregion)
    rw [storeBlocks_succ]
    obtain rfl | hlt := Nat.eq_or_lt_of_le (Nat.le_of_lt_succ hb)
    · exact memByte_storeMarked_in hin (by omega) (by omega)
    · have hblock : w * b + w ≤ w * n := by
        rw [← Nat.mul_succ]
        exact Nat.mul_le_mul_left w hlt
      rw [memByte_store_of_steady (hsteady.trans hprev) hregion (by omega) (by omega) (by omega) (.inl (by omega))
        (not_sealedBy_of_aloof hapart (by omega) (by omega))]
      exact ih (by omega) (fun b hb => hchunk b (by omega)) hlt

end

end Sys2Proof.Laws

/-! PROOFS. WEIGHT_GRAD into a contribution area: each row's words are written or added, and the other words stay (R254, R255). -/

namespace Sys2Proof.Laws
open Sys2Proof.Machine Sys2Proof.Safety

namespace GradWork
variable (g : GradWork) (base : Nat)

/-- An element as an FP32 word. -/
def elemWord (k i c : Nat) : Word :=
  match g.elt k i c with
  | some d => dyToF32 d
  | none => 0x7FC00000#32

/-- Address of an element's word in the contribution area. -/
def addr (k i c : Nat) : Nat := wordAddr g.v base g.j (tileRow g.v k + i) (tileCol g.v k + c)

/-- What an element's word comes to: the element where the slice had not counted the tile, the sum elsewhere (R255). -/
def sum (k i c : Nat) : Word :=
  if tget 0 g.v.counts (g.key k) = 0 then g.elemWord k i c
  else f32Add (memWord (memByte g.start) (g.addr base k i c)) (g.elemWord k i c)

def sums (k i : Nat) : List Word := (List.range (32 * tileBlocks g.v k)).map (g.sum base k i)

/-- The words of a row's block b, as bytes. -/
def sumBytes (k i b : Nat) : List Byte := (((g.sums base k i).drop (32 * b)).take 32).flatMap bytesOfWord

/-- The words of the contributed rows are in memory, and all others are as they were. -/
def sumThere (rows : Nat → Nat → Prop) (m : Nat → Byte) (_ : Caravan) : Prop :=
  ∀ k i c, k < tileCount g.v → i < min 64 (g.v.rows - tileRow g.v k) → c < 32 * tileBlocks g.v k →
    (rows k i → memWord m (g.addr base k i c) = g.sum base k i c)
      ∧ (¬ rows k i → memWord m (g.addr base k i c) = memWord (memByte g.start) (g.addr base k i c))

theorem addr_add (k i c : Nat) : g.addr base k i c = g.addr base k i 0 + 4 * c := by
  unfold addr wordAddr
  omega

theorem sums_length (k i : Nat) : (g.sums base k i).length = 32 * tileBlocks g.v k := by simp [sums]

theorem sumBytes_length {k b : Nat} (i : Nat) (hb : b < tileBlocks g.v k) : (g.sumBytes base k i b).length = 128 := by
  rw [sumBytes, flatMap_bytesOfWord_length, List.length_take, List.length_drop, sums_length]
  omega

/-- The bytes of the word of column c within its block. -/
theorem sumBytes_word {k i c : Nat} (hc : c < 32 * tileBlocks g.v k) {x : Nat} (hx : x < 4) :
    (g.sumBytes base k i (c / 32)).getD (4 * (c % 32) + x) 0#8 = (bytesOfWord (g.sum base k i c)).getD x 0#8 := by
  have hlen := g.sums_length base k i
  have hq : c % 32 < (((g.sums base k i).drop (32 * (c / 32))).take 32).length := by
    rw [List.length_take, List.length_drop, hlen]
    omega
  rw [sumBytes, getD_flatMap_bytesOfWord _ _ hx hq, List.getD_eq_getElem _ _ hq, List.getElem_take, List.getElem_drop]
  simp only [sums, List.getElem_map, List.getElem_range, show 32 * (c / 32) + c % 32 = c by omega]

end GradWork

/-! ### One row -/

section
variable {g : GradWork} {keep : Nat → Prop} {base : Nat} {rows : Nat → Nat → Prop} {tiles : Nat → Prop} {s : State}
  (hj : g.j < g.v.slices.length)
include hj

/-- A row's words lie in the area, before its counts. -/
theorem row_in_area {k i : Nat} (hk : k < tileCount g.v) (hi : i < min 64 (g.v.rows - tileRow g.v k)) :
    base ≤ g.addr base k i 0
      ∧ g.addr base k i 0 + 128 * tileBlocks g.v k ≤ base + 4 * g.v.slices.length * g.v.rows * padCols g.v.cols
      ∧ g.addr base k i 0 + 128 * tileBlocks g.v k ≤ base + contribArea g.v := by
  have hle := wordAddr_le hj (base := base) (row := tileRow g.v k + i) (col := tileCol g.v k) (w := 32 * tileBlocks g.v k) (by omega)
    (tileCol_blocks hk)
  have hbase : base ≤ g.addr base k i 0 := Nat.le_add_right _ _
  have haddr : g.addr base k i 0 = wordAddr g.v base g.j (tileRow g.v k + i) (tileCol g.v k) := rfl
  have harea : base + 4 * g.v.slices.length * g.v.rows * padCols g.v.cols ≤ base + contribArea g.v := by
    unfold contribArea
    omega
  exact ⟨hbase, by omega, by omega⟩

variable (hcontrib : g.v.contrib = some base) (hexact : isExact g.v = false) (hstore : storable g.start base (contribArea g.v) = true)
include hcontrib hexact hstore

/-- A row whose tile the slice has not counted in this micro-batch stores its sums, block by block. -/
theorem contributeRow_sum {w : Caravan} (hw : CountedIn g tiles w) {k i : Nat} (hk : k < tileCount g.v) (hnew : ¬ tiles k)
    (hi : i < min 64 (g.v.rows - tileRow g.v k)) (hsteady : Steady g.start s)
    (hold : ∀ c, c < 32 * tileBlocks g.v k → memWord (memByte s) (g.addr base k i c) = memWord (memByte g.start) (g.addr base k i c))
    (home uid : Nat) (marks : Nat → Byte) : ∃ (poison : Nat → Bool) (dig : Nat → Marks) (u : State), Worked s u
      ∧ contributeRow home uid w g.j k i (g.vals k i) marks s
        = modCv (storeBlocks (g.addr base k i 0) 128 (g.sumBytes base k i) poison dig (tileBlocks g.v k) u) g.v.ctx g.v.n g.v.epoch
          (noteRow g.j k i (tileBlocks g.v k) marks) := by
  obtain ⟨hin, hguard⟩ := storable_iff.1 hstore
  obtain ⟨hlo, -, hhi⟩ := row_in_area hj (base := base) hk hi
  have hfirst : tget 0 w.counts (2 ^ 24 * g.j + k) = tget 0 g.v.counts (g.key k) := hw.uncounted k hnew
  obtain ⟨x, c, m, ro, rfl⟩ := hw.alike
  unfold contributeRow
  extract_lets nb width r0 c0 padded note
  rw [if_neg (show ¬ isExact _ = true from (show isExact _ = false from hexact) ▸ Bool.false_ne_true)]
  split
  · next hnone => exact absurd (hnone.symm.trans hcontrib) (by simp)
  next b hb =>
  obtain rfl : b = base := Option.some.inj (hb.symm.trans hcontrib)
  extract_lets addr word words s1 s2
  have haddr (n : Nat) : addr n = g.addr b k i n := congrArg (b + 4 * ·) (Nat.add_assoc _ (tileCol g.v k) n)
  have hline : padded = g.line k i := g.vals_padded k i
  have hwords : words = g.sums b k i := List.map_congr_left fun n hn => by
    have hn : n < 32 * tileBlocks g.v k := List.mem_range.1 hn
    have hread : readWord s (addr n) = memWord (memByte g.start) (g.addr b k i n) := by
      rw [haddr, readWord_eq_memWord (hsteady.rel ▸ (inStacks_iff.1 hin).2), hold n hn]
    have hget : padded.getD n none = g.elt k i n := by
      rw [hline, GradWork.line, List.getD_eq_getElem _ _ (by simpa using hn), List.getElem_map, List.getElem_range]
    have hword : word n = if (tget 0 c (g.key k) == 0) = true then g.elemWord k i n
        else f32Add (readWord s (addr n)) (g.elemWord k i n) := by
      rw [GradWork.elemWord, ← hget]
      rfl
    rw [hword, hread, show tget 0 c (g.key k) = tget 0 g.v.counts (g.key k) from hfirst, GradWork.sum]
    simp only [beq_iff_eq]
  have hzero : addr 0 = g.addr b k i 0 := haddr 0
  have hwidth : 4 * width = 128 * tileBlocks g.v k := by
    show 4 * (32 * tileBlocks g.v k) = _
    omega
  have hfree : guarded s (addr 0) (4 * width) = false := by
    rw [hzero, hwidth, hsteady.guarded]
    exact not_guarded_part hlo hhi hguard
  have hstack := (inStacks_iff.1 (inStacks_part hhi ((hsteady.inStacks _ _).trans hin))).1
  have hok : rangeOk s false (addr 0) (4 * width) = true := by
    rw [hzero, hwidth]
    exact rangeOk_stack false hstack
  rw [if_neg (by rw [hfree]; exact Bool.false_ne_true), if_neg (by rw [hok]; exact Bool.false_ne_true)]
  have hworked : Worked s s1 := by
    unfold s1
    split
    · exact ⟨.modCore_entries fun _ => rfl, rfl, rfl⟩
    · exact ⟨.refl s, rfl, rfl⟩
  refine ⟨fun b => zb8Bit (marks b) 3, fun b => ⟨zb8Bit (marks b) 2, false⟩, s1, hworked, congrArg (Machine.modCv · _ _ _ _) ?_⟩
  refine List.foldl_ext _ _ _ fun t n _ => ?_
  have hblock : addr (32 * n) = g.addr b k i 0 + 128 * n := by
    rw [haddr, g.addr_add]
    omega
  rw [hblock, hwords, GradWork.sumBytes]

omit hcontrib hexact in
/-- The words of a row's blocks, once stored. -/
theorem memWord_sumBlocks (hsteady : Steady g.start s) (hapart : aloof g.start base (contribArea g.v) base (contribArea g.v)) {k i c : Nat}
    (hk : k < tileCount g.v) (hi : i < min 64 (g.v.rows - tileRow g.v k)) (hc : c < 32 * tileBlocks g.v k) (poison : Nat → Bool)
    (dig : Nat → Marks) : memWord (memByte (storeBlocks (g.addr base k i 0) 128 (g.sumBytes base k i) poison dig (tileBlocks g.v k) s))
      (g.addr base k i c) = g.sum base k i c := by
  obtain ⟨hlo, -, hhi⟩ := row_in_area hj (base := base) hk hi
  have hin := (storable_iff.1 hstore).1
  rw [← wordOfBytes_bytesOfWord (g.sum base k i c), memWord]
  refine congrArg wordOfBytes (List.map_congr_left fun x hx => ?_)
  have hx := List.mem_range.1 hx
  have hat : g.addr base k i c + x = g.addr base k i 0 + 128 * (c / 32) + (4 * (c % 32) + x) := by
    rw [g.addr_add]
    omega
  rw [hat, memByte_storeBlocks_in hin hsteady (by decide) hapart hlo hhi (fun b hb => g.sumBytes_length base i hb) (by omega) (by omega),
    g.sumBytes_word base hc hx]

/-- A contributed row's sums are in memory, and those of the other rows stay. -/
theorem GradAt.sumRow (h : GradAt g keep (g.sumThere base) rows tiles s) (hname : Named g)
    (hapart : aloof g.start base (contribArea g.v) base (contribArea g.v))
    (hkeep : ∀ b, keep b → (b < base ∨ base + contribArea g.v ≤ b) ∧ ¬ sealedBy g.start base (contribArea g.v) b)
    {w : Caravan} (hw : CountedIn g tiles w) {k i : Nat} (hk : k < tileCount g.v) (hnew : ¬ tiles k)
    (hi : i < min 64 (g.v.rows - tileRow g.v k)) (hfresh : ¬ rows k i) (home uid : Nat) (marks : Nat → Byte) :
    GradAt g keep (g.sumThere base) (withRow rows k i) tiles (contributeRow home uid w g.j k i (g.vals k i) marks s) := by
  obtain ⟨_, -, -, hthere⟩ := h.caravan
  obtain ⟨poison, dig, u, hworked, heq⟩ := contributeRow_sum hj hcontrib hexact hstore hw hk hnew hi h.steady
    (fun c hc => (hthere k i c hk hi hc).2 hfresh) home uid marks
  obtain ⟨hlo, hbefore, hhi⟩ := row_in_area hj (base := base) hk hi
  have hin := (storable_iff.1 hstore).1
  have hu := h.worked hworked
  have hlen (b : Nat) (hb : b < tileBlocks g.v k) : (g.sumBytes base k i b).length = 128 := g.sumBytes_length base i hb
  have honly := storeBlocks_only (a := g.addr base k i 0) (poison := poison) (marks := dig) hin hu.steady (by decide) hhi hlen
  rw [heq]
  refine (hu.stored (.of_only (only_mono honly (by simp))) (honly .fabric (by decide)) (fun b hb => ?_) fun x hx => ?_).modCv
    (rows' := withRow rows k i) hname (fun _ _ _ _ => rfl) (fun x hx => ?_) fun _ _ hx => hx
  · obtain ⟨hout, hfree⟩ := hkeep b hb
    exact memByte_storeBlocks_out hin hu.steady (by decide) hlo hhi hlen (by omega) hfree
  · intro k' i' c hk' hi' hc
    obtain ⟨hsum, hkept⟩ := hx k' i' c hk' hi' hc
    by_cases he : k' = k ∧ i' = i
    · obtain ⟨rfl, rfl⟩ := he
      exact ⟨fun _ => memWord_sumBlocks hj hstore hu.steady hapart hk hi hc poison dig, fun hn => absurd (.inr ⟨rfl, rfl⟩) hn⟩
    · have hword : memWord (memByte (storeBlocks (g.addr base k i 0) 128 (g.sumBytes base k i) poison dig (tileBlocks g.v k) u))
          (g.addr base k' i' c) = memWord (memByte u) (g.addr base k' i' c) := memWord_congr fun x hx => by
        have hfar : g.addr base k' i' c + 4 ≤ g.addr base k i 0 ∨ g.addr base k i 0 + 4 * (32 * tileBlocks g.v k) ≤ g.addr base k' i' c :=
          wordAddr_apart hk' hk (show i' < 64 by omega) (show i < 64 by omega) hc he
        obtain ⟨hlo', -, hhi'⟩ := row_in_area hj (base := base) hk' hi'
        have hadd := g.addr_add base k' i' c
        refine memByte_storeBlocks_out hin hu.steady (by decide) hlo hhi hlen ?_ (not_sealedBy_of_aloof hapart (by omega) (by omega))
        omega
      rw [hword]
      exact ⟨fun hr => hsum (hr.resolve_right he), fun hr => hkept fun h => hr (.inl h)⟩
  · obtain ⟨⟨ex, c, m, ro, rfl⟩, hcounted, huncounted⟩ := hx
    exact ⟨⟨ex, c, _, _, rfl⟩, hcounted, huncounted⟩

omit hcontrib hexact in
/-- A count of the area leaves the words. -/
theorem sumThere_count (hapart : aloof g.start base (contribArea g.v) base (contribArea g.v)) (hsteady : Steady g.start s) {k n : Nat}
    (hk : k < tileCount g.v) {w : Caravan} (hthere : g.sumThere base rows (memByte s) w) :
    g.sumThere base rows (memByte (storeMarked s (countAddr g.v base g.j k) (leBytes 2 n) false {})) w := by
  intro k' i c hk' hi hc
  have hword : memWord (memByte (storeMarked s (countAddr g.v base g.j k) (leBytes 2 n) false {})) (g.addr base k' i c)
      = memWord (memByte s) (g.addr base k' i c) := memWord_congr fun x hx => by
    obtain ⟨hlo, hbefore, hhi⟩ := row_in_area hj (base := base) hk' hi
    have hadd := g.addr_add base k' i c
    have hlen : (leBytes 2 n).length = 2 := leBytes_length ..
    have hge := countAddr_ge (v := g.v) (j := g.j) base k
    have hle := countAddr_le (base := base) hj hk
    refine memByte_store_of_steady hsteady (storable_iff.1 hstore).1 (by rw [hlen]; decide) (by omega) (by rw [hlen]; exact hle)
      (.inl (by omega)) (not_sealedBy_of_aloof hapart (by omega) (by omega))
  rw [hword]
  exact hthere k' i c hk' hi hc

/-- Elsewhere rows add to the words of the contribution area. -/
theorem gradRules_sum (hlayer : layerRec g.start g.v.ctx g.v.layer.toNat = some g.r) (hruns : runs g.start g.l.uid = true)
    (hmask : ∀ b, g.maskByte b → keep b) (hname : Named g) (hapart : aloof g.start base (contribArea g.v) base (contribArea g.v))
    (hkeep : ∀ b, keep b → (b < base ∨ base + contribArea g.v ≤ b) ∧ ¬ sealedBy g.start base (contribArea g.v) b) :
    GradRules g keep (g.sumThere base) where
  layer := hlayer
  runs := hruns
  mask := hmask
  row marks h hw hk hnew hi hfresh := h.sumRow hj hcontrib hexact hstore hname hapart hkeep hw hk hnew
    (List.mem_range.1 (List.mem_filter.1 hi).1) hfresh _ _ marks
  count h hw hk hnew := h.count hname hw hk hnew hj
    (fun b hb => by
      obtain rfl : b = base := Option.some.inj (hb.symm.trans hcontrib)
      exact ⟨(storable_iff.1 hstore).1, hkeep⟩)
    (fun _ _ _ hx => hx) fun b u w n hb hu hx => by
      obtain rfl : b = base := Option.some.inj (hb.symm.trans hcontrib)
      exact sumThere_count hj hstore hapart hu hk hx

end

end Sys2Proof.Laws

/-! PROOFS. A micro-batch of WEIGHT_GRAD: its caravan starts, its operands are checked, its tiles contribute, and the micro-batch ends
(R171, R253 to R255). -/

namespace Sys2Proof.Laws
open Sys2Proof.Machine Sys2Proof.Safety

/-- The operands of a micro-batch: the gradients of its tokens, and their stashed inputs. -/
def gradReads (s : State) (l : LaunchS) (e : Prog) (r : Layer) (f : FwdForm) : List Range :=
  [(tokenAddr e.inAddr.toNat l f 0 (rowBytes (f.inN.toNat + 1) (lOut r)), f.tokens * rowBytes (f.inN.toNat + 1) (lOut r)),
    (stashAddr s l (lNum r) (batchOf l e) f, f.tokens * rowBytes (f.stashN.toNat + 1) (lIn r))]

/-- The engines that the unmasked tiles work on. -/
def gradEngines (s : State) (r : Layer) (v : Caravan) : List Nat :=
  (((List.range (tileCount v)).filter fun k => !tileMasked s v k).map (homeExec s r v)).dedup

/-- The groups of the operands that the check found bad. -/
def gradBad (s s1 : State) (l : LaunchS) (e : Prog) (r : Layer) (f : FwdForm) : List Range :=
  phaseBad s1 f.check (gradReads s l e r f) fun b g =>
    if b then tensorGroup (f.stashN.toNat + 1) (stashAddr s l (lNum r) (batchOf l e) f) (rowBlocks (lIn r)) g
    else tensorGroup (f.inN.toNat + 1) (tokenAddr e.inAddr.toNat l f 0 (rowBytes (f.inN.toNat + 1) (lOut r))) (rowBlocks (lOut r)) g

/-- The micro-batch at work on the operands as they are in s1; s is the state in which the entry came up. -/
def gradWork (s s1 : State) (l : LaunchS) (e : Prog) (r : Layer) (f : FwdForm) (v : Caravan) (j : Nat) : GradWork where
  start := s1
  l := l
  e := e
  r := r
  f := f
  o :=
    { dy := (List.range f.tokens).map fun t => readBlocks s1 (gradBad s s1 l e r f) (f.inN.toNat + 1)
        (tokenAddr e.inAddr.toNat l f 0 (rowBytes (f.inN.toNat + 1) (lOut r)) + t * rowBytes (f.inN.toNat + 1) (lOut r))
        (rowBlocks (lOut r))
      x := (List.range f.tokens).map fun t => readBlocks s1 (gradBad s s1 l e r f) (f.stashN.toNat + 1)
        (stashAddr s l (lNum r) (batchOf l e) f + t * rowBytes (f.stashN.toNat + 1) (lIn r)) (rowBlocks (lIn r))
      dyAt := tokenAddr e.inAddr.toNat l f 0 (rowBytes (f.inN.toNat + 1) (lOut r))
      xAt := stashAddr s l (lNum r) (batchOf l e) f
      marked := groupRanges s1 (·.marks.digital) (gradReads s l e r f)
      poison := rangesPoisoned s1 (gradReads s l e r f) }
  v := v
  j := j

namespace GradWork
variable (g : GradWork)

/-- The tiles of the micro-batch, one after the other. -/
def tilesDone (s : State) : State :=
  (List.range (tileCount g.v)).foldl (fun s k => match findCv s g.l.ctx (gradCaravan g.e) g.l.epoch with
    | some v => gradTile g.l g.e g.r g.f g.o v g.j k s
    | none => s) s

/-- The end of the micro-batch. -/
def finish (uid : Nat) (s : State) : State :=
  if g.o.poison then terminateCtx g.l.ctx (relErr 8 s)
  else if runs s uid then releaseBatch g.l (batchOf g.l g.e) (nextBatch uid g.e s) else s

end GradWork

section
variable {s : State} {uid : Nat} {f : FwdForm} {l : LaunchS} {e : Prog} {r : Layer} {v : Caravan} {j : Nat}

theorem weightGrad_none (hat : atEntry s uid 3 l e) (hmb : e.mbCount = 0#16) : exec (.weightGrad uid f) s = .next (nextEntry uid s) := by
  show Host.Outcome.next (gradPhase uid f s) = _
  rw [gradPhase, atPhase_of_atEntry hat]
  exact congrArg Host.Outcome.next (if_pos hmb)

variable (hat : atEntry s uid 3 l e) (hmb : e.mbCount ≠ 0#16) (hlayer : layerRec s l.ctx e.layer.toNat = some r)
  (happly : r.st.applying = false)
include hat hmb hlayer happly

theorem weightGrad_outranked (hrank : outranked s l e = true) : exec (.weightGrad uid f) s = .next s := by
  show Host.Outcome.next (gradPhase uid f s) = _
  rw [gradPhase, atPhase_of_atEntry hat]
  dsimp only
  rw [if_neg hmb, readyLayer_eq hlayer happly]
  exact congrArg Host.Outcome.next (if_pos hrank)

/-- A micro-batch whose caravan takes the launch's slice: it waits for its engines, then for the check of its operands, and runs. -/
theorem weightGrad_eq (hrank : outranked s l e = false)
    (hok : rangesOk s ((cvEntry s (gradCaravan e) l.epoch, 128) :: gradReads s l e r f) = true)
    (hfind : findCv (startCaravan l.ctx (gradCaravan e) l.epoch s) l.ctx (gradCaravan e) l.epoch = some v)
    (hslice : sliceOf v l.number = some j) (hstate : v.state ≠ 3#3) (hvl : v.layer = e.layer) :
    exec (.weightGrad uid f) s = .next (
      let s0 := startCaravan l.ctx (gradCaravan e) l.epoch s
      let x := consume l f.check (gradReads s l e r f) s0
      if enginesAwake s0 (gradEngines s0 r v) = false then askNotices (gradEngines s0 r v) s0
      else if x.1 = false then x.2
      else (gradWork s x.2 l e r f v j).finish uid ((gradWork s x.2 l e r f v j).tilesDone
        (enginesWork ((gradEngines s0 r v).map fun k => (k, { reserved := !(gradBad s x.2 l e r f).isEmpty })) x.2))) := by
  show Host.Outcome.next (gradPhase uid f s) = _
  rw [gradPhase, atPhase_of_atEntry hat]
  dsimp only
  rw [if_neg hmb, readyLayer_eq hlayer happly]
  dsimp only
  rw [if_neg (by rw [hrank]; exact Bool.false_ne_true)]
  refine congrArg Host.Outcome.next ((if_neg ?_).trans ?_)
  · show ¬ (!rangesOk s ((cvEntry s (gradCaravan e) l.epoch, 128) :: gradReads s l e r f)) = true
    rw [hok]
    exact Bool.false_ne_true
  rw [hfind]
  dsimp only
  rw [hslice]
  dsimp only
  rw [if_neg (by simp [hstate, hvl])]
  refine if_congr (by rw [Bool.not_eq_true', gradEngines]) rfl ?_
  exact if_congr (Bool.not_eq_true' _).to_iff rfl rfl

variable (hrank : outranked s l e = false)
  (hok : rangesOk s ((cvEntry s (gradCaravan e) l.epoch, 128) :: gradReads s l e r f) = true)
  (hfind : findCv (startCaravan l.ctx (gradCaravan e) l.epoch s) l.ctx (gradCaravan e) l.epoch = some v)
  (hslice : sliceOf v l.number = some j) (hstate : v.state ≠ 3#3) (hvl : v.layer = e.layer)
include hrank hok hfind hslice hstate hvl

theorem weightGrad_asleep (hasleep : enginesAwake (startCaravan l.ctx (gradCaravan e) l.epoch s)
      (gradEngines (startCaravan l.ctx (gradCaravan e) l.epoch s) r v) = false) :
    exec (.weightGrad uid f) s = .next (askNotices (gradEngines (startCaravan l.ctx (gradCaravan e) l.epoch s) r v)
      (startCaravan l.ctx (gradCaravan e) l.epoch s)) :=
  (weightGrad_eq hat hmb hlayer happly hrank hok hfind hslice hstate hvl).trans (congrArg Host.Outcome.next (if_pos hasleep))

variable (hawake : enginesAwake (startCaravan l.ctx (gradCaravan e) l.epoch s)
    (gradEngines (startCaravan l.ctx (gradCaravan e) l.epoch s) r v) = true)
include hawake

theorem weightGrad_faulted
    (hgo : (consume l f.check (gradReads s l e r f) (startCaravan l.ctx (gradCaravan e) l.epoch s)).1 = false) :
    exec (.weightGrad uid f) s
      = .next (consume l f.check (gradReads s l e r f) (startCaravan l.ctx (gradCaravan e) l.epoch s)).2 :=
  (weightGrad_eq hat hmb hlayer happly hrank hok hfind hslice hstate hvl).trans
    (congrArg Host.Outcome.next ((if_neg (by rw [hawake]; decide)).trans (if_pos hgo)))

theorem weightGrad_runs
    (hgo : (consume l f.check (gradReads s l e r f) (startCaravan l.ctx (gradCaravan e) l.epoch s)).1 = true) :
    ∃ ws, exec (.weightGrad uid f) s = .next (
      let s1 := (consume l f.check (gradReads s l e r f) (startCaravan l.ctx (gradCaravan e) l.epoch s)).2
      (gradWork s s1 l e r f v j).finish uid ((gradWork s s1 l e r f v j).tilesDone (enginesWork ws s1))) :=
  ⟨_, (weightGrad_eq hat hmb hlayer happly hrank hok hfind hslice hstate hvl).trans
    (congrArg Host.Outcome.next ((if_neg (by rw [hawake]; decide)).trans (if_neg (by rw [hgo]; decide))))⟩

end

/-! ### The end of a micro-batch -/

section
variable {s s0 s1 : State} {uid : Nat} {f : FwdForm} {l : LaunchS} {e : Prog} {r : Layer} {v : Caravan} {j : Nat}

theorem sliceOf_lt {number : BitVec 16} (h : sliceOf v number = some j) : j < v.slices.length :=
  List.mem_range.1 (List.mem_of_find?_eq_some h)

theorem GradAt.start {g : GradWork} {keep : Nat → Prop} {there : (Nat → Nat → Prop) → (Nat → Byte) → Caravan → Prop}
    (hfind : findCv g.start g.l.ctx (gradCaravan g.e) g.l.epoch = some g.v)
    (hthere : there (fun _ _ => False) (memByte g.start) g.v) :
    GradAt g keep there (fun _ _ => False) (fun _ => False) g.start :=
  ⟨.refl _, fun _ _ => rfl, g.v, hfind, ⟨.refl _, fun _ hk => hk.elim, fun _ _ => rfl⟩, hthere⟩

/-- The end of a micro-batch: the next one comes up, and its reservation goes with the last (R169, R171). -/
theorem batchEnd {t : State} (e : Prog) (h : findLaunch t uid = some l) :
    findLaunch (releaseBatch l (batchOf l e) (nextBatch uid e t)) uid = some (afterBatch l e)
      ∧ Only [.ctxs, .launches] t (releaseBatch l (batchOf l e) (nextBatch uid e t)) := by
  have hrelease := releaseBatch_only l (batchOf l e) (nextBatch uid e t)
  refine ⟨?_, only_trans (only_mono (nextBatch_only uid e t) (by simp)) (only_mono hrelease (by simp))⟩
  rw [findLaunch, hrelease .launches (by decide)]
  exact findLaunch_nextBatch e h

/-- What a micro-batch comes to, where its rows and tiles contribute by some rules. -/
theorem weightGrad_ends {keep : Nat → Prop} {there : (Nat → Nat → Prop) → (Nat → Byte) → Caravan → Prop}
    (hat : atEntry s uid 3 l e) (hprogram : KeepsProgram s s1) (hfind : findCv s1 l.ctx (gradCaravan e) l.epoch = some v)
    (hpoison : rangesPoisoned s1 (gradReads s l e r f) = false) (hrules : GradRules (gradWork s s1 l e r f v j) keep there)
    (hthere : there (fun _ _ => False) (memByte s1) v) (ws : List (Nat × EngWork)) :
    ∃ w, let g := gradWork s s1 l e r f v j
      let t := g.finish uid (g.tilesDone (enginesWork ws s1))
      findLaunch t uid = some (afterBatch l e) ∧ Only [.cores, .clusters, .ctxs, .launches, .fabric, .memory, .poison] s1 t
        ∧ (∀ b, keep b → memByte t b = memByte s1 b) ∧ findCv t l.ctx (gradCaravan e) l.epoch = some w
        ∧ CountedIn g (fun k => k < tileCount v ∧ tileMasked s1 v k = false) w
        ∧ there (fun k i => k < tileCount v ∧ tileMasked s1 v k = false ∧ i ∈ g.keptRows k) (memByte t) w := by
  obtain ⟨hlaunch, hrun, -, -⟩ := hat
  have hdone := (((GradAt.start (keep := keep) (g := gradWork s s1 l e r f v j) hfind hthere).worked
    (enginesWork_worked ws s1)).addTiles hrules List.nodup_range fun k hk => ⟨List.mem_range.1 hk, id, fun _ => id⟩).congr
      (rows' := fun k i => k < tileCount v ∧ tileMasked s1 v k = false ∧ i ∈ (gradWork s s1 l e r f v j).keptRows k)
      (tiles' := fun k => k < tileCount v ∧ tileMasked s1 v k = false)
      (fun k i => by rw [false_or, List.mem_range]; exact Iff.rfl) fun k => by rw [false_or, List.mem_range]; exact Iff.rfl
  obtain ⟨hsteady, hmem, w, hw, hcounted, hrows⟩ := hdone
  refine ⟨w, ?_⟩
  extract_lets g t
  have hl : findLaunch (g.tilesDone (enginesWork ws s1)) uid = some l :=
    (hsteady.findLaunch uid).trans ((hprogram.findLaunch uid).trans hlaunch)
  have ht : t = releaseBatch l (batchOf l e) (nextBatch uid e (g.tilesDone (enginesWork ws s1))) :=
    (if_neg (by rw [show g.o.poison = false from hpoison]; exact Bool.false_ne_true)).trans (if_pos (runs_of_findLaunch hl hrun))
  obtain ⟨hafter, honly⟩ := batchEnd e hl
  rw [← ht] at hafter honly
  have hbytes : memByte t = memByte (g.tilesDone (enginesWork ws s1)) := funext (honly .memory (by decide))
  have hfab : t.fab = (g.tilesDone (enginesWork ws s1)).fab := honly .fabric (by decide)
  exact ⟨hafter, only_trans (only_mono hsteady.only (by simp)) (only_mono honly (by simp)),
    fun b hb => by rw [hbytes]; exact hmem b hb, by rw [findCv, hfab]; exact hw, hcounted, by rw [hbytes]; exact hrows⟩

end

end Sys2Proof.Laws

/-! PROOFS. What a micro-batch of WEIGHT_GRAD leaves: the counts and the values of its kept rows, and all other bytes (R112, R253 to R255). -/

namespace Sys2Proof.Laws
open Sys2Proof.Machine Sys2Proof.Safety

/-- A byte that contributions leave: outside the contribution area, and in no check plane entry of its groups. -/
def gradKeep (s : State) (v : Caravan) (b : Nat) : Prop :=
  ∀ base, v.contrib = some base → (b < base ∨ base + contribArea v ≤ b) ∧ ¬ sealedBy s base (contribArea v) b

/-- The layer's masks lie apart from the contribution area and its entries. -/
def masksApart (s : State) (r : Layer) (v : Caravan) (base : Nat) : Prop :=
  ∀ m ∈ [(lRowMask r, (v.rows + 7) / 8), (lBlockMask r, (tileCount v + 7) / 8)],
    m.1 = noAddr ∨ (apart m.1 m.2 base (contribArea v) ∧ aloof s base (contribArea v) m.1 m.2)

/-- A micro-batch whose operands have been checked, and whose caravan takes the launch's slice. -/
structure Checked (s s1 : State) (uid : Nat) (l : LaunchS) (e : Prog) (r : Layer) (v : Caravan) (j : Nat) : Prop where
  entry : atEntry s uid 3 l e
  program : KeepsProgram s s1
  layer : layerRec s l.ctx e.layer.toNat = some r
  takes : v.layer = e.layer
  caravan : findCv s1 l.ctx (gradCaravan e) l.epoch = some v
  slice : j < v.slices.length

/-- The caravan holds the micro-batch's counts. -/
def CountsTiles (s1 : State) (v : Caravan) (j : Nat) (w : Caravan) : Prop :=
  w.state = v.state ∧ ∀ k, k < tileCount v → tget 0 w.counts (2 ^ 24 * j + k)
    = tget 0 v.counts (2 ^ 24 * j + k) + if tileMasked s1 v k then 0 else 1

section
variable {s s1 : State} {uid : Nat} {f : FwdForm} {l : LaunchS} {e : Prog} {r : Layer} {v : Caravan} {j : Nat}

theorem checked_of_consume (hat : atEntry s uid 3 l e) (hlayer : layerRec s l.ctx e.layer.toNat = some r) (hvl : v.layer = e.layer)
    (hfind : findCv (startCaravan l.ctx (gradCaravan e) l.epoch s) l.ctx (gradCaravan e) l.epoch = some v)
    (hslice : sliceOf v l.number = some j) {check : CheckSeen} {rs : List Range}
    (hgo : (consume l check rs (startCaravan l.ctx (gradCaravan e) l.epoch s)).1 = true) :
    Checked s (consume l check rs (startCaravan l.ctx (gradCaravan e) l.epoch s)).2 uid l e r v j where
  entry := hat
  program := (startCaravan_keepsProgram _ _ _ s).trans (.of_only (consume_goes_on hgo) (by decide) (by decide))
  layer := hlayer
  takes := hvl
  caravan := by
    rw [findCv, consume_goes_on hgo .fabric (by decide)]
    exact hfind
  slice := sliceOf_lt hslice

theorem maskByte_kept (h : ∀ base, v.contrib = some base → masksApart s1 r v base) (b : Nat)
    (hb : (gradWork s s1 l e r f v j).maskByte b) : gradKeep s1 v b := by
  intro base hcontrib
  obtain ⟨m, hm, hne, hlo, hhi⟩ := hb
  obtain ⟨hfar, haloof⟩ := (h base hcontrib m hm).resolve_left hne
  exact ⟨by omega, not_sealedBy_of_aloof haloof hlo hhi⟩

theorem CountedIn.countsTiles {w : Caravan}
    (h : CountedIn (gradWork s s1 l e r f v j) (fun k => k < tileCount v ∧ tileMasked s1 v k = false) w) : CountsTiles s1 v j w := by
  obtain ⟨halike, hcounted, huncounted⟩ := h
  refine ⟨?_, fun k hk => ?_⟩
  · obtain ⟨_, _, _, _, rfl⟩ := halike
    rfl
  · cases hm : tileMasked s1 v k with
    | true => exact huncounted k fun h => by simp [hm] at h
    | false => exact hcounted k ⟨hk, hm⟩

namespace Checked
variable (h : Checked s s1 uid l e r v j)
include h

theorem named : Named (gradWork s s1 l e r f v j) := List.find?_some h.caravan

theorem layerAt : layerRec s1 v.ctx v.layer.toNat = some r := by
  obtain ⟨hctx, -⟩ : v.ctx = l.ctx ∧ v.n = gradCaravan e ∧ v.epoch = l.epoch := by
    simpa [sameCv, and_assoc] using List.find?_some h.caravan
  rw [hctx, h.takes, h.program.layerRec]
  exact h.layer

theorem running : runs s1 l.uid = true := by
  obtain ⟨hlaunch, hrun, -⟩ := h.entry
  rw [findLaunch_uid hlaunch]
  exact runs_of_findLaunch ((h.program.findLaunch uid).trans hlaunch) hrun

/-- One slice of one micro-batch gives exact values in the caravan. -/
theorem exact_ends (hpoison : rangesPoisoned s1 (gradReads s l e r f) = false) (hexact : isExact v = true)
    (harea : ∀ base, v.contrib = some base → inStacks s1 base (contribArea v) = true ∧ masksApart s1 r v base)
    (ws : List (Nat × EngWork)) :
    ∃ w, let g := gradWork s s1 l e r f v j
      let t := g.finish uid (g.tilesDone (enginesWork ws s1))
      findLaunch t uid = some (afterBatch l e) ∧ Only [.cores, .clusters, .ctxs, .launches, .fabric, .memory, .poison] s1 t
        ∧ (∀ b, gradKeep s1 v b → memByte t b = memByte s1 b) ∧ findCv t l.ctx (gradCaravan e) l.epoch = some w
        ∧ CountsTiles s1 v j w
        ∧ ∀ k i, k < tileCount v → tileMasked s1 v k = false → i ∈ g.keptRows k →
            ∃ row, row ∈ tget [] w.exact k ∧ row.1 = i ∧ row.2 = g.line k i := by
  have hrules : GradRules (gradWork s s1 l e r f v j) (gradKeep s1 v) (exactThere (gradWork s s1 l e r f v j)) :=
    gradRules_exact h.layerAt h.running (maskByte_kept fun base hb => (harea base hb).2) h.named hexact h.slice
      fun base hb => ⟨(harea base hb).1, fun _ hkeep => hkeep base hb⟩
  obtain ⟨w, hafter, honly, hmem, hw, hcounted, hrows⟩ := weightGrad_ends h.entry h.program h.caravan hpoison hrules
    (fun _ _ hn => hn.elim) ws
  exact ⟨w, hafter, honly, hmem, hw, hcounted.countsTiles, fun k i hk hm hi => hrows k i ⟨hk, hm, hi⟩⟩

/-- Elsewhere the words of the contribution area hold the sums. -/
theorem sum_ends (hpoison : rangesPoisoned s1 (gradReads s l e r f) = false) {base : Nat} (hcontrib : v.contrib = some base)
    (hexact : isExact v = false) (hstore : storable s1 base (contribArea v) = true)
    (hapart : aloof s1 base (contribArea v) base (contribArea v)) (hmasks : masksApart s1 r v base) (ws : List (Nat × EngWork)) :
    ∃ w, let g := gradWork s s1 l e r f v j
      let t := g.finish uid (g.tilesDone (enginesWork ws s1))
      findLaunch t uid = some (afterBatch l e) ∧ Only [.cores, .clusters, .ctxs, .launches, .fabric, .memory, .poison] s1 t
        ∧ (∀ b, gradKeep s1 v b → memByte t b = memByte s1 b) ∧ findCv t l.ctx (gradCaravan e) l.epoch = some w
        ∧ CountsTiles s1 v j w
        ∧ ∀ k i c, k < tileCount v → tileMasked s1 v k = false → i ∈ g.keptRows k → c < 32 * tileBlocks v k →
            readWord t (g.addr base k i c) = g.sum base k i c := by
  have hkeep (b : Nat) (hb : gradKeep s1 v b) : (b < base ∨ base + contribArea v ≤ b) ∧ ¬ sealedBy s1 base (contribArea v) b :=
    hb base hcontrib
  have hrules : GradRules (gradWork s s1 l e r f v j) (gradKeep s1 v) ((gradWork s s1 l e r f v j).sumThere base) :=
    gradRules_sum h.slice hcontrib hexact hstore h.layerAt h.running (maskByte_kept fun b hb => by
      obtain rfl : b = base := Option.some.inj (hb.symm.trans hcontrib)
      exact hmasks) h.named hapart hkeep
  obtain ⟨w, hafter, honly, hmem, hw, hcounted, hrows⟩ := weightGrad_ends h.entry h.program h.caravan hpoison hrules
    (fun _ _ _ _ _ _ => ⟨fun hn => hn.elim, fun _ => rfl⟩) ws
  refine ⟨w, hafter, honly, hmem, hw, hcounted.countsTiles, fun k i c hk hm hi hc => ?_⟩
  have hbad := (inStacks_iff.1 (storable_iff.1 hstore).1).2
  have hrel := honly .rel (by decide)
  rw [readWord_eq_memWord (by rw [hrel]; exact hbad)]
  exact (hrows k i c hk (List.mem_range.1 (List.mem_filter.1 hi).1) hc).1 ⟨hk, hm, hi⟩

end Checked

end

end Sys2Proof.Laws

/-! PROOFS. An image of a layer, stored block by block: each row's bytes, and what stays (R110, R111, R137). -/

namespace Sys2Proof.Laws
open Sys2Proof.Machine Sys2Proof.Safety

/-! ### Reads of memory -/

theorem memGet_add (s : State) (a m n : Nat) : memGet s a (m + n) = memGet s a m ++ memGet s (a + m) n := by
  simp only [memGet, List.range_add, List.map_append, List.map_map, Function.comp_def, Nat.add_assoc]

/-- A range of blocks is read block by block. -/
theorem memGet_blocks {s : State} {a w n : Nat} {f : Nat → List Byte} (h : ∀ g, g < n → memGet s (a + w * g) w = f g) :
    memGet s a (w * n) = (List.range n).flatMap f := by
  induction n with
  | zero => rfl
  | succ n ih =>
    rw [Nat.mul_succ, memGet_add, h n (Nat.lt_succ_self n), ih fun g hg => h g (Nat.lt_succ_of_lt hg), List.range_succ,
      List.flatMap_append, List.flatMap_cons, List.flatMap_nil, List.append_nil]

/-- What is read where every byte is known. -/
theorem memGet_eq_of_bytes {s : State} {a : Nat} {bytes : List Byte} (hbad : s.rel.badStacks = 0#8)
    (h : ∀ i, i < bytes.length → memByte s (a + i) = bytes.getD i 0#8) : memGet s a bytes.length = bytes := by
  rw [memGet_of_none fun i _ => onDeadStack_of_none hbad _]
  refine List.ext_getElem (by simp) fun i hi hi' => ?_
  rw [List.getElem_map, List.getElem_range, h i hi', List.getD_eq_getElem _ _ hi']

theorem readNat_congr {s t : State} (hmem : memByte t = memByte s) (hsteady : Steady s t) (a n : Nat) : readNat t a n = readNat s a n := by
  simp only [readNat, memGet, hmem, hsteady.onDeadStack]

theorem zqBytes_length (n : Nat) (b : ZqBlock) : (zqBytes n b).length = zqBlockBytes n := by
  rw [zqBytes, List.length_cons, leBytes_length, zqBlockBytes]

/-! ### Work around the stores -/

namespace Worked
variable {s t u : State}

theorem refl (s : State) : Worked s s := ⟨.refl s, rfl, rfl⟩

theorem trans (hst : Worked s t) (htu : Worked t u) : Worked s u :=
  ⟨hst.steady.trans htu.steady, htu.mem.trans hst.mem, htu.fab.trans hst.fab⟩

theorem memByte (h : Worked s t) : memByte t = memByte s := funext fun b => by rw [Machine.memByte, h.mem, Machine.memByte]

theorem foldl {α : Type} {f : State → α → State} (hf : ∀ s x, Worked s (f s x)) (l : List α) (s : State) : Worked s (l.foldl f s) := by
  induction l generalizing s with
  | nil => exact refl s
  | cons x l ih => exact (hf s x).trans (ih (f s x))

end Worked

theorem noteIssue_worked (k uid : Nat) (s : State) : Worked s (noteIssue k uid s) := ⟨noteIssue_steady k uid s, rfl, rfl⟩

theorem account_worked (l : LaunchS) (k x : Nat) (st : TStat) (s : State) : Worked s (account l k x st s) := by
  refine ⟨account_steady l k x st s, ?_, ?_⟩
  all_goals
    unfold account
    split <;> rfl

/-- Steady work that leaves the caravans too. -/
theorem Steady.only_of_fab {s t : State} (h : Steady s t) (hfab : t.fab = s.fab) : Only [.cores, .clusters, .memory, .poison] s t := by
  intro p hp
  by_cases hfabric : p = .fabric
  · subst hfabric
    exact hfab
  · exact h.only p (by simp only [List.mem_cons, List.not_mem_nil, or_false] at hp ⊢; tauto)

/-! ### Blocks of an image -/

/-- Some blocks of an image of aligned blocks are in memory: all stayed steady, and the bytes outside the image are as they were. -/
structure ImageAt (s0 : State) (dst size w : Nat) (chunk : Nat → List Byte) (there : Nat → Prop) (s : State) : Prop where
  steady : Steady s0 s
  fab : s.fab = s0.fab
  outside : outside dst size s0 s
  block : ∀ q, there q → ∀ i, i < w → memByte s (dst + w * q + i) = (chunk q).getD i 0#8

section
variable {s0 s t : State} {dst size w : Nat} {chunk : Nat → List Byte} {there : Nat → Prop}

theorem ImageAt.worked (h : ImageAt s0 dst size w chunk there s) (hw : Worked s t) : ImageAt s0 dst size w chunk there t where
  steady := h.steady.trans hw.steady
  fab := hw.fab.trans h.fab
  outside b hb hfree := by rw [hw.memByte, h.outside b hb hfree]
  block q hq i hi := by rw [hw.memByte, h.block q hq i hi]

theorem ImageAt.congr {there' : Nat → Prop} (h : ImageAt s0 dst size w chunk there s) (ht : ∀ q, there' q → there q) :
    ImageAt s0 dst size w chunk there' s :=
  ⟨h.steady, h.fab, h.outside, fun q hq => h.block q (ht q hq)⟩

variable (hin : inStacks s0 dst size = true) (hapart : aloof s0 dst size dst size) (hw : 1 ≤ w)
include hin hapart hw

/-- One more block. -/
theorem ImageAt.store (h : ImageAt s0 dst size w chunk there s) {q : Nat} (hq : w * q + w ≤ size) (hlen : (chunk q).length = w)
    (hthere : ∀ q', there q' → w * q' + w ≤ size) (poison : Bool) (marks : Marks) :
    ImageAt s0 dst size w chunk (fun q' => there q' ∨ q' = q) (storeMarked s (dst + w * q) (chunk q) poison marks) := by
  have hblock : inStacks s (dst + w * q) (chunk q).length = true :=
    inStacks_part (by omega) ((h.steady.inStacks _ _).trans hin)
  have honly := storeMarked_stacks_only (poison := poison) (marks := marks) hblock (by omega)
  have hout {b : Nat} (hb : b < dst + w * q ∨ dst + w * q + w ≤ b) (hfree : ¬ sealedBy s0 dst size b) :
      memByte (storeMarked s (dst + w * q) (chunk q) poison marks) b = memByte s b :=
    memByte_store_of_steady h.steady hin (by omega) (by omega) (by omega) (by rw [hlen]; exact hb) hfree
  refine ⟨h.steady.trans (.of_only (only_mono honly (by simp))), (honly .fabric (by decide)).trans h.fab, fun b hb hfree => ?_,
    fun q' hq' i hi => ?_⟩
  · rw [hout (by omega) hfree, h.outside b hb hfree]
  · by_cases he : q' = q
    · rw [he]
      exact memByte_storeMarked_in hblock (by omega) (by omega)
    · have hold := hq'.resolve_right he
      have hfar : w * q' + w ≤ w * q ∨ w * q + w ≤ w * q' := by
        simp only [← Nat.mul_succ]
        obtain hlt | hlt := Nat.lt_or_gt_of_ne he
        · exact .inl (Nat.mul_le_mul_left w hlt)
        · exact .inr (Nat.mul_le_mul_left w hlt)
      have hend := hthere q' hold
      rw [hout (by omega) (not_sealedBy_of_aloof hapart (by omega) (by omega)), h.block q' hold i hi]

/-- Image blocks that are stored one after the other, each at a place of the image. -/
theorem ImageAt.storeImages (l : LaunchS) (x n : Nat) (hchunk : ∀ q, (chunk q).length = w) {L : List (Nat × ImageBlock)}
    {place : Nat × ImageBlock → Nat} (hL : ∀ b ∈ L, w * place b + w ≤ size ∧ b.2.addr = dst + w * place b
      ∧ zqBytes n (encodeBlock n none false b.2.vals).1 = chunk (place b))
    (hthere : ∀ q, there q → w * q + w ≤ size) (h : ImageAt s0 dst size w chunk there s) :
    ImageAt s0 dst size w chunk (fun q => there q ∨ ∃ b ∈ L, place b = q)
      (L.foldl (fun s b => storeImage l b.1 x n false false [b.2] s) s) := by
  induction L generalizing there s with
  | nil => exact h.congr (by simp)
  | cons b L ih =>
    obtain ⟨⟨hend, haddr, hbytes⟩, hrest⟩ := List.forall_mem_cons.1 hL
    have hstore := h.store hin hapart hw hend (hchunk _) hthere false
      (b.2.marks.join ⟨false, (encodeBlock n none false b.2.vals).2.satGroup⟩)
    rw [← hbytes, ← haddr] at hstore
    refine (ih hrest (fun q hq => ?_) (hstore.worked (account_worked l b.1 x (encodeBlock n none false b.2.vals).2 _))).congr
      fun q hq => ?_
    · obtain hq | rfl := hq
      exacts [hthere q hq, hend]
    · simp only [List.mem_cons, exists_eq_or_imp] at hq
      obtain hq | rfl | hq := hq
      exacts [.inl (.inl hq), .inl (.inr rfl), .inr hq]

end

end Sys2Proof.Laws

/-! PROOFS. The check of an operand that lets the work go on: no unit falls out of service, and the check planes stay (R274, R287). -/

namespace Sys2Proof.Laws
open Sys2Proof.Machine Sys2Proof.Safety

/-- Marks of poison and counts of detections may differ, the units and stacks in service do not. -/
def Noted (s t : State) : Prop :=
  ∃ (poison : List Nat) (rel : RelU), t = { s with poison := poison, rel := rel } ∧ rel.coreFence = s.rel.coreFence
    ∧ rel.badStacks = s.rel.badStacks

theorem spoil_eq (check : CheckSeen) (rs : List Range) (s : State) : ∃ poison, spoil check rs s = { s with poison := poison } := by
  unfold spoil
  split
  · split
    · exact ⟨_, rfl⟩
    · exact ⟨s.poison, rfl⟩
  · exact ⟨s.poison, rfl⟩

theorem consume_noted {l : LaunchS} {check : CheckSeen} {rs : List Range} {s : State} (h : (consume l check rs s).1 = true) :
    Noted s (consume l check rs s).2 := by
  obtain ⟨poison, hspoil⟩ := spoil_eq check rs s
  unfold consume checkFor at h ⊢
  rw [hspoil] at h ⊢
  cases hc : checkRanges { s with poison := poison } check rs with
  | clean =>
    simp only [hc]
    exact ⟨poison, s.rel, rfl, rfl, rfl⟩
  | path =>
    simp only [hc]
    exact ⟨poison, _, rfl, rfl, rfl⟩
  | rest => simp [hc] at h

section
variable {s t : State} (h : Noted s t)
include h

theorem Noted.inStacks (a n : Nat) : inStacks t a n = inStacks s a n := by
  obtain ⟨p, x, rfl, -, hbad⟩ := h
  rw [Safety.inStacks, Safety.inStacks, hbad]
  rfl

theorem Noted.groupsMet (a n : Nat) : groupsMet t a n = groupsMet s a n := by
  obtain ⟨p, x, rfl, hfence, hbad⟩ := h
  have hcore (k : Nat) : coreFenced { s with poison := p, rel := x } k = coreFenced s k := by
    rw [coreFenced, coreFenced, hfence]
    rfl
  have haccess (a : Nat) : accessible { s with poison := p, rel := x } false a = accessible s false a := by
    simp only [accessible, arrFenced, hcore]
    rfl
  have hdead (a : Nat) : onDeadStack { s with poison := p, rel := x } a = onDeadStack s a := by
    rw [onDeadStack, onDeadStack, hbad]
    rfl
  have hlive : entryLive { s with poison := p, rel := x } = entryLive s := funext fun g => by
    simp only [entryLive, rangeOk, haccess, hdead]
  rw [Machine.groupsMet, hlive]
  rfl

end

end Sys2Proof.Laws

/-! PROOFS. BUILD_FWD and BUILD_T: the image of a layer from its committed master (R110, R111, R171). -/

namespace Sys2Proof.Laws
open Sys2Proof.Machine Sys2Proof.Safety

/-! ### The image -/

section
variable (r : Layer) (transposed : Bool)

/-- Lines of an image, elements of a line, and the image's place. -/
def imageLines : Nat := if transposed then lIn r else lOut r

def imageWidth : Nat := if transposed then lOut r else lIn r

def imageBase : Nat := if transposed then lT r else lFwd r

def imageGroups : Nat := rowBlocks (imageWidth r transposed)

def imageSize : Nat := imageLines r transposed * rowBytes (lDWidth r) (imageWidth r transposed)

/-- An element of the image. -/
def imageValue (s : State) (bad : List Range) (i k : Nat) : Pv :=
  let a := if transposed then masterAt r k i else masterAt r i k
  if anyMeets bad a 2 then { v := .nan, invalid := true }
  else { v := f32ToFv (bf16ToF32 (BitVec.ofNat 16 (readNat s a 2))) }

def imageVals (s : State) (bad : List Range) (i g : Nat) : List Pv :=
  (List.range (min 32 (imageWidth r transposed - 32 * g))).map fun y => imageValue r transposed s bad i (32 * g + y)

/-- Block g of line i, as it is stored. -/
def imageBytes (s : State) (bad : List Range) (i g : Nat) : List Byte :=
  zqBytes (lDWidth r) (encodeBlock (lDWidth r) none false (imageVals r transposed s bad i g)).1

/-- The blocks in the order of their addresses. -/
def imageChunk (s : State) (bad : List Range) (q : Nat) : List Byte :=
  imageBytes r transposed s bad (q / imageGroups r transposed) (q % imageGroups r transposed)

/-- The place of a block of the image. -/
def imagePlace (b : Nat × ImageBlock) : Nat := (b.2.addr - imageBase r transposed) / zqBlockBytes (lDWidth r)

end

section
variable {r : Layer} {transposed : Bool} {s : State} {bad : List Range}

/-- A block of the image holds the values of its place. -/
theorem layerImage_block {b : Nat × ImageBlock} (h : b ∈ layerImage s r bad transposed) : ∃ x g, x < imageLines r transposed
    ∧ g < imageGroups r transposed
    ∧ b.2.addr = imageBase r transposed + x * rowBytes (lDWidth r) (imageWidth r transposed) + g * zqBlockBytes (lDWidth r)
    ∧ b.2.vals = imageVals r transposed s bad x g := by
  obtain ⟨x, hx, hb⟩ := List.mem_flatMap.1 h
  obtain ⟨g, hg, rfl⟩ := List.mem_map.1 hb
  refine ⟨x, g, by cases transposed <;> exact List.mem_range.1 hx, by cases transposed <;> exact List.mem_range.1 hg, ?_, ?_⟩
  · cases transposed <;> rfl
  · refine (List.map_map ..).trans ?_
    cases transposed <;> rfl

/-- Every place of the image has its block. -/
theorem exists_layerImage_block (s : State) (bad : List Range) {x g : Nat} (hx : x < imageLines r transposed)
    (hg : g < imageGroups r transposed) : ∃ b ∈ layerImage s r bad transposed,
      b.2.addr = imageBase r transposed + x * rowBytes (lDWidth r) (imageWidth r transposed) + g * zqBlockBytes (lDWidth r) := by
  refine ⟨_, List.mem_flatMap.2 ⟨x, ?_, List.mem_map.2 ⟨g, ?_, rfl⟩⟩, ?_⟩
  · cases transposed <;> exact List.mem_range.2 hx
  · cases transposed <;> exact List.mem_range.2 hg
  · cases transposed <;> rfl

theorem image_addr (x g : Nat) : imageBase r transposed + x * rowBytes (lDWidth r) (imageWidth r transposed) + g * zqBlockBytes (lDWidth r)
    = imageBase r transposed + zqBlockBytes (lDWidth r) * (x * imageGroups r transposed + g) := by
  rw [rowBytes, imageGroups, rowBlocks]
  ring

theorem imagePlace_eq {b : Nat × ImageBlock} {x g : Nat}
    (h : b.2.addr = imageBase r transposed + x * rowBytes (lDWidth r) (imageWidth r transposed) + g * zqBlockBytes (lDWidth r)) :
    imagePlace r transposed b = x * imageGroups r transposed + g := by
  rw [imagePlace, h, image_addr, Nat.add_sub_cancel_left]
  exact Nat.mul_div_cancel_left _ (Nat.succ_pos _)

/-- A block's place lies in the image. -/
theorem image_block_end {x g : Nat} (hx : x < imageLines r transposed) (hg : g < imageGroups r transposed) :
    zqBlockBytes (lDWidth r) * (x * imageGroups r transposed + g) + zqBlockBytes (lDWidth r) ≤ imageSize r transposed := by
  have hplace : x * imageGroups r transposed + g + 1 ≤ imageLines r transposed * imageGroups r transposed :=
    calc x * imageGroups r transposed + g + 1 ≤ (x + 1) * imageGroups r transposed := by rw [Nat.succ_mul]; omega
      _ ≤ imageLines r transposed * imageGroups r transposed := Nat.mul_le_mul_right _ hx
  have hsize : imageSize r transposed = zqBlockBytes (lDWidth r) * (imageLines r transposed * imageGroups r transposed) := by
    rw [imageSize, rowBytes, imageGroups, rowBlocks]
    ring
  rw [hsize, ← Nat.mul_succ]
  exact Nat.mul_le_mul_left _ hplace

theorem imageChunk_at (s : State) (bad : List Range) (x : Nat) {g : Nat} (hg : g < imageGroups r transposed) :
    imageChunk r transposed s bad (x * imageGroups r transposed + g) = imageBytes r transposed s bad x g := by
  rw [imageChunk, Nat.mul_comm x, Nat.mul_add_div (by omega), Nat.div_eq_of_lt hg, Nat.add_zero, Nat.mul_add_mod, Nat.mod_eq_of_lt hg]

theorem imageVals_congr {t : State} (hmem : memByte t = memByte s) (hsteady : Steady s t) (bad : List Range) (x g : Nat) :
    imageVals r transposed t bad x g = imageVals r transposed s bad x g := by
  simp only [imageVals, imageValue, readNat_congr hmem hsteady]

/-- The image, once its blocks are stored: each line holds its blocks. -/
theorem image_stored {s1 u : State} (hin : inStacks s1 (imageBase r transposed) (imageSize r transposed) = true)
    (hapart : aloof s1 (imageBase r transposed) (imageSize r transposed) (imageBase r transposed) (imageSize r transposed))
    (hu : Worked s1 u) (l : LaunchS) (x : Nat) (bad : List Range) :
    let t := (layerImage u r bad transposed).foldl (fun s b => storeImage l b.1 x (lDWidth r) false false [b.2] s) u
    Only [.cores, .clusters, .memory, .poison] s1 t ∧ outside (imageBase r transposed) (imageSize r transposed) s1 t
      ∧ ∀ i, i < imageLines r transposed → memGet t (imageBase r transposed + i * rowBytes (lDWidth r) (imageWidth r transposed))
        (rowBytes (lDWidth r) (imageWidth r transposed))
          = (List.range (imageGroups r transposed)).flatMap (imageBytes r transposed s1 bad i) := by
  intro t
  have hlen (q : Nat) : (imageChunk r transposed s1 bad q).length = zqBlockBytes (lDWidth r) := zqBytes_length _ _
  have hstart : ImageAt s1 (imageBase r transposed) (imageSize r transposed) (zqBlockBytes (lDWidth r))
      (imageChunk r transposed s1 bad) (fun _ => False) s1 := ⟨.refl s1, rfl, fun _ _ _ => rfl, fun _ hq => hq.elim⟩
  have hstored := (hstart.worked hu).storeImages hin hapart (show 1 ≤ zqBlockBytes (lDWidth r) from Nat.succ_pos _) l x (lDWidth r) hlen
    (L := layerImage u r bad transposed) (place := imagePlace r transposed) (fun b hb => by
      obtain ⟨i, g, hi, hg, haddr, hvals⟩ := layerImage_block hb
      rw [imagePlace_eq haddr, imageChunk_at s1 bad i hg, haddr, image_addr, hvals, imageVals_congr hu.memByte hu.steady]
      exact ⟨image_block_end hi hg, rfl, rfl⟩) fun _ hq => hq.elim
  obtain ⟨hsteady, hfab, hout, hblock⟩ := hstored
  refine ⟨hsteady.only_of_fab hfab, hout, fun i hi => ?_⟩
  have hbad : t.rel.badStacks = 0#8 := by
    rw [show t.rel = s1.rel from hsteady.rel]
    exact (inStacks_iff.1 hin).2
  rw [show rowBytes (lDWidth r) (imageWidth r transposed) = zqBlockBytes (lDWidth r) * imageGroups r transposed from Nat.mul_comm ..]
  refine memGet_blocks fun g hg => ?_
  obtain ⟨b, hb, haddr⟩ := exists_layerImage_block u bad hi hg
  rw [← imageChunk_at s1 bad i hg, ← hlen (i * imageGroups r transposed + g)]
  refine memGet_eq_of_bytes hbad fun y hy => ?_
  rw [hlen] at hy ⊢
  have hat := hblock _ (.inr ⟨b, hb, imagePlace_eq haddr⟩) y hy
  rw [← hat]
  congr 1
  ring

end

end Sys2Proof.Laws

/-! PROOFS. BUILD_FWD and BUILD_T step by step (R110, R111, R171). -/

namespace Sys2Proof.Laws
open Sys2Proof.Machine Sys2Proof.Safety

/-- The instruction of an image build, and its phase. -/
def buildInstr (transposed : Bool) (uid : Nat) (check : CheckSeen) : Instr :=
  if transposed then .buildT uid check else .buildFwd uid check

/-- The epoch that a layer's image was built from. -/
def imageEpoch (r : Layer) (transposed : Bool) : Option Word := if transposed then r.st.tEpoch else r.st.fwdEpoch

/-- A layer whose image is built from an epoch. -/
def builtFrom (transposed : Bool) (epoch : Word) (st : LayerSt) : LayerSt :=
  if transposed then { st with tEpoch := some epoch } else { st with fwdEpoch := some epoch }

/-- The values of the committed master. -/
def master (r : Layer) : Range := (lState r + 64, 2 * lOut r * colsPad r)

def buildEngines (s : State) (r : Layer) : List Nat := ((lArrays r).map (coreFor s)).dedup

/-- The groups of the master that the check found bad: one for each 1,024 values of a row. -/
def masterBad (s1 : State) (check : CheckSeen) (r : Layer) : List Range :=
  phaseBad s1 check [master r] fun _ g =>
    let per := max 1 ((colsPad r + 1023) / 1024)
    (masterAt r (g / per) (1024 * (g % per)), 2 * min 1024 (colsPad r - 1024 * (g % per)))

theorem exec_buildInstr (transposed : Bool) (uid : Nat) (check : CheckSeen) (s : State) : exec (buildInstr transposed uid check) s
    = .next (buildPhase uid (if transposed then 6 else 5) transposed check s) := by
  cases transposed <;> rfl

theorem layerRec_modLayer (s : State) (c : BitVec 4) (n : Nat) (f : LayerSt → LayerSt) :
    layerRec (modLayer s c n f) c n = (layerRec s c n).map fun r => { r with st := f r.st } := by
  have hkey : ((fun e : Nat × Layer => e.1 == n) ∘ fun e => if e.1 = n then (e.1, { e.2 with st := f e.2.st }) else e)
      = fun e => e.1 == n := funext fun e => by
    simp only [Function.comp_apply]
    split <;> rfl
  rw [layerRec, modLayer, ctxU_modCtx_same, layerRec]
  dsimp only
  rw [List.find?_map, hkey]
  cases h : (ctxU s c).layers.find? fun e => e.1 == n with
  | none => rfl
  | some e =>
    have hn : e.1 = n := by simpa using List.find?_some h
    simp only [Option.map_some, hn, if_true]

section
variable {s : State} {uid : Nat} {l : LaunchS} {e : Prog} {r : Layer} {transposed : Bool} {check : CheckSeen}
  (hat : atEntry s uid (if transposed then 6 else 5) l e) (hlayer : layerRec s l.ctx e.layer.toNat = some r)
  (happly : r.st.applying = false)
include hat hlayer happly

theorem build_current (hnow : imageEpoch r transposed = some (ctxU s l.ctx).epoch) :
    exec (buildInstr transposed uid check) s = .next (nextEntry uid s) := by
  rw [exec_buildInstr, buildPhase, atPhase_of_atEntry hat]
  dsimp only
  rw [readyLayer_eq hlayer happly]
  exact congrArg _ (if_pos hnow)

variable (hnow : imageEpoch r transposed ≠ some (ctxU s l.ctx).epoch)
include hnow

theorem build_outranked (hrank : outranked s l e = true) : exec (buildInstr transposed uid check) s = .next s := by
  rw [exec_buildInstr, buildPhase, atPhase_of_atEntry hat]
  dsimp only
  rw [readyLayer_eq hlayer happly]
  exact congrArg _ ((if_neg hnow).trans (if_pos hrank))

variable (hrank : outranked s l e = false)
include hrank

theorem build_asleep (hasleep : enginesAwake s (buildEngines s r) = false) :
    exec (buildInstr transposed uid check) s = .next (askNotices (buildEngines s r) s) := by
  rw [exec_buildInstr, buildPhase, atPhase_of_atEntry hat]
  dsimp only
  rw [readyLayer_eq hlayer happly]
  exact congrArg _ ((if_neg hnow).trans ((if_neg (by simp [hrank])).trans (if_pos (Bool.not_eq_true' _ ▸ hasleep))))

/-- A build whose place may be written and whose engines are awake waits for the check of the master, and runs. -/
theorem build_awake (hawake : enginesAwake s (buildEngines s r) = true)
    (hfree : guarded s (imageBase r transposed) (imageSize r transposed) = false)
    (howner : ∀ k, k ∈ buildEngines s r → mayWrite (entryOf s k e.tOut.toNat) l = true)
    (hok : rangesOk s [master r, (imageBase r transposed, imageSize r transposed)] = true) :
    ∃ ws, exec (buildInstr transposed uid check) s = .next (
      let x := consume l check [master r] s
      if x.1 = false then x.2
      else
        let u := (buildEngines s r).foldl (fun s k => noteIssue k uid s) (enginesWork ws x.2)
        let t := (layerImage u r (masterBad x.2 check r) transposed).foldl (fun s b =>
          storeImage l b.1 e.tOut.toNat (lDWidth r) false (rangesPoisoned x.2 [master r]) [b.2] s) u
        if rangesPoisoned x.2 [master r] = true then terminateCtx l.ctx (relErr 8 t)
        else nextEntry uid (modLayer t l.ctx (lNum r) (builtFrom transposed (ctxU s l.ctx).epoch))) := by
  have hfind : (buildEngines s r).find? (fun k => !mayWrite (entryOf s k e.tOut.toNat) l) = none :=
    List.find?_eq_none.2 fun k hk => by simp [howner k hk]
  have hsize : (if transposed then lIn r * rowBytes (lDWidth r) (lOut r) else lOut r * rowBytes (lDWidth r) (lIn r))
      = imageSize r transposed := by
    cases transposed <;> rfl
  refine ⟨(buildEngines s r).map fun k => (k,
    { poison := rangesPoisoned (consume l check [master r] s).2 [master r]
      reserved := !(masterBad (consume l check [master r] s).2 check r).isEmpty }), ?_⟩
  rw [exec_buildInstr, buildPhase, atPhase_of_atEntry hat]
  dsimp only
  rw [readyLayer_eq hlayer happly]
  refine congrArg _ ((if_neg hnow).trans ((if_neg (by simp [hrank])).trans ((if_neg ?_).trans ((if_neg ?_).trans ?_))))
  · rw [Bool.not_eq_true', Bool.not_eq_false]
    exact hawake
  · rw [hsize]
    exact Bool.not_eq_true _ ▸ hfree
  rw [show (((lArrays r).map (coreFor s)).dedup.find? fun k => !mayWrite (entryOf s k e.tOut.toNat) l) = none from hfind, hsize]
  refine (if_neg ?_).trans (if_congr (Bool.not_eq_true' _).to_iff rfl rfl)
  rw [Bool.not_eq_true', Bool.not_eq_false]
  exact hok

variable (hawake : enginesAwake s (buildEngines s r) = true)
  (hstore : storable s (imageBase r transposed) (imageSize r transposed) = true)
  (howner : ∀ k, k ∈ buildEngines s r → mayWrite (entryOf s k e.tOut.toNat) l = true)
  (hok : rangesOk s [master r, (imageBase r transposed, imageSize r transposed)] = true)
include hawake hstore howner hok

theorem build_faulted (hgo : (consume l check [master r] s).1 = false) :
    exec (buildInstr transposed uid check) s = .next (consume l check [master r] s).2 := by
  obtain ⟨ws, hrun⟩ := build_awake hat hlayer happly hnow hrank hawake (storable_iff.1 hstore).2 howner hok
  exact hrun.trans (congrArg _ (if_pos hgo))

/-- A build whose master is sound writes the image, and its layer is marked with the epoch. -/
theorem build_ends (hnum : lNum r = e.layer.toNat) (hgo : (consume l check [master r] s).1 = true)
    (hpoison : rangesPoisoned (consume l check [master r] s).2 [master r] = false)
    (hapart : aloof s (imageBase r transposed) (imageSize r transposed) (imageBase r transposed) (imageSize r transposed)) :
    let s1 := (consume l check [master r] s).2
    ∃ t, exec (buildInstr transposed uid check) s = .next t ∧ findLaunch t uid = some (afterEntry l)
      ∧ layerRec t l.ctx (lNum r) = some { r with st := builtFrom transposed (ctxU s l.ctx).epoch r.st }
      ∧ (∀ i, i < imageLines r transposed → memGet t (imageBase r transposed + i * rowBytes (lDWidth r) (imageWidth r transposed))
          (rowBytes (lDWidth r) (imageWidth r transposed))
          = (List.range (imageGroups r transposed)).flatMap (imageBytes r transposed s1 (masterBad s1 check r) i))
      ∧ outside (imageBase r transposed) (imageSize r transposed) s1 t
      ∧ Only [.cores, .clusters, .ctxs, .launches, .memory, .poison] s1 t := by
  intro s1
  obtain ⟨ws, hrun⟩ := build_awake hat hlayer happly hnow hrank hawake (storable_iff.1 hstore).2 howner hok
  obtain ⟨hlaunch, -⟩ := id hat
  have hnoted : Noted s s1 := consume_noted hgo
  have hprogram : KeepsProgram s s1 := .of_only (consume_goes_on hgo) (by decide) (by decide)
  have hwork : Worked s1 ((buildEngines s r).foldl (fun s k => noteIssue k uid s) (enginesWork ws s1)) :=
    (enginesWork_worked ws s1).trans (.foldl (fun s k => noteIssue_worked k uid s) _ _)
  obtain ⟨honly, hout, hlines⟩ := image_stored ((hnoted.inStacks _ _).trans (storable_iff.1 hstore).1)
    (fun g hg => hapart g (hnoted.groupsMet _ _ ▸ hg)) hwork l e.tOut.toNat (masterBad s1 check r)
  generalize hstored : List.foldl _ _ (layerImage _ _ _ _) = u at honly hout hlines
  have heq : exec (buildInstr transposed uid check) s
      = .next (nextEntry uid (modLayer u l.ctx (lNum r) (builtFrom transposed (ctxU s l.ctx).epoch))) := by
    refine hrun.trans (congrArg _ ((if_neg (by rw [hgo]; decide)).trans ((if_neg (by rw [hpoison]; decide)).trans ?_)))
    rw [hpoison, ← hstored]
  have hu : KeepsProgram s u := hprogram.trans (.of_only honly (by decide) (by decide))
  have hlast : Only [.launches, .ctxs] u (nextEntry uid (modLayer u l.ctx (lNum r) (builtFrom transposed (ctxU s l.ctx).epoch))) :=
    only_of_withParts rfl
  refine ⟨_, heq, findLaunch_nextEntry ((hu.findLaunch uid).trans hlaunch), ?_, fun i hi => ?_, fun b hb hfree => ?_,
    only_trans (only_mono honly (by simp)) (only_mono hlast (by simp))⟩
  · show layerRec (modLayer u l.ctx (lNum r) _) l.ctx (lNum r) = _
    rw [layerRec_modLayer, hu.layerRec, hnum, hlayer]
    rfl
  · rw [← hlines i hi]
    rfl
  · exact hout b hb hfree

end

end Sys2Proof.Laws

/-! PROOFS. WEIGHT_GRAD and the image builds, as the entry of a launch (R109 to R112, R171, R253 to R255). -/

namespace Sys2Proof.Laws
open Sys2Proof.Machine Sys2Proof.Safety

/-- Settles O49: a contribution area's words and a caravan's exact values follow tile by tile, an image's lines block by block. -/
theorem gradientAndImageRowsComplete : Obligations.GradientAndImageRowsComplete := by
  intro s uid f l e r hlayer happly hnum
  refine ⟨fun hat hmb => ?_, fun hat hmb hrank => weightGrad_outranked hat hmb hlayer happly hrank, ?_, ?_⟩
  · obtain ⟨hlaunch, -⟩ := id hat
    exact ⟨nextEntry uid s, weightGrad_none hat hmb, findLaunch_nextEntry hlaunch, nextEntry_only uid s⟩
  · intro v j hat hmb hrank n sn db xb src stash reads s0 s1 engines bad dy x r0 c0 kept elt area maskApart counted hok hfind hslice
      hstate hvl
    refine ⟨weightGrad_asleep hat hmb hlayer happly hrank hok hfind hslice hstate hvl,
      weightGrad_faulted hat hmb hlayer happly hrank hok hfind hslice hstate hvl, fun hawake hgo hpoison => ?_⟩
    have hchecked : Checked s s1 uid l e r v j := checked_of_consume hat hlayer hvl hfind hslice hgo
    obtain ⟨ws, hrun⟩ := weightGrad_runs hat hmb hlayer happly hrank hok hfind hslice hstate hvl hawake hgo
    have hkept {k i : Nat} (h : kept k i) : i ∈ (gradWork s s1 l e r f v j).keptRows k := by
      obtain ⟨-, -, hi, hbit⟩ := h
      exact List.mem_filter.2 ⟨List.mem_range.2 hi, hbit⟩
    refine ⟨fun hexact harea => ?_, fun base hcontrib hexact hstore hapart hmasks => ?_⟩
    · obtain ⟨w, hafter, honly, hmem, hw, hcounts, hrows⟩ := hchecked.exact_ends (f := f) hpoison hexact harea ws
      refine ⟨_, w, hrun, hafter, ⟨w, hw, hcounts⟩, hw, fun k i hki => hrows k i hki.1 hki.2.1 (hkept hki), fun hnone b => hmem b ?_,
        fun base hbase b hout hfree => hmem b ?_, honly⟩
      · intro base hbase
        exact absurd (hnone.symm.trans hbase) (by simp)
      · intro base' hbase'
        obtain rfl : base' = base := Option.some.inj (hbase'.symm.trans hbase)
        exact ⟨hout, hfree⟩
    · obtain ⟨w, hafter, honly, hmem, hw, hcounts, hrows⟩ := hchecked.sum_ends (f := f) hpoison hcontrib hexact hstore hapart hmasks ws
      refine ⟨_, hrun, hafter, ⟨w, hw, hcounts⟩, fun k i c hki hc => ?_, fun b hout hfree => hmem b ?_, honly⟩
      · intro a y
        have ha : a = (gradWork s s1 l e r f v j).addr base k i c := by
          show base + 4 * ((j * v.rows + r0 k + i) * padCols v.cols + c0 k + c)
            = base + 4 * ((j * v.rows + (r0 k + i)) * padCols v.cols + (c0 k + c))
          rw [Nat.add_assoc (j * v.rows), Nat.add_assoc _ (c0 k)]
        have hread : readWord s1 a = memWord (memByte s1) a :=
          readWord_eq_memWord (inStacks_iff.1 (storable_iff.1 hstore).1).2 a
        rw [hread, ha]
        exact hrows k i c hki.1 hki.2.1 (hkept hki) hc
      · intro base' hbase'
        obtain rfl : base' = base := Option.some.inj (hbase'.symm.trans hcontrib)
        exact ⟨hout, hfree⟩
  · intro transposed check hat c epoch now rows cols rb dst master engines s1 bad value
    have hinstr : c = buildInstr transposed uid check := by cases transposed <;> rfl
    rw [hinstr]
    refine ⟨fun hnow => ?_, fun hnow hrank => build_outranked hat hlayer happly hnow hrank,
      fun hnow hrank hasleep => build_asleep hat hlayer happly hnow hrank hasleep, fun hnow hrank hawake hstore howner hok =>
      ⟨fun hgo => build_faulted hat hlayer happly hnow hrank hawake hstore howner hok hgo, fun hgo hpoison hapart => ?_⟩⟩
    · obtain ⟨hlaunch, -⟩ := id hat
      exact ⟨nextEntry uid s, build_current hat hlayer happly hnow, findLaunch_nextEntry hlaunch, nextEntry_only uid s⟩
    · obtain ⟨t, hrun, hafter, hrec, hlines, hout, honly⟩ :=
        build_ends hat hlayer happly hnow hrank hawake hstore howner hok hnum hgo hpoison hapart
      refine ⟨t, hrun, hafter, ?_, hlines, hout, honly⟩
      rw [hrec]
      rfl

end Sys2Proof.Laws

/-! PROOFS. Work of a launch that folds outputs: besides what stays steady, each entry's format, each core's tables and the launch's right to
write its entries (R124, R137, R156). -/

namespace Sys2Proof.Laws
open Sys2Proof.Machine Sys2Proof.Safety

/-- From s to t the work of a launch has gone on: every entry encodes as before, every table is as it was, and the launch may still write
each entry that it might write. -/
structure Folds (l : LaunchS) (s t : State) : Prop where
  steady : Steady s t
  fab : t.fab = s.fab
  format : ∀ k x epoch n, tensorExp (entryOf t k x) epoch n = tensorExp (entryOf s k x) epoch n
  tables : ∀ k, (Machine.core t k).tables = (Machine.core s k).tables
  owner : ∀ k x, mayWrite (entryOf s k x) l = true → mayWrite (entryOf t k x) l = true

/-- Such work that leaves memory alone. -/
structure Computes (l : LaunchS) (s t : State) : Prop where
  folds : Folds l s t
  mem : t.mem = s.mem

/-! ### An entry that is written -/

/-- An entry's tensor exponent is that of its configuration, its fixed values and its history (R137, R141). -/
theorem tensorExp_congr {e f : Entry} (hcfg : f.tcfg = e.tcfg) (hfix : f.tfix = e.tfix) (hhist : f.thist = e.thist) (epoch n : Nat) :
    tensorExp f epoch n = tensorExp e epoch n := by
  simp only [tensorExp, histMax, eFix, hcfg, hfix, hhist]

/-- A write through an entry changes its counts and its owner alone. -/
theorem addStat_claim_eq (st : TStat) (l : LaunchS) (e : Entry) : ∃ blocks zero sat dig inexact winlow invalid nonfin amax town ctx,
    addStat st (claim l e) = { e with blocks := blocks, zero := zero, sat := sat, dig := dig, inexact := inexact, winlow := winlow
                                      invalid := invalid, nonfin := nonfin, amax := amax, town := town, ownCtx := ctx } := by
  unfold claim
  split <;> exact ⟨_, _, _, _, _, _, _, _, _, _, _, rfl⟩

theorem tensorExp_addStat_claim (st : TStat) (l : LaunchS) (e : Entry) (epoch n : Nat) :
    tensorExp (addStat st (claim l e)) epoch n = tensorExp e epoch n := by
  obtain ⟨_, _, _, _, _, _, _, _, _, _, _, h⟩ := addStat_claim_eq st l e
  rw [h]
  exact tensorExp_congr rfl rfl rfl epoch n

/-- Pending counts leave an entry's owner (Table 5-8). -/
theorem owns_addStat (l : LaunchS) (st : TStat) (e : Entry) : owns l (addStat st e) = owns l e := by
  have htown : (addStat st e).town
      = putBit (putBit e.town 30 (bit e.town 30 || st.ovf)) 29 (bit e.town 29 || st.hmiss) := rfl
  have hctx : (addStat st e).ownCtx = e.ownCtx := by cases e; rfl
  have hne {i j : Nat} (b : Bool) (w : Word) (h : j ≠ i) : bit (putBit w i b) j = bit w j := bit_putBit_ne w b h
  have hlow {i : Nat} (b : Bool) (w : Word) (h : 15 < i) : fld (putBit w i b) 15 0 = fld w 15 0 := fld_putBit_ne w b (.inl h)
  rw [owns, owns, htown, hctx, hne _ _ (by decide), hne _ _ (by decide), hlow _ _ (by decide), hlow _ _ (by decide)]

/-- An entry that no launch owns becomes the launch's (R156). -/
theorem owns_claim {l : LaunchS} {e : Entry} (hkind : isInterval l = false) (hfree : bit e.town 31 = false) :
    owns l (claim l e) = true := by
  have hnumber : l.number.toNat < 2 ^ 16 := l.number.isLt
  have hkind' : (l.kind != 4#4) = true := by simpa [isInterval] using hkind
  have hbit : bit (setFld (setBit e.town 31) 15 0 l.number.toNat) 31 = true := by
    rw [bit_setFld_ne _ _ (by decide), bit_setBit _ (by decide)]
  have hfld : fld (setFld (setBit e.town 31) 15 0 l.number.toNat) 15 0 = l.number.toNat := by
    rw [fld_setFld_same _ _ (by decide) (by decide)]
    exact Nat.mod_eq_of_lt hnumber
  simp [claim, hkind, hfree, owns, hkind', hbit, hfld]

/-- A launch that may write an entry may still write it once it has (R156). -/
theorem mayWrite_addStat_claim {l : LaunchS} {e : Entry} (st : TStat) (h : mayWrite e l = true) :
    mayWrite (addStat st (claim l e)) l = true := by
  cases hkind : isInterval l with
  | true => simp [mayWrite, hkind]
  | false =>
    have howns : owns l (claim l e) = true := by
      cases hfree : bit e.town 31 with
      | false => exact owns_claim hkind hfree
      | true =>
        have hsame : claim l e = e := by simp [claim, hfree]
        simpa [hsame, mayWrite, hkind, hfree] using h
    simp [mayWrite, owns_addStat, howns]

/-! ### Steps of the work -/

namespace Computes
variable {l : LaunchS} {s t u : State}

theorem refl (l : LaunchS) (s : State) : Computes l s s :=
  ⟨⟨.refl s, rfl, fun _ _ _ _ => rfl, fun _ => rfl, fun _ _ h => h⟩, rfl⟩

end Computes

namespace Folds
variable {l : LaunchS} {s t u : State}

theorem trans (hst : Folds l s t) (htu : Folds l t u) : Folds l s u where
  steady := hst.steady.trans htu.steady
  fab := htu.fab.trans hst.fab
  format k x epoch n := (htu.format k x epoch n).trans (hst.format k x epoch n)
  tables k := (htu.tables k).trans (hst.tables k)
  owner k x h := htu.owner k x (hst.owner k x h)

/-- A change outside the cores. -/
theorem of_cores (h : Steady s t) (hfab : t.fab = s.fab) (hcores : t.cores = s.cores) : Folds l s t where
  steady := h
  fab := hfab
  format k x epoch n := by rw [entryOf, Machine.core, hcores, entryOf, Machine.core]
  tables k := by rw [Machine.core, hcores, Machine.core]
  owner k x := by
    rw [entryOf, Machine.core, entryOf, Machine.core, hcores]
    exact id

/-- A change of memory alone. -/
theorem of_only (h : Only [.memory, .poison] s t) : Folds l s t :=
  of_cores (.of_only (only_mono h (by simp))) (h .fabric (by decide)) (h .cores (by decide))

end Folds

namespace Computes
variable {l : LaunchS} {s t u : State}

theorem trans (hst : Computes l s t) (htu : Computes l t u) : Computes l s u :=
  ⟨hst.folds.trans htu.folds, htu.mem.trans hst.mem⟩

theorem ite {c : Prop} [Decidable c] (ht : Computes l s t) (hu : Computes l s u) : Computes l s (if c then t else u) := by
  split
  · exact ht
  · exact hu

theorem foldl {α : Type} {f : State → α → State} (hf : ∀ s x, Computes l s (f s x)) (L : List α) (s : State) :
    Computes l s (L.foldl f s) := by
  induction L generalizing s with
  | nil => exact refl l s
  | cons x L ih => exact (hf s x).trans (ih (f s x))

theorem memByte (h : Computes l s t) : memByte t = memByte s := funext fun b => by rw [Machine.memByte, h.mem, Machine.memByte]

/-- Work on a core that leaves its entries and tables. -/
theorem modCore {k : Nat} {f : CoreU → CoreU} (he : ∀ c, (f c).entries = c.entries) (ht : ∀ c, (f c).tables = c.tables) :
    Computes l s (Machine.modCore s k f) := by
  have hcore (j : Nat) : (Machine.core (Machine.modCore s k f) j).entries = (Machine.core s j).entries
      ∧ (Machine.core (Machine.modCore s k f) j).tables = (Machine.core s j).tables := by
    by_cases hj : j = k
    · subst hj
      rw [core_modCore_same]
      exact ⟨he _, ht _⟩
    · rw [core_modCore_ne hj]
      exact ⟨rfl, rfl⟩
  have hentry (j x : Nat) : entryOf (Machine.modCore s k f) j x = entryOf s j x := by rw [entryOf, (hcore j).1, entryOf]
  exact ⟨⟨.modCore_entries he, rfl, fun j x _ _ => by rw [hentry], fun j => (hcore j).2, fun j x h => by rw [hentry]; exact h⟩, rfl⟩

end Computes

theorem noteIssue_computes (l : LaunchS) (k uid : Nat) (s : State) : Computes l s (noteIssue k uid s) :=
  ⟨.of_cores (noteIssue_steady k uid s) rfl rfl, rfl⟩

theorem engineWork_computes (l : LaunchS) (k : Nat) (w : EngWork) (s : State) : Computes l s (engineWork k w s) :=
  .modCore (fun _ => rfl) fun _ => rfl

theorem enginesWork_computes (l : LaunchS) (ws : List (Nat × EngWork)) (s : State) : Computes l s (enginesWork ws s) :=
  Computes.foldl (f := fun s (w : Nat × EngWork) => engineWork w.1 w.2 s) (fun s w => engineWork_computes l w.1 w.2 s) ws s

theorem noteTable_computes (l : LaunchS) (k : Nat) (m : TabMark) (s : State) : Computes l s (noteTable k m s) := by
  have htails : Computes l s (if m.tail then countTails k 1 s else s) := .ite (.modCore (fun _ => rfl) fun _ => rfl) (.refl l s)
  exact .ite (htails.trans (.modCore (fun _ => rfl) fun _ => rfl)) htails

/-- A write through an entry counts there, and leaves the launch its owner (R156, R157). -/
theorem account_computes (l : LaunchS) (k x : Nat) (st : TStat) (s : State) : Computes l s (account l k x st s) := by
  have hworked := account_worked l k x st s
  cases hkind : isInterval l with
  | true =>
    have hsame : account l k x st s = s := by simp [account, hkind]
    rw [hsame]
    exact .refl l s
  | false =>
    have heq : account l k x st s = modEntry s k x fun e => addStat st (claim l e) := by simp [account, hkind]
    have hentry (j y : Nat) : entryOf (account l k x st s) j y
        = if j = k ∧ y = x then addStat st (claim l (entryOf s k x)) else entryOf s j y := by
      rw [heq]
      by_cases hj : j = k
      · subst hj
        by_cases hy : y = x
        · subst hy
          rw [if_pos ⟨rfl, rfl⟩, entryOf, modEntry, core_modCore_same, tget_tmod_same, entryOf]
        · rw [if_neg fun h => hy h.2, entryOf, modEntry, core_modCore_same, tget_tmod_ne _ _ _ _ _ hy, entryOf]
      · rw [if_neg fun h => hj h.1, entryOf, modEntry, core_modCore_ne hj, entryOf]
    refine ⟨⟨hworked.steady, hworked.fab, fun j y epoch n => ?_, fun j => ?_, fun j y h => ?_⟩, hworked.mem⟩
    · rw [hentry]
      split
      · next h =>
        obtain ⟨rfl, rfl⟩ := h
        exact tensorExp_addStat_claim ..
      · rfl
    · rw [heq, modEntry]
      by_cases hj : j = k
      · subst hj
        rw [core_modCore_same]
      · rw [core_modCore_ne hj]
    · rw [hentry]
      split
      · next hat =>
        obtain ⟨rfl, rfl⟩ := hat
        exact mayWrite_addStat_claim st h
      · exact h

end Sys2Proof.Laws

/-! PROOFS. Operands read again while results are stored: where their bytes stay, blocks, factors and outputs come to the same (R111, R149,
R153, R170). -/

namespace Sys2Proof.Laws
open Sys2Proof.Machine Sys2Proof.Safety

/-- The bytes of a range read the same in both states. -/
def SameBytes (s t : State) (y : Range) : Prop := ∀ b, y.1 ≤ b → b < y.1 + y.2 → memByte t b = memByte s b

theorem SameBytes.part {s t : State} {y : Range} (h : SameBytes s t y) {a n : Nat} (hlo : y.1 ≤ a) (hhi : a + n ≤ y.1 + y.2) :
    SameBytes s t (a, n) := fun b hb hb' => h b (le_trans hlo hb) (lt_of_lt_of_le hb' hhi)

/-- Rows of a tensor lie one after the other. -/
theorem row_le {i rows w : Nat} (hi : i < rows) : i * w + w ≤ rows * w := by
  rw [← Nat.succ_mul]
  exact Nat.mul_le_mul_right w hi

theorem SameBytes.row {s t : State} {a rows w : Nat} (h : SameBytes s t (a, rows * w)) {i : Nat} (hi : i < rows) :
    SameBytes s t (a + i * w, w) :=
  h.part (Nat.le_add_right _ _) (by
    have := row_le (w := w) hi
    dsimp only
    omega)

section
variable {l : LaunchS} {s t : State}

theorem memGet_same (h : Steady s t) {a n : Nat} (hb : SameBytes s t (a, n)) : memGet t a n = memGet s a n := by
  refine List.map_congr_left fun i hi => ?_
  have hi : i < n := List.mem_range.1 hi
  rw [h.onDeadStack, hb (a + i) (Nat.le_add_right _ _) (Nat.add_lt_add_left hi a)]

theorem readBlocks_same (h : Steady s t) (bad : List Range) {n a count : Nat} (hb : SameBytes s t (a, count * zqBlockBytes n)) :
    readBlocks t bad n a count = readBlocks s bad n a count := by
  refine List.map_congr_left fun i hi => ?_
  rw [memGet_same h (hb.row (List.mem_range.1 hi))]

/-- A row of elements whose bytes stay. -/
theorem readRow_same (h : Steady s t) (bad : List Range) {n a elements : Nat} (hb : SameBytes s t (a, rowBytes n elements)) :
    readBlocks t bad n a (rowBlocks elements) = readBlocks s bad n a (rowBlocks elements) := readBlocks_same h bad hb

/-- A row of an image whose bytes stay. -/
theorem imageBlocks_same (h : Steady s t) (bad : List Range) {base n elements rows row : Nat}
    (hb : SameBytes s t (base, rows * rowBytes n elements)) (hrow : row < rows) :
    imageBlocks t bad base n elements row = imageBlocks s bad base n elements row :=
  readRow_same h bad (hb.row hrow)

theorem coreFor_steady (h : Steady s t) : coreFor t = coreFor s := funext fun a => by
  simp only [coreFor, h.coreFenced, h.rel]

theorem tableValue_congr {c d : CoreU} (h : d.tables = c.tables) (slot : Nat) (x : Word) : tableValue d slot x = tableValue c slot x := by
  have hslot : slotWord d = slotWord c := funext fun i => funext fun o => by rw [slotWord, h, slotWord]
  unfold tableValue
  rw [hslot]

namespace Folds
variable (h : Folds l s t)
include h

theorem throughTable (k : Nat) (slot : Option (BitVec 2)) (v : Pv) : throughTable t k slot v = throughTable s k slot v := by
  cases slot with
  | none => rfl
  | some x => simp only [Machine.throughTable, tableValue_congr (h.tables k)]

theorem outputBase (m : LaunchS) (entry : Nat) (coreAt : Nat → Nat) (o : Nat) :
    outputBase t m entry coreAt o = outputBase s m entry coreAt o := by
  rw [Machine.outputBase, h.steady.window, h.steady.fmtEpoch, Machine.outputBase]

/-- The bytes that values come to through an entry (R137). -/
theorem writeThrough_bytes (k x epoch : Nat) (dst : VFmt) (dig : Bool) (vs : List Pv) :
    (writeThrough (entryOf t k x) epoch dst dig vs).1 = (writeThrough (entryOf s k x) epoch dst dig vs).1 := by
  simp only [writeThrough, h.format]

/-- z = V·x, where V's bytes stay (R153). -/
theorem factorZ {r : Layer} (bad : List Range) (m : LaunchS) (entry n : Nat) (x : List ZqBlock)
    (hb : SameBytes s t (lV r, lRank r * rowBytes 8 (lIn r))) : factorZ t bad m r entry n x = factorZ s bad m r entry n x := by
  have hrows : ((List.range (lRank r)).map fun i => imageBlocks t bad (lV r) 8 (lIn r) i)
      = (List.range (lRank r)).map fun i => imageBlocks s bad (lV r) 8 (lIn r) i :=
    List.map_congr_left fun i hi => imageBlocks_same h.steady bad hb (List.mem_range.1 hi)
  have hcore : zCore t r = zCore s r := congrFun (coreFor_steady h.steady) _
  simp only [Machine.factorZ, hrows, hcore, h.steady.window, h.steady.fmtEpoch, h.format]

end Folds

/-- Without a digital term no output is folded from the image (R170). -/
theorem termDigital_false {r : Layer} {m : LaunchS} (h : anyDigital m = false) (t a : Nat) : termDigital r m.gather t a = false := by
  have hnone : ∀ g ∈ m.gather, g.digital = false := by simpa [anyDigital] using h
  have hterm : (m.gather.any fun g => g.array == a && g.token == t && g.digital) = false :=
    List.any_eq_false.2 fun g hg => by simp [hnone g hg]
  have hslice : sliceDigital r m.gather t (coreOfArray a) = false := by
    rw [sliceDigital, List.any_eq_false.2 fun g hg => by simp [hnone g hg], Bool.and_false]
  rw [termDigital, hterm, hslice]
  rfl

/-- One output of a token, where the image of digital terms and the factors stay (R149). -/
theorem forwardOutput_same {r : Layer} (h : Steady s t) (bad : List Range) (m : LaunchS) (f : FwdForm) (base : Int) (k : Nat) {o : Nat}
    (x z : List ZqBlock) (ho : o < lOut r)
    (himage : anyDigital m = true → SameBytes s t (lFwd r, lOut r * rowBytes (lDWidth r) (lIn r)))
    (hfactor : lRank r ≠ 0 → SameBytes s t (lU r, lOut r * rowBytes 8 (lRank r))) :
    forwardOutput t bad m r f base k o x z = forwardOutput s bad m r f base k o x z := by
  have hu : lRank r ≠ 0 → imageBlocks t bad (lU r) 8 (lRank r) o = imageBlocks s bad (lU r) 8 (lRank r) o :=
    fun hr => imageBlocks_same h bad (hfactor hr) ho
  have hw : anyDigital m = true → imageBlocks t bad (lFwd r) (lDWidth r) (lIn r) o = imageBlocks s bad (lFwd r) (lDWidth r) (lIn r) o :=
    fun hd => imageBlocks_same h bad (himage hd) ho
  unfold forwardOutput
  cases hd : anyDigital m with
  | true =>
    rw [hw hd]
    by_cases hr : lRank r = 0
    · simp only [hr, decide_true, Bool.true_or, if_true]
    · rw [hu hr]
  | false =>
    simp only [termDigital_false hd, Bool.false_eq_true, if_false]
    by_cases hr : lRank r = 0
    · simp only [hr, decide_true, Bool.true_or, if_true]
    · rw [hu hr]

end

end Sys2Proof.Laws

/-! PROOFS. A row of values by groups of 32: the groups, and the bytes that they come to in each format (R129, R148, R411). -/

namespace Sys2Proof.Laws
open Sys2Proof.Machine Sys2Proof.Safety

/-! ### Pieces of a list -/

theorem chunksFuel_getD {α : Type} {k : Nat} (hk : 0 < k) {fuel : Nat} {L : List α} (hL : L.length ≤ fuel) (g : Nat) :
    (chunksFuel k fuel L).getD g [] = (L.drop (k * g)).take k := by
  induction fuel generalizing L g with
  | zero =>
    obtain rfl : L = [] := List.eq_nil_of_length_eq_zero (Nat.le_zero.1 hL)
    simp [chunksFuel]
  | succ fuel ih =>
    cases L with
    | nil => simp [chunksFuel]
    | cons x L =>
      have hlen : ((x :: L).drop k).length ≤ fuel := by
        rw [List.length_drop]
        omega
      rw [chunksFuel, if_neg (by simp)]
      cases g with
      | zero => simp
      | succ g => rw [List.getD_cons_succ, ih hlen, List.drop_drop, Nat.mul_succ, Nat.add_comm]

theorem chunksFuel_length {α : Type} {k : Nat} (hk : 0 < k) {fuel : Nat} {L : List α} (hL : L.length ≤ fuel) :
    (chunksFuel k fuel L).length = (L.length + (k - 1)) / k := by
  induction fuel generalizing L with
  | zero =>
    obtain rfl : L = [] := List.eq_nil_of_length_eq_zero (Nat.le_zero.1 hL)
    simp [chunksFuel, Nat.div_eq_of_lt (Nat.sub_lt hk Nat.one_pos)]
  | succ fuel ih =>
    cases L with
    | nil => simp [chunksFuel, Nat.div_eq_of_lt (Nat.sub_lt hk Nat.one_pos)]
    | cons x L =>
      have hcons : (x :: L).length = L.length + 1 := rfl
      have hdrop : ((x :: L).drop k).length = L.length + 1 - k := by simp
      rw [chunksFuel, if_neg (by simp), List.length_cons, ih (by omega), hdrop, List.length_cons, ← Nat.add_div_right _ hk]
      by_cases hle : k ≤ L.length + 1
      · congr 1
        omega
      · rw [show L.length + 1 - k + (k - 1) + k = k + (k - 1) by omega, Nat.add_div_left _ hk,
          Nat.div_eq_of_lt (show k - 1 < k by omega), Nat.div_eq_of_lt_le (k := 1) (by omega) (by omega)]

/-- Piece g of a list holds its items from place k · g on. -/
theorem chunks_getD {α : Type} {k : Nat} (hk : 0 < k) (L : List α) (g : Nat) : (chunks k L).getD g [] = (L.drop (k * g)).take k :=
  chunksFuel_getD hk le_rfl g

theorem chunks_length {α : Type} {k : Nat} (hk : 0 < k) (L : List α) : (chunks k L).length = (L.length + (k - 1)) / k :=
  chunksFuel_length hk le_rfl

/-! ### Bytes of a row -/

theorem flatMap_length_of_all {α β : Type} {w : Nat} {F : α → List β} (hF : ∀ x, (F x).length = w) (L : List α) :
    (L.flatMap F).length = L.length * w := by
  simp [List.length_flatMap, hF]

/-- A row's bytes in its format (R129, R148). -/
theorem encodeRow_length (f : FwdForm) (x : Option Nat) (dig : Bool) (vs : List Pv) :
    (encodeRow f.out x dig vs).1.length = outBytesOf f vs.length := by
  unfold encodeRow outBytesOf
  cases f.out with
  | fp32 =>
    refine (flatMap_length_of_all bytesOfWord_length _).trans ?_
    rw [encodeF32, List.length_map, Nat.mul_comm]
  | bf16 =>
    refine (flatMap_length_of_all (fun w : BitVec 16 => leBytes_length 2 w.toNat) _).trans ?_
    rw [encodeBf16, List.length_map, Nat.mul_comm]
  | zq nm1 =>
    refine (flatMap_length_of_all (fun b : ZqBlock × TStat => zqBytes_length (nm1.toNat + 1) b.1) _).trans ?_
    rw [List.length_map, chunks_length (by decide)]
    rfl

theorem writeThrough_length (e : Entry) (epoch : Nat) (f : FwdForm) (dig : Bool) (vs : List Pv) :
    (writeThrough e epoch f.out dig vs).1.length = outBytesOf f vs.length := encodeRow_length f _ dig vs

/-- Whole groups of 32 take the bytes of a group each. -/
theorem outBytesOf_add (f : FwdForm) (n m : Nat) : outBytesOf f (32 * n + m) = n * outBytesOf f 32 + outBytesOf f m := by
  unfold outBytesOf
  cases f.out with
  | fp32 => dsimp only; omega
  | bf16 => dsimp only; omega
  | zq nm1 =>
    have hblocks : (32 * n + m + 31) / 32 = n + (m + 31) / 32 := by omega
    simp only [rowBytes, hblocks]
    ring

theorem outBytesOf_zero (f : FwdForm) : outBytesOf f 0 = 0 := by
  unfold outBytesOf
  cases f.out with
  | fp32 => rfl
  | bf16 => rfl
  | zq nm1 => exact Nat.zero_mul _

theorem outBytesOf_mono (f : FwdForm) {n m : Nat} (h : n ≤ m) : outBytesOf f n ≤ outBytesOf f m := by
  unfold outBytesOf
  cases f.out with
  | fp32 => exact Nat.mul_le_mul_left 4 h
  | bf16 => exact Nat.mul_le_mul_left 2 h
  | zq nm1 => exact Nat.mul_le_mul_right _ (Nat.div_le_div_right (Nat.add_le_add_right h 31))

/-! ### Groups of a row -/

/-- Group g of a row of values, and its bytes through the entry of its core (R411). -/
def rowGroup (vals : List (Pv × Bool)) (g : Nat) : List (Pv × Bool) := (chunks 32 vals).getD g []

def rowPiece (s : State) (l : LaunchS) (entry : Nat) (f : FwdForm) (coreAt : Nat → Nat) (vals : List (Pv × Bool)) (g : Nat) : List Byte :=
  (writeThrough (entryOf s (coreAt (32 * g)) entry) (fmtEpoch s l) f.out ((rowGroup vals g).any (·.2)) ((rowGroup vals g).map (·.1))).1

/-- The bytes of a row's first n groups. -/
def rowStart (s : State) (l : LaunchS) (entry : Nat) (f : FwdForm) (coreAt : Nat → Nat) (vals : List (Pv × Bool)) (n : Nat) : List Byte :=
  (List.range n).flatMap (rowPiece s l entry f coreAt vals)

theorem groupBytes_eq (s : State) (l : LaunchS) (entry : Nat) (f : FwdForm) (coreAt : Nat → Nat) (vals : List (Pv × Bool)) :
    Safety.groupBytes s l entry f.out coreAt vals = rowStart s l entry f coreAt vals (chunks 32 vals).length := rfl

section
variable (s : State) (l : LaunchS) (entry : Nat) (f : FwdForm) (coreAt : Nat → Nat) (vals : List (Pv × Bool))

theorem rowGroup_length (g : Nat) : (rowGroup vals g).length = min 32 (vals.length - 32 * g) := by
  rw [rowGroup, chunks_getD (by decide), List.length_take, List.length_drop]

theorem rowPiece_length (g : Nat) : (rowPiece s l entry f coreAt vals g).length = outBytesOf f (min 32 (vals.length - 32 * g)) := by
  rw [rowPiece, writeThrough_length, List.length_map, rowGroup_length]

theorem rowStart_succ (n : Nat) : rowStart s l entry f coreAt vals (n + 1)
    = rowStart s l entry f coreAt vals n ++ rowPiece s l entry f coreAt vals n := by
  rw [rowStart, List.range_succ, List.flatMap_append, List.flatMap_cons, List.flatMap_nil, List.append_nil, rowStart]

theorem lt_groups {n : Nat} : n < (chunks 32 vals).length ↔ 32 * n < vals.length := by
  rw [chunks_length (by decide)]
  omega

theorem rowStart_length {n : Nat} (hn : n ≤ (chunks 32 vals).length) :
    (rowStart s l entry f coreAt vals n).length = outBytesOf f (min vals.length (32 * n)) := by
  induction n with
  | zero => simp [rowStart, outBytesOf_zero]
  | succ n ih =>
    have hlt : 32 * n < vals.length := (lt_groups vals).1 hn
    rw [rowStart_succ, List.length_append, ih (by omega), rowPiece_length, show min vals.length (32 * n) = 32 * n + 0 by omega,
      outBytesOf_add, outBytesOf_zero, Nat.add_zero, ← outBytesOf_add]
    congr 1
    omega

/-- A group begins where the whole groups before it end. -/
theorem rowStart_length_eq {n : Nat} (hn : n < (chunks 32 vals).length) :
    (rowStart s l entry f coreAt vals n).length = n * outBytesOf f 32 := by
  have hlt : 32 * n < vals.length := (lt_groups vals).1 hn
  rw [rowStart_length s l entry f coreAt vals (Nat.le_of_lt hn), show min vals.length (32 * n) = 32 * n + 0 by omega,
    outBytesOf_add, outBytesOf_zero, Nat.add_zero]

theorem groupBytes_length : (Safety.groupBytes s l entry f.out coreAt vals).length = outBytesOf f vals.length := by
  have hall : vals.length ≤ 32 * (chunks 32 vals).length := by
    rw [chunks_length (by decide)]
    omega
  rw [groupBytes_eq, rowStart_length s l entry f coreAt vals le_rfl, Nat.min_eq_left hall]

end

theorem Folds.rowPiece {l : LaunchS} {s t : State} (h : Folds l s t) (entry : Nat) (f : FwdForm) (coreAt : Nat → Nat)
    (vals : List (Pv × Bool)) (g : Nat) : rowPiece t l entry f coreAt vals g = rowPiece s l entry f coreAt vals g := by
  rw [Laws.rowPiece, h.steady.fmtEpoch, h.writeThrough_bytes, Laws.rowPiece]

theorem Folds.groupBytes {l : LaunchS} {s t : State} (h : Folds l s t) (entry : Nat) (f : FwdForm) (coreAt : Nat → Nat)
    (vals : List (Pv × Bool)) : Safety.groupBytes t l entry f.out coreAt vals = Safety.groupBytes s l entry f.out coreAt vals :=
  congrArg (List.flatMap · _) (funext (h.rowPiece entry f coreAt vals))

end Sys2Proof.Laws

/-! PROOFS. Bytes that a launch stores one after the other into a region of the own stacks, and a row of values stored group by group (R131,
R148, R156, R167, R411). -/

namespace Sys2Proof.Laws
open Sys2Proof.Machine Sys2Proof.Safety

/-! ### Stores of any length -/

/-- A range of the stacks, which may be empty, begins in stack memory or right after it. -/
theorem areaOf_inStacks {s : State} {a n : Nat} (h : a + n ≤ stackBytes s) : areaOf a = .stack ∨ areaOf a = .store 0 := by
  have hle := stackBytes_le s
  obtain hlt | rfl := Nat.lt_or_eq_of_le (show a ≤ 0xC000000000 by omega)
  · exact .inl (areaOf_stack hlt)
  · exact .inr (by decide)

/-- A store in the own stacks, of any length. -/
theorem markedWrite_inStacks {s : State} {a : Nat} {bytes : List Byte} (poison : Bool) (marks : Marks)
    (h : inStacks s a bytes.length = true) : markedWrite s false a bytes poison marks
    = (0, poisonStore { s with mem := sealedPut s a bytes (marks.byte poison) } a bytes.length poison) := by
  obtain ⟨hle, hbad⟩ := inStacks_iff.1 h
  have hdead : ((granules a bytes.length).any fun g => onDeadStack s (64 * g)) = false :=
    List.any_eq_false.2 fun g _ => by simp [onDeadStack_of_none hbad]
  simp only [markedWrite, rangeOk_stack false hle, hdead, keptBytes, Bool.not_true, Bool.false_eq_true, if_false]
  obtain harea | harea := areaOf_inStacks hle
  all_goals
    rw [harea]
    rfl

/-! ### Bytes in a region -/

/-- From s to t a launch has stored bytes from an address on, in a region: they read back, and no other byte has changed but those of the
region's check plane entries. -/
structure Puts (l : LaunchS) (region : Range) (a : Nat) (bytes : List Byte) (s t : State) : Prop where
  folds : Folds l s t
  there : ∀ i, i < bytes.length → memByte t (a + i) = bytes.getD i 0#8
  others : ∀ x, (x < a ∨ a + bytes.length ≤ x) → ¬ sealedBy s region.1 region.2 x → memByte t x = memByte s x

namespace Puts
variable {l : LaunchS} {region : Range} {a : Nat} {bytes more : List Byte} {s t u : State}

theorem nothing (h : Computes l s t) (region : Range) (a : Nat) : Puts l region a [] s t :=
  ⟨h.folds, fun _ hi => absurd hi (Nat.not_lt_zero _), fun x _ _ => by rw [h.memByte]⟩

theorem after (h : Puts l region a bytes s t) (hwork : Computes l t u) : Puts l region a bytes s u :=
  ⟨h.folds.trans hwork.folds, fun i hi => by rw [hwork.memByte, h.there i hi], fun x hx hfree => by rw [hwork.memByte, h.others x hx hfree]⟩

theorem before (hwork : Computes l s t) (h : Puts l region a bytes t u) : Puts l region a bytes s u :=
  ⟨hwork.folds.trans h.folds, h.there, fun x hx hfree => by
    rw [h.others x hx (mt (hwork.folds.steady.sealedBy _ _ _).1 hfree), hwork.memByte]⟩

/-- More bytes follow the ones stored, in a region that its own entries leave. -/
theorem append (hapart : aloof s region.1 region.2 region.1 region.2) (hlo : region.1 ≤ a)
    (hhi : a + bytes.length ≤ region.1 + region.2) (hst : Puts l region a bytes s t) (htu : Puts l region (a + bytes.length) more t u) :
    Puts l region a (bytes ++ more) s u where
  folds := hst.folds.trans htu.folds
  there i hi := by
    rw [List.length_append] at hi
    by_cases hin : i < bytes.length
    · have hfree : ¬ sealedBy s region.1 region.2 (a + i) := not_sealedBy_of_aloof hapart (by omega) (by omega)
      rw [htu.others _ (.inl (by omega)) (mt (hst.folds.steady.sealedBy _ _ _).1 hfree), hst.there i hin, List.getD_append _ _ _ _ hin]
    · have hrest := htu.there (i - bytes.length) (by omega)
      rw [show a + bytes.length + (i - bytes.length) = a + i by omega] at hrest
      rw [hrest, List.getD_append_right _ _ _ _ (Nat.not_lt.1 hin)]
  others x hx hfree := by
    rw [List.length_append] at hx
    rw [htu.others x (by omega) (mt (hst.folds.steady.sealedBy _ _ _).1 hfree), hst.others x (by omega) hfree]

end Puts

section
variable {l : LaunchS} {region : Range} {a : Nat} {s : State} (hin : inStacks s region.1 region.2 = true) (hlo : region.1 ≤ a)
include hin hlo

theorem storeMarked_puts {bytes : List Byte} (hhi : a + bytes.length ≤ region.1 + region.2) (poison : Bool) (marks : Marks) :
    Puts l region a bytes s (storeMarked s a bytes poison marks) := by
  have hstore := congrArg Prod.snd (markedWrite_inStacks poison marks (inStacks_part hhi hin))
  have hmem : (storeMarked s a bytes poison marks).mem = sealedPut s a bytes (marks.byte poison) := by
    rw [storeMarked, hstore, poisonStore_mem]
  have honly : Only [.memory, .poison] s (storeMarked s a bytes poison marks) := by
    rw [storeMarked, hstore]
    have hput : Only [.memory] s { s with mem := sealedPut s a bytes (marks.byte poison) } := only_of_withParts rfl
    exact only_trans (only_mono hput (by simp)) (only_mono (poisonStore_only _ _ _ _) (by simp))
  refine ⟨.of_only honly, fun i hi => ?_, fun x hx hfree => ?_⟩
  · rw [memByte, hmem]
    exact memPut_in _ _ _ _ hi
  · exact outside_sealedPut hmem x hx fun ⟨g, hg, he⟩ => hfree ⟨g, groupsMet_part hlo hhi hg, he⟩

/-- A store of a launch into a region that is not guarded (R167, R409). -/
theorem launchStore_puts {bytes : List Byte} (hguard : guarded s region.1 region.2 = false)
    (hhi : a + bytes.length ≤ region.1 + region.2) (uid : Nat) (poison : Bool) (marks : Marks) :
    Puts l region a bytes s (launchStore uid a bytes poison marks s) := by
  have hwrite := markedWrite_inStacks poison marks (inStacks_part hhi hin)
  have heq : launchStore uid a bytes poison marks s = storeMarked s a bytes poison marks := by
    rw [launchStore, if_neg (by rw [not_guarded_part hlo hhi hguard]; decide), storeMarked, hwrite]
    rfl
  rw [heq]
  exact storeMarked_puts hin hlo hhi poison marks

omit hin in
/-- A copy's marks go to the entries of the groups that take them (R131). -/
theorem carryMarks_puts {n : Nat} (hhi : a + n ≤ region.1 + region.2) (src b : Nat) : Puts l region b [] s (carryMarks src a n s) := by
  have honly : Only [.memory, .poison] s (carryMarks src a n s) := only_mono (ps := [.memory]) (only_of_withParts rfl) (by simp)
  refine ⟨.of_only honly, fun _ hi => absurd hi (Nat.not_lt_zero _), fun x _ hfree => ?_⟩
  have hmet : ∀ g ∈ groupsMet s a n, x < g.entry ∨ g.entry + 8 ≤ x := fun g hg => by
    by_contra hx
    exact hfree ⟨g, groupsMet_part hlo hhi hg, by omega, by omega⟩
  unfold carryMarks memByte
  dsimp only
  generalize markedIn s [(src, n)] = m
  generalize s.mem = cells
  generalize groupsMet s a n = gs at hmet ⊢
  induction gs generalizing cells with
  | nil => rfl
  | cons g gs ih =>
    obtain ⟨hx, hrest⟩ := List.forall_mem_cons.1 hmet
    rw [List.foldl_cons, ih _ hrest]
    split
    · rfl
    · exact memPut_out _ _ _ _ (by
        rw [List.length_singleton]
        omega)

end

/-- A group of values through an entry of a core, in the own stacks. -/
theorem writeGroup_inStacks {l : LaunchS} {s : State} {k x a : Nat} {dst : VFmt} {dig : Bool} {vs : List Pv}
    (h : inStacks s a (writeThrough (entryOf s k x) (fmtEpoch s l) dst dig vs).1.length = true) (missed poison : Bool) :
    ∃ st marks, writeGroup l k x dst dig a vs missed poison s = (0, account l k x st
      (storeMarked s a (writeThrough (entryOf s k x) (fmtEpoch s l) dst dig vs).1 poison marks)) := by
  unfold writeGroup
  extract_lets r w
  have hw : w = (0, storeMarked s a r.1 poison ⟨dig, r.2.satGroup⟩) := by
    rw [storeMarked]
    unfold w
    rw [markedWrite_inStacks poison _ h]
  rw [hw]
  exact ⟨_, _, rfl⟩

/-- The store of one group of a row (R156, R411). -/
def rowStep (l : LaunchS) (entry : Nat) (f : FwdForm) (a : Nat) (coreAt : Nat → Nat) (vals : List (Pv × Bool)) (poison : Bool)
    (s : State) (g : Nat) : State :=
  let k := groupCore coreAt (32 * g)
  let b := a + g * outBytesOf f 32
  if !runs s l.uid then s
  else if !mayWrite (entryOf s k entry) l then ownerConflict k l.uid s
  else if guarded s b (outBytesOf f (rowGroup vals g).length) then stopLaunch l.uid 0x30 s
  else
    let w := writeGroup l k entry f.out ((rowGroup vals g).any (·.2)) b ((rowGroup vals g).map (·.1))
      (outputBase s l entry coreAt (32 * g)).2 poison s
    if w.1 != 0 then stopLaunch l.uid 0x51 s else w.2

theorem writeGroups_eq (l : LaunchS) (entry : Nat) (f : FwdForm) (a : Nat) (coreAt : Nat → Nat) (vals : List (Pv × Bool)) (poison : Bool)
    (s : State) : writeGroups l entry f a coreAt vals poison s
      = (List.range (chunks 32 vals).length).foldl (rowStep l entry f a coreAt vals poison) s := rfl

section
variable {l : LaunchS} {region : Range} {s : State} (hrun : runs s l.uid = true) (hstore : storable s region.1 region.2 = true)
  (entry : Nat) (f : FwdForm) {a : Nat} {coreAt : Nat → Nat} {vals : List (Pv × Bool)} (hlo : region.1 ≤ a)
include hrun hstore hlo

/-- A group's bytes follow those of the groups before it. -/
theorem rowStep_puts {g : Nat} (hend : a + (rowStart s l entry f coreAt vals (g + 1)).length ≤ region.1 + region.2)
    (hg : g < (chunks 32 vals).length) (howner : mayWrite (entryOf s (coreAt (32 * g)) entry) l = true) (poison : Bool) :
    Puts l region (a + (rowStart s l entry f coreAt vals g).length) (rowPiece s l entry f coreAt vals g) s
      (rowStep l entry f a coreAt vals poison s g) := by
  obtain ⟨hin, hguard⟩ := storable_iff.1 hstore
  rw [rowStart_succ, List.length_append] at hend
  have hk : groupCore coreAt (32 * g) = coreAt (32 * g) := congrArg coreAt (by omega)
  have hlen : outBytesOf f (rowGroup vals g).length = (rowPiece s l entry f coreAt vals g).length := by
    rw [rowPiece_length, rowGroup_length]
  have hfree : guarded s (a + (rowStart s l entry f coreAt vals g).length) (rowPiece s l entry f coreAt vals g).length = false :=
    not_guarded_part (by omega) (by omega) hguard
  obtain ⟨st, marks, hwrite⟩ := writeGroup_inStacks (l := l) (s := s) (k := coreAt (32 * g)) (x := entry)
    (a := a + (rowStart s l entry f coreAt vals g).length) (dst := f.out) (dig := (rowGroup vals g).any (·.2))
    (vs := (rowGroup vals g).map (·.1)) (inStacks_part (by rw [← rowPiece]; omega) hin) (outputBase s l entry coreAt (32 * g)).2 poison
  rw [← rowPiece] at hwrite
  unfold rowStep
  rw [hk, ← rowStart_length_eq s l entry f coreAt vals hg, hlen]
  dsimp only
  rw [hrun, howner, hfree, hwrite]
  exact (storeMarked_puts hin (by omega) (by omega) poison marks).after (account_computes ..)

/-- A row of values, group by group, in a region that is not guarded and through entries that the launch may write (R156, R411). -/
theorem writeGroups_puts (hapart : aloof s region.1 region.2 region.1 region.2)
    (hhi : a + outBytesOf f vals.length ≤ region.1 + region.2)
    (howner : ∀ o, o < vals.length → mayWrite (entryOf s (coreAt o) entry) l = true) (poison : Bool) :
    Puts l region a (Safety.groupBytes s l entry f.out coreAt vals) s (writeGroups l entry f a coreAt vals poison s) := by
  rw [groupBytes_eq, writeGroups_eq]
  suffices hall : ∀ n, n ≤ (chunks 32 vals).length → Puts l region a (rowStart s l entry f coreAt vals n) s
      ((List.range n).foldl (rowStep l entry f a coreAt vals poison) s) from hall _ le_rfl
  intro n hn
  induction n with
  | zero => exact .nothing (.refl l s) region a
  | succ n ih =>
    have hprev := ih (Nat.le_of_succ_le hn)
    have hsame (g : Nat) := hprev.folds.rowPiece entry f coreAt vals g
    have hstart (m : Nat) : rowStart ((List.range n).foldl (rowStep l entry f a coreAt vals poison) s) l entry f coreAt vals m
        = rowStart s l entry f coreAt vals m := congrArg (List.flatMap · _) (funext hsame)
    have hend : a + (rowStart s l entry f coreAt vals (n + 1)).length ≤ region.1 + region.2 := by
      rw [rowStart_length s l entry f coreAt vals hn]
      exact le_trans (Nat.add_le_add_left (outBytesOf_mono f (Nat.min_le_left ..)) a) hhi
    have hstep := rowStep_puts ((hprev.folds.steady.runs _).trans hrun)
      (storable_iff.2 ⟨(hprev.folds.steady.inStacks _ _).trans (storable_iff.1 hstore).1,
        (hprev.folds.steady.guarded _ _).trans (storable_iff.1 hstore).2⟩) entry f hlo (g := n) (by rw [hstart]; exact hend) hn
      (hprev.folds.owner _ _ (howner _ ((lt_groups vals).1 hn))) poison
    rw [hstart, hsame] at hstep
    rw [List.range_succ, List.foldl_append, List.foldl_cons, List.foldl_nil, rowStart_succ]
    rw [rowStart_succ, List.length_append] at hend
    exact hprev.append hapart hlo (by omega) hstep

end

end Sys2Proof.Laws

/-! PROOFS. The stores of a micro-batch, token after token: each token's outputs, and the copy of its inputs to the stash (R149, R175, R273). -/

namespace Sys2Proof.Laws
open Sys2Proof.Machine Sys2Proof.Safety

/-- The stores of a micro-batch of a launch: a row of bytes for each token, and, where inputs are copied, as many bytes of each token's
input. -/
structure Batch where
  start : State
  l : LaunchS
  tokens : Nat
  dst : Nat
  width : Nat
  row : Nat → List Byte
  copies : Prop
  stash : Nat
  src : Nat
  len : Nat

namespace Batch
variable (b : Batch)

/-- The region of the outputs, and that of the copies. -/
def out : Range := (b.dst, b.tokens * b.width)

def kept : Range := (b.stash, b.tokens * b.len)

/-- A byte that the micro-batch leaves: it lies in neither region, and in no check plane entry of theirs. -/
def keeps (x : Nat) : Prop :=
  (x < b.dst ∨ b.dst + b.tokens * b.width ≤ x) ∧ ¬ sealedBy b.start b.dst (b.tokens * b.width) x
    ∧ (b.copies → (x < b.stash ∨ b.stash + b.tokens * b.len ≤ x) ∧ ¬ sealedBy b.start b.stash (b.tokens * b.len) x)

/-- The regions may be stored to, lie apart, and leave each other, themselves and the inputs. -/
structure Fits : Prop where
  width : ∀ k, (b.row k).length = b.width
  out : storable b.start b.dst (b.tokens * b.width) = true
  outSelf : aloof b.start b.dst (b.tokens * b.width) b.dst (b.tokens * b.width)
  kept : b.copies → storable b.start b.stash (b.tokens * b.len) = true
  far : b.copies → apart b.stash (b.tokens * b.len) b.dst (b.tokens * b.width)
  keptSelf : b.copies → aloof b.start b.stash (b.tokens * b.len) b.stash (b.tokens * b.len)
  keptOut : b.copies → aloof b.start b.stash (b.tokens * b.len) b.dst (b.tokens * b.width)
  outKept : b.copies → aloof b.start b.dst (b.tokens * b.width) b.stash (b.tokens * b.len)
  input : b.copies → ∀ x, x < b.tokens * b.len → b.keeps (b.src + x)

/-- The outputs of n tokens are stored, and the inputs of m are copied. -/
structure At (n m : Nat) (s : State) : Prop where
  folds : Folds b.l b.start s
  rows : ∀ k, k < n → ∀ i, i < b.width → memByte s (b.dst + k * b.width + i) = (b.row k).getD i 0#8
  copied : b.copies → ∀ x, x < m * b.len → memByte s (b.stash + x) = memByte b.start (b.src + x)
  left : ∀ x, b.keeps x → memByte s x = memByte b.start x

end Batch

namespace Batch.At
variable {b : Batch} {n m : Nat} {s t : State}

theorem none (h : Computes b.l b.start s) : b.At 0 0 s :=
  ⟨h.folds, fun _ hk => absurd hk (Nat.not_lt_zero _), fun _ x hx => absurd hx (by omega), fun x _ => by rw [h.memByte]⟩

theorem computes (h : b.At n m s) (hwork : Computes b.l s t) : b.At n m t :=
  ⟨h.folds.trans hwork.folds, fun k hk i hi => by rw [hwork.memByte, h.rows k hk i hi],
    fun hc x hx => by rw [hwork.memByte, h.copied hc x hx], fun x hx => by rw [hwork.memByte, h.left x hx]⟩

theorem memByte_kept (h : b.At n m s) {y : Range} (hy : ∀ x, y.1 ≤ x → x < y.1 + y.2 → b.keeps x) : SameBytes b.start s y :=
  fun x hlo hhi => h.left x (hy x hlo hhi)

theorem runs (h : b.At n m s) (hrun : Machine.runs b.start b.l.uid = true) : Machine.runs s b.l.uid = true :=
  (h.folds.steady.runs _).trans hrun

section
variable (hfits : b.Fits) (h : b.At n m s)
include hfits h

theorem alive : s.rel.badStacks = 0#8 := by
  rw [show s.rel = b.start.rel from h.folds.steady.rel]
  exact (inStacks_iff.1 (storable_iff.1 hfits.out).1).2

theorem storableOut : storable s b.out.1 b.out.2 = true := by
  obtain ⟨hin, hguard⟩ := storable_iff.1 hfits.out
  exact storable_iff.2 ⟨(h.folds.steady.inStacks _ _).trans hin, (h.folds.steady.guarded _ _).trans hguard⟩

theorem storableKept (hc : b.copies) : storable s b.kept.1 b.kept.2 = true := by
  obtain ⟨hin, hguard⟩ := storable_iff.1 (hfits.kept hc)
  exact storable_iff.2 ⟨(h.folds.steady.inStacks _ _).trans hin, (h.folds.steady.guarded _ _).trans hguard⟩

theorem aloofOut : aloof s b.out.1 b.out.2 b.out.1 b.out.2 := fun g hg => hfits.outSelf g (h.folds.steady.groupsMet _ _ ▸ hg)

/-- The outputs of one more token. -/
theorem row (hn : n < b.tokens) (hm : m ≤ b.tokens) (hput : Puts b.l b.out (b.dst + n * b.width) (b.row n) s t) : b.At (n + 1) m t := by
  have hwidth := hfits.width n
  have hend := row_le (w := b.width) hn
  have hout {x : Nat} (hx : x < b.dst + n * b.width ∨ b.dst + n * b.width + b.width ≤ x)
      (hfree : ¬ sealedBy b.start b.dst (b.tokens * b.width) x) : memByte t x = memByte s x :=
    hput.others x (by omega) (mt (h.folds.steady.sealedBy _ _ _).1 hfree)
  refine ⟨h.folds.trans hput.folds, fun k hk i hi => ?_, fun hc x hx => ?_, fun x hx => ?_⟩
  · obtain hlt | rfl := Nat.lt_or_eq_of_le (Nat.le_of_lt_succ hk)
    · have hbefore := row_le (w := b.width) hlt
      rw [hout (by omega) (not_sealedBy_of_aloof hfits.outSelf (by omega) (by omega)), h.rows k hlt i hi]
    · exact hput.there i (by omega)
  · have hfar := hfits.far hc
    have hin := Nat.mul_le_mul_right b.len hm
    rw [hout (by omega) (not_sealedBy_of_aloof (hfits.outKept hc) (by omega) (by omega)), h.copied hc x hx]
  · obtain ⟨hfar, hfree, -⟩ := id hx
    rw [hout (by omega) hfree, h.left x hx]

/-- The input of one more token, as it is read where the token's outputs have been stored. -/
theorem copy (hc : b.copies) (hm : m < b.tokens) (hn : n ≤ b.tokens)
    (hput : Puts b.l b.kept (b.stash + m * b.len) (memGet s (b.src + m * b.len) b.len) s t) : b.At n (m + 1) t := by
  have hend := row_le (w := b.len) hm
  have hbad : s.rel.badStacks = 0#8 := h.alive hfits
  have hread : memGet s (b.src + m * b.len) b.len = (List.range b.len).map fun i => memByte s (b.src + m * b.len + i) :=
    memGet_of_none fun i _ => onDeadStack_of_none hbad _
  rw [hread] at hput
  have hout {x : Nat} (hx : x < b.stash + m * b.len ∨ b.stash + m * b.len + b.len ≤ x)
      (hfree : ¬ sealedBy b.start b.stash (b.tokens * b.len) x) : memByte t x = memByte s x :=
    hput.others x (by rw [List.length_map, List.length_range]; exact hx) (mt (h.folds.steady.sealedBy _ _ _).1 hfree)
  refine ⟨h.folds.trans hput.folds, fun k hk i hi => ?_, fun _ x hx => ?_, fun x hx => ?_⟩
  · have hrow := row_le (w := b.width) (show k < b.tokens by omega)
    have hfar := hfits.far hc
    rw [hout (by omega) (not_sealedBy_of_aloof (hfits.keptOut hc) (by omega) (by omega)), h.rows k hk i hi]
  · rw [Nat.succ_mul] at hx
    by_cases hold : x < m * b.len
    · rw [hout (by omega) (not_sealedBy_of_aloof (hfits.keptSelf hc) (by omega) (by omega)), h.copied hc x hold]
    · obtain ⟨i, rfl⟩ := Nat.exists_eq_add_of_le (Nat.not_lt.1 hold)
      have hi : i < b.len := by omega
      rw [← Nat.add_assoc, hput.there i (by rw [List.length_map, List.length_range]; exact hi),
        List.getD_eq_getElem _ _ (by rw [List.length_map, List.length_range]; exact hi), List.getElem_map, List.getElem_range,
        Nat.add_assoc, h.left _ (hfits.input hc _ (by omega))]
  · obtain ⟨-, -, hkept⟩ := id hx
    obtain ⟨hfar, hfree⟩ := hkept hc
    rw [hout (by omega) hfree, h.left x hx]

end

/-- Where no inputs are copied. -/
theorem skip (h : b.At n m s) (hc : ¬ b.copies) (m' : Nat) : b.At n m' s := ⟨h.folds, h.rows, fun h => absurd h hc, h.left⟩

/-- All tokens, one after the other. -/
theorem all {f : Nat → State → State} (hf : ∀ n s, n < b.tokens → b.At n n s → b.At (n + 1) (n + 1) (f n s)) (h : b.At 0 0 s) :
    b.At b.tokens b.tokens ((List.range b.tokens).foldl (fun s k => f k s) s) := by
  suffices hall : ∀ n, n ≤ b.tokens → b.At n n ((List.range n).foldl (fun s k => f k s) s) from hall _ le_rfl
  intro n hn
  induction n with
  | zero => exact h
  | succ n ih =>
    rw [List.range_succ, List.foldl_append, List.foldl_cons, List.foldl_nil]
    exact hf n _ hn (ih (Nat.le_of_succ_le hn))

section
variable (hfits : b.Fits)
include hfits

/-- A token's outputs read back. -/
theorem memGet_row (h : b.At n m s) {k : Nat} (hk : k < n) : memGet s (b.dst + k * b.width) b.width = b.row k := by
  rw [← hfits.width k]
  exact memGet_eq_of_bytes (h.alive hfits) fun i hi => by
    rw [hfits.width k] at hi ⊢
    exact h.rows k hk i hi

/-- The stash holds the inputs. -/
theorem memGet_copied (h : b.At n m s) (hc : b.copies) : memGet s b.stash (m * b.len) = memGet b.start b.src (m * b.len) := by
  have hstart : b.start.rel.badStacks = 0#8 := (inStacks_iff.1 (storable_iff.1 hfits.out).1).2
  rw [memGet_of_none fun i _ => onDeadStack_of_none (h.alive hfits) _, memGet_of_none fun i _ => onDeadStack_of_none hstart _]
  exact List.map_congr_left fun x hx => h.copied hc x (List.mem_range.1 hx)

end

end Batch.At

end Sys2Proof.Laws

/-! PROOFS. A token of FORWARD and of BACKWARD_IN: its outputs, as they come from the state in which the operands were checked (R149 to R153,
R170, R111, R123). -/

namespace Sys2Proof.Laws
open Sys2Proof.Machine Sys2Proof.Safety

/-! ### The outputs of a token -/

section
variable (s : State) (bad : List Range) (l : LaunchS) (e : Prog) (r : Layer) (f : FwdForm) (k : Nat)

/-- The core that folds an output of FORWARD (R149). -/
def outCore (o : Nat) : Nat := coreFor s (lFirst r + o / max 1 (weightsPerRow (lWidth r)) * lTin r)

/-- The blocks of a token's input. -/
def tokenIn : List ZqBlock :=
  readBlocks s bad (f.inN.toNat + 1) (tokenAddr e.inAddr.toNat l f k (rowBytes (f.inN.toNat + 1) (lIn r))) (rowBlocks (lIn r))

/-- z = V·x of a token, none without factors (R153). -/
def tokenZ : List ZqBlock :=
  if lRank r = 0 then [] else (factorZ s bad l r f.zEntry.toNat (f.inN.toNat + 1) (tokenIn s bad l e r f k)).1

/-- An output of a token, folded and through the table, with its digital tag. -/
def tokenOut (o : Nat) : Pv × Bool :=
  let y := forwardOutput s bad l r f (outputBase s l e.tOut.toNat (outCore s r) o).1 k o (tokenIn s bad l e r f k) (tokenZ s bad l e r f k)
  ((throughTable s (outCore s r o) f.slot y.1).1, y.2.1)

/-- The copy of a token's input to the stash of a TRAIN launch (R175). -/
def stashToken : State :=
  let bytes := rowBytes (f.inN.toNat + 1) (lIn r)
  let src := tokenAddr e.inAddr.toNat l f k bytes
  if l.kind != 1#4 || stashKib s l = 0 || !runs s l.uid then s
  else
    let dst := stashAddr s l (lNum r) (batchOf l e) { f with stashN := f.inN } + k * bytes
    let t := launchStore l.uid dst (memGet s src bytes) (rangePoisoned s src bytes) {} s
    if runs t l.uid then carryMarks src dst bytes t else t

end

/-- The work of a token's outputs on their cores: z through its entry, then each output's digital products and its value of the table. -/
def tokenWork (l : LaunchS) (r : Layer) (f : FwdForm) (zs : TStat) (zw : EngWork) (coreAt : Nat → Nat)
    (tab : List ((Pv × TabMark) × (Pv × Bool × EngWork) × Nat)) (s : State) : State :=
  tab.foldl (fun s y => noteIssue (coreAt y.2.2) l.uid (noteTable (coreAt y.2.2) y.1.2
      (if lRank r != 0 || y.2.1.2.1 then engineWork (coreAt y.2.2) y.2.1.2.2 s else s)))
    (if lRank r = 0 then s else engineWork (zCore s r) zw (account l (zCore s r) f.zEntry.toNat zs s))

theorem tokenWork_computes (l : LaunchS) (r : Layer) (f : FwdForm) (zs : TStat) (zw : EngWork) (coreAt : Nat → Nat)
    (tab : List ((Pv × TabMark) × (Pv × Bool × EngWork) × Nat)) (s : State) :
    Computes l s (tokenWork l r f zs zw coreAt tab s) := by
  have hz : Computes l s (if lRank r = 0 then s else engineWork (zCore s r) zw (account l (zCore s r) f.zEntry.toNat zs s)) :=
    .ite (.refl l s) ((account_computes ..).trans (engineWork_computes ..))
  refine hz.trans (.foldl (fun t y => ?_) tab _)
  have hwork : Computes l t (if lRank r != 0 || y.2.1.2.1 then engineWork (coreAt y.2.2) y.2.1.2.2 t else t) :=
    .ite (engineWork_computes ..) (.refl l t)
  exact (hwork.trans (noteTable_computes ..)).trans (noteIssue_computes ..)

/-- A token of FORWARD works on its cores, writes its outputs, and copies its input. -/
theorem forwardToken_eq {s : State} {l : LaunchS} {e : Prog} {r : Layer} {f : FwdForm} {k : Nat} (hrun : runs s l.uid = true)
    (howner : lRank r ≠ 0 → mayWrite (entryOf s (zCore s r) f.zEntry.toNat) l = true) (bad : List Range) (factors : Bool) :
    ∃ poison v, Computes l s v ∧ forwardToken l e r f bad factors k s = stashToken
      (writeGroups l e.tOut.toNat f (tokenAddr e.outAddr.toNat l f k (outBytesOf f (lOut r))) (outCore s r)
        ((List.range (lOut r)).map (tokenOut s bad l e r f k)) poison v) l e r f k := by
  have hmay : (lRank r != 0 && !mayWrite (entryOf s (zCore s r) f.zEntry.toNat) l) = false := by
    by_cases hr : lRank r = 0
    · simp [hr]
    · simp [howner hr]
  have hz : tokenZ s bad l e r f k = (if lRank r = 0 then ([], ({} : TStat), ({} : EngWork))
      else factorZ s bad l r f.zEntry.toNat (f.inN.toNat + 1) (tokenIn s bad l e r f k)).1 := by
    unfold tokenZ
    split <;> rfl
  unfold forwardToken
  extract_lets n bytes src x poison nw coreAt
  change tokenZ s bad l e r f k = (if lRank r = 0 then ([], ({} : TStat), ({} : EngWork)) else factorZ s bad l r f.zEntry.toNat n x).1 at hz
  generalize (if lRank r = 0 then ([], ({} : TStat), ({} : EngWork)) else factorZ s bad l r f.zEntry.toNat n x) = Z at hz ⊢
  obtain ⟨z, zs, zw⟩ := Z
  obtain rfl : tokenZ s bad l e r f k = z := hz
  refine ⟨poison, _, tokenWork_computes l r f zs zw coreAt
    (((List.range (lOut r)).map fun o => (forwardOutput s bad l r f (outputBase s l e.tOut.toNat coreAt o).1 k o x
      (tokenZ s bad l e r f k), o)).map fun y => (throughTable s (coreAt y.2) f.slot y.1.1, y)) s,
    (if_neg (by rw [hrun]; decide)).trans ((if_neg (by rw [hmay]; decide)).trans ?_)⟩
  have hvals : (((List.range (lOut r)).map fun o => (forwardOutput s bad l r f (outputBase s l e.tOut.toNat coreAt o).1 k o x
      (tokenZ s bad l e r f k), o)).map fun y => (throughTable s (coreAt y.2) f.slot y.1.1, y)).map (fun y => (y.1.1, y.2.1.2.1))
      = (List.range (lOut r)).map (tokenOut s bad l e r f k) := by
    rw [List.map_map, List.map_map]
    rfl
  rw [← hvals]
  rfl

/-- The operands of a token of FORWARD read the same in both states. -/
structure SameOperands (l : LaunchS) (e : Prog) (r : Layer) (f : FwdForm) (k : Nat) (s t : State) : Prop where
  input : SameBytes s t (tokenAddr e.inAddr.toNat l f k (rowBytes (f.inN.toNat + 1) (lIn r)), rowBytes (f.inN.toNat + 1) (lIn r))
  image : anyDigital l = true → SameBytes s t (lFwd r, lOut r * rowBytes (lDWidth r) (lIn r))
  up : lRank r ≠ 0 → SameBytes s t (lU r, lOut r * rowBytes 8 (lRank r))
  down : lRank r ≠ 0 → SameBytes s t (lV r, lRank r * rowBytes 8 (lIn r))

section
variable {s t : State} {l : LaunchS} {e : Prog} {r : Layer} {f : FwdForm} {k : Nat} (hfolds : Folds l s t)
  (hsame : SameOperands l e r f k s t) (bad : List Range)
include hfolds

theorem outCore_folds : outCore t r = outCore s r := funext fun _ => congrFun (coreFor_steady hfolds.steady) _

include hsame

theorem tokenIn_folds : tokenIn t bad l e r f k = tokenIn s bad l e r f k := readRow_same hfolds.steady bad hsame.input

theorem tokenZ_folds : tokenZ t bad l e r f k = tokenZ s bad l e r f k := by
  unfold tokenZ
  by_cases hr : lRank r = 0
  · rw [if_pos hr, if_pos hr]
  · rw [if_neg hr, if_neg hr, tokenIn_folds hfolds hsame, hfolds.factorZ bad l _ _ _ (hsame.down hr)]

theorem tokenOut_folds {o : Nat} (ho : o < lOut r) : tokenOut t bad l e r f k o = tokenOut s bad l e r f k o := by
  unfold tokenOut
  rw [outCore_folds hfolds, tokenIn_folds hfolds hsame, tokenZ_folds hfolds hsame, hfolds.outputBase,
    forwardOutput_same hfolds.steady bad l f _ k _ _ ho hsame.image hsame.up]
  dsimp only
  rw [hfolds.throughTable]

end

end Sys2Proof.Laws

/-! PROOFS. A micro-batch of FORWARD, token after token: each token's outputs are written, and a TRAIN launch's inputs are copied (R149, R170,
R175, R411). -/

namespace Sys2Proof.Laws
open Sys2Proof.Machine Sys2Proof.Safety

/-! ### Addresses -/

/-- Tokens of a micro-batch lie one after the other. -/
theorem tokenAddr_eq (base : Nat) (l : LaunchS) (f : FwdForm) (k bytes : Nat) :
    tokenAddr base l f k bytes = tokenAddr base l f 0 bytes + k * bytes := by
  unfold tokenAddr
  ring

theorem slotOfLaunch_congr {s t : State} (h : t.ctxs = s.ctxs) (l : LaunchS) : slotOfLaunch t l = slotOfLaunch s l := by
  rw [slotOfLaunch, ctxU, h, slotOfLaunch, ctxU]

theorem stashKib_congr {s t : State} (h : t.ctxs = s.ctxs) (l : LaunchS) : stashKib t l = stashKib s l := by
  rw [stashKib, slotOfLaunch_congr h, stashKib]

theorem stashAddr_congr {s t : State} (h : t.ctxs = s.ctxs) (l : LaunchS) (layer m : Nat) (f : FwdForm) :
    stashAddr t l layer m f = stashAddr s l layer m f := by
  have hlayers : layerRec t l.ctx = layerRec s l.ctx := funext fun n => by rw [layerRec, ctxU, h, layerRec, ctxU]
  unfold stashAddr stashKib stashQuotaKib stashBase
  rw [slotOfLaunch_congr h, hlayers]

/-! ### The micro-batch -/

/-- The operands of a gathered micro-batch: its inputs, and what engines and the mover read besides. -/
def fwdReads (s : State) (l : LaunchS) (e : Prog) (r : Layer) (f : FwdForm) : List Range :=
  let bytes := rowBytes (f.inN.toNat + 1) (lIn r)
  (tokenAddr e.inAddr.toNat l f 0 bytes, f.tokens * bytes)
    :: forwardReads s l r (tokenAddr e.inAddr.toNat l f 0 bytes) (f.tokens * bytes)

/-- The stores of a micro-batch whose operands were checked in a state. -/
def fwdBatch (s : State) (bad : List Range) (l : LaunchS) (e : Prog) (r : Layer) (f : FwdForm) : Batch where
  start := s
  l := l
  tokens := f.tokens
  dst := tokenAddr e.outAddr.toNat l f 0 (outBytesOf f (lOut r))
  width := outBytesOf f (lOut r)
  row k := Safety.groupBytes s l e.tOut.toNat f.out (outCore s r) ((List.range (lOut r)).map (tokenOut s bad l e r f k))
  copies := l.kind = 1#4 ∧ stashKib s l ≠ 0
  stash := stashAddr s l (lNum r) (batchOf l e) { f with stashN := f.inN }
  src := tokenAddr e.inAddr.toNat l f 0 (rowBytes (f.inN.toNat + 1) (lIn r))
  len := rowBytes (f.inN.toNat + 1) (lIn r)

section
variable {s : State} {bad : List Range} {l : LaunchS} {e : Prog} {r : Layer} {f : FwdForm}

/-- A micro-batch whose stores leave its operands, and through whose entries the launch may write. -/
structure FwdReady (s : State) (bad : List Range) (l : LaunchS) (e : Prog) (r : Layer) (f : FwdForm) : Prop where
  runs : runs s l.uid = true
  fits : (fwdBatch s bad l e r f).Fits
  reads : ∀ y, y ∈ fwdReads s l e r f → ∀ x, y.1 ≤ x → x < y.1 + y.2 → (fwdBatch s bad l e r f).keeps x
  factor : lRank r ≠ 0 → mayWrite (entryOf s (zCore s r) f.zEntry.toNat) l = true
  outputs : ∀ o, o < lOut r → mayWrite (entryOf s (outCore s r o) e.tOut.toNat) l = true

variable (hready : FwdReady s bad l e r f) {n m : Nat} {t : State} (hat : (fwdBatch s bad l e r f).At n m t)
include hready hat

theorem FwdReady.operands (hn : n < f.tokens) : SameOperands l e r f n s t where
  input := by
    rw [tokenAddr_eq]
    exact (hat.memByte_kept (hready.reads _ List.mem_cons_self)).row hn
  image hd := hat.memByte_kept (hready.reads _ (List.mem_cons_of_mem _ (by simp [forwardReads, hd])))
  up hr := hat.memByte_kept (hready.reads _ (List.mem_cons_of_mem _ (by simp [forwardReads, hr])))
  down hr := hat.memByte_kept (hready.reads _ (List.mem_cons_of_mem _ (by simp [forwardReads, hr])))

/-- The copy of a token's input to the stash, or none where the launch has no stash. -/
theorem FwdReady.stash (hm : m < f.tokens) (hn : n ≤ f.tokens) :
    (fwdBatch s bad l e r f).At n (m + 1) (stashToken t l e r f m) := by
  have hctxs : t.ctxs = s.ctxs := hat.folds.steady.ctxs
  have hrun : Machine.runs t l.uid = true := hat.runs hready.runs
  unfold stashToken
  extract_lets bytes src dst u
  by_cases hc : (fwdBatch s bad l e r f).copies
  · obtain ⟨hkind, hkib⟩ := id hc
    obtain ⟨hin, hguard⟩ := storable_iff.1 (hat.storableKept hready.fits hc)
    have hdst : dst = (fwdBatch s bad l e r f).stash + m * bytes := congrArg (· + m * bytes) (stashAddr_congr hctxs ..)
    have hsrc : src = (fwdBatch s bad l e r f).src + m * bytes := tokenAddr_eq ..
    have hlo : (fwdBatch s bad l e r f).kept.1 ≤ dst := hdst ▸ Nat.le_add_right _ _
    have hhi : dst + bytes ≤ (fwdBatch s bad l e r f).kept.1 + (fwdBatch s bad l e r f).kept.2 := by
      have hend : m * bytes + bytes ≤ f.tokens * bytes := row_le hm
      rw [hdst, Nat.add_assoc]
      exact Nat.add_le_add_left hend _
    have hlen : (memGet t src bytes).length = bytes := by rw [memGet, List.length_map, List.length_range]
    have hstore : Puts l (fwdBatch s bad l e r f).kept dst (memGet t src bytes) t u :=
      launchStore_puts hin hlo hguard (by rw [hlen]; exact hhi) l.uid _ _
    have hmarks : Puts l (fwdBatch s bad l e r f).kept (dst + (memGet t src bytes).length) [] u (carryMarks src dst bytes u) :=
      carryMarks_puts hlo hhi src _
    have hself : aloof t (fwdBatch s bad l e r f).kept.1 (fwdBatch s bad l e r f).kept.2 (fwdBatch s bad l e r f).kept.1
        (fwdBatch s bad l e r f).kept.2 := fun g hg => hready.fits.keptSelf hc g (hat.folds.steady.groupsMet _ _ ▸ hg)
    have hput := hstore.append hself hlo (by rw [hlen]; exact hhi) hmarks
    have hwait : (l.kind != 1#4 || decide (stashKib t l = 0) || !Machine.runs t l.uid) = false := by
      simp [hkind, stashKib_congr hctxs, hkib, hrun]
    have hrun' : Machine.runs u l.uid = true := (hstore.folds.steady.runs _).trans hrun
    rw [if_neg (by rw [hwait]; decide), if_pos hrun']
    rw [List.append_nil, hdst, hsrc] at hput
    rw [hdst, hsrc]
    exact hat.copy hready.fits hc hm hn hput
  · have hnone : (l.kind != 1#4 || decide (stashKib t l = 0) || !Machine.runs t l.uid) = true := by
      have hor : l.kind ≠ 1#4 ∨ stashKib s l = 0 := by
        by_contra h
        exact hc ⟨by tauto, by tauto⟩
      obtain h | h := hor
      · simp [h]
      · simp [stashKib_congr hctxs, h]
    rw [if_pos hnone]
    exact hat.skip hc _

omit hat in
/-- One token: its outputs, then the copy of its input. -/
theorem FwdReady.token (hn : n < f.tokens) (hat : (fwdBatch s bad l e r f).At n n t) (factors : Bool) :
    (fwdBatch s bad l e r f).At (n + 1) (n + 1) (forwardToken l e r f bad factors n t) := by
  have hfolds : Folds l s t := hat.folds
  have hcore : outCore t r = outCore s r := outCore_folds hfolds
  have hvals : (List.range (lOut r)).map (tokenOut t bad l e r f n) = (List.range (lOut r)).map (tokenOut s bad l e r f n) :=
    List.map_congr_left fun o ho => tokenOut_folds hfolds (hready.operands hat hn) bad (List.mem_range.1 ho)
  have hz : zCore t r = zCore s r := congrFun (coreFor_steady hfolds.steady) _
  obtain ⟨poison, v, hwork, heq⟩ := forwardToken_eq (l := l) (e := e) (k := n) (hat.runs hready.runs)
    (fun hr => hz ▸ hfolds.owner _ _ (hready.factor hr)) bad factors
  rw [hcore, hvals, tokenAddr_eq] at heq
  have hv := hat.computes hwork
  have hlen : ((List.range (lOut r)).map (tokenOut s bad l e r f n)).length = lOut r := by rw [List.length_map, List.length_range]
  have hend : n * outBytesOf f (lOut r) + outBytesOf f (lOut r) ≤ f.tokens * outBytesOf f (lOut r) := row_le hn
  have hput := writeGroups_puts (region := (fwdBatch s bad l e r f).out) (hv.runs hready.runs) (hv.storableOut hready.fits) e.tOut.toNat f
    (a := (fwdBatch s bad l e r f).dst + n * outBytesOf f (lOut r)) (coreAt := outCore s r)
    (vals := (List.range (lOut r)).map (tokenOut s bad l e r f n)) (Nat.le_add_right _ _) (hv.aloofOut hready.fits)
    (by rw [hlen, Nat.add_assoc]; exact Nat.add_le_add_left hend _)
    (fun o ho => hv.folds.owner _ _ (hready.outputs o (by rwa [hlen] at ho))) poison
  rw [hv.folds.groupBytes] at hput
  rw [heq]
  exact hready.stash (hv.row hready.fits hn (Nat.le_of_lt hn) hput) hn hn

end

end Sys2Proof.Laws

/-! PROOFS. FORWARD step by step: an entry that waits, the products that it asks for, and a gathered micro-batch (R108, R165, R175, R176). -/

namespace Sys2Proof.Laws
open Sys2Proof.Machine Sys2Proof.Safety

/-- A read where neither memory nor the stacks in service change. -/
theorem memGet_only {ps : List Part} {s t : State} (h : Only ps s t) (hm : .memory ∉ ps) (hr : .rel ∉ ps) (hs : .stacks ∉ ps) (a n : Nat) :
    memGet t a n = memGet s a n := by
  have hstack (x : Nat) : stackOf t x = stackOf s x := by
    unfold stackOf stackCount
    rw [h .stacks hs]
  refine List.map_congr_left fun i _ => ?_
  rw [onDeadStack, hstack, h .rel hr, h .memory hm, onDeadStack]

/-- The engines of a gathered micro-batch. -/
def fwdEngines (s : State) (l : LaunchS) (r : Layer) (f : FwdForm) : List Nat := (forwardSlots s l r f).map (·.1)

/-- The groups of the operands that the check found bad. -/
def fwdBad (s s1 : State) (l : LaunchS) (e : Prog) (r : Layer) (f : FwdForm) : List Range :=
  phaseBad s1 f.check (fwdReads s l e r f) fun b g =>
    if b then tensorGroup (lDWidth r) (lFwd r) (rowBlocks (lIn r)) g
    else tensorGroup (f.inN.toNat + 1) (tokenAddr e.inAddr.toNat l f 0 (rowBytes (f.inN.toNat + 1) (lIn r))) (rowBlocks (lIn r)) g

/-- The tokens of a micro-batch, one after the other. -/
def fwdTokens (bad : List Range) (l : LaunchS) (e : Prog) (r : Layer) (f : FwdForm) (s : State) : State :=
  (List.range f.tokens).foldl (fun s k => forwardToken l e r f bad false k s) s

/-- A gathered micro-batch whose operands have been checked: its engines work, its tokens are written, and the next one comes up. -/
def fwdGathered (s s1 : State) (uid : Nat) (l : LaunchS) (e : Prog) (r : Layer) (f : FwdForm) : State :=
  let src := tokenAddr e.inAddr.toNat l f 0 (rowBytes (f.inN.toNat + 1) (lIn r))
  let bytes := f.tokens * rowBytes (f.inN.toNat + 1) (lIn r)
  let bad := fwdBad s s1 l e r f
  let inputs := rangePoisoned s1 src bytes
  let factors := rangesPoisoned s1 ((forwardReads s l r src bytes).filter (·.1 != src))
  let engines := factors || (inputs && (lRank r != 0 || anyDigital l))
  let t := (List.range f.tokens).foldl (fun t k => forwardToken l e r f bad factors k t)
    (enginesWork ((forwardSlots s l r f).map fun w => (w.1, { w.2 with poison := engines, reserved := !bad.isEmpty })) s1)
  if engines || (inputs && f.slot.isSome) then terminateCtx l.ctx (relErr 8 t) else if runs t uid then nextBatch uid e t else t

/-- A micro-batch that no pass goes before. -/
def fwdPhase (uid : Nat) (l : LaunchS) (e : Prog) (r : Layer) (f : FwdForm) (s : State) : State :=
  let src := tokenAddr e.inAddr.toNat l f 0 (rowBytes (f.inN.toNat + 1) (lIn r))
  let bytes := f.tokens * rowBytes (f.inN.toNat + 1) (lIn r)
  if !l.asked then if !rangeOk s false src bytes then stopLaunch uid 0x51 s else askProducts l e r f s
  else if !allGathered l then s
  else if !enginesAwake s (fwdEngines s l r f) then askNotices (fwdEngines s l r f) s
  else if !rangesOk s (fwdReads s l e r f) then stopLaunch uid 0x51 s
  else if !(consume l f.check (fwdReads s l e r f).tail s).1 then (consume l f.check (fwdReads s l e r f).tail s).2
  else fwdGathered s (consume l f.check (fwdReads s l e r f).tail s).2 uid l e r f

section
variable {s : State} {uid : Nat} {f : FwdForm} {l : LaunchS} {e : Prog} {r : Layer}

theorem forward_none (hat : atEntry s uid 1 l e) (hmb : e.mbCount = 0#16) : exec (.forward uid f) s = .next (nextEntry uid s) := by
  show Host.Outcome.next (forwardPhase uid f s) = _
  rw [forwardPhase, atPhase_of_atEntry hat]
  exact congrArg Host.Outcome.next (if_pos hmb)

variable (hat : atEntry s uid 1 l e) (hmb : e.mbCount ≠ 0#16) (hlayer : layerRec s l.ctx e.layer.toNat = some r)
  (happly : r.st.applying = false)
include hat hmb hlayer happly

theorem forward_waits (h : outranked s l e = true ∨ (l.kind = 1#4 ∧ holdsStash s l (batchOf l e) = false)) :
    exec (.forward uid f) s = .next s := by
  have hwait : (l.kind = 1#4 && !holdsStash s l (batchOf l e) || outranked s l e) = true := by
    obtain h | ⟨hkind, hhold⟩ := h
    · simp [h]
    · simp [hkind, hhold]
  show Host.Outcome.next (forwardPhase uid f s) = _
  rw [forwardPhase, atPhase_of_atEntry hat]
  dsimp only
  rw [if_neg hmb, readyLayer_eq hlayer happly]
  exact congrArg Host.Outcome.next (if_pos hwait)

variable (hrank : outranked s l e = false) (hhold : l.kind = 1#4 → holdsStash s l (batchOf l e) = true)
include hrank hhold

theorem forward_eq : exec (.forward uid f) s = .next (fwdPhase uid l e r f s) := by
  have hgo : (l.kind = 1#4 && !holdsStash s l (batchOf l e) || outranked s l e) = false := by
    by_cases hkind : l.kind = 1#4
    · simp [hhold hkind, hrank]
    · simp [hkind, hrank]
  show Host.Outcome.next (forwardPhase uid f s) = _
  rw [forwardPhase, atPhase_of_atEntry hat]
  dsimp only
  rw [if_neg hmb, readyLayer_eq hlayer happly]
  exact congrArg Host.Outcome.next (if_neg (by rw [hgo]; decide))

theorem forward_asks (hasked : l.asked = false)
    (hok : rangesOk s [(tokenAddr e.inAddr.toNat l f 0 (rowBytes (f.inN.toNat + 1) (lIn r)),
      f.tokens * rowBytes (f.inN.toNat + 1) (lIn r))] = true) : exec (.forward uid f) s = .next (askProducts l e r f s) := by
  simp only [rangesOk, List.all_cons, List.all_nil, Bool.and_true] at hok
  rw [forward_eq hat hmb hlayer happly hrank hhold, fwdPhase, hasked, hok]
  rfl

variable (hasked : l.asked = true)
include hasked

theorem forward_ungathered (hdue : l.gather.length ≠ l.due) : exec (.forward uid f) s = .next s := by
  rw [forward_eq hat hmb hlayer happly hrank hhold, fwdPhase, hasked, show allGathered l = false by simp [allGathered, hdue]]
  rfl

variable (hdue : l.gather.length = l.due)
include hdue

theorem forward_asleep (hasleep : enginesAwake s (fwdEngines s l r f) = false) :
    exec (.forward uid f) s = .next (askNotices (fwdEngines s l r f) s) := by
  rw [forward_eq hat hmb hlayer happly hrank hhold, fwdPhase, hasked, show allGathered l = true by simp [allGathered, hdue], hasleep]
  rfl

variable (hawake : enginesAwake s (fwdEngines s l r f) = true) (hok : rangesOk s (fwdReads s l e r f) = true)
include hawake hok

theorem forward_faulted (hgo : (consume l f.check (fwdReads s l e r f).tail s).1 = false) :
    exec (.forward uid f) s = .next (consume l f.check (fwdReads s l e r f).tail s).2 := by
  rw [forward_eq hat hmb hlayer happly hrank hhold, fwdPhase, hasked, show allGathered l = true by simp [allGathered, hdue], hawake, hok, hgo]
  rfl

theorem forward_gathered (hgo : (consume l f.check (fwdReads s l e r f).tail s).1 = true) :
    exec (.forward uid f) s = .next (fwdGathered s (consume l f.check (fwdReads s l e r f).tail s).2 uid l e r f) := by
  rw [forward_eq hat hmb hlayer happly hrank hhold, fwdPhase, hasked, show allGathered l = true by simp [allGathered, hdue], hawake, hok, hgo]
  rfl

end

/-- A gathered micro-batch without poison. -/
theorem fwdGathered_eq {s s1 : State} {uid : Nat} {f : FwdForm} {l : LaunchS} {e : Prog} {r : Layer}
    (hpoison : rangesPoisoned s1 (fwdReads s l e r f) = false) : ∃ ws, fwdGathered s s1 uid l e r f =
      let t := fwdTokens (fwdBad s s1 l e r f) l e r f (enginesWork ws s1)
      if runs t uid then nextBatch uid e t else t := by
  have hall : ∀ y ∈ fwdReads s l e r f, rangePoisoned s1 y.1 y.2 = false := fun y hy => by
    simpa using List.any_eq_false.1 hpoison y hy
  have hinputs := hall _ List.mem_cons_self
  have hfactors : rangesPoisoned s1 ((fwdReads s l e r f).tail.filter
      (·.1 != tokenAddr e.inAddr.toNat l f 0 (rowBytes (f.inN.toNat + 1) (lIn r)))) = false :=
    List.any_eq_false.2 fun y hy => by
      rw [hall y (List.mem_cons_of_mem _ (List.mem_of_mem_filter hy))]
      decide
  refine ⟨(forwardSlots s l r f).map fun w => (w.1, { w.2 with poison := false, reserved := !(fwdBad s s1 l e r f).isEmpty }), ?_⟩
  unfold fwdGathered
  extract_lets src bytes bad inputs factors engines t
  have hi : inputs = false := hinputs
  have hf : factors = false := hfactors
  have he : engines = false := by simp [engines, hi, hf]
  unfold t
  rw [he, hi, hf]
  rfl

end Sys2Proof.Laws

/-! PROOFS. A gathered micro-batch of FORWARD: what its outputs, its stash and all other bytes come to (R149, R165, R170, R175, R411). -/

namespace Sys2Proof.Laws
open Sys2Proof.Machine Sys2Proof.Safety

/-- A byte of a range that the stores of a micro-batch leave. -/
theorem Batch.keeps_of_apart {b : Batch} {y : Range}
    (hout : apart b.dst (b.tokens * b.width) y.1 y.2 ∧ aloof b.start b.dst (b.tokens * b.width) y.1 y.2)
    (hkept : b.copies → apart b.stash (b.tokens * b.len) y.1 y.2 ∧ aloof b.start b.stash (b.tokens * b.len) y.1 y.2) (x : Nat)
    (hlo : y.1 ≤ x) (hhi : x < y.1 + y.2) : b.keeps x := by
  obtain ⟨hfar, hfree⟩ := hout
  refine ⟨by omega, not_sealedBy_of_aloof hfree hlo hhi, fun hc => ?_⟩
  obtain ⟨hfar', hfree'⟩ := hkept hc
  exact ⟨by omega, not_sealedBy_of_aloof hfree' hlo hhi⟩

/-! ### A check that lets the work go on -/

theorem consume_subst {l : LaunchS} {check : CheckSeen} {rs : List Range} {s : State} (h : (consume l check rs s).1 = true) :
    (consume l check rs s).2.rel.subst = s.rel.subst := by
  obtain ⟨poison, hspoil⟩ := spoil_eq check rs s
  unfold consume checkFor at h ⊢
  rw [hspoil] at h ⊢
  cases hc : checkRanges { s with poison := poison } check rs with
  | clean => simp only [hc]
  | path =>
    simp only [hc]
    rfl
  | rest => simp [hc] at h

/-- After a check that lets the work go on, the operands are where they were, and so are the units in service, the entries and the tables. -/
structure Passed (s t : State) : Prop where
  noted : Noted s t
  only : Only [.poison, .rel] s t
  core : coreFor t = coreFor s

theorem consume_passed {l : LaunchS} {check : CheckSeen} {rs : List Range} {s : State} (h : (consume l check rs s).1 = true) :
    Passed s (consume l check rs s).2 where
  noted := consume_noted h
  only := consume_goes_on h
  core := funext fun a => by
    have hsubst := consume_subst h
    obtain ⟨p, x, hs, hfence, -⟩ := consume_noted h
    rw [hs] at hsubst ⊢
    have hcore : coreFenced { s with poison := p, rel := x } (coreOfArray a) = coreFenced s (coreOfArray a) := by
      rw [coreFenced, coreFenced, hfence]
      rfl
    have hsubst' : x.subst = s.rel.subst := hsubst
    simp only [coreFor, hcore, hsubst']

namespace Passed
variable {s t : State} (h : Passed s t)
include h

theorem entryOf (k x : Nat) : entryOf t k x = entryOf s k x := by
  rw [Machine.entryOf, Machine.core, h.only .cores (by decide), Machine.entryOf, Machine.core]

theorem storable {a n : Nat} (hs : storable s a n = true) : storable t a n = true := by
  obtain ⟨hin, hguard⟩ := storable_iff.1 hs
  refine storable_iff.2 ⟨(h.noted.inStacks a n).trans hin, ?_⟩
  rw [guarded, residents, h.only .ctxs (by decide)]
  exact hguard

theorem aloof {a n b m : Nat} (hs : aloof s a n b m) : aloof t a n b m := fun g hg => hs g (h.noted.groupsMet _ _ ▸ hg)

theorem sealedBy (a n x : Nat) : sealedBy t a n x ↔ sealedBy s a n x := by simp only [Safety.sealedBy, h.noted.groupsMet]

theorem runs {uid : Nat} {l : LaunchS} (hfind : findLaunch s uid = some l) (hrun : l.state = .running) : runs t l.uid = true := by
  rw [findLaunch_uid hfind]
  refine runs_of_findLaunch (l := l) ?_ hrun
  rw [findLaunch, h.only .launches (by decide)]
  exact hfind

theorem outCore (r : Layer) : outCore t r = outCore s r := funext fun _ => congrFun h.core _

theorem fwdReads (l : LaunchS) (e : Prog) (r : Layer) (f : FwdForm) : fwdReads t l e r f = fwdReads s l e r f := by
  unfold Laws.fwdReads forwardReads
  rw [stashKib_congr (h.only .ctxs (by decide))]

end Passed

/-! ### The micro-batch, from the state in which its operands came up -/

/-- A stash that may be stored to, apart from the outputs and the operands. -/
structure StashClear (s : State) (reads : List Range) (dst size stash copied : Nat) : Prop where
  store : storable s stash copied = true
  far : apart stash copied dst size
  self : aloof s stash copied stash copied
  ofOut : aloof s stash copied dst size
  outOf : aloof s dst size stash copied
  reads : ∀ y, y ∈ reads → apart stash copied y.1 y.2 ∧ aloof s stash copied y.1 y.2

/-- The places of a micro-batch's stores, as they stand when its operands come up. -/
structure FwdPlaces (s : State) (l : LaunchS) (e : Prog) (r : Layer) (f : FwdForm) (dst size stash copied : Nat) : Prop where
  factor : lRank r ≠ 0 → mayWrite (entryOf s (zCore s r) f.zEntry.toNat) l = true
  outputs : ∀ o, o < lOut r → mayWrite (entryOf s (outCore s r o) e.tOut.toNat) l = true
  store : storable s dst size = true
  self : aloof s dst size dst size
  reads : ∀ y, y ∈ fwdReads s l e r f → apart dst size y.1 y.2 ∧ aloof s dst size y.1 y.2
  stash : l.kind = 1#4 ∧ stashKib s l ≠ 0 → StashClear s (fwdReads s l e r f) dst size stash copied

section
variable {s s1 : State} {uid : Nat} {f : FwdForm} {l : LaunchS} {e : Prog} {r : Layer} (hpassed : Passed s s1)
  (hplaces : FwdPlaces s l e r f (tokenAddr e.outAddr.toNat l f 0 (outBytesOf f (lOut r))) (f.tokens * outBytesOf f (lOut r))
    (stashAddr s l (lNum r) (batchOf l e) { f with stashN := f.inN }) (f.tokens * rowBytes (f.inN.toNat + 1) (lIn r)))
  (bad : List Range)
include hpassed hplaces

theorem fwdReady_of_places (hrun : runs s1 l.uid = true) : FwdReady s1 bad l e r f := by
  have hctxs : s1.ctxs = s.ctxs := hpassed.only .ctxs (by decide)
  have hstash : (fwdBatch s1 bad l e r f).stash = stashAddr s l (lNum r) (batchOf l e) { f with stashN := f.inN } :=
    stashAddr_congr hctxs ..
  have hcopies : (fwdBatch s1 bad l e r f).copies → l.kind = 1#4 ∧ stashKib s l ≠ 0 := fun hc =>
    ⟨hc.1, stashKib_congr hctxs l ▸ hc.2⟩
  have hreads (y : Range) (hy : y ∈ fwdReads s1 l e r f) : ∀ x, y.1 ≤ x → x < y.1 + y.2 → (fwdBatch s1 bad l e r f).keeps x := by
    rw [hpassed.fwdReads] at hy
    refine Batch.keeps_of_apart ⟨(hplaces.reads y hy).1, hpassed.aloof (hplaces.reads y hy).2⟩ fun hc => ?_
    have hclear := (hplaces.stash (hcopies hc)).reads y hy
    rw [hstash]
    exact ⟨hclear.1, hpassed.aloof hclear.2⟩
  refine ⟨hrun, ?_, hreads, fun hr => ?_, fun o ho => ?_⟩
  · exact {
      width := fun k => (groupBytes_length ..).trans (by rw [List.length_map, List.length_range]; rfl)
      out := hpassed.storable hplaces.store
      outSelf := hpassed.aloof hplaces.self
      kept := fun hc => hstash ▸ hpassed.storable (hplaces.stash (hcopies hc)).store
      far := fun hc => hstash ▸ (hplaces.stash (hcopies hc)).far
      keptSelf := fun hc => hstash ▸ hpassed.aloof (hplaces.stash (hcopies hc)).self
      keptOut := fun hc => hstash ▸ hpassed.aloof (hplaces.stash (hcopies hc)).ofOut
      outKept := fun hc => hstash ▸ hpassed.aloof (hplaces.stash (hcopies hc)).outOf
      input := fun _ x hx => hreads _ List.mem_cons_self _ (Nat.le_add_right _ _) (Nat.add_lt_add_left hx _) }
  · rw [hpassed.entryOf, zCore, hpassed.core]
    exact hplaces.factor hr
  · rw [hpassed.entryOf, hpassed.outCore]
    exact hplaces.outputs o ho

end

end Sys2Proof.Laws

/-! PROOFS. The end of a micro-batch of FORWARD or BACKWARD_IN, and what stands in memory (R149, R169, R175, R411). -/

namespace Sys2Proof.Laws
open Sys2Proof.Machine Sys2Proof.Safety

section
variable {b : Batch} {s t : State} {uid : Nat} {l : LaunchS} {e : Prog}

/-- Where all tokens are stored, the launch goes on to its next micro-batch, and memory holds the rows and the copies. -/
theorem Batch.At.ends (h : b.At b.tokens b.tokens t) (hfits : b.Fits) (hfind : findLaunch b.start uid = some l)
    (hrun : l.state = .running) :
    let u := if Machine.runs t uid then nextBatch uid e t else t
    findLaunch u uid = some (afterBatch l e)
      ∧ (∀ k, k < b.tokens → memGet u (b.dst + k * b.width) b.width = b.row k)
      ∧ (b.copies → memGet u b.stash (b.tokens * b.len) = memGet b.start b.src (b.tokens * b.len))
      ∧ (∀ x, b.keeps x → memByte u x = memByte b.start x)
      ∧ Only [.cores, .clusters, .launches, .memory, .poison] b.start u := by
  intro u
  have hfind' : findLaunch t uid = some l := (h.folds.steady.findLaunch uid).trans hfind
  have hu : u = nextBatch uid e t := if_pos (runs_of_findLaunch hfind' hrun)
  have hnext : Only [.launches] t u := hu ▸ nextBatch_only uid e t
  have hget (a n : Nat) : memGet u a n = memGet t a n := memGet_only hnext (by decide) (by decide) (by decide) a n
  refine ⟨hu ▸ findLaunch_nextBatch e hfind', fun k hk => ?_, fun hc => ?_, fun x hx => ?_, ?_⟩
  · rw [hget]
    exact h.memGet_row hfits hk
  · rw [hget]
    exact h.memGet_copied hfits hc
  · exact (hnext .memory (by decide) x).trans (h.left x hx)
  · exact only_trans (only_mono (h.folds.steady.only_of_fab h.folds.fab) (by simp)) (only_mono hnext (by simp))

end

/-- The tokens of a gathered micro-batch. -/
theorem FwdReady.tokens {s : State} {bad : List Range} {l : LaunchS} {e : Prog} {r : Layer} {f : FwdForm}
    (h : FwdReady s bad l e r f) (ws : List (Nat × EngWork)) :
    (fwdBatch s bad l e r f).At f.tokens f.tokens (fwdTokens bad l e r f (enginesWork ws s)) :=
  Batch.At.all (b := fwdBatch s bad l e r f) (fun _ _ hn hat => h.token hn hat false) (.none (enginesWork_computes l ws s))

/-- What a gathered micro-batch comes to. -/
theorem forward_ends {s : State} {uid : Nat} {f : FwdForm} {l : LaunchS} {e : Prog} {r : Layer} (hat : atEntry s uid 1 l e)
    (hmb : e.mbCount ≠ 0#16) (hlayer : layerRec s l.ctx e.layer.toNat = some r) (happly : r.st.applying = false)
    (hrank : outranked s l e = false) (hhold : l.kind = 1#4 → holdsStash s l (batchOf l e) = true) (hasked : l.asked = true)
    (hdue : l.gather.length = l.due) (hawake : enginesAwake s (fwdEngines s l r f) = true)
    (hok : rangesOk s (fwdReads s l e r f) = true) (hgo : (consume l f.check (fwdReads s l e r f).tail s).1 = true)
    (hpoison : rangesPoisoned (consume l f.check (fwdReads s l e r f).tail s).2 (fwdReads s l e r f) = false)
    (hplaces : FwdPlaces s l e r f (tokenAddr e.outAddr.toNat l f 0 (outBytesOf f (lOut r))) (f.tokens * outBytesOf f (lOut r))
      (stashAddr s l (lNum r) (batchOf l e) { f with stashN := f.inN }) (f.tokens * rowBytes (f.inN.toNat + 1) (lIn r))) :
    let s1 := (consume l f.check (fwdReads s l e r f).tail s).2
    let b := fwdBatch s1 (fwdBad s s1 l e r f) l e r f
    ∃ t, exec (.forward uid f) s = .next t ∧ findLaunch t uid = some (afterBatch l e)
      ∧ (∀ k, k < f.tokens → memGet t (b.dst + k * b.width) b.width = b.row k)
      ∧ (b.copies → memGet t b.stash (f.tokens * b.len) = memGet s1 b.src (f.tokens * b.len))
      ∧ (∀ x, b.keeps x → memByte t x = memByte s1 x)
      ∧ Only [.cores, .clusters, .launches, .memory, .poison] s1 t := by
  intro s1 b
  obtain ⟨hfind, hrun, -⟩ := id hat
  have hpassed : Passed s s1 := consume_passed hgo
  have hready : FwdReady s1 (fwdBad s s1 l e r f) l e r f := fwdReady_of_places hpassed hplaces _ (hpassed.runs hfind hrun)
  have hfind1 : findLaunch s1 uid = some l := by
    rw [findLaunch, hpassed.only .launches (by decide)]
    exact hfind
  obtain ⟨ws, hend⟩ := fwdGathered_eq (uid := uid) hpoison
  refine ⟨_, (forward_gathered hat hmb hlayer happly hrank hhold hasked hdue hawake hok hgo).trans (congrArg _ hend), ?_⟩
  exact (hready.tokens ws).ends hready.fits hfind1 hrun

end Sys2Proof.Laws

/-! PROOFS. The products of a micro-batch, asked of every array of the layer, token after token (R84, R108, R137). -/

namespace Sys2Proof.Laws
open Sys2Proof.Machine Sys2Proof.Safety

/-- One product for each array of a list, at the end of the array's queue. -/
def askAll (product : Nat → Product) (as : List Nat) (s : State) : State :=
  as.foldl (fun s a => modArr s a fun u => { u with queue := u.queue ++ [product a] }) s

theorem askAll_only (product : Nat → Product) (as : List Nat) (s : State) : Only [.arrays] s (askAll product as s) :=
  only_foldl (fun _ _ => only_of_withParts rfl) as s

theorem arr_askAll {product : Nat → Product} {as : List Nat} (hnodup : as.Nodup) (s : State) (a : Nat) :
    arr (askAll product as s) a
      = if a ∈ as then { arr s a with queue := (arr s a).queue ++ [product a] } else arr s a := by
  induction as generalizing s with
  | nil => rfl
  | cons x as ih =>
    obtain ⟨hx, hrest⟩ := List.nodup_cons.1 hnodup
    rw [askAll, List.foldl_cons, ← askAll, ih hrest]
    by_cases ha : a = x
    · subst ha
      rw [if_neg hx, arr_modArr_same, if_pos List.mem_cons_self]
    · rw [arr_modArr_ne ha]
      simp only [List.mem_cons, ha, false_or]

/-- Flags set on the cores of a list of arrays. -/
def flagCores (as : List Nat) (s : State) : State :=
  as.foldl (fun s a => modCore s (coreFor s a) fun c => { c with fmtErr := setBit c.fmtErr 0 }) s

theorem flagCores_only (as : List Nat) (s : State) : Only [.cores] s (flagCores as s) :=
  only_foldl (fun _ _ => only_of_withParts rfl) as s

theorem coreFor_only {ps : List Part} {s t : State} (h : Only ps s t) (hi : .ident ∉ ps) (hc : .clusters ∉ ps) (hr : .rel ∉ ps) :
    coreFor t = coreFor s := funext fun a => by
  obtain ⟨-, htop, -⟩ := h .ident hi
  have hclusters : t.clusters = s.clusters := h .clusters hc
  have hrel : t.rel = s.rel := h .rel hr
  have hfenced (k : Nat) : coreFenced t k = coreFenced s k := by
    simp only [coreFenced, clusterOut, clus, dieOut, htop, hclusters, hrel]
  simp only [coreFor, hfenced, hrel]

theorem core_flagCores (as : List Nat) (s : State) (k : Nat) : Machine.core (flagCores as s) k
    = if k ∈ as.map (coreFor s) then { Machine.core s k with fmtErr := setBit (Machine.core s k).fmtErr 0 } else Machine.core s k := by
  induction as generalizing s with
  | nil => rfl
  | cons x as ih =>
    rw [flagCores, List.foldl_cons, ← flagCores, ih]
    have hfor : coreFor (modCore s (coreFor s x) fun c => { c with fmtErr := setBit c.fmtErr 0 }) = coreFor s :=
      coreFor_only (ps := [.cores]) (only_of_withParts rfl) (by decide) (by decide) (by decide)
    rw [hfor]
    by_cases hk : k = coreFor s x
    · subst hk
      rw [core_modCore_same, if_pos (show coreFor s x ∈ (x :: as).map (coreFor s) from List.mem_cons_self)]
      split
      · rw [setBit_setBit_same]
      · rfl
    · rw [core_modCore_ne hk]
      simp only [List.map_cons, List.mem_cons, hk, false_or]

section
variable (s : State) (l : LaunchS) (e : Prog) (r : Layer) (f : FwdForm)

/-- The inputs of a micro-batch, and the groups of them that the check found bad. -/
def askInput : Range :=
  (tokenAddr e.inAddr.toNat l f 0 (rowBytes (f.inN.toNat + 1) (lIn r)), f.tokens * rowBytes (f.inN.toNat + 1) (lIn r))

def askBad : List Range :=
  phaseBad s f.check [askInput l e r f] fun b g =>
    if b then (0, 0) else tensorGroup (f.inN.toNat + 1) (askInput l e r f).1 (rowBlocks (lIn r)) g

/-- The product of a token that is asked of an array. -/
def askProduct (k a : Nat) : Product where
  launch := l.uid
  token := k
  inN := f.inN.toNat + 1
  tIn := e.tIn.toNat
  blocks := ((tokenIn s (askBad s l e r f) l e r f k).drop (16 * (tileOf r a).2)).take 16
  spans := []
  invalid := false
  acc := []
  plane := 0
  span := 0
  sat := []

/-- The products of the first n tokens. -/
def askTokens (n : Nat) : State :=
  (List.range n).foldl (fun t k => askAll (askProduct s l e r f k) (lArrays r) t) s

/-- The launch once its products are asked. -/
def askedAs (x : LaunchS) : LaunchS :=
  { x with asked := true, tableSlot := f.slot, gather := [], due := f.tokens * lCount r }

end

section
variable (s : State) (l : LaunchS) (e : Prog) (r : Layer) (f : FwdForm)

theorem askTokens_succ (n : Nat) :
    askTokens s l e r f (n + 1) = askAll (askProduct s l e r f n) (lArrays r) (askTokens s l e r f n) := by
  rw [askTokens, List.range_succ, List.foldl_append, List.foldl_cons, List.foldl_nil, ← askTokens]

theorem askTokens_only (n : Nat) : Only [.arrays] s (askTokens s l e r f n) :=
  only_foldl (fun t k => askAll_only (askProduct s l e r f k) (lArrays r) t) _ s

/-- An array's queue takes a product for each token, in order. -/
theorem arr_askTokens (n a : Nat) : arr (askTokens s l e r f n) a
    = if a ∈ lArrays r then { arr s a with queue := (arr s a).queue ++ (List.range n).map fun k => askProduct s l e r f k a }
      else arr s a := by
  induction n with
  | zero =>
    rw [List.range_zero, List.map_nil, List.append_nil]
    split <;> rfl
  | succ n ih =>
    rw [askTokens_succ, arr_askAll (lArrays_nodup r), ih, List.range_succ, List.map_append, List.map_cons, List.map_nil]
    split
    · rw [List.append_assoc]
    · rfl

/-- The inputs read the same while products are asked. -/
theorem tokenIn_askTokens (bad : List Range) (n k : Nat) :
    readBlocks (askTokens s l e r f n) bad (f.inN.toNat + 1)
      (tokenAddr e.inAddr.toNat l f 0 (rowBytes (f.inN.toNat + 1) (lIn r)) + k * rowBytes (f.inN.toNat + 1) (lIn r)) (rowBlocks (lIn r))
      = tokenIn s bad l e r f k := by
  rw [← tokenAddr_eq, tokenIn]
  simp only [readBlocks, memGet_only (askTokens_only s l e r f n) (by decide) (by decide) (by decide)]

theorem askProducts_eq : askProducts l e r f s = modLaunch
    (if (askBad s l e r f).isEmpty then askTokens s l e r f f.tokens else flagCores (lArrays r) (askTokens s l e r f f.tokens)) l.uid
    (askedAs r f) := by
  unfold askProducts
  extract_lets n bytes src bad t u
  have ht : t = askTokens s l e r f f.tokens := by
    unfold t
    suffices hall : ∀ m, (List.range m).foldl (fun t k =>
        let row := readBlocks t bad n (src + k * bytes) (rowBlocks (lIn r))
        (lArrays r).foldl (fun t a =>
          let p : Product := { launch := l.uid, token := k, inN := n, tIn := e.tIn.toNat
                               blocks := (row.drop (16 * (tileOf r a).2)).take 16, spans := [], invalid := false, acc := []
                               plane := 0, span := 0, sat := [] }
          modArr t a fun u => { u with queue := u.queue ++ [p] }) t) s = askTokens s l e r f m from hall _
    intro m
    induction m with
    | zero => rfl
    | succ m ih =>
      rw [List.range_succ, List.foldl_append, List.foldl_cons, List.foldl_nil, ih, askTokens_succ]
      dsimp only
      rw [tokenIn_askTokens]
      rfl
  unfold u
  rw [ht]
  rfl

end

section
variable {s : State} {l : LaunchS} {e : Prog} {r : Layer} {f : FwdForm}

theorem askProducts_only : Only [.arrays, .cores, .launches] s (askProducts l e r f s) := by
  rw [askProducts_eq]
  have htokens := only_mono (qs := [.arrays, .cores, .launches]) (askTokens_only s l e r f f.tokens) (by simp)
  have hflags := only_mono (qs := [.arrays, .cores, .launches]) (flagCores_only (lArrays r) (askTokens s l e r f f.tokens)) (by simp)
  have hlaunch (t : State) : Only [.launches] t (modLaunch t l.uid (askedAs r f)) := only_of_withParts rfl
  exact only_trans (only_ite htokens (only_trans htokens hflags)) (only_mono (hlaunch _) (by simp))

theorem findLaunch_askProducts {uid : Nat} (h : findLaunch s uid = some l) :
    findLaunch (askProducts l e r f s) uid = some (askedAs r f l) := by
  have hkeep : ∀ t, Only [.arrays, .cores] s t → findLaunch t uid = some l := fun t ht => by
    rw [findLaunch, ht .launches (by decide)]
    exact h
  have htokens := only_mono (qs := [.arrays, .cores]) (askTokens_only s l e r f f.tokens) (by simp)
  have hflags := only_mono (qs := [.arrays, .cores]) (flagCores_only (lArrays r) (askTokens s l e r f f.tokens)) (by simp)
  rw [askProducts_eq, findLaunch_uid h, findLaunch_modLaunch _ _ (by exact fun _ => rfl),
    hkeep _ (only_ite htokens (only_trans htokens hflags))]
  rfl

theorem arr_askProducts (a : Nat) : arr (askProducts l e r f s) a = if a ∈ lArrays r
    then { arr s a with queue := (arr s a).queue ++ (List.range f.tokens).map fun k => askProduct s l e r f k a } else arr s a := by
  have hflags : (flagCores (lArrays r) (askTokens s l e r f f.tokens)).arrays = (askTokens s l e r f f.tokens).arrays :=
    flagCores_only (lArrays r) _ .arrays (by decide)
  rw [askProducts_eq, ← arr_askTokens]
  split
  · rfl
  · show tget ArrU.reset (flagCores (lArrays r) (askTokens s l e r f f.tokens)).arrays a = _
    rw [hflags, arr]

theorem core_askProducts (k : Nat) : Machine.core (askProducts l e r f s) k
    = if askBad s l e r f ≠ [] ∧ k ∈ (lArrays r).map (coreFor s)
      then { Machine.core s k with fmtErr := setBit (Machine.core s k).fmtErr 0 } else Machine.core s k := by
  have htokens := askTokens_only s l e r f f.tokens
  have hcore : Machine.core (askTokens s l e r f f.tokens) k = Machine.core s k := by
    rw [Machine.core, htokens .cores (by decide), Machine.core]
  rw [askProducts_eq]
  by_cases hbad : askBad s l e r f = []
  · rw [if_pos (by rw [hbad]; rfl), if_neg fun h => h.1 hbad]
    exact hcore
  · rw [if_neg (by simp [hbad])]
    refine (core_flagCores (lArrays r) (askTokens s l e r f f.tokens) k).trans ?_
    rw [coreFor_only htokens (by decide) (by decide) (by decide), hcore]
    simp only [ne_eq, hbad, not_false_eq_true, true_and]

end

end Sys2Proof.Laws

/-! PROOFS. BACKWARD_IN: the input gradient of a token, a micro-batch, and the entry step by step (R108, R111, R123, R171, R411). -/

namespace Sys2Proof.Laws
open Sys2Proof.Machine Sys2Proof.Safety

/-! ### The input gradient of a token -/

section
variable (s : State) (bad : List Range) (l : LaunchS) (e : Prog) (r : Layer) (f : FwdForm) (k : Nat)

/-- The core that folds an input gradient: that of its column (R111). -/
def columnCore (i : Nat) : Nat := coreFor s (lFirst r + i / 512)

/-- Place of the stashed inputs of a micro-batch. -/
def bwdStash : Nat := stashAddr s l (lNum r) (batchOf l e) f

/-- Wᵀ·dy of a token, and the token's stashed input, element by element. -/
def columnFold (i : Nat) : Pv :=
  let base := (outputBase s l e.tOut.toNat (columnCore s r) i).1
  (dotRow (f.inN.toNat + 1) (lDWidth r) base
    (readBlocks s bad (f.inN.toNat + 1) (tokenAddr e.inAddr.toNat l f k (rowBytes (f.inN.toNat + 1) (lOut r))) (rowBlocks (lOut r)))
    (imageBlocks s bad (lT r) (lDWidth r) (lOut r) i) Acc.zero).present base false

def stashedIn : List Word :=
  (readBlocks s bad (f.stashN.toNat + 1) (bwdStash s l e r f + k * rowBytes (f.stashN.toNat + 1) (lIn r)) (rowBlocks (lIn r))).flatMap
    fun b => b.codes.map (zqToF32 (f.stashN.toNat + 1) b.e)

/-- An element of the input gradient: the fold, times TABLE_D of the stashed input where the entry has a table (R123). -/
def columnValue (i : Nat) : Pv :=
  match f.slot with
  | none => columnFold s bad l e r f k i
  | some j =>
    let v := columnFold s bad l e r f k i
    let w := f32Mul (if v.invalid then 0x7FC00000#32 else fvToF32 v.v)
      (tableValue (Machine.core s (columnCore s r i)) j.toNat ((stashedIn s bad l e r f k).getD i 0#32)).1
    { v with v := f32ToFv w, invalid := v.invalid || isNanF32 w }

/-- The operands of a micro-batch: its gradients, the transposed image, and the stashed inputs where the entry has a table. -/
def bwdReads : List Range :=
  [(tokenAddr e.inAddr.toNat l f 0 (rowBytes (f.inN.toNat + 1) (lOut r)), f.tokens * rowBytes (f.inN.toNat + 1) (lOut r)),
    (lT r, lIn r * rowBytes (lDWidth r) (lOut r))]
    ++ if f.slot.isSome then [(bwdStash s l e r f, f.tokens * rowBytes (f.stashN.toNat + 1) (lIn r))] else []

end

/-- A token of BACKWARD_IN works on its cores, and writes its input gradient. -/
theorem backwardToken_eq {s : State} {l : LaunchS} {e : Prog} {r : Layer} {f : FwdForm} {k : Nat} (hrun : runs s l.uid = true)
    (bad : List Range) (poison : Bool) : ∃ v, Computes l s v ∧ backwardToken l e r f bad poison k s
      = writeGroups l e.tOut.toNat f (tokenAddr e.outAddr.toNat l f k (outBytesOf f (lIn r))) (columnCore s r)
        ((List.range (lIn r)).map fun i => (columnValue s bad l e r f k i, false)) poison v := by
  unfold backwardToken
  extract_lets n bytes dy sn xa xs coreAt out
  have hvalue (i : Nat) : (out i).1 = columnValue s bad l e r f k i := by
    unfold out columnValue
    cases f.slot <;> rfl
  rw [if_neg (by rw [hrun]; decide)]
  refine ⟨_, Computes.foldl (f := fun s (y : (Pv × TabMark × EngWork) × Nat) =>
    noteIssue (coreAt y.2) l.uid (noteTable (coreAt y.2) y.1.2.1 (engineWork (coreAt y.2) y.1.2.2 s)))
    (fun t y => ((engineWork_computes ..).trans (noteTable_computes ..)).trans (noteIssue_computes ..))
    ((List.range (lIn r)).map fun i => (out i, i)) s, ?_⟩
  have hvals : (((List.range (lIn r)).map fun i => (out i, i)).map fun y => (y.1.1, false))
      = (List.range (lIn r)).map fun i => (columnValue s bad l e r f k i, false) := by
    rw [List.map_map]
    exact List.map_congr_left fun i _ => congrArg (·, false) (hvalue i)
  rw [← hvals]
  rfl

/-- An input gradient, where the bytes of the operands stay. -/
theorem columnValue_folds {s t : State} {l : LaunchS} {e : Prog} {r : Layer} {f : FwdForm} {k : Nat} (h : Folds l s t)
    (bad : List Range) (hreads : ∀ y, y ∈ bwdReads s l e r f → SameBytes s t y) (hk : k < f.tokens) {i : Nat} (hi : i < lIn r) :
    columnValue t bad l e r f k i = columnValue s bad l e r f k i := by
  have hcore : columnCore t r = columnCore s r := funext fun _ => congrFun (coreFor_steady h.steady) _
  have hstash : bwdStash t l e r f = bwdStash s l e r f := stashAddr_congr h.steady.ctxs ..
  have hinput : SameBytes s t (tokenAddr e.inAddr.toNat l f k (rowBytes (f.inN.toNat + 1) (lOut r)), rowBytes (f.inN.toNat + 1) (lOut r)) := by
    rw [tokenAddr_eq]
    exact (hreads _ (by simp [bwdReads])).row hk
  have hfold : columnFold t bad l e r f k i = columnFold s bad l e r f k i := by
    unfold columnFold
    rw [hcore, h.outputBase, readRow_same h.steady bad hinput,
      imageBlocks_same h.steady bad (hreads (lT r, lIn r * rowBytes (lDWidth r) (lOut r)) (by simp [bwdReads])) hi]
  unfold columnValue
  cases hslot : f.slot with
  | none => exact hfold
  | some j =>
    have hbytes : SameBytes s t (bwdStash s l e r f + k * rowBytes (f.stashN.toNat + 1) (lIn r), rowBytes (f.stashN.toNat + 1) (lIn r)) :=
      (hreads (bwdStash s l e r f, f.tokens * rowBytes (f.stashN.toNat + 1) (lIn r)) (by simp [bwdReads, hslot])).row hk
    have hin : stashedIn t bad l e r f k = stashedIn s bad l e r f k := by
      unfold stashedIn
      rw [hstash, readRow_same h.steady bad hbytes]
    dsimp only
    rw [hfold, hin, hcore, tableValue_congr (h.tables _)]

/-! ### The micro-batch -/

/-- The stores of a micro-batch whose operands were checked in a state: nothing is copied. -/
def bwdBatch (s : State) (bad : List Range) (l : LaunchS) (e : Prog) (r : Layer) (f : FwdForm) : Batch where
  start := s
  l := l
  tokens := f.tokens
  dst := tokenAddr e.outAddr.toNat l f 0 (outBytesOf f (lIn r))
  width := outBytesOf f (lIn r)
  row k := Safety.groupBytes s l e.tOut.toNat f.out (columnCore s r) ((List.range (lIn r)).map fun i => (columnValue s bad l e r f k i, false))
  copies := False
  stash := 0
  src := 0
  len := 0

/-- A micro-batch whose stores leave its operands, and through whose entries the launch may write. -/
structure BwdReady (s : State) (bad : List Range) (l : LaunchS) (e : Prog) (r : Layer) (f : FwdForm) : Prop where
  runs : runs s l.uid = true
  fits : (bwdBatch s bad l e r f).Fits
  reads : ∀ y, y ∈ bwdReads s l e r f → ∀ x, y.1 ≤ x → x < y.1 + y.2 → (bwdBatch s bad l e r f).keeps x
  outputs : ∀ i, i < lIn r → mayWrite (entryOf s (columnCore s r i) e.tOut.toNat) l = true

/-- The tokens of a micro-batch, one after the other. -/
def bwdTokens (bad : List Range) (l : LaunchS) (e : Prog) (r : Layer) (f : FwdForm) (s : State) : State :=
  (List.range f.tokens).foldl (fun s k => backwardToken l e r f bad false k s) s

section
variable {s t : State} {bad : List Range} {l : LaunchS} {e : Prog} {r : Layer} {f : FwdForm} (hready : BwdReady s bad l e r f)
include hready

theorem BwdReady.token {n : Nat} (hn : n < f.tokens) (hat : (bwdBatch s bad l e r f).At n n t) (poison : Bool) :
    (bwdBatch s bad l e r f).At (n + 1) (n + 1) (backwardToken l e r f bad poison n t) := by
  have hfolds : Folds l s t := hat.folds
  have hcore : columnCore t r = columnCore s r := funext fun _ => congrFun (coreFor_steady hfolds.steady) _
  have hvals : ((List.range (lIn r)).map fun i => (columnValue t bad l e r f n i, false))
      = (List.range (lIn r)).map fun i => (columnValue s bad l e r f n i, false) :=
    List.map_congr_left fun i hi => congrArg (·, false)
      (columnValue_folds hfolds bad (fun y hy => hat.memByte_kept (hready.reads y hy)) hn (List.mem_range.1 hi))
  obtain ⟨v, hwork, heq⟩ := backwardToken_eq (l := l) (e := e) (r := r) (f := f) (k := n) (hat.runs hready.runs) bad poison
  rw [hcore, hvals, tokenAddr_eq] at heq
  have hv := hat.computes hwork
  have hlen : ((List.range (lIn r)).map fun i => (columnValue s bad l e r f n i, false)).length = lIn r := by
    rw [List.length_map, List.length_range]
  have hend : n * outBytesOf f (lIn r) + outBytesOf f (lIn r) ≤ f.tokens * outBytesOf f (lIn r) := row_le hn
  have hput := writeGroups_puts (region := (bwdBatch s bad l e r f).out) (hv.runs hready.runs) (hv.storableOut hready.fits) e.tOut.toNat f
    (a := (bwdBatch s bad l e r f).dst + n * outBytesOf f (lIn r)) (coreAt := columnCore s r)
    (vals := (List.range (lIn r)).map fun i => (columnValue s bad l e r f n i, false)) (Nat.le_add_right _ _) (hv.aloofOut hready.fits)
    (by rw [hlen, Nat.add_assoc]; exact Nat.add_le_add_left hend _)
    (fun i hi => hv.folds.owner _ _ (hready.outputs i (by rwa [hlen] at hi))) poison
  rw [hv.folds.groupBytes] at hput
  rw [heq]
  exact (hv.row hready.fits hn (Nat.le_of_lt hn) hput).skip id _

theorem BwdReady.tokens (ws : List (Nat × EngWork)) :
    (bwdBatch s bad l e r f).At f.tokens f.tokens (bwdTokens bad l e r f (enginesWork ws s)) :=
  Batch.At.all (b := bwdBatch s bad l e r f) (fun _ _ hn hat => hready.token hn hat false) (.none (enginesWork_computes l ws s))

end

end Sys2Proof.Laws

/-! PROOFS. BACKWARD_IN step by step: an entry that waits, and a micro-batch that runs (R108, R111, R123, R171, R176). -/

namespace Sys2Proof.Laws
open Sys2Proof.Machine Sys2Proof.Safety

/-- The engines of a micro-batch. -/
def bwdEngines (s : State) (r : Layer) : List Nat := (columnCores s r).map (·.1)

/-- The groups of the operands that the check found bad. -/
def bwdBad (s s1 : State) (l : LaunchS) (e : Prog) (r : Layer) (f : FwdForm) : List Range :=
  phaseBad s1 f.check (bwdReads s l e r f) fun b g =>
    if b then tensorGroup (lDWidth r) (lT r) (rowBlocks (lOut r)) g
    else tensorGroup (f.inN.toNat + 1) (tokenAddr e.inAddr.toNat l f 0 (rowBytes (f.inN.toNat + 1) (lOut r))) (rowBlocks (lOut r)) g

/-- A micro-batch whose operands have been checked: its engines work, its tokens are written, and the next one comes up. -/
def bwdRun (s s1 : State) (uid : Nat) (l : LaunchS) (e : Prog) (r : Layer) (f : FwdForm) : State :=
  let bad := bwdBad s s1 l e r f
  let poison := rangesPoisoned s1 (bwdReads s l e r f)
  let t := (List.range f.tokens).foldl (fun t k => backwardToken l e r f bad poison k t)
    (enginesWork ((columnCores s r).map fun k => (k.1,
      { slots := tileSlots f.tokens k.2 (rowBlocks (lOut r)) (max (f.inN.toNat + 1) (lDWidth r)), poison := poison
        reserved := !bad.isEmpty })) s1)
  if poison then terminateCtx l.ctx (relErr 8 t) else if runs t uid then nextBatch uid e t else t

/-- A micro-batch that no pass goes before, with a current image. -/
def bwdPhase (uid : Nat) (l : LaunchS) (e : Prog) (r : Layer) (f : FwdForm) (s : State) : State :=
  if !enginesAwake s (bwdEngines s r) then askNotices (bwdEngines s r) s
  else if !rangesOk s (bwdReads s l e r f) then stopLaunch uid 0x51 s
  else if !(consume l f.check (bwdReads s l e r f) s).1 then (consume l f.check (bwdReads s l e r f) s).2
  else bwdRun s (consume l f.check (bwdReads s l e r f) s).2 uid l e r f

/-- A micro-batch without poison. -/
theorem bwdRun_eq {s s1 : State} {uid : Nat} {f : FwdForm} {l : LaunchS} {e : Prog} {r : Layer}
    (hpoison : rangesPoisoned s1 (bwdReads s l e r f) = false) : ∃ ws, bwdRun s s1 uid l e r f =
      let t := bwdTokens (bwdBad s s1 l e r f) l e r f (enginesWork ws s1)
      if runs t uid then nextBatch uid e t else t := by
  refine ⟨(columnCores s r).map fun k => (k.1,
    { slots := tileSlots f.tokens k.2 (rowBlocks (lOut r)) (max (f.inN.toNat + 1) (lDWidth r)), poison := false
      reserved := !(bwdBad s s1 l e r f).isEmpty }), ?_⟩
  unfold bwdRun
  rw [hpoison]
  rfl

section
variable {s : State} {uid : Nat} {f : FwdForm} {l : LaunchS} {e : Prog} {r : Layer}

theorem backward_none (hat : atEntry s uid 2 l e) (hmb : e.mbCount = 0#16) : exec (.backwardIn uid f) s = .next (nextEntry uid s) := by
  show Host.Outcome.next (backwardPhase uid f s) = _
  rw [backwardPhase, atPhase_of_atEntry hat]
  exact congrArg Host.Outcome.next (if_pos hmb)

variable (hat : atEntry s uid 2 l e) (hmb : e.mbCount ≠ 0#16) (hlayer : layerRec s l.ctx e.layer.toNat = some r)
  (happly : r.st.applying = false)
include hat hmb hlayer happly

theorem backward_waits (h : r.st.tEpoch ≠ some (ctxU s l.ctx).epoch ∨ forwardLeft s l e.layer (batchOf l e) = true
    ∨ outranked s l e = true) : exec (.backwardIn uid f) s = .next s := by
  have hwait : (r.st.tEpoch != some (ctxU s l.ctx).epoch || forwardLeft s l e.layer (batchOf l e) || outranked s l e) = true := by
    simp only [Bool.or_eq_true, bne_iff_ne, or_assoc]
    exact h
  show Host.Outcome.next (backwardPhase uid f s) = _
  rw [backwardPhase, atPhase_of_atEntry hat]
  dsimp only
  rw [if_neg hmb, readyLayer_eq hlayer happly]
  exact congrArg Host.Outcome.next (if_pos hwait)

variable (himage : r.st.tEpoch = some (ctxU s l.ctx).epoch) (hleft : forwardLeft s l e.layer (batchOf l e) = false)
  (hrank : outranked s l e = false)
include himage hleft hrank

theorem backward_eq : exec (.backwardIn uid f) s = .next (bwdPhase uid l e r f s) := by
  have hgo : (r.st.tEpoch != some (ctxU s l.ctx).epoch || forwardLeft s l e.layer (batchOf l e) || outranked s l e) = false := by
    simp [himage, hleft, hrank]
  show Host.Outcome.next (backwardPhase uid f s) = _
  rw [backwardPhase, atPhase_of_atEntry hat]
  dsimp only
  rw [if_neg hmb, readyLayer_eq hlayer happly]
  exact congrArg Host.Outcome.next (if_neg (by rw [hgo]; decide))

theorem backward_asleep (hasleep : enginesAwake s (bwdEngines s r) = false) :
    exec (.backwardIn uid f) s = .next (askNotices (bwdEngines s r) s) := by
  rw [backward_eq hat hmb hlayer happly himage hleft hrank, bwdPhase, hasleep]
  rfl

variable (hawake : enginesAwake s (bwdEngines s r) = true) (hok : rangesOk s (bwdReads s l e r f) = true)
include hawake hok

theorem backward_faulted (hgo : (consume l f.check (bwdReads s l e r f) s).1 = false) :
    exec (.backwardIn uid f) s = .next (consume l f.check (bwdReads s l e r f) s).2 := by
  rw [backward_eq hat hmb hlayer happly himage hleft hrank, bwdPhase, hawake, hok, hgo]
  rfl

theorem backward_runs (hgo : (consume l f.check (bwdReads s l e r f) s).1 = true) :
    exec (.backwardIn uid f) s = .next (bwdRun s (consume l f.check (bwdReads s l e r f) s).2 uid l e r f) := by
  rw [backward_eq hat hmb hlayer happly himage hleft hrank, bwdPhase, hawake, hok, hgo]
  rfl

end

/-! ### What a micro-batch comes to -/

/-- The place of a micro-batch's stores, as it stands when its operands come up. -/
structure BwdPlaces (s : State) (l : LaunchS) (e : Prog) (r : Layer) (f : FwdForm) (dst size : Nat) : Prop where
  outputs : ∀ i, i < lIn r → mayWrite (entryOf s (columnCore s r i) e.tOut.toNat) l = true
  store : storable s dst size = true
  self : aloof s dst size dst size
  reads : ∀ y, y ∈ bwdReads s l e r f → apart dst size y.1 y.2 ∧ aloof s dst size y.1 y.2

section
variable {s s1 : State} {uid : Nat} {f : FwdForm} {l : LaunchS} {e : Prog} {r : Layer}

theorem Passed.columnCore (h : Passed s s1) : columnCore s1 r = columnCore s r := funext fun _ => congrFun h.core _

theorem Passed.bwdStash (h : Passed s s1) : bwdStash s1 l e r f = bwdStash s l e r f :=
  stashAddr_congr (h.only .ctxs (by decide)) ..

theorem bwdReady_of_places (hpassed : Passed s s1)
    (hplaces : BwdPlaces s l e r f (tokenAddr e.outAddr.toNat l f 0 (outBytesOf f (lIn r))) (f.tokens * outBytesOf f (lIn r)))
    (bad : List Range) (hrun : runs s1 l.uid = true) : BwdReady s1 bad l e r f where
  runs := hrun
  fits := {
    width := fun k => (groupBytes_length ..).trans (by rw [List.length_map, List.length_range]; rfl)
    out := hpassed.storable hplaces.store
    outSelf := hpassed.aloof hplaces.self
    kept := False.elim
    far := False.elim
    keptSelf := False.elim
    keptOut := False.elim
    outKept := False.elim
    input := False.elim }
  reads y hy := by
    rw [bwdReads, hpassed.bwdStash] at hy
    exact Batch.keeps_of_apart ⟨(hplaces.reads y hy).1, hpassed.aloof (hplaces.reads y hy).2⟩ False.elim
  outputs i hi := by
    rw [hpassed.entryOf, hpassed.columnCore]
    exact hplaces.outputs i hi

theorem backward_ends (hat : atEntry s uid 2 l e) (hmb : e.mbCount ≠ 0#16) (hlayer : layerRec s l.ctx e.layer.toNat = some r)
    (happly : r.st.applying = false) (himage : r.st.tEpoch = some (ctxU s l.ctx).epoch)
    (hleft : forwardLeft s l e.layer (batchOf l e) = false) (hrank : outranked s l e = false)
    (hawake : enginesAwake s (bwdEngines s r) = true) (hok : rangesOk s (bwdReads s l e r f) = true)
    (hgo : (consume l f.check (bwdReads s l e r f) s).1 = true)
    (hpoison : rangesPoisoned (consume l f.check (bwdReads s l e r f) s).2 (bwdReads s l e r f) = false)
    (hplaces : BwdPlaces s l e r f (tokenAddr e.outAddr.toNat l f 0 (outBytesOf f (lIn r))) (f.tokens * outBytesOf f (lIn r))) :
    let s1 := (consume l f.check (bwdReads s l e r f) s).2
    let b := bwdBatch s1 (bwdBad s s1 l e r f) l e r f
    ∃ t, exec (.backwardIn uid f) s = .next t ∧ findLaunch t uid = some (afterBatch l e)
      ∧ (∀ k, k < f.tokens → memGet t (b.dst + k * b.width) b.width = b.row k)
      ∧ (∀ x, b.keeps x → memByte t x = memByte s1 x)
      ∧ Only [.cores, .clusters, .launches, .memory, .poison] s1 t := by
  intro s1 b
  obtain ⟨hfind, hrun, -⟩ := id hat
  have hpassed : Passed s s1 := consume_passed hgo
  have hready : BwdReady s1 (bwdBad s s1 l e r f) l e r f := bwdReady_of_places hpassed hplaces _ (hpassed.runs hfind hrun)
  have hfind1 : findLaunch s1 uid = some l := by
    rw [findLaunch, hpassed.only .launches (by decide)]
    exact hfind
  obtain ⟨ws, hend⟩ := bwdRun_eq (uid := uid) hpoison
  obtain ⟨hafter, hrows, -, hleft', honly⟩ := (hready.tokens ws).ends (e := e) hready.fits hfind1 hrun
  exact ⟨_, (backward_runs hat hmb hlayer happly himage hleft hrank hawake hok hgo).trans (congrArg _ hend), hafter, hrows, hleft', honly⟩

end

end Sys2Proof.Laws

/-! PROOFS. FORWARD and BACKWARD_IN, as the entry of a launch (R108, R111, R123, R149 to R153, R165, R170, R171, R175, R176, R411). -/

namespace Sys2Proof.Laws
open Sys2Proof.Machine Sys2Proof.Safety

/-- Settles O48: a gathered micro-batch follows token after token, each row of outputs group by group; its products are asked array by array. -/
theorem forwardAndBackwardRowsComplete : Obligations.ForwardAndBackwardRowsComplete := by
  intro s uid f l e
  refine ⟨fun hat hmb => ?_, fun hat hmb => ?_, fun r hat hmb hlayer happly => ?_, fun r hat hmb hlayer happly => ?_⟩
  · obtain ⟨hfind, -⟩ := id hat
    exact ⟨_, forward_none hat hmb, findLaunch_nextEntry hfind, nextEntry_only uid s⟩
  · obtain ⟨hfind, -⟩ := id hat
    exact ⟨_, backward_none hat hmb, findLaunch_nextEntry hfind, nextEntry_only uid s⟩
  · intro n bytes src input coreAt bad0 engines reads s1 bad x z out dst size stashes stash copied
    refine ⟨forward_waits hat hmb hlayer happly, fun hrank hhold => ⟨fun hasked hok => ?_,
      forward_ungathered hat hmb hlayer happly hrank hhold, fun hasked hdue =>
      ⟨forward_asleep hat hmb hlayer happly hrank hhold hasked hdue, fun hawake hok =>
      ⟨forward_faulted hat hmb hlayer happly hrank hhold hasked hdue hawake hok, ?_⟩⟩⟩⟩
    · obtain ⟨hfind, -⟩ := id hat
      refine ⟨_, forward_asks hat hmb hlayer happly hrank hhold hasked hok, findLaunch_askProducts hfind, fun a ha => ?_, fun a ha => ?_,
        core_askProducts, askProducts_only⟩
      · rw [arr_askProducts, if_pos ha]
        rfl
      · rw [arr_askProducts, if_neg ha]
    · intro hgo hpoison hfactor howner hstore hself hreads hstash
      have hplaces : FwdPlaces s l e r f (dst 0) size stash copied :=
        ⟨hfactor, howner, hstore, hself, hreads, fun hs => by
          obtain ⟨hput, hfar, hkept, hout, hfrom, hsafe⟩ := hstash hs
          exact ⟨hput, hfar, hkept, hout, hfrom, hsafe⟩⟩
      obtain ⟨t, hexec, hafter, hrows, hcopied, hleft, honly⟩ :=
        forward_ends hat hmb hlayer happly hrank hhold hasked hdue hawake hok hgo hpoison hplaces
      have hpassed : Passed s s1 := consume_passed hgo
      have hctxs : s1.ctxs = s.ctxs := hpassed.only .ctxs (by decide)
      have hplace : (fwdBatch s1 bad l e r f).stash = stash := stashAddr_congr hctxs ..
      have hcopies : stashes ↔ (fwdBatch s1 bad l e r f).copies := and_congr_right fun _ => by rw [stashKib_congr hctxs]
      have hvals (k : Nat) : (List.range (lOut r)).map (tokenOut s1 bad l e r f k) = (List.range (lOut r)).map (out k) :=
        List.map_congr_left fun o _ => by
          unfold tokenOut
          rw [hpassed.outCore]
          rfl
      refine ⟨t, hexec, hafter, fun k hk => ?_, fun hs => ?_, fun b hb hfree hs => ?_, honly⟩
      · refine (congrArg (memGet t · _) (tokenAddr_eq ..)).trans ((hrows k hk).trans ?_)
        show Safety.groupBytes s1 l e.tOut.toNat f.out (outCore s1 r) ((List.range (lOut r)).map (tokenOut s1 bad l e r f k)) = _
        rw [hpassed.outCore, hvals]
        rfl
      · rw [← hplace]
        exact hcopied (hcopies.1 hs)
      · refine (hleft b ⟨hb, mt (hpassed.sealedBy _ _ _).1 hfree, fun hc => ?_⟩).trans (hpassed.only .memory (by decide) b)
        obtain ⟨hfar, hunsealed⟩ := hs (hcopies.2 hc)
        have hapart : (b < (fwdBatch s1 bad l e r f).stash ∨ (fwdBatch s1 bad l e r f).stash + copied ≤ b) ∧
            ¬ sealedBy s1 (fwdBatch s1 bad l e r f).stash copied b := by
          rw [hplace]
          exact ⟨hfar, mt (hpassed.sealedBy _ _ _).1 hunsealed⟩
        exact hapart
  · intro n sn bytes src sb stash coreAt dst size engines reads s1 bad value
    refine ⟨backward_waits hat hmb hlayer happly, fun himage hleft hrank =>
      ⟨backward_asleep hat hmb hlayer happly himage hleft hrank, fun hawake hok =>
      ⟨backward_faulted hat hmb hlayer happly himage hleft hrank hawake hok, ?_⟩⟩⟩
    intro hgo hpoison howner hstore hself hreads
    obtain ⟨t, hexec, hafter, hrows, hleft', honly⟩ :=
      backward_ends hat hmb hlayer happly himage hleft hrank hawake hok hgo hpoison ⟨howner, hstore, hself, hreads⟩
    have hpassed : Passed s s1 := consume_passed hgo
    have hvals (k i : Nat) : columnValue s1 bad l e r f k i = value k i := by
      have hcores (c : Nat) : Machine.core s1 c = Machine.core s c := by rw [Machine.core, hpassed.only .cores (by decide), Machine.core]
      unfold columnValue columnFold stashedIn
      rw [hpassed.columnCore, hpassed.bwdStash, hcores]
      cases hslot : f.slot with
      | none => simp only [value, hslot]; rfl
      | some j => simp only [value, hslot]; rfl
    refine ⟨t, hexec, hafter, fun k hk => ?_, fun b hb hfree => hleft' b ⟨hb, hfree, False.elim⟩, honly⟩
    refine (congrArg (memGet t · _) (tokenAddr_eq ..)).trans ((hrows k hk).trans ?_)
    show Safety.groupBytes s1 l e.tOut.toNat f.out (columnCore s1 r)
      ((List.range (lIn r)).map fun i => (columnValue s1 bad l e r f k i, false)) = _
    rw [hpassed.columnCore]
    simp only [hvals]
    rfl

end Sys2Proof.Laws
